-- ==== Sys2Proof/Word.lean ====
section
/-! DEFINITION. The word types of the K9 (00 R9, R12). -/

namespace Sys2Proof

/-- A byte of memory. -/
abbrev Byte := BitVec 8

/-- A 32-bit register value (v and s registers, instruction words). -/
abbrev Word := BitVec 32

/-- A 64-bit value (a register pair, a cell). -/
abbrev Dbl := BitVec 64

/-- A set of the lanes of a team (R144): lane l is bit l. -/
abbrev LaneSet := BitVec 1024

/-- The 32-bit word of a natural number, modulo 2^32. -/
abbrev word (n : Nat) : Word := BitVec.ofNat 32 n

/-- Keyed plain data: a list of key and value pairs. -/
abbrev Tab (α : Type) := List (Nat × α)

end Sys2Proof
end

