-- ==== Sys2Proof/Syntax.lean ====
section
/-! DEFINITION. Syntax of the K9 (Etmon level 3): one constructor of `Instr` per row of spec/opcode_table.json,
with the fields of the row's format (12 Tables 12-4 to 12-9, 14-2) as bit vectors of the field's width. The guard
(word 0 bits 24:21), which every instruction has, is decoded beside it and stands in State while the instruction
executes. Rows without an assembly form are the steps of the machine's units (95); what such a step acts on is its
`Input`, which stands in State beside the guard. (Lean's compiler holds at most 244 constructors with fields in one
type, and the table has 343 rows.) -/

namespace Sys2Proof

/-- Guard field of word 0, bits 24:21 (R263): bit 24 negates, bits 23:21 select p0-p7. -/
structure Guard where
  neg : BitVec 1
  p   : BitVec 3
  deriving DecidableEq, Repr

/-- Format R (Table 12-4); V is the row's. -/
structure OpR where
  d : BitVec 6
  a : BitVec 6
  b : BitVec 6
  h : BitVec 2
  deriving DecidableEq, Repr

/-- Formats G and X, word 0 (Table 12-4); FN is the row's. -/
structure OpG where
  d : BitVec 6
  a : BitVec 6
  b : BitVec 6
  deriving DecidableEq, Repr

/-- Format U (Table 12-4); FN is the row's and V is 0. -/
structure OpU where
  d : BitVec 6
  a : BitVec 6
  h : BitVec 2
  deriving DecidableEq, Repr

/-- Format I (Table 12-4). -/
structure OpI where
  d   : BitVec 6
  a   : BitVec 6
  imm : BitVec 9
  deriving DecidableEq, Repr

/-- Format C (Table 12-4). -/
structure OpC where
  d  : BitVec 6
  a  : BitVec 6
  b  : BitVec 6
  cc : BitVec 3
  deriving DecidableEq, Repr

/-- Format J (Table 12-4). -/
structure OpJ where
  off : BitVec 21
  deriving DecidableEq, Repr

/-- BRD (R365, R270): the signed word offset T of bits 20:3 and the join offset of word 1. -/
structure OpB where
  t : BitVec 18
  j : BitVec 32
  deriving DecidableEq, Repr

/-- XMEM (Table 12-5). -/
structure XMem where
  scope : BitVec 5
  ord   : BitVec 2
  sz    : BitVec 3
  ub    : BitVec 1
  sx    : BitVec 1
  off   : BitVec 20
  deriving DecidableEq, Repr

/-- XATM (Table 12-6). -/
structure XAtm where
  scope : BitVec 5
  ord   : BitVec 2
  aop   : BitVec 4
  aty   : BitVec 3
  ub    : BitVec 1
  off   : BitVec 17
  deriving DecidableEq, Repr

/-- XMAT (Table 12-7). -/
structure XMat where
  c   : BitVec 4
  slc : BitVec 2
  sx  : BitVec 6
  ix  : BitVec 4
  ty  : BitVec 8
  nr  : BitVec 4
  nc  : BitVec 4
  deriving DecidableEq, Repr

/-- Second word of MLD, MST and MLDW (Table 14-2). -/
structure MMem where
  scope : BitVec 5
  shp   : BitVec 1
  sx    : BitVec 6
  res   : BitVec 2
  ord   : BitVec 2
  ty    : BitVec 8
  nr    : BitVec 4
  nc    : BitVec 4
  deriving DecidableEq, Repr

/-- XASY (Table 12-8). -/
structure XAsy where
  scope : BitVec 5
  acq   : BitVec 1
  rel   : BitVec 1
  bos   : BitVec 6
  rm    : BitVec 3
  len   : BitVec 16
  deriving DecidableEq, Repr

/-- Literal word of 0x0B and 0x19 (Table 12-9). -/
structure XLit where
  xl : BitVec 32
  deriving DecidableEq, Repr

/-- Field word of 0x08 (Table 12-9). -/
structure XBf where
  res : BitVec 22
  pos : BitVec 5
  len : BitVec 5
  deriving DecidableEq, Repr

/-- Selecting word of 0x0F (Table 12-9). -/
structure XSel where
  res  : BitVec 26
  psel : BitVec 6
  deriving DecidableEq, Repr

/-- Conversion word of 0x2A (Table 12-9). -/
structure XCvt where
  res : BitVec 13
  rmo : BitVec 2
  sat : BitVec 1
  dt  : BitVec 8
  st  : BitVec 8
  deriving DecidableEq, Repr

/-- Fence word of 0x45 (Table 12-9). -/
structure XFence where
  scope : BitVec 5
  ord   : BitVec 2
  res   : BitVec 21
  paths : BitVec 4
  deriving DecidableEq, Repr

/-- Barrier word of 0x48 (Table 12-9). -/
structure XBar where
  scope : BitVec 5
  res   : BitVec 14
  immf  : BitVec 1
  value : BitVec 12
  deriving DecidableEq, Repr

/-- Marker word of 0x49 (Table 12-9). -/
structure XMark where
  scope : BitVec 5
  res   : BitVec 27
  deriving DecidableEq, Repr

/-- TLBINV word of 0x75 (Table 12-9); KIND is the row's. -/
structure XTlb where
  res  : BitVec 18
  asid : BitVec 12
  deriving DecidableEq, Repr

/-- A team, by its group's identifier and its ROLE. -/
structure TRef where
  gid  : Nat
  role : Nat
  deriving DecidableEq, Repr

/-- A path slot of a team (R150). -/
structure Ref where
  gid  : Nat
  role : Nat
  slot : Nat
  deriving DecidableEq, Repr

/-- A queue of a context, by queue-table index (R180); index 64 is the transport ring (R396). -/
structure QRef where
  asid : Nat
  q    : Nat
  deriving DecidableEq, Repr

/-- An atomic request (Table 12-6): operation, type, operand and CAS's new value. -/
structure AtomReq where
  op : BitVec 4
  ty : BitVec 3
  b  : BitVec 64
  c  : BitVec 64
  deriving DecidableEq, Repr

/-- A PCIe or transport RMW (R392, Table 18-3): FetchAdd, Swap, CAS. -/
inductive BusOp where
  | add | swap | cas
  deriving DecidableEq, Repr

/-- What the header flit of a transport frame holds beside its type (R395): the sending and the receiving peer id, the remote
ASID, the channel sequence, REL; and the sending context, which names the channel (log 52). -/
structure FrameHdr where
  sender   : Nat
  receiver : Nat
  src      : Nat
  asid     : Nat
  seq      : Nat
  rel      : Bool
  deriving DecidableEq, Repr

/-- The header of the answer to a frame: from its receiver to its sender, about the same channel sequence. -/
def FrameHdr.reply (h : FrameHdr) : FrameHdr :=
  { sender := h.receiver, receiver := h.sender, src := h.asid, asid := h.src, seq := h.seq, rel := false }

/-- The fields of a CTXOP write other than op (Table 18-1): token or index, and ASID. -/
structure CtxCmd where
  index : BitVec 16
  asid  : BitVec 12
  deriving DecidableEq, Repr

/-- Where a soft error lies (R68). -/
inductive SoftPlace where
  | l1 (core line : Nat)
  | rdc (die line : Nat)
  | pathCache (core path line : Nat)
  | cellCache (cell line : Nat)
  | l2 (line : Nat)
  | spad (gid off : Nat)
  | creel (cell slot : Nat)
  | deferral (index : Nat)
  deriving DecidableEq, Repr

/-- A point of a curve in coordinates; none is the point at infinity. -/
abbrev Point := Option (Nat × Nat)

/-- A firmware image in a slot of the flash (R399): its bytes, its version, the signing key, its ECDSA signature. -/
structure FlashImage where
  image   : List Byte
  version : Nat
  key     : Nat × Nat
  sig     : Nat × Nat
  deriving DecidableEq, Repr

/-- What a step of a unit acts on. -/
inductive Input where
  | none
  | one (a : Nat)
  | two (a b : Nat)
  | three (a b c : Nat)
  | team (t : TRef)
  | clause (t : TRef) (clause : Nat)
  | path (r : Ref)
  | swap (core : Nat) (leaves enters : TRef)
  | queue (q : QRef)
  | packet (q : QRef) (index : Nat)
  | write (die pa : Nat) (bytes : List Byte)
  | atomic (core pa : Nat) (req : AtomReq)
  | writes (reqs : List (Nat × Nat × List Byte))
  | atomics (reqs : List (Nat × Nat × AtomReq))
  | soft (place : SoftPlace) (correctable : Bool)
  | scrub (bad : List Nat)
  | frameAppend (hdr : FrameHdr) (queue : Nat) (packet : BitVec 512)
  | frameWrite (hdr : FrameHdr) (va : Nat) (bytes : List Byte)
  | frameAtomic (hdr : FrameHdr) (va : Nat) (op : BusOp) (a b : BitVec 64)
  | frameMark (hdr : FrameHdr) (src : Nat) (value : BitVec 64)
  | ack (asid peer seq : Nat) (old : BitVec 64)
  | command (c : CtxCmd)
  | reg (offset : Nat) (value : BitVec 64)
  | regRead (offset : Nat)
  | hostWrite (offset : Nat) (bytes : List Byte)
  | hostAtomic (offset : Nat) (op : BusOp) (wide : Bool) (a b : BitVec 64)
  | boot (slotA slotB : Option FlashImage) (certificate : List Byte)
  | msg (bytes : List Byte)
  | nonce (n : BitVec 256)
  | data (req : Nat) (value : BitVec 64)
  deriving DecidableEq, Repr

/-- The instructions and steps of the K9: one constructor per row of spec/opcode_table.json. -/
inductive Instr where
  /-- IADD (R284). Adds two v registers modulo 2^32 in each active lane. -/
  | iadd (o : OpR)
  /-- ISUB (R284). Subtracts two v registers modulo 2^32 in each active lane. -/
  | isub (o : OpR)
  /-- IMUL (R284). Multiplies two v registers modulo 2^32. -/
  | imul (o : OpR)
  /-- IMAD (R284). Multiplies two v registers and adds the addend taken from D, modulo 2^32. -/
  | imad (o : OpR)
  /-- IMULH_I32 (R284). Writes the high 32 bits of the signed 64-bit product. -/
  | imulhI32 (o : OpG)
  /-- IMULH_N32 (R284). Writes the high 32 bits of the unsigned 64-bit product. -/
  | imulhN32 (o : OpG)
  /-- IMULW_I32 (R284). Writes the exact signed 64-bit product to a pair. -/
  | imulwI32 (o : OpG)
  /-- IMULW_N32 (R284). Writes the exact unsigned 64-bit product to a pair. -/
  | imulwN32 (o : OpG)
  /-- AND (R286). Bitwise AND of two registers. -/
  | andV (o : OpG)
  /-- OR (R286). Bitwise OR of two registers. -/
  | orV (o : OpG)
  /-- XOR (R286). Bitwise XOR of two registers. -/
  | xorV (o : OpG)
  /-- ANDN (R286). AND of a with the complement of b. -/
  | andn (o : OpG)
  /-- ORN (R286). OR of a with the complement of b. -/
  | orn (o : OpG)
  /-- XNOR (R286). Complement of the XOR of two registers. -/
  | xnor (o : OpG)
  /-- SHL (R286). Shifts left by an unsigned count; 32 or more gives 0. -/
  | shl (o : OpG)
  /-- SHR (R286). Logical right shift by an unsigned count. -/
  | shr (o : OpG)
  /-- SAR (R286). Arithmetic right shift by an unsigned count. -/
  | sar (o : OpG)
  /-- ROL (R286). Rotates left by b mod 32. -/
  | rol (o : OpG)
  /-- ROR (R286). Rotates right by b mod 32. -/
  | ror (o : OpG)
  /-- SHL64 (R286). Shifts a 64-bit pair left by a 32-bit count. -/
  | shl64 (o : OpG)
  /-- SHR64 (R286). Logical right shift of a 64-bit pair. -/
  | shr64 (o : OpG)
  /-- SAR64 (R286). Arithmetic right shift of a 64-bit pair. -/
  | sar64 (o : OpG)
  /-- IMIN_I32 (R285). Signed minimum of two registers. -/
  | iminI32 (o : OpG)
  /-- IMAX_I32 (R285). Signed maximum of two registers. -/
  | imaxI32 (o : OpG)
  /-- IMIN_N32 (R285). Unsigned minimum of two registers. -/
  | iminN32 (o : OpG)
  /-- IMAX_N32 (R285). Unsigned maximum of two registers. -/
  | imaxN32 (o : OpG)
  /-- IABS (R285). Absolute value, wrapping at 2^32. -/
  | iabs (o : OpG)
  /-- INEG (R285). Negation, wrapping at 2^32. -/
  | ineg (o : OpG)
  /-- IADDS_I32 (R285). Signed addition clamped to the i32 range. -/
  | iaddsI32 (o : OpG)
  /-- IADDS_N32 (R285). Unsigned addition clamped to 0xFFFF_FFFF. -/
  | iaddsN32 (o : OpG)
  /-- POPC (R286). Counts the one bits of a. -/
  | popc (o : OpU)
  /-- CLZ (R286). Counts leading zero bits; zero gives 32. -/
  | clz (o : OpU)
  /-- CTZ (R286). Counts trailing zero bits; zero gives 32. -/
  | ctz (o : OpU)
  /-- BREV (R286). Reverses the bit order of a. -/
  | brev (o : OpU)
  /-- BSWAP (R286). Reverses the byte order of a. -/
  | bswap (o : OpU)
  /-- NOT (R286). Bitwise complement of a. -/
  | notV (o : OpU)
  /-- BFE_I32 (R287). Extracts a bit field and sign-extends it. -/
  | bfeI32 (o : OpG) (x : XBf)
  /-- BFE_N32 (R287). Extracts a bit field and zero-extends it. -/
  | bfeN32 (o : OpG) (x : XBf)
  /-- BFI (R287). Inserts the low bits of a into a field of D. -/
  | bfi (o : OpG) (x : XBf)
  /-- IADDI (R284). Adds a sign-extended 9-bit immediate to a. -/
  | iaddi (o : OpI)
  /-- MOV (R288). Copies a v register. -/
  | mov (o : OpU)
  /-- MOVK (R288). Loads a 32-bit literal from word 1. -/
  | movk (o : OpG) (x : XLit)
  /-- MOVK_W (R288). Loads a sign-extended 32-bit literal into a pair. -/
  | movkW (o : OpG) (x : XLit)
  /-- ICMP_I32 (R289). Signed compare writing a predicate under condition CC. -/
  | icmpI32 (o : OpC)
  /-- ICMP_N32 (R289). Unsigned compare writing a predicate under condition CC. -/
  | icmpN32 (o : OpC)
  /-- IADD64 (R284). Adds two 64-bit pairs modulo 2^64. -/
  | iadd64 (o : OpR)
  /-- ISUB64 (R284). Subtracts two 64-bit pairs modulo 2^64. -/
  | isub64 (o : OpR)
  /-- SEL (R288). Selects a or b by a predicate named in word 1. -/
  | sel (o : OpG) (x : XSel)
  /-- LEA (R285). Forms a 64-bit address from a base pair plus a scaled signed index. -/
  | lea (o : OpG) (sh : BitVec 3)
  /-- PAND (R290). Predicate AND. -/
  | pand (o : OpG)
  /-- POR (R290). Predicate OR. -/
  | por (o : OpG)
  /-- PXOR (R290). Predicate XOR. -/
  | pxor (o : OpG)
  /-- PANDN (R290). Predicate AND with the complement of pb. -/
  | pandn (o : OpG)
  /-- PMOV (R290). Copies a predicate. -/
  | pmov (o : OpG)
  /-- PNOT (R290). Complements a predicate. -/
  | pnot (o : OpG)
  /-- PSETV (R290). Sets a predicate to whether a v register is non-zero. -/
  | psetv (o : OpG)
  /-- PGETV (R290). Writes 1 or 0 to a v register from a predicate. -/
  | pgetv (o : OpG)
  /-- VOTE_ANY (R292). Writes whether the predicate is true in any participant. -/
  | voteAny (o : OpG)
  /-- VOTE_ALL (R292). Writes whether the predicate is true in every participant. -/
  | voteAll (o : OpG)
  /-- VOTE_BALLOT (R292). Writes the ballot word of one mask word chosen by an s register. -/
  | voteBallot (o : OpG)
  /-- VOTE_COUNT (R292). Writes the number of participants whose predicate is true. -/
  | voteCount (o : OpG)
  /-- CABLE_AT (R293). Takes a from the lane at position b within the mask word. -/
  | cableAt (o : OpG)
  /-- CABLE_BACK (R293). Takes a from the lane b positions below. -/
  | cableBack (o : OpG)
  /-- CABLE_FWD (R293). Takes a from the lane b positions above. -/
  | cableFwd (o : OpG)
  /-- CABLE_FLIP (R293). Takes a from the lane at position i XOR b. -/
  | cableFlip (o : OpG)
  /-- QSWPH (R294). Reads a from the quad partner at q XOR 1. -/
  | qswph (o : OpU)
  /-- QSWPV (R294). Reads a from the quad partner at q XOR 2. -/
  | qswpv (o : OpU)
  /-- QSWPD (R294). Reads a from the quad partner at q XOR 3. -/
  | qswpd (o : OpU)
  /-- QBC0 (R294). Broadcasts a from quad position 0. -/
  | qbc0 (o : OpU)
  /-- QBC1 (R294). Broadcasts a from quad position 1. -/
  | qbc1 (o : OpU)
  /-- QBC2 (R294). Broadcasts a from quad position 2. -/
  | qbc2 (o : OpU)
  /-- QBC3 (R294). Broadcasts a from quad position 3. -/
  | qbc3 (o : OpU)
  /-- FOLD_ADD_I32 (R295). Sums a over the participants modulo 2^32 and writes it to every active lane. -/
  | foldAddI32 (o : OpG)
  /-- FOLD_MIN_I32 (R295). Signed minimum of a over the participants. -/
  | foldMinI32 (o : OpG)
  /-- FOLD_MAX_I32 (R295). Signed maximum of a over the participants. -/
  | foldMaxI32 (o : OpG)
  /-- FOLD_AND (R295). AND of a over the participants. -/
  | foldAnd (o : OpG)
  /-- FOLD_OR (R295). OR of a over the participants. -/
  | foldOr (o : OpG)
  /-- FOLD_XOR (R295). XOR of a over the participants. -/
  | foldXor (o : OpG)
  /-- FOLD_FADD (R295). f32 sum of a over the participants in ascending lane order. -/
  | foldFadd (o : OpG)
  /-- NZS (R296). Compacts the lane numbers of participants with non-zero a and writes their count to an s register. -/
  | nzs (o : OpG)
  /-- SADD (R298). Uniform addition of s registers. -/
  | sadd (o : OpG)
  /-- SSUB (R298). Uniform subtraction of s registers. -/
  | ssub (o : OpG)
  /-- SMUL (R298). Uniform multiplication modulo 2^32. -/
  | smul (o : OpG)
  /-- SAND (R298). Uniform AND. -/
  | sand (o : OpG)
  /-- SOR (R298). Uniform OR. -/
  | sor (o : OpG)
  /-- SXOR (R298). Uniform XOR. -/
  | sxor (o : OpG)
  /-- SSHL (R298). Uniform left shift. -/
  | sshl (o : OpG)
  /-- SSHR (R298). Uniform logical right shift. -/
  | sshr (o : OpG)
  /-- SADDI (R298). Uniform addition of a sign-extended immediate. -/
  | saddi (o : OpI)
  /-- SMOVK (R298). Loads a 32-bit literal into an s register. -/
  | smovk (o : OpG) (x : XLit)
  /-- SMOVK_W (R298). Loads a sign-extended literal into an s pair. -/
  | smovkW (o : OpG) (x : XLit)
  /-- SCMP (R298). Signed uniform compare writing a predicate in every active lane. -/
  | scmp (o : OpC)
  /-- VBC (R299). Broadcasts an s register to a v register in every active lane. -/
  | vbc (o : OpG)
  /-- SFIRST (R299). Copies a v register of the lowest active non-helper lane into an s register. -/
  | sfirst (o : OpG)
  /-- SLANE (R299). Copies a v register of the lane named by an s register into an s register. -/
  | slane (o : OpG)
  /-- FADD (R301). f32 addition rounded under FPC. -/
  | fadd (o : OpR)
  /-- FSUB (R301). f32 subtraction rounded under FPC. -/
  | fsub (o : OpR)
  /-- FMUL (R301). f32 multiplication. -/
  | fmul (o : OpR)
  /-- FFMA (R301). f32 fused multiply-add with the addend in D. -/
  | ffma (o : OpR)
  /-- FMIN (R302). f32 minimumNumber. -/
  | fmin (o : OpG)
  /-- FMAX (R302). f32 maximumNumber. -/
  | fmax (o : OpG)
  /-- FMINP (R302). f32 minimum propagating NaN. -/
  | fminp (o : OpG)
  /-- FMAXP (R302). f32 maximum propagating NaN. -/
  | fmaxp (o : OpG)
  /-- FABS (R302). Clears the sign bit. -/
  | fabs (o : OpG)
  /-- FNEG (R302). Inverts the sign bit. -/
  | fneg (o : OpG)
  /-- FCOPYS (R302). Takes the magnitude of a and the sign of b. -/
  | fcopys (o : OpG)
  /-- FCMP (R303). f32 compare writing a predicate. -/
  | fcmp (o : OpC)
  /-- RCP (R304). Correctly rounded reciprocal. -/
  | rcp (o : OpU)
  /-- RSQ (R304). Correctly rounded reciprocal square root. -/
  | rsq (o : OpU)
  /-- EXP2 (R304). Correctly rounded 2^a. -/
  | exp2 (o : OpU)
  /-- LOG2 (R304). Correctly rounded log2 a. -/
  | log2 (o : OpU)
  /-- SINR (R304). Sine of a revolutions. -/
  | sinr (o : OpU)
  /-- COSR (R304). Cosine of a revolutions. -/
  | cosr (o : OpU)
  /-- TANH (R304). Hyperbolic tangent. -/
  | tanh (o : OpU)
  /-- FLOOR (R305). Largest integral value not above a. -/
  | floor (o : OpU)
  /-- CEIL (R305). Smallest integral value not below a. -/
  | ceil (o : OpU)
  /-- TRUNC (R305). Integral value towards zero. -/
  | trunc (o : OpU)
  /-- RINT (R305). Integral value under FPC.RM. -/
  | rint (o : OpU)
  /-- FRACT (R305). Fractional part, capped below 1.0. -/
  | fract (o : OpU)
  /-- FDIV (R306). Correctly rounded f32 division. -/
  | fdiv (o : OpG)
  /-- FSQRT (R306). Correctly rounded f32 square root. -/
  | fsqrt (o : OpG)
  /-- HADD2 (R307). Packed f16 addition. -/
  | hadd2 (o : OpG)
  /-- HSUB2 (R307). Packed f16 subtraction. -/
  | hsub2 (o : OpG)
  /-- HMUL2 (R307). Packed f16 multiplication. -/
  | hmul2 (o : OpG)
  /-- HFMA2 (R307). Packed f16 fused multiply-add. -/
  | hfma2 (o : OpG)
  /-- HMIN2 (R307). Packed f16 minimumNumber. -/
  | hmin2 (o : OpG)
  /-- HMAX2 (R307). Packed f16 maximumNumber. -/
  | hmax2 (o : OpG)
  /-- BADD2 (R307). Packed bf16 addition. -/
  | badd2 (o : OpG)
  /-- BSUB2 (R307). Packed bf16 subtraction. -/
  | bsub2 (o : OpG)
  /-- BMUL2 (R307). Packed bf16 multiplication. -/
  | bmul2 (o : OpG)
  /-- BFMA2 (R307). Packed bf16 fused multiply-add. -/
  | bfma2 (o : OpG)
  /-- BMIN2 (R307). Packed bf16 minimumNumber. -/
  | bmin2 (o : OpG)
  /-- BMAX2 (R307). Packed bf16 maximumNumber. -/
  | bmax2 (o : OpG)
  /-- DADD (R308). f64 addition on pairs. -/
  | dadd (o : OpG)
  /-- DSUB (R308). f64 subtraction. -/
  | dsub (o : OpG)
  /-- DMUL (R308). f64 multiplication. -/
  | dmul (o : OpG)
  /-- DFMA (R308). f64 fused multiply-add. -/
  | dfma (o : OpG)
  /-- DMIN (R308). f64 minimumNumber. -/
  | dmin (o : OpG)
  /-- DMAX (R308). f64 maximumNumber. -/
  | dmax (o : OpG)
  /-- DDIV (R308). f64 division. -/
  | ddiv (o : OpG)
  /-- DSQRT (R308). f64 square root. -/
  | dsqrt (o : OpG)
  /-- DCMP (R303). f64 compare writing a predicate. -/
  | dcmp (o : OpC)
  /-- CVT (R309). Converts between types by Convert of R233. -/
  | cvt (o : OpG) (x : XCvt)
  /-- MSHAPE_IMM (R316). Sets an immediate shape tag in every active lane, keeping the bytes. -/
  | mshapeImm (o : OpG) (x : XMat)
  /-- MSHAPE_LANE (R316). Sets each lane's shape tag from a v register. -/
  | mshapeLane (o : OpG) (x : XMat)
  /-- MLD (R319). Address-form matrix load with a row stride. -/
  | mld (o : OpG) (x : MMem)
  /-- MLD_T (R319). Tensor-form matrix load over the tile-layout path. -/
  | mldT (o : OpG) (x : MMem)
  /-- MST (R319). Address-form matrix store. -/
  | mst (o : OpG) (x : MMem)
  /-- MST_T (R319). Tensor-form matrix store. -/
  | mstT (o : OpG) (x : MMem)
  /-- MLDW (R321). Loads and expands q4 or q3 weights to bf16. -/
  | mldw (o : OpG) (x : MMem)
  /-- MMUL (R322). Per-lane matrix product from a zero accumulator. -/
  | mmul (o : OpG) (x : XMat)
  /-- MMA (R322). Per-lane matrix multiply-accumulate. -/
  | mma (o : OpG) (x : XMat)
  /-- MMAT (R322). Matrix multiply-accumulate with A transposed. -/
  | mmat (o : OpG) (x : XMat)
  /-- MMAB (R322). Matrix multiply-accumulate with B transposed. -/
  | mmab (o : OpG) (x : XMat)
  /-- MADD (R323). Element-wise matrix addition. -/
  | madd (o : OpG) (x : XMat)
  /-- MSUB (R323). Element-wise matrix subtraction. -/
  | msub (o : OpG) (x : XMat)
  /-- MHAD (R323). Element-wise matrix product. -/
  | mhad (o : OpG) (x : XMat)
  /-- MSCAL (R323). Scales a matrix or a slice by a v scalar. -/
  | mscal (o : OpG) (x : XMat)
  /-- MEXP2 (R323). Element-wise 2^a. -/
  | mexp2 (o : OpG) (x : XMat)
  /-- MMAX (R323). Element-wise maximum. -/
  | mmax (o : OpG) (x : XMat)
  /-- MZERO (R317). Zeroes every byte of a matrix register, keeping its tag. -/
  | mzero (o : OpG) (x : XMat)
  /-- MCVT (R323). Converts every element to a destination type under RNE. -/
  | mcvt (o : OpG) (x : XMat)
  /-- MTRN (R317). Transposes a matrix. -/
  | mtrn (o : OpG) (x : XMat)
  /-- MMOV (R317). Copies a matrix or a slice of it. -/
  | mmov (o : OpG) (x : XMat)
  /-- MGET (R317). Reads one element into a v register. -/
  | mget (o : OpG) (x : XMat)
  /-- MPUT (R317). Writes one element from a v register. -/
  | mput (o : OpG) (x : XMat)
  /-- MRED (R318). Reduces a matrix or slice by ADD, MAX or MIN into a v register. -/
  | mred (o : OpG) (x : XMat)
  /-- MSHGET (R317). Reads a shape tag into a v register. -/
  | mshget (o : OpG) (x : XMat)
  /-- MINV (R324). Inverts a square matrix per lane with a success predicate. -/
  | minv (o : OpG) (x : XMat)
  /-- MLU (R324). Doolittle LU factorisation per lane with a success predicate. -/
  | mlu (o : OpG) (x : XMat)
  /-- MCHOL (R324). Cholesky factorisation per lane with a success predicate. -/
  | mchol (o : OpG) (x : XMat)
  /-- MSOLVL (R325). Forward substitution with a lower-triangular matrix. -/
  | msolvl (o : OpG) (x : XMat)
  /-- MSOLVU (R325). Backward substitution with an upper-triangular matrix. -/
  | msolvu (o : OpG) (x : XMat)
  /-- MPOW (R326). Raises a square matrix to an 8-bit power. -/
  | mpow (o : OpG) (x : XMat)
  /-- MDET (R326). Writes a square matrix's determinant to a v register. -/
  | mdet (o : OpG) (x : XMat)
  /-- TOPK_INS (R327). Inserts a score and index into a per-lane top-k list. -/
  | topkIns (o : OpG) (x : XMat)
  /-- TOPK_GET (R327). Reads entry j of a top-k list into a v pair. -/
  | topkGet (o : OpG) (x : XMat)
  /-- TOPK_CLR (R327). Initialises a top-k list of capacity k. -/
  | topkClr (o : OpG) (x : XMat)
  /-- LD_G (R332). Loads from global memory through the L1. -/
  | ldG (o : OpG) (x : XMem)
  /-- LD_L (R332). Loads from scratchpad or the gang window. -/
  | ldL (o : OpG) (x : XMem)
  /-- LD_P (R332). Loads from the lane's private space. -/
  | ldP (o : OpG) (x : XMem)
  /-- LD_C (R332). Loads through the constant path. -/
  | ldC (o : OpG) (x : XMem)
  /-- ST_G (R332). Stores to global memory under the scope-rank policy. -/
  | stG (o : OpG) (x : XMem)
  /-- ST_L (R332). Stores to scratchpad at the owning core. -/
  | stL (o : OpG) (x : XMem)
  /-- ST_P (R332). Stores to the lane's private space. -/
  | stP (o : OpG) (x : XMem)
  /-- ST_GW (R332). Stores to global memory, written through to the home slice. -/
  | stGw (o : OpG) (x : XMem)
  /-- ATOM (R337). Global atomic RMW returning the old value. -/
  | atom (o : OpG) (x : XAtm)
  /-- RED (R337). Global atomic reduction returning nothing. -/
  | red (o : OpG) (x : XAtm)
  /-- ATOM_L (R337). Scratchpad atomic RMW at the owning core. -/
  | atomL (o : OpG) (x : XAtm)
  /-- RED_L (R337). Scratchpad reduction at the owning core. -/
  | redL (o : OpG) (x : XAtm)
  /-- LDF (R339). Loads a future cell, parking lanes whose cell is empty. -/
  | ldf (o : OpG) (x : XMem)
  /-- STF (R340). Writes a future cell through to the home slice as a release. -/
  | stf (o : OpG) (x : XMem)
  /-- FENCE (R341). Acquire, release or full fence at a scope. -/
  | fence (o : OpG) (x : XFence)
  /-- PFENCE (R342). Writes back, then invalidates named path caches over a scope. -/
  | pfence (o : OpG) (x : XFence)
  /-- WBACK (R343). Writes back the dirty bytes of an L1 line without ordering. -/
  | wback (o : OpG) (x : XMem)
  /-- SMP (R334). Gathers over the sampler path. -/
  | smp (o : OpG) (x : XMem)
  /-- LDT (R335). Reads one tensor element per lane over the tile-layout path. -/
  | ldt (o : OpG) (x : XMem)
  /-- BINIT (R346). Initialises a barrier object and releases. -/
  | binit (o : OpG) (x : XBar)
  /-- BARV (R346). Releases and arrives once on a barrier object. -/
  | barv (o : OpG) (x : XBar)
  /-- BEXP (R346). Adds to a barrier object's expected sectors. -/
  | bexp (o : OpG) (x : XBar)
  /-- BWAIT (R346). Sleeps until the object's phase differs, then acquires. -/
  | bwait (o : OpG) (x : XBar)
  /-- BTEST (R346). Tests whether the object's phase has changed. -/
  | btest (o : OpG) (x : XBar)
  /-- BARVX (R346). Adds an expectation and arrives several times in one step. -/
  | barvx (o : OpG) (x : XBar)
  /-- MARK (R347). Publishes a name in a marker register and the core CAM. -/
  | mark (o : OpG) (x : XMark)
  /-- UNMARK (R347). Clears a marker with a release and starts a re-sweep pass. -/
  | unmark (o : OpG) (x : XMark)
  /-- FROG (R347). Releases and requests a sweep for a name, writing 0, 1 or 2. -/
  | frog (o : OpG) (x : XMark)
  /-- FROGQ (R347). Pops the oldest free notice of the context. -/
  | frogq (o : OpG) (x : XMark)
  /-- PREF (R344). Prefetches a line into the L1, RDC or home L2. -/
  | pref (o : OpG) (x : XMem)
  /-- CPY_GL (R356). Copies global memory into scratchpad asynchronously. -/
  | cpyGl (o : OpG) (x : XAsy)
  /-- CPY_LG (R356). Copies scratchpad into global memory asynchronously. -/
  | cpyLg (o : OpG) (x : XAsy)
  /-- CPYT (R357). Copies a tensor tile into scratchpad. -/
  | cpyt (o : OpG) (x : XAsy)
  /-- CPYT_G (R357). Copies a tensor tile to a global destination. -/
  | cpytG (o : OpG) (x : XAsy)
  /-- CPYM (R358). Multicasts a tile into a creel slot for gang receivers. -/
  | cpym (o : OpG) (x : XAsy)
  /-- CPYG (R356). Copies global memory to global memory. -/
  | cpyg (o : OpG) (x : XAsy)
  /-- CDRAIN (R359). Drains the oldest creel slot naming this member into scratchpad. -/
  | cdrain (o : OpG) (x : XAsy)
  /-- QAPP (R360). Appends a 64-byte packet from scratchpad to a queue. -/
  | qapp (o : OpG) (x : XAsy)
  /-- LAUNCH (R360). Appends a launch record to the device launch queue. -/
  | launch (o : OpG) (x : XAsy)
  /-- RAPP (R362). Appends one record per active lane to a stream source. -/
  | rapp (o : OpG) (x : XAsy)
  /-- WMADV (R363). Advances a source's watermark. -/
  | wmadv (o : OpG) (x : XAsy)
  /-- SCLOSE (R363). Closes a source and raises its watermark to +infinity. -/
  | sclose (o : OpG) (x : XAsy)
  /-- WPUB (R364). Publishes a fire grid's window result header. -/
  | wpub (o : OpG) (x : XAsy)
  /-- WPUB_AMEND (R364). Publishes an amend grid's window result header. -/
  | wpubAmend (o : OpG) (x : XAsy)
  /-- BRA (R366). Uniform relative branch. -/
  | bra (o : OpJ)
  /-- BRD (R367). Divergent branch splitting the path with a join clause. -/
  | brd (o : OpB)
  /-- BRX (R365). Uniform branch to an address in an s pair. -/
  | brx (o : OpG)
  /-- CALLX (R368). Uniform call to an address in an s pair, writing s62-s63. -/
  | callx (o : OpG)
  /-- CALL (R368). Uniform relative call writing the return address to s62-s63. -/
  | call (o : OpJ)
  /-- RET (R368). Returns to the address in an s pair. -/
  | ret (o : OpU)
  /-- RGIVE (R157). Gives register blocks to the group pool. -/
  | rgive (o : OpG)
  /-- RCLAIM (R157). Claims register blocks from the group pool, writing success. -/
  | rclaim (o : OpG)
  /-- SRD (R278). Reads a special register into a v register. -/
  | srd (o : OpU) (ix : BitVec 6)
  /-- SWR (R278). Writes a special register from a v register. -/
  | swr (o : OpU) (ix : BitVec 6)
  /-- TRAP (R372). Enters the context's trap handler with a trap number. -/
  | trap (o : OpI)
  /-- TRAP_RETURN (R379). In handler state, trap 511 restores s60-s61 and resumes the path. -/
  | trapReturn (o : OpI)
  /-- TRAP_TERMINATE (R379). In handler state, trap 510 terminates the grid. -/
  | trapTerminate (o : OpI)
  /-- TLBINV_ALL (R373). Invalidates every TLB and walk-cache entry. -/
  | tlbinvAll (o : OpG) (x : XTlb)
  /-- TLBINV_ASID (R373). Invalidates the entries of one ASID. -/
  | tlbinvAsid (o : OpG) (x : XTlb)
  /-- TLBINV_PAGE (R373). Invalidates one ASID's entries for one page. -/
  | tlbinvPage (o : OpG) (x : XTlb)
  /-- TLBINV_GPAGE (R373). Invalidates global entries for one page. -/
  | tlbinvGpage (o : OpG) (x : XTlb)
  /-- IMAD24_I24 (R382). Retired signed 24-bit multiply-add, emulated at level 3. -/
  | imad24I24 (o : OpR)
  /-- IMAD24_N24 (R382). Retired unsigned 24-bit multiply-add, emulated at level 3. -/
  | imad24N24 (o : OpR)
  /-- DOT4I8_I8 (R382). Retired signed 4-byte dot product, emulated at level 3. -/
  | dot4i8I8 (o : OpG)
  /-- DOT4I8_N8 (R382). Retired unsigned 4-byte dot product, emulated at level 3. -/
  | dot4i8N8 (o : OpG)
  /-- LDRO (R382). Retired read-only load, emulated as a plain LD.g. -/
  | ldro (o : OpG) (x : XMem)
  /-- SUCC (R361). Marks the group so its successor may become resident early. -/
  | succ
  /-- PREDW (R361). Waits on the group's predecessor object, acquiring at module scope. -/
  | predw
  /-- EXIT (R369). Removes active lanes from the path's mask. -/
  | exit
  /-- END (R369). Ends the whole team. -/
  | endTeam
  /-- NOP (R370). Does nothing. -/
  | nop
  /-- YIELD (R370). Leaves the active set if a pending team is ready. -/
  | yield
  /-- BKPT (R372). Enters the trap handler with cause 0x21. -/
  | bkpt
  /-- ERET (R372). Supervisor return from the trap handler. -/
  | eret
  /-- CLAUSE_START (R259). A ready clause is fetched, checked and starts, adding its flag counts. -/
  | clauseStart
  /-- FLAG_RELEASE (R261). A clause's SETA or SETB count is released when its work completes. -/
  | flagRelease
  /-- JOIN_ARRIVAL (R152). A path reaches its join clause and waits, merges, swaps or pops. -/
  | joinArrival
  /-- TEAM_SWAP (R173). A team blocked long swaps with the longest-ready pending team. -/
  | teamSwap
  /-- FORCED_SWAP (R173). A pending team ready for 224 cycles replaces the oldest-issuing active team. -/
  | forcedSwap
  /-- LEAVE_GRANT (R176). The power arbiter's grant arrives and the leave clause may start. -/
  | leaveGrant
  /-- DROOP_STEP (R168). The droop loop changes the die's stretch by one step. -/
  | droopStep
  /-- WATCHDOG_EXPIRY (R178). A grid's watchdog timer reaches its limit and its teams take a watchdog fault. -/
  | watchdogExpiry
  /-- TRAP_DELIVERY (R377). Firmware writes the trap frame and starts the faulting path at TRAPH. -/
  | trapDelivery
  /-- RETIRED_OPCODE_EMULATION (R383). The firmware handler emulates a retired opcode and resumes after it. -/
  | retiredOpcodeEmulation
  /-- GROUP_PREEMPTION (R385). A group is stopped, written back and saved to a save slot. -/
  | groupPreemption
  /-- GROUP_RESUMPTION (R387). A saved group is restored onto a core and issues again. -/
  | groupResumption
  /-- PRIORITY_PREEMPTION (R193). A group waiting 100 µs for room pre-empts lower-priority groups. -/
  | priorityPreemption
  /-- GROUP_DISPATCH (R192). The launch unit places a waiting group or gang on a core with room. -/
  | groupDispatch
  /-- GRID_COMPLETION (R191). A grid whose groups have ended and operations drained completes and writes its completion. -/
  | gridCompletion
  /-- PREDECESSOR_ARRIVAL (R124). The launch unit arrives on successor predecessor objects once the predecessor has retired. -/
  | predecessorArrival
  /-- QUEUE_POLL (R182). The queue engine polls an enabled queue's header and write index. -/
  | queuePoll
  /-- PACKET_LAUNCH (R187). A LAUNCH packet is checked and consumed, or stops the queue. -/
  | packetLaunch
  /-- PACKET_COPY (R189). A COPY packet is checked and handed to a bulk engine. -/
  | packetCopy
  /-- PACKET_SIGNAL (R189). A SIGNAL packet stores or adds a value with release at system scope. -/
  | packetSignal
  /-- PACKET_WAITSEQ (R189). A WAITSEQ packet holds the queue until a word reaches a value. -/
  | packetWaitseq
  /-- WAITSEQ_POLL (R189). A started WAITSEQ re-reads its word every 1,024 ticks. -/
  | waitseqPoll
  /-- PACKET_WMADV (R189). A WMADV packet advances a source at system scope. -/
  | packetWmadv
  /-- PACKET_RECORDS (R189). A RECORDS packet appends records to a source. -/
  | packetRecords
  /-- PACKET_COMPLETION (R191). A packet completes, its completion value is written and CSEQ rises. -/
  | packetCompletion
  /-- ASYNC_COMPLETION (R354). An accepted asynchronous operation completes and signals. -/
  | asyncCompletion
  /-- COPY_SECTOR_LAND (R119). A landed sector credits its barrier object. -/
  | copySectorLand
  /-- CREEL_SLOT_GRANT (R66). A waiting CPYM is granted a creel slot. -/
  | creelSlotGrant
  /-- DRAIN_SLOT_READY (R359). A waiting CDRAIN finds a slot naming its member and copies it. -/
  | drainSlotReady
  /-- QUEUE_APPEND_ROOM (R360). A claimed queue append finds room and writes its packet. -/
  | queueAppendRoom
  /-- HOME_SLICE_READ (R47). A read request is performed at the line's home L2 slice. -/
  | homeSliceRead
  /-- HOME_SLICE_WRITE (R63). A write is performed at the home slice, invalidating RDCs and waking parked futures. -/
  | homeSliceWrite
  /-- FUTURE_CELL_READ (R62). An LDF reads its cell at the home slice and parks or is refused. -/
  | futureCellRead
  /-- DEFERRAL_EXPIRY (R64). A slice scan expires deferral entries past their deadline. -/
  | deferralExpiry
  /-- OWNERSHIP_REQUEST (R58). A near atomic requests line ownership from the home slice. -/
  | ownershipRequest
  /-- FAR_ATOMIC (R58). An atomic executes at the home slice. -/
  | farAtomic
  /-- CONTENDED_EXPIRY (R58). A line's contended mark lapses after 4,096 ticks. -/
  | contendedExpiry
  /-- RDC_INVALIDATION (R48). A die's RDC receives and acknowledges an invalidation. -/
  | rdcInvalidation
  /-- RDC_FILL (R51). An RDC fill arrives and is installed or discarded. -/
  | rdcFill
  /-- SOFT_ERROR (R68). A SECDED error is corrected, dropped, poisoned or expires an entry. -/
  | softError
  /-- PATROL_SCRUB (R402). Memory is scrubbed by patrol once every 24 hours. -/
  | patrolScrub
  /-- SWEEP (R131). The context's sweep sequencer holds CAMs and the parked table and compares a name. -/
  | sweep
  /-- FROG_INTERVAL (R133). ETIME reaches a multiple of the frog interval and starts a re-sweep pass. -/
  | frogInterval
  /-- RESWEEP_PASS (R133). A pass re-sweeps each listed name and frees those no longer matched. -/
  | resweepPass
  /-- RECORD_PLACEMENT (R216). The meridian unit places an appended record into its windows. -/
  | recordPlacement
  /-- STAGE_RECOMPUTE (R215). A binding's stage watermark is recomputed after an input change. -/
  | stageRecompute
  /-- WINDOW_TRANSIT (R218). A window whose end the stage watermark passes transits and launches its fire grid. -/
  | windowTransit
  /-- AMENDMENT_LAUNCH (R220). The unit launches an amend grid for a window's late bin. -/
  | amendmentLaunch
  /-- LATE_TIMER_EXPIRY (R220). LTIMER passes since the oldest late record and triggers an amendment. -/
  | lateTimerExpiry
  /-- WINDOW_FREE (R223). A window past end plus lateness is FROGged and its slot and buffer freed. -/
  | windowFree
  /-- SOURCE_IDLE_SCAN (R214). The scan finds a source idle past IDLET and marks it IDLE. -/
  | sourceIdleScan
  /-- WATERMARK_PROPAGATION (R95). An advance carried over the Nirup fabric is applied by the receiving die's unit. -/
  | watermarkPropagation
  /-- TRANSPORT_DESCRIPTOR (R396). The transport engine consumes a ring descriptor and sends its frame. -/
  | transportDescriptor
  /-- FRAME_QUEUE_APPEND (R396). A received frame appends a packet to a local queue. -/
  | frameQueueAppend
  /-- FRAME_REMOTE_WRITE (R396). A received frame writes bytes at home slices. -/
  | frameRemoteWrite
  /-- FRAME_REMOTE_ATOMIC (R396). A received frame performs an n64 RMW and returns the old value. -/
  | frameRemoteAtomic
  /-- FRAME_WATERMARK (R396). A received watermark frame acts as a WMADV at system scope. -/
  | frameWatermark
  /-- FRAME_ACK (R397). An acknowledgement frame completes earlier frames of a channel. -/
  | frameAck
  /-- FRAME_NACK (R397). A negative acknowledgement causes the channel's frames to be resent. -/
  | frameNack
  /-- TRANSPORT_ACK_TIMEOUT (R397). A frame unacknowledged for 20 µs is resent; after 8 attempts the channel fails. -/
  | transportAckTimeout
  /-- CTXOP_CREATE (R393). Creates a context from the descriptor at CTXADDR. -/
  | ctxopCreate
  /-- CTXOP_RELOAD_SCOPE (R393). Reloads the context's scope table. -/
  | ctxopReloadScope
  /-- CTXOP_RELOAD_QUEUES (R393). Reloads the context's queue table. -/
  | ctxopReloadQueues
  /-- CTXOP_RELOAD_STREAM (R393). Reloads one source or binding descriptor. -/
  | ctxopReloadStream
  /-- CTXOP_KILL (R206). Kills a context and its work. -/
  | ctxopKill
  /-- KILL_COMPLETE (R206). Once engines acknowledge quiescence, kill complete is reported. -/
  | killComplete
  /-- CTXOP_RESUME (R393). Answers a fault token with resume. -/
  | ctxopResume
  /-- CTXOP_DELIVER (R393). Answers a fault token by delivering it to the handler. -/
  | ctxopDeliver
  /-- CTXOP_TERMINATE (R393). Answers a fault token by terminating the grid. -/
  | ctxopTerminate
  /-- CTXOP_SET_TRANSPORT_RING (R393). Sets the context's transport ring. -/
  | ctxopSetTransportRing
  /-- CTXOP_INVALIDATE (R393). Invalidates translations of a kind, as TLBINV does. -/
  | ctxopInvalidate
  /-- CTXOP_UNDEFINED (R393). Op 0 or 11-15 sets result 1. -/
  | ctxopUndefined
  /-- NTFBASE_WRITE (R394). Sets the notification ring base and enable, releasing held notifications. -/
  | ntfbaseWrite
  /-- NTFTAIL_WRITE (R394). The driver frees ring entries, letting held notifications proceed. -/
  | ntftailWrite
  /-- PWRCAP_WRITE (R401). Sets the clamped power cap and the die arbiter budgets. -/
  | pwrcapWrite
  /-- HWSL_WRITE (R36). Maps a host window slice, leaving EN clear for a bad target. -/
  | hwslWrite
  /-- REGISTER_WRITE (R392). A host write to a BAR0 register that has no row of its own. -/
  | registerWrite
  /-- HOST_WINDOW_READ (R37). A host read through BAR2 at the home slice, or Unsupported Request. -/
  | hostWindowRead
  /-- HOST_WINDOW_WRITE (R37). A host write through BAR2, performed or dropped and counted. -/
  | hostWindowWrite
  /-- HOST_WINDOW_ATOMIC (R392). A PCIe AtomicOp through BAR2 performed as a system-scope RMW. -/
  | hostWindowAtomic
  /-- CONFIG_REQUEST (R392). A configuration request, answered with retry status before firmware is ready. -/
  | configRequest
  /-- POWER_GOOD (R400). Power good starts boot, training, link-up and enumeration. -/
  | powerGood
  /-- MCTP_CONTROL_MESSAGE (R398). An MCTP control message is served. -/
  | mctpControlMessage
  /-- READ_TEMPERATURES (R398). A vendor message returns temperatures. -/
  | readTemperatures
  /-- READ_POWER (R398). A vendor message returns power. -/
  | readPower
  /-- READ_SOFT_ERROR_COUNTS (R398). A vendor message returns soft-error counts. -/
  | readSoftErrorCounts
  /-- READ_IDENT (R398). A vendor message returns the IDENT value. -/
  | readIdent
  /-- FAULT_REPORT (R403). A detected module fault is reported on the ring and MCTP. -/
  | faultReport
  /-- ATTESTATION_REQUEST (R399). Signs IDENT, the firmware measurement, the rollback counter and a nonce. -/
  | attestationRequest
  /-- ILLEGAL_INSTRUCTION (R275). An instruction word with an unallocated or reserved major, or an FN or V value that no row lists, is reached and takes an illegal-instruction fault with detail 0 or 1. -/
  | illegalInstruction
  /-- PCIE_COMPLETION_FROM_HOST (R35). A PCIe completion returns from host memory and finishes a device read or AtomicOp in the host region. -/
  | pcieCompletionFromHost
  deriving DecidableEq, Repr

end Sys2Proof
end

