-- ==== Sys2Proof/Decode.lean ====
section
/-! DEFINITION. The decoder of the K9 (12 R257 to R276): words to an instruction or the detail of the
illegal-instruction fault that Table 12-15 names, the checks of one instruction's fields, and the encoder. The
decoder reads the words of an instruction at a given place; clause headers are read in Machine/Control.lean. -/

namespace Sys2Proof

/-- Bits lo and up of a word, as a field of k bits. -/
def fld (w : Word) (lo k : Nat) : BitVec k := BitVec.ofNat k (w.toNat / 2 ^ lo)

/-- Major, bits 31:25 (R263). -/
def majorOf (w : Word) : Nat := w.toNat / 2 ^ 25

/-- Guard, bits 24:21 (R263). -/
def guardOf (w : Word) : Guard := { neg := fld w 24 1, p := fld w 21 3 }

/-- FN of formats G and X, bits 2:0. -/
def fnOf (w : Word) : Nat := w.toNat % 8

/-- FN of format U, bits 8:3. -/
def fnUOf (w : Word) : Nat := w.toNat / 8 % 64

/-- V of formats R and U, bit 2. -/
def vOf (w : Word) : Nat := w.toNat / 4 % 2

/-- Fields of format R. -/
def getR (w : Word) : OpR :=
  { d := fld w 15 6, a := fld w 9 6, b := fld w 3 6, h := fld w 0 2 }

/-- Fields of formats G and X. -/
def getG (w : Word) : OpG := { d := fld w 15 6, a := fld w 9 6, b := fld w 3 6 }

/-- Fields of format U. -/
def getU (w : Word) : OpU := { d := fld w 15 6, a := fld w 9 6, h := fld w 0 2 }

/-- Fields of format I. -/
def getI (w : Word) : OpI := { d := fld w 15 6, a := fld w 9 6, imm := fld w 0 9 }

/-- Fields of format C. -/
def getC (w : Word) : OpC :=
  { d := fld w 15 6, a := fld w 9 6, b := fld w 3 6, cc := fld w 0 3 }

/-- Fields of format J. -/
def getJ (w : Word) : OpJ := { off := fld w 0 21 }

/-- Fields of BRD (R365). -/
def getB (w w1 : Word) : OpB := { t := fld w 3 18, j := w1 }

/-- XMEM (Table 12-5). -/
def getXMem (w : Word) : XMem :=
  { scope := fld w 27 5, ord := fld w 25 2, sz := fld w 22 3, ub := fld w 21 1, sx := fld w 20 1, off := fld w 0 20 }

/-- XATM (Table 12-6). -/
def getXAtm (w : Word) : XAtm :=
  { scope := fld w 27 5, ord := fld w 25 2, aop := fld w 21 4, aty := fld w 18 3, ub := fld w 17 1, off := fld w 0 17 }

/-- XMAT (Table 12-7). -/
def getXMat (w : Word) : XMat :=
  { c := fld w 28 4, slc := fld w 26 2, sx := fld w 20 6, ix := fld w 16 4, ty := fld w 8 8, nr := fld w 4 4,
    nc := fld w 0 4 }

/-- The second word of MLD, MST and MLDW (Table 14-2). -/
def getMMem (w : Word) : MMem :=
  { scope := fld w 27 5, shp := fld w 26 1, sx := fld w 20 6, res := fld w 18 2, ord := fld w 16 2, ty := fld w 8 8,
    nr := fld w 4 4, nc := fld w 0 4 }

/-- XASY (Table 12-8); RME and RMODE stand together in `rm`. -/
def getXAsy (w : Word) : XAsy :=
  { scope := fld w 27 5, acq := fld w 26 1, rel := fld w 25 1, bos := fld w 19 6, rm := fld w 16 3, len := fld w 0 16 }

/-- The literal word (Table 12-9). -/
def getXLit (w : Word) : XLit := { xl := w }

/-- The field word of 0x08 (Table 12-9). -/
def getXBf (w : Word) : XBf := { res := fld w 10 22, pos := fld w 5 5, len := fld w 0 5 }

/-- The selecting word of 0x0F (Table 12-9). -/
def getXSel (w : Word) : XSel := { res := fld w 6 26, psel := fld w 0 6 }

/-- The conversion word of 0x2A (Table 12-9). -/
def getXCvt (w : Word) : XCvt :=
  { res := fld w 19 13, rmo := fld w 17 2, sat := fld w 16 1, dt := fld w 8 8, st := fld w 0 8 }

/-- The fence word of 0x45 (Table 12-9). -/
def getXFence (w : Word) : XFence := { scope := fld w 27 5, ord := fld w 25 2, res := fld w 4 21, paths := fld w 0 4 }

/-- The barrier word of 0x48 (Table 12-9). -/
def getXBar (w : Word) : XBar := { scope := fld w 27 5, res := fld w 13 14, immf := fld w 12 1, value := fld w 0 12 }

/-- The marker word of 0x49 (Table 12-9). -/
def getXMark (w : Word) : XMark := { scope := fld w 27 5, res := fld w 0 27 }

/-- The TLBINV word of 0x75 (Table 12-9). -/
def getXTlb (w : Word) : XTlb := { res := fld w 12 18, asid := fld w 0 12 }

/-- Majors of format X are two words long, and only those (R263); LDRO keeps its two words (R382). -/
def isX (major : Nat) : Bool :=
  match major with
  | 0x08 | 0x0B | 0x0F | 0x19 | 0x2A | 0x30 | 0x31 | 0x32 | 0x33 | 0x34 | 0x35 | 0x36 | 0x37 | 0x38 => true
  | 0x40 | 0x41 | 0x42 | 0x43 | 0x44 | 0x45 | 0x46 | 0x47 | 0x48 | 0x49 | 0x4A => true
  | 0x50 | 0x51 | 0x52 | 0x54 | 0x55 | 0x56 | 0x61 | 0x75 | 0x7E => true
  | _ => false

/-- The number of words of the instruction whose word 0 is w (R263). -/
def wordCount (w : Word) : Nat := if isX (majorOf w) then 2 else 1

/-- A U-format row: the V bit must be zero, else detail 2 (R281, R369). -/
def okU (w : Word) (i : Instr) : Except Nat Instr := if vOf w = 0 then .ok i else .error 2

/-- A U-format row without operands: D, A, V and H must be zero, else detail 2 (R361, R369, R370, R372). -/
def okZ (w : Word) (i : Instr) : Except Nat Instr :=
  if fld w 9 12 = 0 ∧ fld w 0 3 = 0 then .ok i else .error 2

/-- Majors 0x01 to 0x2A (Table 12-10). -/
def parseAlu (w w1 : Word) : Except Nat Instr :=
  match majorOf w with
  | 1 => match vOf w with
    | 0 => .ok (.iadd (getR w))
    | 1 => .ok (.isub (getR w))
    | _ => .error 1
  | 2 => match vOf w with
    | 0 => .ok (.imul (getR w))
    | 1 => .ok (.imad (getR w))
    | _ => .error 1
  | 3 => match fnOf w with
    | 0 => .ok (.imulhI32 (getG w))
    | 1 => .ok (.imulhN32 (getG w))
    | 2 => .ok (.imulwI32 (getG w))
    | 3 => .ok (.imulwN32 (getG w))
    | _ => .error 1
  | 4 => match fnOf w with
    | 0 => .ok (.andV (getG w))
    | 1 => .ok (.orV (getG w))
    | 2 => .ok (.xorV (getG w))
    | 3 => .ok (.andn (getG w))
    | 4 => .ok (.orn (getG w))
    | 5 => .ok (.xnor (getG w))
    | _ => .error 1
  | 5 => match fnOf w with
    | 0 => .ok (.shl (getG w))
    | 1 => .ok (.shr (getG w))
    | 2 => .ok (.sar (getG w))
    | 3 => .ok (.rol (getG w))
    | 4 => .ok (.ror (getG w))
    | 5 => .ok (.shl64 (getG w))
    | 6 => .ok (.shr64 (getG w))
    | 7 => .ok (.sar64 (getG w))
    | _ => .error 1
  | 6 => match fnOf w with
    | 0 => .ok (.iminI32 (getG w))
    | 1 => .ok (.imaxI32 (getG w))
    | 2 => .ok (.iminN32 (getG w))
    | 3 => .ok (.imaxN32 (getG w))
    | 4 => .ok (.iabs (getG w))
    | 5 => .ok (.ineg (getG w))
    | 6 => .ok (.iaddsI32 (getG w))
    | 7 => .ok (.iaddsN32 (getG w))
    | _ => .error 1
  | 7 => match fnUOf w with
    | 0 => okU w (.popc (getU w))
    | 1 => okU w (.clz (getU w))
    | 2 => okU w (.ctz (getU w))
    | 3 => okU w (.brev (getU w))
    | 4 => okU w (.bswap (getU w))
    | 5 => okU w (.notV (getU w))
    | _ => .error 1
  | 8 => match fnOf w with
    | 0 => .ok (.bfeI32 (getG w) (getXBf w1))
    | 1 => .ok (.bfeN32 (getG w) (getXBf w1))
    | 2 => .ok (.bfi (getG w) (getXBf w1))
    | _ => .error 1
  | 9 => .ok (.iaddi (getI w))
  | 10 => match fnUOf w with
    | 0 => okU w (.mov (getU w))
    | _ => .error 1
  | 11 => match fnOf w with
    | 0 => .ok (.movk (getG w) (getXLit w1))
    | 1 => .ok (.movkW (getG w) (getXLit w1))
    | _ => .error 1
  | 12 => .ok (.icmpI32 (getC w))
  | 13 => .ok (.icmpN32 (getC w))
  | 14 => match vOf w with
    | 0 => .ok (.iadd64 (getR w))
    | 1 => .ok (.isub64 (getR w))
    | _ => .error 1
  | 15 => match fnOf w with
    | 0 => .ok (.sel (getG w) (getXSel w1))
    | _ => .error 1
  | 16 => .ok (.lea (getG w) (fld w 0 3))
  | 17 => match fnOf w with
    | 0 => .ok (.pand (getG w))
    | 1 => .ok (.por (getG w))
    | 2 => .ok (.pxor (getG w))
    | 3 => .ok (.pandn (getG w))
    | 4 => .ok (.pmov (getG w))
    | 5 => .ok (.pnot (getG w))
    | 6 => .ok (.psetv (getG w))
    | 7 => .ok (.pgetv (getG w))
    | _ => .error 1
  | 18 => match fnOf w with
    | 0 => .ok (.voteAny (getG w))
    | 1 => .ok (.voteAll (getG w))
    | 2 => .ok (.voteBallot (getG w))
    | 3 => .ok (.voteCount (getG w))
    | _ => .error 1
  | 19 => match fnOf w with
    | 0 => .ok (.cableAt (getG w))
    | 1 => .ok (.cableBack (getG w))
    | 2 => .ok (.cableFwd (getG w))
    | 3 => .ok (.cableFlip (getG w))
    | _ => .error 1
  | 20 => match fnUOf w with
    | 0 => okU w (.qswph (getU w))
    | 1 => okU w (.qswpv (getU w))
    | 2 => okU w (.qswpd (getU w))
    | 3 => okU w (.qbc0 (getU w))
    | 4 => okU w (.qbc1 (getU w))
    | 5 => okU w (.qbc2 (getU w))
    | 6 => okU w (.qbc3 (getU w))
    | _ => .error 1
  | 21 => match fnOf w with
    | 0 => .ok (.foldAddI32 (getG w))
    | 1 => .ok (.foldMinI32 (getG w))
    | 2 => .ok (.foldMaxI32 (getG w))
    | 3 => .ok (.foldAnd (getG w))
    | 4 => .ok (.foldOr (getG w))
    | 5 => .ok (.foldXor (getG w))
    | 6 => .ok (.foldFadd (getG w))
    | _ => .error 1
  | 22 => match fnOf w with
    | 0 => .ok (.nzs (getG w))
    | _ => .error 1
  | 23 => match fnOf w with
    | 0 => .ok (.sadd (getG w))
    | 1 => .ok (.ssub (getG w))
    | 2 => .ok (.smul (getG w))
    | 3 => .ok (.sand (getG w))
    | 4 => .ok (.sor (getG w))
    | 5 => .ok (.sxor (getG w))
    | 6 => .ok (.sshl (getG w))
    | 7 => .ok (.sshr (getG w))
    | _ => .error 1
  | 24 => .ok (.saddi (getI w))
  | 25 => match fnOf w with
    | 0 => .ok (.smovk (getG w) (getXLit w1))
    | 1 => .ok (.smovkW (getG w) (getXLit w1))
    | _ => .error 1
  | 26 => .ok (.scmp (getC w))
  | 27 => match fnOf w with
    | 0 => .ok (.vbc (getG w))
    | 1 => .ok (.sfirst (getG w))
    | 2 => .ok (.slane (getG w))
    | _ => .error 1
  | 32 => match vOf w with
    | 0 => .ok (.fadd (getR w))
    | 1 => .ok (.fsub (getR w))
    | _ => .error 1
  | 33 => match vOf w with
    | 0 => .ok (.fmul (getR w))
    | 1 => .ok (.ffma (getR w))
    | _ => .error 1
  | 34 => match fnOf w with
    | 0 => .ok (.fmin (getG w))
    | 1 => .ok (.fmax (getG w))
    | 2 => .ok (.fminp (getG w))
    | 3 => .ok (.fmaxp (getG w))
    | 4 => .ok (.fabs (getG w))
    | 5 => .ok (.fneg (getG w))
    | 6 => .ok (.fcopys (getG w))
    | _ => .error 1
  | 35 => .ok (.fcmp (getC w))
  | 36 => match fnUOf w with
    | 0 => okU w (.rcp (getU w))
    | 1 => okU w (.rsq (getU w))
    | 2 => okU w (.exp2 (getU w))
    | 3 => okU w (.log2 (getU w))
    | 4 => okU w (.sinr (getU w))
    | 5 => okU w (.cosr (getU w))
    | 6 => okU w (.tanh (getU w))
    | 8 => okU w (.floor (getU w))
    | 9 => okU w (.ceil (getU w))
    | 10 => okU w (.trunc (getU w))
    | 11 => okU w (.rint (getU w))
    | 12 => okU w (.fract (getU w))
    | _ => .error 1
  | 37 => match fnOf w with
    | 0 => .ok (.fdiv (getG w))
    | 1 => .ok (.fsqrt (getG w))
    | _ => .error 1
  | 38 => match fnOf w with
    | 0 => .ok (.hadd2 (getG w))
    | 1 => .ok (.hsub2 (getG w))
    | 2 => .ok (.hmul2 (getG w))
    | 3 => .ok (.hfma2 (getG w))
    | 4 => .ok (.hmin2 (getG w))
    | 5 => .ok (.hmax2 (getG w))
    | _ => .error 1
  | 39 => match fnOf w with
    | 0 => .ok (.badd2 (getG w))
    | 1 => .ok (.bsub2 (getG w))
    | 2 => .ok (.bmul2 (getG w))
    | 3 => .ok (.bfma2 (getG w))
    | 4 => .ok (.bmin2 (getG w))
    | 5 => .ok (.bmax2 (getG w))
    | _ => .error 1
  | 40 => match fnOf w with
    | 0 => .ok (.dadd (getG w))
    | 1 => .ok (.dsub (getG w))
    | 2 => .ok (.dmul (getG w))
    | 3 => .ok (.dfma (getG w))
    | 4 => .ok (.dmin (getG w))
    | 5 => .ok (.dmax (getG w))
    | 6 => .ok (.ddiv (getG w))
    | 7 => .ok (.dsqrt (getG w))
    | _ => .error 1
  | 41 => .ok (.dcmp (getC w))
  | 42 => match fnOf w with
    | 0 => .ok (.cvt (getG w) (getXCvt w1))
    | _ => .error 1
  | _ => .error 0

/-- Majors 0x30 to 0x38 (Table 12-11); TYPE tells the two forms of MSHAPE apart (Table 14-1). -/
def parseMat (w w1 : Word) : Except Nat Instr :=
  match majorOf w with
  | 48 => if fnOf w ≠ 0 then .error 1
    else if fld w1 8 8 = 0 then .ok (.mshapeLane (getG w) (getXMat w1))
    else .ok (.mshapeImm (getG w) (getXMat w1))
  | 49 => match fnOf w with
    | 0 => .ok (.mld (getG w) (getMMem w1))
    | 1 => .ok (.mldT (getG w) (getMMem w1))
    | _ => .error 1
  | 50 => match fnOf w with
    | 0 => .ok (.mst (getG w) (getMMem w1))
    | 1 => .ok (.mstT (getG w) (getMMem w1))
    | _ => .error 1
  | 51 => match fnOf w with
    | 0 => .ok (.mldw (getG w) (getMMem w1))
    | _ => .error 1
  | 52 => match fnOf w with
    | 0 => .ok (.mmul (getG w) (getXMat w1))
    | 1 => .ok (.mma (getG w) (getXMat w1))
    | 2 => .ok (.mmat (getG w) (getXMat w1))
    | 3 => .ok (.mmab (getG w) (getXMat w1))
    | _ => .error 1
  | 53 => match fnOf w with
    | 0 => .ok (.madd (getG w) (getXMat w1))
    | 1 => .ok (.msub (getG w) (getXMat w1))
    | 2 => .ok (.mhad (getG w) (getXMat w1))
    | 3 => .ok (.mscal (getG w) (getXMat w1))
    | 4 => .ok (.mexp2 (getG w) (getXMat w1))
    | 5 => .ok (.mmax (getG w) (getXMat w1))
    | 6 => .ok (.mzero (getG w) (getXMat w1))
    | 7 => .ok (.mcvt (getG w) (getXMat w1))
    | _ => .error 1
  | 54 => match fnOf w with
    | 0 => .ok (.mtrn (getG w) (getXMat w1))
    | 1 => .ok (.mmov (getG w) (getXMat w1))
    | 2 => .ok (.mget (getG w) (getXMat w1))
    | 3 => .ok (.mput (getG w) (getXMat w1))
    | 4 => .ok (.mred (getG w) (getXMat w1))
    | 5 => .ok (.mshget (getG w) (getXMat w1))
    | _ => .error 1
  | 55 => match fnOf w with
    | 0 => .ok (.minv (getG w) (getXMat w1))
    | 1 => .ok (.mlu (getG w) (getXMat w1))
    | 2 => .ok (.mchol (getG w) (getXMat w1))
    | 3 => .ok (.msolvl (getG w) (getXMat w1))
    | 4 => .ok (.msolvu (getG w) (getXMat w1))
    | 5 => .ok (.mpow (getG w) (getXMat w1))
    | 6 => .ok (.mdet (getG w) (getXMat w1))
    | _ => .error 1
  | 56 => match fnOf w with
    | 0 => .ok (.topkIns (getG w) (getXMat w1))
    | 1 => .ok (.topkGet (getG w) (getXMat w1))
    | 2 => .ok (.topkClr (getG w) (getXMat w1))
    | _ => .error 1
  | _ => .error 0

/-- Majors 0x40 to 0x4A (Table 12-12). -/
def parseMem (w w1 : Word) : Except Nat Instr :=
  match majorOf w with
  | 64 => match fnOf w with
    | 0 => .ok (.ldG (getG w) (getXMem w1))
    | 1 => .ok (.ldL (getG w) (getXMem w1))
    | 2 => .ok (.ldP (getG w) (getXMem w1))
    | 3 => .ok (.ldC (getG w) (getXMem w1))
    | _ => .error 1
  | 65 => match fnOf w with
    | 0 => .ok (.stG (getG w) (getXMem w1))
    | 1 => .ok (.stL (getG w) (getXMem w1))
    | 2 => .ok (.stP (getG w) (getXMem w1))
    | 3 => .ok (.stGw (getG w) (getXMem w1))
    | _ => .error 1
  | 66 => match fnOf w with
    | 0 => .ok (.atom (getG w) (getXAtm w1))
    | 1 => .ok (.red (getG w) (getXAtm w1))
    | 2 => .ok (.atomL (getG w) (getXAtm w1))
    | 3 => .ok (.redL (getG w) (getXAtm w1))
    | _ => .error 1
  | 67 => match fnOf w with
    | 0 => .ok (.ldf (getG w) (getXMem w1))
    | _ => .error 1
  | 68 => match fnOf w with
    | 0 => .ok (.stf (getG w) (getXMem w1))
    | _ => .error 1
  | 69 => match fnOf w with
    | 0 => .ok (.fence (getG w) (getXFence w1))
    | 1 => .ok (.pfence (getG w) (getXFence w1))
    | 2 => .ok (.wback (getG w) (getXMem w1))
    | _ => .error 1
  | 70 => match fnOf w with
    | 0 => .ok (.smp (getG w) (getXMem w1))
    | _ => .error 1
  | 71 => match fnOf w with
    | 0 => .ok (.ldt (getG w) (getXMem w1))
    | _ => .error 1
  | 72 => match fnOf w with
    | 0 => .ok (.binit (getG w) (getXBar w1))
    | 1 => .ok (.barv (getG w) (getXBar w1))
    | 2 => .ok (.bexp (getG w) (getXBar w1))
    | 3 => .ok (.bwait (getG w) (getXBar w1))
    | 4 => .ok (.btest (getG w) (getXBar w1))
    | 5 => .ok (.barvx (getG w) (getXBar w1))
    | _ => .error 1
  | 73 => match fnOf w with
    | 0 => .ok (.mark (getG w) (getXMark w1))
    | 1 => .ok (.unmark (getG w) (getXMark w1))
    | 2 => .ok (.frog (getG w) (getXMark w1))
    | 3 => .ok (.frogq (getG w) (getXMark w1))
    | _ => .error 1
  | 74 => match fnOf w with
    | 0 => .ok (.pref (getG w) (getXMem w1))
    | _ => .error 1
  | _ => .error 0

/-- Majors 0x50 to 0x75 (Table 12-13); LEN bit 15 tells CPYT from CPYT.G (Table 16-1), KIND tells the forms of TLBINV apart (Table 16-5). -/
def parseSys (w w1 : Word) : Except Nat Instr :=
  match majorOf w with
  | 80 => match fnOf w with
    | 0 => .ok (.cpyGl (getG w) (getXAsy w1))
    | 1 => .ok (.cpyLg (getG w) (getXAsy w1))
    | 2 => if fld w1 15 1 = 0 then .ok (.cpyt (getG w) (getXAsy w1)) else .ok (.cpytG (getG w) (getXAsy w1))
    | 3 => .ok (.cpym (getG w) (getXAsy w1))
    | 4 => .ok (.cpyg (getG w) (getXAsy w1))
    | 5 => .ok (.cdrain (getG w) (getXAsy w1))
    | _ => .error 1
  | 81 => match fnOf w with
    | 0 => .ok (.qapp (getG w) (getXAsy w1))
    | _ => .error 1
  | 82 => match fnOf w with
    | 0 => .ok (.launch (getG w) (getXAsy w1))
    | _ => .error 1
  | 83 => match fnUOf w with
    | 0 => okZ w .succ
    | 1 => okZ w .predw
    | _ => .error 1
  | 84 => match fnOf w with
    | 0 => .ok (.rapp (getG w) (getXAsy w1))
    | _ => .error 1
  | 85 => match fnOf w with
    | 0 => .ok (.wmadv (getG w) (getXAsy w1))
    | 1 => .ok (.sclose (getG w) (getXAsy w1))
    | _ => .error 1
  | 86 => match fnOf w with
    | 0 => .ok (.wpub (getG w) (getXAsy w1))
    | 1 => .ok (.wpubAmend (getG w) (getXAsy w1))
    | _ => .error 1
  | 96 => .ok (.bra (getJ w))
  | 97 => match fnOf w with
    | 0 => .ok (.brd (getB w w1))
    | _ => .error 1
  | 98 => match fnOf w with
    | 0 => .ok (.brx (getG w))
    | 1 => .ok (.callx (getG w))
    | _ => .error 1
  | 99 => .ok (.call (getJ w))
  | 100 => match fnUOf w with
    | 0 => okU w (.ret (getU w))
    | _ => .error 1
  | 101 => match fnUOf w with
    | 0 => okZ w .exit
    | _ => .error 1
  | 102 => match fnUOf w with
    | 0 => okZ w .endTeam
    | _ => .error 1
  | 103 => match fnUOf w with
    | 0 => okZ w .nop
    | _ => .error 1
  | 104 => match fnUOf w with
    | 0 => okZ w .yield
    | _ => .error 1
  | 105 => match fnOf w with
    | 0 => .ok (.rgive (getG w))
    | 1 => .ok (.rclaim (getG w))
    | _ => .error 1
  | 112 => okU w (.srd (getU w) (fld w 3 6))
  | 113 => okU w (.swr (getU w) (fld w 3 6))
  | 114 => if fld w 0 9 = 511 then .ok (.trapReturn (getI w))
    else if fld w 0 9 = 510 then .ok (.trapTerminate (getI w)) else .ok (.trap (getI w))
  | 115 => match fnUOf w with
    | 0 => okZ w .bkpt
    | _ => .error 1
  | 116 => match fnUOf w with
    | 0 => okZ w .eret
    | _ => .error 1
  | 117 => if fnOf w ≠ 0 then .error 1 else match (fld w1 30 2).toNat with
    | 0 => .ok (.tlbinvAll (getG w) (getXTlb w1))
    | 1 => .ok (.tlbinvAsid (getG w) (getXTlb w1))
    | 2 => .ok (.tlbinvPage (getG w) (getXTlb w1))
    | _ => .ok (.tlbinvGpage (getG w) (getXTlb w1))
  | _ => .error 0

/-- Retired majors 0x7C to 0x7E (Table 17-5). -/
def parseOld (w w1 : Word) : Except Nat Instr :=
  match majorOf w with
  | 124 => match vOf w with
    | 0 => .ok (.imad24I24 (getR w))
    | 1 => .ok (.imad24N24 (getR w))
    | _ => .error 1
  | 125 => match fnOf w with
    | 0 => .ok (.dot4i8I8 (getG w))
    | 1 => .ok (.dot4i8N8 (getG w))
    | _ => .error 1
  | 126 => match fnOf w with
    | 0 => .ok (.ldro (getG w) (getXMem w1))
    | _ => .error 1
  | _ => .error 0

/-- The instruction whose words are w and w1, by its major and its FN or V, or the detail of Table 12-14:
0 for a major outside the map, 1 for an FN or V that no row lists. -/
def parse (w w1 : Word) : Except Nat Instr :=
  if majorOf w < 48 then parseAlu w w1
  else if majorOf w < 64 then parseMat w w1
  else if majorOf w < 80 then parseMem w w1
  else if majorOf w < 124 then parseSys w w1
  else parseOld w w1

/-- What one register field of an instruction names (Tables 12-10 to 12-13): a field left unused, `count` v
registers whose first is a multiple of `align`, s registers likewise, an m register, or a marker. -/
inductive Use where
  | zero (n : BitVec 6)
  | v (n : BitVec 6) (count align : Nat)
  | s (n : BitVec 6) (align : Nat)
  | m (n : BitVec 6)
  | k (n : BitVec 6)
  deriving DecidableEq, Repr

/-- The static check of one field: details 2, 3 and 6 of Table 12-15 (R264). -/
def Use.err : Use → Option Nat
  | .zero n => if n = 0 then none else some 2
  | .v n _ al => if n.toNat % al = 0 then none else some 6
  | .s n al => if n.toNat % al = 0 then none else some 6
  | .m n => if n.toNat < 16 then none else some 3
  | .k n => if n.toNat < 4 then none else some 3

/-- The check of one field against the team's allocation: detail 3 (R156, R264). -/
def Use.allocErr (vregs mregs : Nat) : Use → Option Nat
  | .v n count _ => if n.toNat + count ≤ vregs then none else some 3
  | .m n => if n.toNat < mregs then none else some 3
  | _ => none

/-- Registers of an access of size SZ (R330). -/
def szRegs (sz : BitVec 3) : Nat := if sz = 4 then 4 else if sz = 3 then 2 else 1

/-- Registers of an atomic's operand (R336). -/
def atyRegs (aty : BitVec 3) : Nat := if aty = 2 ∨ aty = 3 ∨ aty = 5 then 2 else 1

/-- A v register of the access size. -/
def Use.sized (n : BitVec 6) (k : Nat) : Use := .v n k k

/-- The base of a global address: a v pair, or an s pair when UB is 1 (R329). -/
def Use.base64 (n : BitVec 6) (ub : BitVec 1) : Use := if ub = 0 then .v n 2 2 else .s n 2

/-- The base of a scratchpad or private offset (R329). -/
def Use.base32 (n : BitVec 6) (ub : BitVec 1) : Use := if ub = 0 then .v n 1 1 else .s n 1

/-- A v register that holds an f64 value in a pair when TYPE is 0x04 (R314). -/
def Use.byType (n : BitVec 6) (ty : BitVec 8) : Use := if ty = 4 then .v n 2 2 else .v n 1 1

/-- The operand of an atomic: CAS also reads the register or pair after it (R336). -/
def Use.atomB (n : BitVec 6) (aop : BitVec 4) (aty : BitVec 3) : Use :=
  .v n (atyRegs aty * (if aop = 7 then 2 else 1)) (atyRegs aty)

/-- The B operand of a barrier instruction: unused with an immediate, else an s register (R345). -/
def Use.barB (n : BitVec 6) (immf : BitVec 1) : Use := if immf = 1 then .zero n else .s n 1

/-- The registers of a conversion operand: pairs for i64, n64 and f64 (R309). -/
def Use.cvtReg (n : BitVec 6) (code : BitVec 8) : Use :=
  if code = 4 ∨ code = 13 ∨ code = 14 then .v n 2 2 else .v n 1 1

/-- The register fields of an instruction, with what the opcode map says each names. -/
def Instr.uses : Instr → List Use
  | .iadd o => [.v o.d 1 1, .v o.a 1 1, .v o.b 1 1]
  | .isub o => [.v o.d 1 1, .v o.a 1 1, .v o.b 1 1]
  | .imul o => [.v o.d 1 1, .v o.a 1 1, .v o.b 1 1]
  | .imad o => [.v o.d 1 1, .v o.a 1 1, .v o.b 1 1]
  | .imulhI32 o => [.v o.d 1 1, .v o.a 1 1, .v o.b 1 1]
  | .imulhN32 o => [.v o.d 1 1, .v o.a 1 1, .v o.b 1 1]
  | .imulwI32 o => [.v o.d 2 2, .v o.a 1 1, .v o.b 1 1]
  | .imulwN32 o => [.v o.d 2 2, .v o.a 1 1, .v o.b 1 1]
  | .andV o => [.v o.d 1 1, .v o.a 1 1, .v o.b 1 1]
  | .orV o => [.v o.d 1 1, .v o.a 1 1, .v o.b 1 1]
  | .xorV o => [.v o.d 1 1, .v o.a 1 1, .v o.b 1 1]
  | .andn o => [.v o.d 1 1, .v o.a 1 1, .v o.b 1 1]
  | .orn o => [.v o.d 1 1, .v o.a 1 1, .v o.b 1 1]
  | .xnor o => [.v o.d 1 1, .v o.a 1 1, .v o.b 1 1]
  | .shl o => [.v o.d 1 1, .v o.a 1 1, .v o.b 1 1]
  | .shr o => [.v o.d 1 1, .v o.a 1 1, .v o.b 1 1]
  | .sar o => [.v o.d 1 1, .v o.a 1 1, .v o.b 1 1]
  | .rol o => [.v o.d 1 1, .v o.a 1 1, .v o.b 1 1]
  | .ror o => [.v o.d 1 1, .v o.a 1 1, .v o.b 1 1]
  | .shl64 o => [.v o.d 2 2, .v o.a 2 2, .v o.b 1 1]
  | .shr64 o => [.v o.d 2 2, .v o.a 2 2, .v o.b 1 1]
  | .sar64 o => [.v o.d 2 2, .v o.a 2 2, .v o.b 1 1]
  | .iminI32 o => [.v o.d 1 1, .v o.a 1 1, .v o.b 1 1]
  | .imaxI32 o => [.v o.d 1 1, .v o.a 1 1, .v o.b 1 1]
  | .iminN32 o => [.v o.d 1 1, .v o.a 1 1, .v o.b 1 1]
  | .imaxN32 o => [.v o.d 1 1, .v o.a 1 1, .v o.b 1 1]
  | .iabs o => [.v o.d 1 1, .v o.a 1 1, .zero o.b]
  | .ineg o => [.v o.d 1 1, .v o.a 1 1, .zero o.b]
  | .iaddsI32 o => [.v o.d 1 1, .v o.a 1 1, .v o.b 1 1]
  | .iaddsN32 o => [.v o.d 1 1, .v o.a 1 1, .v o.b 1 1]
  | .popc o => [.v o.d 1 1, .v o.a 1 1]
  | .clz o => [.v o.d 1 1, .v o.a 1 1]
  | .ctz o => [.v o.d 1 1, .v o.a 1 1]
  | .brev o => [.v o.d 1 1, .v o.a 1 1]
  | .bswap o => [.v o.d 1 1, .v o.a 1 1]
  | .notV o => [.v o.d 1 1, .v o.a 1 1]
  | .bfeI32 o _ => [.v o.d 1 1, .v o.a 1 1, .zero o.b]
  | .bfeN32 o _ => [.v o.d 1 1, .v o.a 1 1, .zero o.b]
  | .bfi o _ => [.v o.d 1 1, .v o.a 1 1, .zero o.b]
  | .iaddi o => [.v o.d 1 1, .v o.a 1 1]
  | .mov o => [.v o.d 1 1, .v o.a 1 1]
  | .movk o _ => [.v o.d 1 1, .zero o.a, .zero o.b]
  | .movkW o _ => [.v o.d 2 2, .zero o.a, .zero o.b]
  | .icmpI32 o => [.v o.a 1 1, .v o.b 1 1]
  | .icmpN32 o => [.v o.a 1 1, .v o.b 1 1]
  | .iadd64 o => [.v o.d 2 2, .v o.a 2 2, .v o.b 2 2]
  | .isub64 o => [.v o.d 2 2, .v o.a 2 2, .v o.b 2 2]
  | .sel o _ => [.v o.d 1 1, .v o.a 1 1, .v o.b 1 1]
  | .lea o _ => [.v o.d 2 2, .v o.a 2 2, .v o.b 1 1]
  | .pand _ => []
  | .por _ => []
  | .pxor _ => []
  | .pandn _ => []
  | .pmov o => [.zero o.b]
  | .pnot o => [.zero o.b]
  | .psetv o => [.v o.a 1 1, .zero o.b]
  | .pgetv o => [.v o.d 1 1, .zero o.b]
  | .voteAny o => [.zero o.b]
  | .voteAll o => [.zero o.b]
  | .voteBallot o => [.v o.d 1 1, .s o.b 1]
  | .voteCount o => [.v o.d 1 1, .zero o.b]
  | .cableAt o => [.v o.d 1 1, .v o.a 1 1, .v o.b 1 1]
  | .cableBack o => [.v o.d 1 1, .v o.a 1 1, .v o.b 1 1]
  | .cableFwd o => [.v o.d 1 1, .v o.a 1 1, .v o.b 1 1]
  | .cableFlip o => [.v o.d 1 1, .v o.a 1 1, .v o.b 1 1]
  | .qswph o => [.v o.d 1 1, .v o.a 1 1]
  | .qswpv o => [.v o.d 1 1, .v o.a 1 1]
  | .qswpd o => [.v o.d 1 1, .v o.a 1 1]
  | .qbc0 o => [.v o.d 1 1, .v o.a 1 1]
  | .qbc1 o => [.v o.d 1 1, .v o.a 1 1]
  | .qbc2 o => [.v o.d 1 1, .v o.a 1 1]
  | .qbc3 o => [.v o.d 1 1, .v o.a 1 1]
  | .foldAddI32 o => [.v o.d 1 1, .v o.a 1 1, .zero o.b]
  | .foldMinI32 o => [.v o.d 1 1, .v o.a 1 1, .zero o.b]
  | .foldMaxI32 o => [.v o.d 1 1, .v o.a 1 1, .zero o.b]
  | .foldAnd o => [.v o.d 1 1, .v o.a 1 1, .zero o.b]
  | .foldOr o => [.v o.d 1 1, .v o.a 1 1, .zero o.b]
  | .foldXor o => [.v o.d 1 1, .v o.a 1 1, .zero o.b]
  | .foldFadd o => [.v o.d 1 1, .v o.a 1 1, .zero o.b]
  | .nzs o => [.v o.d 1 1, .v o.a 1 1, .s o.b 1]
  | .sadd o => [.s o.d 1, .s o.a 1, .s o.b 1]
  | .ssub o => [.s o.d 1, .s o.a 1, .s o.b 1]
  | .smul o => [.s o.d 1, .s o.a 1, .s o.b 1]
  | .sand o => [.s o.d 1, .s o.a 1, .s o.b 1]
  | .sor o => [.s o.d 1, .s o.a 1, .s o.b 1]
  | .sxor o => [.s o.d 1, .s o.a 1, .s o.b 1]
  | .sshl o => [.s o.d 1, .s o.a 1, .s o.b 1]
  | .sshr o => [.s o.d 1, .s o.a 1, .s o.b 1]
  | .saddi o => [.s o.d 1, .s o.a 1]
  | .smovk o _ => [.s o.d 1, .zero o.a, .zero o.b]
  | .smovkW o _ => [.s o.d 2, .zero o.a, .zero o.b]
  | .scmp o => [.s o.a 1, .s o.b 1]
  | .vbc o => [.v o.d 1 1, .s o.a 1, .zero o.b]
  | .sfirst o => [.s o.d 1, .v o.a 1 1, .zero o.b]
  | .slane o => [.s o.d 1, .v o.a 1 1, .s o.b 1]
  | .fadd o => [.v o.d 1 1, .v o.a 1 1, .v o.b 1 1]
  | .fsub o => [.v o.d 1 1, .v o.a 1 1, .v o.b 1 1]
  | .fmul o => [.v o.d 1 1, .v o.a 1 1, .v o.b 1 1]
  | .ffma o => [.v o.d 1 1, .v o.a 1 1, .v o.b 1 1]
  | .fmin o => [.v o.d 1 1, .v o.a 1 1, .v o.b 1 1]
  | .fmax o => [.v o.d 1 1, .v o.a 1 1, .v o.b 1 1]
  | .fminp o => [.v o.d 1 1, .v o.a 1 1, .v o.b 1 1]
  | .fmaxp o => [.v o.d 1 1, .v o.a 1 1, .v o.b 1 1]
  | .fabs o => [.v o.d 1 1, .v o.a 1 1, .zero o.b]
  | .fneg o => [.v o.d 1 1, .v o.a 1 1, .zero o.b]
  | .fcopys o => [.v o.d 1 1, .v o.a 1 1, .v o.b 1 1]
  | .fcmp o => [.v o.a 1 1, .v o.b 1 1]
  | .rcp o => [.v o.d 1 1, .v o.a 1 1]
  | .rsq o => [.v o.d 1 1, .v o.a 1 1]
  | .exp2 o => [.v o.d 1 1, .v o.a 1 1]
  | .log2 o => [.v o.d 1 1, .v o.a 1 1]
  | .sinr o => [.v o.d 1 1, .v o.a 1 1]
  | .cosr o => [.v o.d 1 1, .v o.a 1 1]
  | .tanh o => [.v o.d 1 1, .v o.a 1 1]
  | .floor o => [.v o.d 1 1, .v o.a 1 1]
  | .ceil o => [.v o.d 1 1, .v o.a 1 1]
  | .trunc o => [.v o.d 1 1, .v o.a 1 1]
  | .rint o => [.v o.d 1 1, .v o.a 1 1]
  | .fract o => [.v o.d 1 1, .v o.a 1 1]
  | .fdiv o => [.v o.d 1 1, .v o.a 1 1, .v o.b 1 1]
  | .fsqrt o => [.v o.d 1 1, .v o.a 1 1, .zero o.b]
  | .hadd2 o => [.v o.d 1 1, .v o.a 1 1, .v o.b 1 1]
  | .hsub2 o => [.v o.d 1 1, .v o.a 1 1, .v o.b 1 1]
  | .hmul2 o => [.v o.d 1 1, .v o.a 1 1, .v o.b 1 1]
  | .hfma2 o => [.v o.d 1 1, .v o.a 1 1, .v o.b 1 1]
  | .hmin2 o => [.v o.d 1 1, .v o.a 1 1, .v o.b 1 1]
  | .hmax2 o => [.v o.d 1 1, .v o.a 1 1, .v o.b 1 1]
  | .badd2 o => [.v o.d 1 1, .v o.a 1 1, .v o.b 1 1]
  | .bsub2 o => [.v o.d 1 1, .v o.a 1 1, .v o.b 1 1]
  | .bmul2 o => [.v o.d 1 1, .v o.a 1 1, .v o.b 1 1]
  | .bfma2 o => [.v o.d 1 1, .v o.a 1 1, .v o.b 1 1]
  | .bmin2 o => [.v o.d 1 1, .v o.a 1 1, .v o.b 1 1]
  | .bmax2 o => [.v o.d 1 1, .v o.a 1 1, .v o.b 1 1]
  | .dadd o => [.v o.d 2 2, .v o.a 2 2, .v o.b 2 2]
  | .dsub o => [.v o.d 2 2, .v o.a 2 2, .v o.b 2 2]
  | .dmul o => [.v o.d 2 2, .v o.a 2 2, .v o.b 2 2]
  | .dfma o => [.v o.d 2 2, .v o.a 2 2, .v o.b 2 2]
  | .dmin o => [.v o.d 2 2, .v o.a 2 2, .v o.b 2 2]
  | .dmax o => [.v o.d 2 2, .v o.a 2 2, .v o.b 2 2]
  | .ddiv o => [.v o.d 2 2, .v o.a 2 2, .v o.b 2 2]
  | .dsqrt o => [.v o.d 2 2, .v o.a 2 2, .zero o.b]
  | .dcmp o => [.v o.a 2 2, .v o.b 2 2]
  | .cvt o x => [Use.cvtReg o.d x.dt, Use.cvtReg o.a x.st, .zero o.b]
  | .mshapeImm o _ => [.m o.d, .zero o.a, .zero o.b]
  | .mshapeLane o _ => [.m o.d, .v o.a 1 1, .zero o.b]
  | .mld o _ => [.m o.d, .v o.a 2 2, .v o.b 1 1]
  | .mldT o _ => [.m o.d, .v o.a 2 2, .v o.b 1 1]
  | .mst o _ => [.m o.d, .v o.a 2 2, .v o.b 1 1]
  | .mstT o _ => [.m o.d, .v o.a 2 2, .v o.b 1 1]
  | .mldw o _ => [.m o.d, .v o.a 2 2, .v o.b 1 1]
  | .mmul o _ => [.m o.d, .m o.a, .m o.b]
  | .mma o x => [.m o.d, .m o.a, .m o.b, .m (x.c.setWidth 6)]
  | .mmat o x => [.m o.d, .m o.a, .m o.b, .m (x.c.setWidth 6)]
  | .mmab o x => [.m o.d, .m o.a, .m o.b, .m (x.c.setWidth 6)]
  | .madd o _ => [.m o.d, .m o.a, .m o.b]
  | .msub o _ => [.m o.d, .m o.a, .m o.b]
  | .mhad o _ => [.m o.d, .m o.a, .m o.b]
  | .mscal o x => [.m o.d, .m o.a, Use.byType o.b x.ty]
  | .mexp2 o _ => [.m o.d, .m o.a, .zero o.b]
  | .mmax o _ => [.m o.d, .m o.a, .m o.b]
  | .mzero o _ => [.m o.d, .zero o.a, .zero o.b]
  | .mcvt o _ => [.m o.d, .m o.a, .zero o.b]
  | .mtrn o _ => [.m o.d, .m o.a, .zero o.b]
  | .mmov o _ => [.m o.d, .m o.a, .zero o.b]
  | .mget o x => [Use.byType o.d x.ty, .m o.a, .v o.b 1 1]
  | .mput o x => [.m o.d, Use.byType o.a x.ty, .v o.b 1 1]
  | .mred o x => [Use.byType o.d x.ty, .m o.a]
  | .mshget o _ => [.v o.d 1 1, .m o.a, .zero o.b]
  | .minv o _ => [.m o.d, .m o.a]
  | .mlu o _ => [.m o.d, .m o.a]
  | .mchol o _ => [.m o.d, .m o.a]
  | .msolvl o _ => [.m o.d, .m o.a, .m o.b]
  | .msolvu o _ => [.m o.d, .m o.a, .m o.b]
  | .mpow o _ => [.m o.d, .m o.a, .zero o.b]
  | .mdet o x => [Use.byType o.d x.ty, .m o.a, .zero o.b]
  | .topkIns o _ => [.m o.d, .v o.a 1 1, .v o.b 1 1]
  | .topkGet o _ => [.v o.d 2 2, .m o.a, .zero o.b]
  | .topkClr o _ => [.m o.d, .zero o.a, .zero o.b]
  | .ldG o x => [Use.sized o.d (szRegs x.sz), Use.base64 o.a x.ub, .zero o.b]
  | .ldL o x => [Use.sized o.d (szRegs x.sz), Use.base32 o.a x.ub, .zero o.b]
  | .ldP o x => [Use.sized o.d (szRegs x.sz), Use.base32 o.a x.ub, .zero o.b]
  | .ldC o x => [Use.sized o.d (szRegs x.sz), Use.base64 o.a x.ub, .zero o.b]
  | .stG o x => [.zero o.d, Use.base64 o.a x.ub, Use.sized o.b (szRegs x.sz)]
  | .stL o x => [.zero o.d, Use.base32 o.a x.ub, Use.sized o.b (szRegs x.sz)]
  | .stP o x => [.zero o.d, Use.base32 o.a x.ub, Use.sized o.b (szRegs x.sz)]
  | .stGw o x => [.zero o.d, Use.base64 o.a x.ub, Use.sized o.b (szRegs x.sz)]
  | .atom o x => [Use.sized o.d (atyRegs x.aty), Use.base64 o.a x.ub, Use.atomB o.b x.aop x.aty]
  | .red o x => [.zero o.d, Use.base64 o.a x.ub, Use.atomB o.b x.aop x.aty]
  | .atomL o x => [Use.sized o.d (atyRegs x.aty), Use.base32 o.a x.ub, Use.atomB o.b x.aop x.aty]
  | .redL o x => [.zero o.d, Use.base32 o.a x.ub, Use.atomB o.b x.aop x.aty]
  | .ldf o x => [.v o.d 2 2, Use.base64 o.a x.ub]
  | .stf o x => [.zero o.d, Use.base64 o.a x.ub, .v o.b 2 2]
  | .fence o _ => [.zero o.d, .zero o.a, .zero o.b]
  | .pfence o _ => [.zero o.d, .zero o.a, .zero o.b]
  | .wback o x => [.zero o.d, Use.base64 o.a x.ub, .zero o.b]
  | .smp o x => [Use.sized o.d (szRegs x.sz), Use.base64 o.a x.ub, .v o.b 1 1]
  | .ldt o x => [Use.sized o.d (szRegs x.sz), .v o.a 4 4, .s o.b 1]
  | .binit o x => [.zero o.d, .s o.a 1, Use.barB o.b x.immf]
  | .barv o _ => [.zero o.d, .s o.a 1, .zero o.b]
  | .bexp o x => [.zero o.d, .s o.a 1, Use.barB o.b x.immf]
  | .bwait o x => [.zero o.d, .s o.a 1, Use.barB o.b x.immf]
  | .btest o x => [.s o.a 1, Use.barB o.b x.immf]
  | .barvx o _ => [.zero o.d, .s o.a 1, .s o.b 1]
  | .mark o _ => [.k o.d, .s o.a 2, .zero o.b]
  | .unmark o _ => [.k o.d, .zero o.a, .zero o.b]
  | .frog o _ => [.v o.d 1 1, .s o.a 2, .zero o.b]
  | .frogq o _ => [.v o.d 2 2, .zero o.a]
  | .pref o x => [.zero o.d, Use.base64 o.a x.ub, .zero o.b]
  | .cpyGl o _ => [.s o.d 1, .s o.a 2, .zero o.b]
  | .cpyLg o _ => [.s o.d 2, .s o.a 1, .zero o.b]
  | .cpyt o _ => [.s o.d 1, .s o.a 1, .s o.b 4]
  | .cpytG o _ => [.s o.d 2, .s o.a 1, .s o.b 4]
  | .cpym o _ => [.zero o.d, .s o.a 2, .s o.b 1]
  | .cpyg o _ => [.s o.d 2, .s o.a 2, .zero o.b]
  | .cdrain o _ => [.s o.d 1, .zero o.a, .zero o.b]
  | .qapp o _ => [.s o.d 2, .s o.a 1, .zero o.b]
  | .launch o _ => [.s o.d 2, .s o.a 1, .zero o.b]
  | .rapp o _ => [.v o.a 4 4, .v o.b 1 1]
  | .wmadv o _ => [.zero o.d, .s o.a 2, .zero o.b]
  | .sclose o _ => [.zero o.d, .zero o.a, .zero o.b]
  | .wpub o _ => [.zero o.d, .zero o.a, .zero o.b]
  | .wpubAmend o _ => [.zero o.d, .zero o.a, .zero o.b]
  | .bra _ => []
  | .brd _ => []
  | .brx o => [.zero o.d, .s o.a 2, .zero o.b]
  | .callx o => [.zero o.d, .s o.a 2, .zero o.b]
  | .call _ => []
  | .ret o => [.zero o.d, .s o.a 2]
  | .rgive o => [.zero o.d, .zero o.b]
  | .rclaim o => [.zero o.b]
  | .srd o _ => [.v o.d 1 1, .zero o.a]
  | .swr o _ => [.zero o.d, .v o.a 1 1]
  | .trap o => [.zero o.d, .zero o.a]
  | .trapReturn o => [.zero o.d, .zero o.a]
  | .trapTerminate o => [.zero o.d, .zero o.a]
  | .tlbinvAll o _ => [.zero o.d, .zero o.a, .zero o.b]
  | .tlbinvAsid o _ => [.zero o.d, .zero o.a, .zero o.b]
  | .tlbinvPage o _ => [.zero o.d, .s o.a 2, .zero o.b]
  | .tlbinvGpage o _ => [.zero o.d, .s o.a 2, .zero o.b]
  | .imad24I24 o => [.v o.d 1 1, .v o.a 1 1, .v o.b 1 1]
  | .imad24N24 o => [.v o.d 1 1, .v o.a 1 1, .v o.b 1 1]
  | .dot4i8I8 o => [.v o.d 1 1, .v o.a 1 1, .v o.b 1 1]
  | .dot4i8N8 o => [.v o.d 1 1, .v o.a 1 1, .v o.b 1 1]
  | .ldro o x => [Use.sized o.d (szRegs x.sz), Use.base64 o.a x.ub, .zero o.b]
  | _ => []

/-- TYPE codes of Table 6-5. -/
def isMatType (ty : BitVec 8) : Bool :=
  match ty.toNat with
  | 1 | 2 | 3 | 4 | 5 | 6 | 7 | 8 | 11 => true
  | _ => false

/-- The operation and type pairs of Table 5-14. -/
def atomPairOk (aop : BitVec 4) (aty : BitVec 3) : Bool :=
  if aop.toNat ≤ 5 ∨ aop = 8 ∨ aop = 9 then aty.toNat ≤ 3
  else if aop = 6 ∨ aop = 7 then aty.toNat ≤ 5
  else if aop.toNat ≤ 12 then 4 ≤ aty.toNat
  else false

/-- Special-register indices of Table 12-17. -/
def isSpecial (ix : BitVec 6) : Bool := ix.toNat ≤ 30 ∨ (32 ≤ ix.toNat ∧ ix.toNat ≤ 35)

/-- Special registers that SWR may write (Table 12-17). -/
def isWritable (ix : BitVec 6) : Bool := (20 ≤ ix.toNat ∧ ix.toNat ≤ 24) ∨ (32 ≤ ix.toNat ∧ ix.toNat ≤ 35)

/-- Type codes that CVT accepts as a source (R309, Table 10-1). -/
def isCvtType (c : BitVec 8) : Bool := (1 ≤ c.toNat ∧ c.toNat ≤ 14) ∨ c = 18

/-- A detail, when the condition holds. -/
def errIf (c : Bool) (detail : Nat) : List Nat := if c then [detail] else []

/-- Field checks of an XMEM word by Table 15-1: the orders allowed, whether SX is, details 4. -/
def XMem.errs (x : XMem) (ords : List Nat) (sxOk : Bool) : List Nat :=
  errIf (¬ ords.contains x.ord.toNat) 4 ++ errIf (5 ≤ x.sz.toNat) 4 ++
    errIf (x.sx = 1 ∧ ¬ (sxOk ∧ x.sz.toNat ≤ 1)) 4

/-- Field checks of XMAT by Table 14-1: C, a slice, SX and the IX bits that the row names, and the types. -/
def XMat.errs (x : XMat) (c slice sx : Bool) (ixMask : BitVec 4) (types : List Nat) : List Nat :=
  errIf (¬ c ∧ x.c ≠ 0) 2 ++ errIf (¬ slice ∧ x.slc ≠ 0) 4 ++ errIf (¬ slice ∧ ¬ sx ∧ x.sx ≠ 0) 2 ++
    errIf (¬ slice ∧ x.ix &&& ~~~ ixMask ≠ 0) 2 ++ errIf (x.nr ≠ 0 ∨ x.nc ≠ 0) 2 ++
    (if types.isEmpty then errIf (x.ty ≠ 0) 2 else errIf (x.ty ≠ 0 ∧ ¬ types.contains x.ty.toNat) 4)

/-- Field checks of the second word of MLD, MST and MLDW by R311, R312 and R320. -/
def MMem.errs (x : MMem) (shape tensor : Bool) (ords types : List Nat) : List Nat :=
  errIf (x.res ≠ 0) 2 ++ errIf (¬ shape ∧ x.shp ≠ 0) 2 ++ errIf (¬ tensor ∧ x.sx ≠ 0) 2 ++
    errIf (¬ ords.contains x.ord.toNat) 4 ++ errIf (x.ty ≠ 0 ∧ ¬ types.contains x.ty.toNat) 4 ++
    (if shape ∧ x.shp = 1 then errIf (x.ty = 0 ∨ 8 ≤ x.nr.toNat ∨ 8 ≤ x.nc.toNat) 4
     else errIf (x.nr ≠ 0 ∨ x.nc ≠ 0) 2)

/-- Field checks of XASY by Table 16-1: whether BOS, LEN and ACQ or REL are used. -/
def XAsy.errs (x : XAsy) (bos order : Bool) (len : List Nat) : List Nat :=
  errIf (x.rm ≠ 0) 2 ++ errIf (¬ bos ∧ x.bos ≠ 0) 2 ++ errIf (¬ order ∧ (x.acq ≠ 0 ∨ x.rel ≠ 0)) 2 ++ len

/-- Every tag type (Table 6-5). -/
def allTypes : List Nat := [1, 2, 3, 4, 5, 6, 7, 8, 11]

/-- The other static checks of an instruction's fields, as details of Table 12-15. -/
def Instr.fieldErrs : Instr → List Nat
  | .popc o => errIf (2 ≤ o.h.toNat) 4
  | .clz o => errIf (2 ≤ o.h.toNat) 4
  | .ctz o => errIf (2 ≤ o.h.toNat) 4
  | .brev o => errIf (2 ≤ o.h.toNat) 4
  | .bswap o => errIf (2 ≤ o.h.toNat) 4
  | .notV o => errIf (2 ≤ o.h.toNat) 4
  | .bfeI32 _ x => errIf (x.res ≠ 0) 2 ++ errIf (32 ≤ x.pos.toNat + x.len.toNat) 4
  | .bfeN32 _ x => errIf (x.res ≠ 0) 2 ++ errIf (32 ≤ x.pos.toNat + x.len.toNat) 4
  | .bfi _ x => errIf (x.res ≠ 0) 2 ++ errIf (32 ≤ x.pos.toNat + x.len.toNat) 4
  | .mov o => errIf (2 ≤ o.h.toNat) 4
  | .icmpI32 o => errIf (6 ≤ o.cc.toNat) 4
  | .icmpN32 o => errIf (6 ≤ o.cc.toNat) 4
  | .sel _ x => errIf (x.res ≠ 0) 2
  | .qswph o => errIf (2 ≤ o.h.toNat) 4
  | .qswpv o => errIf (2 ≤ o.h.toNat) 4
  | .qswpd o => errIf (2 ≤ o.h.toNat) 4
  | .qbc0 o => errIf (2 ≤ o.h.toNat) 4
  | .qbc1 o => errIf (2 ≤ o.h.toNat) 4
  | .qbc2 o => errIf (2 ≤ o.h.toNat) 4
  | .qbc3 o => errIf (2 ≤ o.h.toNat) 4
  | .scmp o => errIf (6 ≤ o.cc.toNat) 4
  | .rcp o => errIf (2 ≤ o.h.toNat) 4
  | .rsq o => errIf (2 ≤ o.h.toNat) 4
  | .exp2 o => errIf (2 ≤ o.h.toNat) 4
  | .log2 o => errIf (2 ≤ o.h.toNat) 4
  | .sinr o => errIf (2 ≤ o.h.toNat) 4
  | .cosr o => errIf (2 ≤ o.h.toNat) 4
  | .tanh o => errIf (2 ≤ o.h.toNat) 4
  | .floor o => errIf (2 ≤ o.h.toNat) 4
  | .ceil o => errIf (2 ≤ o.h.toNat) 4
  | .trunc o => errIf (2 ≤ o.h.toNat) 4
  | .rint o => errIf (2 ≤ o.h.toNat) 4
  | .fract o => errIf (2 ≤ o.h.toNat) 4
  | .cvt _ x => errIf (x.res ≠ 0) 2 ++ errIf (¬ isCvtType x.st ∨ ¬ isCvtType x.dt ∨ x.dt = 18) 4
  | .mshapeImm _ x => errIf (x.c ≠ 0) 2 ++ errIf (x.slc ≠ 0) 4 ++ errIf (x.sx ≠ 0 ∨ x.ix ≠ 0) 2 ++
    errIf (¬ isMatType x.ty ∨ 8 ≤ x.nr.toNat ∨ 8 ≤ x.nc.toNat) 4
  | .mshapeLane _ x => x.errs false false false 0 []
  | .mld _ x => x.errs true false [0, 1] allTypes
  | .mldT _ x => x.errs false true [0] allTypes
  | .mst _ x => x.errs false false [0, 2] allTypes
  | .mstT _ x => x.errs false true [0, 2] allTypes
  | .mldw _ x => x.errs false true [0] [3]
  | .mmul _ x => x.errs false false false 0 [1, 2, 3, 4, 5, 6, 7, 8]
  | .mma _ x => x.errs true false false 0 [1, 2, 3, 4, 5, 6, 7, 8]
  | .mmat _ x => x.errs true false false 0 [1, 2, 3, 4, 5, 6, 7, 8]
  | .mmab _ x => x.errs true false false 0 [1, 2, 3, 4, 5, 6, 7, 8]
  | .madd _ x => x.errs false false false 0 allTypes
  | .msub _ x => x.errs false false false 0 allTypes
  | .mhad _ x => x.errs false false false 0 allTypes
  | .mscal _ x => x.errs false true false 0 allTypes
  | .mexp2 _ x => x.errs false false false 0 [1, 2, 3]
  | .mmax _ x => x.errs false false false 0 allTypes
  | .mzero _ x => x.errs false false false 0 []
  | .mcvt _ x => x.errs false false false 3 allTypes ++ errIf (x.ty = 0) 4
  | .mtrn _ x => x.errs false false false 0 allTypes
  | .mmov _ x => x.errs false true false 0 allTypes
  | .mget _ x => x.errs false true false 0 allTypes
  | .mput _ x => x.errs false true false 0 allTypes
  | .mred o x => x.errs false true false 0 allTypes ++ errIf (3 ≤ o.b.toNat) 4
  | .mshget _ x => x.errs false false false 0 []
  | .minv _ x => x.errs false false false 0 [1, 4]
  | .mlu _ x => x.errs false false false 0 [1, 4]
  | .mchol _ x => x.errs false false false 0 [1, 4]
  | .msolvl _ x => x.errs false false false 1 [1, 4]
  | .msolvu _ x => x.errs false false false 1 [1, 4]
  | .mpow _ x => x.errs false false true 0 [1, 4]
  | .mdet _ x => x.errs false false false 0 [1, 4]
  | .topkIns _ x => x.errs false false false 0 []
  | .topkGet _ x => x.errs false false true 15 []
  | .topkClr _ x => x.errs false false true 15 []
  | .ldG _ x => x.errs [0, 1] true
  | .ldL _ x => x.errs [0, 1] true
  | .ldP _ x => x.errs [0, 1] true
  | .ldC _ x => x.errs [0, 1] true
  | .stG _ x => x.errs [0, 2] false
  | .stL _ x => x.errs [0, 2] false
  | .stP _ x => x.errs [0, 2] false
  | .stGw _ x => x.errs [0, 2] false
  | .atom _ x => errIf (¬ atomPairOk x.aop x.aty) 4
  | .red _ x => errIf (¬ atomPairOk x.aop x.aty) 4 ++ errIf (x.ord ≠ 0 ∧ x.ord ≠ 2) 4
  | .atomL _ x => errIf (¬ atomPairOk x.aop x.aty) 4
  | .redL _ x => errIf (¬ atomPairOk x.aop x.aty) 4 ++ errIf (x.ord ≠ 0 ∧ x.ord ≠ 2) 4
  | .ldf _ x => x.errs [0, 1] false ++ errIf (x.sz ≠ 3) 4
  | .stf _ x => x.errs [0, 1, 2, 3] false ++ errIf (x.sz ≠ 3) 4
  | .fence _ x => errIf (x.res ≠ 0 ∨ x.paths ≠ 0) 2
  | .pfence _ x => errIf (x.res ≠ 0) 2 ++ errIf (x.ord ≠ 0 ∨ x.paths = 0) 4
  | .wback _ x => x.errs [0] false ++ errIf (x.scope ≠ 0) 2 ++ errIf (x.sz ≠ 0) 4
  | .smp _ x => x.errs [0, 1] true
  | .ldt _ x => x.errs [0, 1] true ++ errIf (x.ub ≠ 0) 4
  | .binit _ x => errIf (x.res ≠ 0) 2 ++ errIf (x.immf = 0 ∧ x.value ≠ 0) 2
  | .barv _ x => errIf (x.res ≠ 0 ∨ x.immf ≠ 0 ∨ x.value ≠ 0) 2
  | .bexp _ x => errIf (x.res ≠ 0 ∨ x.scope ≠ 0) 2 ++ errIf (x.immf = 0 ∧ x.value ≠ 0) 2
  | .bwait _ x => errIf (x.res ≠ 0) 2 ++ errIf (if x.immf = 0 then x.value ≠ 0 else 16 ≤ x.value.toNat) 2
  | .btest _ x => errIf (x.res ≠ 0) 2 ++ errIf (if x.immf = 0 then x.value ≠ 0 else 16 ≤ x.value.toNat) 2
  | .barvx _ x => errIf (x.res ≠ 0) 2 ++ errIf (x.immf = 0 ∨ x.value = 0) 4
  | .mark _ x => errIf (x.res ≠ 0 ∨ x.scope ≠ 0) 2
  | .unmark _ x => errIf (x.res ≠ 0 ∨ x.scope ≠ 0) 2
  | .frog _ x => errIf (x.res ≠ 0) 2
  | .frogq _ x => errIf (x.res ≠ 0 ∨ x.scope ≠ 0) 2
  | .pref _ x => x.errs [0] false ++ errIf (x.scope ≠ 0) 2 ++ errIf (2 ≤ x.sz.toNat) 4
  | .cpyGl _ x => x.errs true true []
  | .cpyLg _ x => x.errs false true []
  | .cpyt _ x => x.errs true true []
  | .cpytG _ x => x.errs false true []
  | .cpym _ x => x.errs false true (errIf (x.len = 0 ∨ 128 < x.len.toNat) 4)
  | .cpyg _ x => x.errs false true []
  | .cdrain _ x => x.errs true true (errIf (x.len ≠ 0) 2)
  | .qapp _ x => x.errs false true (errIf (64 ≤ x.len.toNat) 2)
  | .launch _ x => x.errs false true (errIf (x.len ≠ 0) 2)
  | .rapp _ x => x.errs false false (errIf (256 ≤ x.len.toNat) 2)
  | .wmadv _ x => x.errs false false (errIf (256 ≤ x.len.toNat) 2)
  | .sclose _ x => x.errs false false (errIf (256 ≤ x.len.toNat) 2)
  | .wpub _ x => x.errs false false (errIf (x.len ≠ 0) 2)
  | .wpubAmend _ x => x.errs false false (errIf (x.len ≠ 0) 2)
  | .ret o => errIf (o.h ≠ 0) 2
  | .rgive o => errIf (o.a = 0 ∨ 8 ≤ o.a.toNat) 4
  | .rclaim o => errIf (o.a = 0 ∨ 8 ≤ o.a.toNat) 4
  | .srd o ix => errIf (¬ isSpecial ix) 1 ++ errIf (o.h ≠ 0) 2
  | .swr o ix => errIf (¬ isSpecial ix) 1 ++ errIf (2 ≤ o.h.toNat) 4 ++ errIf (isSpecial ix ∧ ¬ isWritable ix) 7
  | .tlbinvAll _ x => errIf (x.res ≠ 0 ∨ x.asid ≠ 0) 2
  | .tlbinvAsid _ x => errIf (x.res ≠ 0) 2
  | .tlbinvPage _ x => errIf (x.res ≠ 0) 2
  | .tlbinvGpage _ x => errIf (x.res ≠ 0 ∨ x.asid ≠ 0) 2
  | .ldro _ x => x.errs [0] true ++ errIf (x.scope ≠ 0) 2
  | _ => []

/-- The lowest of some details: where several checks fail, the lowest detail is the one reported
(DESIGN CHOICE, log 10). -/
def leastDetail : List Nat → Option Nat
  | [] => none
  | d :: ds => match leastDetail ds with
    | none => some d
    | some e => some (min d e)

/-- The static check of an instruction (R276): the detail of its illegal-instruction fault, if any. -/
def Instr.staticErr (i : Instr) : Option Nat := leastDetail (i.fieldErrs ++ i.uses.filterMap Use.err)

/-- A retired form takes its fault before any other check (R277, R382). -/
def Instr.isRetired : Instr → Bool
  | .imad24I24 _ | .imad24N24 _ | .dot4i8I8 _ | .dot4i8N8 _ | .ldro _ _ => true
  | _ => false

/-- Why words are no instruction. -/
inductive DecodeErr where
  /-- The words end inside the instruction. -/
  | truncated
  /-- An illegal instruction, with its detail (Table 12-15). -/
  | illegal (detail : Nat)
  deriving DecidableEq, Repr

/-- Decode the instruction whose words are w and w1. -/
def decodeWords (w w1 : Word) : Except DecodeErr Instr :=
  match parse w w1 with
  | .error d => .error (.illegal d)
  | .ok i => if i.isRetired then .ok i else
    match i.staticErr with
    | none => .ok i
    | some d => .error (.illegal d)

/-- What decoding the first instruction of a list of words gives: its guard, the instruction, the words after it. -/
structure Decoded where
  guard : Guard
  instr : Instr
  rest  : List Word
  deriving DecidableEq, Repr

/-- Decode the first instruction of a list of words. -/
def decode : List Word → Except DecodeErr Decoded
  | [] => .error .truncated
  | w :: ws =>
    if isX (majorOf w) then
      match ws with
      | [] => .error .truncated
      | w1 :: rest => (decodeWords w w1).map fun i => { guard := guardOf w, instr := i, rest := rest }
    else (decodeWords w 0).map fun i => { guard := guardOf w, instr := i, rest := ws }

/-- Little-endian bytes of n, k of them (R9). -/
def bytesLE : Nat → Nat → List Byte
  | 0, _ => []
  | k + 1, n => BitVec.ofNat 8 n :: bytesLE k (n / 256)

/-- The number that little-endian bytes hold (R9). -/
def natLE : List Byte → Nat
  | [] => 0
  | b :: bs => b.toNat + 256 * natLE bs

/-- The 32-bit little-endian words of bytes (R257). -/
def wordsOfBytes : List Byte → List Word
  | a :: b :: c :: d :: rest => word (natLE [a, b, c, d]) :: wordsOfBytes rest
  | _ => []

/-- Decode the first instruction of some bytes. -/
def decodeBytes (bs : List Byte) : Except DecodeErr Decoded := decode (wordsOfBytes bs)

/-- Word 0 of format R. -/
def packR (g : Guard) (major v : Nat) (o : OpR) : Word :=
  word (((((((major * 2 + g.neg.toNat) * 8 + g.p.toNat) * 64 + o.d.toNat) * 64 + o.a.toNat) * 64 + o.b.toNat) * 2 + v)
    * 4 + o.h.toNat)

/-- Word 0 of formats G and X. -/
def packG (g : Guard) (major fn : Nat) (o : OpG) : Word :=
  word ((((((major * 2 + g.neg.toNat) * 8 + g.p.toNat) * 64 + o.d.toNat) * 64 + o.a.toNat) * 64 + o.b.toNat) * 8 + fn)

/-- Word 0 of format U, with V 0. -/
def packU (g : Guard) (major fn : Nat) (o : OpU) : Word :=
  word ((((((major * 2 + g.neg.toNat) * 8 + g.p.toNat) * 64 + o.d.toNat) * 64 + o.a.toNat) * 64 + fn) * 8 + o.h.toNat)

/-- Word 0 of format I. -/
def packI (g : Guard) (major : Nat) (o : OpI) : Word :=
  word (((((major * 2 + g.neg.toNat) * 8 + g.p.toNat) * 64 + o.d.toNat) * 64 + o.a.toNat) * 512 + o.imm.toNat)

/-- Word 0 of format C. -/
def packC (g : Guard) (major : Nat) (o : OpC) : Word :=
  word ((((((major * 2 + g.neg.toNat) * 8 + g.p.toNat) * 64 + o.d.toNat) * 64 + o.a.toNat) * 64 + o.b.toNat) * 8
    + o.cc.toNat)

/-- Word 0 of format J. -/
def packJ (g : Guard) (major : Nat) (o : OpJ) : Word :=
  word (((major * 2 + g.neg.toNat) * 8 + g.p.toNat) * 2097152 + o.off.toNat)

/-- Word 0 of BRD. -/
def packB (g : Guard) (o : OpB) : Word := word ((((97 * 2 + g.neg.toNat) * 8 + g.p.toNat) * 262144 + o.t.toNat) * 8)

/-- XMEM as a word. -/
def XMem.pack (x : XMem) : Word :=
  word (((((x.scope.toNat * 4 + x.ord.toNat) * 8 + x.sz.toNat) * 2 + x.ub.toNat) * 2 + x.sx.toNat) * 1048576 + x.off.toNat)

/-- XATM as a word. -/
def XAtm.pack (x : XAtm) : Word :=
  word (((((x.scope.toNat * 4 + x.ord.toNat) * 16 + x.aop.toNat) * 8 + x.aty.toNat) * 2 + x.ub.toNat) * 131072 + x.off.toNat)

/-- XMAT as a word. -/
def XMat.pack (x : XMat) : Word :=
  word ((((((x.c.toNat * 4 + x.slc.toNat) * 64 + x.sx.toNat) * 16 + x.ix.toNat) * 256 + x.ty.toNat) * 16 + x.nr.toNat) * 16
    + x.nc.toNat)

/-- The second word of MLD, MST and MLDW as a word. -/
def MMem.pack (x : MMem) : Word :=
  word (((((((x.scope.toNat * 2 + x.shp.toNat) * 64 + x.sx.toNat) * 4 + x.res.toNat) * 4 + x.ord.toNat) * 256 + x.ty.toNat)
    * 16 + x.nr.toNat) * 16 + x.nc.toNat)

/-- XASY as a word. -/
def XAsy.pack (x : XAsy) : Word :=
  word (((((x.scope.toNat * 2 + x.acq.toNat) * 2 + x.rel.toNat) * 64 + x.bos.toNat) * 8 + x.rm.toNat) * 65536 + x.len.toNat)

/-- The literal word. -/
def XLit.pack (x : XLit) : Word := x.xl

/-- The field word of 0x08. -/
def XBf.pack (x : XBf) : Word := word ((x.res.toNat * 32 + x.pos.toNat) * 32 + x.len.toNat)

/-- The selecting word of 0x0F. -/
def XSel.pack (x : XSel) : Word := word (x.res.toNat * 64 + x.psel.toNat)

/-- The conversion word of 0x2A. -/
def XCvt.pack (x : XCvt) : Word :=
  word ((((x.res.toNat * 4 + x.rmo.toNat) * 2 + x.sat.toNat) * 256 + x.dt.toNat) * 256 + x.st.toNat)

/-- The fence word of 0x45. -/
def XFence.pack (x : XFence) : Word :=
  word (((x.scope.toNat * 4 + x.ord.toNat) * 2097152 + x.res.toNat) * 16 + x.paths.toNat)

/-- The barrier word of 0x48. -/
def XBar.pack (x : XBar) : Word :=
  word (((x.scope.toNat * 16384 + x.res.toNat) * 2 + x.immf.toNat) * 4096 + x.value.toNat)

/-- The marker word of 0x49. -/
def XMark.pack (x : XMark) : Word := word (x.scope.toNat * 134217728 + x.res.toNat)

/-- The TLBINV word of 0x75. -/
def XTlb.pack (kind : Nat) (x : XTlb) : Word := word ((kind * 262144 + x.res.toNat) * 4096 + x.asid.toNat)

/-- The words of an instruction (R263); the steps of the units have none. -/
def encode (g : Guard) : Instr → List Word
  | .iadd o => [packR g 1 0 o]
  | .isub o => [packR g 1 1 o]
  | .imul o => [packR g 2 0 o]
  | .imad o => [packR g 2 1 o]
  | .imulhI32 o => [packG g 3 0 o]
  | .imulhN32 o => [packG g 3 1 o]
  | .imulwI32 o => [packG g 3 2 o]
  | .imulwN32 o => [packG g 3 3 o]
  | .andV o => [packG g 4 0 o]
  | .orV o => [packG g 4 1 o]
  | .xorV o => [packG g 4 2 o]
  | .andn o => [packG g 4 3 o]
  | .orn o => [packG g 4 4 o]
  | .xnor o => [packG g 4 5 o]
  | .shl o => [packG g 5 0 o]
  | .shr o => [packG g 5 1 o]
  | .sar o => [packG g 5 2 o]
  | .rol o => [packG g 5 3 o]
  | .ror o => [packG g 5 4 o]
  | .shl64 o => [packG g 5 5 o]
  | .shr64 o => [packG g 5 6 o]
  | .sar64 o => [packG g 5 7 o]
  | .iminI32 o => [packG g 6 0 o]
  | .imaxI32 o => [packG g 6 1 o]
  | .iminN32 o => [packG g 6 2 o]
  | .imaxN32 o => [packG g 6 3 o]
  | .iabs o => [packG g 6 4 o]
  | .ineg o => [packG g 6 5 o]
  | .iaddsI32 o => [packG g 6 6 o]
  | .iaddsN32 o => [packG g 6 7 o]
  | .popc o => [packU g 7 0 o]
  | .clz o => [packU g 7 1 o]
  | .ctz o => [packU g 7 2 o]
  | .brev o => [packU g 7 3 o]
  | .bswap o => [packU g 7 4 o]
  | .notV o => [packU g 7 5 o]
  | .bfeI32 o x => [packG g 8 0 o, x.pack]
  | .bfeN32 o x => [packG g 8 1 o, x.pack]
  | .bfi o x => [packG g 8 2 o, x.pack]
  | .iaddi o => [packI g 9 o]
  | .mov o => [packU g 10 0 o]
  | .movk o x => [packG g 11 0 o, x.pack]
  | .movkW o x => [packG g 11 1 o, x.pack]
  | .icmpI32 o => [packC g 12 o]
  | .icmpN32 o => [packC g 13 o]
  | .iadd64 o => [packR g 14 0 o]
  | .isub64 o => [packR g 14 1 o]
  | .sel o x => [packG g 15 0 o, x.pack]
  | .lea o sh => [packG g 16 sh.toNat o]
  | .pand o => [packG g 17 0 o]
  | .por o => [packG g 17 1 o]
  | .pxor o => [packG g 17 2 o]
  | .pandn o => [packG g 17 3 o]
  | .pmov o => [packG g 17 4 o]
  | .pnot o => [packG g 17 5 o]
  | .psetv o => [packG g 17 6 o]
  | .pgetv o => [packG g 17 7 o]
  | .voteAny o => [packG g 18 0 o]
  | .voteAll o => [packG g 18 1 o]
  | .voteBallot o => [packG g 18 2 o]
  | .voteCount o => [packG g 18 3 o]
  | .cableAt o => [packG g 19 0 o]
  | .cableBack o => [packG g 19 1 o]
  | .cableFwd o => [packG g 19 2 o]
  | .cableFlip o => [packG g 19 3 o]
  | .qswph o => [packU g 20 0 o]
  | .qswpv o => [packU g 20 1 o]
  | .qswpd o => [packU g 20 2 o]
  | .qbc0 o => [packU g 20 3 o]
  | .qbc1 o => [packU g 20 4 o]
  | .qbc2 o => [packU g 20 5 o]
  | .qbc3 o => [packU g 20 6 o]
  | .foldAddI32 o => [packG g 21 0 o]
  | .foldMinI32 o => [packG g 21 1 o]
  | .foldMaxI32 o => [packG g 21 2 o]
  | .foldAnd o => [packG g 21 3 o]
  | .foldOr o => [packG g 21 4 o]
  | .foldXor o => [packG g 21 5 o]
  | .foldFadd o => [packG g 21 6 o]
  | .nzs o => [packG g 22 0 o]
  | .sadd o => [packG g 23 0 o]
  | .ssub o => [packG g 23 1 o]
  | .smul o => [packG g 23 2 o]
  | .sand o => [packG g 23 3 o]
  | .sor o => [packG g 23 4 o]
  | .sxor o => [packG g 23 5 o]
  | .sshl o => [packG g 23 6 o]
  | .sshr o => [packG g 23 7 o]
  | .saddi o => [packI g 24 o]
  | .smovk o x => [packG g 25 0 o, x.pack]
  | .smovkW o x => [packG g 25 1 o, x.pack]
  | .scmp o => [packC g 26 o]
  | .vbc o => [packG g 27 0 o]
  | .sfirst o => [packG g 27 1 o]
  | .slane o => [packG g 27 2 o]
  | .fadd o => [packR g 32 0 o]
  | .fsub o => [packR g 32 1 o]
  | .fmul o => [packR g 33 0 o]
  | .ffma o => [packR g 33 1 o]
  | .fmin o => [packG g 34 0 o]
  | .fmax o => [packG g 34 1 o]
  | .fminp o => [packG g 34 2 o]
  | .fmaxp o => [packG g 34 3 o]
  | .fabs o => [packG g 34 4 o]
  | .fneg o => [packG g 34 5 o]
  | .fcopys o => [packG g 34 6 o]
  | .fcmp o => [packC g 35 o]
  | .rcp o => [packU g 36 0 o]
  | .rsq o => [packU g 36 1 o]
  | .exp2 o => [packU g 36 2 o]
  | .log2 o => [packU g 36 3 o]
  | .sinr o => [packU g 36 4 o]
  | .cosr o => [packU g 36 5 o]
  | .tanh o => [packU g 36 6 o]
  | .floor o => [packU g 36 8 o]
  | .ceil o => [packU g 36 9 o]
  | .trunc o => [packU g 36 10 o]
  | .rint o => [packU g 36 11 o]
  | .fract o => [packU g 36 12 o]
  | .fdiv o => [packG g 37 0 o]
  | .fsqrt o => [packG g 37 1 o]
  | .hadd2 o => [packG g 38 0 o]
  | .hsub2 o => [packG g 38 1 o]
  | .hmul2 o => [packG g 38 2 o]
  | .hfma2 o => [packG g 38 3 o]
  | .hmin2 o => [packG g 38 4 o]
  | .hmax2 o => [packG g 38 5 o]
  | .badd2 o => [packG g 39 0 o]
  | .bsub2 o => [packG g 39 1 o]
  | .bmul2 o => [packG g 39 2 o]
  | .bfma2 o => [packG g 39 3 o]
  | .bmin2 o => [packG g 39 4 o]
  | .bmax2 o => [packG g 39 5 o]
  | .dadd o => [packG g 40 0 o]
  | .dsub o => [packG g 40 1 o]
  | .dmul o => [packG g 40 2 o]
  | .dfma o => [packG g 40 3 o]
  | .dmin o => [packG g 40 4 o]
  | .dmax o => [packG g 40 5 o]
  | .ddiv o => [packG g 40 6 o]
  | .dsqrt o => [packG g 40 7 o]
  | .dcmp o => [packC g 41 o]
  | .cvt o x => [packG g 42 0 o, x.pack]
  | .mshapeImm o x => [packG g 48 0 o, x.pack]
  | .mshapeLane o x => [packG g 48 0 o, x.pack]
  | .mld o x => [packG g 49 0 o, x.pack]
  | .mldT o x => [packG g 49 1 o, x.pack]
  | .mst o x => [packG g 50 0 o, x.pack]
  | .mstT o x => [packG g 50 1 o, x.pack]
  | .mldw o x => [packG g 51 0 o, x.pack]
  | .mmul o x => [packG g 52 0 o, x.pack]
  | .mma o x => [packG g 52 1 o, x.pack]
  | .mmat o x => [packG g 52 2 o, x.pack]
  | .mmab o x => [packG g 52 3 o, x.pack]
  | .madd o x => [packG g 53 0 o, x.pack]
  | .msub o x => [packG g 53 1 o, x.pack]
  | .mhad o x => [packG g 53 2 o, x.pack]
  | .mscal o x => [packG g 53 3 o, x.pack]
  | .mexp2 o x => [packG g 53 4 o, x.pack]
  | .mmax o x => [packG g 53 5 o, x.pack]
  | .mzero o x => [packG g 53 6 o, x.pack]
  | .mcvt o x => [packG g 53 7 o, x.pack]
  | .mtrn o x => [packG g 54 0 o, x.pack]
  | .mmov o x => [packG g 54 1 o, x.pack]
  | .mget o x => [packG g 54 2 o, x.pack]
  | .mput o x => [packG g 54 3 o, x.pack]
  | .mred o x => [packG g 54 4 o, x.pack]
  | .mshget o x => [packG g 54 5 o, x.pack]
  | .minv o x => [packG g 55 0 o, x.pack]
  | .mlu o x => [packG g 55 1 o, x.pack]
  | .mchol o x => [packG g 55 2 o, x.pack]
  | .msolvl o x => [packG g 55 3 o, x.pack]
  | .msolvu o x => [packG g 55 4 o, x.pack]
  | .mpow o x => [packG g 55 5 o, x.pack]
  | .mdet o x => [packG g 55 6 o, x.pack]
  | .topkIns o x => [packG g 56 0 o, x.pack]
  | .topkGet o x => [packG g 56 1 o, x.pack]
  | .topkClr o x => [packG g 56 2 o, x.pack]
  | .ldG o x => [packG g 64 0 o, x.pack]
  | .ldL o x => [packG g 64 1 o, x.pack]
  | .ldP o x => [packG g 64 2 o, x.pack]
  | .ldC o x => [packG g 64 3 o, x.pack]
  | .stG o x => [packG g 65 0 o, x.pack]
  | .stL o x => [packG g 65 1 o, x.pack]
  | .stP o x => [packG g 65 2 o, x.pack]
  | .stGw o x => [packG g 65 3 o, x.pack]
  | .atom o x => [packG g 66 0 o, x.pack]
  | .red o x => [packG g 66 1 o, x.pack]
  | .atomL o x => [packG g 66 2 o, x.pack]
  | .redL o x => [packG g 66 3 o, x.pack]
  | .ldf o x => [packG g 67 0 o, x.pack]
  | .stf o x => [packG g 68 0 o, x.pack]
  | .fence o x => [packG g 69 0 o, x.pack]
  | .pfence o x => [packG g 69 1 o, x.pack]
  | .wback o x => [packG g 69 2 o, x.pack]
  | .smp o x => [packG g 70 0 o, x.pack]
  | .ldt o x => [packG g 71 0 o, x.pack]
  | .binit o x => [packG g 72 0 o, x.pack]
  | .barv o x => [packG g 72 1 o, x.pack]
  | .bexp o x => [packG g 72 2 o, x.pack]
  | .bwait o x => [packG g 72 3 o, x.pack]
  | .btest o x => [packG g 72 4 o, x.pack]
  | .barvx o x => [packG g 72 5 o, x.pack]
  | .mark o x => [packG g 73 0 o, x.pack]
  | .unmark o x => [packG g 73 1 o, x.pack]
  | .frog o x => [packG g 73 2 o, x.pack]
  | .frogq o x => [packG g 73 3 o, x.pack]
  | .pref o x => [packG g 74 0 o, x.pack]
  | .cpyGl o x => [packG g 80 0 o, x.pack]
  | .cpyLg o x => [packG g 80 1 o, x.pack]
  | .cpyt o x => [packG g 80 2 o, x.pack]
  | .cpytG o x => [packG g 80 2 o, x.pack]
  | .cpym o x => [packG g 80 3 o, x.pack]
  | .cpyg o x => [packG g 80 4 o, x.pack]
  | .cdrain o x => [packG g 80 5 o, x.pack]
  | .qapp o x => [packG g 81 0 o, x.pack]
  | .launch o x => [packG g 82 0 o, x.pack]
  | .succ => [packU g 83 0 (⟨0, 0, 0⟩ : OpU)]
  | .predw => [packU g 83 1 (⟨0, 0, 0⟩ : OpU)]
  | .rapp o x => [packG g 84 0 o, x.pack]
  | .wmadv o x => [packG g 85 0 o, x.pack]
  | .sclose o x => [packG g 85 1 o, x.pack]
  | .wpub o x => [packG g 86 0 o, x.pack]
  | .wpubAmend o x => [packG g 86 1 o, x.pack]
  | .bra o => [packJ g 96 o]
  | .brd o => [packB g o, o.j]
  | .brx o => [packG g 98 0 o]
  | .callx o => [packG g 98 1 o]
  | .call o => [packJ g 99 o]
  | .ret o => [packU g 100 0 o]
  | .exit => [packU g 101 0 (⟨0, 0, 0⟩ : OpU)]
  | .endTeam => [packU g 102 0 (⟨0, 0, 0⟩ : OpU)]
  | .nop => [packU g 103 0 (⟨0, 0, 0⟩ : OpU)]
  | .yield => [packU g 104 0 (⟨0, 0, 0⟩ : OpU)]
  | .rgive o => [packG g 105 0 o]
  | .rclaim o => [packG g 105 1 o]
  | .srd o ix => [packU g 112 ix.toNat o]
  | .swr o ix => [packU g 113 ix.toNat o]
  | .trap o => [packI g 114 o]
  | .trapReturn o => [packI g 114 o]
  | .trapTerminate o => [packI g 114 o]
  | .bkpt => [packU g 115 0 (⟨0, 0, 0⟩ : OpU)]
  | .eret => [packU g 116 0 (⟨0, 0, 0⟩ : OpU)]
  | .tlbinvAll o x => [packG g 117 0 o, x.pack 0]
  | .tlbinvAsid o x => [packG g 117 0 o, x.pack 1]
  | .tlbinvPage o x => [packG g 117 0 o, x.pack 2]
  | .tlbinvGpage o x => [packG g 117 0 o, x.pack 3]
  | .imad24I24 o => [packR g 124 0 o]
  | .imad24N24 o => [packR g 124 1 o]
  | .dot4i8I8 o => [packG g 125 0 o]
  | .dot4i8N8 o => [packG g 125 1 o]
  | .ldro o x => [packG g 126 0 o, x.pack]
  | _ => []

/-- The forms that share a major and FN are told apart by a field (Tables 14-1, 16-1, 16-5, R379). -/
def Instr.formOk : Instr → Bool
  | .mshapeImm _ x => x.ty ≠ 0
  | .mshapeLane _ x => x.ty = 0
  | .cpyt _ x => x.len.toNat < 32768
  | .cpytG _ x => 32768 ≤ x.len.toNat
  | .trap o => o.imm ≠ 510 ∧ o.imm ≠ 511
  | .trapReturn o => o.imm = 511
  | .trapTerminate o => o.imm = 510
  | _ => true

/-- An instruction of the opcode map, as against a step of a unit. -/
def Instr.hasWords (i : Instr) : Bool := ¬ (encode { neg := 0, p := 7 } i).isEmpty

/-- The instruction the decoder reads from bits numbered as spec/opcode_table.json numbers them: word 0 in
bits 31:0, word 1 in bits 63:32, laid out as little-endian bytes. -/
def decodeTableWord (nbits w : Nat) : Option Instr :=
  match decodeBytes (bytesLE 8 (w % 2 ^ nbits)) with
  | .ok d => some d.instr
  | .error _ => none

end Sys2Proof
end

