-- ==== Sys2Proof/Machine/State.lean ====
section
/-! DEFINITION. The state of the K9, as plain data: everything the spec gives the machine, one record per unit,
and the state right after reset. Registers of paths, lanes and teams; contexts, grids, groups; caches, directory,
deferral buffer, creel; queues, engines, streams; host registers. `turns`, `cur`, `guard`, `mode`, `input`,
`free` and `fresh` are the model's own (logs 1 and 2). -/

namespace Sys2Proof.Machine

/-- Why a step stops. -/
inductive Fault where
  /-- An instruction of the opcode map is executed while no path is current: raised by every meaning of such an
  instruction. No step of the machine does so (a step sets the current path first), so the stop is safe. -/
  | noPath
  deriving DecidableEq, Repr

/-- Why an instruction has no meaning. -/
inductive Refusal where
  /-- The instruction with this mnemonic has no meaning in the model yet: raised by an arm of `exec`. Safe. -/
  | notModelled (mnemonic : String)
  deriving DecidableEq, Repr

/-- A matrix slot of a lane (R161): 16-bit shape tag (Table 6-5) and 128 bytes. -/
structure MReg where
  tag  : BitVec 16
  data : BitVec 1024
  deriving DecidableEq, Repr

/-- The registers of a lane (R143): v0-v63, p0-p63 (bit n is pn; p7 reads true whatever it holds), m0-m15.
A register not listed holds zero. -/
structure Lane where
  v : Tab Word
  p : BitVec 64
  m : Tab MReg
  deriving DecidableEq, Repr

/-- A clause in progress (R257, R259): where its header lies, the header, the words after it as they were fetched,
the index of the next instruction's word 0 among them, the instructions left, and an identifier of this start. -/
structure Clause where
  addr  : Nat
  hdr   : Word
  words : List Word
  pos   : Nat
  left  : Nat
  id    : Nat
  deriving DecidableEq, Repr

/-- What a path slot is doing (R122, R152, R361). -/
inductive PathStatus where
  | running
  /-- Asleep in BWAIT on an object of a group's scratchpad. -/
  | asleep (owner off : Nat)
  /-- Asleep in PREDW. -/
  | asleepPred
  /-- Waiting at its join. -/
  | atJoin
  deriving DecidableEq, Repr

/-- A leave grant (R176). -/
inductive Grant where
  | none
  /-- Asked for at an ETIME; the droop steps by which it passes the die's budget. -/
  | asked (since excess : Nat)
  | held
  deriving DecidableEq, Repr

/-- A live path (R144, R150 to R155): execution mask, address of its next or current clause, the clause in
progress, join register, uniform file with its written marks, FUTSTAT, counter latches (R170), the done mask that a
restartable instruction holds (R349, R350), the leave grant; the CYC of its core at which it became ready (R173 to R175),
the passes that its team has issued since without it (R175); what woke it from BWAIT: the phase change, or a barrier error with
its detail (R121, R122). -/
structure Path where
  mask     : LaneSet
  pc       : Nat
  clause   : Option Clause
  jp       : Option Nat
  s        : Tab Word
  sWritten : BitVec 64
  futstat  : BitVec 32
  cycLatch : Option Word
  etLatch  : Option Word
  heldDone : Option Nat
  grant    : Grant
  status   : PathStatus
  since    : Option Nat
  missed   : Nat
  wake     : Option (Option Nat)
  deriving DecidableEq, Repr

/-- A split that has not joined (R150 to R154), newest first in its team: an entry of the reconvergence stack
(Table 6-3) or the pair record of a concurrent split. -/
inductive Split where
  | pushed (slot : Nat) (mask : LaneSet) (pc join : Nat) (outer : Option Nat) (arr : Bool)
  | pair (join : Nat) (outer : Option Nat) (sFork : Tab Word) (outerWritten : BitVec 64) (alone : Bool)
  deriving DecidableEq, Repr

/-- The flag counts of a started clause (R261): SETA and SETB counts not yet released, the slots whose scoreboards
count them (R155), whether every instruction has issued, the operations it waits for, each with the CYC of the core at its issue,
the CYC at which the clause started, and whether it is of the class ASY (R172). -/
structure Outst where
  clause : Nat
  seta   : Option Nat
  setb   : Option Nat
  slots  : BitVec 2
  issued : Bool
  ops    : Tab Nat
  since  : Nat
  asy    : Bool
  deriving DecidableEq, Repr

/-- A register write of a MAT, MEM or ASY instruction that nothing has waited on (R262), for one register and one
mask word; or a status update that comes with an acknowledgement (R138, R140, R324). -/
inductive Pending where
  | v (n word : Nat) (vals : List (Nat × Word))
  | p (n word : Nat) (vals : List (Nat × Bool))
  | m (n word : Nat) (vals : List (Nat × MReg))
  | s (slot n : Nat) (val : Word)
  | mx (fails last : Nat)
  | fsr (flags : BitVec 5)
  | sat (bits : BitVec 2)
  deriving DecidableEq, Repr

/-- A pending write with its identifier and its clause. -/
structure Land where
  id     : Nat
  clause : Nat
  what   : Pending
  deriving DecidableEq, Repr

/-- How far a trap has got (R375 to R380). -/
inductive TrapPhase where
  /-- Waits until issued instructions of the team are complete (R375 step 3). -/
  | drain
  /-- Waits for the firmware emulation of a retired opcode (R382). -/
  | firmware
  /-- Waits for the driver's answer to the notification with this token (R376, R393). -/
  | driver (token : Nat)
  /-- Waits for a free frame slot (R377). -/
  | frame
  /-- In handler state: frame slot and address, and where the path stood. -/
  | handler (slot va pc : Nat) (clause : Option Clause)
  deriving DecidableEq, Repr

/-- A trap taken (R375, Table 17-2): cause, detail, path slot, addresses, instruction words, failing lanes, done
mask held (7 none), the other path's next instruction, ETIME, the SKIP that firmware writes, the length in words
of the instruction, and whether it was taken at a clause boundary (R380). -/
structure Trap where
  cause    : Nat
  detail   : Nat
  slot     : Nat
  ipc      : Nat
  hdr      : Nat
  addr     : Nat
  iwords   : BitVec 64
  lmask    : LaneSet
  doneix   : Nat
  opc      : Option Nat
  etime    : Nat
  skip     : Bool
  len      : Nat
  boundary : Bool
  phase    : TrapPhase
  deriving DecidableEq, Repr

/-- A team (R142, R143, R156): its slot on its core, declared lanes, register allocation, the registers of its
lanes (helper lanes included), its live paths by slot, splits, markers k0-k3 (the CAM entries, R130), done masks
with their held marks, FPC, FSR, MXSTAT, flag counts, pending writes, the trap it has taken, whether a watchdog fault
is due at its next clause boundary (R178), the CYC of its core at its last issue (R173). -/
structure Team where
  slotId  : Nat
  lanesN  : Nat
  vregs   : Nat
  mregs   : Nat
  lanes   : Tab Lane
  paths   : Tab Path
  splits  : List Split
  markers : Tab (BitVec 64)
  done    : Tab (Bool × LaneSet)
  fpc     : BitVec 32
  fsr     : BitVec 32
  mxstat  : BitVec 32
  outst   : List Outst
  landing : List Land
  trap    : Option Trap
  wdog    : Bool
  issued  : Nat
  ended   : Bool
  deriving DecidableEq, Repr

/-- Where a group is (R385, R387). -/
inductive Place where
  | resident
  | saved (slot since : Nat)
  | ended
  deriving DecidableEq, Repr

/-- A creel slot (R66): gang, ASID, receivers still to drain, tile, its poisoned sectors, whether its tile is written, and the
order of its grant. -/
structure CreelSlot where
  gang   : Nat
  asid   : Nat
  mask   : BitVec 12
  tile   : List Byte
  poison : BitVec 128
  ready  : Bool
  order  : Nat
  deriving DecidableEq, Repr

/-- A group (R141, R149, R156, R157): grid, index in it, gang and member number, core, L1 ways its scratchpad
holds, scratchpad KiB and bytes (unlisted bytes are 0), poisoned offsets, private slot, register pool, SUCC mark,
predecessor object (PHASE is 1, SERR), teams by ROLE, where it is, creel tiles saved
with it. -/
structure Group where
  asid       : Nat
  grid       : Nat
  index      : Nat
  gang       : Nat
  member     : Nat
  core       : Nat
  firstCore  : Nat
  ways       : List Nat
  spadKiB    : Nat
  spad       : List Host.Cell
  spadPoison : List Nat
  privSlot   : Nat
  pool       : Nat
  succ       : Bool
  predPhase  : Bool
  predErr    : Bool
  teams      : Tab Team
  place      : Place
  tiles      : List CreelSlot
  deriving DecidableEq, Repr

/-- A gang (R141): its size. Members are found by the group's `gang` and `member`. -/
structure Gang where
  size : Nat
  deriving DecidableEq, Repr

/-- The fields of a launch record (Table 8-4). -/
structure LaunchRec where
  dieSet : BitVec 8
  prio   : Nat
  pinned : Bool
  gang   : Bool
  succ   : Bool
  teams  : Nat
  lanes  : Nat
  code   : Nat
  csz    : Nat
  spad   : Nat
  m      : Nat
  v8     : Nat
  gsz    : Nat
  groups : Nat
  param  : BitVec 64
  caddr  : Nat
  cval   : BitVec 64
  tiles  : Nat
  tcnt   : Nat
  wseq   : Nat
  deriving DecidableEq, Repr

/-- What launched a grid: a packet of a queue, or a window of a binding. -/
inductive Origin where
  | packet (q : QRef) (index : Nat)
  | window (binding slot : Nat) (amend : Bool)
  deriving DecidableEq, Repr

/-- A grid (R141, R186, R191): record, origin, groups dispatched and ended, watchdog timer start (R178), time since
which a group has waited for room (R193), whether it began early (R196), its predecessor grid, whether that
predecessor has retired or has failed, the address of its window descriptor (0 for a packet's grid), the result header that
the descriptor gives and the address it goes to (R219), whether it is published, ended by termination,
completion written, the ETIME of a watchdog expiry whose faults are not yet due (R178). -/
structure Grid where
  asid       : Nat
  lr         : LaunchRec
  origin     : Origin
  next       : Nat
  endedN     : Nat
  started    : Option Nat
  waitSince  : Option Nat
  early      : Bool
  pred       : Option Nat
  predDone   : Bool
  predFail   : Bool
  desc       : Nat
  head       : List Byte
  res        : Nat
  published  : Bool
  killed     : Bool
  done       : Bool
  expired    : Option Nat
  deriving DecidableEq, Repr

/-- A translation kept in a TLB (R22): ASID, the address it was read for, page size as a power of 2, leaf entry. -/
structure TlbEntry where
  asid : Nat
  base : Nat
  size : Nat
  leaf : BitVec 64
  deriving DecidableEq, Repr

/-- A non-leaf entry kept in a walk cache (R22): ASID, where it was read, the entry. -/
structure WalkEntry where
  asid  : Nat
  pa    : Nat
  entry : BitVec 64
  deriving DecidableEq, Repr

/-- A line of an L1 (R42): line number, way, valid sectors, dirty bytes, scope tag (true: group), bytes, atomic
ownership and atomically modified bytes (R58, R59), poisoned bytes; by group, the bytes that the group's stores left dirty
(R206, R379); whether its page is of lowest retention (R35). -/
structure Line where
  line   : Nat
  way    : Nat
  valid  : BitVec 4
  dirty  : BitVec 128
  group  : Bool
  data   : BitVec 1024
  owned  : Bool
  amod   : BitVec 128
  poison : BitVec 128
  wrote  : Tab (BitVec 128)
  low    : Bool
  deriving DecidableEq, Repr

/-- A line of a path cache or of the RDC (R49, R52): the ASID that filled it (0 in the RDC), sectors, bytes, poisoned
bytes (R68). -/
structure CLine where
  line   : Nat
  asid   : Nat
  valid  : BitVec 4
  data   : BitVec 1024
  poison : BitVec 128
  deriving DecidableEq, Repr

/-- A cached tensor descriptor (R205). -/
structure DescLine where
  asid : Nat
  id   : Nat
  desc : BitVec 512
  deriving DecidableEq, Repr

/-- A core (R3, R42, R52, R57, R172): L1 lines, most recently used first, path caches (constant, sampler, tile,
instruction), descriptors, contention counters, TLB, active set, the preferred gauge and the CYC since which it holds
(R174), the CYC of the last swap with the team that entered then (R173). -/
structure Core where
  l1     : List Line
  constC : List CLine
  smpC   : List CLine
  tileC  : List CLine
  instC  : List CLine
  descs  : List DescLine
  pred   : Tab Nat
  tlb    : List TlbEntry
  active : List TRef
  pref   : Nat
  prefAt : Nat
  swap   : Option (Nat × TRef)
  deriving DecidableEq, Repr

/-- A cell (R22, R52, R66): TLB, instruction cache, creel slots. -/
structure CellUnit where
  tlb   : List TlbEntry
  instC : List CLine
  creel : Tab CreelSlot
  deriving DecidableEq, Repr

/-- A die (R22, R49, R168): remote-data cache, walk cache, droop stretch, when it last changed, steps the arbiter
has asked for. -/
structure Die where
  rdc     : List CLine
  walk    : List WalkEntry
  stretch : Nat
  changed : Nat
  goal    : Nat
  deriving DecidableEq, Repr

/-- What a home slice keeps of a line (R47, R48, R58): whether the L2 holds it, whether it is dirty there, whether it was
allocated at the lowest retention (R35); dies sent a copy, owner of atomic ownership, end of contention. Its bytes stand in
`State.mem`, which holds for each byte the value of its home. -/
structure Dir where
  present   : Bool
  dirty     : Bool
  low       : Bool
  sent      : BitVec 8
  owner     : Option Nat
  contended : Option Nat
  deriving DecidableEq, Repr

/-- A core's counters (Table 7-3), and the time until its current cycle ends, in femtoseconds (R167). -/
structure Clock where
  rest  : Nat
  cyc   : BitVec 64
  gcyc0 : BitVec 32
  gcyc1 : BitVec 32
  gcyc2 : BitVec 32
  gcyc3 : BitVec 32
  deriving DecidableEq, Repr

/-- How a page's accesses travel (R35): uncached or host, NRD, streaming. -/
structure Attr where
  uncached : Bool
  nrd      : Bool
  low      : Bool
  deriving DecidableEq, Repr

/-- A parked request of the deferral buffer (Table 2-6), with the LDF it belongs to, the address that it named and how its page's
accesses travel. -/
structure Defer where
  cell     : Nat
  va       : Nat
  attr     : Attr
  asid     : Nat
  core     : Nat
  path     : Ref
  word     : Nat
  lanes    : BitVec 32
  dst      : Nat
  status   : Nat
  deadline : Nat
  ldf      : Nat
  deriving DecidableEq, Repr

/-- An LDF whose lanes are not all decided (R339): path, clause, the FUTSTAT code gathered, requests left, all its
requests, whether it is cancelled until its team goes on (R65), the SCOPE at which it acquires, if it does, and the slots whose
path it precedes in program order. -/
structure Ldf where
  path   : Ref
  clause : Nat
  code   : BitVec 2
  left   : Nat
  reqs   : List Defer
  held   : Bool
  acq    : Option Nat
  slots  : BitVec 2
  deriving DecidableEq, Repr

/-- Who asked for a sweep (R131): a FROG of a path (v register, active lanes by word), the meridian unit, or a re-sweep pass. -/
inductive SweepFor where
  | frog (path : Ref) (clause d : Nat) (lanes : LaneSet)
  | window (binding slot : Nat)
  | pass
  deriving DecidableEq, Repr

/-- A sweep waiting in a context's sequencer (R131). -/
structure Sweep where
  name  : BitVec 64
  scope : Nat
  core  : Nat
  who   : SweepFor
  op    : Nat
  deriving DecidableEq, Repr

/-- A frog list entry (Table 5-11). -/
structure Frog where
  etime    : BitVec 32
  core     : Nat
  meridian : Bool
  scope    : Nat
  name     : BitVec 64
  gid      : Option Nat
  deriving DecidableEq, Repr

/-- A free notice (Table 5-12). -/
structure Notice where
  etime    : BitVec 32
  meridian : Bool
  scope    : Nat
  name     : BitVec 64
  deriving DecidableEq, Repr

/-- A parked-marker entry (Table 5-8): its index in the table, save slot, name, and the team and marker it came from. -/
structure Parked where
  entry : Nat
  gsave : Nat
  name  : BitVec 64
  gid   : Nat
  role  : Nat
  k     : Nat
  deriving DecidableEq, Repr

/-- State of a source (Table 9-5). -/
inductive SrcState where
  | active | idle | closed
  deriving DecidableEq, Repr

/-- A source (Table 9-1) with the state the meridian unit keeps. -/
structure Source where
  ring    : Nat
  idlet   : Nat
  swc     : Bool
  en      : Bool
  slotLog : Nat
  nLog    : Nat
  xen     : Bool
  xsrc    : Nat
  xpeer   : Nat
  wridx   : Nat
  rdidx   : Nat
  swm     : Int
  lastact : Nat
  state   : SrcState
  deriving DecidableEq, Repr

/-- What a source has done that a binding has not yet taken up (R216, R217): an appended record (ring index, the bytes
of its slot) or a change of SWM or STATE. -/
inductive Item where
  | record (src idx : Nat) (bytes : List Byte) (poison : Bool)
  | change (src : Nat) (swm : Int) (state : SrcState)
  deriving DecidableEq, Repr

/-- How far the freeing of a window has got (R223): its FROG waits in the sequencer, or drew result 2. -/
inductive Freeing where
  | no | asked | refused
  deriving DecidableEq, Repr

/-- An open window of a binding (R216 to R223): index, buffer, records placed, overflow, transit done, records and
version of the last grid, whether a grid runs, versions published, age of the oldest late record, freeing steps. -/
structure Window where
  k         : Int
  buf       : Nat
  n         : Nat
  ovf       : Bool
  transited : Bool
  count     : Nat
  running   : Option Nat
  version   : Nat
  published : Nat
  oldest    : Nat
  final     : Bool
  freeing   : Freeing
  timer     : Bool
  deriving DecidableEq, Repr

/-- A binding (Table 9-2) with the state the meridian unit keeps: window slots, buffers in use, what its sources have done
that it has not taken up, and SWM and STATE of its inputs as it has taken them up. -/
structure Binding where
  inputs   : BitVec 256
  length   : Int
  slide    : Int
  origin   : Int
  lateness : Int
  en       : Bool
  outen    : Bool
  dlen     : Bool
  die      : Nat
  outsrc   : Nat
  dlsrc    : Nat
  lbatch   : Nat
  ltimer   : Nat
  bincap   : Nat
  bufpool  : Nat
  nbuf     : Nat
  bslot    : Nat
  wdesc    : Nat
  result   : Nat
  resstr   : Nat
  firerec  : Nat
  amendrec : Nat
  toolate  : Nat
  ovfcnt   : Nat
  dldrop   : Nat
  stagewm  : Int
  outwm    : Int
  windows  : Tab Window
  bufs     : List Nat
  todo     : List Item
  view     : Tab (Int × SrcState)
  deriving DecidableEq, Repr

/-- A frame sent and not acknowledged (R397), with the path that wrote word 0 of its descriptor. -/
structure Sent where
  path    : Option Ref
  seq     : Nat
  kind    : Nat
  remote  : Nat
  rel     : Bool
  resVA   : Nat
  args    : List Byte
  bytes   : List Byte
  tries   : Nat
  since   : Nat
  deriving DecidableEq, Repr

/-- A channel from a context to a peer (R395): next sequence number, frames in flight, failed. -/
structure Channel where
  next   : Nat
  sent   : List Sent
  failed : Bool
  deriving DecidableEq, Repr

/-- What the performance of a received frame waits for (R183, R35): room for the packet of an append whose index is claimed, or
the completion of an atomic of host memory. -/
inductive NetWait where
  | room (header index : Nat) (packet : List Byte)
  | host (id : Nat)
  deriving DecidableEq, Repr

/-- The receiving end of a channel (R395, R397): the sequence number it performs next, the old values of the atomics it has
performed, by sequence number, and the frame whose performance has begun and waits. -/
structure Recv where
  next : Nat
  olds : Tab (BitVec 64)
  wait : Option (FrameHdr × NetWait)
  deriving DecidableEq, Repr

/-- How far a kill has got (R206); the ETIME of its CTXOP. -/
inductive Kill where
  | live
  | killing (since : Nat)
  deriving DecidableEq, Repr

/-- A live context (Tables 1-6 and 8-1): descriptor fields, programmable scopes as read (R76), queue table as read
(R180), private slots, frame slots and save slots in use, ATOMSAT, parked markers, frog list, free notices and how many there have been, sweeps,
whether a re-sweep pass is due (R133), the last frog interval done, sources and bindings, advances carried between
dies (R222; none is a close), transport ring, the path that wrote word 0 of a slot of it that is not yet consumed (R397),
channels. -/
structure Ctx where
  root     : Nat
  supv     : Bool
  privbase : Nat
  psz      : Nat
  nslot    : Nat
  scopetab : Nat
  tenstab  : Nat
  qtab     : Nat
  parktab  : Nat
  deflim   : Nat
  frogint  : Nat
  wdog     : Nat
  dlq      : Nat
  parkn    : Nat
  froglist : Nat
  notice   : Nat
  strtab   : Nat
  traph    : Nat
  trapfr   : Nat
  nframe   : Nat
  nsave    : Nat
  scopes   : Tab (BitVec 4096)
  queues   : Tab Nat
  privUsed : List Nat
  frames   : List Nat
  saves    : List Nat
  atomsat  : BitVec 2
  parked   : List Parked
  frogs    : List Frog
  notices  : List Notice
  noticeN  : Nat
  sweeps   : List Sweep
  resweep  : Bool
  frogDone : Nat
  sources  : Tab Source
  bindings : Tab Binding
  carried  : List (Nat × Option Int)
  ring     : Option Nat
  ringBy   : Tab Ref
  channels : Tab Channel
  kill     : Kill
  deriving DecidableEq, Repr

/-- A packet started and not completed (R190, R191). -/
structure Packet where
  index : Nat
  kind  : Nat
  bytes : List Byte
  grid  : Option Nat
  left  : Nat
  since : Nat
  done  : Bool
  deriving DecidableEq, Repr

/-- A queue's engine (R182, R188, R190 to R192): packets started, last core used, when it last polled, the copy of ERRIDX that
holds the fault code of an error 0x05 in its bits 63:56, the grid that the packet consumed last has started (R124). -/
structure Engine where
  packets  : List Packet
  lastCore : Option Nat
  polled   : Nat
  errCopy  : BitVec 64
  prev     : Option Nat
  deriving DecidableEq, Repr

/-- Where a sector of a copy comes from: device memory over the ordinary path, scratchpad, or bytes held. -/
inductive SecSrc where
  | mem (pa : Nat) (uncached nrd low : Bool)
  | spad (gid off : Nat)
  | held (bytes : List Byte) (poison : Bool)
  deriving DecidableEq, Repr

/-- Where a sector of a copy goes. -/
inductive SecDst where
  | mem (pa : Nat) (uncached low : Bool)
  | spad (gid off : Nat)
  deriving DecidableEq, Repr

/-- A sector still to be copied (R119, R356). -/
structure Sector where
  src : SecSrc
  dst : SecDst
  deriving DecidableEq, Repr

/-- What an asynchronous operation does (R356 to R360). -/
inductive OpKind where
  | copy
  | cpym (va len : Nat) (src : List SecSrc) (mask : BitVec 12) (slot : Option Nat)
  | cdrain (off : Nat) (taken : Bool)
  | append (header : Nat) (index : Nat) (packet : List Byte) (bad : List Nat)
  deriving DecidableEq, Repr

/-- An operation accepted and not completed (R353, R354): who issued it, its scope, ACQ and REL, sectors left, the
barrier object it credits (group and offset) and credits to give at its end, whether its flag is still counted. -/
structure AsyncOp where
  asid    : Nat
  core    : Nat
  path    : Ref
  clause  : Nat
  kind    : OpKind
  seq     : Nat
  scope   : Nat
  acq     : Bool
  rel     : Bool
  sectors : List Sector
  bar     : Option (Nat × Nat)
  credits : Nat
  deriving DecidableEq, Repr

/-- A CPYM or CDRAIN without a slot, cancelled while its group is away or its team in a trap (Table 16-3): the flag that
still waits for it, and its operands, with which it is issued again in full. -/
structure Cancelled where
  op     : Nat
  path   : Ref
  clause : Nat
  scope  : Nat
  acq    : Bool
  rel    : Bool
  kind   : OpKind
  bar    : Option (Nat × Nat)
  deriving DecidableEq, Repr

/-- A piece of a lane's access that has passed its checks, with the address or offset that the instruction named. -/
inductive Piece where
  | mem (va pa n : Nat) (a : Attr)
  | spad (va gid off n : Nat)
  /-- An element out of its tensor's bounds: no access, these bytes are read (R203). -/
  | pad (bs : List Byte)
  /-- Bytes that the host has given for a read of its memory (R35). -/
  | given (bs : List Byte)
  deriving DecidableEq, Repr

/-- The read paths with caches of their own (Table 2-4). -/
inductive PathKind where
  | constant | sampler | tile | instr
  deriving DecidableEq, Repr

/-- What a MAT or MEM instruction writes in a lane: matrix slots, v registers and predicates, and whether the lane
failed. -/
structure LaneOut where
  m    : List (Nat × MReg)
  v    : List (Nat × Word)
  p    : List (Nat × Bool)
  fail : Bool
  deriving DecidableEq, Repr

/-- What a load makes of the bytes of a lane: registers from `d` (R330); a matrix in slot `d` (R314); a matrix of weights in slot
`d`, each with its type, q4 or else q3, and its place in its word or block, or outside the tensor (R321). -/
inductive Into where
  | regs (d : Nat) (sx : Bool)
  | mat (d r c ty : Nat)
  | weights (d r c : Nat) (els : List (Option (Bool × Nat)))
  deriving DecidableEq, Repr

/-- What an access of a lane has beside its pieces: where a load's bytes go, the bytes of a store, the request of an atomic with the
register that takes the old value. -/
inductive LaneArg where
  | into (i : Into)
  | bytes (bs : List Byte)
  | rmw (q : AtomReq) (dst : Option Nat)
  deriving DecidableEq, Repr

/-- How the lanes of an instruction access memory: reads over the ordinary path, past the L1 or not (R46), or over a path with a
cache of its own (R52); writes under Table 2-1 at a rank, through or not; atomics (R57). -/
inductive How where
  | load (path : Option PathKind) (past : Bool)
  | store (rank : Nat) (through : Bool)
  | atom
  deriving DecidableEq, Repr

/-- A lane of an instruction whose access is issued: its pieces, of which `grain` at a time are one event (R71), and the bytes
that a load would have read as it issued. A piece that is performed holds the bytes that it has read or written. -/
structure LaneAcc where
  lane   : Nat
  grain  : Nat
  pieces : List Piece
  arg    : LaneArg
  seen   : List Byte
  deriving DecidableEq, Repr

/-- Accesses of one instruction that are issued and not all performed (R79, R84, R85), under the operation `id` that its clause
waits for: the path, the slots whose path they precede in program order, clause, context and core, the done mask that the
instruction holds (R349), whether it ends with them (no lane has failed), the rank at which it acquires after the last of them, how
they access memory, the lanes, and what the lanes performed before have given. -/
structure Issue where
  id     : Nat
  path   : Ref
  slots  : BitVec 2
  clause : Nat
  asid   : Nat
  core   : Nat
  done   : Option Nat
  ends   : Bool
  acq    : Option Nat
  how    : How
  lanes  : List LaneAcc
  outs   : List (Nat × LaneOut)
  deriving DecidableEq, Repr

/-- Which lanes of a memory access a step performs as the instruction issues (log 1): all of them, or some, the others later. -/
inductive Mode where
  | whole
  | lanes (m : LaneSet)
  deriving DecidableEq, Repr

/-- What a PCIe completion gives (R35): bytes that an instruction fetches before it issues, or a piece of an issued access. -/
inductive HostWait where
  | fetch
  | piece (op index : Nat)
  deriving DecidableEq, Repr

/-- A request sent to the host and not completed (R35), for a lane of a path. -/
structure HostReq where
  id     : Nat
  path   : Ref
  clause : Nat
  pa     : Nat
  size   : Nat
  lane   : Nat
  what   : HostWait
  live   : Bool
  deriving DecidableEq, Repr

/-- Bytes of host memory that have come for a lane of a path, whose instruction takes them when it goes on (R35). -/
structure HostData where
  path  : Ref
  lane  : Nat
  pa    : Nat
  bytes : List Byte
  deriving DecidableEq, Repr

/-- A read of host memory that a step of a unit has asked for and that is not completed (R35): the step with what it acts on, the
address, the bytes. -/
structure UnitReq where
  id   : Nat
  who  : Instr × Input
  pa   : Nat
  size : Nat
  deriving DecidableEq, Repr

/-- Bytes of host memory that have come for a step of a unit, which takes them when it takes place (R35). -/
structure UnitData where
  who   : Instr × Input
  pa    : Nat
  bytes : List Byte
  deriving DecidableEq, Repr

/-- An RDC invalidation on its way to a die (R48), and the cores whose release at module rank must wait for it (R44): the
writer's, and those that have seen the write or acquired since (log 67). -/
structure RdcInv where
  die  : Nat
  line : Nat
  cores : List Nat
  deriving DecidableEq, Repr

/-- A fill on its way to a die's RDC (R51), whether an invalidation has spoilt it, whether its page is of lowest retention. -/
structure RdcFill where
  die     : Nat
  line    : CLine
  spoilt  : Bool
  low     : Bool
  deriving DecidableEq, Repr

/-- Who completes an invalidation of translations (R23): the clause of a TLBINV, or the host's context operation. -/
inductive InvalFor where
  | clause (path : Ref) (op : Nat)
  | host
  deriving DecidableEq, Repr

/-- An invalidation of translations that waits for accesses translated before it (R23): operations of copy units, LDFs, stores
and requests to the host. -/
structure Inval where
  who  : InvalFor
  ops  : List Nat
  reqs : List Nat
  deriving DecidableEq, Repr

/-- The way to a peer that its register PEERn gives (Table 18-1): Ethernet port and MAC address. -/
structure Link where
  port : Nat
  mac  : Nat
  deriving DecidableEq, Repr

/-- What the machine has sent out: completions to the host, messages, interrupts, frames to peers. -/
inductive Out where
  | completion (bytes : List Byte)
  | hostWrite (pa : Nat) (bytes : List Byte)
  | hostAtomic (id pa : Nat) (op : BusOp) (wide : Bool) (a b : BitVec 64)
  | hostRead (id pa size : Nat)
  | unsupported
  | retryStatus
  | configValue (v : BitVec 32)
  | msix (vector : Nat)
  | mctp (bytes : List Byte)
  | i3c (bytes : List Byte)
  | frame (link : Link) (flits : List (List Byte))
  | ack (link : Link) (hdr : FrameHdr) (old : BitVec 64)
  | nack (link : Link) (hdr : FrameHdr)
  deriving DecidableEq, Repr

/-- A notification (Table 18-2). -/
structure Notify where
  info   : BitVec 64
  token  : Nat
  detail : Nat
  asid   : Nat
  type   : Nat
  deriving DecidableEq, Repr

/-- The host's registers (Table 18-1). -/
structure HostRegs where
  ctxaddr : BitVec 64
  busy    : Bool
  result  : BitVec 8
  ntfbase : BitVec 64
  ntfhead : Nat
  ntftail : Nat
  pwrcap  : BitVec 64
  hwsl    : Tab (BitVec 64)
  hwdrop  : BitVec 64
  peers   : Tab (BitVec 64)
  deriving DecidableEq, Repr

/-- The platform (R398 to R402): ready, firmware slot (none keeps the module in reset), its version and measurement, the
vendor's certificate for the identity key as the flash holds it, the fused rollback counter, soft-error counts, patrol
passes. The fused key hash and the fused secret are constants of the module (`Config.fusedKeyHash`, `Config.fusedSecret`). -/
structure Platform where
  certificate : List Byte
  ready       : Bool
  slot        : Option Nat
  version     : Nat
  measure     : BitVec 384
  rollback    : Nat
  corrected   : Nat
  uncorrected : Nat
  patrols     : Nat
  deriving DecidableEq, Repr

/-- What acts next: a path, or a step of a unit with what it acts on. -/
inductive Turn where
  | path (r : Ref)
  /-- A path whose instruction performs only some of its lanes as it issues (R79, R85). -/
  | lanes (r : Ref) (m : LaneSet)
  /-- An event of a lane of an issued access is performed. -/
  | access (op lane index : Nat)
  | event (i : Instr) (x : Input)
  deriving DecidableEq, Repr

/-- The state of the module. -/
structure State where
  turns    : List Turn
  cur      : Option Ref
  guard    : Guard
  mode     : Mode
  input    : Input
  free     : Nat
  fresh    : Nat
  etime    : Nat
  clocks   : Tab Clock
  mem      : List Host.Cell
  poison   : List Nat
  l2       : Tab Dir
  rdcInv   : List RdcInv
  rdcFill  : List RdcFill
  issues   : List Issue
  defer    : List Defer
  cellReqs : List Defer
  ldfs     : Tab Ldf
  cores    : Tab Core
  cells    : Tab CellUnit
  dies     : Tab Die
  ctxs     : Tab Ctx
  grids    : Tab Grid
  groups   : Tab Group
  gangs    : Tab Gang
  engines  : Tab Engine
  ops      : Tab AsyncOp
  cancelled : List Cancelled
  lastQ    : Tab Nat
  hostReqs : List HostReq
  hostData : List HostData
  asker    : Option (Instr × Input)
  wanted   : List (Nat × Nat)
  unitReqs : List UnitReq
  unitData : List UnitData
  signals  : List Nat
  invals   : List Inval
  out      : List Out
  held     : List Notify
  recv     : Tab Recv
  tokens   : Nat
  host     : HostRegs
  plat     : Platform
  deriving DecidableEq, Repr

/-- A lane at team start (R143). -/
def Lane.start : Lane := { v := [], p := 0, m := [] }

/-- A core, a cell and a die with nothing held. -/
def Core.empty : Core :=
  { l1 := [], constC := [], smpC := [], tileC := [], instC := [], descs := [], pred := [], tlb := [], active := []
    pref := 0, prefAt := 0, swap := none }
/-- A cell with nothing held. -/
def CellUnit.empty : CellUnit := { tlb := [], instC := [], creel := [] }
/-- A die with nothing held and no stretch. -/
def Die.empty : Die := { rdc := [], walk := [], stretch := 0, changed := 0, goal := 0 }
/-- Counters at module reset (Table 7-3). -/
def Clock.zero : Clock := { rest := 0, cyc := 0, gcyc0 := 0, gcyc1 := 0, gcyc2 := 0, gcyc3 := 0 }

/-- The host's registers at reset: NTFBASE 0 and every HWSLn disabled (Table 18-1, R37); CTXSTAT is busy until the module is
ready (DEDUCED, log 51); the rest 0 (DESIGN CHOICE, log 4). -/
def HostRegs.reset : HostRegs :=
  { ctxaddr := 0, busy := true, result := 0, ntfbase := 0, ntfhead := 0, ntftail := 0, pwrcap := 0, hwsl := [],
    hwdrop := 0, peers := [] }

/-- The platform at reset: before power good, no firmware slot accepted (R399, R400). -/
def Platform.reset : Platform :=
  { certificate := [], ready := false, slot := none, version := 0, measure := 0, rollback := 0, corrected := 0, uncorrected := 0,
    patrols := 0 }

/-- The module right after reset: no context, nothing resident, memory with nothing listed (R400). -/
def State.reset : State :=
  { turns := [], cur := none, guard := { neg := 0, p := 7 }, mode := .whole, input := .none, free := 0, fresh := 0,
    etime := 0, clocks := [], mem := [], poison := [], l2 := [], rdcInv := [], rdcFill := [], issues := [], defer := [],
    cellReqs := [], ldfs := [], cores := [], cells := [], dies := [], ctxs := [], grids := [], groups := [],
    gangs := [], engines := [], ops := [], cancelled := [], lastQ := [], hostReqs := [], hostData := [], asker := none, wanted := []
    unitReqs := [], unitData := [], signals := [], invals := [],
    out := [], held := [], recv := [],
    tokens := 0,
    host := HostRegs.reset, plat := Platform.reset }

end Sys2Proof.Machine
end

