-- ==== Sys2Proof/Machine/Tables.lean ====
section
/-! DEFINITION. Keyed tables and bytes of memory: reading, writing, and the canonical form of memory. -/

namespace Sys2Proof.Machine

variable {α β : Type}

/-- The value a table holds at a key. -/
def tget : Tab α → Nat → Option α
  | [], _ => none
  | (k', a) :: t, k => if k = k' then some a else tget t k

/-- The table with a value set at a key; sorted tables stay sorted. -/
def tset : Tab α → Nat → α → Tab α
  | [], k, a => [(k, a)]
  | (k', a') :: t, k, a =>
    if k = k' then (k, a) :: t else if k < k' then (k, a) :: (k', a') :: t else (k', a') :: tset t k a

/-- The table without a key. -/
def tdel (t : Tab α) (k : Nat) : Tab α := t.filter fun e => e.1 ≠ k

/-- The table with the value at a key changed, where it holds one. -/
def tmod (t : Tab α) (k : Nat) (f : α → α) : Tab α :=
  match tget t k with
  | none => t
  | some a => tset t k (f a)

/-- The table with every value changed. -/
def tmap (t : Tab α) (f : Nat → α → α) : Tab α := t.map fun e => (e.1, f e.1 e.2)

/-- The keys of a table. -/
def tkeys (t : Tab α) : List Nat := t.map Prod.fst

/-- A register of a file in which an unlisted register holds zero. -/
def rget (t : Tab Word) (n : Nat) : Word := (tget t n).getD 0

/-- Whether a list of cells is in canonical form: addresses strictly rising, no byte 0 listed. -/
def memWf : List Host.Cell → Bool
  | [] => true
  | [c] => c.2 ≠ 0
  | c :: d :: m => (c.2 ≠ 0 && c.1 < d.1) && memWf (d :: m)

/-- What an unlisted byte reads as (DESIGN CHOICE 0, log 3). -/
def emptyByte : Byte := 0

/-- One byte of memory. -/
def memGet (m : List Host.Cell) (a : Nat) : Byte := (tget m a).getD emptyByte

/-- Memory with one byte written; the canonical form is kept. -/
def memSet (m : List Host.Cell) (a : Nat) (b : Byte) : List Host.Cell :=
  if b = emptyByte then tdel m a else tset m a b

/-- Bytes from an address upward. -/
def memBytes (m : List Host.Cell) : Nat → Nat → List Byte
  | _, 0 => []
  | a, n + 1 => memGet m a :: memBytes m (a + 1) n

/-- Memory with bytes written from an address upward. -/
def memPut (m : List Host.Cell) (a : Nat) : List Byte → List Host.Cell
  | [] => m
  | b :: bs => memPut (memSet m a b) (a + 1) bs

/-- The little-endian number of n bytes of memory. -/
def memNat (m : List Host.Cell) (a n : Nat) : Nat := natLE (memBytes m a n)

/-- A bit of a number, as a Bool. -/
def bitOf (n i : Nat) : Bool := n.testBit i

/-- Bits lo to lo + k - 1 of a number. -/
def bitsOf (n lo k : Nat) : Nat := n / 2 ^ lo % 2 ^ k

/-- The set of the listed lanes. -/
def laneSet (ls : List Nat) : LaneSet := ls.foldl (fun m l => m ||| (1#1024 <<< l)) 0

/-- The least of a list of numbers. -/
def leastOf : List Nat → Option Nat
  | [] => none
  | n :: ns => match leastOf ns with
    | none => some n
    | some m => some (min n m)

/-- The lowest number below n that is not in a list. -/
def lowestFree (n : Nat) (used : List Nat) : Option Nat := (List.range n).find? fun i => ¬ used.contains i

/-- Insertion of an element by a key, in rising order. -/
def insertBy (key : α → Nat) (a : α) : List α → List α
  | [] => [a]
  | b :: l => if key a ≤ key b then a :: b :: l else b :: insertBy key a l

/-- A list in rising order of a key. -/
def sortBy (key : α → Nat) : List α → List α
  | [] => []
  | a :: l => insertBy key a (sortBy key l)

/-- A byte of 128, little-endian. -/
def getByte (d : BitVec 1024) (i : Nat) : Byte := d.extractLsb' (8 * i) 8

/-- 128 bytes with one of them set. -/
def setByte (d : BitVec 1024) (i : Nat) (b : Byte) : BitVec 1024 :=
  (d &&& ~~~ ((255#1024) <<< (8 * i))) ||| (b.setWidth 1024 <<< (8 * i))

/-- 128 bytes with bytes set from i upward. -/
def setBytes (d : BitVec 1024) (i : Nat) : List Byte → BitVec 1024
  | [] => d
  | b :: bs => setBytes (setByte d i b) (i + 1) bs

/-- Bytes i to i + n - 1 of 128. -/
def getBytes (d : BitVec 1024) (i n : Nat) : List Byte := (List.range n).map fun j => getByte d (i + j)

/-- The bits i to i + n - 1 set. -/
def maskBits (w i n : Nat) : BitVec w := BitVec.ofNat w ((2 ^ n - 1) * 2 ^ i)

/-- Positions below n whose bit is set. -/
def bitList {w : Nat} (m : BitVec w) (n : Nat) : List Nat := (List.range n).filter fun i => m.getLsbD i

end Sys2Proof.Machine
end

