-- ==== Sys2Proof/Machine/Fp.lean ====
section
/-! DEFINITION. Exact floating-point arithmetic (10 R225 to R233, R237): formats, values, rounding once to a format,
and the IEEE 754 operations on bits. A result carries the flags it raises, in the order of FSR (Table 10-4). -/

namespace Sys2Proof.Machine

/-- A floating-point format (Table 10-2): exponent and fraction bits, bias, whether it has infinities, whether a NaN
of it can signal. -/
structure Fmt where
  eb  : Nat
  fb  : Nat
  bias : Nat
  inf : Bool
  sig : Bool
  deriving DecidableEq, Repr

/-- f64. -/
def f64 : Fmt := { eb := 11, fb := 52, bias := 1023, inf := true, sig := true }
/-- f32. -/
def f32 : Fmt := { eb := 8, fb := 23, bias := 127, inf := true, sig := true }
/-- f16. -/
def f16 : Fmt := { eb := 5, fb := 10, bias := 15, inf := true, sig := true }
/-- bf16. -/
def bf16 : Fmt := { eb := 8, fb := 7, bias := 127, inf := true, sig := true }
/-- e4m3. -/
def e4m3 : Fmt := { eb := 4, fb := 3, bias := 7, inf := false, sig := false }
/-- e5m2. -/
def e5m2 : Fmt := { eb := 5, fb := 2, bias := 15, inf := true, sig := false }

/-- Width in bits. -/
def Fmt.width (f : Fmt) : Nat := 1 + f.eb + f.fb
/-- Exponent of the last place of subnormals. -/
def Fmt.qmin (f : Fmt) : Int := 1 - f.bias - f.fb
/-- Exponent of the smallest normal number. -/
def Fmt.emin (f : Fmt) : Int := 1 - f.bias
/-- Exponent of the largest finite number. -/
def Fmt.emax (f : Fmt) : Int := (if f.inf then 2 ^ f.eb - 2 else 2 ^ f.eb - 1 : Nat) - (f.bias : Int)
/-- Significand of the largest finite number, with fb fraction bits. -/
def Fmt.mmax (f : Fmt) : Nat := if f.inf then 2 ^ (f.fb + 1) - 1 else 2 ^ (f.fb + 1) - 2

/-- A value: NaN (signalling or not), infinity, or ± m × 2^e. -/
inductive Fl where
  | nan (signals : Bool)
  | inf (neg : Bool)
  | fin (neg : Bool) (m : Nat) (e : Int)
  deriving DecidableEq, Repr

/-- The flags of Table 10-4, by bit. -/
abbrev FFlags := BitVec 5
/-- Invalid operation. -/
def flagIV : FFlags := 16
/-- Division by zero. -/
def flagDZ : FFlags := 8
/-- Overflow. -/
def flagOF : FFlags := 4
/-- Underflow. -/
def flagUF : FFlags := 2
/-- Inexact. -/
def flagNX : FFlags := 1

/-- A result's bits and flags. -/
structure FpR where
  bits  : Nat
  flags : FFlags
  deriving DecidableEq, Repr

/-- The value that bits of a format hold (R226). -/
def Fmt.unpack (f : Fmt) (b : Nat) : Fl :=
  let neg := bitOf b (f.eb + f.fb)
  let ex := bitsOf b f.fb f.eb
  let fr := bitsOf b 0 f.fb
  if ex = 2 ^ f.eb - 1 ∧ (f.inf ∨ fr = 2 ^ f.fb - 1) then
    if f.inf ∧ fr = 0 then .inf neg else .nan (f.sig && ¬ bitOf fr (f.fb - 1))
  else if ex = 0 then .fin neg fr f.qmin
  else .fin neg (2 ^ f.fb + fr) (f.qmin + ex - 1)

/-- The sign bit of a format. -/
def Fmt.signBit (f : Fmt) (neg : Bool) : Nat := if neg then 2 ^ (f.eb + f.fb) else 0

/-- The canonical NaN (Table 10-2). -/
def Fmt.canonNaN (f : Fmt) : Nat :=
  if f.inf then (2 ^ f.eb - 1) * 2 ^ f.fb + 2 ^ (f.fb - 1) else 2 ^ (f.eb + f.fb) - 1

/-- The bits of a value that the format holds; an infinity where the format has none takes the bits of its NaN with
the sign. -/
def Fmt.pack (f : Fmt) : Fl → Nat
  | .nan _ => f.canonNaN
  | .inf neg => f.signBit neg + (if f.inf then (2 ^ f.eb - 1) * 2 ^ f.fb else f.canonNaN)
  | .fin neg m e =>
    if m = 0 then f.signBit neg
    else
      let q := e + m.log2 - f.fb
      if q < f.qmin then f.signBit neg + m * 2 ^ (e - f.qmin).toNat
      else
        let k := m * 2 ^ f.fb / 2 ^ m.log2
        f.signBit neg + (q - f.qmin + 1).toNat * 2 ^ f.fb + (k - 2 ^ f.fb)

/-- Rounding modes of FPC.RM: 0 to nearest even, 1 towards zero, 2 up, 3 down (Table 10-3). -/
abbrev rne : Nat := 0

/-- A magnitude m × 2^e, with more below it when `more`, as a whole number of 2^q, and whether that is inexact. -/
def quant (rm : Nat) (neg : Bool) (m : Nat) (e : Int) (more : Bool) (q : Int) : Nat × Bool :=
  if q ≤ e then (m * 2 ^ (e - q).toNat, more)
  else
    let d := (q - e).toNat
    let n := m / 2 ^ d
    let r := m % 2 ^ d
    let inexact := r ≠ 0 ∨ more
    let up : Bool :=
      if rm = 0 then 2 ^ d < 2 * r || (2 * r = 2 ^ d && (more || n % 2 = 1))
      else if rm = 2 then inexact && ¬ neg
      else if rm = 3 then inexact && neg
      else false
    (if up then n + 1 else n, inexact)

/-- A rounded value, its flags, and whether it is tiny. -/
structure Rnd where
  val   : Fl
  flags : FFlags
  tiny  : Bool
  deriving DecidableEq, Repr

/-- Rounding once to a format (R233 RoundToFormat): tininess is judged after rounding with an unbounded exponent; an
overflow takes the value that the mode gives. -/
def Fmt.round (f : Fmt) (rm : Nat) (neg : Bool) (m : Nat) (e : Int) (more : Bool) : Rnd :=
  if m = 0 then { val := .fin neg 0 0, flags := 0, tiny := false } else
  let q := e + m.log2 - f.fb
  let r := quant rm neg m e more q
  let lead := q + r.1.log2
  if lead < f.emin then
    let r := quant rm neg m e more f.qmin
    { val := .fin neg r.1 f.qmin, flags := if r.2 then flagUF ||| flagNX else 0, tiny := true }
  else if f.emax < lead ∨ (lead = f.emax ∧ f.mmax * 2 ^ r.1.log2 < r.1 * 2 ^ f.fb) then
    let away := rm = 0 ∨ (rm = 2 ∧ ¬ neg) ∨ (rm = 3 ∧ neg)
    { val := if away then .inf neg else .fin neg f.mmax (f.emax - f.fb), flags := flagOF ||| flagNX, tiny := false }
  else { val := .fin neg r.1 q, flags := if r.2 then flagNX else 0, tiny := false }

/-- A rounded value under FTZ (R231): a tiny result becomes a zero of its sign and raises UF and NX. -/
def Fmt.roundFtz (f : Fmt) (rm : Nat) (ftz neg : Bool) (m : Nat) (e : Int) (more : Bool) : FpR :=
  let r := f.round rm neg m e more
  if ftz && r.tiny then { bits := f.signBit neg, flags := flagUF ||| flagNX } else { bits := f.pack r.val, flags := r.flags }

/-- An operand's bits under FTZ (R231): a subnormal reads as a zero of its sign. -/
def Fmt.flushIn (f : Fmt) (ftz : Bool) (b : Nat) : Nat :=
  if ftz && bitsOf b f.fb f.eb = 0 then f.signBit (bitOf b (f.eb + f.fb)) else b

/-- A value under FTZ. -/
def Fmt.value (f : Fmt) (ftz : Bool) (b : Nat) : Fl := f.unpack (f.flushIn ftz b)

/-- Whether a value is a NaN. -/
def Fl.isNaN : Fl → Bool
  | .nan _ => true
  | _ => false
/-- Whether a value is an infinity. -/
def Fl.isInf : Fl → Bool
  | .inf _ => true
  | _ => false
/-- Whether a value signals. -/
def Fl.signals : Fl → Bool
  | .nan b => b
  | _ => false
/-- Whether a value is a zero. -/
def Fl.isZero : Fl → Bool
  | .fin _ 0 _ => true
  | _ => false
/-- The sign of a value. -/
def Fl.isNeg : Fl → Bool
  | .nan _ => false
  | .inf n => n
  | .fin n _ _ => n
/-- The value with its sign changed. -/
def Fl.neg : Fl → Fl
  | .nan b => .nan b
  | .inf n => .inf (¬ n)
  | .fin n m e => .fin (¬ n) m e
/-- The exact product of two finite values or of an infinity; 0 × ∞ is invalid. -/
def Fl.mul : Fl → Fl → Fl
  | .nan a, .nan b => .nan (a || b)
  | .nan a, _ => .nan a
  | _, .nan b => .nan b
  | .inf a, .inf b => .inf (a != b)
  | .inf a, .fin b m _ => if m = 0 then .nan true else .inf (a != b)
  | .fin a m _, .inf b => if m = 0 then .nan true else .inf (a != b)
  | .fin a m e, .fin b n g => .fin (a != b) (m * n) (e + g)

/-- The signed whole number that a finite value is, in units of 2^q. -/
def Fl.scaled (q : Int) : Fl → Int
  | .fin n m e => if n then - ((m * 2 ^ (e - q).toNat : Nat) : Int) else ((m * 2 ^ (e - q).toNat : Nat) : Int)
  | _ => 0

/-- The least exponent of a list of values. -/
def leastExp (l : List Fl) : Int :=
  l.foldl (fun q x => match x with | .fin _ _ e => min q e | _ => q) 0

/-- The exact sum of values (R237): NaN when a term is NaN or infinities differ in sign, else the infinity; an exact
zero is −0 when every term is −0, else −0 only under round-down with terms of both signs. -/
def sumFl (rm : Nat) (l : List Fl) : Fl :=
  if l.any Fl.isNaN then .nan (l.any Fl.signals)
  else if l.any Fl.isInf then
    let infs := l.filter Fl.isInf
    if infs.any Fl.isNeg && infs.any (fun x => ¬ x.isNeg) then .nan true else .inf (infs.any Fl.isNeg)
  else
    let q := leastExp l
    let n : Int := (l.map (Fl.scaled q)).sum
    if n = 0 then .fin (l.all Fl.isNeg || (rm = 3 && l.any Fl.isNeg)) 0 0
    else .fin (decide (n < 0)) n.natAbs q

/-- A value rounded once to a format, under FTZ; a NaN becomes the canonical NaN and, where it signals, raises IV. -/
def Fmt.result (f : Fmt) (rm : Nat) (ftz : Bool) : Fl → FpR
  | .nan sig => { bits := f.canonNaN, flags := if sig then flagIV else 0 }
  | .inf n => { bits := f.pack (.inf n), flags := 0 }
  | .fin n m e => f.roundFtz rm ftz n m e false

/-- Addition (R301). -/
def Fmt.add (f : Fmt) (rm : Nat) (ftz : Bool) (a b : Nat) : FpR :=
  f.result rm ftz (sumFl rm [f.value ftz a, f.value ftz b])

/-- Subtraction (R301). -/
def Fmt.sub (f : Fmt) (rm : Nat) (ftz : Bool) (a b : Nat) : FpR :=
  f.result rm ftz (sumFl rm [f.value ftz a, (f.value ftz b).neg])

/-- Multiplication (R301). -/
def Fmt.mul (f : Fmt) (rm : Nat) (ftz : Bool) (a b : Nat) : FpR :=
  f.result rm ftz ((f.value ftz a).mul (f.value ftz b))

/-- Fused multiply-add, rounded once (R301): 0 × ∞ is invalid whatever the addend holds. -/
def Fmt.fma (f : Fmt) (rm : Nat) (ftz : Bool) (a b d : Nat) : FpR :=
  f.result rm ftz (sumFl rm [(f.value ftz a).mul (f.value ftz b), f.value ftz d])

/-- Division (R306). -/
def Fmt.div (f : Fmt) (rm : Nat) (ftz : Bool) (a b : Nat) : FpR :=
  let nan (sig : Bool) : FpR := { bits := f.canonNaN, flags := if sig then flagIV else 0 }
  match f.value ftz a, f.value ftz b with
  | .nan x, .nan y => nan (x || y)
  | .nan x, _ => nan x
  | _, .nan y => nan y
  | .inf _, .inf _ => nan true
  | .inf x, .fin y _ _ => { bits := f.pack (.inf (x != y)), flags := 0 }
  | .fin x _ _, .inf y => { bits := f.signBit (x != y), flags := 0 }
  | .fin x m e, .fin y n g =>
    if n = 0 then
      if m = 0 then nan true else { bits := f.pack (.inf (x != y)), flags := flagDZ }
    else if m = 0 then { bits := f.signBit (x != y), flags := 0 }
    else
      let k := n.log2 + f.fb + 4
      f.roundFtz rm ftz (x != y) (m * 2 ^ k / n) (e - g - k) (m * 2 ^ k % n ≠ 0)

/-- Square root (R306). -/
def Fmt.sqrt (f : Fmt) (rm : Nat) (ftz : Bool) (a : Nat) : FpR :=
  let nan (sig : Bool) : FpR := { bits := f.canonNaN, flags := if sig then flagIV else 0 }
  match f.value ftz a with
  | .nan x => nan x
  | .inf x => if x then nan true else { bits := f.pack (.inf false), flags := 0 }
  | .fin x m e =>
    if m = 0 then { bits := f.signBit x, flags := 0 }
    else if x then nan true
    else
      let k := 2 * f.fb + 8 + (if (e - 2 * f.fb - 8) % 2 = 0 then 0 else 1)
      let n := m * 2 ^ k
      f.roundFtz rm ftz false n.sqrt ((e - k) / 2) (n.sqrt * n.sqrt ≠ n)

/-- How two values compare; none when either is a NaN. −0 equals +0 (R303). -/
def Fl.cmp : Fl → Fl → Option Ordering
  | .nan _, _ => none
  | _, .nan _ => none
  | .inf a, .inf b => some (if a = b then .eq else if a then .lt else .gt)
  | .inf a, .fin _ _ _ => some (if a then .lt else .gt)
  | .fin _ _ _, .inf b => some (if b then .gt else .lt)
  | .fin a m e, .fin b n g =>
    let q := min e g
    some (compare ((Fl.fin a m e).scaled q) ((Fl.fin b n g).scaled q))

/-- IV when an operand signals. -/
def ivOf (l : List Fl) : FFlags := if l.any Fl.signals then flagIV else 0

/-- minimumNumber and maximumNumber of R137 on bits, or with `prop` the form that gives NaN for any NaN (R302): a NaN
with a number gives the number, −0 lies below +0. -/
def Fmt.minmax (f : Fmt) (max prop ftz : Bool) (a b : Nat) : FpR :=
  let a := f.flushIn ftz a
  let b := f.flushIn ftz b
  let x := f.unpack a
  let y := f.unpack b
  let pick (first : Bool) : Nat := if first then a else b
  let bits :=
    if x.isNaN ∧ y.isNaN ∨ prop ∧ (x.isNaN ∨ y.isNaN) then f.canonNaN
    else if x.isNaN then b
    else if y.isNaN then a
    else match x.cmp y with
      | some .lt => pick (¬ max)
      | some .gt => pick max
      | _ => pick (x.isNeg != max)
  { bits := bits, flags := ivOf [x, y] }

/-- A condition of Table 13-14 on two values, with IV. -/
def fcond (cc : Nat) (x y : Fl) : Bool × FFlags :=
  let c := x.cmp y
  let quiet := c.isNone && 2 ≤ cc && cc ≤ 5
  let iv := if quiet then flagIV else ivOf [x, y]
  let b := match cc with
    | 0 => c = some .eq
    | 1 => c ≠ some .eq
    | 2 => c = some .lt
    | 3 => c = some .lt ∨ c = some .eq
    | 4 => c = some .gt
    | 5 => c = some .gt ∨ c = some .eq
    | 6 => c.isSome
    | _ => c.isNone
  (b, iv)

/-- A finite value rounded to a whole number under a mode, and whether that is inexact (R305). -/
def Fl.integral (rm : Nat) : Fl → Fl × Bool
  | .fin n m e => let r := quant rm n m e false (max 0 e); (.fin n r.1 (max 0 e), r.2)
  | x => (x, false)

/-- FLOOR, CEIL, TRUNC and RINT under a rounding mode (R305): no NX. -/
def Fmt.rint (f : Fmt) (rm : Nat) (ftz : Bool) (a : Nat) : FpR :=
  match f.value ftz a with
  | .nan x => { bits := f.canonNaN, flags := if x then flagIV else 0 }
  | .inf n => { bits := f.pack (.inf n), flags := 0 }
  | .fin n m e => { bits := f.pack ((Fl.fin n m e).integral rm).1, flags := 0 }

/-- FRACT (R305). -/
def Fmt.fract (f : Fmt) (rm : Nat) (ftz : Bool) (a : Nat) : FpR :=
  match f.value ftz a with
  | .nan x => { bits := f.canonNaN, flags := if x then flagIV else 0 }
  | .inf _ => { bits := f.canonNaN, flags := flagIV }
  | .fin n m e =>
    if m = 0 then { bits := 0, flags := 0 } else
    let x := Fl.fin n m e
    let r := f.result rm ftz (sumFl 0 [x, (x.integral 3).1.neg])
    { r with bits := min r.bits (f.bias * 2 ^ f.fb - 1) }

/-- Two 16-bit results in one register, their flags ORed (R307). -/
def packed (f : Nat → Nat → Nat → FpR) (a b d : Word) : FpR :=
  let lo := f (a.toNat % 2 ^ 16) (b.toNat % 2 ^ 16) (d.toNat % 2 ^ 16)
  let hi := f (a.toNat / 2 ^ 16) (b.toNat / 2 ^ 16) (d.toNat / 2 ^ 16)
  { bits := hi.bits * 2 ^ 16 + lo.bits, flags := hi.flags ||| lo.flags }

end Sys2Proof.Machine
end

