-- ==== Sys2Proof/Machine/Cvt.lean ====
section
/-! DEFINITION. Type codes (10 Table 10-1), conversions (R233), the expansion of group-scaled weights (R236) and the
sums of products of the narrow array (R237, R238). -/

namespace Sys2Proof.Machine

/-- The floating-point format of a type code; e8m0 has a layout of its own. -/
def fmtOf : Nat → Option Fmt
  | 1 => some f32
  | 2 => some f16
  | 3 => some bf16
  | 4 => some f64
  | 5 => some e4m3
  | 6 => some e5m2
  | _ => none

/-- Width and signedness of an integer type code. -/
def intOf : Nat → Option (Nat × Bool)
  | 7 => some (8, true)
  | 8 => some (8, false)
  | 9 => some (16, true)
  | 10 => some (16, false)
  | 11 => some (32, true)
  | 12 => some (32, false)
  | 13 => some (64, true)
  | 14 => some (64, false)
  | _ => none

/-- Bytes of an element of a type code (Table 10-1); the sub-byte types have none. -/
def typeBytes (c : Nat) : Nat :=
  match fmtOf c, intOf c with
  | some f, _ => f.width / 8
  | none, some i => i.1 / 8
  | none, none => if c = 18 then 1 else 0

/-- The least and the greatest value of an integer type. -/
def intMin (i : Nat × Bool) : Int := if i.2 then -(2 ^ (i.1 - 1) : Nat) else 0
/-- The greatest value of an integer type. -/
def intMax (i : Nat × Bool) : Int := ((if i.2 then 2 ^ (i.1 - 1) - 1 else 2 ^ i.1 - 1 : Nat) : Int)

/-- The number that low bits hold in an integer type. -/
def intOfBits (i : Nat × Bool) (b : Nat) : Int :=
  let n := b % 2 ^ i.1
  if i.2 ∧ 2 ^ (i.1 - 1) ≤ n then (n : Int) - (2 ^ i.1 : Nat) else n

/-- The low bits of a number. -/
def bitsOfInt (w : Nat) (x : Int) : Nat := (x % (2 ^ w : Nat)).toNat

/-- A number held between bounds. -/
def clampInt (x lo hi : Int) : Int := if x < lo then lo else if hi < x then hi else x

/-- The value of e8m0 bits (R226). -/
def e8m0Value (b : Nat) : Fl := if b % 256 = 255 then .nan false else .fin false 1 ((b % 256 : Nat) - 127)

/-- The value of floating-point bits of a type code, read under FTZ where it acts (R231). -/
def typeValue (c : Nat) (ftz : Bool) (b : Nat) : Fl :=
  match fmtOf c with
  | some f => f.value (ftz && (c = 1 || c = 2 || c = 3)) b
  | none => e8m0Value b

/-- A floating-point value rounded to an integer type: it always saturates, with IV (R233). -/
def toInt (i : Nat × Bool) (rm : Nat) (x : Fl) : FpR :=
  match x with
  | .nan _ => { bits := 0, flags := flagIV }
  | .inf n => { bits := bitsOfInt i.1 (if n then intMin i else intMax i), flags := flagIV }
  | .fin n m e =>
    let r := quant rm n m e false (max 0 e)
    let y : Int := if n then -((r.1 * 2 ^ (max 0 e).toNat : Nat) : Int) else ((r.1 * 2 ^ (max 0 e).toNat : Nat) : Int)
    if y < intMin i ∨ intMax i < y then { bits := bitsOfInt i.1 (clampInt y (intMin i) (intMax i)), flags := flagIV }
    else { bits := bitsOfInt i.1 y, flags := if r.2 then flagNX else 0 }

/-- A value rounded to a floating-point type (R233): the narrow formats have their own overflow. -/
def toFloat (c : Nat) (f : Fmt) (sat : Bool) (rm : Nat) (ftz : Bool) (x : Fl) : FpR :=
  match x with
  | .nan s => { bits := f.canonNaN, flags := if s then flagIV else 0 }
  | .inf n =>
    if c = 5 then
      if sat then { bits := f.signBit n + 0x7E, flags := 0 } else { bits := f.pack (.inf n), flags := flagIV }
    else { bits := f.pack (.inf n), flags := 0 }
  | .fin n m e =>
    let r := f.round rm n m e false
    if r.val.isInf ∧ (c = 5 ∨ c = 6) ∧ sat then { bits := f.signBit n + (if c = 5 then 0x7E else 0x7B), flags := r.flags }
    else f.roundFtz rm (ftz && (c = 1 || c = 2 || c = 3)) n m e false

/-- Convert (R233) from a type code to another. -/
def convert (src dst : Nat) (sat : Bool) (rm : Nat) (ftz : Bool) (b : Nat) : FpR :=
  match intOf src, intOf dst, fmtOf dst with
  | some i, some j, _ =>
    let x := intOfBits i b
    { bits := bitsOfInt j.1 (if sat then clampInt x (intMin j) (intMax j) else x), flags := 0 }
  | some i, none, some f =>
    let x := intOfBits i b
    toFloat dst f sat rm ftz (.fin (decide (x < 0)) x.natAbs 0)
  | none, some j, _ => toInt j rm (typeValue src ftz b)
  | none, none, some f => toFloat dst f sat rm ftz (typeValue src ftz b)
  | _, none, none => { bits := 0, flags := 0 }

/-- A stored weight expanded to bf16 (R236). -/
def expandWeight (n z s : Nat) : Nat :=
  match bf16.unpack s with
  | .nan _ => bf16.canonNaN
  | .inf neg => if n = z then bf16.canonNaN else bf16.pack (.inf (neg != decide (n < z)))
  | .fin neg m e =>
    if n = z then bf16.signBit neg
    else bf16.pack (bf16.round 0 (neg != decide (n < z)) (m * (if n < z then z - n else n - z)) e false).val

/-- One chunk of the narrow array, or one fused step: a start value and products, summed exactly and rounded once to
a format to nearest even with subnormals kept (R237, R239). -/
def chunkSum (f : Fmt) (acc : Nat) (prods : List Fl) : Nat :=
  (f.result 0 false (sumFl 0 (f.unpack acc :: prods))).bits

/-- Eight by eight sums of products (R237 NarrowDot); the fuel is the number of products. -/
def narrowDot : Nat → Nat → List Fl → Nat
  | 0, acc, _ => acc
  | n + 1, acc, ps => if ps.isEmpty then acc else narrowDot n (chunkSum f32 acc (ps.take 8)) (ps.drop 8)

/-- The products of two rows of values. -/
def products (a b : List Fl) : List Fl := (List.range (min a.length b.length)).map fun k =>
  ((a[k]?).getD (.nan true)).mul ((b[k]?).getD (.nan true))

end Sys2Proof.Machine
end

