-- ==== Sys2Proof/Machine/Regs.lean ====
section
/-! DEFINITION. Registers of lanes, paths and teams, and how State finds and changes a group, a team and a path. -/

namespace Sys2Proof.Machine

/-- v register n of a lane. -/
def Lane.getV (l : Lane) (n : Nat) : Word := rget l.v n
/-- A lane with v register n written. -/
def Lane.setV (l : Lane) (n : Nat) (x : Word) : Lane := { l with v := tset l.v n x }
/-- Predicate n of a lane; p7 reads as true (R12, R143). -/
def Lane.getP (l : Lane) (n : Nat) : Bool := n = 7 || l.p.getLsbD n
/-- A lane with predicate n written; a write to p7 is ignored (R264). -/
def Lane.setP (l : Lane) (n : Nat) (b : Bool) : Lane :=
  if n = 7 then l else { l with p := (l.p &&& ~~~ (1#64 <<< n)) ||| ((if b then 1#64 else 0#64) <<< n) }
/-- Matrix slot n of a lane (R161). -/
def Lane.getM (l : Lane) (n : Nat) : MReg := (tget l.m n).getD { tag := 0, data := 0 }
/-- A lane with matrix slot n written. -/
def Lane.setM (l : Lane) (n : Nat) (r : MReg) : Lane := { l with m := tset l.m n r }
/-- The pair n, n + 1 of a lane: the low word is in the even register (R284). -/
def Lane.getV2 (l : Lane) (n : Nat) : Dbl := (l.getV (n + 1) ++ l.getV n : BitVec 64)
/-- A lane with the pair n, n + 1 written. -/
def Lane.setV2 (l : Lane) (n : Nat) (x : Dbl) : Lane :=
  (l.setV n (x.extractLsb' 0 32)).setV (n + 1) (x.extractLsb' 32 32)
/-- A lane with k registers from n written with the words of a number (R330). -/
def Lane.setVs (l : Lane) (n : Nat) : List Word → Lane
  | [] => l
  | w :: ws => (l.setV n w).setVs (n + 1) ws

/-- Uniform register n of a path. -/
def Path.getS (p : Path) (n : Nat) : Word := rget p.s n
/-- The uniform pair n, n + 1. -/
def Path.getS2 (p : Path) (n : Nat) : Dbl := (p.getS (n + 1) ++ p.getS n : BitVec 64)
/-- A path with uniform register n written, which counts as written (R154). -/
def Path.setS (p : Path) (n : Nat) (x : Word) : Path :=
  { p with s := tset p.s n x, sWritten := p.sWritten ||| (1#64 <<< n) }
/-- A path with the uniform pair n, n + 1 written. -/
def Path.setS2 (p : Path) (n : Nat) (x : Dbl) : Path :=
  (p.setS n (x.extractLsb' 0 32)).setS (n + 1) (x.extractLsb' 32 32)

/-- Whether a lane satisfies a guard (R263): 0b0111 is always, 0b1111 never. -/
def guardHolds (g : Guard) (l : Lane) : Bool := l.getP g.p.toNat != (g.neg = 1)

/-- Lanes at or above the declared count are helpers (R142). -/
def Team.helper (t : Team) (l : Nat) : Bool := t.lanesN ≤ l

/-- A lane's registers. -/
def Team.lane (t : Team) (l : Nat) : Lane := (tget t.lanes l).getD Lane.start

/-- The lanes of a mask whose guard is true, in ascending order (R11, R144). -/
def Team.activeLanes (t : Team) (mask : LaneSet) (g : Guard) : List Nat :=
  (t.lanes.filter fun e => mask.getLsbD e.1 && guardHolds g e.2).map Prod.fst

/-- The team with the registers of some lanes changed. -/
def Team.mapLanes (t : Team) (ls : List Nat) (f : Nat → Lane → Lane) : Team :=
  { t with lanes := t.lanes.map fun e => (e.1, if ls.contains e.1 then f e.1 e.2 else e.2) }

/-- The path in a slot. -/
def Team.path (t : Team) (slot : Nat) : Option Path := tget t.paths slot

/-- Count of a flag in a slot (R261). -/
def Team.flagCount (t : Team) (slot f : Nat) : Nat :=
  (t.outst.map fun o =>
    if o.slots.getLsbD slot then (if o.seta = some f then 1 else 0) + (if o.setb = some f then 1 else 0) else 0).sum

/-- A flag is pending while its count is not zero (R261). -/
def Team.pending (t : Team) (slot f : Nat) : Bool := t.flagCount slot f ≠ 0

/-- The group with a team changed. -/
def Group.modTeam (g : Group) (role : Nat) (f : Team → Team) : Group := { g with teams := tmod g.teams role f }

/-- The state with a group changed. -/
def State.modGroup (s : State) (gid : Nat) (f : Group → Group) : State := { s with groups := tmod s.groups gid f }

/-- The state with a team changed. -/
def State.modTeam (s : State) (gid role : Nat) (f : Team → Team) : State :=
  s.modGroup gid fun g => g.modTeam role f

/-- The state with a path changed. -/
def State.modPath (s : State) (r : Ref) (f : Path → Path) : State :=
  s.modTeam r.gid r.role fun t => { t with paths := tmod t.paths r.slot f }

/-- The state with a context, a grid, a core, a cell, a die, an engine, an operation changed. -/
def State.modCtx (s : State) (asid : Nat) (f : Ctx → Ctx) : State := { s with ctxs := tmod s.ctxs asid f }
/-- The state with a grid changed. -/
def State.modGrid (s : State) (n : Nat) (f : Grid → Grid) : State := { s with grids := tmod s.grids n f }
/-- A core; one that State does not list holds nothing. -/
def State.core (s : State) (n : Nat) : Core := (tget s.cores n).getD Core.empty
/-- The state with a core changed. -/
def State.modCore (s : State) (n : Nat) (f : Core → Core) : State := { s with cores := tset s.cores n (f (s.core n)) }
/-- A cell, by its number in the module. -/
def State.cell (s : State) (n : Nat) : CellUnit := (tget s.cells n).getD CellUnit.empty
/-- The state with a cell changed. -/
def State.modCell (s : State) (n : Nat) (f : CellUnit → CellUnit) : State :=
  { s with cells := tset s.cells n (f (s.cell n)) }
/-- A die. -/
def State.die (s : State) (n : Nat) : Die := (tget s.dies n).getD Die.empty
/-- The state with a die changed. -/
def State.modDie (s : State) (n : Nat) (f : Die → Die) : State := { s with dies := tset s.dies n (f (s.die n)) }
/-- Counters of a core. -/
def State.clock (s : State) (n : Nat) : Clock := (tget s.clocks n).getD Clock.zero
/-- A line of which a home slice keeps nothing. -/
def Dir.empty : Dir := { present := false, dirty := false, low := false, sent := 0, owner := none, contended := none }
/-- The directory of an L2 line. -/
def State.dir (s : State) (line : Nat) : Dir := (tget s.l2 line).getD Dir.empty
/-- The state with an L2 line's directory changed. -/
def State.modDir (s : State) (line : Nat) (f : Dir → Dir) : State := { s with l2 := tset s.l2 line (f (s.dir line)) }

/-- Module cell and die of a core (Table 3-2). -/
def cellOf (core : Nat) : Nat := core / 16
/-- Die of a core. -/
def dieOf (core : Nat) : Nat := core / 512

/-- A path with what it belongs to. -/
structure Cur where
  r : Ref
  g : Group
  t : Team
  p : Path
  deriving DecidableEq, Repr

/-- The path a reference names. -/
def State.at (s : State) (r : Ref) : Option Cur :=
  match tget s.groups r.gid with
  | none => none
  | some g => match tget g.teams r.role with
    | none => none
    | some t => match tget t.paths r.slot with
      | none => none
      | some p => some { r := r, g := g, t := t, p := p }

/-- The path whose instruction executes. -/
def State.look (s : State) : Option Cur :=
  match s.cur with
  | none => none
  | some r => s.at r

/-- Active lanes of the path under the guard of the instruction (R11). -/
def Cur.act (c : Cur) (g : Guard) : List Nat := c.t.activeLanes c.p.mask g

/-- Active lanes that are not helpers (R148). -/
def Cur.workers (c : Cur) (g : Guard) : List Nat := (c.act g).filter fun l => ¬ c.t.helper l

/-- The next instruction's words. -/
def Clause.word0 (c : Clause) : Word := (c.words[c.pos]?).getD 0
/-- The word after it. -/
def Clause.word1 (c : Clause) : Word := (c.words[c.pos + 1]?).getD 0

/-- CLASS of a header (Table 12-1). -/
def hdrClass (h : Word) : Nat := h.toNat / 2 ^ 25 % 8
/-- COUNT of a header. -/
def hdrCount (h : Word) : Nat := h.toNat / 2 ^ 28
/-- GAUGE of a header. -/
def hdrGauge (h : Word) : Nat := h.toNat / 2 ^ 23 % 4
/-- WAIT of a header. -/
def hdrWait (h : Word) : BitVec 12 := fld h 11 12
/-- SETA of a header, when it names a flag. -/
def hdrSeta (h : Word) : Option Nat := if h.toNat / 2 ^ 7 % 16 < 12 then some (h.toNat / 2 ^ 7 % 16) else none
/-- SETB of a header, when it names a flag. -/
def hdrSetb (h : Word) : Option Nat := if h.toNat / 2 ^ 3 % 16 < 12 then some (h.toNat / 2 ^ 3 % 16) else none
/-- LEAVE of a header. -/
def hdrLeave (h : Word) : Bool := h.toNat.testBit 2
/-- J of a header. -/
def hdrJ (h : Word) : Bool := h.toNat.testBit 1

/-- Address of the header after a clause (R257). -/
def Clause.next (c : Clause) : Nat := c.addr + 4 * (1 + c.words.length)

/-- The flag counts of a clause all of whose instructions have issued (R261): SETB's is released, since every
source was read at issue (log 6); in a short class SETA's is too. -/
def closeOutst (id : Nat) (short : Bool) (os : List Outst) : List Outst :=
  (os.map fun o => if o.clause = id then
      { o with issued := true, setb := none, seta := if short then none else o.seta } else o).filter
    fun o => ¬ (o.issued && o.seta.isNone && o.setb.isNone)

/-- Classes ALU, CTL and SYS release both counts at the clause's end (R261). -/
def shortClass (h : Word) : Bool := hdrClass h = 0 ∨ 4 ≤ hdrClass h

/-- The team after the path in a slot has left its clause for a header address. -/
def Team.leaveClause (t : Team) (slot target : Nat) : Team :=
  match t.path slot with
  | none => t
  | some p => match p.clause with
    | none => { t with paths := tset t.paths slot { p with pc := target } }
    | some c =>
      { t with
        paths := tset t.paths slot { p with pc := target, clause := none, grant := .none }
        outst := closeOutst c.id (shortClass c.hdr) t.outst }

/-- The team after the path in a slot has executed one instruction and goes on (R257). -/
def Team.advance (t : Team) (slot : Nat) : Team :=
  match t.path slot with
  | none => t
  | some p => match p.clause with
    | none => t
    | some c =>
      if c.left ≤ 1 then t.leaveClause slot c.next
      else { t with paths := tset t.paths slot { p with clause := some { c with
        pos := c.pos + wordCount c.word0, left := c.left - 1 } } }

/-- The state after the current instruction of a path is done. -/
def State.advance (s : State) (r : Ref) : State := s.modTeam r.gid r.role fun t => t.advance r.slot

/-- The state after a transfer of control (R365). -/
def State.jump (s : State) (r : Ref) (target : Nat) : State :=
  s.modTeam r.gid r.role fun t => t.leaveClause r.slot target

/-- A clause's identifier, or 0 outside one. -/
def Path.clauseId (p : Path) : Nat := match p.clause with | none => 0 | some c => c.id

/-- A pending write added to a team (R262). -/
def State.land (s : State) (gid role clause : Nat) (w : Pending) : State :=
  { s with
    fresh := s.fresh + 1
    groups := tmod s.groups gid fun g => g.modTeam role fun t =>
      { t with landing := t.landing ++ [{ id := s.fresh, clause := clause, what := w }] } }

/-- A team after a pending write is done (R262): flags are ORed into FSR (R138), MXSTAT counts failing lanes and
saturates (Table 14-7). A saturation status belongs to the context and is set by the caller. -/
def Team.doLand (t : Team) : Pending → Team
  | .v n _ vals => { t with lanes := tmap t.lanes fun l r => match tget vals l with | none => r | some x => r.setV n x }
  | .p n _ vals => { t with lanes := tmap t.lanes fun l r => match tget vals l with | none => r | some x => r.setP n x }
  | .m n _ vals => { t with lanes := tmap t.lanes fun l r => match tget vals l with | none => r | some x => r.setM n x }
  | .s slot n x => { t with paths := tmod t.paths slot fun p => p.setS n x }
  | .mx fails last =>
    if fails = 0 then t else
    let cnt := t.mxstat.toNat % 65536 + fails
    { t with mxstat := BitVec.ofNat 32 ((if 65535 ≤ cnt ∨ t.mxstat.getLsbD 31 then 2 ^ 31 else 0) + last * 65536
        + min cnt 65535) }
  | .fsr flags => { t with fsr := t.fsr ||| flags.setWidth 32 }
  | .sat _ => t

/-- The ATOMSAT bits of a pending write. -/
def Pending.satBits : Pending → BitVec 2
  | .sat b => b
  | _ => 0

/-- Do the pending writes of a team that a test selects, oldest first (R262). -/
def State.landIf (s : State) (gid role : Nat) (sel : Land → Bool) : State :=
  match tget s.groups gid with
  | none => s
  | some g => match tget g.teams role with
    | none => s
    | some t =>
      let now := t.landing.filter sel
      let t' := now.foldl (fun t l => t.doLand l.what) { t with landing := t.landing.filter fun l => ¬ sel l }
      let bits := now.foldl (fun b l => b ||| l.what.satBits) 0
      let s := { s with groups := tset s.groups gid { g with teams := tset g.teams role t' } }
      if bits = 0 then s else s.modCtx g.asid fun c => { c with atomsat := c.atomsat ||| bits }

/-- Do every pending write of a team. -/
def State.landAll (s : State) (gid role : Nat) : State := s.landIf gid role fun _ => true

/-- Mask words of a list of lanes (R144). -/
def wordsOf (ls : List Nat) : List Nat := (ls.map fun l => l / 32).dedup

/-- Pending writes of one v register, one per mask word (Table 12-3). -/
def State.landV (s : State) (r : Ref) (clause n : Nat) (vals : List (Nat × Word)) : State :=
  (wordsOf (vals.map Prod.fst)).foldl
    (fun s w => s.land r.gid r.role clause (.v n w (vals.filter fun e => e.1 / 32 = w))) s

/-- Pending writes of one predicate, one per mask word. -/
def State.landP (s : State) (r : Ref) (clause n : Nat) (vals : List (Nat × Bool)) : State :=
  (wordsOf (vals.map Prod.fst)).foldl
    (fun s w => s.land r.gid r.role clause (.p n w (vals.filter fun e => e.1 / 32 = w))) s

/-- Pending writes of one matrix slot, one per mask word. -/
def State.landM (s : State) (r : Ref) (clause n : Nat) (vals : List (Nat × MReg)) : State :=
  (wordsOf (vals.map Prod.fst)).foldl
    (fun s w => s.land r.gid r.role clause (.m n w (vals.filter fun e => e.1 / 32 = w))) s

/-- Only matrix slots written. -/
def LaneOut.slots (m : List (Nat × MReg)) : LaneOut := { m := m, v := [], p := [], fail := false }
/-- Only v registers written. -/
def LaneOut.regs (v : List (Nat × Word)) : LaneOut := { m := [], v := v, p := [], fail := false }

/-- The results of the active lanes as pending writes (R262, R315). -/
def State.landOuts (s : State) (r : Ref) (clause : Nat) (outs : List (Nat × LaneOut)) : State :=
  let ms := (outs.flatMap fun e => e.2.m.map Prod.fst).dedup
  let vs := (outs.flatMap fun e => e.2.v.map Prod.fst).dedup
  let ps := (outs.flatMap fun e => e.2.p.map Prod.fst).dedup
  let s := ms.foldl (fun s n => s.landM r clause n (outs.filterMap fun e => (tget e.2.m n).map fun x => (e.1, x))) s
  let s := vs.foldl (fun s n => s.landV r clause n (outs.filterMap fun e => (tget e.2.v n).map fun x => (e.1, x))) s
  ps.foldl (fun s n => s.landP r clause n (outs.filterMap fun e => (tget e.2.p n).map fun x => (e.1, x))) s

/-- Pending writes of k registers from n, each lane giving its words (R330). -/
def State.landVs (s : State) (r : Ref) (clause n k : Nat) (vals : List (Nat × List Word)) : State :=
  (List.range k).foldl
    (fun s j => s.landV r clause (n + j) (vals.map fun e => (e.1, (e.2[j]?).getD 0))) s

end Sys2Proof.Machine
end

