-- ==== Sys2Proof/Machine/MatReg.lean ====
section
/-! DEFINITION. Matrix registers (06 R161 to R163, 14 R312 to R314): reading an operand with its checks, writing a result with its
tag. -/

namespace Sys2Proof.Machine

/-- A matrix as an operand holds it: rows, columns, type code, elements in row-major order as bits. -/
structure Mat where
  r  : Nat
  c  : Nat
  ty : Nat
  el : List Nat
  deriving DecidableEq, Repr

/-- V of a tag (Table 6-5). -/
def tagV (t : BitVec 16) : Bool := t.getLsbD 15
/-- P. -/
def tagP (t : BitVec 16) : Bool := t.getLsbD 14
/-- Rows. -/
def tagR (t : BitVec 16) : Nat := bitsOf t.toNat 11 3 + 1
/-- Columns. -/
def tagC (t : BitVec 16) : Nat := bitsOf t.toNat 8 3 + 1
/-- Type code. -/
def tagTy (t : BitVec 16) : Nat := t.toNat % 256
/-- A valid tag. -/
def mkTag (p : Bool) (r c ty : Nat) : BitVec 16 :=
  BitVec.ofNat 16 (2 ^ 15 + (if p then 2 ^ 14 else 0) + 2 ^ 11 * (r - 1) + 2 ^ 8 * (c - 1) + ty)

/-- Whether a register takes a shape: at most 128 bytes, or 256 in an even register whose partner is allocated
(R162, R314). -/
def shapeFits (mregs n r c ty : Nat) : Bool :=
  let b := r * c * typeBytes ty
  b ≤ 128 || (b ≤ 256 && n % 2 = 0 && n + 1 < mregs)

/-- Whether an operand names the odd register of a pair in the lane (R161). -/
def oddOfPair (l : Lane) (n : Nat) : Bool := n % 2 = 1 && tagP (l.getM n).tag

/-- Whether a tag is valid and legal for its register (R162). -/
def tagLegal (mregs n : Nat) (t : BitVec 16) : Bool :=
  tagV t && allTypes.contains (tagTy t) &&
    (if tagP t then n % 2 = 0 && n + 1 < mregs && tagR t * tagC t * typeBytes (tagTy t) ≤ 256
     else tagR t * tagC t * typeBytes (tagTy t) ≤ 128)

/-- The 256 bytes from a slot on. -/
def Lane.pairData (l : Lane) (n : Nat) : BitVec 2048 := (l.getM (n + 1)).data ++ (l.getM n).data

/-- Element k of a size in bytes. -/
def elemOf (d : BitVec 2048) (size k : Nat) : Nat := (d.extractLsb' (8 * size * k) (8 * size)).toNat

/-- A source operand: none where its tag is invalid or illegal, where it is the odd register of a pair, or where
TYPE does not agree with its type (R162, R312, R313). -/
def Lane.mat (l : Lane) (mregs n : Nat) (ty : BitVec 8) : Option Mat :=
  let t := (l.getM n).tag
  if ¬ tagLegal mregs n t ∨ oddOfPair l n then none
  else if (if ty = 0 then tagTy t = 4 else ty.toNat ≠ tagTy t) then none
  else
    let d := l.pairData n
    let el := (List.range (tagR t * tagC t)).map fun k => elemOf d (typeBytes (tagTy t)) k
    some { r := tagR t, c := tagC t, ty := tagTy t, el := el }

/-- A further operand, whose type the row judges. -/
def Lane.matAny (l : Lane) (mregs n : Nat) : Option Mat := l.mat mregs n (BitVec.ofNat 8 (tagTy (l.getM n).tag))

/-- The places of a slice's elements, in slice order (Table 6-6); none where the index is out of range. -/
def slicePlaces (r c slc idx : Nat) : Option (List Nat) :=
  match slc with
  | 0 => some (List.range (r * c))
  | 1 => if idx < r then some ((List.range c).map fun j => idx * c + j) else none
  | 2 => if idx < c then some ((List.range r).map fun i => i * c + idx) else none
  | _ => if r = c ∧ idx < r then some ((List.range r).map fun k => k * c + (k + idx) % r) else none

/-- The slice index (R163): s[SX] + IX, unsigned. -/
def sliceIndex (p : Path) (x : XMat) : Nat := ((p.getS x.sx.toNat) + word x.ix.toNat).toNat

/-- Elements put into 256 bytes, from byte 0 on. -/
def putElems (d : BitVec 2048) (size : Nat) (els : List (Nat × Nat)) : BitVec 2048 :=
  els.foldl (fun d e =>
    (d &&& ~~~ (BitVec.ofNat 2048 ((2 ^ (8 * size) - 1) * 2 ^ (8 * size * e.1)))) |||
      BitVec.ofNat 2048 (e.2 % 2 ^ (8 * size) * 2 ^ (8 * size * e.1))) d

/-- A tag of a shape set on a register, its bytes kept; an old partner becomes invalid (R314, R316). -/
def Lane.retag (l : Lane) (n r c ty : Nat) : List (Nat × MReg) :=
  let a := l.getM n
  let b := l.getM (n + 1)
  if 128 < r * c * typeBytes ty then
    [(n, { a with tag := mkTag true r c ty }), (n + 1, { b with tag := mkTag true r c ty })]
  else if tagP a.tag then [(n, { a with tag := mkTag false r c ty }), (n + 1, { b with tag := 0 })]
  else [(n, { a with tag := mkTag false r c ty })]

/-- The slots n and n + 1 with new bytes; the second only where it is among those written. -/
def withBytes (w : List (Nat × MReg)) (n : Nat) (d : BitVec 2048) (both : Bool) : List (Nat × MReg) :=
  w.map fun e =>
    if e.1 = n then (n, { e.2 with data := d.extractLsb' 0 1024 })
    else if both then (e.1, { e.2 with data := d.extractLsb' 1024 1024 }) else e

/-- A result written to D (R314): none where it does not fit, or where D is the odd register of a pair. -/
def Lane.matWrite (l : Lane) (mregs n : Nat) (m : Mat) : Option (List (Nat × MReg)) :=
  if ¬ shapeFits mregs n m.r m.c m.ty ∨ oddOfPair l n then none
  else
    let d := putElems (l.pairData n) (typeBytes m.ty) ((List.range m.el.length).zip m.el)
    some (withBytes (l.retag n m.r m.c m.ty) n d (128 < m.r * m.c * typeBytes m.ty))

/-- Elements of D replaced in place, its tag kept (MPUT, a masked write). -/
def Lane.matPatch (l : Lane) (n : Nat) (size : Nat) (els : List (Nat × Nat)) : List (Nat × MReg) :=
  let d := putElems (l.pairData n) size els
  let a := l.getM n
  let b := l.getM (n + 1)
  (n, { a with data := d.extractLsb' 0 1024 }) ::
    (if tagP a.tag then [(n + 1, { b with data := d.extractLsb' 1024 1024 })] else [])

end Sys2Proof.Machine
end

