-- ==== Sys2Proof/Config.lean ====
section
/-! DEFINITION. What one K9 module fixes (spec tables) and the free values: constants without a body, of which no
proof can learn a value. A free value is applied to State's counter `free`, which the step advances, or to the
operands it depends on. -/

namespace Sys2Proof.Config

/-- IDENT (Table 18-1): device 0x4B39, Etmon level 3, stepping A0. -/
def ident : BitVec 64 := 0x4B390000000003A0#64

/-- Cores of the module (Table 0-1). -/
def cores : Nat := 4096
/-- 32-bit registers of a core's vector file (Table 0-2). -/
def vectorFile : Nat := 32768
/-- Slots of a core's matrix file (Table 0-2). -/
def matrixFile : Nat := 1024
/-- Resident teams of a core (Table 0-2). -/
def coreTeams : Nat := 48
/-- Resident lanes of a core (Table 0-2). -/
def coreLanes : Nat := 4096
/-- Teams of the active set (Table 0-2). -/
def activeTeams : Nat := 8
/-- Live contexts of the module (R20). -/
def maxContexts : Nat := 64
/-- ETIME ticks of one scan period (R64, R214). -/
def scanTicks : Nat := 4096
/-- Default deferral limit, 2 ms in ticks (R126). -/
def deferTicks : Nat := 8000000
/-- Default frog interval, 10 µs in ticks (R126). -/
def frogTicks : Nat := 40000
/-- Default watchdog limit, 10 s in ticks (R178). -/
def watchdogTicks : Nat := 40000000000
/-- Ticks of one millisecond. -/
def msTicks : Nat := 4000000
/-- Ticks for which a line stays contended (R58). -/
def contendedTicks : Nat := 4096
/-- Ticks after which a waiting group pre-empts others (R193): 100 µs. -/
def preemptTicks : Nat := 400000
/-- Ticks after which a frame is resent (R397): 20 µs. -/
def frameTicks : Nat := 80000
/-- Attempts after which a channel fails (R397). -/
def frameAttempts : Nat := 8
/-- ETIME ticks of one uncore cycle, 0.5 ns at 2.0 GHz (R61, R8). -/
def uncoreTicks : Nat := 2
/-- Femtoseconds of one ETIME tick (R8). -/
def tickFs : Nat := 250000
/-- Femtoseconds of a cycle at each gauge with no stretch (Table 7-1). -/
def gaugeFs : Fin 4 → Nat
  | 0 => 400000
  | 1 => 526000
  | 2 => 667000
  | 3 => 833000
/-- Cycles within which a ready clause issues its first pass (R175). -/
def readyCycles : Nat := 256
/-- ETIME ticks within which an engine polls its queue (R182). -/
def pollTicks : Nat := 256
/-- Ticks within which the power arbiter answers (R176): 200 ns. -/
def grantTicks : Nat := 800
/-- Ticks after which a pre-empted group resumes where there is room (R177): 2 ms. -/
def resumeTicks : Nat := 8000000
/-- Cycles after which a ready clause is aged (R174), a ready pending team is swapped in (R173), a preferred gauge gives way
(R174). -/
def agedCycles : Nat := 192
/-- Cycles for which a pending team has been ready when it is swapped in by force (R173). -/
def forcedCycles : Nat := 224
/-- Cycles for which a preferred gauge holds (R174). -/
def prefCycles : Nat := 64
/-- Cycles after which an operation counts as issued long ago (R172). -/
def longCycles : Nat := 64
/-- Issue opportunities of a team within which each ready slot issues (R175). -/
def slotIssues : Nat := 64
/-- The least ticks between two droop steps of a die (R168): 20 ns. -/
def droopTicks : Nat := 80
/-- The ticks from CTXOP op 5 within which a kill is complete (R403): 20 ms. -/
def killTicks : Nat := 80000000
/-- The greatest droop stretch (R168). -/
def maxStretch : Nat := 12
/-- Threshold of corrected soft errors that raises a notification (TYPE 0x07; the spec states none: DESIGN CHOICE,
log 31). -/
opaque softThreshold : Nat

/-- The gauge at which a core runs a cycle: the longest of the passes in execute (R167), which are not counted: a free value for each
core and count of cycles (log 1). -/
opaque cycleGauge : Nat → Nat → Fin 4
/-- Whether a pipe of a core was occupied by an earlier pass in a cycle, which then does not count as waiting (R175): for each core,
pipe and count of cycles (log 80). -/
opaque pipeBusy : Nat → Nat → Nat → Bool
/-- ETIME ticks that a step takes (R168): a free value for each step. -/
opaque stepTicks : Nat → Nat
/-- The ticks by which a core's reading of ETIME lies behind the module's (R169, log 81). -/
opaque etimeLag : Nat → Fin 2
/-- Whether a register write that was not waited on is done before a step (R262): for each step and entry. -/
opaque landsNow : Nat → Nat → Bool
/-- A rank that orders the lanes of one instruction (R85): for each use and lane. -/
opaque laneRank : Nat → Nat → Nat
/-- Whether a translation uses a cached entry where the tables now hold another (R23). -/
opaque usesOld : Nat → Bool
/-- Which of the 16 entries of a 64 KiB range translates an access where they differ (R18). -/
opaque c64Pick : Nat → Fin 16
/-- The L2 slice of a line (R33): a hash that the spec does not publish. -/
opaque slice : Nat → Fin 256
/-- The set of a line within its L2 slice (R47): the spec gives no index (log 68). -/
opaque l2Set : Nat → Fin 256
/-- Which line of a full L2 set leaves (R47): the spec gives no rule for L2 victims (R417 names none; log 68). -/
opaque l2Pick : Nat → Nat
/-- The current that a die is projected to draw with a leave request granted, in W (R176): for each use (log 80). -/
opaque projectedDraw : Nat → Nat
/-- The current that a die draws, in W (R168, R401): for each use (log 80). -/
opaque measuredDraw : Nat → Nat
/-- Beyond one, the droop steps that a projected draw needs by which it passes the budget (R176): for each number of W (log 80). -/
opaque excessSteps : Nat → Nat
/-- The upper half of a pad element of 64 bits, which PADV does not give (R203, log 41). -/
opaque freeWord : Nat → BitVec 64
/-- The sign of SINR's zero at a half-integral operand (R304 states it for an integral one only; log 40). -/
opaque halfTurnSign : Nat → Bool
/-- Temperatures and power of a management message (R398). -/
opaque readings : Nat → List Byte
/-- The hash of the signing key that the fuses of the module hold (R399). -/
opaque fusedKeyHash : BitVec 384
/-- The secret that the fuses of the module hold (R399). -/
opaque fusedSecret : BitVec 384
/-- The private identity key that is derived from the fused secret (R399), by a derivation that the spec does not give (log 77). -/
opaque identityKey : BitVec 384 → Nat
/-- The per-signature number of an ECDSA signature (R399): for each use (log 57). -/
opaque signNonce : Nat → Nat
/-- The peer id of this module (R395), which the spec does not say how it learns (log 78). -/
opaque ownPeer : BitVec 16
/-- What a read of a BAR0 register that is written only, or of no register, answers (Table 18-1 gives none; log 78). -/
opaque registerRead : Nat → BitVec 64
/-- The answer to an MCTP control message (R398). -/
opaque mctpAnswer : List Byte → List Byte
/-- The completion of a configuration request once the firmware is ready (R392): the register's value. -/
opaque configRegister : Nat → BitVec 32
/-- What an address of the device-register region reads as from a supervisor context (R33 gives no more; log 16). -/
opaque deviceRead : Nat → Nat → BitVec 8
/-- What a unit reads from host memory, which the module does not hold (log 15). -/
opaque hostByte : Nat → BitVec 8

end Sys2Proof.Config
end

