-- ==== Sys2Proof/Machine/Home.lean ====
section
/-! DEFINITION. The home side of memory: physical regions and homes (01 R33), home slices (02 R47, R48, R59, R63),
the remote-data cache (R49 to R51), path caches (R52), and the answers that a home write gives parked futures. -/

namespace Sys2Proof.Machine

/-- Region of a physical address (Table 1-9). -/
def regionOf (pa : Nat) : Nat := pa / 2 ^ 48

/-- Home die of a physical address (Table 1-9). -/
def homeDie (pa : Nat) : Nat :=
  if regionOf pa = 0 then bitsOf pa 37 3 else if regionOf pa = 1 then bitsOf pa 38 3 else 0

/-- Device memory: the populated parts of the HBM4E and LPDDR-6 regions (Table 1-9). -/
def isDeviceMem (pa : Nat) : Bool :=
  (regionOf pa = 0 ∧ pa < 2 ^ 40) ∨ (regionOf pa = 1 ∧ pa % 2 ^ 48 < 2 ^ 41)

/-- The host region (Table 1-9). -/
def isHostMem (pa : Nat) : Bool := regionOf pa = 2

/-- An operation of a clause is complete: the clause no longer waits for it (R261). -/
def State.opDone (s : State) (gid role op : Nat) : State :=
  s.modTeam gid role fun t => { t with outst := t.outst.map fun o => { o with ops := tdel o.ops op } }

/-- A counter of the contention predictor changed by one step, saturating (Table 2-5). -/
def State.predict (s : State) (core line : Nat) (up : Bool) : State :=
  s.modCore core fun c =>
    let v := (tget c.pred (line % 512)).getD 0
    { c with pred := tset c.pred (line % 512) (if up then min 3 (v + 1) else v - 1) }

/-- Rank of a scope (R43): team 0, group 1, cell 2, die 3, module 4, system 5. A programmable entry ranks by its
bitmap together with the issuing core. -/
def scopeRank (x : Ctx) (core e : Nat) : Nat :=
  if e < 6 then e else
  let m := (tget x.scopes e).getD 0
  let inRange (lo n : Nat) : Bool := m &&& ~~~ maskBits 4096 lo n = 0
  if inRange core 1 then 1
  else if inRange (core / 16 * 16) 16 then 2
  else if inRange (core / 512 * 512) 512 then 3
  else 4

/-- Who writes at a home slice: a core, a unit of a die, or an agent outside the dies. -/
inductive Agent where
  | core (n : Nat)
  | die (n : Nat)
  | outside
  deriving DecidableEq, Repr

/-- The die through whose RDC a write passes (R50). -/
def Agent.dieOf : Agent → Option Nat
  | .core n => some (Machine.dieOf n)
  | .die n => some n
  | .outside => none

/-- The cores whose releases wait for the invalidations of a write (R44). -/
def Agent.cores : Agent → List Nat
  | .core n => [n]
  | _ => []

/-- A core whose later release at module rank must make visible what it has read of a line: pending invalidations of the
line count it from now on (Causality, R83; log 67). -/
def State.seen (s : State) (core line : Nat) : State :=
  { s with rdcInv := s.rdcInv.map fun e => if e.line = line then { e with cores := core :: e.cores.filter (· ≠ core) } else e }

/-- An acquire at a rank on a core (R45): at cell rank and wider clean lines are dropped and bytes that are not
dirty become invalid. A line under atomic ownership holds the newest bytes and stays. Every pending invalidation counts the
core from now on (log 67). -/
def State.acquire (s : State) (core rank : Nat) : State :=
  if rank < 2 then s else
  let s : State := { s with rdcInv := s.rdcInv.map fun e => { e with cores := core :: e.cores.filter (· ≠ core) } }
  s.modCore core fun c => { c with l1 :=
    (c.l1.filter fun l => l.dirty ≠ 0 || l.owned).map fun l => if l.owned then l else { l with valid := 0 } }

/-- An RDC copy leaves its die (R48): a pending invalidation is delivered, and a fill in flight for the line is discarded
when it arrives (R51). -/
def State.dropRdc (s : State) (die line : Nat) : State :=
  let spoil (f : RdcFill) : RdcFill := if f.die = die ∧ f.line.line = line then { f with spoilt := true } else f
  { (s.modDie die fun d => { d with rdc := d.rdc.filter fun l => l.line ≠ line }) with
    rdcInv := s.rdcInv.filter fun e => ¬ (e.die = die ∧ e.line = line)
    rdcFill := s.rdcFill.map spoil }

/-- The pending invalidations that a test selects are delivered and acknowledged. -/
def State.deliverIf (s : State) (sel : RdcInv → Bool) : State :=
  (s.rdcInv.filter sel).foldl (fun s e => s.dropRdc e.die e.line) s

/-- Every invalidation sent so far is delivered and acknowledged: a release at module or system scope by a unit, or a full
fence (R77, R82). -/
def State.deliverInv (s : State) : State := s.deliverIf fun _ => true

/-- A core has seen the value that a line's home holds now (an LDF, a far atomic, an uncached read): no older copy of the line
may be read by it later (Coherence, R83). A pending invalidation of its die is delivered, a fill in flight is discarded, and
the bytes of its L1 copy that are not dirty become invalid. -/
def State.seeHome (s : State) (core line : Nat) : State :=
  let die := dieOf core
  let s := s.seen core line
  let s := if s.rdcInv.any (fun e => e.die = die && e.line = line) || s.rdcFill.any (fun f => f.die = die && f.line.line = line)
    then s.dropRdc die line else s
  if (s.core core).l1.any (fun l => l.line = line && ¬ l.owned) then
    s.modCore core fun c => { c with l1 :=
      (c.l1.filter fun l => l.line ≠ line || l.dirty ≠ 0 || l.owned).map fun l =>
        if l.line = line ∧ ¬ l.owned then { l with valid := 0 } else l }
  else s

/-- Decide the lanes of one LDF request (R125, R339): the pair and the status predicate are written; when the last
request of the LDF is decided FUTSTAT takes its code (R64), the acquire acts on the core where the group now runs (R74), and
the clause no longer waits. -/
def State.decideLdf (s : State) (e : Defer) (value : Dbl) (ok : Bool) (code : BitVec 2) : State :=
  match tget s.ldfs e.ldf with
  | none => s
  | some l =>
    let s := if ok then s.seeHome e.core (e.cell / 16) else s
    let ls := (bitList e.lanes 32).map fun i => 32 * e.word + i
    let s := s.landV e.path l.clause e.dst (ls.map fun i => (i, value.extractLsb' 0 32))
    let s := s.landV e.path l.clause (e.dst + 1) (ls.map fun i => (i, value.extractLsb' 32 32))
    let s := s.landP e.path l.clause e.status (ls.map fun i => (i, ok))
    let code := l.code ||| code
    if l.left ≤ 1 then
      let s := { s with ldfs := tdel s.ldfs e.ldf }
      let s := if code = 0 then s else s.modPath e.path fun p => { p with futstat := code.setWidth 32 }
      let s := match l.acq, tget s.ctxs e.asid with
        | some scope, some x => s.acquire e.core (scopeRank x e.core scope)
        | _, _ => s
      s.opDone e.path.gid e.path.role e.ldf
    else { s with ldfs := tset s.ldfs e.ldf { l with code := code, left := l.left - 1 } }

/-- Answer every parked request of a cell that now holds a value other than zero (R63). -/
def State.answerCell (s : State) (cell : Nat) : State :=
  let v := memNat s.mem (8 * cell) 8
  if v = 0 then s else
  let es := s.defer.filter fun e => e.cell = cell
  es.foldl (fun s e => s.decideLdf e (BitVec.ofNat 64 v) true 0)
    { s with defer := s.defer.filter fun e => e.cell ≠ cell }

/-- The dies other than the writer's that a line was sent to take an invalidation (R48), which each delivers later. -/
def State.invalidate (s : State) (line : Nat) (a : Agent) : State :=
  match tget s.l2 line with
  | none => s
  | some d =>
    let hit := (List.range 8).filter fun i => d.sent.getLsbD i && a.dieOf ≠ some i
    let keep : BitVec 8 := match a.dieOf with | none => 0 | some w => d.sent &&& (1#8 <<< w)
    { s with
      l2 := tset s.l2 line { d with sent := keep }
      rdcInv := s.rdcInv ++ hit.map fun i => { die := i, line := line, cores := a.cores } }

/-- A line's bytes with listed bytes replaced, by offset. -/
def patchLine (d : BitVec 1024) (bs : List (Nat × Byte)) : BitVec 1024 := bs.foldl (fun d e => setByte d e.1 e.2) d

/-- The offsets of listed bytes, as a mask. -/
def offsetMask (bs : List (Nat × Byte)) : BitVec 128 := bs.foldl (fun m e => m ||| (1#128 <<< e.1)) 0

/-- A cached line with listed bytes written: their poison is gone. -/
def CLine.patch (l : CLine) (bs : List (Nat × Byte)) : CLine :=
  { l with data := patchLine l.data bs, poison := l.poison &&& ~~~ offsetMask bs }

/-- Bytes of one line, by offset, put into memory in one step with all that a write by an agent does (R47, R48, R50, R63):
poison of those bytes is gone, copies are invalidated, the RDC that the write passes takes the bytes, in its line and in a
fill on its way to it, a line that the L2 holds is dirty, parked futures are answered. -/
def State.writeLine (s : State) (a : Agent) (line : Nat) (bs : List (Nat × Byte)) : State :=
  if bs.isEmpty then s else
  let hit (a : Nat) : Bool := bs.any fun e => 128 * line + e.1 = a
  let s : State := { s with
    mem := bs.foldl (fun m e => memSet m (128 * line + e.1) e.2) s.mem
    poison := s.poison.filter fun a => ¬ hit a
    l2 := tmod s.l2 line fun d => { d with dirty := d.present } }
  let s := s.invalidate line a
  let s := match a.dieOf with
    | none => s
    | some d =>
      let flight (f : RdcFill) : RdcFill := if f.die = d ∧ f.line.line = line then { f with line := f.line.patch bs } else f
      let put (l : CLine) : CLine := if l.line = line then l.patch bs else l
      let s : State := { s with rdcFill := s.rdcFill.map flight }
      if (s.die d).rdc.any (fun l => l.line = line) then s.modDie d fun e => { e with rdc := e.rdc.map put } else s
  if s.defer.isEmpty then s else
  ((bs.map fun e => (128 * line + e.1) / 8).dedup).foldl (fun s c => s.answerCell c) s

/-- Bytes of a line that a mask selects, by offset. -/
def maskBytes (mask : BitVec 128) (data : BitVec 1024) : List (Nat × Byte) :=
  (bitList mask 128).map fun i => (i, getByte data i)

/-- Bytes of a line that a mask selects are poisoned at their home (R68). -/
def State.poisonMask (s : State) (line : Nat) (mask : BitVec 128) : State :=
  if mask = 0 then s else { s with poison := s.poison ++ (bitList mask 128).map fun i => 128 * line + i }

/-- The atomically modified bytes of a line that a core owns are returned to the home slice (R59); poison travels with them
(R68). -/
def State.flushAmod (s : State) (core line : Nat) : State :=
  match (s.core core).l1.find? fun l => l.line = line with
  | none => s
  | some l =>
    let clear (k : Line) : Line := if k.line = line then { k with amod := 0, poison := k.poison &&& ~~~ l.amod } else k
    let s := s.modCore core fun c => { c with l1 := c.l1.map clear }
    (s.writeLine (.core core) line (maskBytes l.amod l.data)).poisonMask line (l.amod &&& l.poison)

/-- A line's bytes that are not dirty become invalid, and the line leaves where it holds no dirty byte. -/
def Core.disown (c : Core) (line : Nat) : Core :=
  let lose (k : Line) : Line := if k.line = line then { k with owned := false, valid := 0 } else k
  { c with l1 := (c.l1.map lose).filter fun k => k.line ≠ line || k.dirty ≠ 0 }

/-- End the ownership of a line, its atomically modified bytes returned to the home slice (R59). The owner's plain
dirty bytes stay; its other bytes of the line become invalid, so that no later load of it finds a value older than the request
that recalls it leaves (DEDUCED, log 82); its contention counter rises (Table 2-5). -/
def State.recall (s : State) (line : Nat) : State :=
  match (s.dir line).owner with
  | none => s
  | some c =>
    let s := (s.flushAmod c line).predict c line true
    (s.modDir line fun d => { d with owner := none }).modCore c fun k => k.disown line

/-- Whether two lines lie in one set of one L2 slice (R33, R47): the slice by its hash, the set by a free value, since the
spec gives neither (log 68). -/
def sameL2Set (a b : Nat) : Bool :=
  homeDie (128 * a) = homeDie (128 * b) && Config.slice a = Config.slice b && Config.l2Set a = Config.l2Set b

/-- A line leaves the L2 (R47, R48): an owner is recalled, RDC copies are invalidated first and acknowledge. -/
def State.l2Drop (s : State) (line : Nat) : State :=
  let s := s.recall line
  let s := (bitList (s.dir line).sent 8).foldl (fun s d => s.dropRdc d line) s
  s.modDir line fun d => { d with present := false, dirty := false, low := false, sent := 0 }

/-- The line that leaves a full set: one of lowest retention where there is one (R35); which of several the spec does not
state, a free value (log 68). -/
def l2Victim (free : Nat) (set : List (Nat × Dir)) : Option Nat :=
  let low := set.filter fun e => e.2.low
  let of := if low.isEmpty then set else low
  (of[Config.l2Pick free % of.length]?).map Prod.fst

/-- A request performed at a home slice allocates its line in the L2 (R47): in a full set of 16 ways another line leaves
first. -/
def State.l2Use (s : State) (line : Nat) (low : Bool) : State :=
  if (s.dir line).present then s else
  let near := s.l2.filter fun e => e.2.present && homeDie (128 * e.1) = homeDie (128 * line)
  let s := if near.length < 16 then s else
    let set := near.filter fun e => sameL2Set e.1 line
    if set.length < 16 then s else
      let s' : State := { s with free := s.free + 1 }
      match l2Victim s.free set with
      | none => s'
      | some v => s'.l2Drop v
  s.modDir line fun d => { d with present := true, dirty := false, low := low }

/-- Bytes written at the home slice of one line, an owner recalled first (R47, R59); the L2 allocates the line unless the
page is uncached (R35). -/
def State.homeWriteIn (s : State) (a : Agent) (keep low : Bool) (pa : Nat) (bs : List Byte) : State :=
  let s := s.recall (pa / 128)
  let s := if keep then s.l2Use (pa / 128) low else s
  s.writeLine a (pa / 128) (((List.range bs.length).zip bs).map fun e => (pa % 128 + e.1, e.2))

/-- Bytes from an address cut at the ends of lines. -/
def cutLines (pa : Nat) (bs : List Byte) : List (Nat × List Byte) :=
  let lines := ((List.range bs.length).map fun i => (pa + i) / 128).dedup
  lines.map fun l => (max pa (128 * l), (bs.drop (max pa (128 * l) - pa)).take (128 * (l + 1) - max pa (128 * l)))

/-- A write by an agent, performed at home slices; the host region is written over PCIe (R35), and a write of the
device-register region has no effect that the spec states (log 16). -/
def State.homePut (s : State) (a : Agent) (keep low : Bool) (pa : Nat) (bs : List Byte) : State :=
  if isDeviceMem pa then (cutLines pa bs).foldl (fun s e => s.homeWriteIn a keep low e.1 e.2) s
  else if isHostMem pa then { s with out := s.out ++ [.hostWrite pa bs] }
  else s

/-- A write by an agent that allocates in the L2. -/
def State.homeWrite (s : State) (a : Agent) (pa : Nat) (bs : List Byte) : State := s.homePut a true false pa bs

/-- Dirty bytes of a line written at its home slice by byte mask (R42, R46), with the retention of its page (R35). -/
def State.homeWriteMask (s : State) (a : Agent) (line : Nat) (mask : BitVec 128) (data : BitVec 1024) (low : Bool) : State :=
  ((s.recall line).l2Use line low).writeLine a line (maskBytes mask data)

/-- The parts of at most 8 bytes of a read of host memory. -/
def hostParts (pa n : Nat) : List (Nat × Nat) := (List.range ((n + 7) / 8)).map fun i => (pa + 8 * i, min 8 (n - 8 * i))

/-- Bytes of host memory that a unit reads (R35): where they have come for its step, they are given; else they are noted as wanted, and
the step does not take place yet. Where the reader is no step of a unit they are free (log 15). -/
def State.hostGet (s : State) (pa n : Nat) : State × List Byte :=
  let free : List Byte := (List.range n).map fun i => Config.hostByte (s.free + i)
  match s.asker with
  | none => ({ s with free := s.free + n, fresh := s.fresh + 1, out := s.out ++ [.hostRead s.fresh pa n] }, free)
  | some w =>
    let got (k : Nat × Nat) : Option (List Byte) := (s.unitData.find? fun e => e.who = w && e.pa = k.1).map UnitData.bytes
    let ks := hostParts pa n
    if ks.all fun k => (got k).isSome then (s, ks.flatMap fun k => (got k).getD [])
    else ({ s with wanted := s.wanted ++ ks.filter fun k => (got k).isNone }, free)

/-- Bytes read at home slices, owned lines recalled first (R59); the L2 allocates their lines unless the page is uncached.
Host memory is as the host gives (R35); the device-register region is a free value (log 16). -/
def State.homeGet (s : State) (keep low : Bool) (pa n : Nat) : State × List Byte :=
  if isDeviceMem pa then
    let s := (((List.range n).map fun i => (pa + i) / 128).dedup).foldl
      (fun s l => let s := s.recall l; if keep then s.l2Use l low else s) s
    (s, memBytes s.mem pa n)
  else if isHostMem pa then
    s.hostGet pa n
  else ({ s with free := s.free + 1 }, (List.range n).map fun i => Config.deviceRead s.free (pa + i))

/-- Bytes read at home slices, which allocate them. -/
def State.homeRead (s : State) (pa n : Nat) : State × List Byte := s.homeGet true false pa n

/-- A little-endian number read at home slices. -/
def State.homeNat (s : State) (pa n : Nat) : State × Nat := let r := s.homeRead pa n; (r.1, natLE r.2)

/-- The line of the core that owns a line, where one does. -/
def State.ownerLine (s : State) (line : Nat) : Option Line :=
  match (s.dir line).owner with
  | none => none
  | some c => (s.core c).l1.find? fun l => l.line = line

/-- Whether a byte that is read at its home is poisoned (R68): an owner returns the bytes it has modified, and their poison,
before the read (R59). -/
def State.homeBad (s : State) (a : Nat) : Bool :=
  match s.ownerLine (a / 128) with
  | none => s.poison.contains a
  | some l => if l.amod.getLsbD (a % 128) then l.poison.getLsbD (a % 128) else s.poison.contains a

/-- Whether a byte range holds data that is poisoned for a read at its home (R68). -/
def State.poisonedHome (s : State) (pa n : Nat) : Bool := (List.range n).any fun i => s.homeBad (pa + i)

/-- The bytes of a sector of a line that are poisoned at their home, in the line's mask. -/
def State.homePoison (s : State) (line i : Nat) : BitVec 128 :=
  if s.poison.isEmpty then 0 else
  (List.range 32).foldl (fun m k => if s.poison.contains (128 * line + 32 * i + k) then m ||| (1#128 <<< (32 * i + k)) else m) 0

/-- The set of a cache in which a line lies: the spec gives sets and ways and not which address bits select the set; the model
takes the line number modulo the number of sets (DESIGN CHOICE, log 69). -/
def cacheSet (sets line : Nat) : Nat := line % sets

/-- A cache with a line entered: the line's older copy leaves, and in a full set the least recently used line
(R417); a line of lowest retention enters last (R35). -/
def cachePut (sets ways : Nat) (c : List CLine) (l : CLine) (low : Bool) : List CLine :=
  let c := c.filter fun k => k.line ≠ l.line
  let inSet := c.filter fun k => cacheSet sets k.line = cacheSet sets l.line
  let c := if inSet.length < ways then c else
    match inSet.getLast? with
    | none => c
    | some v => c.filter fun k => k.line ≠ v.line
  if low then c ++ [l] else l :: c

/-- The 32-byte sectors of a line that n bytes from an offset touch. -/
def sectorsOf (off n : Nat) : BitVec 4 :=
  (List.range n).foldl (fun m i => m ||| (1#4 <<< ((off + i) / 32))) 0

/-- A cached line with the sectors of a mask read at its home (R49), with their poison (R68). -/
def State.fillSectors (s : State) (need : BitVec 4) (low : Bool) (l : CLine) : State × CLine :=
  (bitList need 4).foldl (fun e i =>
    let r := e.1.homeGet true low (128 * l.line + 32 * i) 32
    (r.1, { e.2 with
      valid := e.2.valid ||| (1#4 <<< i)
      data := setBytes e.2.data (32 * i) r.2
      poison := (e.2.poison &&& ~~~ maskBits 128 (32 * i) 32) ||| r.1.homePoison l.line i })) (s, l)

/-- A line not yet in a cache. -/
def CLine.fresh (line asid : Nat) : CLine := { line := line, asid := asid, valid := 0, data := 0, poison := 0 }

/-- Bytes of one line read by a core beyond its own caches: at the home slice when the line is homed on the core's die or does
not allocate, else through the die's RDC, which fills (R49); a fill already in flight for the line is overtaken (R51). -/
def State.dieRead (s : State) (core pa n : Nat) (alloc low : Bool) : State × List Byte :=
  let line := pa / 128
  let die := dieOf core
  if homeDie pa = die ∨ ¬ isDeviceMem pa then (s.seen core line).homeGet true low pa n
  else if ¬ alloc then (s.seeHome core line).homeGet true low pa n
  else
    let held (s : State) : CLine := ((s.die die).rdc.find? fun l => l.line = line).getD (CLine.fresh line 0)
    let miss := sectorsOf (pa % 128) n &&& ~~~ (held s).valid
    let s := (if miss = 0 then s else s.recall line).seen core line
    let f := s.fillSectors miss low (held s)
    let s := f.1.modDie die fun d => { d with rdc := cachePut 16384 16 d.rdc f.2 low }
    let s := if miss = 0 then s else
      let spoil (f : RdcFill) : RdcFill := if f.die = die ∧ f.line.line = line then { f with spoilt := true } else f
      { (s.modDir line fun d => { d with sent := d.sent ||| (1#8 <<< die) }) with rdcFill := s.rdcFill.map spoil }
    (s, getBytes f.2.data (pa % 128) n)

/-- Whether bytes of one line that a core would read beyond its own caches are poisoned: in the copy that its die's RDC holds,
else at the home (R68). -/
def State.poisonedDie (s : State) (core pa n : Nat) (alloc : Bool) : Bool :=
  let copy := if homeDie pa = dieOf core ∨ ¬ alloc then none else (s.die (dieOf core)).rdc.find? fun l => l.line = pa / 128
  match copy with
  | none => s.poisonedHome pa n
  | some l => (List.range n).any fun i =>
      if l.valid.getLsbD ((pa % 128 + i) / 32) then l.poison.getLsbD (pa % 128 + i) else s.homeBad (pa + i)

/-- The poisoned bytes of a sector that a core reads so, in the line's mask. -/
def State.sectorPoison (s : State) (core line i : Nat) (alloc : Bool) : BitVec 128 :=
  if s.poisonedDie core (128 * line + 32 * i) 32 alloc then
    (List.range 32).foldl (fun m k =>
      if s.poisonedDie core (128 * line + 32 * i + k) 1 alloc then m ||| (1#128 <<< (32 * i + k)) else m) 0
  else 0

end Sys2Proof.Machine
end

