-- ==== Sys2Proof/Machine/L1.lean ====
section
/-! DEFINITION. The core's side of memory: the L1 as a scoped write-back cache (02 R39 to R46, R417), scopes and their
ranks (03 R75, R76, 02 R43), releases and acquires (R44, R45), and reads over the path caches (R52). -/

namespace Sys2Proof.Machine

/-- Whether a scope issued on a core covers another core (Table 3-1). -/
def scopeCovers (x : Ctx) (core e target : Nat) : Bool :=
  if e ≤ 1 then target = core
  else if e = 2 then cellOf target = cellOf core
  else if e = 3 then dieOf target = dieOf core
  else if e ≤ 5 then true
  else target = core || ((tget x.scopes e).getD 0).getLsbD target

/-- The L1 ways of a core that no resident group's scratchpad holds (R39). -/
def State.l1Ways (s : State) (core : Nat) : List Nat :=
  let used := (s.groups.filter fun g => g.2.core = core).flatMap fun g => g.2.ways
  (List.range 24).filter fun w => ¬ used.contains w

/-- A line of a core's L1. -/
def State.l1Find (s : State) (core line : Nat) : Option Line := (s.core core).l1.find? fun l => l.line = line

/-- A core's L1 with a line changed in place. -/
def State.l1Mod (s : State) (core line : Nat) (f : Line → Line) : State :=
  s.modCore core fun c => { c with l1 := c.l1.map fun l => if l.line = line then f l else l }

/-- Sectors of which every byte is valid or in a mask. -/
def coveredSectors (l : Line) : BitVec 4 :=
  (List.range 4).foldl (fun m i =>
    if l.valid.getLsbD i || l.dirty &&& maskBits 128 (32 * i) 32 = maskBits 128 (32 * i) 32 then m ||| (1#4 <<< i) else m) 0

/-- A line's dirty bytes written back by byte mask, and left clean (R42, R46); poison travels with them (R68). -/
def State.writeBack (s : State) (core line : Nat) : State :=
  match s.l1Find core line with
  | none => s
  | some l =>
    if l.dirty = 0 then s else
    let s := (s.homeWriteMask (.core core) line l.dirty l.data l.low).poisonMask line (l.dirty &&& l.poison)
    s.l1Mod core line fun k => { k with valid := coveredSectors k, dirty := 0 }

/-- A line leaves the L1: dirty bytes and an ownership go home (R46, R59). What a core's own eviction of an owned line does the
spec does not say; the model ends the ownership as a recall does, with its count in the contention predictor (DESIGN CHOICE,
log 69). -/
def State.l1Evict (s : State) (core line : Nat) : State :=
  let s := s.writeBack core line
  let s := if (s.dir line).owner = some core then s.recall line else s
  s.modCore core fun c => { c with l1 := c.l1.filter fun l => l.line ≠ line }

/-- A line entered into the L1: an invalid way of its set, else the way of the least recently used line (R417); a line of lowest
retention enters last (R35). Which of several invalid ways it takes the spec does not say: the lowest (DESIGN CHOICE, log 69). -/
def State.l1Enter (s : State) (core : Nat) (l : Line) : State :=
  let inSet := (s.core core).l1.filter fun k => cacheSet 64 k.line = cacheSet 64 l.line && k.line ≠ l.line
  let old := (s.l1Find core l.line).map Line.way
  let free := (s.l1Ways core).find? fun w => ¬ inSet.any fun k => k.way = w
  let pick : State × Option Nat := match old with
    | some w => (s, some w)
    | none => match free with
      | some w => (s, some w)
      | none => match inSet.getLast? with
        | none => (s, none)
        | some v => (s.l1Evict core v.line, some v.way)
  match pick.2 with
  | none => pick.1
  | some w => pick.1.modCore core fun c =>
      let rest := c.l1.filter fun k => k.line ≠ l.line
      { c with l1 := if l.low then rest ++ [{ l with way := w }] else { l with way := w } :: rest }

/-- A line not yet present. -/
def Line.fresh (line : Nat) : Line :=
  { line := line, way := 0, valid := 0, dirty := 0, group := false, data := 0, owned := false, amod := 0, poison := 0
    wrote := [], low := false }

/-- Fetched bytes merged under a line's dirty bytes (R42). -/
def mergeUnder (l : Line) (off : Nat) (bs : List Byte) : BitVec 1024 :=
  (List.range bs.length).foldl (fun d i => if l.dirty.getLsbD (off + i) then d else setByte d (off + i) ((bs[i]?).getD 0))
    l.data

/-- The sectors of a line that an access needs and the line does not hold (R42). -/
def missingSectors (l : Line) (off n : Nat) : BitVec 4 :=
  (List.range n).foldl (fun m i =>
    if l.valid.getLsbD ((off + i) / 32) || l.dirty.getLsbD (off + i) then m else m ||| (1#4 <<< ((off + i) / 32))) 0

/-- Bytes within one line loaded over the ordinary path (R42, R52); a fill brings the poison of its bytes (R68), and ends an
ownership of the core's own, as every read of an owned line at its home does (R59). -/
def State.l1Load (s : State) (core pa n : Nat) (a : Attr) : State × List Byte :=
  let line := pa / 128
  if a.uncached then (s.seeHome core line).homeGet false false pa n else
  let held (s : State) : Line := (s.l1Find core line).getD (Line.fresh line)
  let s := if missingSectors (held s) (pa % 128) n ≠ 0 ∧ (s.dir line).owner = some core then s.recall line else s
  let l := { held s with low := a.low }
  let f := (bitList (missingSectors l (pa % 128) n) 4).foldl (fun (e : State × Line) i =>
    let r := e.1.dieRead core (128 * line + 32 * i) 32 (¬ a.nrd) a.low
    let bad := r.1.sectorPoison core line i (¬ a.nrd) &&& ~~~ e.2.dirty
    (r.1, { e.2 with
      valid := e.2.valid ||| (1#4 <<< i), data := mergeUnder e.2 (32 * i) r.2
      poison := (e.2.poison &&& ~~~ (maskBits 128 (32 * i) 32 &&& ~~~ e.2.dirty)) ||| bad })) (s, l)
  (f.1.l1Enter core f.2, getBytes f.2.data (pa % 128) n)

/-- Bytes within one line loaded with acquire at cell rank or wider: from the RDC or the home slice, with the
core's dirty bytes, and the bytes it modified atomically, merged over them (R46, R59). -/
def State.l1LoadAcq (s : State) (core pa n : Nat) (a : Attr) : State × List Byte :=
  if a.uncached then (s.seeHome core (pa / 128)).homeGet false false pa n else
  let r := s.dieRead core pa n (¬ a.nrd) a.low
  match s.l1Find core (pa / 128) with
  | none => r
  | some l => (r.1, (List.range n).map fun i =>
      if l.dirty.getLsbD (pa % 128 + i) || l.amod.getLsbD (pa % 128 + i) then getByte l.data (pa % 128 + i) else (r.2[i]?).getD 0)

/-- Bytes within one line stored into the L1 and marked dirty at team or group rank (Table 2-1);
atomically modified bytes among them are returned home first (R59). -/
def State.l1StoreNarrow (s : State) (core pa : Nat) (bs : List Byte) (rank : Nat) (a : Attr) : State :=
  let line := pa / 128
  let m : BitVec 128 := maskBits 128 (pa % 128) bs.length
  let hit : Bool := match s.l1Find core line with | none => false | some l => l.amod &&& m ≠ 0
  let s := if hit then s.flushAmod core line else s
  let l := (s.l1Find core line).getD (Line.fresh line)
  s.l1Enter core { l with
    data := setBytes l.data (pa % 128) bs, dirty := l.dirty ||| m, group := rank = 1, poison := l.poison &&& ~~~ m, low := a.low }

/-- Bytes within one line written through to the home slice; a present line is updated and the bytes are left clean
(Table 2-1); it keeps its place in the order of use, of which the spec says nothing here (DESIGN CHOICE, log 69). An uncached or
host page keeps no copy. -/
def State.storeThrough (s : State) (core pa : Nat) (bs : List Byte) (a : Attr) : State :=
  let line := pa / 128
  let m : BitVec 128 := maskBits 128 (pa % 128) bs.length
  let s := if a.uncached then s.l1Evict core line else
    s.l1Mod core line fun l => { l with
      data := setBytes l.data (pa % 128) bs
      dirty := l.dirty &&& ~~~ m
      poison := l.poison &&& ~~~ m }
  s.homePut (.core core) (¬ a.uncached) a.low pa bs

/-- A store under Table 2-1. -/
def State.store (s : State) (core pa : Nat) (bs : List Byte) (rank : Nat) (through : Bool) (a : Attr) : State :=
  if a.uncached ∨ through ∨ 2 ≤ rank then s.storeThrough core pa bs a else s.l1StoreNarrow core pa bs rank a

/-- The bytes of a mask count as left dirty by a group, and by no other (R206, R379). -/
def Line.writtenBy (l : Line) (gid : Nat) (m : BitVec 128) : Line :=
  let others := tmap l.wrote fun _ w => w &&& ~~~ m
  { l with wrote := tset others gid ((tget others gid).getD 0 ||| m) }

/-- A store of a group under Table 2-1: what it leaves dirty is the group's. -/
def State.storeOf (s : State) (gid core pa : Nat) (bs : List Byte) (rank : Nat) (through : Bool) (a : Attr) : State :=
  let s := s.store core pa bs rank through a
  if a.uncached ∨ through ∨ 2 ≤ rank then s
  else s.l1Mod core (pa / 128) fun l => l.writtenBy gid (maskBits 128 (pa % 128) bs.length)

/-- A line without the bytes that the stores of some groups left dirty in it (R206, R379: a write not yet performed is never
performed): its sectors that held some are no longer valid. -/
def Line.without (l : Line) (gids : List Nat) : Line :=
  let m := (l.wrote.filter fun e => gids.contains e.1).foldl (fun m e => m ||| e.2) 0 &&& l.dirty
  let keep := (List.range 4).foldl (fun v i => if m &&& maskBits 128 (32 * i) 32 = 0 then v ||| (1#4 <<< i) else v) 0
  { l with dirty := l.dirty &&& ~~~ m, valid := l.valid &&& keep, wrote := l.wrote.filter fun e => ¬ gids.contains e.1 }

/-- A core's L1 without what the stores of some groups left dirty in it. -/
def Core.dropDirty (c : Core) (gids : List Nat) : Core :=
  { c with l1 := (c.l1.map fun l => l.without gids).filter fun l => l.dirty ≠ 0 || l.valid ≠ 0 || l.owned }

/-- A release at a rank on a core (R44, Table 2-2): lines whose tag ranks below are written back; at module rank and
wider the RDC invalidations that the core answers for are acknowledged: those that its writes caused, and those of writes that
are before its release through what it has read or acquired (R83, log 67). -/
def State.release (s : State) (core rank : Nat) : State :=
  let ls := ((s.core core).l1.filter fun l => l.dirty ≠ 0 && (if l.group then 1 < rank else 0 < rank)).map Line.line
  let s := ls.foldl (fun s l => s.writeBack core l) s
  if 4 ≤ rank then s.deliverIf fun e => e.cores.contains core else s

/-- A full fence at a rank on a core (R82): a release, then an acquire. At module rank and wider every pending RDC invalidation
is delivered, since all full fences lie in one order and what is before the first is before the second. -/
def State.fullFence (s : State) (core rank : Nat) : State :=
  let s := s.release core rank
  (if 4 ≤ rank then s.deliverInv else s).acquire core rank

/-- A core's cache of a read path. -/
def Core.pathCache (c : Core) : PathKind → List CLine
  | .constant => c.constC
  | .sampler => c.smpC
  | .tile => c.tileC
  | .instr => c.instC

/-- A core with the cache of a read path replaced. -/
def Core.setPath (c : Core) (k : PathKind) (l : List CLine) : Core :=
  match k with
  | .constant => { c with constC := l }
  | .sampler => { c with smpC := l }
  | .tile => { c with tileC := l }
  | .instr => { c with instC := l }

/-- Sets and ways of a core's path cache (Table 2-4). -/
def pathShape : PathKind → Nat × Nat
  | .constant => (32, 4)
  | .sampler => (32, 8)
  | .tile => (32, 8)
  | .instr => (64, 4)

/-- One sector of a line read for a core's path cache, in the line's place: over the instruction path from the cell's
instruction cache where it holds it, which counts as a use there (R417); else from the RDC or the home slice. -/
def State.pathSector (s : State) (core : Nat) (k : PathKind) (asid i : Nat) (a : Attr) (l : CLine) : State × CLine :=
  let line := l.line
  let cell := cellOf core
  let held : Option CLine := if k = .instr then (s.cell cell).instC.find? fun c => c.line = line && c.valid.getLsbD i else none
  match held with
  | some c =>
    (s.modCell cell fun u => { u with instC := cachePut 128 16 u.instC c a.low },
      { l with
        valid := l.valid ||| (1#4 <<< i), data := setBytes l.data (32 * i) (getBytes c.data (32 * i) 32)
        poison := (l.poison &&& ~~~ maskBits 128 (32 * i) 32) ||| (c.poison &&& maskBits 128 (32 * i) 32) })
  | none =>
    let r := s.dieRead core (128 * line + 32 * i) 32 (¬ a.nrd) a.low
    let bad := r.1.sectorPoison core line i (¬ a.nrd)
    let put (o : CLine) : CLine := { o with
      valid := o.valid ||| (1#4 <<< i), data := setBytes o.data (32 * i) r.2
      poison := (o.poison &&& ~~~ maskBits 128 (32 * i) 32) ||| bad }
    let s := if k = .instr then r.1.modCell cell fun u =>
        { u with instC := cachePut 128 16 u.instC (put ((u.instC.find? fun c => c.line = line).getD (CLine.fresh line asid))) a.low }
      else r.1
    (s, put l)

/-- Bytes within one line read over a path with a cache of its own (R52, R53): from the cache where it holds them,
else from the cell's instruction cache, the RDC or the home slice, allocating as the page allows. Which ASID a line carries whose sectors
two contexts have filled the spec does not say: that of the context that filled it first (DESIGN CHOICE, log 69). -/
def State.pathRead (s : State) (core : Nat) (k : PathKind) (asid pa n : Nat) (a : Attr) : State × List Byte :=
  if a.uncached then (s.seen core (pa / 128)).homeGet false false pa n else
  let line := pa / 128
  let old := (((s.core core).pathCache k).find? fun l => l.line = line).getD (CLine.fresh line asid)
  let f := (bitList (sectorsOf (pa % 128) n &&& ~~~ old.valid) 4).foldl (fun (e : State × CLine) i =>
    e.1.pathSector core k asid i a e.2) (s, old)
  let shape := pathShape k
  (f.1.modCore core fun c => c.setPath k (cachePut shape.1 shape.2 (c.pathCache k) f.2 a.low), getBytes f.2.data (pa % 128) n)

/-- Whether bytes that a read over a path with a cache of its own would consume are poisoned (R68): in the copy that the read
would take. -/
def State.poisonedPath (s : State) (core : Nat) (k : PathKind) (pa n : Nat) (a : Attr) : Bool :=
  if a.uncached then s.poisonedHome pa n else
  let line := pa / 128
  let mine := ((s.core core).pathCache k).find? fun l => l.line = line
  let cell := if k = .instr then (s.cell (cellOf core)).instC.find? fun l => l.line = line else none
  (List.range n).any fun j =>
    let at_ := pa % 128 + j
    let in_ (l : Option CLine) : Option CLine := match l with
      | none => none
      | some l => if l.valid.getLsbD (at_ / 32) then some l else none
    match in_ mine, in_ cell with
    | some l, _ => l.poison.getLsbD at_
    | none, some l => l.poison.getLsbD at_
    | none, none => s.poisonedDie core (pa + j) 1 (¬ a.nrd)

/-- The entries of a core's path caches, and of its cell's instruction cache, that a context filled leave (Table 2-4, R55,
R206). -/
def State.dropPaths (s : State) (core asid : Nat) : State :=
  let keep (l : List CLine) := l.filter fun e => e.asid ≠ asid
  let s := s.modCell (cellOf core) fun c => { c with instC := keep c.instC }
  s.modCore core fun c => { c with
    constC := keep c.constC
    smpC := keep c.smpC
    tileC := keep c.tileC
    instC := keep c.instC
    descs := c.descs.filter fun d => d.asid ≠ asid }

/-- Whether bytes that an ordinary load would consume are poisoned (R68): in the L1 where it takes them from there, else in the
copy that the fill would take. An acquire load at cell rank or wider takes only dirty and atomically modified bytes from the
L1 (R46). -/
def State.poisonedAt (s : State) (core pa n : Nat) (acq alloc : Bool) : Bool :=
  match s.l1Find core (pa / 128) with
  | none => s.poisonedDie core pa n alloc
  | some l => (List.range n).any fun i =>
      let at_ := pa % 128 + i
      if l.dirty.getLsbD at_ || l.amod.getLsbD at_ || (¬ acq && l.valid.getLsbD (at_ / 32)) then l.poison.getLsbD at_
      else s.poisonedDie core (pa + i) 1 alloc

end Sys2Proof.Machine
end

