-- ==== Sys2Proof/Machine/Mmu.lean ====
section
/-! DEFINITION. Translation (01 R14 to R24): the checks of an address, the four-level walk, the TLBs, permissions,
and the invalidation of translations. -/

namespace Sys2Proof.Machine

/-- A fault code with its detail (Table 1-8). -/
structure Flt where
  cause  : Nat
  detail : Nat
  deriving DecidableEq, Repr

/-- What an access does (Table 1-4). -/
inductive Access where
  | read | write | rmw | fetch
  deriving DecidableEq, Repr

/-- A translation: the physical address, the page size as a power of 2, the leaf (Table 1-3). -/
structure Xlat where
  pa   : Nat
  size : Nat
  leaf : Nat
  deriving DecidableEq, Repr

/-- How accesses through a leaf travel (R35). -/
def Xlat.attr (x : Xlat) : Attr :=
  { uncached := bitsOf x.leaf 10 2 = 1 ∨ ¬ isDeviceMem x.pa, nrd := bitOf x.leaf 9, low := bitsOf x.leaf 10 2 = 2 }

/-- Bytes of a translated page read at home slices by a unit, as the page's memory type has it (R35). -/
def State.pageRead (s : State) (y : Xlat) (off n : Nat) : State × List Byte :=
  s.homeGet (¬ y.attr.uncached) y.attr.low (y.pa + off) n

/-- A little-endian number of a translated page. -/
def State.pageNat (s : State) (y : Xlat) (off n : Nat) : State × Nat := let r := s.pageRead y off n; (r.1, natLE r.2)

/-- Bytes of a translated page written at home slices by an agent, as the page's memory type has it (R35). -/
def State.pageWrite (s : State) (a : Agent) (y : Xlat) (off : Nat) (bs : List Byte) : State :=
  s.homePut a (¬ y.attr.uncached) y.attr.low (y.pa + off) bs

/-- FRAME of an entry: a page or table base. -/
def frameOf (e : Nat) : Nat := bitsOf e 12 40 * 2 ^ 12

/-- The fault of one entry of a walk at a level, or none (R16, R17). -/
def entryFault (level : Nat) (supv : Bool) (e : Nat) : Option Flt :=
  let leaf := bitOf e 2
  let low : Nat := if level = 2 then 30 else if level = 1 then 21 else 12
  if ¬ bitOf e 0 then some { cause := 4, detail := 0 }
  else if bitsOf e 60 4 ≠ 0 ∨ bitOf e 1 ∨ (level = 3 ∧ leaf) ∨ (level = 0 ∧ ¬ leaf) then some { cause := 4, detail := 1 }
  else if leaf then
    if bitsOf e 10 2 = 3 ∨ (bitOf e 8 ∧ level ≠ 0) ∨ frameOf e % 2 ^ low ≠ 0 ∨
        ¬ (isDeviceMem (frameOf e) ∨ isHostMem (frameOf e) ∨ (supv ∧ regionOf (frameOf e) = 15))
    then some { cause := 4, detail := 1 } else none
  else if ¬ isDeviceMem (frameOf e) then some { cause := 4, detail := 1 } else none

/-- Page size of a leaf at a level, and its index field (Table 1-2). -/
def levelShift (level : Nat) : Nat := 12 + 9 * level

/-- The translation that a leaf of a level gives (R18 for C64). -/
def leafXlat (level va e : Nat) : Xlat :=
  let size := if level = 0 ∧ bitOf e 8 then 16 else levelShift level
  { pa := frameOf e / 2 ^ size * 2 ^ size + va % 2 ^ size, size := size, leaf := e }

/-- One entry read by the walker at its home slice (R22); where the die's walk cache holds another value, either is
used until an invalidation completes (R23). -/
def State.walkEntry (s : State) (die asid pa : Nat) : State × Nat :=
  let r := s.homeNat pa 8
  match (s.die die).walk.find? fun w => w.pa = pa && w.asid = asid with
  | none => r
  | some w =>
    if w.entry.toNat = r.2 then r
    else ({ r.1 with free := r.1.free + 1 }, if Config.usesOld r.1.free then w.entry.toNat else r.2)

/-- A level-0 entry: where the 16 entries of a 64 KiB range that has C64 differ, any one of them is used (R18). -/
def State.lastEntry (s : State) (die asid base idx : Nat) : State × Nat :=
  let r := s.walkEntry die asid (base + 8 * idx)
  let es := (List.range 16).map fun i => (r.1.homeNat (base + 8 * (idx / 16 * 16 + i)) 8).2
  let same (e : Nat) : Bool := e / 2 ^ 16 * 2 ^ 16 + e % 2 ^ 12 = r.2 / 2 ^ 16 * 2 ^ 16 + r.2 % 2 ^ 12
  if bitOf r.2 8 ∧ ¬ es.all same then
    ({ r.1 with free := r.1.free + 1 }, (es[(Config.c64Pick r.1.free).val]?).getD 0)
  else r

/-- The walk from a table base down some levels (R15 to R18): the translation with the non-leaf entries that it used. -/
def State.walk (s : State) (die asid : Nat) (supv : Bool) (va : Nat) (used : List WalkEntry) :
    Nat → List Nat → State × Except Flt (Xlat × List WalkEntry)
  | _, [] => (s, .error { cause := 4, detail := 1 })
  | base, level :: rest =>
    let idx := bitsOf va (levelShift level) (if level = 3 then 18 else 9)
    let r := if level = 0 then s.lastEntry die asid base idx else s.walkEntry die asid (base + 8 * idx)
    match entryFault level supv r.2 with
    | some f => (r.1, .error f)
    | none =>
      if bitOf r.2 2 then (r.1, .ok (leafXlat level va r.2, used))
      else
        let w : WalkEntry := { asid := asid, pa := base + 8 * idx, entry := BitVec.ofNat 64 r.2 }
        r.1.walk die asid supv va (w :: used) (frameOf r.2) rest

/-- The non-leaf entries of a walk that succeeded enter the die's walk cache of 256 (R22). Which entry a full one gives up the
spec does not say: the model keeps the most recently entered (DESIGN CHOICE, log 69). -/
def State.walkPut (s : State) (die : Nat) (ws : List WalkEntry) : State :=
  if ws.isEmpty then s else
  s.modDie die fun d => { d with walk :=
    (ws ++ d.walk.filter fun k => ¬ ws.any fun w => k.pa = w.pa && k.asid = w.asid).take 256 }

/-- A TLB entry that translates an address for an ASID (R22). -/
def TlbEntry.hits (e : TlbEntry) (asid va : Nat) : Bool :=
  (e.asid = asid || bitOf e.leaf.toNat 7) && e.base / 2 ^ e.size = va / 2 ^ e.size

/-- The translation a TLB entry gives. -/
def TlbEntry.xlat (e : TlbEntry) (va : Nat) : Xlat :=
  { pa := frameOf e.leaf.toNat / 2 ^ e.size * 2 ^ e.size + va % 2 ^ e.size, size := e.size, leaf := e.leaf.toNat }

/-- The set of the cell TLB in which a translation lies: 2,048 entries of 8 ways (Table 1-7). The spec gives no index: the page
number modulo 256 (DESIGN CHOICE, log 69). -/
def TlbEntry.set (e : TlbEntry) : Nat := e.base / 2 ^ e.size % 256

/-- A translation entered into a TLB that keeps n entries for which a test holds. Which entry a full TLB gives up the spec does
not say: the model keeps the most recently entered (DESIGN CHOICE, log 69). -/
def tlbKeep (n : Nat) (same : TlbEntry → Bool) (e : TlbEntry) (l : List TlbEntry) : List TlbEntry :=
  match (l.filter same)[n - 1]? with
  | none => e :: l
  | some old => e :: l.filter fun k => ¬ (k = old)

/-- A translation entered into the core's TLB, of 64 entries, and the cell's, of 256 sets of 8 ways (R22). -/
def State.tlbPut (s : State) (core asid va : Nat) (x : Xlat) : State :=
  let e : TlbEntry := { asid := asid, base := va / 2 ^ x.size * 2 ^ x.size, size := x.size, leaf := BitVec.ofNat 64 x.leaf }
  let rest (l : List TlbEntry) : List TlbEntry := l.filter fun k => ¬ k.hits asid va
  (s.modCore core fun c => { c with tlb := tlbKeep 64 (fun _ => true) e (rest c.tlb) }).modCell (cellOf core) fun c =>
    { c with tlb := tlbKeep 8 (fun k => k.set = e.set) e (rest c.tlb) }

/-- The permission an access needs of a leaf (R19, Table 1-4). -/
def permFault (user : Bool) (acc : Access) (leaf : Nat) : Option Flt :=
  if user ∧ bitOf leaf 6 then some { cause := 5, detail := 3 }
  else match acc with
    | .read => if bitOf leaf 3 then none else some { cause := 5, detail := 1 }
    | .write => if bitOf leaf 4 then none else some { cause := 5, detail := 0 }
    | .rmw => if ¬ bitOf leaf 4 then some { cause := 5, detail := 0 }
        else if bitOf leaf 3 then none else some { cause := 5, detail := 1 }
    | .fetch => if bitOf leaf 5 then none else some { cause := 5, detail := 2 }

/-- The checks of an address's form, made before any walk (R14). -/
def formFault (user : Bool) (va : Nat) : Option Flt :=
  if va / 2 ^ 57 ≠ 0 then some { cause := 4, detail := 2 }
  else if user ∧ bitOf va 56 then some { cause := 5, detail := 4 }
  else none

/-- Translate an address for an access on a core (R14 to R24). A cached entry that the tables no longer hold is used
or not until an invalidation completes (R23); only success is cached (R22): a walk, or a permission check, that fails leaves no
entry in the walk cache or in a TLB. -/
def State.translate (s : State) (core asid : Nat) (x : Ctx) (va : Nat) (acc : Access) : State × Except Flt Xlat :=
  let user := ¬ x.supv
  match formFault user va with
  | some f => (s, .error f)
  | none =>
    let w := s.walk (dieOf core) asid x.supv va [] x.root [3, 2, 1, 0]
    let r : State × Except Flt (Xlat × List WalkEntry) :=
      match ((s.core core).tlb ++ (s.cell (cellOf core)).tlb).find? fun e => e.hits asid va with
      | none => w
      | some e =>
        let fresh : Bool := match w.2 with
          | .ok y => decide (y.1 = e.xlat va)
          | .error _ => false
        if fresh then (s, .ok (e.xlat va, []))
        else if Config.usesOld w.1.free then ({ s with free := w.1.free + 1 }, .ok (e.xlat va, []))
        else ({ w.1 with free := w.1.free + 1 }, w.2)
    match r.2 with
    | .error f => (r.1, .error f)
    | .ok y => match permFault user acc y.1.leaf with
      | some f => (r.1, .error f)
      | none => ((r.1.walkPut (dieOf core) y.2).tlbPut core asid va y.1, .ok y.1)

/-- What an invalidation covers (Table 16-5). -/
inductive InvKind where
  | all
  | asid (n : Nat)
  | page (n va : Nat)
  | gpage (va : Nat)
  deriving DecidableEq, Repr

/-- Whether an invalidation covers a TLB entry; an entry whose leaf has G = 1 is tagged by no ASID (R22), and the address is
compared on bits 56:12 against the entry's page. -/
def InvKind.covers (k : InvKind) (e : TlbEntry) : Bool :=
  let tagged (n : Nat) : Bool := ¬ bitOf e.leaf.toNat 7 && e.asid = n
  let holds (va : Nat) : Bool := e.base / 2 ^ e.size = va % 2 ^ 57 / 2 ^ e.size
  match k with
  | .all => true
  | .asid n => tagged n
  | .page n va => tagged n && holds va
  | .gpage va => bitOf e.leaf.toNat 7 && holds va

/-- Translations invalidated in the core TLBs, cell TLBs and walk caches of every die (R23, Table 16-5). -/
def State.invalidateTlb (s : State) (k : InvKind) : State :=
  let keep (l : List TlbEntry) : List TlbEntry := l.filter fun e => ¬ k.covers e
  let keepW (l : List WalkEntry) : List WalkEntry := match k with
    | .asid n => l.filter fun w => w.asid ≠ n
    | _ => []
  { s with
    cores := tmap s.cores fun _ c => { c with tlb := keep c.tlb }
    cells := tmap s.cells fun _ c => { c with tlb := keep c.tlb }
    dies := tmap s.dies fun _ d => { d with walk := keepW d.walk } }

/-- A translation made by a unit of a die that is no core: an engine, the launch unit, the meridian unit, firmware. -/
def State.unitXlat (s : State) (die asid : Nat) (x : Ctx) (va : Nat) (acc : Access) : State × Except Flt Xlat :=
  let user := ¬ x.supv
  match formFault user va with
  | some f => (s, .error f)
  | none =>
    let w := s.walk die asid x.supv va [] x.root [3, 2, 1, 0]
    match w.2 with
    | .error f => (w.1, .error f)
    | .ok y => match permFault user acc y.1.leaf with
      | some f => (w.1, .error f)
      | none => (w.1.walkPut die y.2, .ok y.1)

/-- A virtual range cut at 4 KiB boundaries: addresses and lengths. -/
def pieces (va n : Nat) : List (Nat × Nat) :=
  if n = 0 then [] else
  (List.range ((n + va - 1) / 4096 - va / 4096 + 1)).map fun i =>
    let lo := max va ((va / 4096 + i) * 4096)
    (lo, min (va + n) ((va / 4096 + i + 1) * 4096) - lo)

/-- Bytes read by a unit at home slices, each page translated; the first failure ends the read. -/
def State.unitRead (s : State) (die asid : Nat) (x : Ctx) (va n : Nat) : State × Except Flt (List Byte) :=
  (pieces va n).foldl (fun e p =>
    match e.2 with
    | .error f => (e.1, .error f)
    | .ok bs =>
      let t := e.1.unitXlat die asid x p.1 .read
      match t.2 with
      | .error f => (t.1, .error f)
      | .ok y => let r := t.1.pageRead y 0 p.2; (r.1, .ok (bs ++ r.2))) (s, .ok [])

/-- A little-endian number read by a unit. -/
def State.unitNat (s : State) (die asid : Nat) (x : Ctx) (va n : Nat) : State × Except Flt Nat :=
  let r := s.unitRead die asid x va n
  (r.1, r.2.map natLE)

/-- Whether every page of a range allows an access by a unit; the first failure is given. -/
def State.unitCheck (s : State) (die asid : Nat) (x : Ctx) (va n : Nat) (acc : Access) : State × Option Flt :=
  (pieces va n).foldl (fun e p =>
    match e.2 with
    | some f => (e.1, some f)
    | none =>
      let t := e.1.unitXlat die asid x p.1 acc
      match t.2 with
      | .error f => (t.1, some f)
      | .ok _ => (t.1, none)) (s, none)

/-- Bytes written by a unit at home slices; a piece whose page fails is not written, and the failure is given. -/
def State.unitWrite (s : State) (die asid : Nat) (x : Ctx) (va : Nat) (bs : List Byte) : State × Option Flt :=
  (pieces va bs.length).foldl (fun e p =>
    let t := e.1.unitXlat die asid x p.1 .write
    match t.2 with
    | .error f => (t.1, some f)
    | .ok y => (t.1.pageWrite (.die die) y 0 ((bs.drop (p.1 - va)).take p.2), e.2)) (s, none)

end Sys2Proof.Machine
end

