-- ==== Sys2Proof/Machine/Spad.lean ====
section
/-! DEFINITION. Scratchpad and the gang window (01 R29, R30), and barrier objects (05 R116 to R122). -/

namespace Sys2Proof.Machine

/-- The member of a gang with a number. -/
def State.memberOf (s : State) (gang m : Nat) : Option Nat :=
  (s.groups.find? fun g => g.2.gang = gang && g.2.member = m).map Prod.fst

/-- Where n bytes at a scratchpad offset lie: the group itself or a member through the gang window, with the offset
there; outside, a protection fault with detail 8 or 5 (R29). -/
def State.spadWhere (s : State) (gid off n : Nat) : Except Flt (Nat × Nat) :=
  match tget s.groups gid with
  | none => .error { cause := 5, detail := 5 }
  | some g =>
    let size := 1024 * g.spadKiB
    if off < 0x100000 then
      if off + n ≤ size then .ok (gid, off) else .error { cause := 5, detail := 5 }
    else
      let m := (off - 0x100000) / 0x40000
      let o := (off - 0x100000) % 0x40000
      match tget s.gangs g.gang with
      | none => .error { cause := 5, detail := 8 }
      | some gang =>
        if gang.size ≤ m then .error { cause := 5, detail := 8 }
        else if size < o + n then .error { cause := 5, detail := 5 }
        else match s.memberOf g.gang m with
          | none => .error { cause := 5, detail := 8 }
          | some k => .ok (k, o)

/-- Bytes of a group's scratchpad. -/
def State.spadBytes (s : State) (gid off n : Nat) : List Byte :=
  match tget s.groups gid with
  | none => memBytes [] off n
  | some g => memBytes g.spad off n

/-- Bytes written into a group's scratchpad; poison of those bytes is gone. -/
def State.spadPut (s : State) (gid off : Nat) (bs : List Byte) : State :=
  s.modGroup gid fun g => { g with
    spad := memPut g.spad off bs
    spadPoison := g.spadPoison.filter fun a => ¬ (off ≤ a ∧ a < off + bs.length) }

/-- Whether scratchpad bytes are poisoned (R68). -/
def State.spadPoisoned (s : State) (gid off n : Nat) : Bool :=
  match tget s.groups gid with
  | none => false
  | some g => g.spadPoison.any fun a => off ≤ a && a < off + n

/-- A barrier object (Table 5-1). -/
structure Bar where
  phase  : Nat
  reload : Nat
  pend   : Nat
  ovf    : Bool
  serr   : Bool
  expect : Nat
  landed : Nat
  deriving DecidableEq, Repr

/-- The object that 128 bits hold. -/
def Bar.ofNat (n : Nat) : Bar :=
  { phase := bitsOf n 0 4, reload := bitsOf n 4 12, pend := bitsOf n 16 12, ovf := bitOf n 28, serr := bitOf n 29,
    expect := bitsOf n 32 32, landed := bitsOf n 64 32 }

/-- The 128 bits of an object. -/
def Bar.toNat (b : Bar) : Nat :=
  b.phase + 2 ^ 4 * b.reload + 2 ^ 16 * b.pend + (if b.ovf then 2 ^ 28 else 0) + (if b.serr then 2 ^ 29 else 0)
    + 2 ^ 32 * b.expect + 2 ^ 64 * b.landed

/-- Initialise (Table 5-2); the count is 1 to 4,095. -/
def Bar.init (n : Nat) : Bar :=
  { phase := 0, reload := n, pend := n, ovf := false, serr := false, expect := 0, landed := 0 }

/-- Expect (Table 5-2). -/
def Bar.expects (b : Bar) (c : Nat) : Bar :=
  if 0xFFFFFFFF < b.expect + c then { b with ovf := true } else { b with expect := b.expect + c }

/-- Arrive (Table 5-2). -/
def Bar.arrive (b : Bar) (a : Nat) : Bar :=
  if b.pend < a then { b with pend := 0, ovf := true } else { b with pend := b.pend - a }

/-- Land (Table 5-2). -/
def Bar.land (b : Bar) (c : Nat) : Bar :=
  if 0xFFFFFFFF < b.landed + c then { b with landed := 0xFFFFFFFF, ovf := true } else { b with landed := b.landed + c }

/-- The completion check that follows every step (R118). -/
def Bar.check (b : Bar) : Bar :=
  if b.ovf || b.serr then b
  else if b.pend ≠ 0 then b
  else if b.landed = b.expect then
    { b with phase := (b.phase + 1) % 16, pend := b.reload, expect := 0, landed := 0 }
  else if b.expect < b.landed then { b with serr := true }
  else b

/-- The fault detail of an object in error (R121): SERR before OVF. -/
def Bar.error (b : Bar) : Option Nat := if b.serr then some 0 else if b.ovf then some 1 else none

/-- The object at an offset of a group's scratchpad. -/
def State.bar (s : State) (gid off : Nat) : Bar := Bar.ofNat (natLE (s.spadBytes gid off 16))

/-- A path asleep on an object wakes (R121 to R123): its BWAIT returns after a phase change, or takes the barrier fault of the
error that a step has left; what happens to the object afterwards changes neither. -/
def Path.wakeOn (gid off : Nat) (err : Option Nat) (p : Path) : Path :=
  if p.status = .asleep gid off then { p with status := .running, wake := some err } else p

/-- The state with every path changed. -/
def State.mapPaths (s : State) (f : Path → Path) : State :=
  { s with groups := tmap s.groups fun _ g =>
      { g with teams := tmap g.teams fun _ t => { t with paths := tmap t.paths fun _ p => f p } } }

/-- One indivisible step on an object with its completion check (R117, R118); sleepers wake when the phase changes
or an error appears (R121, R123). -/
def State.barStep (s : State) (gid off : Nat) (f : Bar → Bar) : State :=
  let b := s.bar gid off
  let b' := (f b).check
  let s := s.spadPut gid off (bytesLE 16 b'.toNat)
  if b'.phase ≠ b.phase then s.mapPaths (Path.wakeOn gid off none)
  else if b'.error ≠ b.error ∧ b'.error.isSome then s.mapPaths (Path.wakeOn gid off b'.error) else s

end Sys2Proof.Machine
end

