-- ==== Sys2Proof/Machine/Rmw.lean ====
section
/-! DEFINITION. Read-modify-writes (15 R336, R337) and where they execute: near, in the L1 that owns the line, far, at the home slice
(02 R57 to R60), or at the core that owns a scratchpad (01 R30). -/

namespace Sys2Proof.Machine

/-- The number of bits of an atomic's type (R336). -/
def atomBits (ty : BitVec 3) : Nat := if ty = 2 ∨ ty = 3 ∨ ty = 5 then 64 else 32

/-- The new value of an atomic, the flags it raises and the saturation it meets (R137, R139, R337). -/
structure AtomRes where
  new   : Nat
  flags : FFlags
  sat   : BitVec 2
  deriving DecidableEq, Repr

/-- A float operation of an atomic on the formats of its type (R137). -/
def atomFloat (ty : BitVec 3) (f : Fmt → Nat → Nat → FpR) (m b : Nat) : FpR :=
  if ty = 4 then f f32 m b
  else if ty = 5 then f f64 m b
  else packed (fun x y _ => f (if ty = 6 then bf16 else f16) x y) (word m) (word b) 0

/-- One RMW on the value at the place of execution (R337). -/
def atomStep (q : AtomReq) (m : Nat) : AtomRes :=
  let w := atomBits q.ty
  let signed : Bool := q.ty = 0 || q.ty = 2
  let b := q.b.toNat % 2 ^ w
  let i (n : Nat) : Int := intOfBits (w, signed) n
  let plain (n : Nat) : AtomRes := { new := n % 2 ^ w, flags := 0, sat := 0 }
  let float (f : Fmt → Nat → Nat → FpR) : AtomRes :=
    let r := atomFloat q.ty f m b
    { new := r.bits, flags := r.flags, sat := 0 }
  match q.op.toNat with
  | 0 => plain (m + b)
  | 1 => plain (if i b < i m then b else m)
  | 2 => plain (if i m < i b then b else m)
  | 3 => plain (m &&& b)
  | 4 => plain (m ||| b)
  | 5 => plain (m ^^^ b)
  | 6 => plain b
  | 7 => plain (if m = b then q.c.toNat else m)
  | 8 => if i m < i b ∧ i m ≠ intMax (w, signed) then plain (m + 1) else { new := m, flags := 0, sat := 1 }
  | 9 => if i b < i m ∧ i m ≠ intMin (w, signed) then plain (m + 2 ^ w - 1) else { new := m, flags := 0, sat := 2 }
  | 10 => float fun f x y => f.add 0 false x y
  | 11 => float fun f x y => f.minmax false false false x y
  | _ => float fun f x y => f.minmax true false false x y

/-- What an RMW gives: the state, the old value, flags and saturation. -/
structure RmwOut where
  s     : State
  old   : Nat
  flags : FFlags
  sat   : BitVec 2

/-- An RMW performed at the home slice, an owner recalled first (R58, R59); the core that asked for it has seen the line's value
there, so no older clean copy answers its later loads (Coherence, R83). An uncached page allocates nothing (R35). -/
def State.rmwHome (s : State) (core pa : Nat) (keep low : Bool) (q : AtomReq) : RmwOut :=
  let n := atomBits q.ty / 8
  let s := (s.recall (pa / 128)).seeHome core (pa / 128)
  let m := memNat s.mem pa n
  let r := atomStep q m
  { s := s.homeWriteIn (.core core) keep low pa (bytesLE n r.new), old := m, flags := r.flags, sat := r.sat }

/-- Whether a line holds every one of some bytes: in a valid sector, dirty, or atomically modified. -/
def Line.holds (l : Line) (off n : Nat) : Bool :=
  (List.range n).all fun i => l.valid.getLsbD ((off + i) / 32) || l.dirty.getLsbD (off + i) || l.amod.getLsbD (off + i)

/-- An RMW in the L1 that owns the line (R58). -/
def State.rmwOwned (s : State) (core pa : Nat) (l : Line) (q : AtomReq) : RmwOut :=
  let n := atomBits q.ty / 8
  let mask : BitVec 128 := maskBits 128 (pa % 128) n
  let m := natLE (getBytes l.data (pa % 128) n)
  let r := atomStep q m
  let l := { l with
    data := setBytes l.data (pa % 128) (bytesLE n r.new)
    amod := l.amod ||| mask
    dirty := l.dirty &&& ~~~ mask
    poison := l.poison &&& ~~~ mask }
  { s := s.l1Enter core l, old := m, flags := r.flags, sat := r.sat }

/-- A core becomes the owner of a line (R58): no RDC keeps a copy, since near atomics pass none. The other dies are sent
invalidations, as by a write, and the core's own die drops its copy (DEDUCED, log 82). -/
def State.grantLine (s : State) (core line : Nat) (low : Bool) : State :=
  let s := ((((s.writeBack core line).seeHome core line).l2Use line low).invalidate line (.core core)).dropRdc (dieOf core) line
  let data := setBytes 0 0 (memBytes s.mem (128 * line) 128)
  let bad := (List.range 4).foldl (fun m i => m ||| s.homePoison line i) 0
  let l : Line := { Line.fresh line with valid := 15, data := data, owned := true, poison := bad, low := low }
  ((s.l1Enter core l).predict core line false).modDir line fun d => { d with owner := some core }

/-- A near request for a line (R58): the home slice grants ownership where no other core owns it, and the L1 takes
the line; else it recalls the line, executes the atomic itself and marks the line contended. An owner whose copy has lost bytes
that the atomic needs sends it to the home slice. -/
def State.rmwNear (s : State) (core pa : Nat) (low : Bool) (q : AtomReq) : RmwOut :=
  let line := pa / 128
  let n := atomBits q.ty / 8
  let near (s : State) : RmwOut := match s.l1Find core line with
    | some l => if l.holds (pa % 128) n then s.rmwOwned core pa l q else (s.writeBack core line).rmwHome core pa true low q
    | none => s.rmwHome core pa true low q
  match (s.dir line).owner with
  | some k =>
    if k = core then near s
    else
      let s := (s.writeBack core line).recall line
      let s := s.modDir line fun d => { d with contended := some (s.etime + Config.contendedTicks) }
      (s.predict core line true).rmwHome core pa true low q
  | none => near (s.grantLine core line low)

/-- A global atomic, placed near or far (R57). -/
def State.rmwGlobal (s : State) (core pa : Nat) (a : Attr) (q : AtomReq) : RmwOut :=
  let line := pa / 128
  let hot : Bool := match (s.dir line).contended with
    | none => false
    | some t => s.etime < t
  if a.uncached ∨ hot ∨ 2 ≤ (tget (s.core core).pred (line % 512)).getD 0 then
    (s.writeBack core line).rmwHome core pa (¬ a.uncached) a.low q
  else s.rmwNear core pa a.low q

/-- An atomic on scratchpad, at its owner (R30). -/
def State.rmwSpad (s : State) (gid off : Nat) (q : AtomReq) : RmwOut :=
  let n := atomBits q.ty / 8
  let m := natLE (s.spadBytes gid off n)
  let r := atomStep q m
  { s := s.spadPut gid off (bytesLE n r.new), old := m, flags := r.flags, sat := r.sat }

/-- A PCIe AtomicOp for an operation of Table 12-6 (R35). -/
def busOp (op : BitVec 4) : Option BusOp :=
  if op = 0 then some .add else if op = 6 then some .swap else if op = 7 then some .cas else none

end Sys2Proof.Machine
end

