-- ==== Sys2Proof/Machine/Issue.lean ====
section
/-! DEFINITION. Accesses of lanes to memory, piece by piece (03 R71), and accesses that an instruction has issued and that are
performed later, each event on its own (R79, R84, R85). -/

namespace Sys2Proof.Machine

/-- The registers that a loaded value writes (R330): 8 and 16 bits are extended to 32. -/
def loadRegs (d : Nat) (sx : Bool) (bs : List Byte) : List (Nat × Word) :=
  if bs.length ≤ 2 then
    let w := 8 * bs.length
    let n := natLE bs
    [(d, word (if sx ∧ 2 ^ (w - 1) ≤ n then 2 ^ 32 + n - 2 ^ w else n))]
  else (List.range (bs.length / 4)).map fun i => (d + i, word (natLE ((bs.drop (4 * i)).take 4)))

/-- A piece read over the ordinary path, as an acquire load reads it at cell rank or wider (R46), or from scratchpad. -/
def State.readPiece (s : State) (core : Nat) (acq : Bool) : Piece → State × List Byte
  | .mem _ pa n a => if acq then s.l1LoadAcq core pa n a else s.l1Load core pa n a
  | .spad _ gid off n => (s, s.spadBytes gid off n)
  | .pad bs => (s, bs)
  | .given bs => (s, bs)

/-- A piece read over a path with a cache of its own (R52). -/
def State.readPath (s : State) (core asid : Nat) (k : PathKind) : Piece → State × List Byte
  | .mem _ pa n a => s.pathRead core k asid pa n a
  | .spad _ gid off n => (s, s.spadBytes gid off n)
  | .pad bs => (s, bs)
  | .given bs => (s, bs)

/-- The pieces of a lane read in order. -/
def State.readAll (s : State) (ps : List Piece) (rd : State → Piece → State × List Byte) : State × List Byte :=
  ps.foldl (fun e p => let r := rd e.1 p; (r.1, e.2 ++ r.2)) (s, [])

/-- Whether a piece read on a core would be poisoned (R68). -/
def State.poisonPiece (s : State) (core : Nat) (acq : Bool) : Piece → Bool
  | .mem _ pa n a => if a.uncached then s.poisonedHome pa n else s.poisonedAt core pa n acq (¬ a.nrd)
  | .spad _ gid off n => s.spadPoisoned gid off n
  | _ => false

/-- Whether a piece read over a path with a cache of its own would be poisoned. -/
def State.poisonPath (s : State) (core : Nat) (k : PathKind) : Piece → Bool
  | .mem _ pa n a => s.poisonedPath core k pa n a
  | .spad _ gid off n => s.spadPoisoned gid off n
  | _ => false

/-- Whether a piece read at a home is poisoned. -/
def State.poisonHome (s : State) : Piece → Bool
  | .mem _ pa n _ => s.poisonedHome pa n
  | .spad _ gid off n => s.spadPoisoned gid off n
  | _ => false

/-- A piece of bytes written under Table 2-1, or to scratchpad at its owner. -/
def State.writePiece (s : State) (gid core rank : Nat) (through : Bool) (bs : List Byte) : Piece → State
  | .mem _ pa n a => s.storeOf gid core pa (bs.take n) rank through a
  | .spad _ at_ off n => s.spadPut at_ off (bs.take n)
  | .pad _ => s
  | .given _ => s

/-- Whether two pieces share a byte. -/
def Piece.meets : Piece → Piece → Bool
  | .mem _ a n _, .mem _ b m _ => a < b + m && b < a + n
  | .spad _ g a n, .spad _ h b m => g = h && a < b + m && b < a + n
  | _, _ => false

/-- The address of a lane's first access (R24, Table 17-2). -/
def pieceAddr : List Piece → Nat
  | .mem va _ _ _ :: _ => va
  | .spad va _ _ _ :: _ => va
  | _ :: l => pieceAddr l
  | [] => 0

/-- The bytes of a piece. -/
def Piece.len : Piece → Nat
  | .mem _ _ n _ => n
  | .spad _ _ _ n => n
  | .pad bs => bs.length
  | .given bs => bs.length

/-- Whether an access to a piece is still to be performed. -/
def Piece.isOpen : Piece → Bool
  | .mem _ _ _ _ => true
  | .spad _ _ _ _ => true
  | _ => false

/-- The bytes that a piece holds: those of a place outside its tensor, and those of a performed access. -/
def Piece.held : Piece → List Byte
  | .pad bs => bs
  | .given bs => bs
  | _ => []

/-- Whether a piece lies in host memory. -/
def Piece.isHost : Piece → Bool
  | .mem _ pa _ _ => isHostMem pa
  | _ => false

/-- Whether a lane's access is of host memory. -/
def hostPieces (ps : List Piece) : Bool := ps.any Piece.isHost

/-- Whether an access reads: all but a store. -/
def How.reads : How → Bool
  | .store _ _ => false
  | _ => true

/-- A piece read as an access reads it. -/
def State.readBy (s : State) (core asid : Nat) (path : Option PathKind) (past : Bool) (p : Piece) : State × List Byte :=
  match path with
  | none => s.readPiece core past p
  | some k => s.readPath core asid k p

/-- Whether an atomic on a piece would consume poisoned data (R68): bytes that the core modified itself, else those at the
place of execution. -/
def State.poisonAtom (s : State) (core : Nat) : Piece → Bool
  | .mem _ pa n _ => s.poisonedAt core pa n true false
  | .spad _ gid off n => s.spadPoisoned gid off n
  | _ => false

/-- Whether an access would consume poisoned data (R68); a store consumes none. -/
def State.wouldPoison (s : State) (core : Nat) (h : How) (ps : List Piece) : Bool :=
  match h with
  | .load none past => ps.any (s.poisonPiece core past)
  | .load (some k) _ => ps.any (s.poisonPath core k)
  | .store _ _ => false
  | .atom => ps.any (s.poisonAtom core)

/-- An atomic on a piece, where it executes (R30, R57); its flags and saturations come with its acknowledgement (R138, R140). -/
def State.rmwPiece (s : State) (core : Nat) (r : Ref) (clause : Nat) (q : AtomReq) (p : Piece) : State × List Byte :=
  let fin (o : RmwOut) : State × List Byte :=
    let s := if o.flags = 0 then o.s else o.s.land r.gid r.role clause (.fsr o.flags)
    let s := if o.sat = 0 then s else s.land r.gid r.role clause (.sat o.sat)
    (s, bytesLE (atomBits q.ty / 8) o.old)
  match p with
  | .mem _ pa _ a => fin (s.rmwGlobal core pa a q)
  | .spad _ gid off _ => fin (s.rmwSpad gid off q)
  | p => (s, p.held)

/-- One piece of a lane's access performed, `off` bytes into it: the state, and the bytes read or written. -/
def State.doPiece (s : State) (asid core : Nat) (r : Ref) (clause : Nat) (h : How) (a : LaneArg) (off : Nat) (p : Piece) :
    State × List Byte :=
  match h, a with
  | .load path past, _ => s.readBy core asid path past p
  | .store rank through, .bytes bs =>
    let b := (bs.drop off).take p.len
    (s.writePiece r.gid core rank through b p, b)
  | .atom, .rmw q _ => s.rmwPiece core r clause q p
  | _, _ => (s, p.held)

/-- The elements that the bytes of a matrix hold. -/
def elemsOf (size : Nat) (bs : List Byte) (n : Nat) : List Nat :=
  (List.range n).map fun k => natLE ((bs.drop (k * size)).take size)

/-- One weight from the bytes of its words and its group's entry, the entry last (R321, R236). -/
def weightOf (q4 : Bool) (k : Nat) (bs : List Byte) : Nat :=
  let e := natLE (bs.drop (bs.length - 4))
  let w := natLE (bs.take (bs.length - 4))
  if q4 then expandWeight (bitsOf w (4 * k) 4) (bitsOf e 16 4) (e % 2 ^ 16)
  else expandWeight (bitsOf w (3 * k) 3) (bitsOf e 16 3) (e % 2 ^ 16)

/-- The weights of a lane from their bytes one after another: outside the tensor 2 bytes; else the words and the entry. -/
def weightsOf : List (Option (Bool × Nat)) → List Byte → List Nat
  | [], _ => []
  | none :: es, bs => natLE (bs.take 2) :: weightsOf es (bs.drop 2)
  | some (q4, k) :: es, bs =>
    let n := if q4 then 8 else 16
    weightOf q4 k (bs.take n) :: weightsOf es (bs.drop n)

/-- The words of an atomic's old value in its registers. -/
def oldRegs (dst : Option Nat) (bs : List Byte) : List (Nat × Word) :=
  match dst with
  | none => []
  | some d => loadRegs d false bs

/-- What a lane's access writes in the lane's registers, from the bytes it has read. -/
def LaneArg.out (a : LaneArg) (mregs : Nat) (l : Lane) (bs : List Byte) : LaneOut :=
  let slots (d : Nat) (m : Mat) : LaneOut := LaneOut.slots ((l.matWrite mregs d m).getD [])
  match a with
  | .into (.regs d sx) => LaneOut.regs (loadRegs d sx bs)
  | .into (.mat d r c ty) => slots d { r := r, c := c, ty := ty, el := elemsOf (typeBytes ty) bs (r * c) }
  | .into (.weights d r c es) => slots d { r := r, c := c, ty := 3, el := weightsOf es bs }
  | .bytes _ => LaneOut.regs []
  | .rmw _ dst => LaneOut.regs (oldRegs dst bs)

/-- What a load of a piece would read now; nothing is known of what the host or the tensor's pad holds. -/
def State.peekPiece (s : State) (core asid : Nat) (h : How) (p : Piece) : List Byte :=
  match h with
  | .load path past => if p.isOpen && ¬ p.isHost then (s.readBy core asid path past p).2 else List.replicate p.len 0
  | _ => []

/-- One piece of an issued access performed, `off` bytes into its lane. A load of bytes that have been poisoned since it issued was
performed before they were (log 83). -/
def State.latePiece (s : State) (e : Issue) (l : LaneAcc) (off : Nat) (p : Piece) : State × List Byte :=
  match e.how with
  | .load _ _ =>
    if s.wouldPoison e.core e.how [p] then (s, (l.seen.drop off).take p.len)
    else s.doPiece e.asid e.core e.path e.clause e.how l.arg off p
  | _ => s.doPiece e.asid e.core e.path e.clause e.how l.arg off p

/-- The pieces of a lane from an index on, performed while they are among `n` of an event and do not wait for the host: the
state, the pieces as they then stand. `off` bytes of the lane lie before them. -/
def State.doPieces (s : State) (e : Issue) (l : LaneAcc) : Nat → Nat → Nat → List Piece → State × List Piece
  | _, _, _, [] => (s, [])
  | skip, n, off, p :: ps =>
    if 0 < skip then
      let r := s.doPieces e l (skip - 1) n (off + p.len) ps
      (r.1, p :: r.2)
    else if n = 0 then (s, p :: ps)
    else if p.isOpen && ¬ (p.isHost && e.how.reads) then
      let d := s.latePiece e l off p
      let r := d.1.doPieces e l 0 (n - 1) (off + p.len) ps
      (r.1, .given d.2 :: r.2)
    else
      let r := s.doPieces e l 0 (n - 1) (off + p.len) ps
      (r.1, p :: r.2)

/-- An issued access by its operation. -/
def State.issueOf (s : State) (id : Nat) : Option Issue := s.issues.find? fun e => e.id = id

/-- The state with an issued access changed. -/
def State.modIssue (s : State) (id : Nat) (f : Issue → Issue) : State :=
  { s with issues := s.issues.map fun e => if e.id = id then f e else e }

/-- Whether every piece of a lane is performed. -/
def LaneAcc.over (l : LaneAcc) : Bool := l.pieces.all fun p => ¬ p.isOpen

/-- Bits of a done mask set (R349). -/
def State.markDone (s : State) (r : Ref) (k : Nat) (bits : LaneSet) : State :=
  s.modTeam r.gid r.role fun t => { t with done := tset t.done k (true, ((tget t.done k).map Prod.snd).getD 0 ||| bits) }

/-- A done mask cleared and freed. -/
def State.freeDone (s : State) (r : Ref) (k : Nat) : State :=
  (s.modTeam r.gid r.role fun t => { t with done := tdel t.done k }).modPath r fun p =>
    { p with heldDone := if p.heldDone = some k then none else p.heldDone }

/-- An instruction all of whose accesses are performed (R262, R349): its results wait as register writes, a done mask that it holds
is cleared and freed, or, where a lane failed, takes the bits of its loads; it acquires if it does; its clause waits for it no more. -/
def State.finishIssue (s : State) (e : Issue) : State :=
  let s : State := { s with issues := s.issues.filter fun k => k.id ≠ e.id }
  match tget s.groups e.path.gid with
  | none => s
  | some g => match tget g.teams e.path.role with
    | none => s
    | some t =>
      let outs := e.lanes.map fun l => (l.lane, l.arg.out t.mregs (t.lane l.lane) (l.pieces.flatMap Piece.held))
      let s := s.landOuts e.path e.clause (e.outs ++ outs)
      let s := match e.done with
        | none => s
        | some k => if e.ends then s.freeDone e.path k else
            s.markDone e.path k (laneSet (e.outs.map Prod.fst ++ e.lanes.map LaneAcc.lane))
      let s := match e.acq with
        | some rank => if e.ends then s.acquire e.core rank else s
        | none => s
      s.opDone e.path.gid e.path.role e.id

/-- What follows when a lane of an issued access has changed: a store's lane that is over sets its done bit (R349), and the
instruction finishes with its last lane. -/
def State.settleLane (s : State) (id lane : Nat) : State :=
  match s.issueOf id with
  | none => s
  | some e => match e.lanes.find? fun l => l.lane = lane with
    | none => s
    | some l =>
      let s := match e.done with
        | some k => if l.over && ¬ e.how.reads then s.markDone e.path k (laneSet [lane]) else s
        | none => s
      if e.lanes.all LaneAcc.over then s.finishIssue e else s

/-- One event of a lane of an issued access is performed (R71): the pieces from `grain` times its index on. -/
def State.doEvent (s : State) (id lane i : Nat) : State :=
  match s.issueOf id with
  | none => s
  | some e => match e.lanes.find? fun l => l.lane = lane with
    | none => s
    | some l =>
      let r := s.doPieces e l (l.grain * i) l.grain 0 l.pieces
      let put (k : LaneAcc) : LaneAcc := if k.lane = lane then { k with pieces := r.2 } else k
      (r.1.modIssue id fun e => { e with lanes := e.lanes.map put }).settleLane id lane

/-- Every event of an issued access that does not wait for the host, in order. -/
def State.doIssue (s : State) (e : Issue) : State :=
  e.lanes.foldl (fun s l => (List.range l.pieces.length).foldl (fun s i => s.doEvent e.id l.lane i) s) s

/-- The issued accesses that a test selects are performed, the oldest first; what waits for the host is not (R79). -/
def State.flush (s : State) (sel : Issue → Bool) : State :=
  if s.issues.isEmpty then s else (s.issues.filter sel).foldl (fun s e => s.doIssue e) s

/-- Whether an issued access belongs to a team. -/
def Issue.ofTeam (gid role : Nat) (e : Issue) : Bool := e.path.gid = gid && e.path.role = role

/-- Whether an issued access precedes, in program order, what a path does now. -/
def Issue.before (r : Ref) (e : Issue) : Bool := e.ofTeam r.gid r.role && e.slots.getLsbD r.slot

/-- Whether an LDF precedes, in program order, what a path does now. -/
def Ldf.ofPath (l : Ldf) (r : Ref) : Bool := l.path.gid = r.gid && l.path.role = r.role && l.slots.getLsbD r.slot

/-- Whether a piece of an issued access waits for the host (R35). -/
def Issue.waitsHost (e : Issue) : Bool := e.how.reads && e.lanes.any fun l => l.pieces.any fun p => p.isOpen && p.isHost

/-- The accesses that a team has issued and not performed and that share a byte with an access of its own are performed before it
(Coherence, R83). -/
def State.catchUp (s : State) (r : Ref) (ps : List Piece) : State :=
  s.flush fun e => e.ofTeam r.gid r.role && e.lanes.any fun l => l.pieces.any fun p => ps.any p.meets

end Sys2Proof.Machine
end

