-- ==== Sys2Proof/Machine/Sectors.lean ====
section
/-! DEFINITION. The copies that asynchronous operations make, sector by sector (16 R353 to R359, 05 R119), and the creel (02 R66,
R67). -/

namespace Sys2Proof.Machine

/-- How a page recorded for an operation travels. -/
def SecSrc.attr : SecSrc → Attr
  | .mem _ u n l => { uncached := u, nrd := n, low := l }
  | _ => { uncached := false, nrd := false, low := false }

/-- Bytes and poison of a sector's source, as the copy unit of a core reads it: global bytes with the core's dirty
bytes merged over them (R88, R199, R356). -/
def State.sectorRead (s : State) (core : Nat) (src : SecSrc) : State × List Byte × Bool :=
  match src with
  | .mem pa _ n _ => let r := s.l1LoadAcq core pa 32 src.attr; (r.1, r.2, s.poisonedAt core pa 32 true (¬ n))
  | .spad gid off => (s, s.spadBytes gid off 32, s.spadPoisoned gid off 32)
  | .held bs p => (s, bs, p)

/-- Bytes just written by a core are poisoned where they now lie (R68): in its L1 where they are dirty there, else at home. -/
def State.poisonWritten (s : State) (core pa n : Nat) : State :=
  let line := pa / 128
  let m : BitVec 128 := maskBits 128 (pa % 128) n
  let put (l : Line) : Line := { l with poison := l.poison ||| m }
  let dirty : Bool := match s.l1Find core line with | none => false | some l => l.dirty &&& m ≠ 0
  let s := s.l1Mod core line put
  if dirty then s else s.poisonMask line m

/-- A sector written at its destination: scratchpad, or global memory under Table 2-1 for a rank (R356); poison
travels (R68). -/
def State.sectorWrite (s : State) (gid core rank : Nat) (dst : SecDst) (bs : List Byte) (bad : Bool) : State :=
  match dst with
  | .mem pa u l =>
    let s := s.storeOf gid core pa bs rank false { uncached := u, nrd := false, low := l }
    if bad then s.poisonWritten core pa bs.length else s
  | .spad at_ off =>
    let s := s.spadPut at_ off bs
    if bad then s.modGroup at_ fun g => { g with spadPoison := g.spadPoison ++ (List.range bs.length).map fun i => off + i }
    else s

/-- Whether the group that issued an operation is away: its writes then reach their homes, so that no L1 holds them for a group
that has left it (R74, R88). An operation goes with its group to the core on which that resumes. -/
def State.opAway (s : State) (o : AsyncOp) : Bool :=
  match tget s.groups o.path.gid with
  | none => false
  | some g => match g.place with
    | .saved _ _ => true
    | _ => false

/-- Scope rank of an operation, for its context. -/
def State.opRank (s : State) (o : AsyncOp) : Nat :=
  match tget s.ctxs o.asid with
  | none => 5
  | some x => scopeRank x o.core o.scope

/-- The rank at which an operation writes. -/
def State.writeRank (s : State) (o : AsyncOp) : Nat := if s.opAway o then max 2 (s.opRank o) else s.opRank o

/-- The release that REL asks of an operation (R88): its own writes and the accesses before it. -/
def State.opRelease (s : State) (o : AsyncOp) : State :=
  if o.rel then s.release o.core (s.opRank o) else s

/-- Credit landed sectors to the object an operation names (R119). -/
def State.credit (s : State) (bar : Option (Nat × Nat)) (n : Nat) : State :=
  match bar with
  | none => s
  | some (gid, off) => if n = 0 then s else s.barStep gid off fun b => b.land n

/-- One sector of an operation copied; without REL it credits the barrier object by its own step, with REL the
credit waits for the end (R119). -/
def State.copySector (s : State) (id i : Nat) : State :=
  match tget s.ops id with
  | none => s
  | some o => match o.sectors[i]? with
    | none => s
    | some sec =>
      let r := s.sectorRead o.core sec.src
      let s := r.1.sectorWrite o.path.gid o.core (s.writeRank o) sec.dst r.2.1 r.2.2
      let landed : Nat := match sec.dst with
        | .spad _ _ => 1
        | .mem _ _ _ => 0
      let s := { s with ops := tset s.ops id { o with
        sectors := o.sectors.eraseIdx i, credits := if o.rel then o.credits + landed else o.credits } }
      if o.rel then s else s.credit o.bar landed

/-- Every sector left of an operation, in order. -/
def State.copyAll (s : State) (id : Nat) : State :=
  match tget s.ops id with
  | none => s
  | some o => (List.range o.sectors.length).foldl (fun s _ => s.copySector id 0) s

/-- A gang whose members have all ended, with no operation on their scratchpads left, gives its ways back empty
(R30, R40, R355). -/
def State.freeGang (s : State) (gang : Nat) : State :=
  let members := s.groups.filter fun g => g.2.gang = gang
  let gids := members.map Prod.fst
  let busy := s.ops.any fun o => gids.contains o.2.path.gid ||
    o.2.sectors.any fun c => (match c.dst with | .spad g _ => gids.contains g | .mem _ _ _ => false)
  if members.all (fun g => g.2.place = .ended) && ¬ busy then
    { s with groups := tmap s.groups fun _ g => if g.gang = gang then { g with ways := [], spad := [], spadPoison := [] }
        else g }
  else s

/-- An operation ends: its flag no longer waits for it (R261). -/
def State.endOp (s : State) (id : Nat) : State :=
  match tget s.ops id with
  | none => s
  | some o =>
    let s := ({ s with ops := tdel s.ops id }).opDone o.path.gid o.path.role id
    match tget s.groups o.path.gid with
    | none => s
    | some g => s.freeGang g.gang

/-- A creel slot whose tile is written and that no member has still to drain frees (R67). -/
def CreelSlot.held (t : CreelSlot) : Bool := t.mask ≠ 0 || ¬ t.ready

/-- The tile of a CPYM that has its slot: read once, written into the slot that waits for it, and ready after the release (R201,
R358). A slot that every receiver has left meanwhile frees. -/
def State.fillTile (s : State) (o : AsyncOp) (src : List SecSrc) (slot : Nat) : State :=
  let r := src.foldl (fun (e : State × List Byte × List Bool) c =>
    let r := e.1.sectorRead o.core c
    (r.1, e.2.1 ++ r.2.1, e.2.2 ++ [r.2.2])) (s, [], [])
  let bad : BitVec 128 := r.2.2.zipIdx.foldl (fun m e => if e.1 then m ||| (1#128 <<< e.2) else m) 0
  let s := r.1.opRelease o
  s.modCell (cellOf o.core) fun c => { c with creel :=
    (tmod c.creel slot fun t => if t.ready then t else { t with tile := r.2.1, poison := bad, ready := true }).filter fun t => t.2.held }

/-- Whether a slot of a context's transport ring holds a descriptor that is written and not yet consumed (R184, R396): its index
is claimed, and its word 0 has the phase of its lap. -/
def State.ringPending (s : State) (asid : Nat) (x : Ctx) (hdr slot : Nat) : Bool :=
  match (s.unitRead 0 asid x hdr 64).2, (s.unitNat 0 asid x (hdr + 64 + 64 * slot) 4).2 with
  | .ok bs, .ok w0 =>
    let n := natLE bs
    let size := 2 ^ bitsOf n 192 5
    let rd := bitsOf n 64 64
    let i := rd + (slot + size - rd % size) % size
    slot < size && i - rd < (bitsOf n 0 64 + 2 ^ 64 - rd) % 2 ^ 64 && bitOf w0 8 = bitOf (i / size) 0
  | _, _ => false

/-- Whether frames whose descriptors a path wrote are not acknowledged (R397): in flight on a channel that has not failed, or
still to be taken from its context's ring. -/
def State.owesFrames (s : State) (asid : Nat) (r : Ref) : Bool :=
  match tget s.ctxs asid with
  | none => false
  | some x => x.channels.any (fun c => ¬ c.2.failed && c.2.sent.any fun f => f.path = some r) || match x.ring with
    | none => false
    | some hdr => x.ringBy.any fun e => e.2 = r && s.ringPending asid x hdr e.1

/-- Whether the release of an operation at system scope waits for frames of its path (R44, R88). -/
def State.opWaits (s : State) (o : AsyncOp) : Bool := o.rel && s.opRank o = 5 && s.owesFrames o.asid o.path

/-- An operation completes (Table 16-2): what is left of it is performed, then the release of REL, then the signal.
One that still waits for a creel slot, a tile, room or acknowledgements does not complete. -/
def State.completeOp (s : State) (id : Nat) : State :=
  match tget s.ops id with
  | none => s
  | some o =>
    if s.opWaits o then s else
    match o.kind with
    | .cpym _ _ _ _ none => s
    | .cpym _ _ src _ (some k) => (s.fillTile o src k).endOp id
    | .cdrain _ false => s
    | .append _ _ _ _ => s
    | _ =>
      let s := s.copyAll id
      match tget s.ops id with
      | none => s
      | some o => ((s.opRelease o).credit o.bar (if o.rel then o.credits else 0)).endOp id

/-- The members of a gang that have not ended, as a mask. -/
def State.liveMembers (s : State) (gang : Nat) : BitVec 12 :=
  (s.groups.filter fun g => g.2.gang = gang && ¬ (g.2.place = .ended)).foldl (fun m g => m ||| (1#12 <<< g.2.member)) 0

/-- A CPYM is granted the lowest free creel slot of its cell when its gang holds fewer than 4 and no CPYM of a gang
that may be served came before it (R66, R358). A member that has ended counts as having drained it (R67). -/
def State.grantCreel (s : State) (id : Nat) : State :=
  match tget s.ops id with
  | none => s
  | some o => match o.kind, tget s.groups o.path.gid with
    | .cpym va len src mask none, some g =>
      let cell := cellOf o.core
      let creel := (s.cell cell).creel
      let held (gang : Nat) : Nat := (creel.filter fun t => t.2.gang = gang).length
      let earlier := s.ops.any fun p => cellOf p.2.core = cell && p.2.seq < o.seq &&
        (match p.2.kind, tget s.groups p.2.path.gid with
          | .cpym _ _ _ _ none, some h => held h.gang < 4
          | _, _ => false)
      match lowestFree 8 (tkeys creel) with
      | none => s
      | some k =>
        if earlier || 4 ≤ held g.gang then s else
        let t : CreelSlot :=
          { gang := g.gang, asid := o.asid, mask := mask &&& s.liveMembers g.gang, tile := [], poison := 0, ready := false
            order := s.fresh }
        let s := s.modCell cell fun c => { c with creel := tset c.creel k t }
        { s with fresh := s.fresh + 1, ops := tset s.ops id { o with kind := .cpym va len src mask (some k) } }
    | _, _ => s

/-- A member's bit leaves a creel slot; a slot with no drain pending frees (R67). -/
def creelDrop (gang member : Nat) (only : Option Nat) (creel : Tab CreelSlot) : Tab CreelSlot :=
  (tmap creel fun k t => if t.gang = gang && (only.isNone || only = some k) then
      { t with mask := t.mask &&& ~~~ (1#12 <<< member) } else t).filter fun t => t.2.held

/-- A CDRAIN takes the oldest slot of its gang that holds its member's bit, once that slot is ready (R359); the drains of one
member start in issue order (R199). What of a tile lies beyond the group's scratchpad is not written (log 48). -/
def State.takeTile (s : State) (id : Nat) : State :=
  match tget s.ops id with
  | none => s
  | some o => match o.kind, tget s.groups o.path.gid with
    | .cdrain off false, some g =>
      let earlier := s.ops.any fun p => p.2.path.gid = o.path.gid && p.2.seq < o.seq &&
        (match p.2.kind with | .cdrain _ false => true | _ => false)
      let cell := cellOf o.core
      let fit := (s.cell cell).creel.filter fun t => t.2.gang = g.gang && t.2.mask.getLsbD g.member
      match sortBy (fun t => t.2.order) fit with
      | [] => s
      | (k, t) :: _ =>
        if earlier || ¬ t.ready then s else
        let room := (1024 * g.spadKiB - off) / 32
        let secs := (List.range (min room (t.tile.length / 32))).map fun i =>
          ({ src := .held ((t.tile.drop (32 * i)).take 32) (t.poison.getLsbD i), dst := .spad o.path.gid (off + 32 * i) } : Sector)
        let s := s.modCell cell fun c => { c with creel := creelDrop g.gang g.member (some k) c.creel }
        { s with ops := tset s.ops id { o with kind := .cdrain off true, sectors := secs } }
    | _, _ => s

end Sys2Proof.Machine
end

