-- ==== Sys2Proof/Machine/Ops.lean ====
section
/-! DEFINITION. Operations that every meaning shares: notifications (18 R394), the end of teams, groups and grids
(06 R149, 16 R369, 17 R379), taking an exception and returning from one (17 R375 to R380), and the issue of an
instruction with its checks (12 R277). -/

namespace Sys2Proof.Machine

/-- What a step answers. -/
abbrev Res := Host.Outcome State Fault Refusal

/-- The 16 bytes of a notification (Table 18-2). -/
def Notify.bytes (n : Notify) : List Byte :=
  bytesLE 16 (n.type + 2 ^ 20 * n.asid + 2 ^ 32 * (n.detail % 65536) + 2 ^ 48 * (n.token % 65536) + 2 ^ 64 * n.info.toNat)

/-- Held notifications written into the ring while it is in use and has room, oldest first, each with MSI-X vector 0
(R394); the fuel is the number held. -/
def State.flushNotes : Nat → State → State
  | 0, s => s
  | n + 1, s => match s.held with
    | [] => s
    | e :: rest =>
      if s.host.ntfbase.getLsbD 0 = true ∧ s.host.ntfhead < s.host.ntftail + 4096 then
        let at_ := bitsOf s.host.ntfbase.toNat 16 36 * 2 ^ 16 + 16 * (s.host.ntfhead % 4096)
        let s := { s with held := rest, host := { s.host with ntfhead := s.host.ntfhead + 1 }, out := s.out ++ [Out.msix 0] }
        (s.homeWrite .outside at_ e.bytes).flushNotes n
      else s

/-- Raise a notification: it is held, and the ring takes what it has room for (R394). -/
def State.notify (s : State) (type detail asid token : Nat) (info : Nat) : State :=
  let n : Notify := { info := BitVec.ofNat 64 info, token := token, detail := detail, asid := asid, type := type }
  State.flushNotes (s.held.length + 1) { s with held := s.held ++ [n] }

/-- The power cap in force, in W (R401). -/
def HostRegs.cap (h : HostRegs) : Nat := if h.pwrcap = 0 then 4000 else h.pwrcap.toNat

/-- The budget of a die's arbiter, in W (R6, R176, R401). -/
def HostRegs.dieBudget (h : HostRegs) : Nat := 400 * h.cap / 4000

/-- By how many droop steps a leave request passes the die's budget; 0 while the projected draw stays within it (R176). -/
def State.leaveExcess (s : State) : State × Nat :=
  let w := Config.projectedDraw s.free
  ({ s with free := s.free + 1 },
    if w ≤ s.host.dieBudget then 0 else 1 + Config.excessSteps (w - s.host.dieBudget))

/-- A path asks the arbiter for a leave grant, which it has at once while the die's budget holds (R176). -/
def State.askLeave (s : State) (r : Ref) : State :=
  let e := s.leaveExcess
  e.1.modPath r fun p =>
    { p with grant := if p.grant ≠ .none then p.grant else if e.2 = 0 then .held else .asked s.etime e.2 }

/-- A team leaves its core's active set. -/
def State.deactivate (s : State) (core : Nat) (t : TRef) : State :=
  s.modCore core fun c => { c with active := c.active.filter (· ≠ t) }

/-- A team enters its core's active set where there is room (R172). -/
def State.activate (s : State) (core : Nat) (t : TRef) : State :=
  s.modCore core fun c =>
    if c.active.contains t ∨ Config.activeTeams ≤ c.active.length then c else { c with active := c.active ++ [t] }

/-- The parked LDF lanes of a team are cancelled (R65, R375): held for issue again, or dropped with their flags. -/
def State.cancelLdfs (s : State) (gid role : Nat) (hold : Bool) : State :=
  let mine (r : Ref) : Bool := r.gid = gid && r.role = role
  let s := { s with
    defer := s.defer.filter fun e => ¬ mine e.path
    cellReqs := s.cellReqs.filter fun e => ¬ mine e.path }
  if hold then
    { s with ldfs := tmap s.ldfs fun _ l => if mine l.path then { l with held := true, code := 0, left := l.reqs.length } else l }
  else
    (s.ldfs.filter fun l => mine l.2.path).foldl (fun s l => s.opDone gid role l.1)
      { s with ldfs := s.ldfs.filter fun l => ¬ mine l.2.path }

/-- A request of a cancelled LDF is issued again from a core (R65): its address is translated there again, since an invalidation
may have completed meanwhile (R23). The spec does not say whether it is, nor what follows where it no longer translates: the
lanes are then refused, and the driver is notified of the address (DESIGN CHOICE, log 69). -/
def State.askAgain (s : State) (core : Nat) (e : Defer) : State :=
  let e : Defer := { e with core := core }
  match tget s.ctxs e.asid with
  | none => s
  | some x =>
    let t := s.translate core e.asid x e.va .read
    match t.2 with
    | .error f => (t.1.decideLdf e 0 false 2).notify 3 (256 * f.cause + f.detail) e.asid 0 e.va
    | .ok y =>
      if isDeviceMem y.pa then { t.1 with cellReqs := t.1.cellReqs ++ [{ e with cell := y.pa / 8, attr := y.attr }] }
      else (t.1.decideLdf e 0 false 2).notify 3 (256 * 5 + 7) e.asid 0 e.va

/-- Cancelled LDFs of a team are issued again in full, from the core on which its group now runs (R65, R74, R375). -/
def State.reissueLdfs (s : State) (gid role core : Nat) : State :=
  let mine (l : Ldf) : Bool := l.path.gid = gid && l.path.role = role && l.held
  let es := (s.ldfs.filter fun l => mine l.2).flatMap fun l => l.2.reqs
  es.foldl (fun s e => s.askAgain core e)
    { s with ldfs := tmap s.ldfs fun _ l => if mine l then { l with held := false } else l }

/-- The markers of a team are cleared, a release at every scope that could sweep them, system scope among them (R92); a clear starts a re-sweep
pass (R129, R133). -/
def State.clearMarkers (s : State) (asid gid role : Nat) : State :=
  match tget s.groups gid with
  | none => s
  | some g => match tget g.teams role with
    | none => s
    | some t =>
      if t.markers.any (fun m => m.2 ≠ 0) then
        let s := (s.release g.core 5).modTeam gid role fun t => { t with markers := [] }
        s.modCtx asid fun x => { x with resweep := true }
      else s

/-- A context's frame slot is free again (R379). -/
def State.freeFrame (s : State) (asid : Nat) (p : TrapPhase) : State :=
  match p with
  | .handler slot _ _ _ => s.modCtx asid fun x => { x with frames := x.frames.filter (· ≠ slot) }
  | _ => s

/-- A group ends (R149): its ways go back when its whole gang has ended (R30, R40), its private slot is free (R31),
it counts as having drained every creel slot that names it (R67), so that its CDRAINs without a slot find none any more and
end, and as marked (R195). A retirement restarts the grid's watchdog timer, and takes back an expiry in the same tick (R178). -/
def State.endGroup (s : State) (gid : Nat) (retire : Bool) : State :=
  match tget s.groups gid with
  | none => s
  | some g =>
    if g.place = .ended then s else
    let s := s.modGroup gid fun g => { g with place := .ended, succ := true, pool := 0 }
    let s := s.modCtx g.asid fun x => { x with
      privUsed := x.privUsed.filter (· ≠ g.privSlot)
      saves := match g.place with
        | .saved k _ => x.saves.filter (· ≠ k)
        | _ => x.saves }
    let s := s.modCell (cellOf g.core) fun c => { c with creel := creelDrop g.gang g.member none c.creel }
    let s := s.modGrid g.grid fun d => { d with
      endedN := d.endedN + 1
      started := if retire then some s.etime else d.started
      expired := if retire then none else d.expired }
    let gone (o : AsyncOp) : Bool := o.path.gid = gid && match o.kind with | .cdrain _ false => true | _ => false
    ({ s with
      ops := s.ops.filter fun o => ¬ gone o.2
      cancelled := s.cancelled.filter fun k => ¬ (k.path.gid = gid) } : State).freeGang g.gang

/-- A team ends (R149, R369): markers cleared, parked LDF lanes cancelled, register writes discarded while
saturations still reach ATOMSAT (R140), both paths and the stack gone. The group ends with its last team. -/
def State.endTeam (s : State) (gid role : Nat) : State :=
  match tget s.groups gid with
  | none => s
  | some g => match tget g.teams role with
    | none => s
    | some t =>
      let s := (s.clearMarkers g.asid gid role).cancelLdfs gid role false
      let s := s.landIf gid role fun l => l.what.satBits ≠ 0
      let s := match t.trap with | none => s | some tr => s.freeFrame g.asid tr.phase
      let s := s.deactivate g.core { gid := gid, role := role }
      let s := s.modTeam gid role fun t => { t with
        paths := [], splits := [], outst := [], landing := [], trap := none, done := [], ended := true }
      match tget s.groups gid with
      | none => s
      | some g => if g.teams.all (fun k => k.2.ended) = true then s.endGroup gid true else s

/-- The successors of a grid that ended without retiring: SERR on their predecessor objects, whose sleepers wake to
take the barrier fault (R124, R196). -/
def State.failSuccessors (s : State) (grid : Nat) : State :=
  let mine (d : Grid) : Bool := d.pred = some grid && ¬ d.predDone
  let ids := (s.grids.filter fun d => mine d.2).map Prod.fst
  { s with
    grids := tmap s.grids fun _ d => if mine d then { d with predFail := true } else d
    groups := tmap s.groups fun _ g => if ids.contains g.grid then
        { g with predErr := true, teams := tmap g.teams fun _ t => { t with paths := tmap t.paths fun _ p =>
            if p.status = .asleepPred then { p with status := .running } else p } }
      else g }

/-- Bytes written for a context by a unit of die 0 at home slices; what a page refuses is dropped. -/
def State.put (s : State) (asid : Nat) (va : Nat) (bs : List Byte) : State :=
  match tget s.ctxs asid with
  | none => s
  | some x => (s.unitWrite 0 asid x va bs).1

/-- Parked-marker entries freed, in the context and in its table in memory (R130). -/
def State.unpark (s : State) (asid : Nat) (sel : Parked → Bool) : State :=
  match tget s.ctxs asid with
  | none => s
  | some x =>
    let s := (x.parked.filter sel).foldl (fun s p => s.put asid (x.parktab + 16 * p.entry) (bytesLE 16 0)) s
    s.modCtx asid fun x => { x with parked := x.parked.filter fun p => ¬ sel p }

/-- A grid is ended without retiring (R379): every group of it ends and its work is discarded as for a kill (R206): stores,
what they left dirty in an L1, operations, sweeps and requests that are not performed never are, while saturations that are performed reach ATOMSAT (R140); its completion value
is not written, its packet counts as complete, its successor's predecessor object fails, the driver is notified, with the
grid index of the group that ended it (log 59). -/
def State.terminateGrid (s : State) (grid index detail : Nat) : State :=
  match tget s.grids grid with
  | none => s
  | some d =>
    let gids := (s.groups.filter fun g => g.2.grid = grid).map Prod.fst
    let s : State := { s with cores := tmap s.cores fun _ c => c.dropDirty gids }
    let s := gids.foldl (fun s gid => match tget s.groups gid with
      | none => s
      | some g =>
        let s := (tkeys g.teams).foldl (fun s role =>
          let s := s.cancelLdfs gid role false
          let s := s.landIf gid role fun l => l.what.satBits ≠ 0
          let s := match tget g.teams role with
            | none => s
            | some t => match t.trap with | none => s | some tr => s.freeFrame g.asid tr.phase
          let s := (s.clearMarkers g.asid gid role).deactivate g.core { gid := gid, role := role }
          s.modTeam gid role fun t => { t with
            paths := [], splits := [], outst := [], landing := [], trap := none, done := [], ended := true }) s
        s.endGroup gid false) s
    let dead (q : HostReq) : HostReq := if gids.contains q.path.gid then { q with live := false } else q
    let ours (k : Sweep) : Bool := match k.who with
      | .frog r _ _ _ => gids.contains r.gid
      | _ => false
    let gangs := (s.groups.filter fun g => g.2.grid = grid).map fun g => g.2.gang
    let s : State := { s with
      ops := s.ops.filter fun o => ¬ gids.contains o.2.path.gid
      cells := tmap s.cells fun _ u => { u with creel := u.creel.filter fun t => t.2.ready || ¬ gangs.contains t.2.gang }
      cancelled := s.cancelled.filter fun k => ¬ gids.contains k.path.gid
      issues := s.issues.filter fun e => ¬ gids.contains e.path.gid
      hostReqs := s.hostReqs.map dead
      hostData := s.hostData.filter fun e => ¬ gids.contains e.path.gid }
    let s := s.modCtx d.asid fun x => { x with sweeps := x.sweeps.filter fun k => ¬ ours k }
    let parkedHere : Bool := match tget s.ctxs d.asid with
      | none => false
      | some x => x.parked.any fun p => gids.contains p.gid
    let s := if parkedHere then s.modCtx d.asid fun x => { x with resweep := true } else s
    let s := gids.foldl (fun s gid => match tget s.groups gid with | none => s | some g => s.freeGang g.gang) s
    let s := (s.unpark d.asid fun p => gids.contains p.gid).modCtx d.asid fun x => { x with
      bindings := match d.origin with
        | .packet _ _ => x.bindings
        | .window b w _ => tmod x.bindings b fun b => { b with
            windows := tmod b.windows w fun w => { w with running := if w.running = some grid then none else w.running } } }
    let mark (p : Packet) : Packet := if p.grid = some grid then { p with done := true } else p
    let s := { s with engines := tmap s.engines fun _ e => { e with packets := e.packets.map mark } }
    let s := s.modGrid grid fun d => { d with killed := true, done := true }
    (s.failSuccessors grid).notify 6 detail d.asid 0 index

/-- The address of a path's next instruction. -/
def Path.nextAddr (p : Path) : Nat :=
  match p.clause with
  | none => p.pc
  | some c => c.addr + 4 * (1 + c.pos)

/-- The operations of a team that complete before its state is saved (Table 16-3, R375); the others continue. -/
def AsyncOp.completesFirst (o : AsyncOp) : Bool :=
  match o.kind with
  | .append _ _ _ _ => false
  | .cpym _ _ _ _ slot => slot.isSome
  | .cdrain _ taken => taken
  | .copy => o.sectors.isEmpty || o.sectors.any fun c =>
      (match c.dst with | .spad _ _ => true | .mem _ _ _ => false) || (match c.src with | .spad _ _ => true | _ => false)

/-- Whether an operation waits for a creel slot or a tile: it is cancelled at a trap or a pre-emption and issued again in full
(Table 16-3). -/
def AsyncOp.waitsSlot (o : AsyncOp) : Bool :=
  match o.kind with
  | .cpym _ _ _ _ none => true
  | .cdrain _ false => true
  | _ => false

/-- The operations of a team that wait for a slot are cancelled (Table 16-3). -/
def State.cancelOps (s : State) (gid role : Nat) : State :=
  let mine (o : AsyncOp) : Bool := o.path.gid = gid && o.path.role = role && o.waitsSlot
  let keep (o : Nat × AsyncOp) : Cancelled :=
    { op := o.1, path := o.2.path, clause := o.2.clause, scope := o.2.scope, acq := o.2.acq, rel := o.2.rel, kind := o.2.kind
      bar := o.2.bar }
  { s with
    cancelled := s.cancelled ++ (s.ops.filter fun o => mine o.2).map keep
    ops := s.ops.filter fun o => ¬ mine o.2 }

/-- Outstanding work of a team completes (R375, R385): issued accesses are performed, pending register writes are done, operations
complete, continue or are cancelled as Table 16-3 gives, parked LDF lanes are cancelled and held. Accesses that wait for the host
complete when it has answered (`State.teamBusy`); what an instruction that has not issued has fetched of host memory is asked for
again when it goes on. -/
def State.settle (s : State) (gid role : Nat) : State :=
  let s := s.flush (Issue.ofTeam gid role)
  let s := s.cancelLdfs gid role true
  let ids := (s.ops.filter fun o => o.2.path.gid = gid && o.2.path.role = role && o.2.completesFirst).map Prod.fst
  let s := ids.foldl (fun s i => s.completeOp i) s
  let drop (q : HostReq) : HostReq :=
    if q.path.gid = gid ∧ q.path.role = role ∧ q.what = .fetch then { q with live := false } else q
  let s : State := { s with
    hostReqs := s.hostReqs.map drop
    hostData := s.hostData.filter fun e => ¬ (e.path.gid = gid && e.path.role = role) }
  (s.cancelOps gid role).landAll gid role

/-- Whether issued instructions of a team are not complete: they wait for a sweep, for the host, or for acknowledgements before an
operation's release; a trap is delivered and a team saved only after them (R375, R385, R138). -/
def State.teamBusy (s : State) (gid role : Nat) : Bool :=
  (s.ctxs.any fun x => x.2.sweeps.any fun k => match k.who with
    | .frog r _ _ _ => r.gid = gid && r.role = role
    | _ => false) ||
  s.issues.any (Issue.ofTeam gid role) ||
  s.ops.any fun o => o.2.path.gid = gid && o.2.path.role = role && o.2.completesFirst

/-- The trap frame of Table 17-2. -/
def frameBytes (c : Cur) (t : Trap) : List Byte :=
  let q (n : Nat) : List Byte := bytesLE 8 n
  q (t.cause + (if t.skip then 2 ^ 10 else 0) + 2 ^ 11 * t.slot + (if t.opc.isSome then 2 ^ 12 else 0) + 2 ^ 13 * t.doneix
      + 2 ^ 32 * t.detail)
    ++ q t.ipc ++ q t.hdr ++ q t.addr ++ q t.iwords.toNat ++ q (c.p.getS2 60).toNat ++ q (t.opc.getD 0) ++ q t.etime
    ++ bytesLE 128 t.lmask.toNat
    ++ q (2 ^ 32 * (c.g.index % 2 ^ 32) + 2 ^ 28 * c.r.role + 2 ^ 16 * c.g.core + c.g.asid) ++ bytesLE 56 0

/-- The lines of a trap frame leave the team's L1, so that firmware and the handler see one frame (log 42). -/
def State.cleanLines (s : State) (core asid : Nat) (x : Ctx) (va : Nat) : State :=
  let t := s.unitXlat (dieOf core) asid x va .read
  match t.2 with
  | .error _ => s
  | .ok y => (t.1.l1Evict core (y.pa / 128)).l1Evict core (y.pa / 128 + 1)

/-- A trap is delivered to the context's handler (R377): the frame is written into the lowest free slot, s60 and s61
take its address, the faulting path goes on at TRAPH in handler state. Without a free slot the team stays stopped;
a frame that cannot be written terminates the grid. -/
def State.deliver (s : State) (gid role : Nat) : State :=
  match tget s.groups gid with
  | none => s
  | some g => match tget g.teams role, tget s.ctxs g.asid with
    | some t, some x => match t.trap with
      | none => s
      | some tr => match s.at { gid := gid, role := role, slot := tr.slot } with
        | none => s
        | some c =>
          if tr.phase ≠ .frame then s else
          match lowestFree x.nframe x.frames with
          | none => s
          | some f =>
            let va := x.trapfr + 256 * (f + 1)
            let w := (s.cleanLines g.core g.asid x va).unitWrite (dieOf g.core) g.asid x va (frameBytes c tr)
            match w.2 with
            | some e => w.1.terminateGrid g.grid g.index (256 * e.cause + e.detail)
            | none =>
              let s := w.1.modCtx g.asid fun x => { x with frames := x.frames ++ [f] }
              s.modTeam gid role fun t => { t with
                trap := some { tr with phase := .handler f va c.p.pc c.p.clause }
                paths := tset t.paths tr.slot { c.p with
                  s := tset (tset c.p.s 60 (word va)) 61 (word (va / 2 ^ 32))
                  pc := x.traph, clause := none, grant := .none, status := .running } }
    | _, _ => s

/-- A trap that has been taken goes to its server (R376, Table 17-1) once the issued instructions of its team are complete:
firmware for a retired opcode, the driver with a token for a page or protection fault, the context's handler for every other
cause, where TRAPH 0 terminates the grid. -/
def State.trapGo (s : State) (gid role : Nat) : State :=
  match tget s.groups gid with
  | none => s
  | some g => match tget g.teams role, tget s.ctxs g.asid with
    | some t, some x => match t.trap with
      | none => s
      | some tr =>
        if tr.phase ≠ .drain ∨ s.teamBusy gid role then s else
        let s := s.landAll gid role
        let put (s : State) (p : TrapPhase) : State :=
          s.modTeam gid role fun k => { k with trap := some { tr with phase := p } }
        if tr.cause = 3 then put s .firmware
        else if tr.cause = 4 ∨ tr.cause = 5 then
          (put { s with tokens := s.tokens + 1 } (.driver s.tokens)).notify 3 (256 * tr.cause + tr.detail) g.asid s.tokens tr.addr
        else if x.traph = 0 then s.terminateGrid g.grid g.index (256 * tr.cause + tr.detail)
        else (put s .frame).deliver gid role
    | _, _ => s

/-- TAKING AN EXCEPTION (R375 to R381): the path's team stops, its outstanding work settles, and the cause goes to its server
(`State.trapGo`). A fault raised in handler state terminates the grid (R381). -/
def State.takeTrapW (s : State) (r : Ref) (cause detail addr : Nat) (lmask : LaneSet) (skip : Bool)
    (words : Option (BitVec 64)) : State :=
  match s.at r with
  | none => s
  | some c => match tget s.ctxs c.g.asid with
    | none => s
    | some _ =>
      if c.t.trap.isSome then s.terminateGrid c.g.grid c.g.index (256 * cause + detail) else
      let s := s.settle r.gid r.role
      let cl := c.p.clause
      let w0 := match cl with | none => 0 | some k => k.word0
      let len := if cl.isNone then 0 else wordCount w0
      let opc := (tget c.t.paths (1 - r.slot)).map Path.nextAddr
      let t : Trap :=
        { cause := cause, detail := detail, slot := r.slot, ipc := c.p.nextAddr, hdr := c.p.pc, addr := addr
          iwords := match words, cl with
            | some w, _ => w
            | none, none => 0
            | none, some k => ((if len = 2 then k.word1 else 0#32) ++ w0 : BitVec 64)
          lmask := lmask, doneix := c.p.heldDone.getD 7, opc := opc, etime := s.etime, skip := skip, len := len
          boundary := cl.isNone || cause = 0x0F, phase := .drain }
      (s.modTeam r.gid r.role fun k => { k with
        trap := some t, paths := tmod k.paths r.slot fun p => { p with status := .running } }).trapGo r.gid r.role

/-- Taking an exception whose words are those of the current instruction. -/
def State.takeTrap (s : State) (r : Ref) (cause detail addr : Nat) (lmask : LaneSet) (skip : Bool) : State :=
  s.takeTrapW r cause detail addr lmask skip none

/-- The path that trapped goes on (R380): at the faulting instruction, or after it with its done mask released; a
cause taken at a clause boundary is taken up at that clause. Cancelled LDFs are issued again. -/
def State.resumeTrap (s : State) (r : Ref) (tr : Trap) (pc : Nat) (clause : Option Clause) (skip : Bool) : State :=
  let s := s.modTeam r.gid r.role fun t => { t with
    trap := none, paths := tmod t.paths r.slot fun p => { p with pc := pc, clause := clause } }
  let s := if skip ∧ ¬ tr.boundary then
      let s := s.modTeam r.gid r.role fun t => match t.path r.slot with
        | none => t
        | some p => match p.heldDone with
          | none => t
          | some k => { t with done := tdel t.done k, paths := tset t.paths r.slot { p with heldDone := none } }
      s.advance r
    else s
  match tget s.groups r.gid with
  | none => s
  | some g => s.reissueLdfs r.gid r.role g.core

/-- RETURN FROM AN EXCEPTION (R379, R380): s60 and s61 are reloaded from the frame as it stands, the frame slot
frees, and the path resumes by SKIP as the frame holds it. A frame that cannot be read terminates the grid. -/
def State.returnTrap (s : State) (r : Ref) : State :=
  match s.at r with
  | none => s
  | some c => match c.t.trap, tget s.ctxs c.g.asid with
    | some tr, some x => match tr.phase with
      | .handler f va pc clause =>
        let h := (s.cleanLines c.g.core c.g.asid x va).unitNat (dieOf c.g.core) c.g.asid x va 8
        let q := h.1.unitNat (dieOf c.g.core) c.g.asid x (va + 0x28) 8
        match h.2, q.2 with
        | .ok w, .ok s6061 =>
          let s := q.1.modCtx c.g.asid fun x => { x with frames := x.frames.filter (· ≠ f) }
          let s := s.jump r pc
          let s := s.modPath r fun p => { p with s := tset (tset p.s 60 (word s6061)) 61 (word (s6061 / 2 ^ 32)) }
          s.resumeTrap r tr pc clause (bitOf w 10)
        | .error e, _ => q.1.terminateGrid c.g.grid c.g.index (256 * e.cause + e.detail)
        | _, .error e => q.1.terminateGrid c.g.grid c.g.index (256 * e.cause + e.detail)
      | _ => s
    | _, _ => s

/-- Whether a team is in handler state (R377). -/
def Team.inHandler (t : Team) : Bool :=
  match t.trap with
  | none => false
  | some tr => match tr.phase with
    | .handler _ _ _ _ => true
    | _ => false

/-- Whether the path in a slot runs the handler (R377): the one that trapped, and one that the handler has split off into the slot
that held no path at the trap (log 84). -/
def Team.handling (t : Team) (slot : Nat) : Bool :=
  match t.trap with
  | none => false
  | some tr => t.inHandler && (tr.slot = slot || tr.opc.isNone)

/-- The instructions that only a supervisor context may execute (R274). -/
def isSupervisor : Instr → Bool
  | .eret | .tlbinvAll _ _ | .tlbinvAsid _ _ | .tlbinvPage _ _ | .tlbinvGpage _ _ => true
  | _ => false

/-- Whether the path's context is a supervisor context. -/
def State.supv (s : State) (c : Cur) : Bool := match tget s.ctxs c.g.asid with | none => false | some x => x.supv

/-- The illegal-instruction detail of an instruction in a path, with details that its meaning adds (R276, R277); the
lowest that applies is reported (log 10). -/
def State.illegal (s : State) (i : Instr) (c : Cur) (more : List Nat) : Option Nat :=
  leastDetail (i.fieldErrs ++ i.uses.filterMap Use.err ++ i.uses.filterMap (Use.allocErr c.t.vregs c.t.mregs) ++
    errIf (isSupervisor i && ¬ s.supv c) 5 ++ more)

/-- The issue of an instruction: its checks, then its effect (R277). -/
def State.issueWith (s : State) (i : Instr) (more : Cur → List Nat) (k : Cur → State) : Res :=
  match s.look with
  | none => .fault .noPath
  | some c => match s.illegal i c (more c) with
    | some d => .next (s.takeTrap c.r 1 d 0 0 false)
    | none => .next (k c)

/-- The issue of an instruction without checks of its own. -/
def State.issue (s : State) (i : Instr) (k : Cur → State) : Res := s.issueWith i (fun _ => []) k

end Sys2Proof.Machine
end

