-- ==== Sys2Proof/Machine/Launch.lean ====
section
/-! DEFINITION. Launch records and dispatch (08 R186 to R197, 06 R141, R142, R156): the fields of a record and their
checks, room on a core, the placement of groups and gangs, GROUP_DISPATCH and PREDECESSOR_ARRIVAL. -/

namespace Sys2Proof.Machine

/-- A queue error (Table 8-5), with the fault code that error 0x05 reports. -/
structure QErr where
  code  : Nat
  fault : Nat
  deriving DecidableEq, Repr

/-- A user virtual address (R14). -/
def userVA (a : Nat) : Bool := a < 2 ^ 56

/-- The fields of a launch record (Table 8-4) in its 64 bytes. -/
def LaunchRec.ofNat (n : Nat) : LaunchRec :=
  { dieSet := BitVec.ofNat 8 (if bitsOf n 16 8 = 0 then 255 else bitsOf n 16 8)
    prio := bitsOf n 12 2, pinned := bitOf n 11, gang := bitOf n 10, succ := bitOf n 9
    teams := bitsOf n 48 4, lanes := bitsOf n 32 16, code := bitsOf n 64 64, csz := bitsOf n 181 11
    spad := bitsOf n 173 8, m := bitsOf n 168 5, v8 := bitsOf n 164 4, gsz := bitsOf n 160 4
    groups := bitsOf n 128 32, param := BitVec.ofNat 64 (bitsOf n 192 64), caddr := bitsOf n 256 64
    cval := BitVec.ofNat 64 (bitsOf n 320 64), tiles := bitsOf n 384 64, tcnt := bitsOf n 448 32, wseq := bitsOf n 480 32 }

/-- Lanes of a team, helper lanes included (R142). -/
def LaunchRec.lanesUp (r : LaunchRec) : Nat := (r.lanes + 3) / 4 * 4
/-- Mask words of a team (R156). -/
def LaunchRec.words (r : LaunchRec) : Nat := (r.lanesUp + 31) / 32
/-- Groups of the grid (Table 8-4). -/
def LaunchRec.size (r : LaunchRec) : Nat := if r.tcnt ≠ 0 then r.tcnt else r.groups

/-- What groups take of a core: teams, lanes, words of the vector file, slots of the matrix file. -/
structure Load where
  teams : Nat
  lanes : Nat
  vregs : Nat
  mregs : Nat
  deriving DecidableEq, Repr

/-- The sum of two loads. -/
def Load.add (a b : Load) : Load :=
  { teams := a.teams + b.teams, lanes := a.lanes + b.lanes, vregs := a.vregs + b.vregs, mregs := a.mregs + b.mregs }

/-- Whether a load fits an otherwise empty core (Table 0-2, R141, R156). -/
def Load.fits (l : Load) : Bool :=
  l.teams ≤ Config.coreTeams && l.lanes ≤ Config.coreLanes && l.vregs ≤ Config.vectorFile && l.mregs ≤ Config.matrixFile

/-- The load of one group of a record. -/
def LaunchRec.load (r : LaunchRec) : Load :=
  { teams := r.teams, lanes := r.teams * r.lanesUp, vregs := r.teams * (8 * r.v8) * 32 * r.words,
    mregs := r.teams * r.m * 32 * r.words }

/-- L1 ways that a scratchpad of some KiB takes (R39). -/
def waysOf (kib : Nat) : Nat := (kib + 7) / 8

/-- The load of a group: its teams keep their registers until it ends, and its pool holds the blocks that they gave
(R156, R157). -/
def Group.load (g : Group) : Load :=
  let words (t : Team) : Nat := (t.lanes.length + 31) / 32
  let w : Nat := match g.teams with | [] => 0 | (_, t) :: _ => words t
  { teams := g.teams.length
    lanes := (g.teams.map fun t => t.2.lanes.length).sum
    vregs := (g.teams.map fun t => t.2.vregs * 32 * words t.2).sum + g.pool * 8 * 32 * w
    mregs := (g.teams.map fun t => t.2.mregs * 32 * words t.2).sum }

/-- The load of the groups resident on a core. -/
def State.load (s : State) (core : Nat) : Load :=
  (s.groups.filter fun g => g.2.core = core && g.2.place = .resident).foldl (fun l g => l.add g.2.load)
    { teams := 0, lanes := 0, vregs := 0, mregs := 0 }

/-- Whether a core has room for a load and a scratchpad beside its residents: the L1 keeps 4 ways (R39, R141, R156). -/
def State.hasRoom (s : State) (core : Nat) (l : Load) (kib : Nat) : Bool :=
  ((s.load core).add l).fits && waysOf kib + 4 ≤ (s.l1Ways core).length

/-- The error of a record's fields and limits (R187, Table 8-5), the lowest code first (log 10): kind, reserved fields,
values and alignment, limits. -/
def recordError (n : Nat) : Option Nat :=
  let r := LaunchRec.ofNat n
  if bitsOf n 0 8 ≠ 1 then some 1
  else if bitsOf n 24 8 ≠ 0 ∨ bitsOf n 14 2 ≠ 0 ∨ bitsOf n 52 12 ≠ 0 then some 2
  else if r.teams = 0 ∨ 8 < r.teams ∨ r.lanes = 0 ∨ 1024 < r.lanes ∨ ¬ userVA r.code ∨ r.code % 4 ≠ 0 ∨ r.csz = 0 ∨
      160 < r.spad ∨ 16 < r.m ∨ r.v8 = 0 ∨ 8 < r.v8 ∨ r.gsz = 0 ∨ 12 < r.gsz ∨ (¬ r.gang ∧ r.gsz ≠ 1) ∨ r.size = 0 ∨
      ¬ userVA r.caddr ∨ r.caddr % 8 ≠ 0 ∨ ¬ userVA r.tiles ∨ r.tiles % 16 ≠ 0 then some 3
  else if ¬ r.load.fits ∨ r.size % r.gsz ≠ 0 then some 4
  else none

/-- The checks of a launch record made before it is launched (R187, R189, R218): its fields, then the page of its
completion address. -/
def State.checkRecord (s : State) (die asid : Nat) (x : Ctx) (n : Nat) : State × Option QErr :=
  match recordError n with
  | some e => (s, some { code := e, fault := 0 })
  | none =>
    let r := LaunchRec.ofNat n
    if r.caddr = 0 then (s, none)
    else
      let c := s.unitCheck die asid x r.caddr 8 .write
      (c.1, c.2.map fun f => { code := 5, fault := f.cause })

/-- A queue's engine that has started nothing. -/
def Engine.new : Engine := { packets := [], lastCore := none, polled := 0, errCopy := 0, prev := none }

/-- A grid starts waiting for dispatch; behind the grid that it starts early after, or one that failed (R124, R196). -/
def State.startGrid (s : State) (asid : Nat) (r : LaunchRec) (origin : Origin) (pred : Option Nat) (failed : Bool) : State :=
  let d : Grid :=
    { asid := asid, lr := r, origin := origin, next := 0, endedN := 0, started := none, waitSince := none
      early := pred.isSome, pred := pred, predDone := false, predFail := failed, desc := 0, head := [], res := 0
      published := false, killed := false, done := false, expired := none }
  { s with fresh := s.fresh + 1, grids := tset s.grids s.fresh d }

/-- The key under which a grid is served (R192): its queue, or its binding, which counts as one queue. -/
def Grid.key (d : Grid) : Nat := match d.origin with
  | .packet q _ => 256 * q.asid + q.q
  | .window b _ _ => 256 * d.asid + 128 + b

/-- Whether a grid has groups to dispatch. -/
def Grid.waits (d : Grid) : Bool := ¬ d.done && d.next < d.lr.size

/-- A number in a context's memory as a unit reads it, without the effects of reading it; 0 where it cannot be read. -/
def State.peek (s : State) (asid : Nat) (x : Ctx) (va n : Nat) : Nat :=
  match (s.unitNat 0 asid x va n).2 with
  | .ok v => v
  | .error _ => 0

/-- Whether the CSEQ of a grid's queue has reached the WSEQ of its record (Table 8-4). -/
def State.wseqOk (s : State) (d : Grid) : Bool :=
  match d.origin with
  | .window _ _ _ => true
  | .packet q _ => d.lr.wseq = 0 || match tget s.ctxs q.asid with
    | none => false
    | some x => match tget x.queues q.q with
      | none => false
      | some va => d.lr.wseq ≤ s.peek q.asid x (va + 0x10) 4

/-- The grids whose next group (or gang) may be dispatched (R192): the earliest of each queue, once its WSEQ is reached. -/
def State.headGrids (s : State) : List (Nat × Grid) :=
  (s.grids.filter fun d => d.2.waits).filter fun d =>
    s.wseqOk d.2 && ¬ s.grids.any fun e => e.2.waits && e.2.key = d.2.key && e.1 < d.1

/-- Cores of a die set in the order that a search takes them: from the core after the last one used (R192). -/
def coreOrder (dies : BitVec 8) (last : Option Nat) : List Nat :=
  let start : Nat := match last with | none => 0 | some c => c + 1
  ((List.range Config.cores).map fun i => (start + i) % Config.cores).filter fun c => dies.getLsbD (dieOf c)

/-- Whether a gang of n members of a record has room on cores c to c + n - 1 of one cell (R141, R194). -/
def State.gangRoom (s : State) (r : LaunchRec) (core : Nat) : Bool :=
  core % 16 + r.gsz ≤ 16 && (List.range r.gsz).all fun i => s.hasRoom (core + i) r.load r.spad

/-- The last core used for a key. -/
def State.lastCore (s : State) (key : Nat) : Option Nat := match tget s.engines key with
  | none => none
  | some e => e.lastCore

/-- The first core of a search that has room for the next group or gang of a grid (R192, R194). -/
def State.coreFor (s : State) (d : Grid) : Option Nat :=
  (coreOrder d.lr.dieSet (s.lastCore d.key)).find? fun c => s.gangRoom d.lr c

/-- The core on which the next group or gang of a grid is placed, if there is one; a private slot is free for each (R31). -/
def State.placeFor (s : State) (d : Grid) : Option Nat :=
  match tget s.ctxs d.asid with
  | none => none
  | some x => if x.kill ≠ .live ∨ x.nslot < x.privUsed.length + d.lr.gsz then none else s.coreFor d

/-- Grids in the order in which they are served (R192): priority, then round-robin after the key that was served last at that
priority. -/
def State.served (s : State) : List (Nat × Grid) :=
  let turn (d : Grid) : Nat := match tget s.lastQ d.lr.prio with
    | none => d.key
    | some q => (d.key + 2 ^ 20 - (q + 1)) % 2 ^ 20
  sortBy (fun d => (3 - d.2.lr.prio) * 2 ^ 20 + turn d.2) s.headGrids

/-- Whether the predecessor of an early grid has retired (R124): its completion is written, or the launch unit has said so to
the grid's groups. -/
def State.predOver (s : State) (d : Grid) : Bool :=
  d.predDone || match d.pred with
    | none => false
    | some a => match tget s.grids a with
      | none => false
      | some e => e.done && ¬ e.killed

/-- Whether a grid may take room now: an early one not while a group of higher priority waits (R196). -/
def State.mayPlace (s : State) (d : Grid) : Bool :=
  ¬ (d.early && ¬ s.predOver d) || ¬ s.headGrids.any fun e => d.lr.prio < e.2.lr.prio

/-- Ways leave the L1 for scratchpad: the highest-numbered ones that it holds; their dirty lines are written back, their
clean lines dropped (R40, R417). -/
def State.takeWays (s : State) (core n : Nat) : State × List Nat :=
  let ws := (s.l1Ways core).reverse.take n
  let lines := ((s.core core).l1.filter fun l => ws.contains l.way).map Line.line
  (lines.foldl (fun s l => s.l1Evict core l) s, ws)

/-- Team slots of a core in use. An ended team of a group that is resident keeps its slot, and takes one again when its group
resumes: whether it does the spec does not say (R142; DESIGN CHOICE, log 74). -/
def State.teamSlots (s : State) (core : Nat) : List Nat :=
  (s.groups.filter fun g => g.2.core = core && g.2.place = .resident).flatMap fun g => g.2.teams.map fun t => t.2.slotId

/-- The lowest n team slots not in use (R142). -/
def freeSlots (used : List Nat) (n : Nat) : List Nat :=
  ((List.range Config.coreTeams).filter fun i => ¬ used.contains i).take n

/-- A path at the start of its team (R143). -/
def Path.start (mask : LaneSet) (pc : Nat) : Path :=
  { mask := mask, pc := pc, clause := none, jp := none, s := [], sWritten := 0, futstat := 0, cycLatch := none
    etLatch := none, heldDone := none, grant := .none, status := .running, since := none, missed := 0, wake := none }

/-- A team at its start (R143): one path with every lane, registers zero, p7 true. -/
def Team.start (slotId : Nat) (r : LaunchRec) : Team :=
  { slotId := slotId, lanesN := r.lanes, vregs := 8 * r.v8, mregs := r.m
    lanes := (List.range r.lanesUp).map fun l => (l, Lane.start)
    paths := [(0, Path.start (maskBits 1024 0 r.lanesUp) r.code)]
    splits := [], markers := [], done := [], fpc := 0, fsr := 0, mxstat := 0, outst := [], landing := []
    trap := none, wdog := false, issued := 0, ended := false }

/-- One group placed on a core (R56, R124, R142, R143, R192): ways, private slot, team slots, teams at their start; the
core acquires at system rank. Which free private slot a group takes the spec does not say: the lowest (DESIGN CHOICE, log 75). -/
def State.placeGroup (s : State) (grid : Nat) (d : Grid) (index gang member core : Nat) : State :=
  let w := s.takeWays core (waysOf d.lr.spad)
  let s := w.1.acquire core 5
  let slots := freeSlots (s.teamSlots core) d.lr.teams
  let priv : Nat := match tget s.ctxs d.asid with
    | none => 0
    | some x => (lowestFree x.nslot x.privUsed).getD 0
  let gid := s.fresh
  let g : Group :=
    { asid := d.asid, grid := grid, index := index, gang := gang, member := member, core := core, firstCore := core
      ways := w.2, spadKiB := d.lr.spad, spad := [], spadPoison := [], privSlot := priv, pool := 0, succ := false
      predPhase := ¬ (d.early && ¬ s.predOver d), predErr := d.predFail
      teams := slots.zipIdx.map fun e => (e.2, Team.start e.1 d.lr)
      place := .resident, tiles := [] }
  let s := { s with fresh := gid + 1, groups := tset s.groups gid g }
  let s := s.modCtx d.asid fun x => { x with privUsed := x.privUsed ++ [priv] }
  (List.range d.lr.teams).foldl (fun s role => s.activate core { gid := gid, role := role }) s

/-- The next group or gang of a grid placed at a core, all members at once (R194); the grid's timer starts (R178). -/
def State.dispatch (s : State) (grid : Nat) (d : Grid) (core : Nat) : State :=
  let gang := s.fresh
  let s := { s with fresh := gang + 1, gangs := tset s.gangs gang { size := d.lr.gsz } }
  let s := (List.range d.lr.gsz).foldl (fun s m => s.placeGroup grid d (d.next + m) gang m (core + m)) s
  let s := s.modGrid grid fun d => { d with
    next := d.next + d.lr.gsz
    started := if d.started.isNone then some s.etime else d.started
    waitSince := none }
  let e : Engine := (tget s.engines d.key).getD Engine.new
  { s with lastQ := tset s.lastQ d.lr.prio d.key, engines := tset s.engines d.key { e with lastCore := some (core + d.lr.gsz - 1) } }

/-- A grid whose next group no core has room for counts its wait from now on; one that would find room waits no more (R193). -/
def State.noteWait (s : State) (n : Nat) (d : Grid) : State :=
  if (s.coreFor d).isSome then s.modGrid n fun d => { d with waitSince := none }
  else if d.waitSince.isNone then s.modGrid n fun d => { d with waitSince := some s.etime }
  else s

/-- GROUP_DISPATCH (R192, R194, R196): the first group in the order of service that has room is placed; of the others, those
that find none count their wait (R193). That a group is placed while one of higher priority finds no room the spec does not say
(DESIGN CHOICE, log 88). -/
def execGroupDispatch (s : State) : Res :=
  let pick := s.served.findSome? fun d =>
    if s.mayPlace d.2 then (s.placeFor d.2).map fun c => (d, c) else none
  let rest := s.headGrids.filter fun d => (pick.map fun p => p.1.1) ≠ some d.1
  .next <| rest.foldl (fun s d => s.noteWait d.1 d.2) <| match pick with
    | some (d, c) => s.dispatch d.1 d.2 c
    | none => s

/-- PREDECESSOR_ARRIVAL (R124, R90): once the predecessor of an early grid has retired, the predecessor object of each of
its groups goes to phase 1 and its sleepers wake; the predecessor's writes are visible at module scope. -/
def execPredecessorArrival (s : State) : Res :=
  match s.input with
  | .one n => .next <| match tget s.grids n with
    | none => s
    | some d => match d.pred with
      | none => s
      | some a => match tget s.grids a with
        | none => s
        | some e =>
          if ¬ e.done ∨ e.killed ∨ d.predDone then s else
          let s := s.deliverInv.modGrid n fun d => { d with predDone := true }
          { s with groups := tmap s.groups fun _ g =>
              if g.grid ≠ n then g else
              { g with
                predPhase := true
                teams := tmap g.teams fun _ t => { t with paths := tmap t.paths fun _ p =>
                  if p.status = .asleepPred then { p with status := .running } else p } } }
  | _ => .next s

end Sys2Proof.Machine
end

