-- ==== Sys2Proof/Machine/Frames.lean ====
section
/-! DEFINITION. Transport frames (18 R395 to R397): channels and their sequence numbers, sending, and the performance of a
received frame in its order. -/

namespace Sys2Proof.Machine

/-- A channel on which nothing has been sent. -/
def Channel.new : Channel := { next := 0, sent := [], failed := false }

/-- The channel of a context to a peer. -/
def Ctx.channel (x : Ctx) (peer : Nat) : Channel := (tget x.channels peer).getD Channel.new

/-- The way to a peer (Table 18-1): PEERn bits 51:48 give the port, bits 47:0 the MAC address. -/
def State.link (s : State) (peer : Nat) : Link :=
  let v := ((tget s.host.peers peer).getD 0).toNat
  { port := bitsOf v 48 4, mac := bitsOf v 0 48 }

/-- The header flit of a frame (R395), 64 bytes: both peer ids, the remote ASID, the channel sequence, the type, REL, and what
the type's row of Table 18-3 adds. Where they lie in it the spec does not say (log 52). -/
def headerFlit (h : FrameHdr) (kind : Nat) (args : List Byte) : List Byte :=
  (bytesLE 2 h.sender ++ bytesLE 2 h.receiver ++ bytesLE 2 h.asid ++ bytesLE 2 h.src ++ bytesLE 4 h.seq ++ bytesLE 1 kind ++
    bytesLE 1 (if h.rel then 1 else 0) ++ args ++ List.replicate 64 0).take 64

/-- The payload flits of a frame (R395): 0 to 64 of 64 bytes each, the last filled up with zeros. -/
def payloadFlits (bs : List Byte) : List (List Byte) :=
  (List.range ((bs.length + 63) / 64)).map fun i => ((bs.drop (64 * i)).take 64 ++ List.replicate 64 0).take 64

/-- A frame leaves over the peer's port; PEERn bit 63 says whether the peer is valid (Table 18-1). -/
def State.emitFrame (s : State) (peer src : Nat) (f : Sent) : State :=
  let h : FrameHdr :=
    { sender := Config.ownPeer.toNat, receiver := peer, src := src, asid := f.remote, seq := f.seq, rel := f.rel }
  if ((tget s.host.peers peer).getD 0).getLsbD 63 then
    { s with out := s.out ++ [Out.frame (s.link peer) (headerFlit h f.kind f.args :: payloadFlits f.bytes)] }
  else s

/-- A frame sent on a channel (R395, R397): it takes the channel's next sequence number and is held until it is
acknowledged. A failed channel sends nothing. -/
def State.sendFrame (s : State) (asid peer : Nat) (f : Sent) : State :=
  match tget s.ctxs asid with
  | none => s
  | some x =>
    let ch := x.channel peer
    if ch.failed then s else
    let f : Sent := { f with seq := ch.next, tries := 1, since := s.etime }
    let s := s.modCtx asid fun x => { x with channels := tset x.channels peer { ch with
      next := (ch.next + 1) % 2 ^ 32, sent := ch.sent ++ [f] } }
    s.emitFrame peer asid f

/-- A frame before it takes its place in a channel: its path, type, remote context, REL, result address, what its header flit
holds beside, payload. -/
def Sent.new (path : Option Ref) (kind remote : Nat) (rel : Bool) (resVA : Nat) (args bytes : List Byte) : Sent :=
  { path := path, seq := 0, kind := kind, remote := remote, rel := rel, resVA := resVA, args := args, bytes := bytes, tries := 0
    since := 0 }

/-- The channel that a received frame came on. -/
def frameKey (h : FrameHdr) : Nat := 4096 * h.sender + h.src

/-- A receiving end that has performed nothing. -/
def Recv.new : Recv := { next := 0, olds := [], wait := none }

/-- The receiving end of a frame's channel. -/
def State.recvOf (s : State) (h : FrameHdr) : Recv := (tget s.recv (frameKey h)).getD Recv.new

/-- An answer to a peer leaves over its port, if PEERn holds a valid peer (Table 18-1). -/
def State.answerPeer (s : State) (h : FrameHdr) (o : Out) : State :=
  if ((tget s.host.peers h.sender).getD 0).getLsbD 63 then { s with out := s.out ++ [o] } else s

/-- A positive acknowledgement sent back, with the old value of an atomic. -/
def State.sendAck (s : State) (h : FrameHdr) (old : BitVec 64) : State :=
  s.answerPeer h (.ack (s.link h.sender) h.reply old)

/-- A negative acknowledgement sent back. -/
def State.nack (s : State) (h : FrameHdr) : State := s.answerPeer h (.nack (s.link h.sender) h.reply)

/-- What the performance of a frame gives: its effect cannot be performed, it is done with an old value, or it has begun and
waits. -/
inductive Performed where
  | refused
  | done (s : State) (old : BitVec 64)
  | waits (s : State) (w : NetWait)

/-- The end of a frame's performance at the receiving end `r` of its channel (R397): REL releases at system scope after the
frame's writes. -/
def State.conclude (s : State) (h : FrameHdr) (r : Recv) : Performed → State
  | .refused => s.nack h
  | .done t old =>
    let t := if h.rel then t.deliverInv else t
    ({ t with recv := tset t.recv (frameKey h) { next := (h.seq + 1) % 2 ^ 32, olds := tset r.olds h.seq old, wait := none } } : State).sendAck
      h old
  | .waits t w => { t with recv := tset t.recv (frameKey h) { r with wait := some (h, w) } }

/-- A frame performed in the order of its channel (R397): one ahead of its turn draws a negative acknowledgement, one
performed before is acknowledged again with what it gave, and one that cannot be performed is refused so (log 54). One whose
performance waits is not begun again. -/
def State.receive (s : State) (h : FrameHdr) (f : State → Ctx → Performed) : State :=
  let r := s.recvOf h
  if h.seq = r.next then
    match tget s.ctxs h.asid with
    | none => s.nack h
    | some x =>
      if x.kill ≠ .live then s.nack h
      else if r.wait.isSome then s
      else s.conclude h r (f s x)
  else if (r.next + 2 ^ 32 - h.seq) % 2 ^ 32 < 2 ^ 31 then s.sendAck h ((tget r.olds h.seq).getD 0)
  else s.nack h

/-- Bytes written at home slices by the transport engine, once every page allows it. -/
def State.netWrite (s : State) (asid : Nat) (x : Ctx) (va : Nat) (bs : List Byte) : Option State :=
  let c := s.unitCheck 0 asid x va bs.length .write
  match c.2 with
  | some _ => none
  | none => some <| (pieces va bs.length).foldl (fun s p => match s.unitXlat 0 asid x p.1 .write with
      | (t, .ok y) => t.pageWrite .outside y 0 ((bs.drop (p.1 - va)).take p.2)
      | (t, .error _) => t) c.1

/-- The packet of a claimed append is written where its queue has room (R183 steps 2 to 4): bytes 4 to 63 of its slot, then word
0 with its lap's phase and a release at system scope (Table 18-3). -/
def State.netRoom (s : State) (asid : Nat) (x : Ctx) (hdr index : Nat) (packet : List Byte) : Performed :=
  match s.unitRead 0 asid x hdr 64 with
  | (_, .error _) => .refused
  | (s, .ok bs) =>
    let n := natLE bs
    let log := bitsOf n 192 5
    if 2 ^ log ≤ (index + 2 ^ 64 - bitsOf n 64 64) % 2 ^ 64 then .waits s (.room hdr index packet) else
    let slot := hdr + 64 + 64 * (index % 2 ^ log)
    let w0 := natLE (packet.take 4)
    match s.netWrite asid x (slot + 4) (packet.drop 4) with
    | none => .refused
    | some s => match s.deliverInv.netWrite asid x slot
          (bytesLE 4 (w0 - (if bitOf w0 8 then 256 else 0) + 256 * (index / 2 ^ log % 2))) with
      | none => .refused
      | some s => .done s 0

/-- A packet appended by the transport engine (R183, Table 18-3): the pages of the header and of the slot are checked, an index
is claimed by an ADD on WRIDX, and the packet waits for room. -/
def State.netAppend (s : State) (asid : Nat) (x : Ctx) (hdr : Nat) (packet : List Byte) : Performed :=
  match s.unitRead 0 asid x hdr 64 with
  | (_, .error _) => .refused
  | (s, .ok bs) =>
    let n := natLE bs
    let w := bitsOf n 0 64
    match (s.unitCheck 0 asid x (hdr + 64 + 64 * (w % 2 ^ bitsOf n 192 5)) 64 .write).2 with
    | some _ => .refused
    | none => match s.netWrite asid x hdr (bytesLE 8 (w + 1)) with
      | none => .refused
      | some s => s.netRoom asid x hdr w packet

/-- A claimed append of a channel is taken up again (R183): its queue may have room now. -/
def State.netRetry (s : State) (key : Nat) : State :=
  match tget s.recv key with
  | none => s
  | some r => match r.wait with
    | some (h, .room hdr index packet) => match tget s.ctxs h.asid with
      | none => s
      | some x =>
        let r' : Recv := { r with wait := none }
        let t : State := { s with recv := tset s.recv key r' }
        if x.kill ≠ .live then s else t.conclude h r' (t.netRoom h.asid x hdr index packet)
    | _ => s

end Sys2Proof.Machine
end

