-- ==== Sys2Proof/Machine/Streams.lean ====
section
/-! DEFINITION. Streams (09 R208 to R224): watermarks, sources and their states, appends and reservations, placement, the
stage watermark, output advances, and the headers of window results. -/

namespace Sys2Proof.Machine

/-- Watermark +∞ (R208). -/
def wmMax : Int := 2 ^ 63 - 1
/-- Watermark −∞ (R208). -/
def wmMin : Int := -(2 ^ 63)
/-- The signed value of 64 bits. -/
def i64 (n : Nat) : Int := if n % 2 ^ 64 < 2 ^ 63 then ((n % 2 ^ 64 : Nat) : Int) else ((n % 2 ^ 64 : Nat) : Int) - 2 ^ 64
/-- The 64 bits of a signed value. -/
def u64 (z : Int) : Nat := (z % 2 ^ 64).toNat
/-- Event times in range (R208). -/
def timeOk (t : Int) : Bool := decide (-(2 ^ 62) ≤ t) && decide (t < 2 ^ 62)
/-- A 64-bit count that saturates. -/
def satInc (n : Nat) : Nat := min (n + 1) (2 ^ 64 - 1)

/-- A context's source. -/
def State.source (s : State) (asid src : Nat) : Option (Ctx × Source) :=
  match tget s.ctxs asid with
  | none => none
  | some x => (tget x.sources src).map fun k => (x, k)

/-- A context's binding. -/
def State.binding (s : State) (asid b : Nat) : Option (Ctx × Binding) :=
  match tget s.ctxs asid with
  | none => none
  | some x => (tget x.bindings b).map fun k => (x, k)

/-- The state with a source changed. -/
def State.modSource (s : State) (asid src : Nat) (f : Source → Source) : State :=
  s.modCtx asid fun x => { x with sources := tmod x.sources src f }

/-- The state with a binding changed. -/
def State.modBinding (s : State) (asid b : Nat) (f : Binding → Binding) : State :=
  s.modCtx asid fun x => { x with bindings := tmod x.bindings b f }

/-- The die on which a virtual address is homed; 0 where it does not translate. -/
def State.homeOf (s : State) (asid : Nat) (x : Ctx) (va : Nat) : Nat :=
  match (s.unitXlat 0 asid x va .read).2 with
  | .ok y => homeDie y.pa
  | .error _ => 0

/-- Bytes written by a unit of a die, poisoned where what they come from is (R68); what a page refuses is dropped. -/
def State.putData (s : State) (die asid va : Nat) (bs : List Byte) (bad : Bool) : State :=
  match tget s.ctxs asid with
  | none => s
  | some x =>
    let s := (s.unitWrite die asid x va bs).1
    if ¬ bad then s else
    (pieces va bs.length).foldl (fun s p => match s.unitXlat die asid x p.1 .write with
      | (t, .ok y) => if isDeviceMem y.pa then { t with poison := t.poison ++ (List.range p.2).map fun i => y.pa + i } else t
      | (t, .error _) => t) s

/-- Code of a source's state (Table 9-1). -/
def SrcState.code : SrcState → Nat
  | .active => 0
  | .idle => 1
  | .closed => 2

/-- A status field of 8 bytes written into a descriptor when it has changed (R209). -/
def State.putField (s : State) (asid va old new : Nat) : State := if old = new then s else s.put asid va (bytesLE 8 new)

/-- The last word of a source's descriptor: STATE and its export fields (Table 9-1). -/
def Source.stateWord (k : Source) : Nat :=
  2 ^ 62 * k.state.code + (if k.xen then 2 ^ 24 else 0) + 2 ^ 16 * k.xsrc + k.xpeer

/-- The status fields of a source that have changed from `old`, written into its descriptor (R209, Table 9-1); RDIDX may
belong to a software consumer. -/
def State.srcStatus (s : State) (asid src : Nat) (old : Source) : State :=
  match s.source asid src with
  | none => s
  | some (x, k) =>
    let va := x.strtab + 64 * src
    let s := s.putField asid (va + 0x10) old.wridx k.wridx
    let s := if k.swc then s else s.putField asid (va + 0x18) old.rdidx k.rdidx
    let s := s.putField asid (va + 0x20) (u64 old.swm) (u64 k.swm)
    let s := s.putField asid (va + 0x28) old.lastact k.lastact
    s.putField asid (va + 0x30) old.stateWord k.stateWord

/-- The status fields of a binding that have changed from `old`, written into its descriptor (R209, Table 9-2). -/
def State.bindStatus (s : State) (asid b : Nat) (old : Binding) : State :=
  match s.binding asid b with
  | none => s
  | some (x, k) =>
    let va := x.strtab + 0x4000 + 256 * b
    let s := s.putField asid (va + 0x88) old.toolate k.toolate
    let s := s.putField asid (va + 0x90) old.ovfcnt k.ovfcnt
    let s := s.putField asid (va + 0x98) old.dldrop k.dldrop
    let s := s.putField asid (va + 0xA0) (u64 old.stagewm) (u64 k.stagewm)
    s.putField asid (va + 0xA8) (u64 old.outwm) (u64 k.outwm)

/-- The bindings that read a source (R216). -/
def Ctx.readers (x : Ctx) (src : Nat) : List (Nat × Binding) :=
  x.bindings.filter fun b => b.2.en && b.2.inputs.getLsbD src

/-- An item given to every binding that reads a source, in the order of that source (R217). -/
def State.tell (s : State) (asid src : Nat) (i : Item) : State :=
  let give (b : Binding) : Binding := if b.en && b.inputs.getLsbD src then { b with todo := b.todo ++ [i] } else b
  s.modCtx asid fun x => { x with bindings := tmap x.bindings fun _ b => give b }

/-- The source that an item came from. -/
def Item.src : Item → Nat
  | .record i _ _ _ => i
  | .change i _ _ => i

/-- Start and end of a window (R216). -/
def Binding.winStart (b : Binding) (k : Int) : Int := b.origin + k * b.slide
/-- End of a window. -/
def Binding.winEnd (b : Binding) (k : Int) : Int := b.winStart k + b.length

/-- The windows that hold an event time, in ascending order (R216); none for a time out of range (R208). -/
def Binding.windowsOf (b : Binding) (t : Int) : List Int :=
  if timeOk t then
    let lo := Int.fdiv (t - b.origin - b.length) b.slide + 1
    let hi := Int.fdiv (t - b.origin) b.slide
    (List.range (hi - lo + 1).toNat).map fun (i : Nat) => lo + (i : Int)
  else []

/-- The slot in which a window is open. -/
def Binding.slotOf (b : Binding) (k : Int) : Option Nat := (b.windows.find? fun w => w.2.k = k).map Prod.fst

/-- A window just reserved. -/
def Window.new (k : Int) (buf : Nat) : Window :=
  { k := k, buf := buf, n := 0, ovf := false, transited := false, count := 0, running := none, version := 0, published := 0
    oldest := 0, final := false, freeing := .no, timer := false }

/-- Reservation for a record (R216, R410): the lowest free window slot and the lowest free buffer for each window that is
not open and not yet too late; none where they do not suffice. -/
def Binding.reserve (b : Binding) (t : Int) : Option Binding :=
  (b.windowsOf t).foldl (fun e k => match e with
    | none => none
    | some b =>
      if (b.slotOf k).isSome ∨ b.winEnd k + b.lateness ≤ b.stagewm then some b
      else match lowestFree 64 (tkeys b.windows), lowestFree b.nbuf b.bufs with
        | some w, some u => some { b with windows := tset b.windows w (Window.new k u), bufs := b.bufs ++ [u] }
        | _, _ => none) (some b)

/-- A record to append: the 128 bits of its header (Table 9-3) and its payload. -/
structure NewRec where
  head    : Nat
  payload : List Byte
  poison  : Bool
  deriving DecidableEq, Repr

/-- Event time of a header. -/
def timeOf (head : Nat) : Int := i64 (head % 2 ^ 64)

/-- The records of a source that have not been binned by every binding that reads it (R210). -/
def Ctx.waiting (x : Ctx) (src : Nat) : List Nat :=
  (x.readers src).flatMap fun b => b.2.todo.filterMap fun i => match i with
    | .record k n _ _ => if k = src then some n else none
    | .change _ _ _ => none

/-- How far an index lies before the write index of a source; indices are 64-bit counts (Table 9-1). -/
def Source.behind (k : Source) (n : Nat) : Nat := (k.wridx + 2 ^ 64 - n) % 2 ^ 64

/-- RDIDX of a source whose consumer is the unit (R210): the oldest record that some binding has not binned. -/
def State.freeRing (s : State) (asid src : Nat) : State :=
  let set (x : Ctx) (k : Source) : Source :=
    if k.swc then k else
    let back := ((x.waiting src).map k.behind).foldl max 0
    { k with rdidx := (k.wridx + 2 ^ 64 - back) % 2 ^ 64 }
  s.modCtx asid fun x => { x with sources := tmod x.sources src (set x) }

/-- RDIDX of the sources that a set names, once a binding that read them has gone (R210), with their status fields. -/
def State.freeRings (s : State) (asid : Nat) (srcs : BitVec 256) : State :=
  (bitList srcs 256).foldl (fun s i => match s.source asid i with
    | none => s
    | some (_, k) => (s.freeRing asid i).srcStatus asid i k) s

/-- RDIDX as the unit knows it; a software consumer's is read from the descriptor (R209, R210). -/
def State.takeRdidx (s : State) (asid src : Nat) : State :=
  match s.source asid src with
  | none => s
  | some (x, k) =>
    if ¬ k.swc then s else
    let r := s.unitNat 0 asid x (x.strtab + 64 * src + 0x18) 8
    match r.2 with
    | .ok n => r.1.modSource asid src fun k => { k with rdidx := n }
    | .error _ => r.1

/-- The address of a ring slot (R210). -/
def Source.slotVA (k : Source) (j : Nat) : Nat := k.ring + j % 2 ^ k.nLog * 2 ^ k.slotLog

/-- Payload bytes that a slot of a source holds (R212). -/
def Source.limit (k : Source) : Nat := 2 ^ k.slotLog - 16

/-- One record appended to a source (R212 to R214, R216), where the ring has room, the source is not CLOSED and every
binding that reads it can reserve its windows; FROMIDLE is set when it ends an IDLE state and `mark` allows it. -/
def State.append (s : State) (asid src : Nat) (r : NewRec) (mark : Bool) : State × Bool :=
  let s := s.takeRdidx asid src
  match s.source asid src with
  | none => (s, false)
  | some (x, k) =>
    if ¬ k.en ∨ k.state = .closed ∨ 2 ^ k.nLog ≤ k.behind k.rdidx then (s, false)
    else
      let t := timeOf r.head
      let got := (x.readers src).map fun b => (b.1, b.2.reserve t)
      if got.any (fun b => b.2.isNone) then (s, false)
      else
        let s := got.foldl (fun s e => match e.2 with
          | none => s
          | some b => s.modBinding asid e.1 fun _ => b) s
        let head := r.head + (if mark ∧ k.state = .idle then 2 ^ 113 else 0)
        let bytes := bytesLE 16 head ++ r.payload
        let pad := List.replicate (2 ^ k.slotLog - bytes.length) (0#8)
        let s := s.putData (s.homeOf asid x k.ring) asid (k.slotVA k.wridx) (bytes ++ pad) r.poison
        let s := s.modSource asid src fun k => { k with wridx := (k.wridx + 1) % 2 ^ 64, lastact := s.etime, state := .active }
        let s := s.tell asid src (.record src k.wridx bytes r.poison)
        let s := if k.state = .idle then s.tell asid src (.change src k.swm .active) else s
        ((s.freeRing asid src).srcStatus asid src k, true)

/-- A change of SWM or STATE of a source (R214, R215) from `old`: told to the bindings that read it, and exported to a
peer where XEN is set and SWM changed (R222). -/
def State.changed (s : State) (asid src : Nat) (old : Source) : State :=
  match s.source asid src with
  | none => s
  | some (_, k) =>
    let s := (s.tell asid src (.change src k.swm k.state)).srcStatus asid src old
    if k.xen ∧ k.swm ≠ old.swm then
      s.deliverInv.sendFrame asid k.xpeer (Sent.new none 4 asid false 0 (bytesLE 8 k.xsrc ++ bytesLE 8 (u64 k.swm)) [])
    else s

/-- WMADV on a source (Table 9-5, R363): a value above SWM raises it, and LASTACT is set in state ACTIVE; a value that is not
above it changes nothing, and CLOSED ignores every one. -/
def State.wmadv (s : State) (asid src : Nat) (w : Int) : State :=
  match s.source asid src with
  | none => s
  | some (_, k) =>
    if ¬ k.en ∨ k.state = .closed ∨ w ≤ k.swm then s else
    (s.modSource asid src fun k => { k with
      swm := w, lastact := if k.state = .active then s.etime else k.lastact }).changed asid src k

/-- SCLOSE on a source (Table 9-5). -/
def State.sclose (s : State) (asid src : Nat) : State :=
  match s.source asid src with
  | none => s
  | some (_, k) =>
    if ¬ k.en ∨ k.state = .closed then s else
    (s.modSource asid src fun k => { k with swm := wmMax, state := .closed }).changed asid src k

/-- A binding's advance of its output source, a release at module scope (R94, R222): carried over the fabric when the source
lives on another die. -/
def State.outSend (s : State) (asid : Nat) (k : Binding) (w : Option Int) : State :=
  let s := s.deliverInv
  match s.source asid k.outsrc with
  | none => s
  | some (x, o) =>
    if s.homeOf asid x o.ring ≠ k.die then s.modCtx asid fun x => { x with carried := x.carried ++ [(k.outsrc, w)] }
    else match w with
      | some w => s.wmadv asid k.outsrc w
      | none => s.sclose asid k.outsrc

/-- Whether a window is due for its transit (R218): it holds a record and STAGEWM has reached its end. -/
def Binding.due (b : Binding) (w : Window) : Bool := ¬ w.transited && decide (0 < w.n) && decide (b.winEnd w.k ≤ b.stagewm)

/-- OutAdvance (R222); a window that is due counts as transited. -/
def State.outAdvance (s : State) (asid b : Nat) : State :=
  match s.binding asid b with
  | none => s
  | some (_, k) =>
    if ¬ k.outen ∨ ¬ k.en then s else
    let hold := k.windows.filter fun w => (w.2.transited || k.due w.2) && w.2.published = 0
    let e := hold.foldl (fun e w => min e (k.winEnd w.2.k - 1)) k.stagewm
    let s := if k.outwm < e then
        ((s.modBinding asid b fun k => { k with outwm := e }).outSend asid k (some e)).bindStatus asid b k
      else s
    if k.stagewm = wmMax ∧ k.windows.isEmpty then s.outSend asid k none else s

/-- The stage watermark that a binding's view of its inputs gives (R215). -/
def Binding.stage (b : Binding) : Int :=
  let live := b.view.filter fun i => i.2.2 = .active
  let m := if b.view.all (fun i => i.2.2 = .closed) then wmMax
    else match live with
      | [] => b.stagewm
      | i :: is => is.foldl (fun m i => min m i.2.1) i.2.1
  max b.stagewm m

/-- The address of a window's buffer, also its name (R218). -/
def Binding.bufVA (b : Binding) (u : Nat) : Nat := b.bufpool + u * (b.bincap * 2 ^ b.bslot)

/-- A record copied to a bin slot of a window (R216). -/
def State.toBin (s : State) (asid b : Nat) (k : Binding) (slot : Nat) (w : Window) (src : Nat) (bytes : List Byte) (bad : Bool) :
    State :=
  let head := natLE (bytes.take 16)
  let late : Bool := k.winEnd w.k ≤ k.stagewm
  let head := head % 2 ^ 112 + (if late then 2 ^ 112 else 0) + 2 ^ 113 * bitsOf head 113 7 + 2 ^ 120 * src
  let out := bytesLE 16 head ++ bytes.drop 16
  let pad := List.replicate (2 ^ k.bslot - out.length) (0#8)
  let s := s.putData k.die asid (k.bufVA w.buf + w.n * 2 ^ k.bslot) (out ++ pad) bad
  s.modBinding asid b fun k => { k with windows := tmod k.windows slot fun w => { w with
    n := w.n + 1, oldest := if w.n = w.count then s.etime else w.oldest } }

/-- A record too late for every window copied to the dead-letter source (R221); a copy that is not appended, one that its
slot cannot hold among them, is counted in DLDROP (log 46). The copy is a RAPP at module scope (R95). -/
def State.deadLetter (s : State) (asid b : Nat) (k : Binding) (src : Nat) (bytes : List Byte) (bad : Bool) : State :=
  let head := natLE (bytes.take 16) % 2 ^ 120 + 2 ^ 120 * src
  let fits : Bool := match s.source asid k.dlsrc with
    | none => false
    | some (_, d) => bytes.length ≤ 2 ^ d.slotLog
  let r := if fits then s.deliverInv.append asid k.dlsrc { head := head, payload := bytes.drop 16, poison := bad } false else (s, false)
  if r.2 then r.1 else r.1.modBinding asid b fun k => { k with dldrop := satInc k.dldrop }

/-- Place (R216): a record goes into each of its windows that is not too late. -/
def State.place (s : State) (asid b src : Nat) (bytes : List Byte) (bad : Bool) : State :=
  match s.binding asid b with
  | none => s
  | some (_, k) =>
    let t := timeOf (natLE (bytes.take 16))
    let late (s : State) : State := s.modBinding asid b fun k => { k with toolate := satInc k.toolate }
    let r := (k.windowsOf t).foldl (fun (e : State × Bool) i =>
      if k.winEnd i + k.lateness ≤ k.stagewm then (late e.1, e.2)
      else match e.1.binding asid b with
        | none => e
        | some (_, kb) => match kb.slotOf i with
          | none => e
          | some slot => match tget kb.windows slot with
            | none => e
            | some w =>
              if w.n = k.bincap then
                (e.1.modBinding asid b fun k => { k with
                  ovfcnt := satInc k.ovfcnt
                  windows := tmod k.windows slot fun w => { w with ovf := true } }, true)
              else (e.1.toBin asid b k slot w src bytes bad, true)) (if timeOk t then s else late s, false)
    let s := if ¬ r.2 ∧ k.dlen then r.1.deadLetter asid b k src bytes bad else r.1
    s.bindStatus asid b k

/-- The first item of a source that a binding has not taken up. -/
def Binding.nextOf (b : Binding) (src : Nat) : Option Item := b.todo.find? fun i => i.src = src

/-- Whether an item is a change of SWM or STATE. -/
def Item.isChange : Item → Bool
  | .record _ _ _ _ => false
  | .change _ _ _ => true

/-- Whether a change stands before the first item of a source. A record is placed after every change made before its append, of
whichever source (R112, Table 4-28); a change may overtake records of other sources (R217). -/
def Binding.changeFirst (b : Binding) (src : Nat) : Bool := (b.todo.takeWhile fun i => i.src ≠ src).any Item.isChange

/-- A binding without the first item of a source. -/
def Binding.taken (b : Binding) (src : Nat) : Binding := { b with todo := b.todo.eraseP fun i => i.src = src }

/-- Whether a binding may take its next step: its transits come first (R215, R217). -/
def Binding.free (b : Binding) : Bool := b.en && ¬ b.windows.any fun w => b.due w.2

/-- The result header of a window (Table 9-7) from what its grid's descriptor holds. -/
def Binding.header (b : Binding) (w : Window) : List Byte :=
  bytesLE 8 (u64 w.k) ++ bytesLE 4 w.version ++ bytesLE 4 w.count ++ bytesLE 8 (u64 (b.winStart w.k)) ++
    bytesLE 8 (u64 (b.winEnd w.k))

/-- The window descriptor (Table 9-4) of a grid that sees slots up to `count`, the first new one being `first`. -/
def Binding.descriptor (b : Binding) (slot : Nat) (w : Window) (first : Nat) (amend : Bool) : List Byte :=
  let flags := (if w.ovf then 1 else 0) + (if amend then 2 else 0) + (if w.final then 4 else 0)
  bytesLE 8 (u64 w.k) ++ bytesLE 8 (u64 (b.winStart w.k)) ++ bytesLE 8 (u64 (b.winEnd w.k)) ++ bytesLE 8 (b.bufVA w.buf) ++
    bytesLE 4 w.count ++ bytesLE 4 first ++ bytesLE 4 w.version ++ bytesLE 4 flags ++ bytesLE 8 (b.result + b.resstr * slot) ++
    bytesLE 8 0

/-- A version of a window counts as published (R219): the binding's output advance may follow a version 0 (R222). A binding
that was reloaded meanwhile holds no window of the grid. -/
def State.notePublished (s : State) (grid asid b slot : Nat) : State :=
  let s := s.modGrid grid fun d => { d with published := true }
  match s.binding asid b with
  | none => s
  | some (_, k) => match tget k.windows slot with
    | none => s
    | some w =>
      if w.running ≠ some grid then s else
      let s := s.modBinding asid b fun k => { k with windows := tmod k.windows slot fun w => { w with
        published := max w.published (w.version + 1) } }
      if w.version = 0 then s.outAdvance asid b else s

end Sys2Proof.Machine
end

