-- ==== Sys2Proof/Machine/Flags.lean ====
section
/-! DEFINITION. FPC and FSR (10 R228, Tables 10-3 and 10-4) and what a scalar floating-point instruction does with the
flags of its lanes (R229): they are ORed into FSR, and an enabled one is a precise FP trap. -/

namespace Sys2Proof.Machine

/-- RM (Table 10-3). -/
def Team.rm (t : Team) : Nat := t.fpc.toNat % 4
/-- FTZ. -/
def Team.ftz (t : Team) : Bool := t.fpc.getLsbD 2
/-- TE, in the order of FSR. -/
def Team.te (t : Team) : FFlags := BitVec.ofNat 5 (t.fpc.toNat / 2 ^ 5)
/-- MXTRAP. -/
def Team.mxtrap (t : Team) : Bool := t.fpc.getLsbD 10

/-- The team with flags ORed into FSR (R229, R283). -/
def Team.raise (t : Team) (f : FFlags) : Team := { t with fsr := t.fsr ||| f.setWidth 32 }

/-- What a scalar floating-point instruction does with one lane: its registers after it, and the flags it raises. -/
structure FpLane where
  lane  : Lane
  flags : FFlags
  deriving DecidableEq, Repr

/-- Flags of a lane that count: helper lanes raise none (R148, R229). -/
def Cur.fpFlags (c : Cur) (f : Lane → FpLane) (l : Nat) : FFlags := if c.t.helper l then 0 else (f (c.t.lane l)).flags

/-- All the flags of an instruction. -/
def Cur.fpAll (c : Cur) (g : Guard) (f : Lane → FpLane) : FFlags := (c.act g).foldl (fun b l => b ||| c.fpFlags f l) 0

/-- The lanes that raised an enabled flag. -/
def Cur.fpBad (c : Cur) (g : Guard) (f : Lane → FpLane) : List Nat :=
  (c.act g).filter fun l => c.fpFlags f l &&& c.t.te ≠ 0

/-- A scalar floating-point instruction (R229): the flags go into FSR; with an enabled one no lane is written and the
FP trap (0x0A) carries the lanes that raised it; else every active lane is written. -/
def State.fpLanes (s : State) (c : Cur) (f : Lane → FpLane) : State :=
  let s := s.modTeam c.r.gid c.r.role fun t => t.raise (c.fpAll s.guard f)
  let bad := c.fpBad s.guard f
  if bad.isEmpty then
    (s.modTeam c.r.gid c.r.role fun t => t.mapLanes (c.act s.guard) fun _ l => (f l).lane).advance c.r
  else s.takeTrap c.r 0x0A 0 0 (laneSet bad) false

/-- A floating-point result in one v register. -/
def FpR.toV (r : FpR) (l : Lane) (d : Nat) : FpLane := { lane := l.setV d (word r.bits), flags := r.flags }
/-- A floating-point result in a pair. -/
def FpR.toV2 (r : FpR) (l : Lane) (d : Nat) : FpLane := { lane := l.setV2 d (BitVec.ofNat 64 r.bits), flags := r.flags }

end Sys2Proof.Machine
end

