-- ==== Sys2Proof/Machine/Operands.lean ====
section
/-! DEFINITION. Operand forms (13 R281 to R283, R291, R297): what an instruction does to every active lane, to the
path's uniform file, and from the lanes that take part in a cross-lane instruction. -/

namespace Sys2Proof.Machine

/-- Every active lane's registers changed, then the next instruction (R282). -/
def State.lanewise (s : State) (c : Cur) (f : Nat → Lane → Lane) : State :=
  (s.modTeam c.r.gid c.r.role fun t => t.mapLanes (c.act s.guard) f).advance c.r

/-- `mn d, a` on v registers. -/
def State.v2 (s : State) (c : Cur) (d a : BitVec 6) (f : Word → Word) : State :=
  s.lanewise c fun _ l => l.setV d.toNat (f (l.getV a.toNat))

/-- `mn d, a, b` on v registers. -/
def State.v3 (s : State) (c : Cur) (d a b : BitVec 6) (f : Word → Word → Word) : State :=
  s.lanewise c fun _ l => l.setV d.toNat (f (l.getV a.toNat) (l.getV b.toNat))

/-- `mn d, a, b` with D as the third source (R271). -/
def State.v4 (s : State) (c : Cur) (d a b : BitVec 6) (f : Word → Word → Word → Word) : State :=
  s.lanewise c fun _ l => l.setV d.toNat (f (l.getV a.toNat) (l.getV b.toNat) (l.getV d.toNat))

/-- `mn d, a, b` with a pair d. -/
def State.v3w (s : State) (c : Cur) (d a b : BitVec 6) (f : Word → Word → Dbl) : State :=
  s.lanewise c fun _ l => l.setV2 d.toNat (f (l.getV a.toNat) (l.getV b.toNat))

/-- `mn d, a, b` with pairs d and a. -/
def State.w2v (s : State) (c : Cur) (d a b : BitVec 6) (f : Dbl → Word → Dbl) : State :=
  s.lanewise c fun _ l => l.setV2 d.toNat (f (l.getV2 a.toNat) (l.getV b.toNat))

/-- `mn d, a, b` on pairs. -/
def State.w3 (s : State) (c : Cur) (d a b : BitVec 6) (f : Dbl → Dbl → Dbl) : State :=
  s.lanewise c fun _ l => l.setV2 d.toNat (f (l.getV2 a.toNat) (l.getV2 b.toNat))

/-- A predicate written from the lane's registers. -/
def State.toP (s : State) (c : Cur) (d : BitVec 6) (f : Lane → Bool) : State :=
  s.lanewise c fun _ l => l.setP d.toNat (f l)

/-- The path's uniform file changed when some lane is active, then the next instruction (R297). -/
def State.uniform (s : State) (c : Cur) (f : Path → Path) : State :=
  (if (c.act s.guard).isEmpty then s else s.modPath c.r f).advance c.r

/-- `mn sd, sa, sb`. -/
def State.s3 (s : State) (c : Cur) (d a b : BitVec 6) (f : Word → Word → Word) : State :=
  s.uniform c fun p => p.setS d.toNat (f (p.getS a.toNat) (p.getS b.toNat))

/-- The values of a register in the participants, in ascending lane order (R291). -/
def Cur.gather (c : Cur) (g : Guard) (a : BitVec 6) : List Word := (c.workers g).map fun l => (c.t.lane l).getV a.toNat

/-- The participants whose predicate is true. -/
def Cur.voters (c : Cur) (g : Guard) (pa : BitVec 6) : List Nat :=
  (c.workers g).filter fun l => (c.t.lane l).getP pa.toNat

/-- Conditions CC 0 to 5 on an order (R289). -/
def icond (cc : BitVec 3) (o : Ordering) : Bool :=
  match cc.toNat with
  | 0 => o = .eq
  | 1 => o ≠ .eq
  | 2 => o = .lt
  | 3 => o ≠ .gt
  | 4 => o = .gt
  | _ => o ≠ .lt

/-- A sign-extended 9-bit immediate (R263). -/
def imm9 (i : BitVec 9) : Word := i.signExtend 32

/-- Logical shifts by an unsigned count: at or above the width the result is 0 (R286). -/
def shlW {w : Nat} (a : BitVec w) (n : Nat) : BitVec w := if w ≤ n then 0 else a <<< n
/-- Logical right shift. -/
def shrW {w : Nat} (a : BitVec w) (n : Nat) : BitVec w := if w ≤ n then 0 else a >>> n
/-- Arithmetic right shift: at or above the width, copies of the sign. -/
def sarW {w : Nat} (a : BitVec w) (n : Nat) : BitVec w := a.sshiftRight (min n (w - 1))
/-- Rotation to the left. -/
def rolW (a : Word) (n : Nat) : Word := a.rotateLeft (n % 32)

/-- Number of one bits. -/
def popCount (a : Word) : Nat := (bitList a 32).length
/-- Zero bits above the highest one bit; 32 for zero. -/
def leadingZeros (a : Word) : Nat := if a = 0 then 32 else 31 - a.toNat.log2
/-- Zero bits below the lowest one bit; 32 for zero. -/
def trailingZeros (a : Word) : Nat := match bitList a 32 with | [] => 32 | i :: _ => i
/-- The bits in reverse order. -/
def bitReverse (a : Word) : Word := a.reverse
/-- The bytes in reverse order. -/
def byteReverse (a : Word) : Word :=
  (a.extractLsb' 0 8 ++ a.extractLsb' 8 8 ++ a.extractLsb' 16 8 ++ a.extractLsb' 24 8 : BitVec 32)

/-- A signed number held in a range, as a word (R285). -/
def clampWord (x lo hi : Int) : Word := BitVec.ofInt 32 (if x < lo then lo else if hi < x then hi else x)

/-- The mask of a field of 1 to 32 bits (R287). -/
def fieldMask (n : Nat) : Word := word (2 ^ n - 1)

end Sys2Proof.Machine
end

