-- ==== Sys2Proof/Machine/Transc.lean ====
section
/-! DEFINITION. The function instructions (13 R304): each value is computed to 640 fraction bits and rounded once to
nearest even in f32. A value whose expansion does not end is given with more below its last bit. -/

namespace Sys2Proof.Machine

/-- Fraction bits of the fixed-point numbers of this file. -/
def fxBits : Nat := 640
/-- One, in fixed point. -/
def fxOne : Nat := 2 ^ fxBits
/-- The product of two fixed-point numbers, rounded down. -/
def fxMul (a b : Nat) : Nat := a * b / fxOne

/-- 2 z^k / k + 2 z^(k+2) / (k+2) + …, n terms, where p is z^k and q is z²: the series of ln((1+z)/(1−z)). -/
def lnSeries (q : Nat) : Nat → Nat → Nat → Nat
  | 0, _, _ => 0
  | n + 1, k, p => 2 * p / k + lnSeries q n (k + 2) (fxMul p q)

/-- ln((1 + z) / (1 − z)) for a fixed-point z of at most a third. -/
def fxLn (z : Nat) : Nat := lnSeries (fxMul z z) 210 1 z

/-- ln 2. -/
def fxLn2 : Nat := fxLn (fxOne / 3)

/-- The Taylor series of e^x from its k-th term t on, n terms. -/
def expSeries (x : Nat) : Nat → Nat → Nat → Nat
  | 0, _, _ => 0
  | n + 1, k, t => t + expSeries x n (k + 1) (fxMul t x / (k + 1))

/-- e^x for a fixed-point x below 33. -/
def fxExp (x : Nat) : Nat := expSeries x 400 0 fxOne

/-- 1/k^1 − 1/(3 k^3) + …, n terms: the arc tangent of 1/k, with p = 1/k^j and positive terms first. -/
def atanSeries (kk : Nat) : Nat → Nat → Nat → Int
  | 0, _, _ => 0
  | n + 1, j, p => (p / j : Nat) - atanSeries kk n (j + 2) (p / kk)

/-- π, by Machin's formula. -/
def fxPi : Nat := (16 * atanSeries 25 150 1 (fxOne / 5) - 4 * atanSeries 57121 45 1 (fxOne / 239)).toNat

/-- The Taylor series of the sine, n terms, where t is the next term and q is x². -/
def sinSeries (q : Nat) : Nat → Nat → Nat → Int
  | 0, _, _ => 0
  | n + 1, k, t => (t : Int) - sinSeries q n (k + 2) (fxMul t q / ((k + 1) * (k + 2)))

/-- sin(π r / 2) for r = m × 2^−d in (0, 1). -/
def fxSinQuarter (m d : Nat) : Nat :=
  let x := fxPi * m / 2 ^ (d + 1)
  (sinSeries (fxMul x x) 100 1 x).toNat

/-- A value that goes on below its last bit, rounded to nearest even in f32 under FTZ. -/
def f32Inexact (ftz neg : Bool) (m : Nat) (e : Int) : FpR := f32.roundFtz 0 ftz neg m e true

/-- The canonical NaN of f32, with IV where the operand signals or the case is invalid. -/
def f32NaN (iv : Bool) : FpR := { bits := f32.canonNaN, flags := if iv then flagIV else 0 }

/-- RCP: 1 ÷ a (R304). -/
def fnRcp (ftz : Bool) (a : Nat) : FpR := f32.div 0 ftz 0x3F800000 a

/-- RSQ: 1 ÷ √a (R304). -/
def fnRsq (ftz : Bool) (a : Nat) : FpR :=
  match f32.value ftz a with
  | .nan x => f32NaN x
  | .inf n => if n then f32NaN true else { bits := 0, flags := 0 }
  | .fin n m e =>
    if m = 0 then { bits := f32.pack (.inf n), flags := flagDZ }
    else if n then f32NaN true
    else
      let m' := if e % 2 = 0 then m else 2 * m
      let e' := if e % 2 = 0 then e else e - 1
      let r := (2 ^ 128 / m').sqrt
      f32.roundFtz 0 ftz false r (-64 - e' / 2) (r * r * m' ≠ 2 ^ 128)

/-- 2^a in a format, correctly rounded to nearest even (EXP2 of R304, MEXP2 of R323). Beyond ±2048 the result only
overflows or is tiny. -/
def fnExp2In (f : Fmt) (ftz : Bool) (a : Nat) : FpR :=
  match f.value ftz a with
  | .nan x => { bits := f.canonNaN, flags := if x then flagIV else 0 }
  | .inf n => if n then { bits := 0, flags := 0 } else { bits := f.pack (.inf false), flags := 0 }
  | .fin n m e =>
    if 2048 * 2 ^ (-e).toNat ≤ m * 2 ^ e.toNat then
      f.roundFtz 0 ftz false (2 ^ 64) (if n then -2112 else 1984) true
    else
      let d := (-e).toNat
      let x : Int := if n then -((m * 2 ^ e.toNat : Nat) : Int) else ((m * 2 ^ e.toNat : Nat) : Int)
      let i := x / ((2 ^ d : Nat) : Int)
      let r := (x % ((2 ^ d : Nat) : Int)).toNat
      if r = 0 then f.roundFtz 0 ftz false 1 i false
      else f.roundFtz 0 ftz false (fxExp (fxLn2 * r / 2 ^ d)) (i - fxBits) true

/-- EXP2: 2^a (R304). -/
def fnExp2 (ftz : Bool) (a : Nat) : FpR := fnExp2In f32 ftz a

/-- LOG2: log₂ a (R304). -/
def fnLog2 (ftz : Bool) (a : Nat) : FpR :=
  match f32.value ftz a with
  | .nan x => f32NaN x
  | .inf n => if n then f32NaN true else { bits := f32.pack (.inf false), flags := 0 }
  | .fin n m e =>
    if m = 0 then { bits := f32.pack (.inf true), flags := flagDZ }
    else if n then f32NaN true
    else
      let i : Int := e + m.log2
      let b := 2 ^ m.log2
      if m = b then f32.roundFtz 0 ftz (i < 0) i.natAbs 0 false
      else
        let frac := fxLn ((m - b) * fxOne / (m + b)) * fxOne / fxLn2
        let v : Int := i * fxOne + frac
        f32Inexact ftz (v < 0) (if v < 0 then v.natAbs - 1 else v.natAbs) (-(fxBits : Int))

/-- The sine of a whole number of 2^−d quarter turns (SINR, COSR of R304): k quarters and a rest of m × 2^−d. -/
def quarterTurn (ftz neg : Bool) (k m d : Nat) : FpR :=
  let neg := neg != decide (2 ≤ k % 4)
  if m = 0 then
    if k % 2 = 0 then { bits := 0, flags := 0 } else { bits := f32.signBit neg + 0x3F800000, flags := 0 }
  else f32Inexact ftz neg (fxSinQuarter (if k % 2 = 0 then m else 2 ^ d - m) d) (-(fxBits : Int))

/-- SINR: sin(2π a), a in revolutions (R304); an integral a gives zero with the sign of a. A half-integral a gives
zero, whose sign the spec does not state: a free value (log 40). -/
def fnSinr (ftz : Bool) (a : Nat) : FpR :=
  match f32.value ftz a with
  | .nan x => f32NaN x
  | .inf _ => f32NaN true
  | .fin n m e =>
    let d := (-e).toNat
    let t := 4 * (m * 2 ^ e.toNat)
    if t % 2 ^ d = 0 ∧ t / 2 ^ d % 2 = 0 then
      { bits := f32.signBit (if t / 2 ^ d % 4 = 0 then n else Config.halfTurnSign a), flags := 0 }
    else quarterTurn ftz n (t / 2 ^ d) (t % 2 ^ d) d

/-- COSR: cos(2π a) (R304); an exact zero is +0. -/
def fnCosr (ftz : Bool) (a : Nat) : FpR :=
  match f32.value ftz a with
  | .nan x => f32NaN x
  | .inf _ => f32NaN true
  | .fin _ m e =>
    let d := (-e).toNat
    let t := 4 * (m * 2 ^ e.toNat)
    quarterTurn ftz false (t / 2 ^ d + 1) (t % 2 ^ d) d

/-- TANH: tanh a (R304), (e^2a − 1) ÷ (e^2a + 1); from 16 on the value is just below 1. -/
def fnTanh (ftz : Bool) (a : Nat) : FpR :=
  match f32.value ftz a with
  | .nan x => f32NaN x
  | .inf n => { bits := f32.signBit n + 0x3F800000, flags := 0 }
  | .fin n m e =>
    if m = 0 then { bits := f32.signBit n, flags := 0 }
    else if 16 * 2 ^ (-e).toNat ≤ m * 2 ^ e.toNat then f32Inexact ftz n (2 ^ 40 - 1) (-40)
    else
      let y := fxExp (2 * m * 2 ^ e.toNat * fxOne / 2 ^ (-e).toNat)
      f32Inexact ftz n ((y - fxOne) * fxOne / (y + fxOne)) (-(fxBits : Int))

end Sys2Proof.Machine
end

