-- ==== Sys2Proof/Machine/Mat.lean ====
section
/-! DEFINITION. Per-lane matrices (14 R312 to R314): what a matrix instruction does with its lanes, the arithmetic of elements and
the algorithms of 10 R239 to R243. -/

namespace Sys2Proof.Machine

/-- An element written to a v register: 64 bits to a pair, 32 bits whole, narrower to the low bits (R314). -/
def elemToV (l : Lane) (d ty b : Nat) : List (Nat × Word) :=
  let k := typeBytes ty
  if k = 8 then [(d, word b), (d + 1, word (b / 2 ^ 32))]
  else [(d, word ((l.getV d).toNat / 2 ^ (8 * k) * 2 ^ (8 * k) + b))]

/-- A register-to-register matrix instruction (R313): where a lane's shapes fail, a bad-shape fault (0x08) with the
failing lanes and nothing written; else every active lane's results. -/
def State.matrix (s : State) (c : Cur) (f : Lane → Option LaneOut) : State :=
  let act := c.act s.guard
  let bad := act.filter fun l => (f (c.t.lane l)).isNone
  if bad.isEmpty then
    (s.landOuts c.r c.p.clauseId (act.filterMap fun l => (f (c.t.lane l)).map fun o => (l, o))).advance c.r
  else s.takeTrap c.r 8 0 0 (laneSet bad) false

/-- A matrix written to D by each lane. -/
def State.matrixTo (s : State) (c : Cur) (d : BitVec 6) (f : Lane → Option Mat) : State :=
  s.matrix c fun l => ((f l).bind fun m => l.matWrite c.t.mregs d.toNat m).map LaneOut.slots

/-- An element operation on floats of a format or on integers of a width, by type code (R323, R232). -/
def elem2 (ty : Nat) (onF : Fmt → Nat → Nat → Nat) (onI : Int → Int → Int) (a b : Nat) : Nat :=
  match fmtOf ty, intOf ty with
  | some f, _ => onF f a b
  | none, some i => bitsOfInt i.1 (onI (intOfBits i a) (intOfBits i b))
  | none, none => 0

/-- a + b. -/
def elemAdd (ty : Nat) : Nat → Nat → Nat := elem2 ty (fun f a b => (f.add 0 false a b).bits) (· + ·)
/-- a − b. -/
def elemSub (ty : Nat) : Nat → Nat → Nat := elem2 ty (fun f a b => (f.sub 0 false a b).bits) (· - ·)
/-- a × b. -/
def elemMul (ty : Nat) : Nat → Nat → Nat := elem2 ty (fun f a b => (f.mul 0 false a b).bits) (· * ·)
/-- The greater. -/
def elemMax (ty : Nat) : Nat → Nat → Nat := elem2 ty (fun f a b => (f.minmax true false false a b).bits) max
/-- The lesser. -/
def elemMin (ty : Nat) : Nat → Nat → Nat := elem2 ty (fun f a b => (f.minmax false false false a b).bits) min

/-- a × v, where v is an f32, an f64 or an i32 by the type (MSCAL, Table 14-6). -/
def elemScale (ty : Nat) (v a : Nat) : Nat :=
  match fmtOf ty, intOf ty with
  | some f, _ => (f.result 0 false ((f.unpack a).mul ((if ty = 4 then f64 else f32).unpack v))).bits
  | none, some i => bitsOfInt i.1 (intOfBits i a * intOfBits (32, true) v)
  | none, none => 0

/-- The result type of MRED (R318). -/
def redType (ty : Nat) : Nat := if ty = 4 then 4 else if (fmtOf ty).isSome then 1 else 11

/-- MRED of elements (R318): 0 ADD, 1 MAX, 2 MIN. -/
def reduceElems (op ty : Nat) (els : List Nat) : Nat :=
  match fmtOf ty, intOf ty with
  | some f, _ =>
    if op = 0 then ((if ty = 4 then f64 else f32).result 0 false (sumFl 0 (els.map f.unpack))).bits
    else match els with
      | [] => 0
      | e :: es =>
        (convert ty (redType ty) false 0 false (es.foldl (fun a b => (f.minmax (op = 1) false false a b).bits) e)).bits
  | none, some i =>
    let xs := els.map (intOfBits i)
    if op = 0 then bitsOfInt 32 xs.sum
    else match xs with
      | [] => 0
      | x :: xs => bitsOfInt 32 (xs.foldl (fun a b => if op = 1 then max a b else min a b) x)
  | none, none => 0

/-- The accumulator type of a pair of operand types, where the pair is one of Table 14-5. -/
def accType (a b : Nat) : Option Nat :=
  let wide (t : Nat) : Bool := t = 3 || t = 5 || t = 6
  let int8 (t : Nat) : Bool := t = 7 || t = 8
  if wide a ∧ wide b then some 1
  else if a = 2 ∧ b = 2 then some 1
  else if int8 a ∧ int8 b then some 11
  else if a = b ∧ (a = 1 ∨ a = 4) then some a
  else none

/-- The FMA chain of an element (R239), in ascending k. -/
def fmaChain (f : Fmt) (acc : Nat) (a b : List Nat) : Nat :=
  (a.zip b).foldl (fun c e => (f.fma 0 false e.1 e.2 c).bits) acc

/-- One element of a product (Table 14-5). -/
def dot (ta tb acc : Nat) (a b : List Nat) : Nat :=
  match intOf ta, intOf tb, fmtOf ta, fmtOf tb with
  | some i, some j, _, _ =>
    bitsOfInt 32 (intOfBits (32, true) acc + ((a.zip b).map fun e => intOfBits i e.1 * intOfBits j e.2).sum)
  | _, _, some f, some g =>
    if ta = 1 ∨ ta = 4 then fmaChain f acc a b
    else narrowDot a.length acc (products (a.map f.unpack) (b.map g.unpack))
  | _, _, _, _ => 0

/-- A row, a column and the transpose of a matrix. -/
def Mat.row (m : Mat) (i : Nat) : List Nat := (m.el.drop (i * m.c)).take m.c
/-- A column. -/
def Mat.col (m : Mat) (j : Nat) : List Nat := (List.range m.r).map fun i => (m.el[i * m.c + j]?).getD 0
/-- The transpose. -/
def Mat.trans (m : Mat) : Mat := { m with r := m.c, c := m.r, el := (List.range m.c).flatMap fun j => m.col j }

/-- op(A) · op(B) + acc (R322): none where the shapes or types do not agree. -/
def matMul (a b : Mat) (acc : Option Mat) : Option Mat :=
  match accType a.ty b.ty with
  | none => none
  | some t =>
    if a.c ≠ b.r then none
    else
      let bad : Bool := match acc with
        | none => false
        | some z => z.ty ≠ t || z.r ≠ a.r || z.c ≠ b.c
      if bad then none
      else
        let start (k : Nat) : Nat := match acc with
          | none => 0
          | some z => (z.el[k]?).getD 0
        let el := (List.range (a.r * b.c)).map fun k => dot a.ty b.ty (start k) (a.row (k / b.c)) (b.col (k % b.c))
        some { r := a.r, c := b.c, ty := t, el := el }

/-- A square array of n × n element bits, and access to it. -/
abbrev Arr := List (List Nat)
/-- Element (i, j). -/
def aget (w : Arr) (i j : Nat) : Nat := (((w[i]?).getD [])[j]?).getD 0
/-- An array built by its elements. -/
def abuild (n m : Nat) (f : Nat → Nat → Nat) : Arr := (List.range n).map fun i => (List.range m).map fun j => f i j
/-- The rows of a matrix. -/
def Mat.arr (m : Mat) : Arr := (List.range m.r).map m.row
/-- Two rows exchanged. -/
def aswap (w : Arr) (p q : Nat) : Arr :=
  (List.range w.length).map fun i => (w[if i = p then q else if i = q then p else i]?).getD []

/-- The bits of 1.0. -/
def Fmt.one (f : Fmt) : Nat := f.bias * 2 ^ f.fb
/-- The identity of n × n. -/
def identArr (f : Fmt) (n : Nat) : Arr := abuild n n fun i j => if i = j then f.one else 0
/-- Whether bits hold a finite value. -/
def Fmt.isFinite (f : Fmt) (b : Nat) : Bool := match f.unpack b with | .fin _ _ _ => true | _ => false
/-- Whether bits hold a zero. -/
def Fmt.isZero (f : Fmt) (b : Nat) : Bool := (f.unpack b).isZero
/-- The sign inverted. -/
def Fmt.negBits (f : Fmt) (b : Nat) : Nat := if bitOf b (f.eb + f.fb) then b - 2 ^ (f.eb + f.fb) else b + 2 ^ (f.eb + f.fb)
/-- FMA, rounded once (R239). -/
def Fmt.fma0 (f : Fmt) (a b c : Nat) : Nat := (f.fma 0 false a b c).bits
/-- Division, correctly rounded. -/
def Fmt.div0 (f : Fmt) (a b : Nat) : Nat := (f.div 0 false a b).bits

/-- The pivot row of column c (R239): none where a candidate is not finite or the largest is zero, and which. -/
inductive Pivot where
  | row (p : Nat)
  | zero
  | wild
  deriving DecidableEq, Repr

/-- The lowest row at or below c whose |W[r][c]| is greatest. -/
def findPivot (f : Fmt) (n c : Nat) (w : Arr) : Pivot :=
  let rows := (List.range n).filter fun r => c ≤ r
  if rows.any (fun r => ¬ f.isFinite (aget w r c)) then .wild
  else
    let mag (r : Nat) : Nat := aget w r c % 2 ^ (f.eb + f.fb)
    let p := rows.foldl (fun p r => if mag p < mag r then r else p) c
    if f.isZero (aget w p c) then .zero else .row p

/-- MINV (R239): Gauss-Jordan with partial pivoting; none where the lane fails. -/
def minvArr (f : Fmt) (n : Nat) (a : Arr) : Option Arr :=
  ((List.range n).foldl (fun (e : Option (Arr × Arr)) c =>
    e.bind fun wx => match findPivot f n c wx.1 with
      | .row p =>
        let w := aswap wx.1 p c
        let x := aswap wx.2 p c
        let d := aget w c c
        let w := abuild n n fun i j => if i = c then f.div0 (aget w c j) d else aget w i j
        let x := abuild n n fun i j => if i = c then f.div0 (aget x c j) d else aget x i j
        let step (y : Arr) (i j : Nat) : Nat :=
          if i = c then aget y i j else f.fma0 (f.negBits (aget w i c)) (aget y c j) (aget y i j)
        some (abuild n n (step w), abuild n n (step x))
      | _ => none) (some (a, identArr f n))).map Prod.snd

/-- MLU (R239): Doolittle without pivoting. -/
def mluArr (f : Fmt) (n : Nat) (a : Arr) : Option Arr :=
  (List.range n).foldl (fun (e : Option Arr) c =>
    e.bind fun w =>
      let d := aget w c c
      if f.isZero d ∨ ¬ f.isFinite d then none
      else
        let l (r : Nat) : Nat := f.div0 (aget w r c) d
        some (abuild n n fun r j =>
          if r ≤ c ∨ j < c then aget w r j
          else if j = c then l r
          else f.fma0 (f.negBits (l r)) (aget w c j) (aget w r j))) (some a)

/-- t less the products of two rows' first j elements (R239, MCHOL). -/
def cholSum (f : Fmt) (l : Arr) (i k j t : Nat) : Nat :=
  (List.range j).foldl (fun t m => f.fma0 (f.negBits (aget l i m)) (aget l k m) t) t

/-- MCHOL (R239): the lower triangle; the upper result is +0. -/
def mcholArr (f : Fmt) (n : Nat) (a : Arr) : Option Arr :=
  (List.range n).foldl (fun (e : Option Arr) j =>
    e.bind fun l =>
      let d := (f.sqrt 0 false (cholSum f l j j j (aget a j j))).bits
      if f.isZero d ∨ ¬ f.isFinite d then none
      else some (abuild n n fun i k =>
        if k ≠ j ∨ i < j then aget l i k
        else if i = j then d
        else f.div0 (cholSum f l i j j (aget a i j)) d)) (some (abuild n n fun _ _ => 0))

/-- A value of an array with a NaN replaced by the canonical one (R232). -/
def Fmt.canon (f : Fmt) (x : Nat) : Nat := if (f.unpack x).isNaN then f.canonNaN else x

/-- One row of a triangular solve (R240), from the rows already solved. -/
def solveRow (f : Fmt) (t : Arr) (unit : Bool) (x : Arr) (b : Arr) (m i : Nat) (ks : List Nat) : List Nat :=
  (List.range m).map fun j =>
    let v := ks.foldl (fun v k => f.fma0 (f.negBits (aget t i k)) (aget x k j) v) (aget b i j)
    if unit then f.canon v else f.div0 v (aget t i i)

/-- MSOLVL and MSOLVU (R240). -/
def solveArr (f : Fmt) (n m : Nat) (upper unit : Bool) (t b : Arr) : Arr :=
  let order := if upper then (List.range n).reverse else List.range n
  order.foldl (fun x i =>
    let ks := if upper then (List.range n).filter fun k => i < k else List.range i
    let r := solveRow f t unit x b m i ks
    (List.range n).map fun k => if k = i then r else (x[k]?).getD []) (abuild n m fun _ _ => 0)

/-- A product of square arrays with a start value of +0 (R239). -/
def mulArr (f : Fmt) (n : Nat) (a b : Arr) : Arr :=
  abuild n n fun i j => fmaChain f 0 ((a[i]?).getD []) ((List.range n).map fun k => aget b k j)

/-- MPOW (R241): the bits of e from b on, with the result so far and the current power; the fuel is the bits left. A first power
is written with the canonical NaN too (R232). -/
def powArr (f : Fmt) (n e : Nat) : Nat → Option Arr → Arr → Option Arr
  | 0, r, _ => r
  | k + 1, r, p =>
    let b := 7 - k
    let r := if bitOf e b then some (match r with | none => p.map (·.map f.canon) | some q => mulArr f n q p) else r
    if e / 2 ^ (b + 1) = 0 then r else powArr f n e k r (mulArr f n p p)

/-- MDET (R242): the determinant's bits, from column c on, with the array, the product so far and the row swaps. -/
def detArr (f : Fmt) (n : Nat) : List Nat → Arr → Option Nat → Nat → Nat
  | [], _, det, swaps =>
    let d := det.getD f.one
    if swaps % 2 = 1 then (if (f.unpack d).isNaN then f.canonNaN else f.negBits d) else d
  | c :: cs, w, det, swaps =>
    match findPivot f n c w with
    | .wild => f.canonNaN
    | .zero => 0
    | .row p =>
      let w := aswap w p c
      let d := aget w c c
      let det := match det with | none => d | some x => (f.mul 0 false x d).bits
      let w := abuild n n fun r j =>
        if r ≤ c ∨ j ≤ c then aget w r j
        else f.fma0 (f.negBits (f.div0 (aget w r c) d)) (aget w c j) (aget w r j)
      detArr f n cs w (some det) (if p = c then swaps else swaps + 1)

/-- A square operand of f32 or f64 (R324 to R326). -/
def Lane.square (l : Lane) (mregs n : Nat) (ty : BitVec 8) : Option (Fmt × Mat) :=
  (l.mat mregs n ty).bind fun a =>
    if a.r = a.c ∧ (a.ty = 1 ∨ a.ty = 4) then some (if a.ty = 4 then f64 else f32, a) else none

/-- A matrix of an array's elements. -/
def Mat.ofArr (m : Mat) (a : Arr) : Mat := { m with el := a.flatten }

end Sys2Proof.Machine
end

