-- ==== Sys2Proof/Machine/Access.lean ====
section
/-! DEFINITION. Accesses of lanes to memory (01 R24 to R31, 15 R329 to R333, R349, R350): addresses, checks, the done
masks of restartable instructions, forms that perform every lane or none, and the lanes that are performed later. -/

namespace Sys2Proof.Machine

/-- A failing lane: fault code, detail, address (R24). -/
structure LaneFault where
  cause  : Nat
  detail : Nat
  addr   : Nat
  deriving DecidableEq, Repr

/-- What the checks of a lane give. -/
abbrev Checked := Except LaneFault (List Piece)

/-- The access size of SZ in bytes (Table 12-5). -/
def szBytes (sz : BitVec 3) : Nat := 2 ^ sz.toNat

/-- The 64-bit base that A names (R329). -/
def base64 (p : Path) (l : Lane) (a : BitVec 6) (ub : BitVec 1) : Nat :=
  (if ub = 1 then p.getS2 a.toNat else l.getV2 a.toNat).toNat

/-- The 32-bit base that A names. -/
def base32 (p : Path) (l : Lane) (a : BitVec 6) (ub : BitVec 1) : Nat :=
  (if ub = 1 then p.getS a.toNat else l.getV a.toNat).toNat

/-- A base plus a signed offset, modulo 2^w (R329). -/
def addOff (w base : Nat) (off : Int) : Nat := (((base : Int) + off) % (2 ^ w : Nat)).toNat

/-- The global address of a lane. -/
def gAddr (c : Cur) (o : OpG) (ub : BitVec 1) (off : Int) (l : Nat) : Nat :=
  addOff 64 (base64 c.p (c.t.lane l) o.a ub) off

/-- The scratchpad or private offset of a lane. -/
def lOff (c : Cur) (o : OpG) (ub : BitVec 1) (off : Int) (l : Nat) : Nat :=
  addOff 32 (base32 c.p (c.t.lane l) o.a ub) off

/-- Checks of n bytes at a global address: alignment, form, translation, permission (R24). -/
def State.checkG (s : State) (c : Cur) (x : Ctx) (va n : Nat) (acc : Access) : State × Checked :=
  if va % n ≠ 0 then (s, .error { cause := 6, detail := 0, addr := va })
  else
    let r := s.translate c.g.core c.g.asid x va acc
    match r.2 with
    | .error f => (r.1, .error { cause := f.cause, detail := f.detail, addr := va })
    | .ok y => (r.1, .ok [.mem va y.pa n y.attr])

/-- Checks of n bytes at a scratchpad offset: alignment, range (R24, R29). -/
def State.checkL (s : State) (c : Cur) (off n : Nat) : Checked :=
  if off % n ≠ 0 then .error { cause := 6, detail := 0, addr := off }
  else match s.spadWhere c.r.gid off n with
    | .error f => .error { cause := f.cause, detail := f.detail, addr := off }
    | .ok w => .ok [.spad off w.1 w.2 n]

/-- PrivVA of a private offset and a lane (R31). -/
def privVA (c : Cur) (x : Ctx) (a l : Nat) : Nat :=
  let lanes := c.t.lanes.length
  let gl := (c.g.teams.length * lanes + 31) / 32 * 32
  let slot := x.psz * 16 * 4096 + 40960
  x.privbase + c.g.privSlot * slot + a / 4 * 4 * gl + 4 * (c.r.role * lanes + l) + a % 4

/-- Checks of n bytes at a private offset: alignment of the offset, range, then each word's address (R31, R333). -/
def State.checkP (s : State) (c : Cur) (x : Ctx) (l off n : Nat) (acc : Access) : State × Checked :=
  if off % n ≠ 0 then (s, .error { cause := 6, detail := 0, addr := off })
  else if x.psz * 16 ≤ off then (s, .error { cause := 5, detail := 6, addr := off })
  else
    (List.range (max 1 (n / 4))).foldl (fun e i => match e.2 with
      | .error _ => e
      | .ok ps =>
        let va := privVA c x (off + 4 * i) l
        let r := e.1.translate c.g.core c.g.asid x va acc
        match r.2 with
        | .error f => (r.1, .error { cause := f.cause, detail := f.detail, addr := va })
        | .ok y => (r.1, .ok (ps ++ [.mem va y.pa (min n 4) y.attr]))) (s, .ok [])

/-- The checks of some lanes, in ascending order. -/
def State.checkLanes (s : State) (ls : List Nat) (chk : State → Nat → State × Checked) :
    State × List (Nat × Checked) :=
  ls.foldl (fun e l => let r := chk e.1 l; (r.1, e.2 ++ [(l, r.2)])) (s, [])

/-- The lanes that passed, and those that failed. -/
def passed (cs : List (Nat × Checked)) : List (Nat × List Piece) :=
  cs.filterMap fun e => match e.2 with | .ok ps => some (e.1, ps) | .error _ => none
/-- The lanes that failed. -/
def failed (cs : List (Nat × Checked)) : List (Nat × LaneFault) :=
  cs.filterMap fun e => match e.2 with | .ok _ => none | .error f => some (e.1, f)

/-- The accesses of some lanes performed, in an order that the spec does not fix (R85). -/
def State.perform (s : State) (ls : List (Nat × List Piece)) (f : State → Nat → List Piece → State × LaneOut) :
    State × List (Nat × LaneOut) :=
  let rank := Config.laneRank s.free
  (sortBy (fun e => rank e.1) ls).foldl (fun e p =>
    let r := f e.1 p.1 p.2
    (r.1, e.2 ++ [(p.1, r.2)])) ({ s with free := s.free + 1 }, [])

/-- The fault of an instruction some of whose lanes failed: that of the lowest lane, with every lane that failed with
the same code (R24). -/
def State.laneTrap (s : State) (r : Ref) (bad : List (Nat × LaneFault)) : State :=
  match bad with
  | [] => s
  | (_, f) :: _ =>
    s.takeTrap r f.cause f.detail f.addr (laneSet ((bad.filter fun e => e.2.cause = f.cause).map Prod.fst)) false

/-- The done mask that a restartable instruction takes: the one its path holds across a fault, else the lowest free
one, clear (R349, R350). An instruction of a handler takes its own. -/
def Cur.doneMask (c : Cur) : Option (Nat × LaneSet) :=
  match (if c.t.handling c.r.slot then none else c.p.heldDone) with
  | some k => some (k, ((tget c.t.done k).map Prod.snd).getD 0)
  | none => (lowestFree 4 ((c.t.done.filter fun e => e.2.1).map Prod.fst)).map fun k => (k, 0)

/-- A done mask held across a fault. -/
def State.holdDone (s : State) (r : Ref) (k : Nat) (bits : LaneSet) : State :=
  (s.modTeam r.gid r.role fun t => { t with done := tset t.done k (true, bits) }).modPath r fun p =>
    { p with heldDone := some k }

/-- Lanes that would consume poisoned data, as lanes that fail (R68). -/
def spoiltLanes (ls : List (Nat × List Piece)) : List (Nat × LaneFault) :=
  ls.map fun e => (e.1, { cause := 0x10, detail := 0, addr := pieceAddr e.2 })

/-- The requests into which a read of host memory is cut: at most 8 bytes each. -/
def hostChunks (pa n : Nat) : List (Nat × Nat) :=
  if n ≤ 8 then [(pa, n)] else (List.range (n / 8)).map fun i => (pa + 8 * i, 8)

/-- Bytes of host memory that have come for a lane of a path. -/
def State.hostGiven (s : State) (r : Ref) (lane pa : Nat) : Option (List Byte) :=
  (s.hostData.find? fun e => e.path = r && e.lane = lane && e.pa = pa).map HostData.bytes

/-- A read of host memory asked for, for a lane of a path, once (R35). -/
def State.askRead (s : State) (r : Ref) (clause lane : Nat) (k : Nat × Nat) : State :=
  if (s.hostGiven r lane k.1).isSome || s.hostReqs.any fun q =>
      q.live && q.path = r && q.lane = lane && q.pa = k.1 && q.what = .fetch then s
  else
    let q : HostReq :=
      { id := s.fresh, path := r, clause := clause, pa := k.1, size := k.2, lane := lane, what := .fetch, live := true }
    { s with fresh := s.fresh + 1, hostReqs := s.hostReqs ++ [q], out := s.out ++ [.hostRead q.id k.1 k.2] }

/-- Bytes of host memory for a lane of a path: where they have come, they are given; else they are asked for. -/
def State.hostFetch (s : State) (r : Ref) (clause lane pa n : Nat) : State × Option (List Byte) :=
  let ks := hostChunks pa n
  let got := ks.map fun k => s.hostGiven r lane k.1
  if got.all Option.isSome then (s, some (got.flatMap fun b => b.getD []))
  else (ks.foldl (fun s k => s.askRead r clause lane k) s, none)

/-- What has come for a lane of a path is taken. -/
def State.hostTaken (s : State) (r : Ref) (lane : Nat) : State :=
  { s with hostData := s.hostData.filter fun e => ¬ (e.path = r && e.lane = lane) }

/-- The pieces of a load's lane with those of host memory given by the host; none while some are still asked for (R35). -/
def State.hostLane (s : State) (c : Cur) (l : Nat) (ps : List Piece) : State × Option (List Piece) :=
  ps.foldl (fun (e : State × Option (List Piece)) p => match p with
    | .mem _ pa n _ =>
      if isHostMem pa then
        let q := e.1.hostFetch c.r c.p.clauseId l pa n
        (q.1, match e.2, q.2 with
          | some l, some bs => some (l ++ [.given bs])
          | _, _ => none)
      else (e.1, e.2.map (· ++ [p]))
    | p => (e.1, e.2.map (· ++ [p]))) (s, some [])

/-- The lanes of a load that performs all of them together, once the bytes of every one have come. -/
def State.hostAll (s : State) (c : Cur) (ls : List (Nat × List Piece)) : State × Option (List (Nat × List Piece)) :=
  let r := ls.foldl (fun (e : State × Option (List (Nat × List Piece))) l =>
    let q := e.1.hostLane c l.1 l.2
    (q.1, match e.2, q.2 with
      | some l', some ps => some (l' ++ [(l.1, ps)])
      | _, _ => none)) (s, some [])
  match r.2 with
  | none => r
  | some ls => (ls.foldl (fun s l => s.hostTaken c.r l.1) r.1, some ls)

/-- An access of the lanes of an instruction to memory: the ranks at which it releases before its lanes and acquires after the last
of them, where it does, whether helper lanes are suppressed (R25), how the lanes access memory, how many pieces make one event
(R71), its checks, what a lane's access has beside its pieces, what a helper lane that fails receives. -/
structure Restart where
  rel      : Option Nat
  acq      : Option Nat
  suppress : Bool
  how      : How
  grain    : Nat
  check    : State → Nat → State × Checked
  arg      : Nat → LaneArg
  zero     : Nat → LaneOut

/-- The release that precedes an access. -/
def State.relFor (s : State) (c : Cur) (rel : Option Nat) : State :=
  match rel with
  | none => s
  | some rank => s.release c.g.core rank

/-- The acquire that follows an access. -/
def State.acqFor (s : State) (c : Cur) (acq : Option Nat) : State :=
  match acq with
  | none => s
  | some rank => s.acquire c.g.core rank

/-- The CYC of the core on which a group stands. -/
def State.cycOf (s : State) (gid : Nat) : Nat :=
  match tget s.groups gid with
  | none => 0
  | some g => (s.clock g.core).cyc.toNat

/-- An operation that the flags of a clause wait for (R261), issued now (R172). -/
def State.addOp (s : State) (r : Ref) (clause op : Nat) : State :=
  let now := s.cycOf r.gid
  s.modTeam r.gid r.role fun t => { t with outst := t.outst.map fun o =>
    if o.clause = clause then { o with ops := o.ops ++ [(op, now)] } else o }

/-- The transport-ring slots whose word 0 a write of a path meets are noted as its own (R397): a slot lies 64 bytes times its number
past the ring's header. -/
def State.noteRing (s : State) (asid : Nat) (r : Ref) (ps : List Piece) : State :=
  match tget s.ctxs asid with
  | none => s
  | some x => match x.ring with
    | none => s
    | some hdr =>
      let slots := ps.flatMap fun p => match p with
        | .mem va _ n _ => (List.range n).filterMap fun i =>
            if hdr + 64 ≤ va + i ∧ (va + i - hdr) % 64 < 4 ∧ va + i < hdr + 2 ^ 22 + 64 then some ((va + i - hdr) / 64 - 1) else none
        | _ => []
      slots.dedup.foldl (fun s k => s.modCtx asid fun x => { x with ringBy := tset x.ringBy k r }) s

/-- One lane's access performed as its instruction issues: its pieces in order. -/
def State.runLane (s : State) (c : Cur) (h : How) (a : LaneArg) (ps : List Piece) : State × List Byte :=
  ps.foldl (fun (e : State × List Byte) p =>
    let r := e.1.doPiece c.g.asid c.g.core c.r c.p.clauseId h a e.2.length p
    (r.1, e.2 ++ r.2)) (s, [])

/-- Whether the lanes of an access write. -/
def How.writes : How → Bool
  | .load _ _ => false
  | _ => true

/-- One lane of an access, as its instruction issues: what its team has issued before to the same bytes is performed first, a write
of a transport-ring descriptor is noted, and the lane receives its registers. -/
def Restart.run (k : Restart) (c : Cur) (s : State) (l : Nat) (ps : List Piece) : State × LaneOut :=
  let s := s.catchUp c.r ps
  let s := if k.how.writes then s.noteRing c.g.asid c.r ps else s
  let r := s.runLane c k.how (k.arg l) ps
  (r.1, (k.arg l).out c.t.mregs (c.t.lane l) r.2)

/-- The lanes that an instruction performs as it issues: those that the step performs and that do not wait for the host (log 1). -/
def Mode.now (m : Mode) (h : How) (e : Nat × List Piece) : Bool :=
  (match m with
    | .whole => true
    | .lanes k => k.getLsbD e.1) && ¬ (h.reads && hostPieces e.2)

/-- The events of a piece: an access of 16 bytes is two, for its aligned halves (R71). -/
def Piece.halves : Piece → List Piece
  | .mem va pa 16 a => [.mem va pa 8 a, .mem (va + 8) (pa + 8) 8 a]
  | .spad va gid off 16 => [.spad va gid off 8, .spad (va + 8) gid (off + 8) 8]
  | p => [p]

/-- A lane's access that is issued and not performed. -/
def Restart.later (k : Restart) (c : Cur) (s : State) (e : Nat × List Piece) : LaneAcc :=
  let ps := e.2.flatMap Piece.halves
  { lane := e.1, grain := k.grain, pieces := ps, arg := k.arg e.1, seen := ps.flatMap fun p => s.peekPiece c.g.core c.g.asid k.how p }

/-- What a lane's access of host memory asks of the host (R35): for each piece a read, or the atomic. -/
def State.askPieces (s : State) (c : Cur) (op : Nat) (l : LaneAcc) : State :=
  l.pieces.zipIdx.foldl (fun s e => match e.1 with
    | .mem _ pa n _ =>
      if isHostMem pa then
        let q : HostReq :=
          { id := s.fresh, path := c.r, clause := c.p.clauseId, pa := pa, size := n, lane := l.lane, what := .piece op e.2, live := true }
        let o : Out := match l.arg with
          | .rmw q' _ => .hostAtomic q.id pa ((busOp q'.op).getD .add) (n = 8) q'.b q'.c
          | _ => .hostRead q.id pa n
        { s with fresh := s.fresh + 1, hostReqs := s.hostReqs ++ [q], out := s.out ++ [o] }
      else s
    | _ => s) s

/-- The lanes that an instruction leaves for later are issued (R79, R85, R349): what the team has issued before to the same bytes is
performed first, and the host is asked for what lies in its memory. -/
def State.issueLanes (s : State) (c : Cur) (k : Restart) (mask : Option Nat) (ends : Bool) (ls : List (Nat × List Piece))
    (outs : List (Nat × LaneOut)) : State :=
  let s := ls.foldl (fun s e =>
    let s := s.catchUp c.r e.2
    if k.how.writes then s.noteRing c.g.asid c.r e.2 else s) s
  let id := s.fresh
  let lanes := ls.map fun e => k.later c s e
  let e : Issue :=
    { id := id, path := c.r, slots := 1#2 <<< c.r.slot, clause := c.p.clauseId, asid := c.g.asid, core := c.g.core, done := mask
      ends := ends, acq := k.acq, how := k.how, lanes := lanes, outs := outs }
  let s := ({ s with fresh := id + 1, issues := s.issues ++ [e] } : State).addOp c.r c.p.clauseId id
  if k.how.reads then lanes.foldl (fun s l => s.askPieces c id l) s else s

/-- The lanes of an instruction that have passed their checks (R25, R85): those that `m` selects are performed as it issues, in an
order that nothing fixes; where none is left, their results wait as register writes with those given; else the others are issued. -/
def State.goLanes (s : State) (c : Cur) (k : Restart) (m : Mode) (mask : Option Nat) (ends : Bool) (fit : List (Nat × List Piece))
    (zeros : List (Nat × LaneOut)) : State :=
  let p := s.perform (fit.filter (m.now k.how)) (k.run c)
  let later := fit.filter fun e => ¬ m.now k.how e
  if later.isEmpty then p.1.landOuts c.r c.p.clauseId (p.2 ++ zeros)
  else p.1.issueLanes c k mask ends later (p.2 ++ zeros)

/-- A done mask that an issued access keeps until it is performed, and its path no longer (R349). -/
def State.keepDone (s : State) (r : Ref) (k : Nat) (bits : LaneSet) : State :=
  (s.modTeam r.gid r.role fun t => { t with done := tset t.done k (true, bits) }).modPath r fun p =>
    { p with heldDone := if p.heldDone = some k then none else p.heldDone }

/-- A restartable instruction (R24, R25, R349, R350): the lanes whose done bits are clear are checked; those that pass
are performed, or issued to be performed later, with the mask held until the last of them is; a failing lane that is no helper makes
the fault, with the mask held by the path. A lane's bit is set when its store is performed or its load's value is written. Poisoned
data (0x10) stops it before any lane where no lane failed. Without a free mask it waits, and what its team has issued is performed. -/
def State.restartable (s : State) (c : Cur) (k : Restart) : State :=
  match c.doneMask with
  | none => s.flush (Issue.ofTeam c.r.gid c.r.role)
  | some (n, done) =>
    let s := s.relFor c k.rel
    let act := c.act s.guard
    let todo := act.filter fun l => ¬ done.getLsbD l ∧ ¬ (k.suppress ∧ c.t.helper l)
    let r := s.checkLanes todo k.check
    let bad := (failed r.2).filter fun e => ¬ c.t.helper e.1
    let spoilt := (passed r.2).filter fun e => r.1.wouldPoison c.g.core k.how e.2
    if bad.isEmpty ∧ ¬ spoilt.isEmpty then
      (r.1.holdDone c.r n done).laneTrap c.r (spoiltLanes spoilt)
    else
      let fit := (passed r.2).filter fun e => ¬ r.1.wouldPoison c.g.core k.how e.2
      let zeros := ((failed r.2).filter fun e => c.t.helper e.1).map fun e => (e.1, k.zero e.1)
      let m := if bad.isEmpty then s.mode else .whole
      let s := r.1.goLanes c k m (some n) bad.isEmpty fit zeros
      let all := fit.all (m.now k.how)
      let was := (fit.filter (m.now k.how)).map Prod.fst ++ zeros.map Prod.fst ++ act.filter fun l => k.suppress ∧ c.t.helper l
      let bits := if all || ¬ k.how.reads then done ||| laneSet was else done
      if ¬ bad.isEmpty then (s.holdDone c.r n bits).laneTrap c.r bad
      else if all then ((s.acqFor c k.acq).freeDone c.r n).advance c.r
      else (s.keepDone c.r n bits).advance c.r

/-- An instruction that performs every lane or none (R26): the checks of the lanes, then its effect on them. -/
def State.allOrNone (s : State) (c : Cur) (chk : State → Nat → State × Checked) (poison : State → List Piece → Bool)
    (k : State → List (Nat × List Piece) → State) : State :=
  let r := s.checkLanes (c.workers s.guard) chk
  let bad := failed r.2
  let spoilt := (passed r.2).filter fun e => poison r.1 e.2
  if ¬ bad.isEmpty then r.1.laneTrap c.r bad
  else if ¬ spoilt.isEmpty then r.1.laneTrap c.r (spoiltLanes spoilt)
  else k r.1 (passed r.2)

/-- The effect of such an instruction on its lanes (R26, R336 to R340): a release first, then the lanes, with a value for each helper
lane that receives one, then an acquire, with a lane that is performed later after the last of them (R79). -/
def State.goAll (s : State) (c : Cur) (k : Restart) (ps : List (Nat × List Piece)) (zeros : List (Nat × LaneOut)) : State :=
  let m := s.mode
  let s := (s.relFor c k.rel).goLanes c k m none true ps zeros
  (if ps.all (m.now k.how) then s.acqFor c k.acq else s).advance c.r

/-- The bytes of a store's data register (R330). -/
def storeBytes (l : Lane) (b n : Nat) : List Byte :=
  if n ≤ 4 then bytesLE n (l.getV b).toNat
  else (List.range (n / 4)).flatMap fun i => bytesLE 4 (l.getV (b + i)).toNat

/-- The orders that an ORD field asks for: release, acquire (Table 12-5). -/
def ordRel (ord : BitVec 2) : Bool := ord.getLsbD 1
/-- Whether ORD asks for an acquire. -/
def ordAcq (ord : BitVec 2) : Bool := ord.getLsbD 0

end Sys2Proof.Machine
end

