-- ==== Sys2Proof/Machine/Tensor.lean ====
section
/-! DEFINITION. Tensor descriptors (08 R202 to R205): their fields and checks, how a core reads them, and where an
element lies. -/

namespace Sys2Proof.Machine

/-- A tensor descriptor (Table 8-8). -/
structure Tensor where
  base   : Nat
  ty     : Nat
  rank   : Nat
  layout : Nat
  paden  : Bool
  gsz    : Nat
  dims   : List Nat
  strs   : List Nat
  padv   : Nat
  gp     : Nat
  deriving DecidableEq, Repr

/-- Group size of weights (Table 8-8 GSZ). -/
def groupSize (gsz : Nat) : Nat := if gsz = 1 then 32 else if gsz = 2 then 64 else 128

/-- Codes that a descriptor's TYPE may hold: those of Table 10-1 but e8m0. -/
def isTensorType (c : Nat) : Bool := (1 ≤ c && c ≤ 14) || c = 16 || c = 17

/-- Whether a type code is q4 or q3. -/
def isWeight (c : Nat) : Bool := c = 16 || c = 17

/-- The descriptor that 64 bytes hold; none where it is not VALID, sets a reserved field or holds a value outside
Table 8-8 (R204). -/
def Tensor.ofNat (n : Nat) : Option Tensor :=
  let dim (d : Nat) : Nat := bitsOf n (128 + 32 * d) 32
  let str (d : Nat) : Nat := if d = 0 then 1 else bitsOf n (320 + 32 * (d - 1)) 32
  let rank := bitsOf n 72 3
  let ty := bitsOf n 64 8
  let gsz := bitsOf n 80 2
  let base := bitsOf n 0 64
  let gp := bitsOf n 448 64
  let size := if isWeight ty then 4 else typeBytes ty
  let ok := bitOf n 78 ∧ bitsOf n 82 46 = 0 ∧ ¬ bitOf n 79 ∧ bitsOf n 75 2 ≤ 1 ∧ 1 ≤ rank ∧ rank ≤ 5 ∧ isTensorType ty ∧
    base < 2 ^ 56 ∧ base % size = 0 ∧ decide (gsz ≠ 0) = isWeight ty ∧ gp % 4 = 0 ∧ (gsz = 0 → gp = 0) ∧
    (isWeight ty = true → dim 0 % groupSize gsz = 0) ∧
    ((List.range 5).all fun d => if d < rank then dim d ≠ 0 else dim d = 0) ∧
    ((List.range 5).all fun d => d = 0 || d < rank || str d = 0)
  if ok then
    some
      { base := base, ty := ty, rank := rank, layout := bitsOf n 75 2, paden := bitOf n 77, gsz := gsz
        dims := (List.range 5).map dim, strs := (List.range 5).map str, padv := bitsOf n 288 32, gp := gp }
  else none

/-- The pad bytes of an element (R203): the low bits of PADV, or zero; the upper half of a 64-bit element is a free
value, since PADV has 32 bits (log 41). -/
def Tensor.padBytes (t : Tensor) (free size : Nat) : List Byte :=
  if t.paden then bytesLE size (if size = 8 then t.padv + 2 ^ 32 * ((Config.freeWord free).toNat / 2 ^ 32) else t.padv)
  else bytesLE size 0

/-- Whether coordinates lie inside the tensor; dimensions at or above RANK have extent 1 (R203, R319). -/
def Tensor.inside (t : Tensor) (is : List Int) : Bool :=
  (List.range 5).all fun d =>
    let i := (is[d]?).getD 0
    decide (0 ≤ i) && decide (i < (if d < t.rank then (((t.dims[d]?).getD 0 : Nat) : Int) else 1))

/-- The linear index of coordinates inside the tensor (R203). -/
def Tensor.linear (t : Tensor) (is : List Int) : Nat :=
  ((List.range t.rank).map fun d => ((is[d]?).getD 0).toNat * (t.strs[d]?).getD 0).sum

/-- The address of an element, modulo 2^64; none outside. -/
def Tensor.addr (t : Tensor) (is : List Int) : Option Nat :=
  if t.inside is then some ((t.base + typeBytes t.ty * t.linear is) % 2 ^ 64) else none

/-- Why a descriptor cannot be used. -/
structure TensorFault where
  cause  : Nat
  detail : Nat
  addr   : Nat
  deriving DecidableEq, Repr

/-- The bad-tensor-id fault (0x07). -/
def badTensor : TensorFault := { cause := 7, detail := 0, addr := 0 }

/-- What an instruction finds of its descriptor: a fault; bytes that the host has still to give; a page that does not
translate where no lane is active; or the tensor. -/
inductive TensorGet where
  | bad (f : TensorFault)
  | wait
  | skip
  | ok (t : Tensor)
  deriving DecidableEq, Repr

/-- The tensor that 64 bytes describe. -/
def TensorGet.parse (n : Nat) : TensorGet := match Tensor.ofNat n with
  | none => .bad badTensor
  | some t => .ok t

/-- The lane under which the bytes of a descriptor that lies in host memory are asked for: no lane has this number. -/
def descLane : Nat := 1024

/-- The descriptor that an instruction of a core names (R204, R205): from the core's 64 cached descriptors, else read at
TENSTAB + 64 × id over the tile-layout path and cached. Which fault it takes where the descriptor's page does not translate or
lacks RD the spec does not say: the model takes the page or protection fault at the descriptor's address and names no lane
(DESIGN CHOICE, log 70). A full cache gives up the descriptor that entered first, whatever has hit since: the spec gives no rule (DESIGN
CHOICE, log 69). With no active lane it never faults on an address (R27): the descriptor is checked where it can be
read. -/
def State.tensor (s : State) (c : Cur) (x : Ctx) (id : Nat) : State × TensorGet :=
  if 4096 ≤ id then (s, .bad badTensor) else
  match (s.core c.g.core).descs.find? fun d => d.asid = c.g.asid && d.id = id with
  | some d => (s, TensorGet.parse d.desc.toNat)
  | none =>
    let idle := (c.workers s.guard).isEmpty
    let va := x.tenstab + 64 * id
    let t := s.translate c.g.core c.g.asid x va .read
    match t.2 with
    | .error f => (t.1, if idle then .skip else .bad { cause := f.cause, detail := f.detail, addr := va })
    | .ok y =>
      if isHostMem y.pa then
        let h := t.1.hostFetch c.r c.p.clauseId descLane y.pa 64
        match h.2 with
        | none => (h.1, .wait)
        | some bs => (h.1.hostTaken c.r descLane, TensorGet.parse (natLE bs))
      else
        let alloc : Bool := ¬ y.attr.nrd && ¬ y.attr.uncached
        if t.1.poisonedDie c.g.core y.pa 64 alloc then
          (t.1, if idle then .skip else .bad { cause := 0x10, detail := 0, addr := va })
        else
          let r := t.1.dieRead c.g.core y.pa 64 alloc y.attr.low
          let n := natLE r.2
          let l : DescLine := { asid := c.g.asid, id := id, desc := BitVec.ofNat 512 n }
          let s := if y.attr.uncached then r.1 else r.1.modCore c.g.core fun k => { k with descs := (l :: k.descs).take 64 }
          (s, TensorGet.parse n)

/-- A fault of a descriptor taken by the instruction, whatever its lanes (R204, R277). -/
def State.tensorTrap (s : State) (r : Ref) (f : TensorFault) : State := s.takeTrap r f.cause f.detail f.addr 0 false

/-- An instruction that names a tensor: its descriptor is checked whatever the lanes (R204), a type that the form does not take
is a bad tensor id (R319, R335); then its effect, without a tensor where no lane is active and none can be read. While the host
has still to give the descriptor, it waits. -/
def State.withTensor (s : State) (c : Cur) (k : Ctx) (id : Nat) (ok : Tensor → Bool) (f : State → Option Tensor → State) :
    State :=
  let r := s.tensor c k id
  match r.2 with
  | .bad e => r.1.tensorTrap c.r e
  | .wait => r.1
  | .skip => f r.1 none
  | .ok t => if ok t then f r.1 (some t) else r.1.tensorTrap c.r badTensor

/-- The checks of one element that a lane reads or writes: outside, no access is made. Without a tensor no lane that is no helper
is active, and a helper's check fails (R27). -/
def State.checkElem (s : State) (c : Cur) (x : Ctx) (t : Option Tensor) (is : List Int) (acc : Access) : State × Checked :=
  match t with
  | none => (s, .error { cause := 4, detail := 0, addr := 0 })
  | some t => match t.addr is with
    | none => (s, .ok [.pad (t.padBytes s.free (typeBytes t.ty))])
    | some va => s.checkG c x va (typeBytes t.ty) acc

/-- The checks of several places of one lane, in order; the first failure ends them. -/
def State.checkMany {α : Type} (s : State) (l : List α) (chk : State → α → State × Checked) : State × Checked :=
  l.foldl (fun e a => match e.2 with
    | .error _ => e
    | .ok ps =>
      let r := chk e.1 a
      match r.2 with
      | .error f => (r.1, .error f)
      | .ok qs => (r.1, .ok (ps ++ qs))) (s, .ok [])

end Sys2Proof.Machine
end

