-- ==== Sys2Proof/Machine/MatMem.lean ====
section
/-! DEFINITION. Matrix loads and stores: majors 0x31 to 0x33 (14 R319 to R321). -/

namespace Sys2Proof.Machine

/-- The coordinates that A and B give (R319): i0 and i1 in the pair, i2 in B. -/
def coordsOf (l : Lane) (o : OpG) : Nat × Nat × Nat :=
  ((l.getV o.a.toNat).toNat, (l.getV (o.a.toNat + 1)).toNat, (l.getV o.b.toNat).toNat)

/-- The coordinates of element (i, j); a sum beyond 32 bits lies outside every dimension. -/
def elemCoords (k : Nat × Nat × Nat) (i j : Nat) : List Int :=
  [((k.1 + j : Nat) : Int), ((k.2.1 + i : Nat) : Int), (k.2.2 : Int), 0, 0]

/-- The shape of D's tag as an operand of a memory form: none where it is invalid or TYPE does not agree (R312,
R319). -/
def Lane.shape (l : Lane) (mregs n : Nat) (ty : BitVec 8) : Option Mat := l.mat mregs n ty

/-- The places (i, j) of a shape, in row-major order. -/
def places (r c : Nat) : List (Nat × Nat) := (List.range (r * c)).map fun k => (k / c, k % c)

/-- The checks of the address form (R319, R320): the address and the stride are multiples of the element size; every
element is checked. -/
def State.checkRows (s : State) (c : Cur) (x : Ctx) (o : OpG) (l r k size : Nat) (acc : Access) : State × Checked :=
  let ln := c.t.lane l
  let va := (ln.getV2 o.a.toNat).toNat
  let stride := (ln.getV o.b.toNat).toInt
  if va % size ≠ 0 ∨ stride % (size : Int) ≠ 0 then (s, .error { cause := 6, detail := 0, addr := va })
  else s.checkMany (places r k) fun s e =>
    s.checkG c x (((va : Int) + e.1 * stride + ((e.2 * size : Nat) : Int)) % ((2 ^ 64 : Nat) : Int)).toNat size acc

/-- A matrix form whose lanes' shapes are checked first (R313): a bad-shape fault, or the restartable access. -/
def State.shaped (s : State) (c : Cur) (shape : Lane → Option Mat) (k : (Nat → Mat) → Restart) : State :=
  let act := c.act s.guard
  let bad := act.filter fun l => (shape (c.t.lane l)).isNone
  if bad.isEmpty then
    s.restartable c (k fun l => (shape (c.t.lane l)).getD { r := 1, c := 1, ty := 1, el := [] })
  else s.takeTrap c.r 8 0 0 (laneSet bad) false

/-- A load of a matrix by each lane: how it reads, the rank at which it acquires, how it is checked. -/
def Cur.matLoad (c : Cur) (o : OpG) (m : Nat → Mat) (how : How) (acq : Option Nat)
    (check : State → Nat → Mat → State × Checked) : Restart :=
  { rel := none
    acq := acq
    suppress := false
    how := how
    grain := 1
    check := fun s l => check s l (m l)
    arg := fun l => .into (.mat o.d.toNat (m l).r (m l).c (m l).ty)
    zero := fun l => LaneOut.slots (((c.t.lane l).matWrite c.t.mregs o.d.toNat { m l with el := (m l).el.map fun _ => 0 }).getD []) }

/-- A store of a matrix by each lane. -/
def Cur.matStore (m : Nat → Mat) (rel : Option Nat) (rank : Nat) (check : State → Nat → Mat → State × Checked) : Restart :=
  { rel := rel
    acq := none
    suppress := true
    how := .store rank false
    grain := 1
    check := fun s l => check s l (m l)
    arg := fun l => .bytes ((m l).el.flatMap fun e => bytesLE (typeBytes (m l).ty) e)
    zero := fun _ => LaneOut.slots [] }

/-- The context of the path, or nothing done. -/
def State.withCtx (s : State) (c : Cur) (k : Ctx → State) : State :=
  match tget s.ctxs c.g.asid with
  | none => s
  | some x => k x

/-- A shape of zero elements. -/
def blank (r k ty : Nat) : Mat := { r := r, c := k, ty := ty, el := List.replicate (r * k) 0 }

/-- MLD, address form (R319). -/
def execMld (o : OpG) (x : MMem) (s : State) : Res :=
  s.issue (.mld o x) fun c => s.withCtx c fun k =>
    let rank := scopeRank k c.g.core x.scope.toNat
    let imm := blank (x.nr.toNat + 1) (x.nc.toNat + 1) x.ty.toNat
    if x.shp = 1 ∧ ¬ shapeFits c.t.mregs o.d.toNat imm.r imm.c imm.ty then s.takeTrap c.r 8 0 0 0 false
    else
      let acq := ordAcq x.ord
      let shape (l : Lane) : Option Mat :=
        if x.shp = 1 then (if oddOfPair l o.d.toNat then none else some imm) else l.shape c.t.mregs o.d.toNat x.ty
      s.shaped c shape fun m =>
        c.matLoad o m (.load none (acq && 2 ≤ rank)) (if acq then some rank else none) fun s l m =>
          s.checkRows c k o l m.r m.c (typeBytes m.ty) .read

/-- MST, address form (R319). -/
def execMst (o : OpG) (x : MMem) (s : State) : Res :=
  s.issue (.mst o x) fun c => s.withCtx c fun k =>
    let rank := scopeRank k c.g.core x.scope.toNat
    s.shaped c (fun l => l.shape c.t.mregs o.d.toNat x.ty) fun m =>
      Cur.matStore m (if ordRel x.ord then some rank else none) rank fun s l m =>
        s.checkRows c k o l m.r m.c (typeBytes m.ty) .write

/-- The shape of a tag for a tensor form: its type is the tensor's (R319). -/
def tensorShape (t : Option Tensor) (m : Mat) : Option Mat :=
  match t with
  | none => some m
  | some t => if m.ty = t.ty then some m else none

/-- MLD, tensor form (R319): elements over the tile-layout path. -/
def execMldT (o : OpG) (x : MMem) (s : State) : Res :=
  s.issue (.mldT o x) fun c => s.withCtx c fun k =>
    s.withTensor c k (c.p.getS x.sx.toNat).toNat (fun t => allTypes.contains t.ty) fun s t =>
      let shape (l : Lane) : Option Mat := (l.shape c.t.mregs o.d.toNat x.ty).bind (tensorShape t)
      s.shaped c shape fun m =>
        c.matLoad o m (.load (some .tile) false) none fun s l m => s.checkMany (places m.r m.c) fun s e =>
          s.checkElem c k t (elemCoords (coordsOf (c.t.lane l) o) e.1 e.2) .read

/-- MST, tensor form (R319): elements over the ordinary path; those outside are dropped. -/
def execMstT (o : OpG) (x : MMem) (s : State) : Res :=
  s.issue (.mstT o x) fun c => s.withCtx c fun k =>
    let rank := scopeRank k c.g.core x.scope.toNat
    s.withTensor c k (c.p.getS x.sx.toNat).toNat (fun t => allTypes.contains t.ty) fun s t =>
      let shape (l : Lane) : Option Mat := (l.shape c.t.mregs o.d.toNat x.ty).bind (tensorShape t)
      s.shaped c shape fun m =>
        Cur.matStore m (if ordRel x.ord then some rank else none) rank fun s l m => s.checkMany (places m.r m.c) fun s e =>
          s.checkElem c k t (elemCoords (coordsOf (c.t.lane l) o) e.1 e.2) .write

/-- Whether the strides of a weight tensor keep words and blocks whole (R319). -/
def weightOk (t : Tensor) : Bool :=
  isWeight t.ty && (List.range 5).all fun d =>
    d = 0 || d ≥ t.rank || (t.strs[d]?).getD 0 % (if t.ty = 16 then 8 else 32) = 0

/-- The checks of one weight and its group's entry (R321). -/
def State.checkWeight (s : State) (c : Cur) (k : Ctx) (t : Option Tensor) (is : List Int) : State × Checked :=
  match t with
  | none => (s, .error { cause := 4, detail := 0, addr := 0 })
  | some t =>
  if ¬ t.inside is then (s, .ok [.pad (t.padBytes s.free 2)])
  else
    let x := t.linear is
    let at_ (d : Nat) : Nat := ((is[d]?).getD 0).toNat
    let dim (d : Nat) : Nat := if d < t.rank then (t.dims[d]?).getD 0 else 1
    let gs := groupSize t.gsz
    let g := at_ 0 / gs + dim 0 / gs * (at_ 1 + dim 1 * at_ 2)
    let words := if t.ty = 16 then [t.base + 4 * (x / 8)]
      else [t.base + 12 * (x / 32), t.base + 12 * (x / 32) + 4, t.base + 12 * (x / 32) + 8]
    s.checkMany (words ++ [t.gp + 4 * g]) fun s va => s.checkG c k (va % 2 ^ 64) 4 .read

/-- The weight that an element of a lane is, by its place in its word of 8 or its block of 32; none outside the tensor. -/
def weightPlace (t : Tensor) (is : List Int) : Option (Bool × Nat) :=
  if ¬ t.inside is then none
  else if t.ty = 16 then some (true, t.linear is % 8) else some (false, t.linear is % 32)

/-- MLDW (R321): q4 or q3 weights expanded to bf16. -/
def execMldw (o : OpG) (x : MMem) (s : State) : Res :=
  s.issue (.mldw o x) fun c => s.withCtx c fun k =>
    s.withTensor c k (c.p.getS x.sx.toNat).toNat weightOk fun s t =>
      let shape (l : Lane) : Option Mat :=
        (l.shape c.t.mregs o.d.toNat x.ty).bind fun m => if m.ty = 3 then some m else none
      let coords (l : Nat) (m : Mat) : List (List Int) :=
        (places m.r m.c).map fun e => elemCoords (coordsOf (c.t.lane l) o) e.1 e.2
      s.shaped c shape fun m =>
        { rel := none
          acq := none
          suppress := false
          how := .load (some .tile) false
          grain := 1
          check := fun s l => s.checkMany (coords l (m l)) fun s is => s.checkWeight c k t is
          arg := fun l => .into (.weights o.d.toNat (m l).r (m l).c (match t with
            | none => []
            | some t => (coords l (m l)).map (weightPlace t)))
          zero := fun l => LaneOut.slots (((c.t.lane l).matWrite c.t.mregs o.d.toNat
            { m l with el := (m l).el.map fun _ => 0 }).getD []) }

end Sys2Proof.Machine
end

