-- ==== Sys2Proof/Machine/MemOps.lean ====
section
/-! DEFINITION. Loads and stores, atomics, future cells, fences and prefetch: majors 0x40 to 0x47 and 0x4A (15 R332 to
R344). -/

namespace Sys2Proof.Machine

/-- The rank of a scope entry on the path's core (R43). -/
def Cur.rank (c : Cur) (x : Ctx) (scope : BitVec 5) : Nat := scopeRank x c.g.core scope.toNat

/-- Whether a load reads past the L1 (R46). -/
def Cur.wideAcq (c : Cur) (x : XMem) (k : Ctx) : Bool := ordAcq x.ord && 2 ≤ c.rank k x.scope

/-- The rank at which an access releases first, where its ORD asks for that. -/
def Cur.relRank (c : Cur) (x : XMem) (k : Ctx) : Option Nat := if ordRel x.ord then some (c.rank k x.scope) else none

/-- The rank at which an access acquires after its last lane, where its ORD asks for that. -/
def Cur.acqRank (c : Cur) (x : XMem) (k : Ctx) : Option Nat := if ordAcq x.ord then some (c.rank k x.scope) else none

/-- A load of SZ bytes in each lane, as a restartable access: how it reads, how many pieces make one event, its checks. -/
def Cur.load (c : Cur) (o : OpG) (x : XMem) (k : Ctx) (how : How) (grain : Nat) (check : State → Nat → State × Checked) : Restart :=
  { rel := none
    acq := c.acqRank x k
    suppress := false
    how := how
    grain := grain
    check := check
    arg := fun _ => .into (.regs o.d.toNat (x.sx = 1))
    zero := fun _ => LaneOut.regs (loadRegs o.d.toNat false (List.replicate (szBytes x.sz) 0)) }

/-- A read over the ordinary path: an acquire load at cell rank or wider reads past the L1 (R46). -/
def Cur.plain (c : Cur) (x : XMem) (k : Ctx) : How := .load none (c.wideAcq x k)

/-- The pieces of one event of a private access: 64 bits are two words (R31, R71). -/
def privGrain (x : XMem) : Nat := if 8 ≤ szBytes x.sz then 2 else 1

/-- LD.g (Table 15-2). -/
def execLdG (o : OpG) (x : XMem) (s : State) : Res :=
  s.issue (.ldG o x) fun c => s.withCtx c fun k => s.restartable c (c.load o x k (c.plain x k) 1 fun s l =>
    s.checkG c k (gAddr c o x.ub x.off.toInt l) (szBytes x.sz) .read)

/-- LD.l: own scratchpad or the gang window. -/
def execLdL (o : OpG) (x : XMem) (s : State) : Res :=
  s.issue (.ldL o x) fun c => s.withCtx c fun k => s.restartable c (c.load o x k (c.plain x k) 1 fun s l =>
    (s, s.checkL c (lOff c o x.ub x.off.toInt l) (szBytes x.sz)))

/-- LD.p: the lane's private bytes. -/
def execLdP (o : OpG) (x : XMem) (s : State) : Res :=
  s.issue (.ldP o x) fun c => s.withCtx c fun k => s.restartable c (c.load o x k (c.plain x k) (privGrain x) fun s l =>
    s.checkP c k l (lOff c o x.ub x.off.toInt l) (szBytes x.sz) .read)

/-- LD.c: through the constant path. -/
def execLdC (o : OpG) (x : XMem) (s : State) : Res :=
  s.issue (.ldC o x) fun c => s.withCtx c fun k => s.restartable c (c.load o x k (.load (some .constant) false) 1 fun s l =>
    s.checkG c k (gAddr c o x.ub x.off.toInt l) (szBytes x.sz) .read)

/-- SMP (R334): a gather over the sampler path. -/
def execSmp (o : OpG) (x : XMem) (s : State) : Res :=
  s.issue (.smp o x) fun c => s.withCtx c fun k => s.restartable c (c.load o x k (.load (some .sampler) false) 1 fun s l =>
    let va := addOff 64 (gAddr c o x.ub x.off.toInt l) (((c.t.lane l).getV o.b.toNat).toNat * szBytes x.sz : Nat)
    s.checkG c k va (szBytes x.sz) .read)

/-- LDT (R335): one tensor element in each lane, over the tile-layout path. -/
def execLdt (o : OpG) (x : XMem) (s : State) : Res :=
  s.issue (.ldt o x) fun c => s.withCtx c fun k =>
    s.withTensor c k (c.p.getS o.b.toNat).toNat (fun t => ¬ isWeight t.ty && typeBytes t.ty = szBytes x.sz) fun s t =>
      let coords (l : Nat) : List Int :=
        let v (i : Nat) : Int := (((c.t.lane l).getV (o.a.toNat + i)).toNat : Int)
        [v 0 + x.off.toInt, v 1, v 2, v 3, 0]
      s.restartable c (c.load o x k (.load (some .tile) false) 1 fun s l => s.checkElem c k t (coords l) .read)

/-- A store of SZ bytes in each lane: its checks, and whether it writes through. -/
def Cur.store (c : Cur) (o : OpG) (x : XMem) (k : Ctx) (through : Bool) (grain : Nat) (check : State → Nat → State × Checked) : Restart :=
  { rel := c.relRank x k
    acq := none
    suppress := true
    how := .store (c.rank k x.scope) through
    grain := grain
    check := check
    arg := fun l => .bytes (storeBytes (c.t.lane l) o.b.toNat (szBytes x.sz))
    zero := fun _ => LaneOut.regs [] }

/-- ST.g (Table 15-2), under the policy of Table 2-1. -/
def execStG (o : OpG) (x : XMem) (s : State) : Res :=
  s.issue (.stG o x) fun c => s.withCtx c fun k => s.restartable c (c.store o x k false 1 fun s l =>
    s.checkG c k (gAddr c o x.ub x.off.toInt l) (szBytes x.sz) .write)

/-- ST.l: written at the owning core. -/
def execStL (o : OpG) (x : XMem) (s : State) : Res :=
  s.issue (.stL o x) fun c => s.withCtx c fun k => s.restartable c (c.store o x k false 1 fun s l =>
    (s, s.checkL c (lOff c o x.ub x.off.toInt l) (szBytes x.sz)))

/-- ST.p. -/
def execStP (o : OpG) (x : XMem) (s : State) : Res :=
  s.issue (.stP o x) fun c => s.withCtx c fun k => s.restartable c (c.store o x k false (privGrain x) fun s l =>
    s.checkP c k l (lOff c o x.ub x.off.toInt l) (szBytes x.sz) .write)

/-- ST.gw: written through to the home slice at any scope. -/
def execStGw (o : OpG) (x : XMem) (s : State) : Res :=
  s.issue (.stGw o x) fun c => s.withCtx c fun k => s.restartable c (c.store o x k true 1 fun s l =>
    s.checkG c k (gAddr c o x.ub x.off.toInt l) (szBytes x.sz) .write)

/-- The atomic request of a lane (R336): b from B, CAS's new value from the registers after it. -/
def atomReq (l : Lane) (b : Nat) (x : XAtm) : AtomReq :=
  if atomBits x.aty = 64 then { op := x.aop, ty := x.aty, b := l.getV2 b, c := l.getV2 (b + 2) }
  else { op := x.aop, ty := x.aty, b := (l.getV b).setWidth 64, c := (l.getV (b + 1)).setWidth 64 }

/-- The words of an atomic's old value in D. -/
def atomRegs (d : Nat) (x : XAtm) (old : Nat) : List (Nat × Word) :=
  if atomBits x.aty = 64 then [(d, word old), (d + 1, word (old / 2 ^ 32))] else [(d, word old)]

/-- The checks of a global atomic in a lane: as R24, and the host region's limits (R35). In the device-register region, where
a supervisor context may have a page, the spec says nothing of atomics; the model takes the protection fault with detail 7, as
for an atomic that the host region does not support (DESIGN CHOICE, log 16). -/
def State.checkAtom (s : State) (c : Cur) (k : Ctx) (o : OpG) (x : XAtm) (ret : Bool) (l : Nat) : State × Checked :=
  let va := gAddr c o x.ub x.off.toInt l
  let r := s.checkG c k va (atomBits x.aty / 8) .rmw
  match r.2 with
  | .ok [.mem va pa n a] =>
    if isDeviceMem pa ∨ isHostMem pa ∧ ret ∧ (busOp x.aop).isSome ∧ x.aty.toNat < 4 then (r.1, .ok [.mem va pa n a])
    else (r.1, .error { cause := 5, detail := 7, addr := va })
  | _ => r

/-- The access of an atomic instruction: its old value goes to D where it returns one. -/
def Cur.atomAcc (c : Cur) (o : OpG) (x : XAtm) (k : Ctx) (ret : Bool) (check : State → Nat → State × Checked) : Restart :=
  let rank := c.rank k x.scope
  { rel := if ordRel x.ord then some rank else none
    acq := if ordAcq x.ord then some rank else none
    suppress := false
    how := .atom
    grain := 1
    check := check
    arg := fun l => .rmw (atomReq (c.t.lane l) o.b.toNat x) (if ret then some o.d.toNat else none)
    zero := fun _ => LaneOut.regs (atomRegs o.d.toNat x 0) }

/-- An atomic instruction (R26, R336 to R338): every lane or none; a release RMW releases first, an acquire RMW
acquires after its last lane (R79); a helper lane's returning form writes zero. -/
def State.atomic (s : State) (c : Cur) (k : Ctx) (o : OpG) (x : XAtm) (ret : Bool)
    (check : State → Nat → State × Checked) : State :=
  let a := c.atomAcc o x k ret check
  s.allOrNone c check (fun s ps => s.wouldPoison c.g.core .atom ps) fun s ps =>
    s.goAll c a ps (((c.act s.guard).filter fun l => ret ∧ c.t.helper l).map fun l => (l, a.zero l))

/-- ATOM (R337). -/
def execAtom (o : OpG) (x : XAtm) (s : State) : Res :=
  s.issue (.atom o x) fun c => s.withCtx c fun k => s.atomic c k o x true fun s l => s.checkAtom c k o x true l

/-- RED: as ATOM, without a result. -/
def execRed (o : OpG) (x : XAtm) (s : State) : Res :=
  s.issue (.red o x) fun c => s.withCtx c fun k => s.atomic c k o x false fun s l => s.checkAtom c k o x false l

/-- ATOM.l: at the core that owns the scratchpad. -/
def execAtomL (o : OpG) (x : XAtm) (s : State) : Res :=
  s.issue (.atomL o x) fun c => s.withCtx c fun k => s.atomic c k o x true fun s l =>
    (s, s.checkL c (lOff c o x.ub x.off.toInt l) (atomBits x.aty / 8))

/-- RED.l. -/
def execRedL (o : OpG) (x : XAtm) (s : State) : Res :=
  s.issue (.redL o x) fun c => s.withCtx c fun k => s.atomic c k o x false fun s l =>
    (s, s.checkL c (lOff c o x.ub x.off.toInt l) (atomBits x.aty / 8))

/-- The checks of a future cell in a lane: an aligned 64-bit word of device memory; in the host region a protection fault with
detail 7 (R35, R339, R340), and so in the device-register region, of which the spec does not speak (DESIGN CHOICE, log 16). -/
def State.checkCell (s : State) (c : Cur) (k : Ctx) (o : OpG) (x : XMem) (acc : Access) (l : Nat) : State × Checked :=
  let va := gAddr c o x.ub x.off.toInt l
  let r := s.checkG c k va 8 acc
  match r.2 with
  | .ok [.mem va pa n a] =>
    if isDeviceMem pa then (r.1, .ok [.mem va pa n a]) else (r.1, .error { cause := 5, detail := 7, addr := va })
  | _ => r

/-- The requests of an LDF: one for the lanes of one mask word that name one cell (R62). -/
def ldfReqs (c : Cur) (o : OpG) (id : Nat) (ps : List (Nat × List Piece)) : List Defer :=
  let at_ := ps.filterMap fun e => match e.2 with
    | [.mem va pa _ a] => some (e.1, pa / 8, va, a)
    | _ => none
  ((at_.map fun e => (e.1 / 32, e.2.1)).dedup).map fun w =>
    let mine := at_.filter fun e => (e.1 / 32, e.2.1) = w
    let lanes := mine.foldl (fun m e => m ||| (1#32 <<< (e.1 % 32))) 0
    { cell := w.2, va := ((mine.head?).map fun e => e.2.2.1).getD 0
      attr := ((mine.head?).map fun e => e.2.2.2).getD { uncached := false, nrd := false, low := false }
      asid := c.g.asid, core := c.g.core, path := c.r, word := w.1, lanes := lanes, dst := o.d.toNat, status := o.b.toNat
      deadline := 0, ldf := id }

/-- LDF (R339): each request goes to its home slice (FUTURE_CELL_READ); helper lanes receive zero and false. -/
def execLdf (o : OpG) (x : XMem) (s : State) : Res :=
  s.issue (.ldf o x) fun c => s.withCtx c fun k =>
    s.allOrNone c (fun s l => s.checkCell c k o x .read l) (fun s ps => ps.any (s.poisonHome ·)) fun s ps =>
      let s := s.catchUp c.r (ps.flatMap Prod.snd)
      let id := s.fresh
      let zero : LaneOut :=
        { m := [], v := [(o.d.toNat, 0), (o.d.toNat + 1, 0)], p := [(o.b.toNat, false)], fail := false }
      let helpers := ((c.act s.guard).filter fun l => c.t.helper l).map fun l => (l, zero)
      let s := ({ s with fresh := id + 1 }).landOuts c.r c.p.clauseId helpers
      let reqs := ldfReqs c o id ps
      if reqs.isEmpty then (if ordAcq x.ord then s.acquire c.g.core (c.rank k x.scope) else s).advance c.r
      else
        let l : Ldf :=
          { path := c.r, clause := c.p.clauseId, code := 0, left := reqs.length, reqs := reqs, held := false
            acq := if ordAcq x.ord then some x.scope.toNat else none, slots := 1#2 <<< c.r.slot }
        (({ s with ldfs := tset s.ldfs id l, cellReqs := s.cellReqs ++ reqs }).addOp c.r c.p.clauseId id).advance c.r

/-- STF (R340): a release at SCOPE and no acquire, whatever ORD holds, and a write through to the home slice. -/
def execStf (o : OpG) (x : XMem) (s : State) : Res :=
  s.issue (.stf o x) fun c => s.withCtx c fun k =>
    let check (s : State) (l : Nat) : State × Checked := s.checkCell c k o x .write l
    let a : Restart :=
      { rel := some (c.rank k x.scope), acq := none, suppress := false, how := .store 5 true, grain := 1, check := check
        arg := fun l => .bytes (bytesLE 8 ((c.t.lane l).getV2 o.b.toNat).toNat), zero := fun _ => LaneOut.regs [] }
    s.allOrNone c check (fun _ _ => false) fun s ps => s.goAll c a ps []

/-- FENCE (R341): by ORD a release, an acquire, or a full fence (R82). -/
def execFence (o : OpG) (x : XFence) (s : State) : Res :=
  s.issue (.fence o x) fun c => s.withCtx c fun k =>
    let rank := c.rank k x.scope
    (if x.ord = 3 then s.fullFence c.g.core rank
    else if ordRel x.ord then s.release c.g.core rank
    else if ordAcq x.ord then s.acquire c.g.core rank
    else s).advance c.r

/-- The path caches of a core that a PATHS mask names, emptied (R54). The tile path's cache of descriptors goes with
it (R205). -/
def Core.clearPaths (c : Core) (paths : BitVec 4) : Core :=
  { c with
    constC := if paths.getLsbD 0 then [] else c.constC
    smpC := if paths.getLsbD 1 then [] else c.smpC
    tileC := if paths.getLsbD 2 then [] else c.tileC
    descs := if paths.getLsbD 2 then [] else c.descs
    instC := if paths.getLsbD 3 then [] else c.instC }

/-- PFENCE (R54, R342): a release at SCOPE, then the named caches of every core of SCOPE and, for the instruction path,
of the cells that hold one. -/
def execPfence (o : OpG) (x : XFence) (s : State) : Res :=
  s.issue (.pfence o x) fun c => s.withCtx c fun k =>
    let covers (n : Nat) : Bool := scopeCovers k c.g.core x.scope.toNat n
    let s := s.release c.g.core (c.rank k x.scope)
    let hit (n : Nat) : Bool := (List.range 16).any fun i => covers (16 * n + i)
    let s : State := { s with
      cores := tmap s.cores fun n e => if covers n then e.clearPaths x.paths else e
      cells := tmap s.cells fun n e => if x.paths.getLsbD 3 && hit n then { e with instC := [] } else e }
    s.advance c.r

/-- Each lane's line acted on where its address translates for an access; other lanes are dropped (R343, R344). Which
permission WBACK needs Table 1-4 does not say; the model asks for RD, as PREF does (DESIGN CHOICE, log 71). -/
def State.eachLine (s : State) (c : Cur) (k : Ctx) (o : OpG) (x : XMem) (ls : List Nat)
    (f : State → Nat → Attr → State) : State :=
  ls.foldl (fun s l =>
    let r := s.translate c.g.core c.g.asid k (gAddr c o x.ub x.off.toInt l) .read
    match r.2 with
    | .error _ => r.1
    | .ok y => f r.1 y.pa y.attr) s

/-- WBACK (R343): the dirty bytes of each lane's line go home, whatever its tag. -/
def execWback (o : OpG) (x : XMem) (s : State) : Res :=
  s.issue (.wback o x) fun c => s.withCtx c fun k =>
    (s.eachLine c k o x (c.workers s.guard) fun s pa _ => s.writeBack c.g.core (pa / 128)).advance c.r

/-- A fill of a die's RDC asked for at the line's home: its bytes travel to the die with their poison (RDC_FILL, R51, R68). -/
def State.askRdc (s : State) (die line : Nat) (low : Bool) : State :=
  let r := s.fillSectors 15 low (CLine.fresh line 0)
  let s := r.1.modDir line fun d => { d with sent := d.sent ||| (1#8 <<< die) }
  { s with rdcFill := s.rdcFill ++ [{ die := die, line := r.2, spoilt := false, low := low }] }

/-- PREF (R344): with SZ 0 the line is requested into the L1; with SZ 1 into the RDC, or into the home slice when local. -/
def execPref (o : OpG) (x : XMem) (s : State) : Res :=
  s.issue (.pref o x) fun c => s.withCtx c fun k =>
    (s.eachLine c k o x (c.act s.guard) fun s pa a =>
      if a.uncached then s
      else if x.sz = 0 then (s.l1Load c.g.core (pa / 128 * 128) 128 a).1
      else if homeDie pa = dieOf c.g.core then (s.recall (pa / 128)).l2Use (pa / 128) a.low
      else if a.nrd then s
      else s.askRdc (dieOf c.g.core) (pa / 128) a.low).advance c.r

end Sys2Proof.Machine
end

