-- ==== Sys2Proof/Machine/Sync.lean ====
section
/-! DEFINITION. Barrier instructions and markers: majors 0x48 and 0x49 (05 R116 to R134, 15 R345 to R348). -/

namespace Sys2Proof.Machine

/-- The operand of a barrier form: VALUE, or the s register that B names (R345). -/
def Cur.barOperand (c : Cur) (o : OpG) (x : XBar) : Nat :=
  if x.immf = 1 then x.value.toNat else (c.p.getS o.b.toNat).toNat

/-- The place of the object that A names, checked once per execution (R117, R346). -/
def State.atBar (s : State) (c : Cur) (o : OpG) (k : Nat → Nat → State) : State :=
  match s.checkL c (c.p.getS o.a.toNat).toNat 16 with
  | .error f => s.takeTrap c.r f.cause f.detail f.addr 0 false
  | .ok [.spad _ gid off _] => k gid off
  | .ok _ => s

/-- A step on an object that holds no error; one in error gives a barrier fault (R121, R346). -/
def State.ifSound (s : State) (c : Cur) (gid off : Nat) (k : State) : State :=
  match (s.bar gid off).error with
  | some d => s.takeTrap c.r 0x0C d 0 0 false
  | none => k

/-- BINIT (R118, R346): the object is initialised, then a release. -/
def execBinit (o : OpG) (x : XBar) (s : State) : Res :=
  s.issue (.binit o x) fun c => s.withCtx c fun k =>
    let rank := c.rank k x.scope
    if (c.workers s.guard).isEmpty then (s.release c.g.core rank).advance c.r
    else s.atBar c o fun gid off =>
      let n := c.barOperand o x
      if n = 0 ∨ 4095 < n then s.takeTrap c.r 0x0C 2 0 0 false
      else
        let old := s.bar gid off
        let s := s.spadPut gid off (bytesLE 16 (Bar.init n).toNat)
        let s := if old.phase ≠ 0 then s.mapPaths (Path.wakeOn gid off none) else s
        (s.release c.g.core rank).advance c.r

/-- BARV (R346): a release, then one arrival. -/
def execBarv (o : OpG) (x : XBar) (s : State) : Res :=
  s.issue (.barv o x) fun c => s.withCtx c fun k =>
    let rank := c.rank k x.scope
    if (c.workers s.guard).isEmpty then (s.release c.g.core rank).advance c.r
    else s.atBar c o fun gid off =>
      let s := s.release c.g.core rank
      s.ifSound c gid off ((s.barStep gid off fun b => b.arrive 1).advance c.r)

/-- BEXP (R346): an expectation; it orders nothing. -/
def execBexp (o : OpG) (x : XBar) (s : State) : Res :=
  s.issue (.bexp o x) fun c =>
    if (c.workers s.guard).isEmpty then s.advance c.r
    else s.atBar c o fun gid off =>
      s.ifSound c gid off ((s.barStep gid off fun b => b.expects (c.barOperand o x)).advance c.r)

/-- BARVX (R346): a release, then the expectation and the arrivals in one step. -/
def execBarvx (o : OpG) (x : XBar) (s : State) : Res :=
  s.issue (.barvx o x) fun c => s.withCtx c fun k =>
    let rank := c.rank k x.scope
    if (c.workers s.guard).isEmpty then (s.release c.g.core rank).advance c.r
    else s.atBar c o fun gid off =>
      let s := s.release c.g.core rank
      s.ifSound c gid off ((s.barStep gid off fun b =>
        (b.expects (c.p.getS o.b.toNat).toNat).arrive x.value.toNat).advance c.r)

/-- BWAIT (R122): on while PHASE differs, with an acquire; else the path sleeps, and issues the BWAIT again when it
wakes (R123): it returns after the phase change that woke it, or takes the barrier fault of the error that did (R121), whatever
the object holds by then. -/
def execBwait (o : OpG) (x : XBar) (s : State) : Res :=
  s.issue (.bwait o x) fun c => s.withCtx c fun k =>
    let rank := c.rank k x.scope
    let awake (s : State) : State := s.modPath c.r fun p => { p with wake := none }
    match c.p.wake with
    | some none => ((awake s).acquire c.g.core rank).advance c.r
    | some (some d) => (awake s).takeTrap c.r 0x0C d 0 0 false
    | none =>
    if (c.workers s.guard).isEmpty then (s.acquire c.g.core rank).advance c.r
    else s.atBar c o fun gid off => s.ifSound c gid off
      (if (s.bar gid off).phase ≠ c.barOperand o x % 16 then (s.acquire c.g.core rank).advance c.r
       else s.modPath c.r fun p => { p with status := .asleep gid off })

/-- BTEST (R122): whether PHASE differs, in every active lane; an acquire when it does. -/
def execBtest (o : OpG) (x : XBar) (s : State) : Res :=
  s.issue (.btest o x) fun c => s.withCtx c fun k =>
    let rank := c.rank k x.scope
    if (c.workers s.guard).isEmpty then (s.acquire c.g.core rank).advance c.r
    else s.atBar c o fun gid off => s.ifSound c gid off
      (let changed : Bool := (s.bar gid off).phase ≠ c.barOperand o x % 16
       let s := s.landP c.r c.p.clauseId o.d.toNat ((c.act s.guard).map fun l => (l, changed))
       (if changed then s.acquire c.g.core rank else s).advance c.r)

/-- A marker of a team. -/
def Team.marker (t : Team) (k : Nat) : BitVec 64 := (tget t.markers k).getD 0

/-- A marker set in the CAM of its core (R129, Table 5-7): a name that it replaces is cleared first, as a release at the
scopes that could sweep it, system scope among them (R92), and the clear starts a re-sweep pass (R133). -/
def State.setMarker (s : State) (c : Cur) (k : Nat) (name : BitVec 64) : State :=
  let old := c.t.marker k
  let put (s : State) : State := s.modTeam c.r.gid c.r.role fun t => { t with
    markers := if name = 0 then tdel t.markers k else tset t.markers k name }
  if old = name then s
  else if old = 0 then put s
  else put ((s.release c.g.core 5).modCtx c.g.asid fun x => { x with resweep := true })

/-- MARK (R347): it is before every later read of its path (R79 case 4), and a FROG whose sweep has not seen it is released before
those reads (R93): clean copies that the core may have read before leave its L1. -/
def execMark (o : OpG) (x : XMark) (s : State) : Res :=
  s.issue (.mark o x) fun c =>
    (if (c.workers s.guard).isEmpty then s
      else (s.setMarker c o.d.toNat (c.p.getS2 o.a.toNat)).acquire c.g.core 5).advance c.r

/-- UNMARK (R347): a release in any case (R73), at every scope that could sweep the marker (R92). -/
def execUnmark (o : OpG) (x : XMark) (s : State) : Res :=
  s.issue (.unmark o x) fun c =>
    (if (c.workers s.guard).isEmpty || c.t.marker o.d.toNat = 0 then s.release c.g.core 5
      else s.setMarker c o.d.toNat 0).advance c.r

/-- FROG (R347): a release; its sweep waits in the context's sequencer (R131), which writes the result. Name 0 sweeps
nothing and gives 0 (R133). -/
def execFrog (o : OpG) (x : XMark) (s : State) : Res :=
  s.issue (.frog o x) fun c => s.withCtx c fun k =>
    let act := c.act s.guard
    let name := c.p.getS2 o.a.toNat
    let s := s.release c.g.core (c.rank k x.scope)
    if (act.filter fun l => ¬ c.t.helper l).isEmpty then s.advance c.r
    else if name = 0 then (s.landV c.r c.p.clauseId o.d.toNat (act.map fun l => (l, 0))).advance c.r
    else
      let id := s.fresh
      let w : Sweep :=
        { name := name, scope := x.scope.toNat, core := c.g.core
          who := .frog c.r c.p.clauseId o.d.toNat (laneSet act), op := id }
      let s := ({ s with fresh := id + 1 }).modCtx c.g.asid fun x => { x with sweeps := x.sweeps ++ [w] }
      (s.addOp c.r c.p.clauseId id).advance c.r

/-- FROGQ (R134, R347): the oldest notice popped, with an acquire at the scope it records. -/
def execFrogq (o : OpG) (x : XMark) (s : State) : Res :=
  s.issue (.frogq o x) fun c => s.withCtx c fun k =>
    if (c.workers s.guard).isEmpty then (s.acquire c.g.core 5).advance c.r
    else
      let act := c.act s.guard
      let give (s : State) (name : BitVec 64) (ok : Bool) : State :=
        let s := s.landVs c.r c.p.clauseId o.d.toNat 2 (act.map fun l =>
          (l, [name.extractLsb' 0 32, name.extractLsb' 32 32]))
        s.landP c.r c.p.clauseId o.b.toNat (act.map fun l => (l, ok))
      match k.notices with
      | [] => (give s 0 false).advance c.r
      | n :: rest =>
        let s := give (s.modCtx c.g.asid fun x => { x with notices := rest }) n.name true
        (s.acquire c.g.core (scopeRank k c.g.core n.scope)).advance c.r

end Sys2Proof.Machine
end

