-- ==== Sys2Proof/Machine/Clause.lean ====
section
/-! DEFINITION. Clauses: fetch (01 R28, 12 R259), the checks of a clause (Table 12-2, R260), its gauge (07 R166, Tables
12-10 to 12-13), when a path is ready (07 R172, 12 R261), the start of a clause, and the release of its flags. -/

namespace Sys2Proof.Machine

/-- CLASS of a major (Tables 12-10 to 12-13); none for one outside the map or retired. -/
def classOf (major : Nat) : Option Nat :=
  if (1 ≤ major ∧ major ≤ 0x1B) ∨ (0x20 ≤ major ∧ major ≤ 0x2A) then some 0
  else if 0x30 ≤ major ∧ major ≤ 0x38 then some 1
  else if 0x40 ≤ major ∧ major ≤ 0x4A then some 2
  else if 0x50 ≤ major ∧ major ≤ 0x56 then some 3
  else if 0x60 ≤ major ∧ major ≤ 0x69 then some 4
  else if 0x70 ≤ major ∧ major ≤ 0x75 then some 5
  else none

/-- The greatest FN of the MAT majors from 0x30 (Table 12-11). -/
def matFns : List Nat := [0, 1, 1, 0, 3, 7, 5, 6, 2]

/-- The intrinsic gauge of an instruction by its words (Tables 12-10 to 12-13, R268, R312). A word that no row lists has
none and counts as G0. -/
def gaugeOf (w w1 : Word) : Nat :=
  let m := majorOf w
  let fn := fnOf w
  let fu := fnUOf w
  if m = 0x02 ∨ m = 0x20 ∨ m = 0x21 ∨ m = 0x23 then 1
  else if m = 0x03 then (if fn ≤ 3 then 1 else 0)
  else if m = 0x24 then (if fu ≤ 6 then 2 else if 8 ≤ fu ∧ fu ≤ 12 then 1 else 0)
  else if m = 0x25 then (if fn ≤ 1 then 3 else 0)
  else if m = 0x26 ∨ m = 0x27 then (if fn ≤ 5 then 1 else 0)
  else if m = 0x28 ∨ m = 0x29 then 3
  else if m = 0x2A then (if fn = 0 then 1 else 0)
  else if 0x30 ≤ m ∧ m ≤ 0x38 then
    if (matFns[m - 0x30]?).getD 0 < fn then 0
    else if w1.toNat / 2 ^ 8 % 256 = 4 ∨ (m = 0x35 ∧ fn = 7 ∧ w1.toNat.testBit 17) then 3
    else if m = 0x35 ∧ fn = 4 then 2
    else 1
  else 0

/-- Whether a word is a control transfer (R260). -/
def isTransfer (w : Word) : Bool :=
  let m := majorOf w
  m = 0x60 || m = 0x63 || (m = 0x61 && fnOf w = 0) || (m = 0x62 && fnOf w ≤ 1) ||
    ((m = 0x64 || m = 0x65 || m = 0x66) && fnUOf w = 0)

/-- The instructions of a clause by their words (R263); the fuel is COUNT. -/
def splitWords : Nat → List Word → List (Word × Word)
  | 0, _ => []
  | _, [] => []
  | n + 1, w :: ws => if isX (majorOf w) then (w, ws.headD 0) :: splitWords n (ws.drop 1) else (w, 0) :: splitWords n ws

/-- The first check of Table 12-2 that a clause fails: its detail, and the words of the instruction that check 8
reports (R166). -/
def clauseFault (h : Word) (is : List (Word × Word)) : Option (Nat × BitVec 64) :=
  let n := is.length
  let seta := h.toNat / 2 ^ 7 % 16
  let setb := h.toNat / 2 ^ 3 % 16
  let wrong (e : (Word × Word) × Nat) : Bool := match classOf (majorOf e.1.1) with
    | none => false
    | some c => c ≠ hdrClass h && ¬ (c = 4 && e.2 + 1 = n)
  let early (e : (Word × Word) × Nat) : Bool := isTransfer e.1.1 && e.2 + 1 ≠ n
  if hdrCount h = 0 then some (0, 0)
  else if 6 ≤ hdrClass h then some (1, 0)
  else if (12 ≤ seta ∧ seta ≤ 14) ∨ (12 ≤ setb ∧ setb ≤ 14) then some (2, 0)
  else if h.toNat.testBit 0 then some (3, 0)
  else if is.zipIdx.any wrong then some (5, 0)
  else if is.zipIdx.any early then some (6, 0)
  else if seta = setb ∧ seta ≠ 15 then some (7, 0)
  else match is.find? fun e => hdrGauge h < gaugeOf e.1 e.2 with
    | some e => some (4, (e.2 ++ e.1 : BitVec 64))
    | none => none

/-- The lane under which words of code that lie in host memory are asked for: no lane has this number. -/
def codeLane : Nat := 1025

/-- One word of code fetched (R28, R365): the top of the space, the code segment, translation with X, then the instruction
path; a word of host memory comes from the host (R35, R52), and until it has come there is neither a word nor a fault. Whether
the segment's bound holds for a handler at TRAPH the spec does not say; the model bounds its fetches by the grid's segment too
(DESIGN CHOICE, log 72). -/
def State.fetchWord (s : State) (c : Cur) (x : Ctx) (va : Nat) : State × Except (Option Flt) Word :=
  if 2 ^ 57 < va + 4 then (s, .error (some { cause := 0x0E, detail := 0 }))
  else
    let inside : Bool := match tget s.grids c.g.grid with
      | none => false
      | some d => d.lr.code ≤ va && va + 4 ≤ d.lr.code + 4096 * d.lr.csz
    if ¬ inside then (s, .error (some { cause := 0x0D, detail := 0 }))
    else
      let t := s.translate c.g.core c.g.asid x va .fetch
      match t.2 with
      | .error f => (t.1, .error (some f))
      | .ok y =>
        if isHostMem y.pa then
          let h := t.1.hostFetch c.r c.p.clauseId codeLane y.pa 4
          (h.1, match h.2 with
            | none => .error none
            | some bs => .ok (word (natLE bs)))
        else if t.1.poisonedPath c.g.core .instr y.pa 4 y.attr then (t.1, .error (some { cause := 0x10, detail := 0 }))
        else
          let r := t.1.pathRead c.g.core .instr c.g.asid y.pa 4 y.attr
          (r.1, .ok (word (natLE r.2)))

/-- The words of a clause after its header, fetched one instruction after another; the address that failed is given
with its fault. -/
def State.fetchClause (s : State) (c : Cur) (x : Ctx) : Nat → Nat → List Word → State × Except (Option Flt × Nat) (List Word)
  | 0, _, acc => (s, .ok acc)
  | n + 1, va, acc =>
    let r := s.fetchWord c x va
    match r.2 with
    | .error f => (r.1, .error (f, va))
    | .ok w =>
      if isX (majorOf w) then
        let q := r.1.fetchWord c x (va + 4)
        match q.2 with
        | .error f => (q.1, .error (f, va + 4))
        | .ok w1 => q.1.fetchClause c x n (va + 8) (acc ++ [w, w1])
      else r.1.fetchClause c x n (va + 4) (acc ++ [w])

/-- The word of code that stands at an address for a path, without the effects of fetching it. -/
def State.peekCode (s : State) (c : Cur) (va : Nat) : Option Word :=
  match tget s.ctxs c.g.asid with
  | none => none
  | some x => match (s.fetchWord c x va).2 with
    | .error _ => none
    | .ok w => some w

/-- The header that stands at a path's next clause. -/
def State.peekHeader (s : State) (c : Cur) : Option Word := s.peekCode c c.p.pc

/-- Whether a path's next clause is its join (R151, R152). -/
def Cur.joins (c : Cur) (h : Word) : Bool := hdrJ h && c.p.jp = some c.p.pc

/-- Whether the flags let a clause start (R261): WAIT names no pending flag and no count that it adds to is 15. -/
def Cur.flagsOpen (c : Cur) (h : Word) : Bool :=
  let full (f : Option Nat) : Bool := match f with
    | none => false
    | some n => 15 ≤ c.t.flagCount c.r.slot n
  ((bitList (hdrWait h) 12).all fun f => ¬ c.t.pending c.r.slot f) && ¬ full (hdrSeta h) && ¬ full (hdrSetb h)

/-- Whether a path waits for an instruction of its own that is before every later event of the path (R79 cases 1 and 5): an
LDF that acquires and is undecided, another access that acquires and is not performed, a FROG whose sweep is to come; or for an
invalidation of translations (R373). -/
def State.holdsBack (s : State) (c : Cur) : Bool :=
  (s.ldfs.any fun l => l.2.ofPath c.r && l.2.acq.isSome) ||
  (s.issues.any fun e => e.before c.r && e.acq.isSome) ||
  (s.invals.any fun v => match v.who with
    | .clause r _ => r = c.r
    | .host => false) ||
  match tget s.ctxs c.g.asid with
  | none => false
  | some x => x.sweeps.any fun k => match k.who with
    | .frog r _ _ _ => r = c.r
    | _ => false

/-- Whether a path may issue at all: its team is not stopped by a trap that it has taken (R375, R377), it is not asleep or
waiting, and nothing that it has issued holds it back (R79). -/
def State.mayIssue (s : State) (c : Cur) : Bool :=
  let free : Bool := match c.t.trap with
    | none => true
    | some _ => c.t.handling c.r.slot
  free && c.p.status = .running && ¬ s.holdsBack c

/-- Whether a path waits for words of code that it has asked of the host. -/
def State.codeAsked (s : State) (r : Ref) : Bool :=
  s.hostReqs.any fun q => q.live && q.path = r && q.lane = codeLane

/-- Whether the flags of a path's next clause let it start; a join, a fetch that faults and one that is still to be asked of the
host count as such. -/
def State.clauseOpen (s : State) (c : Cur) : Bool :=
  match s.peekHeader c with
  | none => ¬ s.codeAsked c.r
  | some h => c.joins h || c.flagsOpen h

/-- Whether a path's next clause waits for nothing but its leave grant (R176). -/
def State.wantsGrant (s : State) (c : Cur) : Bool :=
  s.mayIssue c && c.p.clause.isNone && match s.peekHeader c with
    | none => false
    | some h => ¬ c.joins h && c.flagsOpen h && hdrLeave h

/-- Whether a path slot makes its team ready (R172): inside a clause; or its next clause's flags are open and a leave
clause has its grant. -/
def State.ready (s : State) (c : Cur) : Bool :=
  s.mayIssue c && (c.p.clause.isSome || (s.clauseOpen c && (¬ s.wantsGrant c || c.p.grant = .held)))

/-- Whether some slot of a team is ready. -/
def State.teamReady (s : State) (t : TRef) : Bool :=
  [0, 1].any fun k => match s.at { gid := t.gid, role := t.role, slot := k } with
    | none => false
    | some c => s.ready c

/-- The lowest live slot of a team takes the watchdog fault that is due (R178, R380); its delivery restarts the grid's
timer, and an expiry noted before is over. -/
def State.takeWatchdog (s : State) (c : Cur) : State :=
  let s := s.modTeam c.r.gid c.r.role fun t => { t with wdog := false }
  let s := s.modGrid c.g.grid fun d => { d with started := some s.etime, expired := none }
  s.takeTrap c.r 0x0F 0 0 0 false

/-- Whether a path has an LDF with lanes that are not decided. -/
def State.undecided (s : State) (r : Ref) : Bool := s.ldfs.any fun l => l.2.ofPath r

/-- Whether an instruction writes, or is a release, in the sense of R79 cases 2 and 3: it waits for the earlier LDFs of its path. -/
def isWriter : Instr → Bool
  | .stG _ _ | .stL _ _ | .stP _ _ | .stGw _ _ | .stf _ _ | .mst _ _ | .mstT _ _ => true
  | .atom _ _ | .red _ _ | .atomL _ _ | .redL _ _ => true
  | .fence _ x => ordRel x.ord
  | .pfence _ _ | .binit _ _ | .barv _ _ | .barvx _ _ | .mark _ _ | .unmark _ _ | .frog _ _ => true
  | .cpyGl _ _ | .cpyLg _ _ | .cpyt _ _ | .cpytG _ _ | .cpym _ _ | .cpyg _ _ | .cdrain _ _ | .qapp _ _ | .launch _ _ => true
  | .rapp _ _ | .wmadv _ _ | .sclose _ _ | .wpub _ _ | .wpubAmend _ _ | .succ => true
  | _ => false

/-- Whether an instruction waits until the earlier reads of its path have bound their values: a write or a release (R79), and an
acquire fence, which orders what they have read before what follows (R81). -/
def awaitsReads (i : Instr) : Bool :=
  isWriter i || match i with
  | .fence _ x => x.ord = 1
  | _ => false

/-- Whether the next instruction of a clause waits for the earlier reads of its path. -/
def Clause.awaits (k : Clause) : Bool :=
  match parse k.word0 k.word1 with
  | .error _ => false
  | .ok i => awaitsReads i

/-- Whether a path is parked (R178): behind an LDF that acquires, or before an instruction that waits for an LDF. -/
def State.isParked (s : State) (c : Cur) : Bool :=
  (s.ldfs.any fun l => l.2.ofPath c.r && l.2.acq.isSome) || (s.undecided c.r && match c.p.clause with
    | none => false
    | some k => k.awaits)

/-- Whether the watchdog fault of a team is due in a path (R178, R380), its lowest live one: it stands at a clause boundary,
sleeps or waits, or is parked. -/
def State.wdogDue (s : State) (c : Cur) : Bool :=
  c.t.wdog && c.t.trap.isNone && (tkeys c.t.paths).all (fun k => c.r.slot ≤ k) &&
    (c.p.clause.isNone || c.p.status ≠ .running || s.isParked c)

/-- A clause starts (R259, R261): its counts are added and its words stand fetched. -/
def State.startClause (s : State) (c : Cur) (h : Word) (ws : List Word) : State :=
  let k : Clause := { addr := c.p.pc, hdr := h, words := ws, pos := 0, left := hdrCount h, id := s.fresh }
  let o : Outst :=
    { clause := s.fresh, seta := hdrSeta h, setb := hdrSetb h, slots := 1#2 <<< c.r.slot, issued := false, ops := []
      since := (s.clock c.g.core).cyc.toNat, asy := hdrClass h = 3 }
  let s := { s with fresh := s.fresh + 1 }
  s.modTeam c.r.gid c.r.role fun t => { t with
    paths := tmod t.paths c.r.slot fun p => { p with clause := some k }, outst := t.outst ++ [o] }

/-- CLAUSE_START (R259): a ready clause is fetched, checked and started. A clause whose flags are not open, or that waits
for its grant, does not start; a leave clause asks for its grant (R176). -/
def execClauseStart (s : State) : Res :=
  match s.look with
  | none => .fault .noPath
  | some c => .next <|
    match tget s.ctxs c.g.asid with
    | none => s
    | some x =>
      if ¬ s.mayIssue c ∨ c.p.clause.isSome then s
      else if s.wdogDue c then s.takeWatchdog c
      else
        let h := s.fetchWord c x c.p.pc
        match h.2 with
        | .error none => h.1
        | .error (some f) => (h.1.hostTaken c.r codeLane).takeTrap c.r f.cause f.detail c.p.pc 0 false
        | .ok w =>
          if c.joins w ∨ ¬ c.flagsOpen w then s
          else if hdrLeave w ∧ c.p.grant ≠ .held then
            s.askLeave c.r
          else
            let r := h.1.fetchClause c x (hdrCount w) (c.p.pc + 4) []
            match r.2 with
            | .error (none, _) => r.1
            | .error (some f, va) => (r.1.hostTaken c.r codeLane).takeTrap c.r f.cause f.detail va 0 false
            | .ok ws =>
              let s := r.1.hostTaken c.r codeLane
              match clauseFault w (splitWords (hdrCount w) ws) with
              | some (d, iw) => s.takeTrapW c.r 2 d 0 0 false (some iw)
              | none => s.startClause c w ws

/-- FLAG_RELEASE (R261, R155): the SETA count of a clause all of whose work is done is released in both slots; its
register writes are done by then (R262). -/
def execFlagRelease (s : State) : Res :=
  match s.input with
  | .clause t id => .next (match tget s.groups t.gid with
    | none => s
    | some g => match tget g.teams t.role with
      | none => s
      | some k => match k.outst.find? fun o => o.clause = id with
        | none => s
        | some o =>
          if ¬ o.issued ∨ ¬ o.ops.isEmpty then s
          else
            let s := s.landIf t.gid t.role fun l => l.clause = id
            s.modTeam t.gid t.role fun k => { k with outst := k.outst.filter fun o => o.clause ≠ id })
  | _ => .next s

end Sys2Proof.Machine
end

