-- ==== Sys2Proof/Machine/Control.lean ====
section
/-! DEFINITION. Control: branches, calls, splits and joins (06 R148 to R155, 16 R365 to R368), the end of paths and teams
(R369), YIELD and register re-division (R157, R370), and the scheduler's and the power arbiter's events (07 R168 to R178). -/

namespace Sys2Proof.Machine

/-- The address of the header of the clause that holds the current instruction (R265). -/
def Cur.header (c : Cur) : Nat := match c.p.clause with | none => c.p.pc | some k => k.addr
/-- The address of the header after that clause. -/
def Cur.fall (c : Cur) : Nat := match c.p.clause with | none => c.p.pc | some k => k.next

/-- The lanes that decide a uniform branch (R366). -/
def Cur.deciding (c : Cur) : List Nat :=
  let ls := bitList c.p.mask c.t.lanes.length
  let real := ls.filter fun l => ¬ c.t.helper l
  if real.isEmpty then ls else real

/-- The guard of a uniform branch: taken, fallen through, or not uniform. -/
def Cur.uniform (c : Cur) (g : Guard) : Option Bool :=
  let holds := c.deciding.filter fun l => guardHolds g (c.t.lane l)
  if holds.length = c.deciding.length then some true else if holds.isEmpty then some false else none

/-- Whether an address lies in the space that the PC may take (R365). -/
def pcOk (a : Int) : Bool := 0 ≤ a && a < 2 ^ 57

/-- A uniform transfer (R365, R366): to its target, after what it writes, when the guard is true in every deciding lane; to
the next clause when it is false in every one; else a non-uniform-branch fault. -/
def State.branch (s : State) (c : Cur) (target : Int) (aligned : Bool) (write : Path → Path) : State :=
  match c.uniform s.guard with
  | none => s.takeTrap c.r 0x0B 0 0 0 false
  | some false => s.jump c.r c.fall
  | some true =>
    let addr := (target % 2 ^ 64).toNat
    if aligned ∧ target % 4 ≠ 0 then s.takeTrap c.r 6 0 addr 0 false
    else if ¬ pcOk target then s.takeTrap c.r 0x0E 0 addr 0 false
    else (s.modPath c.r write).jump c.r target.toNat

/-- A signed word offset from the clause's header. -/
def Cur.rel (c : Cur) (off : Int) : Int := (c.header : Int) + 4 * off

/-- The return address written to s62 and s63 (R368). -/
def Cur.link (c : Cur) (p : Path) : Path := p.setS2 62 (BitVec.ofNat 64 c.fall)

/-- BRA (R366). -/
def execBra (o : OpJ) (s : State) : Res :=
  s.issue (.bra o) fun c => s.branch c (c.rel o.off.toInt) false id

/-- BRX: to the address that the s pair A holds. -/
def execBrx (o : OpG) (s : State) : Res :=
  s.issue (.brx o) fun c => s.branch c (c.p.getS2 o.a.toNat).toNat true id

/-- CALL (R368). -/
def execCall (o : OpJ) (s : State) : Res :=
  s.issue (.call o) fun c => s.branch c (c.rel o.off.toInt) false c.link

/-- CALLX (R368). -/
def execCallx (o : OpG) (s : State) : Res :=
  s.issue (.callx o) fun c => s.branch c (c.p.getS2 o.a.toNat).toNat true c.link

/-- RET (R368). -/
def execRet (o : OpU) (s : State) : Res :=
  s.issue (.ret o) fun c => s.branch c (c.p.getS2 o.a.toNat).toNat true id

/-- Entries on a team's reconvergence stack. -/
def Team.stackLen (t : Team) : Nat :=
  (t.splits.filter fun e => match e with | .pushed _ _ _ _ _ _ => true | .pair _ _ _ _ _ => false).length

/-- A concurrent split (Table 6-2, R154, R155, R170): T goes on in slot x, N starts in the other slot, with copies of the
slot's s file, FUTSTAT, latches and pending flags. In which file a write of an s pair that is still pending lands (QAPP, LAUNCH) the spec
does not say: in that of slot x alone (DESIGN CHOICE, log 90). -/
def Team.fork (t : Team) (x : Nat) (p : Path) (taken rest : LaneSet) (target fall join : Nat) : Team :=
  let a : Path := { p with mask := taken, pc := target, jp := some join, sWritten := 0 }
  let b : Path := { p with
    mask := rest, pc := fall, jp := some join, sWritten := 0, heldDone := none, since := none, missed := 0 }
  let both (o : Outst) : Outst := if o.slots.getLsbD x then { o with slots := 3 } else o
  { t with
    paths := tset (tset t.paths x a) (1 - x) b
    splits := .pair join p.jp p.s p.sWritten false :: t.splits
    outst := t.outst.map both }

/-- What a path has issued and not completed before a concurrent split precedes both sides of it (Table 3-3). -/
def State.forkOwed (s : State) (r : Ref) : State :=
  { s with
    ldfs := tmap s.ldfs fun _ l => if l.ofPath r then { l with slots := 3 } else l
    issues := s.issues.map fun e => if e.before r then { e with slots := 3 } else e }

/-- A stack entry in memory (Table 6-3). What OUTER holds where the path had no join register before the split the spec does not
say; the model writes 0 (DESIGN CHOICE, log 73). -/
def Split.bytes : Split → List Byte
  | .pair _ _ _ _ _ => []
  | .pushed k mask pc join outer arr =>
    bytesLE 16 (k + (if arr then 2 ^ 8 else 0) + 2 ^ 64 * outer.getD 0) ++ bytesLE 16 (join + 2 ^ 64 * pc) ++ bytesLE 128 mask.toNat

/-- After a push beyond four entries the oldest of them that the core held goes to the team's spill area (R32, R153). -/
def State.spill (s : State) (c : Cur) : State :=
  match s.at c.r, tget s.ctxs c.g.asid with
  | some d, some x =>
    let es := d.t.splits.filter fun e => match e with | .pushed _ _ _ _ _ _ => true | .pair _ _ _ _ _ => false
    match es[4]? with
    | none => s
    | some e =>
      let slot := x.psz * 16 * 4096 + 40960
      s.put c.g.asid (x.privbase + d.g.privSlot * slot + x.psz * 16 * 4096 + 5120 * c.r.role + 160 * (es.length - 5)) e.bytes
  | _, _ => s

/-- BRD (R367, Table 6-2). -/
def execBrd (o : OpB) (s : State) : Res :=
  s.issue (.brd o) fun c =>
    let target := c.rel o.t.toInt
    let join := c.rel o.j.toInt
    if ¬ pcOk target then s.takeTrap c.r 0x0E 0 (target % 2 ^ 64).toNat 0 false
    else if ¬ pcOk join then s.takeTrap c.r 0x0E 0 (join % 2 ^ 64).toNat 0 false
    else
      let taken := laneSet (c.act s.guard)
      let rest := c.p.mask &&& ~~~ taken
      if taken = 0 then s.jump c.r c.fall
      else if rest = 0 then s.jump c.r target.toNat
      else if (c.t.path (1 - c.r.slot)).isNone then
        ((s.jump c.r target.toNat).forkOwed c.r).modTeam c.r.gid c.r.role fun t => match t.path c.r.slot with
          | none => t
          | some p => t.fork c.r.slot p taken rest target.toNat c.fall join.toNat
      else if 32 ≤ c.t.stackLen then s.takeTrap c.r 0x0B 1 0 0 false
      else
        let s := (s.jump c.r target.toNat).modTeam c.r.gid c.r.role fun t => match t.path c.r.slot with
          | none => t
          | some p =>
            { t with
              paths := tset t.paths c.r.slot { p with mask := taken, jp := some join.toNat }
              splits := .pushed c.r.slot rest c.fall join.toNat p.jp false :: t.splits }
        s.spill c

/-- The newest split that a path in a slot is part of, taken out: the splits before it, the split, those after. -/
def splitOf (slot : Nat) : List Split → Option (List Split × Split × List Split)
  | [] => none
  | e :: es =>
    let mine : Bool := match e with
      | .pushed k _ _ _ _ _ => k = slot
      | .pair _ _ _ _ _ => true
    if mine then some ([], e, es)
    else match splitOf slot es with
      | none => none
      | some (a, f, b) => some (e :: a, f, b)

/-- Entries that a path pushed before a concurrent split belong to the slot in which it goes on. -/
def reown (slot : Nat) (es : List Split) : List Split :=
  es.map fun e => match e with
    | .pushed _ m pc j o a => .pushed slot m pc j o a
    | .pair j o f w a => .pair j o f w a

/-- The s file after a join of a concurrent split (R154): P is the path of slot 0. -/
def mergeS (fork : Tab Word) (p q : Path) : Tab Word :=
  let low (m : LaneSet) : Nat := (bitList m 1024).headD 1024
  ((List.range 64).map fun n =>
    let wp := p.sWritten.getLsbD n
    let wq := q.sWritten.getLsbD n
    (n, if wp && wq then (if low p.mask < low q.mask then p.getS n else q.getS n)
        else if wp then p.getS n else if wq then q.getS n else rget fork n)).filter fun e => e.2 ≠ 0

/-- The merge of both paths of a concurrent split (R152, R154, R155, R170), in slot 0. How a write of an s pair that is still pending
merges the spec does not say: it lands in slot 0's file, whichever side it is of (DESIGN CHOICE, log 90). -/
def Team.merge (t : Team) (p q : Path) (join : Nat) (outer : Option Nat) (fork : Tab Word) (outerWritten : BitVec 64)
    (newer older : List Split) : Team :=
  let m : Path :=
    { mask := p.mask ||| q.mask, pc := join, clause := none, jp := outer, s := mergeS fork p q
      sWritten := outerWritten ||| p.sWritten ||| q.sWritten, futstat := p.futstat ||| q.futstat
      cycLatch := none, etLatch := none, heldDone := p.heldDone.or q.heldDone, grant := .none, status := .running
      since := none, missed := 0, wake := none }
  let one (o : Outst) : Outst := if o.slots = 0 then o else { o with slots := 1 }
  let home (l : Land) : Land := match l.what with
    | .s _ n x => { l with what := .s 0 n x }
    | _ => l
  { t with
    paths := [(0, m)]
    splits := newer ++ reown 0 older
    outst := t.outst.map one
    landing := t.landing.map home }

/-- What the paths of a team have outstanding belongs to the path in slot 0, in which they have merged. -/
def State.mergeOwed (s : State) (gid role : Nat) : State :=
  let home (r : Ref) : Ref := if r.gid = gid ∧ r.role = role then { r with slot := 0 } else r
  let park (e : Defer) : Defer := { e with path := home e.path }
  let mine (r : Ref) : Bool := r.gid = gid && r.role = role
  let issued (e : Issue) : Issue := if mine e.path then { e with path := home e.path, slots := 1 } else e
  let asked (q : HostReq) : HostReq := { q with path := home q.path }
  let sent (f : Sent) : Sent := { f with path := f.path.map home }
  { s with
    defer := s.defer.map park
    cellReqs := s.cellReqs.map park
    ldfs := tmap s.ldfs fun _ l =>
      if mine l.path then { l with path := home l.path, reqs := l.reqs.map park, slots := 1 } else l
    issues := s.issues.map issued
    hostReqs := s.hostReqs.map asked
    ops := tmap s.ops fun _ o => { o with path := home o.path }
    ctxs := tmap s.ctxs fun _ x => { x with
      ringBy := tmap x.ringBy fun _ r => home r
      channels := tmap x.channels fun _ c => { c with sent := c.sent.map sent } } }

/-- Whether the clause that a path would start is its join. -/
def State.standsAtJoin (s : State) (c : Cur) : Bool :=
  match s.peekHeader c with
  | none => false
  | some h => c.joins h

/-- JOIN_ARRIVAL (R151, R152): a path at its join waits, merges, swaps or pops, by how it was split. -/
def execJoinArrival (s : State) : Res :=
  match s.look with
  | none => .fault .noPath
  | some c => .next <|
    if ¬ s.mayIssue c ∨ c.p.clause.isSome then s
    else if s.wdogDue c then s.takeWatchdog c
    else if ¬ s.standsAtJoin c then s
    else
      let put (f : Team → Team) : State := s.modTeam c.r.gid c.r.role f
      match splitOf c.r.slot c.t.splits with
      | none => s.modPath c.r fun p => { p with jp := none }
      | some (newer, .pushed k mask pc join outer arr, older) =>
        if arr then put fun t =>
          { t with
            paths := tset t.paths k { c.p with mask := c.p.mask ||| mask, jp := outer }
            splits := newer ++ older }
        else put fun t =>
          { t with
            paths := tset t.paths k { c.p with mask := mask, pc := pc }
            splits := newer ++ .pushed k c.p.mask join join outer true :: older }
      | some (newer, .pair join outer fork written alone, older) =>
        if alone then put fun t =>
          { t with
            paths := tset t.paths c.r.slot { c.p with jp := outer, sWritten := written ||| c.p.sWritten }
            splits := newer ++ reown c.r.slot older }
        else match c.t.path (1 - c.r.slot) with
          | none => s
          | some q =>
            if q.status ≠ .atJoin then s.modPath c.r fun p => { p with status := .atJoin }
            else
              let s := put fun t => if c.r.slot = 0 then t.merge c.p q join outer fork written newer older
                else t.merge q c.p join outer fork written newer older
              s.mergeOwed c.r.gid c.r.role

/-- The lanes of a team that have not exited: those of its paths and of deferred or arrived sides. -/
def Team.alive (t : Team) : LaneSet :=
  let m := t.paths.foldl (fun m e => m ||| e.2.mask) 0
  t.splits.foldl (fun m e => match e with
    | .pushed _ k _ _ _ _ => m ||| k
    | .pair _ _ _ _ _ => m) m

/-- A path whose mask is empty ends (R151): its sibling goes on alone, or an entry that it pushed is popped with an empty
arrived mask; writes of its s file that wait are dropped, since an ended side contributes none (R154). The fuel is the number of splits. -/
def Team.endPath (t : Team) (slot : Nat) : Nat → Team
  | 0 => t
  | n + 1 => match t.path slot with
    | none => t
    | some p =>
      if p.mask ≠ 0 then t else
      let mine (l : Land) : Bool := match l.what with
        | .s k _ _ => k = slot
        | _ => false
      let gone (t : Team) : Team :=
        { t with
          paths := tdel t.paths slot, outst := t.outst.map fun o => { o with slots := o.slots &&& ~~~ (1#2 <<< slot) }
          landing := t.landing.filter fun l => ¬ mine l }
      match splitOf slot t.splits with
      | none => gone t
      | some (newer, .pushed k mask pc join outer arr, older) =>
        if arr then
          ({ t with
            paths := tset t.paths slot { p with mask := mask, pc := join, jp := outer }
            splits := newer ++ older } : Team).endPath slot n
        else
          ({ t with
            paths := tset t.paths slot { p with mask := mask, pc := pc }
            splits := newer ++ .pushed k 0 join join outer true :: older } : Team).endPath slot n
      | some (newer, .pair join outer fork written alone, older) =>
        if alone then
          ({ t with
            paths := tset t.paths slot { p with jp := outer }
            splits := newer ++ reown slot older } : Team).endPath slot n
        else
          let t := gone { t with splits := newer ++ .pair join outer fork written true :: older }
          { t with paths := tmap t.paths fun _ q => if q.status = .atJoin then { q with status := .running } else q }

/-- A trap handler whose paths have no lane left: the frame slot frees and the team goes on (log 43). -/
def State.dropHandler (s : State) (c : Cur) : State :=
  match c.t.trap with
  | none => s
  | some tr =>
    if ¬ c.t.handling c.r.slot ∨ (tr.opc.isNone ∧ (c.t.path (1 - c.r.slot)).isSome) then s else
    (s.freeFrame c.g.asid tr.phase).modTeam c.r.gid c.r.role fun t => { t with trap := none }

/-- EXIT (R369): the active lanes leave the path; a path without lanes ends; the team ends with its last non-helper
lane. -/
def execExit (s : State) : Res :=
  s.issue .exit fun c =>
    let out := laneSet (c.act s.guard)
    let rest := c.p.mask &&& ~~~ out
    let left := c.t.alive &&& ~~~ out
    if out = 0 then s.advance c.r
    else if ¬ (bitList left c.t.lanesN).any (fun _ => true) then s.endTeam c.r.gid c.r.role
    else if rest ≠ 0 then (s.modPath c.r fun p => { p with mask := rest }).jump c.r c.fall
    else
      let s := (s.jump c.r c.fall).modTeam c.r.gid c.r.role fun t =>
        ({ t with
          paths := tmod t.paths c.r.slot fun p => { p with mask := 0, heldDone := none }
          done := match c.p.heldDone with | none => t.done | some k => tdel t.done k } : Team).endPath c.r.slot
            (t.splits.length * 2 + 2)
      s.dropHandler c

/-- END (R369): the whole team ends. -/
def execEndTeam (s : State) : Res :=
  s.issue .endTeam fun c => if (c.act s.guard).isEmpty then s.advance c.r else s.endTeam c.r.gid c.r.role

/-- NOP (R370). -/
def execNop (s : State) : Res := s.issue .nop fun c => s.advance c.r

/-- Teams resident on a core outside its active set (R172). -/
def State.pendingTeams (s : State) (core : Nat) : List TRef :=
  (s.groups.filter fun g => g.2.core = core && g.2.place = .resident).flatMap fun g =>
    (g.2.teams.filter fun t => ¬ t.2.ended && ¬ (s.core core).active.contains { gid := g.1, role := t.1 }).map fun t =>
      { gid := g.1, role := t.1 }

/-- A team that leaves the active set withdraws a leave request that is outstanding (R176). -/
def State.withdraw (s : State) (t : TRef) : State :=
  s.modTeam t.gid t.role fun k => { k with paths := tmap k.paths fun _ p =>
    { p with grant := match p.grant with | .asked _ _ => .none | g => g } }

/-- Whether a core has made no swap in its present cycle: at most one takes place per cycle (R173). -/
def State.swapFree (s : State) (core : Nat) : Bool :=
  match (s.core core).swap with
  | none => true
  | some (n, _) => n ≠ (s.clock core).cyc.toNat

/-- A team that leaves a core's active set and one that enters it in its place, which issues from the next cycle on (R173). -/
def State.swapTeams (s : State) (core : Nat) (leaves enters : TRef) : State :=
  let now := (s.clock core).cyc.toNat
  (s.modCore core fun c =>
    { c with active := (c.active.filter (· ≠ leaves)) ++ [enters], swap := some (now, enters) }).withdraw leaves

/-- The CYC of its core since which a team has been ready: the earliest of its ready paths (R173). -/
def State.readySince (s : State) (t : TRef) : Option Nat :=
  match tget s.groups t.gid with
  | none => none
  | some g => match tget g.teams t.role with
    | none => none
    | some k => (k.paths.filterMap fun p => p.2.since).min?

/-- The ready pending team of a core that has been ready longest (R173). -/
def State.longestReady (s : State) (core : Nat) : Option TRef :=
  let now := (s.clock core).cyc.toNat
  (sortBy (fun t => (s.readySince t).getD now) ((s.pendingTeams core).filter s.teamReady)).head?

/-- YIELD (R173, R370): the team leaves the active set when a pending team is ready, and the one that has been ready longest
enters; where its core has made a swap in this cycle, it waits for the next. -/
def execYield (s : State) : Res :=
  s.issue .yield fun c =>
    let me : TRef := { gid := c.r.gid, role := c.r.role }
    match (if (c.act s.guard).isEmpty then none else s.longestReady c.g.core) with
    | none => s.advance c.r
    | some t => if s.swapFree c.g.core then (s.advance c.r).swapTeams c.g.core me t else s

/-- The uses of RGIVE and RCLAIM that R157 forbids: two live paths, or a stack that is not empty. -/
def Cur.redivides (c : Cur) : Bool := c.t.paths.length = 1 && c.t.stackLen = 0

/-- Register writes that wait for v registers at or above a number, taken away. -/
def Team.dropLand (t : Team) (v : Nat) : Team :=
  let above (l : Land) : Bool := match l.what with
    | .v n _ _ => v ≤ n
    | _ => false
  { t with landing := t.landing.filter fun l => ¬ above l }

/-- A team whose v registers at or above a number hold nothing, with no write to them waiting (R157). -/
def Team.forget (t : Team) (v : Nat) : Team :=
  let t := t.dropLand v
  { t with lanes := tmap t.lanes fun _ l => { l with v := l.v.filter fun e => e.1 < v } }

/-- RGIVE (R157): the highest 8k registers go to the group's pool, and their contents are lost. -/
def execRgive (o : OpG) (s : State) : Res :=
  let k := o.a.toNat
  s.issueWith (.rgive o) (fun c => errIf (¬ c.redivides || c.t.vregs < 8 * k + 8) 8) fun c =>
    if (c.workers s.guard).isEmpty then s.advance c.r
    else
      let s := s.modGroup c.r.gid fun g => { g with pool := g.pool + k }
      let s := s.modTeam c.r.gid c.r.role fun t => { t.forget (t.vregs - 8 * k) with vregs := t.vregs - 8 * k }
      s.advance c.r

/-- RCLAIM (R157): k blocks of the pool, when it holds them and V stays at or below 64; the new registers read as zero. -/
def execRclaim (o : OpG) (s : State) : Res :=
  let k := o.a.toNat
  s.issueWith (.rclaim o) (fun c => errIf (¬ c.redivides) 8) fun c =>
    let act := c.act s.guard
    if (c.workers s.guard).isEmpty then s.advance c.r
    else
      let ok : Bool := k ≤ c.g.pool && c.t.vregs + 8 * k ≤ 64
      let s := if ok then
          (s.modGroup c.r.gid fun g => { g with pool := g.pool - k }).modTeam c.r.gid c.r.role fun t =>
            { t.forget t.vregs with vregs := t.vregs + 8 * k }
        else s
      (s.modTeam c.r.gid c.r.role fun t => t.mapLanes act fun _ l => l.setP o.d.toNat ok).advance c.r

/-- Whether an operation that a flag waits for is of a kind that blocks long (R172): asynchronous, an LDF, a FROG. -/
def State.longOp (s : State) (id : Nat) : Bool :=
  (tget s.ops id).isSome || (tget s.ldfs id).isSome || s.cancelled.any (fun k => k.op = id) ||
    s.ctxs.any fun x => x.2.sweeps.any fun k => k.op = id

/-- Whether an operation that the flags of a clause wait for blocks long (R172): by its kind, or issued 64 or more cycles ago. -/
def State.longAway (s : State) (now : Nat) (e : Nat × Nat) : Bool := s.longOp e.1 || e.2 + Config.longCycles ≤ now

/-- Whether the flags of a clause are held by something that blocks long (R172): the clause is of the class ASY, or an operation of it
blocks so; where only its register writes are still to be done, whether it started 64 or more cycles ago. -/
def State.longClause (s : State) (now : Nat) (o : Outst) : Bool :=
  o.asy || o.ops.any (s.longAway now) || (o.ops.isEmpty && o.since + Config.longCycles ≤ now)

/-- Whether an LDF or a FROG of a path holds it back (R79, R172). -/
def State.heldLong (s : State) (c : Cur) : Bool :=
  (s.ldfs.any fun l => l.2.ofPath c.r && l.2.acq.isSome) || match tget s.ctxs c.g.asid with
  | none => false
  | some x => x.sweeps.any fun k => match k.who with
    | .frog r _ _ _ => r = c.r
    | _ => false

/-- Whether a path slot waits for something that blocks long (R172): it sleeps; an operation of its own that is before its later
events holds it back, and one of its slot blocks long; or its next clause waits on a flag that is so held. -/
def State.waitsLong (s : State) (c : Cur) : Bool :=
  let now := (s.clock c.g.core).cyc.toNat
  match c.p.status with
  | .asleep _ _ => true
  | .asleepPred => true
  | .atJoin => false
  | .running => s.heldLong c ||
    (s.holdsBack c && c.t.outst.any fun o => o.slots.getLsbD c.r.slot && o.ops.any (s.longAway now)) ||
    (c.p.clause.isNone && match s.peekHeader c with
    | none => false
    | some h =>
      let names (f : Option Nat) : Bool := match f with
        | none => false
        | some n => (hdrWait h).getLsbD n
      c.t.outst.any fun o => o.slots.getLsbD c.r.slot && (names o.seta || names o.setb) && s.longClause now o)

/-- Whether a team is blocked long (R172): no slot is ready and at least one waits so. -/
def State.blockedLong (s : State) (t : TRef) : Bool :=
  ¬ s.teamReady t && [0, 1].any fun k => match s.at { gid := t.gid, role := t.role, slot := k } with
    | none => false
    | some c => s.waitsLong c

/-- TEAM_SWAP (R173 rule 1): an active team that is blocked long leaves for the pending team that has been ready longest. -/
def execTeamSwap (s : State) : Res :=
  match s.input with
  | .swap core leaves enters => .next <|
    if (s.core core).active.contains leaves && s.blockedLong leaves && s.longestReady core = some enters && s.swapFree core then
      s.swapTeams core leaves enters else s
  | _ => .next s

/-- The team of a core's active set whose last issue is the oldest (R173). -/
def State.oldestIssue (s : State) (core : Nat) : Option TRef :=
  let last (t : TRef) : Nat := match tget s.groups t.gid with
    | none => 0
    | some g => match tget g.teams t.role with
      | none => 0
      | some k => k.issued
  (sortBy last (s.core core).active).head?

/-- FORCED_SWAP (R173 rule 2): a pending team that has been ready for 224 cycles enters in place of the active team whose last
issue is the oldest. -/
def execForcedSwap (s : State) : Res :=
  match s.input with
  | .swap core leaves enters => .next <|
    let due : Bool := match s.readySince enters with
      | none => false
      | some t => t + Config.forcedCycles ≤ (s.clock core).cyc.toNat
    if due && s.oldestIssue core = some leaves && (s.pendingTeams core).contains enters && s.teamReady enters &&
        s.swapFree core then
      s.swapTeams core leaves enters else s
  | _ => .next s

/-- The arbiter answers a path's leave request (R176): at once where the die's projected draw has come within its budget; else at the
deadline, and then the die's stretch is to rise by as many steps as the excess needed when it was asked, which the droop loop does step by
step (R168). -/
def State.answerLeave (s : State) (c : Cur) : State :=
  match c.p.grant with
  | .asked t n =>
    let r := s.leaveExcess
    if r.2 = 0 then r.1.modPath c.r fun p => { p with grant := .held }
    else if s.etime < t + Config.grantTicks then r.1
    else (r.1.modPath c.r fun p => { p with grant := .held }).modDie (dieOf c.g.core) fun d => { d with goal := d.goal + n }
  | _ => s

/-- LEAVE_GRANT (R176). -/
def execLeaveGrant (s : State) : Res :=
  match s.input with
  | .path r => .next <| match s.at r with
    | none => s
    | some c => s.answerLeave c
  | _ => .next s

/-- The stretch of a die rises by one step, which a raise that the arbiter has asked for takes up (R168, R176). -/
def State.stretchUp (s : State) (die : Nat) : State :=
  s.modDie die fun d => if d.stretch < Config.maxStretch then
    { d with stretch := d.stretch + 1, changed := s.etime, goal := d.goal - 1 } else { d with goal := 0 }

/-- DROOP_STEP (R168, R401): one step of 0.5 %, within 0 to 12, at most one in 20 ns of ETIME: up while a raise is asked for or the die
draws more than its budget, else down. -/
def execDroopStep (s : State) : Res :=
  match s.input with
  | .one die => .next <|
    let d := s.die die
    if s.etime < d.changed + Config.droopTicks then s
    else
      let draw := Config.measuredDraw s.free
      let s : State := { s with free := s.free + 1 }
      if 0 < d.goal ∨ s.host.dieBudget < draw then s.stretchUp die
      else if 0 < d.stretch then s.modDie die fun d => { d with stretch := d.stretch - 1, changed := s.etime }
      else s
  | _ => .next s

/-- The watchdog limit of a context in ticks (R178, R179). -/
def Ctx.wdogTicks (x : Ctx) : Nat := if x.wdog = 0 then Config.watchdogTicks else x.wdog * Config.msTicks

/-- WATCHDOG_EXPIRY (R178): a grid's timer reaches its limit. Its faults are due once the tick has passed, since a group that
retires in the same tick takes the expiry back. -/
def execWatchdogExpiry (s : State) : Res :=
  match s.input with
  | .one id => .next <| match tget s.grids id with
    | none => s
    | some d => match d.started, tget s.ctxs d.asid with
      | some t0, some x =>
        if d.done ∨ s.etime < t0 + x.wdogTicks then s else s.modGrid id fun d => { d with expired := some s.etime }
      | _, _ => s
  | _ => .next s

/-- A watchdog expiry takes effect (R178, R380): a team of the grid in handler state, resident or saved, ends the grid; else
every resident team of it is to take the fault at its next clause boundary. -/
def State.expire (s : State) (id : Nat) : State :=
  let s := s.modGrid id fun d => { d with expired := none }
  let mine := s.groups.filter fun g => g.2.grid = id && ¬ (g.2.place = .ended)
  match mine.find? (fun g => g.2.teams.any fun t => t.2.inHandler) with
  | some g => s.terminateGrid id g.2.index (256 * 0x0F)
  | none => (mine.filter fun g => g.2.place = .resident).foldl (fun s g => s.modGroup g.1 fun g => { g with
      teams := tmap g.teams fun _ t => { t with wdog := ¬ t.ended } }) s

end Sys2Proof.Machine
end

