-- ==== Sys2Proof/Machine/Int.lean ====
section
/-! DEFINITION. Integer arithmetic: majors 0x01 to 0x03, 0x06, 0x09, 0x0E, 0x10 (13 R284, R285). -/

namespace Sys2Proof.Machine

/-- IADD (Table 13-3): d := (a + b) mod 2^32. -/
def execIadd (o : OpR) (s : State) : Res :=
  s.issue (.iadd o) fun c => s.v3 c o.d o.a o.b fun a b => a + b

/-- ISUB: d := (a − b) mod 2^32. -/
def execIsub (o : OpR) (s : State) : Res :=
  s.issue (.isub o) fun c => s.v3 c o.d o.a o.b fun a b => a - b

/-- IMUL: d := (a × b) mod 2^32. -/
def execImul (o : OpR) (s : State) : Res :=
  s.issue (.imul o) fun c => s.v3 c o.d o.a o.b fun a b => a * b

/-- IMAD: d := (a × b + d) mod 2^32. -/
def execImad (o : OpR) (s : State) : Res :=
  s.issue (.imad o) fun c => s.v4 c o.d o.a o.b fun a b d => a * b + d

/-- IMULH.i32: bits 63:32 of the signed product. -/
def execImulhI32 (o : OpG) (s : State) : Res :=
  s.issue (.imulhI32 o) fun c => s.v3 c o.d o.a o.b fun a b => BitVec.ofInt 32 (a.toInt * b.toInt / 2 ^ 32)

/-- IMULH.n32: bits 63:32 of the unsigned product. -/
def execImulhN32 (o : OpG) (s : State) : Res :=
  s.issue (.imulhN32 o) fun c => s.v3 c o.d o.a o.b fun a b => BitVec.ofNat 32 (a.toNat * b.toNat / 2 ^ 32)

/-- IMULW.i32: pair d := the exact signed product. -/
def execImulwI32 (o : OpG) (s : State) : Res :=
  s.issue (.imulwI32 o) fun c => s.v3w c o.d o.a o.b fun a b => BitVec.ofInt 64 (a.toInt * b.toInt)

/-- IMULW.n32: pair d := the exact unsigned product. -/
def execImulwN32 (o : OpG) (s : State) : Res :=
  s.issue (.imulwN32 o) fun c => s.v3w c o.d o.a o.b fun a b => BitVec.ofNat 64 (a.toNat * b.toNat)

/-- IMIN.i32 (Table 13-4): d := a if SInt(a) ≤ SInt(b) else b. -/
def execIminI32 (o : OpG) (s : State) : Res :=
  s.issue (.iminI32 o) fun c => s.v3 c o.d o.a o.b fun a b => if a.toInt ≤ b.toInt then a else b

/-- IMAX.i32: d := a if SInt(a) ≥ SInt(b) else b. -/
def execImaxI32 (o : OpG) (s : State) : Res :=
  s.issue (.imaxI32 o) fun c => s.v3 c o.d o.a o.b fun a b => if b.toInt ≤ a.toInt then a else b

/-- IMIN.n32, unsigned. -/
def execIminN32 (o : OpG) (s : State) : Res :=
  s.issue (.iminN32 o) fun c => s.v3 c o.d o.a o.b fun a b => if a.toNat ≤ b.toNat then a else b

/-- IMAX.n32, unsigned. -/
def execImaxN32 (o : OpG) (s : State) : Res :=
  s.issue (.imaxN32 o) fun c => s.v3 c o.d o.a o.b fun a b => if b.toNat ≤ a.toNat then a else b

/-- IABS: d := |SInt(a)| mod 2^32. -/
def execIabs (o : OpG) (s : State) : Res :=
  s.issue (.iabs o) fun c => s.v2 c o.d o.a fun a => BitVec.ofInt 32 a.toInt.natAbs

/-- INEG: d := −a mod 2^32. -/
def execIneg (o : OpG) (s : State) : Res :=
  s.issue (.ineg o) fun c => s.v2 c o.d o.a fun a => 0 - a

/-- IADDS.i32: the exact sum clamped to −2^31 to 2^31 − 1. -/
def execIaddsI32 (o : OpG) (s : State) : Res :=
  s.issue (.iaddsI32 o) fun c => s.v3 c o.d o.a o.b fun a b => clampWord (a.toInt + b.toInt) (-(2 ^ 31)) (2 ^ 31 - 1)

/-- IADDS.n32: the exact sum, at most 0xFFFF_FFFF. -/
def execIaddsN32 (o : OpG) (s : State) : Res :=
  s.issue (.iaddsN32 o) fun c => s.v3 c o.d o.a o.b fun a b => word (min (a.toNat + b.toNat) 0xFFFFFFFF)

/-- IADDI: d := (a + SignExtend(IMM9)) mod 2^32. -/
def execIaddi (o : OpI) (s : State) : Res :=
  s.issue (.iaddi o) fun c => s.v2 c o.d o.a fun a => a + imm9 o.imm

/-- IADD64: pair d := pair a + pair b mod 2^64. -/
def execIadd64 (o : OpR) (s : State) : Res :=
  s.issue (.iadd64 o) fun c => s.w3 c o.d o.a o.b fun a b => a + b

/-- ISUB64: pair d := pair a − pair b mod 2^64. -/
def execIsub64 (o : OpR) (s : State) : Res :=
  s.issue (.isub64 o) fun c => s.w3 c o.d o.a o.b fun a b => a - b

/-- LEA: pair d := pair a + SignExtend64(b) × 2^sh mod 2^64. -/
def execLea (o : OpG) (sh : BitVec 3) (s : State) : Res :=
  s.issue (.lea o sh) fun c => s.w2v c o.d o.a o.b fun a b => a + (b.signExtend 64 <<< sh.toNat)

end Sys2Proof.Machine
end

