-- ==== Sys2Proof/Machine/System.lean ====
section
/-! DEFINITION. System instructions (12 R278, 16 R371 to R373), traps and their return (17 R375 to R383), the firmware
emulation of retired opcodes, and illegal encodings. -/

namespace Sys2Proof.Machine

/-- GRIDSIZE (R192). -/
def Grid.size (d : Grid) : Nat := if d.lr.tcnt ≠ 0 then d.lr.tcnt else d.lr.groups

/-- The address of a group's tile record (R192). -/
def Grid.tileRec (d : Grid) (index : Nat) : Nat := if d.lr.tcnt = 0 then 0 else d.lr.tiles + 16 * index

/-- Half of a 64-bit value: the low or the high word. -/
def half (hi : Bool) (n : Nat) : Nat := if hi then n / 2 ^ 32 % 2 ^ 32 else n % 2 ^ 32

/-- ETIME as a core reads it (R169): within one tick of what any other core reads (log 81). -/
def State.etimeOn (s : State) (core : Nat) : Nat := s.etime - (Config.etimeLag core).val

/-- The value that SRD gives in a lane (Table 12-17), for an index that is listed; the high word of a latched counter comes
from the latch (R170). -/
def State.special (s : State) (c : Cur) (ix l : Nat) : Nat :=
  let d := tget s.grids c.g.grid
  let k := s.clock c.g.core
  let grid (f : Grid → Nat) : Nat := match d with | none => 0 | some d => f d
  match ix with
  | 0 => l
  | 1 => c.t.slotId
  | 2 => half false c.g.index
  | 3 => half true c.g.index
  | 4 => grid Grid.size
  | 5 => c.t.lanesN
  | 6 => c.r.role
  | 7 => if c.t.helper l then 1 else 0
  | 8 => c.g.core % 16
  | 9 => c.g.core / 16 % 32
  | 10 => c.g.core / 512
  | 11 => ((List.range 32).map fun w => if c.p.mask.extractLsb' (32 * w) 32 = 0#32 then 0 else 2 ^ w).sum
  | 12 => half false k.cyc.toNat
  | 13 => match c.p.cycLatch with | none => half true k.cyc.toNat | some w => w.toNat
  | 14 => half false (s.etimeOn c.g.core)
  | 15 => match c.p.etLatch with | none => half true (s.etimeOn c.g.core) | some w => w.toNat
  | 16 => k.gcyc0.toNat
  | 17 => k.gcyc1.toNat
  | 18 => k.gcyc2.toNat
  | 19 => k.gcyc3.toNat
  | 20 => c.t.fpc.toNat
  | 21 => c.t.fsr.toNat
  | 22 => c.t.mxstat.toNat
  | 23 => c.p.futstat.toNat
  | 24 => match tget s.ctxs c.g.asid with | none => 0 | some x => x.atomsat.toNat
  | 25 => grid fun d => half false d.lr.param.toNat
  | 26 => grid fun d => half true d.lr.param.toNat
  | 27 => grid fun d => half false (d.tileRec c.g.index)
  | 28 => grid fun d => half true (d.tileRec c.g.index)
  | 29 => grid fun d => half false d.desc
  | 30 => grid fun d => half true d.desc
  | 32 | 33 | 34 | 35 => if (((tget c.t.done (ix - 32)).map Prod.snd).getD 0).getLsbD l then 1 else 0
  | _ => 0

/-- The latch that a read of CYCLO or ETIMELO sets (R170). -/
def State.latch (s : State) (c : Cur) (ix : Nat) : State :=
  if ix = 12 then s.modPath c.r fun p => { p with cycLatch := some (word ((s.clock c.g.core).cyc.toNat / 2 ^ 32)) }
  else if ix = 14 then s.modPath c.r fun p => { p with etLatch := some (word (s.etimeOn c.g.core / 2 ^ 32)) }
  else s

/-- SRD (R278). A read of CYCLO or ETIMELO sets its latch whatever lanes are active, of which the spec says nothing (DESIGN CHOICE,
log 90). -/
def execSrd (o : OpU) (ix : BitVec 6) (s : State) : Res :=
  s.issue (.srd o ix) fun c =>
    let act := c.act s.guard
    let s := (s.latch c ix.toNat).modTeam c.r.gid c.r.role fun t =>
      t.mapLanes act fun l r => r.setV o.d.toNat (word (s.special c ix.toNat l))
    s.advance c.r

/-- SWR (R278): DONEn by lane; any other register from the lowest active non-helper lane, reserved bits left out. -/
def execSwr (o : OpU) (ix : BitVec 6) (s : State) : Res :=
  s.issue (.swr o ix) fun c =>
    let act := c.act s.guard
    let a (l : Nat) : Word := (c.t.lane l).getV o.a.toNat
    let team (f : Team → Team) : State := s.modTeam c.r.gid c.r.role f
    let n := ix.toNat
    let s := if 32 ≤ n then
        let old := (tget c.t.done (n - 32)).getD (false, 0)
        let new := act.foldl (fun m l => if (a l).getLsbD 0 then m ||| (1#1024 <<< l) else m &&& ~~~ (1#1024 <<< l)) old.2
        team fun t => { t with done := tset t.done (n - 32) (old.1, new) }
      else match (act.filter fun l => ¬ c.t.helper l).head? with
        | none => s
        | some l =>
          let w := a l
          if n = 20 then team fun t => { t with fpc := w &&& 0x7E7#32 }
          else if n = 21 then team fun t => { t with fsr := w &&& 0x1F#32 }
          else if n = 22 then team fun t => { t with mxstat := w &&& 0x8007FFFF#32 }
          else if n = 23 then s.modPath c.r fun p => { p with futstat := w &&& 3#32 }
          else s.modCtx c.g.asid fun x => { x with atomsat := w.setWidth 2 }
    s.advance c.r

/-- TRAP (R372): into the handler after the instruction, with cause 0x20 and detail n. -/
def State.trapN (s : State) (c : Cur) (n : Nat) : State :=
  if (c.workers s.guard).isEmpty then s.advance c.r else s.takeTrap c.r 0x20 n 0 0 true

/-- Whether the path is in handler state (R377). -/
def Cur.handles (c : Cur) : Bool := c.t.handling c.r.slot

/-- TRAP. -/
def execTrap (o : OpI) (s : State) : Res := s.issue (.trap o) fun c => s.trapN c o.imm.toNat

/-- TRAP 511 (R379): in handler state the return; elsewhere an ordinary trap. -/
def execTrapReturn (o : OpI) (s : State) : Res :=
  s.issue (.trapReturn o) fun c =>
    if c.handles ∧ ¬ (c.workers s.guard).isEmpty then s.returnTrap c.r else s.trapN c 511

/-- The code and detail of the trap that a team is serving, for the driver's notification. -/
def Team.trapCode (t : Team) : Nat := match t.trap with | none => 0 | some tr => 256 * tr.cause + tr.detail

/-- TRAP 510 (R379): in handler state the grid is terminated; elsewhere an ordinary trap. -/
def execTrapTerminate (o : OpI) (s : State) : Res :=
  s.issue (.trapTerminate o) fun c =>
    if c.handles ∧ ¬ (c.workers s.guard).isEmpty then s.terminateGrid c.g.grid c.g.index c.t.trapCode else s.trapN c 510

/-- BKPT (R372). -/
def execBkpt (s : State) : Res :=
  s.issue .bkpt fun c => if (c.workers s.guard).isEmpty then s.advance c.r else s.takeTrap c.r 0x21 0 0 0 true

/-- ERET (R372): the return, in a supervisor context's handler. -/
def execEret (s : State) : Res :=
  s.issueWith .eret (fun c => errIf (¬ c.handles) 8) fun c =>
    if (c.workers s.guard).isEmpty then s.advance c.r else s.returnTrap c.r

/-- The accesses outstanding that were translated (R23): operations of copy units on global memory, LDFs, accesses issued and not
performed, reads of host memory by units, and atomics of host memory of engines and of received frames. -/
def State.translated (s : State) : List Nat :=
  let mem (o : AsyncOp) : Bool := (match o.kind with
      | .cpym _ _ _ _ _ => true
      | _ => false) || o.sectors.any fun c => (match c.src with | .mem _ _ _ _ => true | _ => false) ||
        (match c.dst with | .mem _ _ _ => true | _ => false)
  ((s.ops.filter fun o => mem o.2).map Prod.fst) ++ ((s.ldfs.filter fun l => ¬ l.2.held).map Prod.fst) ++
    s.issues.map Issue.id ++ s.signals ++ s.unitReqs.map UnitReq.id ++ s.recv.filterMap fun e => match e.2.wait with
      | some (_, .host id) => some id
      | _ => none

/-- An invalidation of translations (R23): it leaves every TLB and walk cache at once, and completes when no access translated
before it is outstanding. -/
def State.invalidate23 (s : State) (k : InvKind) (who : InvalFor) : State :=
  let s := s.invalidateTlb k
  { s with invals := s.invals ++
      [{ who := who, ops := s.translated, reqs := (s.hostReqs.filter fun q => q.live).map fun q => q.id }] }

/-- A TLB invalidation by an instruction, once per path (R373): its flag waits for it, and its path issues nothing until it
completes. -/
def State.tlbinv (s : State) (c : Cur) (k : InvKind) : State :=
  if (c.workers s.guard).isEmpty then s.advance c.r
  else if s.translated.isEmpty && ¬ s.hostReqs.any (fun q => q.live) then (s.invalidateTlb k).advance c.r
  else
    let id := s.fresh
    let s : State := { s with fresh := id + 1 }
    ((s.invalidate23 k (.clause c.r id)).addOp c.r c.p.clauseId id).advance c.r

/-- The accesses that invalidations wait for and that are done leave them; those that wait for none any more complete: the flag
of the TLBINV is released, or the host's operation is done (R23, R373, R393). -/
def State.invalsDone (s : State) : State :=
  if s.invals.isEmpty then s else
  let now := s.translated
  let left (v : Inval) : Inval := { v with
    ops := v.ops.filter now.contains
    reqs := v.reqs.filter fun r => s.hostReqs.any fun q => q.live && q.id = r }
  let vs := s.invals.map left
  let gone (v : Inval) : Bool := v.ops.isEmpty && v.reqs.isEmpty
  (vs.filter gone).foldl (fun s v => match v.who with
    | .clause r op => s.opDone r.gid r.role op
    | .host => { s with host := { s.host with busy := false, result := 0 } }) { s with invals := vs.filter fun v => ¬ gone v }

/-- TLBINV of every entry. -/
def execTlbinvAll (o : OpG) (x : XTlb) (s : State) : Res := s.issue (.tlbinvAll o x) fun c => s.tlbinv c .all
/-- TLBINV of one address space. -/
def execTlbinvAsid (o : OpG) (x : XTlb) (s : State) : Res :=
  s.issue (.tlbinvAsid o x) fun c => s.tlbinv c (.asid x.asid.toNat)
/-- TLBINV of a page of one address space. -/
def execTlbinvPage (o : OpG) (x : XTlb) (s : State) : Res :=
  s.issue (.tlbinvPage o x) fun c => s.tlbinv c (.page x.asid.toNat (c.p.getS2 o.a.toNat).toNat)
/-- TLBINV of a global page. -/
def execTlbinvGpage (o : OpG) (x : XTlb) (s : State) : Res :=
  s.issue (.tlbinvGpage o x) fun c => s.tlbinv c (.gpage (c.p.getS2 o.a.toNat).toNat)

/-- A retired opcode (R277, R382): the retired-opcode fault comes before any other check. -/
def State.retired (s : State) : Res :=
  match s.look with
  | none => .fault .noPath
  | some c => .next (s.takeTrap c.r 3 0 0 0 false)

/-- IMAD24.i24. -/
def execImad24I24 (_ : OpR) (s : State) : Res := s.retired
/-- IMAD24.n24. -/
def execImad24N24 (_ : OpR) (s : State) : Res := s.retired
/-- DOT4I8.i8. -/
def execDot4i8I8 (_ : OpG) (s : State) : Res := s.retired
/-- DOT4I8.n8. -/
def execDot4i8N8 (_ : OpG) (s : State) : Res := s.retired
/-- LDRO. -/
def execLdro (_ : OpG) (_ : XMem) (s : State) : Res := s.retired

/-- The low 24 bits of a word, signed or not. -/
def low24 (signed : Bool) (a : Word) : Int :=
  let n : Nat := a.toNat % 2 ^ 24
  if signed ∧ 2 ^ 23 ≤ n then (n : Int) - 2 ^ 24 else n

/-- A byte of a word, signed or not. -/
def byteOf (signed : Bool) (a : Word) (i : Nat) : Int :=
  let n : Nat := a.toNat / 2 ^ (8 * i) % 256
  if signed ∧ 128 ≤ n then (n : Int) - 256 else n

/-- IMAD24 (Table 17-5). -/
def imad24 (signed : Bool) (a b d : Word) : Word := BitVec.ofInt 32 (low24 signed a * low24 signed b + d.toNat)

/-- DOT4I8 (Table 17-5). -/
def dot4 (signed : Bool) (a b d : Word) : Word :=
  BitVec.ofInt 32 (((List.range 4).map fun i => byteOf signed a i * byteOf signed b i).sum + d.toNat)

/-- The trap of a retired opcode ends and another fault is taken in its place (R376, R383). -/
def State.emulationFault (s : State) (c : Cur) (f : State → State) : State :=
  f (s.modTeam c.r.gid c.r.role fun t => { t with trap := none })

/-- An emulated form's registers written in each active lane; the path goes on after it (R383). -/
def State.emulated (s : State) (c : Cur) (tr : Trap) (f : Lane → Lane) : State :=
  let s := s.modTeam c.r.gid c.r.role fun t => t.mapLanes (c.act s.guard) fun _ l => f l
  s.resumeTrap c.r tr c.p.pc c.p.clause true

/-- LDRO (R383): a plain load whose lanes are checked and performed without a done mask; a failing lane is delivered. While the
host has still to give bytes of its memory, firmware waits (R35). -/
def State.emulateLdro (s : State) (c : Cur) (tr : Trap) (k : Ctx) (o : OpG) (x : XMem) : State :=
  let n := szBytes x.sz
  let act := c.act s.guard
  let r := s.checkLanes act fun s l => s.checkG c k (gAddr c o x.ub x.off.toInt l) n .read
  let bad := (failed r.2).filter fun e => ¬ c.t.helper e.1
  let spoilt := (passed r.2).filter fun e => e.2.any fun p => r.1.poisonPiece c.g.core false p
  if ¬ bad.isEmpty then r.1.emulationFault c fun s => s.laneTrap c.r bad
  else if ¬ spoilt.isEmpty then r.1.emulationFault c fun s => s.laneTrap c.r (spoiltLanes spoilt)
  else
    let h := r.1.hostAll c (passed r.2)
    match h.2 with
    | none => h.1
    | some ls =>
    let p := h.1.perform ls fun s _ ps =>
      let q := s.readAll ps fun s p => s.readPiece c.g.core false p
      (q.1, LaneOut.regs (loadRegs o.d.toNat (x.sx = 1) q.2))
    let zeros := (failed r.2).map fun e => (e.1, LaneOut.regs (loadRegs o.d.toNat false (List.replicate n 0)))
    (p.1.landOuts c.r c.p.clauseId (p.2 ++ zeros)).resumeTrap c.r tr c.p.pc c.p.clause true

/-- RETIRED_OPCODE_EMULATION (R383): firmware applies the field checks, performs the form and resumes after it. -/
def execRetiredOpcodeEmulation (s : State) : Res :=
  match s.input with
  | .team t => .next <| match tget s.groups t.gid with
    | none => s
    | some g => match tget g.teams t.role with
      | none => s
      | some k => match k.trap with
        | none => s
        | some tr => match s.at { gid := t.gid, role := t.role, slot := tr.slot }, tget s.ctxs g.asid with
          | some c, some x =>
            if tr.phase ≠ .firmware ∨ g.place ≠ .resident then s else
            let w := tr.iwords.extractLsb' 0 32
            let s : State := { s with guard := guardOf w }
            match parse w (tr.iwords.extractLsb' 32 32) with
            | .error d => s.emulationFault c fun s => s.takeTrap c.r 1 d 0 0 false
            | .ok i => match s.illegal i c [] with
              | some d => s.emulationFault c fun s => s.takeTrap c.r 1 d 0 0 false
              | none =>
                let three (o : Nat × Nat × Nat) (f : Word → Word → Word → Word) (l : Lane) : Lane :=
                  l.setV o.1 (f (l.getV o.2.1) (l.getV o.2.2) (l.getV o.1))
                match i with
                | .imad24I24 o => s.emulated c tr (three (o.d.toNat, o.a.toNat, o.b.toNat) (imad24 true))
                | .imad24N24 o => s.emulated c tr (three (o.d.toNat, o.a.toNat, o.b.toNat) (imad24 false))
                | .dot4i8I8 o => s.emulated c tr (three (o.d.toNat, o.a.toNat, o.b.toNat) (dot4 true))
                | .dot4i8N8 o => s.emulated c tr (three (o.d.toNat, o.a.toNat, o.b.toNat) (dot4 false))
                | .ldro o m => s.emulateLdro c tr x o m
                | _ => s
          | _, _ => s
  | _ => .next s

/-- TRAP_DELIVERY (R377): a team that waits for a frame slot is delivered to its handler when one is free. -/
def execTrapDelivery (s : State) : Res :=
  match s.input with
  | .team t => .next <| match tget s.groups t.gid with
    | none => s
    | some g => if g.place = .resident then s.deliver t.gid t.role else s
  | _ => .next s

/-- ILLEGAL_INSTRUCTION (R275): the word that the path has reached is no instruction of the map. In a retired major the
retired-opcode fault comes before any other check, and firmware finds the unlisted FN (R277, R382, R383). -/
def execIllegalInstruction (s : State) : Res :=
  match s.look with
  | none => .fault .noPath
  | some c => .next <| match c.p.clause with
    | none => s
    | some k => match parse k.word0 k.word1 with
      | .error d => if 0x7C ≤ majorOf k.word0 ∧ majorOf k.word0 ≤ 0x7E then s.takeTrap c.r 3 0 0 0 false
          else s.takeTrap c.r 1 d 0 0 false
      | .ok _ => s

end Sys2Proof.Machine
end

