-- ==== Sys2Proof/Machine/StreamOps.lean ====
section
/-! DEFINITION. Stream instructions (16 R362 to R364) and the meridian unit's events (09 R214 to R222). -/

namespace Sys2Proof.Machine

/-- The rank at which a stream instruction releases (R94). -/
def streamRank (scope : BitVec 5) : Nat := if scope = 5 then 5 else 4

/-- Whether a source is in use; without a stream table none is (R209). -/
def Ctx.hasSource (x : Ctx) (src : Nat) : Bool :=
  match tget x.sources src with
  | none => false
  | some k => k.en

/-- The checks of a lane's record before any lane appends (R362): the payload's alignment and range, and the ring slot that
the lane would take. -/
def State.checkRecordLane (s : State) (c : Cur) (x : Ctx) (k : Source) (o : OpG) (l i : Nat) : State × Checked :=
  let off := ((c.t.lane l).getV o.b.toNat).toNat
  let n := ((c.t.lane l).getV (o.a.toNat + 3)).toNat % 65536
  if off % 4 ≠ 0 then (s, .error { cause := 6, detail := 0, addr := off })
  else match s.spadWhere c.r.gid off n with
    | .error f => (s, .error { cause := f.cause, detail := f.detail, addr := off })
    | .ok w =>
      let va := k.slotVA (k.wridx + i)
      let r := s.translate c.g.core c.g.asid x va .write
      match r.2 with
      | .error f => (r.1, .error { cause := f.cause, detail := f.detail, addr := va })
      | .ok _ => (r.1, .ok [.spad off w.1 w.2 n])

/-- The record that a lane supplies (R362). -/
def State.laneRecord (s : State) (c : Cur) (o : OpG) (l : Nat) (ps : List Piece) : NewRec :=
  let v (i : Nat) : Nat := ((c.t.lane l).getV (o.a.toNat + i)).toNat
  let head := v 0 + 2 ^ 32 * v 1 + 2 ^ 64 * v 2 + 2 ^ 96 * (v 3 % 65536) + 2 ^ 114 * (v 3 / 65536 % 64)
  match ps with
  | [.spad _ gid off n] => { head := head, payload := s.spadBytes gid off n, poison := s.spadPoisoned gid off n }
  | _ => { head := head, payload := [], poison := false }

/-- RAPP (R213, R362): one record in each active non-helper lane, in ascending order until one fails. -/
def execRapp (o : OpG) (x : XAsy) (s : State) : Res :=
  s.issue (.rapp o x) fun c => s.withCtx c fun k =>
    let rank := streamRank x.scope
    let src := x.len.toNat % 256
    let ls := c.workers s.guard
    if ls.isEmpty then (s.release c.g.core rank).advance c.r
    else match tget k.sources src with
      | none => s.takeTrap c.r 1 8 0 0 false
      | some q =>
        let long := ls.filter fun l => q.limit < ((c.t.lane l).getV (o.a.toNat + 3)).toNat % 65536
        if ¬ q.en then s.takeTrap c.r 1 8 0 0 false
        else if ¬ long.isEmpty then s.takeTrap c.r 1 8 0 (laneSet long) false
        else
          let chk := ls.zipIdx.foldl (fun (e : State × List (Nat × Checked)) p =>
            let r := e.1.checkRecordLane c k q o p.1 p.2
            (r.1, e.2 ++ [(p.1, r.2)])) (s, [])
          let bad := failed chk.2
          if ¬ bad.isEmpty then chk.1.laneTrap c.r bad
          else
            let s := chk.1.release c.g.core rank
            let r := (passed chk.2).foldl (fun (e : State × List (Nat × Bool) × Bool) p =>
              if e.2.2 then (e.1, e.2.1 ++ [(p.1, false)], true)
              else
                let a := e.1.append c.g.asid src (e.1.laneRecord c o p.1 p.2) true
                (a.1, e.2.1 ++ [(p.1, a.2)], ¬ a.2)) (s, [], false)
            let helpers := ((c.act s.guard).filter fun l => c.t.helper l).map fun l => (l, false)
            (r.1.landP c.r c.p.clauseId o.d.toNat (r.2.1 ++ helpers)).advance c.r

/-- An instruction on a source (R363): its release, then its effect once. -/
def State.sourceOp (s : State) (c : Cur) (k : Ctx) (x : XAsy) (f : State → State) : State :=
  let rank := streamRank x.scope
  if (c.workers s.guard).isEmpty then (s.release c.g.core rank).advance c.r
  else if ¬ k.hasSource (x.len.toNat % 256) then s.takeTrap c.r 1 8 0 0 false
  else (f (s.release c.g.core rank)).advance c.r

/-- WMADV (R363). -/
def execWmadv (o : OpG) (x : XAsy) (s : State) : Res :=
  s.issue (.wmadv o x) fun c => s.withCtx c fun k =>
    s.sourceOp c k x fun s => s.wmadv c.g.asid (x.len.toNat % 256) (i64 (c.p.getS2 o.a.toNat).toNat)

/-- SCLOSE (R363). -/
def execSclose (o : OpG) (x : XAsy) (s : State) : Res :=
  s.issue (.sclose o x) fun c => s.withCtx c fun k =>
    s.sourceOp c k x fun s => s.sclose c.g.asid (x.len.toNat % 256)

/-- Whether the path's grid is a fire grid (or an amend grid) of a binding (R219). -/
def State.gridKind (s : State) (c : Cur) (amend : Bool) : Bool :=
  match tget s.grids c.g.grid with
  | none => false
  | some d => match d.origin with
    | .packet _ _ => false
    | .window _ _ a => a = amend

/-- A publication (R219, R364): a release at SCOPE; the first one of the grid writes the result header that its descriptor
gives. -/
def State.publish (s : State) (c : Cur) (k : Ctx) (scope : BitVec 5) : State :=
  let rank := c.rank k scope
  if (c.workers s.guard).isEmpty then (s.release c.g.core rank).advance c.r
  else match tget s.grids c.g.grid with
    | none => s
    | some d => match d.origin with
      | .packet _ _ => s
      | .window b slot _ =>
        if d.published then (s.release c.g.core rank).advance c.r
        else
          let t := s.translate c.g.core c.g.asid k d.res .write
          match t.2 with
          | .error f => t.1.takeTrap c.r f.cause f.detail d.res 0 false
          | .ok y =>
            let s := (t.1.release c.g.core rank).storeThrough c.g.core y.pa d.head y.attr
            (s.notePublished c.g.grid c.g.asid b slot).advance c.r

/-- WPUB (R364): in a fire grid. -/
def execWpub (o : OpG) (x : XAsy) (s : State) : Res :=
  s.issueWith (.wpub o x) (fun c => errIf (¬ s.gridKind c false) 8) fun c => s.withCtx c fun k => s.publish c k x.scope

/-- WPUB.AMEND (R364): in an amend grid. -/
def execWpubAmend (o : OpG) (x : XAsy) (s : State) : Res :=
  s.issueWith (.wpubAmend o x) (fun c => errIf (¬ s.gridKind c true) 8) fun c => s.withCtx c fun k => s.publish c k x.scope

/-- A context that is live and not being killed. -/
def State.alive (s : State) (asid : Nat) : Bool :=
  match tget s.ctxs asid with
  | none => false
  | some x => x.kill = .live

/-- RECORD_PLACEMENT (R216, R217): a binding places the next record of a source. -/
def execRecordPlacement (s : State) : Res :=
  match s.input with
  | .three asid b src => .next <| match s.binding asid b with
    | none => s
    | some (_, k) => match k.nextOf src with
      | some (.record _ _ bytes bad) =>
        if ¬ k.free ∨ k.changeFirst src ∨ ¬ s.alive asid then s else
        let s := (s.modBinding asid b fun k => k.taken src).place asid b src bytes bad
        match s.source asid src with
        | none => s
        | some (_, q) => (s.freeRing asid src).srcStatus asid src q
      | _ => s
  | _ => .next s

/-- STAGE_RECOMPUTE (R215): a binding takes up a change of one of its sources. -/
def execStageRecompute (s : State) : Res :=
  match s.input with
  | .three asid b src => .next <| match s.binding asid b with
    | none => s
    | some (_, k) => match k.nextOf src with
      | some (.change _ w st) =>
        if ¬ k.free ∨ ¬ s.alive asid then s else
        let old := k
        let k : Binding := { k.taken src with view := tset k.view src (w, st) }
        let s := (s.modBinding asid b fun _ => { k with stagewm := k.stage }).bindStatus asid b old
        s.outAdvance asid b
      | _ => s
  | _ => .next s

/-- A binding stops (R218): EN is cleared and the driver notified of the refused record. It reads its sources no more, whose
records go on without it (R210). -/
def State.stopBinding (s : State) (asid b : Nat) (x : Ctx) (e : QErr) : State :=
  let va := x.strtab + 0x4000 + 256 * b
  let inputs : BitVec 256 := match tget x.bindings b with
    | none => 0
    | some k => k.inputs
  let s := (s.modBinding asid b fun k => { k with en := false, todo := [] }).freeRings asid inputs
  let r := s.unitNat 0 asid x (va + 0x43) 1
  let s := match r.2 with
    | .ok n => r.1.put asid (va + 0x43) (bytesLE 1 (n % 128))
    | .error _ => r.1
  s.notify 2 (256 * e.fault + e.code) asid 0 va

/-- A fire or amend grid launched (R218, R220): the descriptor is written, the launch record is read and checked, and the
grid waits for dispatch, its events after the transit and what was binned before it (R95): the RDC invalidations of the unit's
writes are delivered. A refused record stops the binding. -/
def State.launchWindow (s : State) (asid b slot : Nat) (amend final : Bool) : State :=
  match s.binding asid b with
  | none => s
  | some (x, k) => match tget k.windows slot with
    | none => s
    | some w =>
      let w' : Window := { w with
        count := w.n, version := if amend then w.published else 0, final := final, timer := false, transited := true }
      let first := if amend then w.count else 0
      let s := (s.unitWrite k.die asid x (k.wdesc + 64 * slot) (k.descriptor slot w' first amend)).1
      let r := s.unitNat k.die asid x (if amend then k.amendrec else k.firerec) 64
      match r.2 with
      | .error f => r.1.stopBinding asid b x { code := 5, fault := f.cause }
      | .ok n =>
        let e := r.1.checkRecord k.die asid x n
        match e.2 with
        | some err => e.1.stopBinding asid b x err
        | none =>
          let id := e.1.fresh
          let s := e.1.deliverInv.modBinding asid b fun k => { k with windows := tset k.windows slot { w' with running := some id } }
          (s.startGrid asid (LaunchRec.ofNat n) (.window b slot amend) none false).modGrid id fun d => { d with
            desc := k.wdesc + 64 * slot, head := k.header w', res := k.result + k.resstr * slot }

/-- WINDOW_TRANSIT (R218): the lowest window of a binding that is due transits. -/
def execWindowTransit (s : State) : Res :=
  match s.input with
  | .two asid b => .next <| match s.binding asid b with
    | none => s
    | some (_, k) =>
      if ¬ k.en ∨ ¬ s.alive asid then s else
      let due := k.windows.filter fun w => k.due w.2
      match due with
      | [] => s
      | d :: ds =>
        let low := ds.foldl (fun m w => if w.2.k < m.2.k then w else m) d
        s.launchWindow asid b low.1 false false
  | _ => .next s

/-- Whether an amendment of a window is due (R220): no grid of it runs, its late bin is not empty, and the bin is full
enough, its timer has passed, or the lateness bound is reached. -/
def Binding.amends (k : Binding) (w : Window) : Bool :=
  w.transited && w.running.isNone && decide (w.count < w.n) &&
    (decide (k.lbatch ≤ w.n - w.count) || w.timer || decide (k.winEnd w.k + k.lateness ≤ k.stagewm))

/-- AMENDMENT_LAUNCH (R220); at the lateness bound it is the FINAL one. -/
def execAmendmentLaunch (s : State) : Res :=
  match s.input with
  | .three asid b slot => .next <| match s.binding asid b with
    | none => s
    | some (_, k) => match tget k.windows slot with
      | none => s
      | some w =>
        if k.en && s.alive asid && k.amends w then
          s.launchWindow asid b slot true (k.winEnd w.k + k.lateness ≤ k.stagewm)
        else s
  | _ => .next s

/-- LATE_TIMER_EXPIRY (R220): LTIMER has passed since the oldest record of the late bin was placed. -/
def execLateTimerExpiry (s : State) : Res :=
  match s.input with
  | .three asid b slot => .next <| match s.binding asid b with
    | none => s
    | some (_, k) => match tget k.windows slot with
      | none => s
      | some w =>
        if k.en ∧ k.ltimer ≠ 0 ∧ w.transited ∧ w.count < w.n ∧ w.oldest + k.ltimer * Config.scanTicks ≤ s.etime then
          s.modBinding asid b fun k => { k with windows := tmod k.windows slot fun w => { w with timer := true } }
        else s
  | _ => .next s

/-- SOURCE_IDLE_SCAN (R214): at the latest multiple of 4,096 ticks, every ACTIVE source past its idle timeout goes IDLE. -/
def execSourceIdleScan (s : State) : Res :=
  match s.input with
  | .one asid => .next <| match tget s.ctxs asid with
    | none => s
    | some x =>
      let now := s.etime / Config.scanTicks * Config.scanTicks
      let idle := x.sources.filter fun k => k.2.en && k.2.state = .active && decide (k.2.idlet ≠ 0) &&
        decide (k.2.lastact + k.2.idlet * Config.scanTicks ≤ now)
      idle.foldl (fun s k =>
        (s.modSource asid k.1 fun k => { k with state := .idle }).changed asid k.1 k.2) s
  | _ => .next s

/-- WATERMARK_PROPAGATION (R95, R222): the receiving die's unit applies the next advance carried to it for a source. -/
def execWatermarkPropagation (s : State) : Res :=
  match s.input with
  | .two asid src => .next <| match tget s.ctxs asid with
    | none => s
    | some x => match x.carried.find? fun e => e.1 = src with
      | none => s
      | some e =>
        let s := s.modCtx asid fun x => { x with carried := x.carried.eraseP fun e => e.1 = src }
        match e.2 with
        | some w => s.wmadv asid src w
        | none => s.sclose asid src
  | _ => .next s

end Sys2Proof.Machine
end

