-- ==== Sys2Proof/Machine/Async.lean ====
section
/-! DEFINITION. Asynchronous instructions (16 R352 to R361): copies, multicast, queue appends, launches, SUCC and PREDW, and
the events of the copy units (R66, R119, R354, R359, R360). -/

namespace Sys2Proof.Machine

/-- A check of an operand of an asynchronous instruction. -/
abbrev Got (α : Type) := Except LaneFault α

/-- The orderings of an instruction that starts no operation take place as fences at SCOPE, and the path goes on (R353, R358). -/
def State.onlyFences (s : State) (c : Cur) (k : Ctx) (x : XAsy) : State :=
  let rank := c.rank k x.scope
  let s := if x.rel = 1 then s.release c.g.core rank else s
  (if x.acq = 1 then s.acquire c.g.core rank else s).advance c.r

/-- An instruction of the copy unit (R353): without an active non-helper lane, only its fences. -/
def State.async (s : State) (c : Cur) (k : Ctx) (x : XAsy) (act : State → State) : State :=
  if (c.workers s.guard).isEmpty then s.onlyFences c k x else act s

/-- The fault of an operand: precise, with no lane named (R353). -/
def State.operandTrap (s : State) (c : Cur) (f : LaneFault) : State := s.takeTrap c.r f.cause f.detail f.addr 0 false

/-- An operand aligned to n bytes. -/
def alignedTo (n a : Nat) : Got Unit := if a % n = 0 then .ok () else .error { cause := 6, detail := 0, addr := a }

/-- A scratchpad range (R29); one that may not lie in the gang window gives detail 8 there (R356). -/
def State.spadRange (s : State) (c : Cur) (off n : Nat) (window : Bool) : Got (Nat × Nat) :=
  if ¬ window ∧ 0x100000 ≤ off then .error { cause := 5, detail := 8, addr := off }
  else match s.spadWhere c.r.gid off n with
    | .ok w => .ok w
    | .error f => .error { cause := f.cause, detail := f.detail, addr := off }

/-- The barrier object that BOS names (R119): none for all ones, else an aligned object in scratchpad. -/
def State.bosObject (s : State) (c : Cur) (x : XAsy) : Got (Option (Nat × Nat)) :=
  let off := (c.p.getS x.bos.toNat).toNat
  if off = 0xFFFFFFFF then .ok none
  else match alignedTo 16 off, s.spadRange c off 16 true with
    | .error f, _ => .error f
    | _, .error f => .error f
    | .ok _, .ok w => .ok (some w)

/-- The 32-byte sectors of a global range, each page translated for an access (R353). -/
def State.globalSectors (s : State) (core asid : Nat) (k : Ctx) (va n : Nat) (acc : Access) : State × Got (List (Nat × Attr)) :=
  (pieces va n).foldl (fun e p => match e.2 with
    | .error _ => e
    | .ok l =>
      let r := e.1.translate core asid k p.1 acc
      match r.2 with
      | .error f => (r.1, .error { cause := f.cause, detail := f.detail, addr := p.1 })
      | .ok y => (r.1, .ok (l ++ (List.range (p.2 / 32)).map fun i => (y.pa + 32 * i, y.attr)))) (s, .ok [])

/-- The sources of a copy from global sectors. -/
def srcMem (l : List (Nat × Attr)) : List SecSrc := l.map fun e => .mem e.1 e.2.uncached e.2.nrd e.2.low
/-- The destinations of a copy to global sectors. -/
def dstMem (l : List (Nat × Attr)) : List SecDst := l.map fun e => .mem e.1 e.2.uncached e.2.low
/-- The sectors of a scratchpad range as sources. -/
def srcSpad (w : Nat × Nat) (n : Nat) : List SecSrc := (List.range n).map fun i => .spad w.1 (w.2 + 32 * i)
/-- The sectors of a scratchpad range as destinations. -/
def dstSpad (w : Nat × Nat) (n : Nat) : List SecDst := (List.range n).map fun i => .spad w.1 (w.2 + 32 * i)
/-- The sectors of a copy. -/
def sectorsFrom (a : List SecSrc) (b : List SecDst) : List Sector :=
  (a.zip b).map fun e => { src := e.1, dst := e.2 }

/-- Acceptance (R353): the acquire of ACQ, then the operation takes one of the core's 16 places; without a free place the
instruction waits (R199). -/
def State.accept (s : State) (c : Cur) (k : Ctx) (x : XAsy) (f : State → State × OpKind × List Sector × Option (Nat × Nat)) :
    State :=
  if 16 ≤ (s.ops.filter fun o => o.2.core = c.g.core).length then s else
  let s := if x.acq = 1 then s.acquire c.g.core (c.rank k x.scope) else s
  let r := f s
  let id := r.1.fresh
  let o : AsyncOp :=
    { asid := c.g.asid, core := c.g.core, path := c.r, clause := c.p.clauseId, kind := r.2.1, seq := id
      scope := x.scope.toNat, acq := x.acq = 1, rel := x.rel = 1, sectors := r.2.2.1, bar := r.2.2.2, credits := 0 }
  let s := { r.1 with fresh := id + 1, ops := tset r.1.ops id o }
  (s.addOp c.r c.p.clauseId id).advance c.r

/-- The first failure of a list of checks that give nothing. -/
def firstBad : List (Got Unit) → Option LaneFault
  | [] => none
  | .ok _ :: l => firstBad l
  | .error f :: _ => some f

/-- CPY.gl (R356): global memory to scratchpad. -/
def execCpyGl (o : OpG) (x : XAsy) (s : State) : Res :=
  s.issue (.cpyGl o x) fun c => s.withCtx c fun k => s.async c k x fun s =>
    let n := 32 * x.len.toNat
    let src := (c.p.getS2 o.a.toNat).toNat
    let dst := (c.p.getS o.d.toNat).toNat
    match firstBad [alignedTo 32 src, alignedTo 32 dst], s.bosObject c x, s.spadRange c dst n true with
    | some f, _, _ => s.operandTrap c f
    | _, .error f, _ => s.operandTrap c f
    | _, _, .error f => s.operandTrap c f
    | none, .ok bar, .ok w =>
      let g := s.globalSectors c.g.core c.g.asid k src n .read
      match g.2 with
      | .error f => g.1.operandTrap c f
      | .ok l => g.1.accept c k x fun s => (s, .copy, sectorsFrom (srcMem l) (dstSpad w x.len.toNat), bar)

/-- CPY.lg (R356): scratchpad to global memory. -/
def execCpyLg (o : OpG) (x : XAsy) (s : State) : Res :=
  s.issue (.cpyLg o x) fun c => s.withCtx c fun k => s.async c k x fun s =>
    let n := 32 * x.len.toNat
    let dst := (c.p.getS2 o.d.toNat).toNat
    let src := (c.p.getS o.a.toNat).toNat
    match firstBad [alignedTo 32 src, alignedTo 32 dst], s.spadRange c src n false with
    | some f, _ => s.operandTrap c f
    | _, .error f => s.operandTrap c f
    | none, .ok w =>
      let g := s.globalSectors c.g.core c.g.asid k dst n .write
      match g.2 with
      | .error f => g.1.operandTrap c f
      | .ok l => g.1.accept c k x fun s => (s, .copy, sectorsFrom (srcSpad w x.len.toNat) (dstMem l), none)

/-- CPYG (R356): global memory to global memory. -/
def execCpyg (o : OpG) (x : XAsy) (s : State) : Res :=
  s.issue (.cpyg o x) fun c => s.withCtx c fun k => s.async c k x fun s =>
    let n := 32 * x.len.toNat
    let dst := (c.p.getS2 o.d.toNat).toNat
    let src := (c.p.getS2 o.a.toNat).toNat
    match firstBad [alignedTo 32 src, alignedTo 32 dst] with
    | some f => s.operandTrap c f
    | none =>
      let g := s.globalSectors c.g.core c.g.asid k src n .read
      match g.2 with
      | .error f => g.1.operandTrap c f
      | .ok l =>
        let h := g.1.globalSectors c.g.core c.g.asid k dst n .write
        match h.2 with
        | .error f => h.1.operandTrap c f
        | .ok m => h.1.accept c k x fun s => (s, .copy, sectorsFrom (srcMem l) (dstMem m), none)

/-- Rows of the tile of a CPYT (Table 16-1). -/
def tileRows (x : XAsy) : Nat := x.len.toNat / 1024 % 32 + 1
/-- Columns of the tile. -/
def tileCols (x : XAsy) : Nat := x.len.toNat % 1024 + 1

/-- The elements of a tile row checked as the operation will read them (R353, R357). -/
def State.checkRow (s : State) (c : Cur) (k : Ctx) (t : Option Tensor) (co : Nat → Int) (row cols : Nat) : State × Checked :=
  s.checkMany (List.range cols) fun s j => s.checkElem c k t [co 0 + j, co 1 + row, co 2, co 3, 0] .read

/-- The chunks of a row in their places: with LAYOUT 1 the 16-byte chunk i lands at i XOR (row mod 8) (R203). -/
def swizzle {α : Type} (row : Nat) (bs : List α) : List α :=
  (List.range (bs.length / 16)).flatMap fun i => (bs.drop (16 * (i ^^^ (row % 8)))).take 16

/-- A piece of a tile as the copy unit of a core reads it: over the tile path (R357), with the core's dirty bytes over it (R88,
R199); each byte with its poison (R68). -/
def State.tilePiece (s : State) (core asid : Nat) (p : Piece) : State × List (Byte × Bool) :=
  match p with
  | .mem _ pa n a =>
    let bad := (List.range n).map fun i => s.poisonedPath core .tile (pa + i) 1 a
    let r := s.pathRead core .tile asid pa n a
    let mine := r.1.l1Find core (pa / 128)
    (r.1, (List.range n).map fun i =>
      let at_ := pa % 128 + i
      let plain := ((r.2[i]?).getD 0, (bad[i]?).getD false)
      match mine with
      | none => plain
      | some l => if l.dirty.getLsbD at_ || l.amod.getLsbD at_ then (getByte l.data at_, l.poison.getLsbD at_) else plain)
  | p => let r := s.readPath core asid .tile p; (r.1, r.2.map fun b => (b, false))

/-- A tile read row by row (R357): the bytes of each row buffer, each with its poison. -/
def State.readTile (s : State) (c : Cur) (swz : Bool) (pitch : Nat) (rows : List (List Piece)) : State × List (Byte × Bool) :=
  rows.zipIdx.foldl (fun (e : State × List (Byte × Bool)) r =>
    let q := r.1.foldl (fun (e : State × List (Byte × Bool)) p =>
      let b := e.1.tilePiece c.g.core c.g.asid p
      (b.1, e.2 ++ b.2)) (e.1, [])
    let bs := q.2 ++ List.replicate (pitch - q.2.length) (0#8, false)
    (q.1, e.2 ++ (if swz then swizzle r.2 bs else bs))) (s, [])

/-- The sectors of bytes that the copy unit holds, a sector poisoned where a byte of it is. -/
def srcHeld (bs : List (Byte × Bool)) : List SecSrc :=
  (List.range (bs.length / 32)).map fun i =>
    let part := (bs.drop (32 * i)).take 32
    .held (part.map Prod.fst) (part.any Prod.snd)

/-- The checks of the elements of a tile, row by row, as the operation will read them (R353, R357). -/
def State.checkTile (s : State) (c : Cur) (k : Ctx) (t : Option Tensor) (co : Nat → Int) (rows cols : Nat) :
    State × Got (List (List Piece)) :=
  (List.range rows).foldl (fun (e : State × Got (List (List Piece))) i => match e.2 with
    | .error _ => e
    | .ok l =>
      let q := e.1.checkRow c k t co i cols
      match q.2 with
      | .error f => (q.1, .error f)
      | .ok ps => (q.1, .ok (l ++ [ps]))) (s, .ok [])

/-- CPYT in both forms (R357): the descriptor's checks are made whatever the lanes; then the destination's, then the
elements'. -/
def State.copyTile (s : State) (c : Cur) (k : Ctx) (o : OpG) (x : XAsy) (toGlobal : Bool) : State :=
  let width (t : Tensor) : Nat := tileCols x * typeBytes t.ty
  let swizzled (t : Tensor) : Bool := ¬ toGlobal && t.layout = 1
  let ok (t : Tensor) : Bool := ¬ isWeight t.ty && (¬ swizzled t || width t % 128 = 0)
  s.withTensor c k (c.p.getS o.a.toNat).toNat ok fun s t => s.async c k x fun s =>
    let rb := (t.map width).getD 0
    let swz := (t.map swizzled).getD false
    let pitch := (rb + 31) / 32 * 32
    let n := tileRows x * pitch
    let dst := if toGlobal then (c.p.getS2 o.d.toNat).toNat else (c.p.getS o.d.toNat).toNat
    let co (i : Nat) : Int := ((c.p.getS (o.b.toNat + i)).toNat : Int)
    let go (s : State) (l : List (List Piece)) (out : List SecDst) (bar : Option (Nat × Nat)) : State :=
      s.accept c k x fun s =>
        let b := s.readTile c swz pitch l
        (b.1, .copy, sectorsFrom (srcHeld b.2) out, bar)
    if toGlobal then
      match alignedTo 32 dst with
      | .error f => s.operandTrap c f
      | .ok _ =>
        let l := s.checkTile c k t co (tileRows x) (tileCols x)
        match l.2 with
        | .error f => l.1.operandTrap c f
        | .ok ps =>
          let g := l.1.globalSectors c.g.core c.g.asid k dst n .write
          match g.2 with
          | .error f => g.1.operandTrap c f
          | .ok m => go g.1 ps (dstMem m) none
    else
      match alignedTo 32 dst, s.bosObject c x, s.spadRange c dst n true with
      | .error f, _, _ => s.operandTrap c f
      | _, .error f, _ => s.operandTrap c f
      | _, _, .error f => s.operandTrap c f
      | .ok _, .ok bar, .ok w =>
        let l := s.checkTile c k t co (tileRows x) (tileCols x)
        match l.2 with
        | .error f => l.1.operandTrap c f
        | .ok ps => go l.1 ps (dstSpad w (n / 32)) bar

/-- CPYT to scratchpad. -/
def execCpyt (o : OpG) (x : XAsy) (s : State) : Res :=
  s.issue (.cpyt o x) fun c => s.withCtx c fun k => s.copyTile c k o x false

/-- CPYT to global memory. -/
def execCpytG (o : OpG) (x : XAsy) (s : State) : Res :=
  s.issue (.cpytG o x) fun c => s.withCtx c fun k => s.copyTile c k o x true

/-- Members of a group's gang. -/
def State.gangSize (s : State) (g : Group) : Nat := match tget s.gangs g.gang with
  | none => 1
  | some k => k.size

/-- CPYM (R358): one tile into a creel slot, for the receivers of a mask; a mask of zero moves nothing, and the instruction
completes at once. -/
def execCpym (o : OpG) (x : XAsy) (s : State) : Res :=
  s.issue (.cpym o x) fun c => s.withCtx c fun k => s.async c k x fun s =>
    let mask := (c.p.getS o.b.toNat).toNat
    let src := (c.p.getS2 o.a.toNat).toNat
    if 2 ^ s.gangSize c.g ≤ mask then s.takeTrap c.r 1 8 0 0 false
    else match alignedTo 32 src with
      | .error f => s.operandTrap c f
      | .ok _ =>
        if mask = 0 then s.onlyFences c k x else
        let n := 32 * x.len.toNat
        let g := s.globalSectors c.g.core c.g.asid k src n .read
        match g.2 with
        | .error f => g.1.operandTrap c f
        | .ok l => g.1.accept c k x fun s => (s, .cpym src n (srcMem l) (BitVec.ofNat 12 mask) none, [], none)

/-- CDRAIN (R359): the next tile of the gang for this member, into its own scratchpad. -/
def execCdrain (o : OpG) (x : XAsy) (s : State) : Res :=
  s.issue (.cdrain o x) fun c => s.withCtx c fun k => s.async c k x fun s =>
    let dst := (c.p.getS o.d.toNat).toNat
    match alignedTo 32 dst, s.bosObject c x, s.spadRange c dst 32 false with
    | .error f, _, _ => s.operandTrap c f
    | _, .error f, _ => s.operandTrap c f
    | _, _, .error f => s.operandTrap c f
    | .ok _, .ok bar, .ok _ => s.accept c k x fun s => (s, .cdrain dst false, [], bar)

/-- An append of 64 bytes of scratchpad to a queue (R360): its checks, then the claim of an index at the header's home
slice, which goes to the s pair D; the packet waits for room. -/
def State.queueAppend (s : State) (c : Cur) (k : Ctx) (o : OpG) (x : XAsy) (q : Nat) : State :=
  s.async c k x fun s =>
    match tget k.queues q with
    | none => s.takeTrap c.r 1 8 0 0 false
    | some hdr =>
      let t := s.translate c.g.core c.g.asid k hdr .rmw
      match t.2 with
      | .error f => t.1.takeTrap c.r f.cause f.detail hdr 0 false
      | .ok y =>
        let w := t.1.pageNat y 0x18 8
        let off := (c.p.getS o.a.toNat).toNat
        if ¬ bitOf w.2 8 ∨ bitOf w.2 15 then w.1.takeTrap c.r 1 8 0 0 false
        else match alignedTo 64 off, w.1.spadRange c off 64 true with
          | .error f, _ => w.1.operandTrap c f
          | _, .error f => w.1.operandTrap c f
          | .ok _, .ok p =>
            let ring := w.1.globalSectors c.g.core c.g.asid k hdr (64 + 64 * 2 ^ bitsOf w.2 0 5) .rmw
            match ring.2 with
            | .error f => ring.1.operandTrap c f
            | .ok _ => ring.1.accept c k x fun s =>
              let add : AtomReq := { op := 0, ty := 3, b := 1, c := 0 }
              let r := (s.writeBack c.g.core (y.pa / 128)).rmwHome c.g.core y.pa (¬ y.attr.uncached) y.attr.low add
              let s := r.s.land c.r.gid c.r.role c.p.clauseId (.s c.r.slot o.d.toNat (word r.old))
              let s := s.land c.r.gid c.r.role c.p.clauseId (.s c.r.slot (o.d.toNat + 1) (word (r.old / 2 ^ 32)))
              (s, .append hdr r.old (s.spadBytes p.1 p.2 64) ((List.range 64).filter fun i => s.spadPoisoned p.1 (p.2 + i) 1),
                [], none)

/-- QAPP. -/
def execQapp (o : OpG) (x : XAsy) (s : State) : Res :=
  s.issue (.qapp o x) fun c => s.withCtx c fun k => s.queueAppend c k o x (x.len.toNat % 64)

/-- LAUNCH (R197). -/
def execLaunch (o : OpG) (x : XAsy) (s : State) : Res :=
  s.issue (.launch o x) fun c => s.withCtx c fun k => s.queueAppend c k o x k.dlq

/-- SUCC (R195, R361): the group is marked. -/
def execSucc (s : State) : Res :=
  s.issue .succ fun c =>
    (if (c.workers s.guard).isEmpty then s else s.modGroup c.r.gid fun g => { g with succ := true }).advance c.r

/-- PREDW (R124, R361): on with an acquire at module scope once the predecessor object is in phase 1; asleep until then; a
barrier fault where the predecessor failed. -/
def execPredw (s : State) : Res :=
  s.issue .predw fun c =>
    if (c.workers s.guard).isEmpty then (s.acquire c.g.core 4).advance c.r
    else if c.g.predErr then s.takeTrap c.r 0x0C 3 0 0 false
    else if c.g.predPhase then (s.acquire c.g.core 4).advance c.r
    else s.modPath c.r fun p => { p with status := .asleepPred }

/-- ASYNC_COMPLETION (R354, Table 16-2). -/
def execAsyncCompletion (s : State) : Res :=
  match s.input with
  | .one id => .next (s.completeOp id)
  | _ => .next s

/-- COPY_SECTOR_LAND (R119, R356): a sector lands: its bytes are written, and then its landing is credited. -/
def execCopySectorLand (s : State) : Res :=
  match s.input with
  | .two id i => .next (s.copySector id i)
  | _ => .next s

/-- CREEL_SLOT_GRANT (R66, R358). -/
def execCreelSlotGrant (s : State) : Res :=
  match s.input with
  | .one id => .next (s.grantCreel id)
  | _ => .next s

/-- DRAIN_SLOT_READY (R359). -/
def execDrainSlotReady (s : State) : Res :=
  match s.input with
  | .one id => .next (s.takeTile id)
  | _ => .next s

/-- The bytes of a packet from an offset written to its slot by the copy unit of a core; poison travels (R353). -/
def State.packetPut (s : State) (core : Nat) (y : Xlat) (off : Nat) (bs : List Byte) (bad : List Nat) : State :=
  let s := s.pageWrite (.core core) y off bs
  let hit := bad.filter fun i => off ≤ i ∧ i < off + bs.length
  hit.foldl (fun s i => s.poisonMask ((y.pa + i) / 128) (1#128 <<< ((y.pa + i) % 128))) s

/-- The writes of an append that has room (R360): bytes 4 to 63 of the slot; a release at module scope or wider, with REL of the
path's accesses too, else of the packet alone; then word 0 with the phase of its lap. -/
def State.writePacket (s : State) (o : AsyncOp) (x : Ctx) (hdr log index : Nat) (packet : List Byte) (bad : List Nat) :
    State × Option (Flt × Nat) :=
  let va := hdr + 64 + 64 * (index % 2 ^ log)
  let t := s.unitXlat (dieOf o.core) o.asid x va .write
  match t.2 with
  | .error f => (t.1, some (f, va))
  | .ok y =>
    let s := t.1.packetPut o.core y 4 ((packet.drop 4).take 60) bad
    let s := if o.rel then s.release o.core (max 4 (s.opRank o)) else s.deliverIf fun e => e.line = y.pa / 128
    let w0 := natLE (packet.take 4)
    let ph := index / 2 ^ log % 2
    (s.packetPut o.core y 0 (bytesLE 4 (w0 - (if bitOf w0 8 then 256 else 0) + 256 * ph)) bad, none)

/-- QUEUE_APPEND_ROOM (R183, R360): a claimed append, of a copy unit or of a received frame, finds room and writes its packet; one whose page fails is abandoned and the
driver notified. -/
def execQueueAppendRoom (s : State) : Res :=
  match s.input with
  | .one id => .next <| match tget s.ops id with
    | none => s
    | some o => match o.kind, tget s.ctxs o.asid with
      | .append hdr index packet bad, some x =>
        if s.opWaits o then s else
        let die := dieOf o.core
        let abandon (s : State) (f : Flt) (va : Nat) : State :=
          (s.endOp id).notify 3 (256 * f.cause + f.detail) o.asid 0 va
        let r := s.unitNat die o.asid x (hdr + 8) 8
        let q := r.1.unitNat die o.asid x (hdr + 0x18) 8
        match r.2, q.2 with
        | .error f, _ => r.1.endOp id |>.notify 3 (256 * f.cause + f.detail) o.asid 0 (hdr + 8)
        | _, .error f => abandon q.1 f (hdr + 0x18)
        | .ok rd, .ok w =>
          let log := bitsOf w 0 5
          if 2 ^ log ≤ (index + 2 ^ 64 - rd) % 2 ^ 64 then q.1
          else
            let p := q.1.writePacket o x hdr log index packet bad
            match p.2 with
            | some (f, va) => abandon p.1 f va
            | none => p.1.endOp id
      | _, _ => s
  | .two sender src => .next (s.netRetry (4096 * sender + src))
  | _ => .next s

/-- Whether an operation of a group may be issued again: the group is resident, or it has ended and its gang is. -/
def State.mayReissue (s : State) (g : Group) : Bool :=
  g.place = .resident || (g.place = .ended && s.groups.any fun m => m.2.gang = g.gang && m.2.place = .resident)

/-- A cancelled CPYM or CDRAIN is issued again in full once its team goes on (Table 16-3, R387): its acquire, its translations
and a new place in the order of its core. Where its page no longer translates the spec gives no fault after acceptance: it ends,
and the driver is notified, as for an append that is abandoned (DESIGN CHOICE, log 65). -/
def State.issueAgain (s : State) (k : Cancelled) : State :=
  match tget s.groups k.path.gid with
  | none => s
  | some g => match tget g.teams k.path.role, tget s.ctxs g.asid with
    | some t, some x =>
      if ¬ s.mayReissue g ∨ t.trap.isSome ∨ 16 ≤ (s.ops.filter fun o => o.2.core = g.core).length then s else
      let r : State × Got OpKind := match k.kind with
        | .cpym va n _ mask _ =>
          let q := s.globalSectors g.core g.asid x va n .read
          (q.1, q.2.map fun l => .cpym va n (srcMem l) mask none)
        | e => (s, .ok e)
      let s : State := { r.1 with cancelled := r.1.cancelled.filter fun e => e.op ≠ k.op }
      match r.2 with
      | .error f => (s.opDone k.path.gid k.path.role k.op).notify 3 (256 * f.cause + f.detail) g.asid 0 f.addr
      | .ok kind =>
        let s := if k.acq then s.acquire g.core (scopeRank x g.core k.scope) else s
        let o : AsyncOp :=
          { asid := g.asid, core := g.core, path := k.path, clause := k.clause, kind := kind, seq := s.fresh, scope := k.scope
            acq := k.acq, rel := k.rel, sectors := [], bar := k.bar, credits := 0 }
        { s with fresh := s.fresh + 1, ops := tset s.ops k.op o }
    | _, _ => s

end Sys2Proof.Machine
end

