-- ==== Sys2Proof/Machine/Sweep.lean ====
section
/-! DEFINITION. The sweep sequencer (05 R130 to R134): sweeps, the frog list and its re-sweeps, free notices; and the
freeing of windows (09 R223). -/

namespace Sys2Proof.Machine

/-- The cores that a scope issued on a core covers, as a set (R131, R133). -/
def coverSet (x : Ctx) (core scope : Nat) : BitVec 4096 :=
  if scope ≤ 1 then maskBits 4096 core 1
  else if scope = 2 then maskBits 4096 (core / 16 * 16) 16
  else if scope = 3 then maskBits 4096 (core / 512 * 512) 512
  else if scope ≤ 5 then maskBits 4096 0 4096
  else (tget x.scopes scope).getD 0 ||| maskBits 4096 core 1

/-- Whether a sweep of a name finds a match (R130, R131): in the CAM of a covered core, or in the parked-marker table. -/
def State.sweepFinds (s : State) (asid : Nat) (x : Ctx) (name : BitVec 64) (scope core : Nat) : Bool :=
  (s.groups.any fun g => g.2.asid = asid && g.2.place = .resident && scopeCovers x core scope g.2.core &&
    g.2.teams.any fun t => t.2.markers.any fun m => m.2 = name) ||
  x.parked.any fun p => p.name = name

/-- The bytes of a frog list entry (Table 5-11). -/
def Frog.bytes (f : Frog) : List Byte :=
  bytesLE 16 (f.name.toNat + 2 ^ 64 * f.scope + (if f.meridian then 2 ^ 69 else 0) + 2 ^ 70 * f.core + 2 ^ 96 * f.etime.toNat)

/-- The bytes of a free notice (Table 5-12). -/
def Notice.bytes (n : Notice) : List Byte :=
  bytesLE 16 (n.name.toNat + 2 ^ 64 * n.scope + (if n.meridian then 2 ^ 69 else 0) + 2 ^ 96 * n.etime.toNat)

/-- A context's frog list replaced, in the context and in its memory; the list lies from FROGLIST upward in its order, the
entry after the last one is cleared (log 47). -/
def State.setFrogs (s : State) (asid : Nat) (fs : List Frog) : State :=
  match tget s.ctxs asid with
  | none => s
  | some x =>
    let old := x.frogs.length
    let s := s.modCtx asid fun x => { x with frogs := fs }
    s.put asid x.froglist (fs.flatMap Frog.bytes ++ List.replicate (16 * (old - fs.length)) 0)

/-- ETIME bits 43:12. -/
def State.etimeField (s : State) : BitVec 32 := BitVec.ofNat 32 (s.etime / 4096)

/-- The frog list after a FROG of a listed name (R133): its entry's scope covers both. -/
def mergeFrog (x : Ctx) (scope core : Nat) (gid : Option Nat) (f : Frog) : Frog :=
  let new := coverSet x core scope
  let old := coverSet x f.core f.scope
  if new &&& old = old then { f with scope := scope, core := core, gid := gid }
  else if new &&& old ≠ new then { f with scope := 4 }
  else f

/-- The result of a FROG and the context's list after it (R133): 1 for a name that is listed; 2 for any other while 4,096 names
are listed (R135); else 0 without a match, and 1 with one. -/
def State.frogResult (s : State) (asid : Nat) (x : Ctx) (w : Sweep) (found : Bool) : State × Nat :=
  let gid : Option Nat := match w.who with
    | .frog r _ _ _ => some r.gid
    | _ => none
  let meridian : Bool := match w.who with
    | .window _ _ => true
    | _ => false
  let core := if meridian then 0 else w.core
  if x.frogs.any (fun f => f.name = w.name) then
    (s.setFrogs asid (x.frogs.map fun f => if f.name = w.name then mergeFrog x w.scope core gid f else f), 1)
  else if 4096 ≤ x.frogs.length then (s, 2)
  else if ¬ found then (s, 0)
  else
    let f : Frog := { etime := s.etimeField, core := core, meridian := meridian, scope := w.scope, name := w.name, gid := gid }
    (s.setFrogs asid (x.frogs ++ [f]), 1)

/-- A window's slot is free (R223); the output source closes once every window of a finished stage is free (R222). -/
def State.freeSlot (s : State) (asid b slot : Nat) (buffer : Bool) : State :=
  let s := s.modBinding asid b fun k => match tget k.windows slot with
    | none => k
    | some w => { k with
      windows := tdel k.windows slot
      bufs := if buffer then k.bufs.filter (· ≠ w.buf) else k.bufs }
  s.outAdvance asid b

/-- What the meridian unit does with the result of its FROG (R223). -/
def State.windowSwept (s : State) (asid b slot res : Nat) : State :=
  let asked : Bool := match s.binding asid b with
    | none => false
    | some (_, k) => match tget k.windows slot with
      | none => false
      | some w => w.freeing = .asked
  if ¬ asked then s
  else if res = 2 then s.modBinding asid b fun k => { k with
    windows := tmod k.windows slot fun w => { w with freeing := .refused } }
  else s.freeSlot asid b slot (res = 0)

/-- The frog interval of a context in ticks (Table 8-1). -/
def Ctx.frogIv (x : Ctx) : Nat := if x.frogint = 0 then Config.frogTicks else x.frogint * Config.scanTicks

/-- FROG_INTERVAL (R133): ETIME has reached a multiple of the frog interval; a pass is due, and the frees that drew result 2
are tried again (R223). -/
def execFrogInterval (s : State) : Res :=
  match s.input with
  | .one asid => .next <| match tget s.ctxs asid with
    | none => s
    | some x =>
      let now := s.etime / x.frogIv
      if now ≤ x.frogDone then s else
      let again (b : Binding) : Binding := { b with windows := tmap b.windows fun _ w =>
        { w with freeing := if w.freeing = .refused then .no else w.freeing } }
      s.modCtx asid fun x => { x with
        frogDone := now
        resweep := true
        bindings := tmap x.bindings fun _ b => again b }
  | _ => .next s

/-- A buffer whose free notice has entered the ring returns to its pool (R223). -/
def State.returnBuffer (s : State) (asid : Nat) (name : Nat) : State :=
  let drop (b : Binding) : Binding := { b with
    bufs := b.bufs.filter fun u => ¬ (b.bufVA u = name && ¬ b.windows.any fun w => w.2.buf = u) }
  s.modCtx asid fun x => { x with bindings := tmap x.bindings fun _ b => drop b }

/-- One listed name swept again (R133): without a match it leaves the list, and its notice enters the ring while that has
room. -/
def State.resweepName (s : State) (asid : Nat) (f : Frog) : State :=
  match tget s.ctxs asid with
  | none => s
  | some x =>
    if s.sweepFinds asid x f.name f.scope f.core ∨ 4096 ≤ x.notices.length then s else
    let s := s.setFrogs asid (x.frogs.filter fun g => g.name ≠ f.name)
    let n : Notice := { etime := s.etimeField, meridian := f.meridian, scope := f.scope, name := f.name }
    let s := s.modCtx asid fun x => { x with notices := x.notices ++ [n], noticeN := x.noticeN + 1 }
    (s.put asid (x.notice + 16 * (x.noticeN % 4096)) n.bytes).returnBuffer asid f.name.toNat

/-- RESWEEP_PASS (R133): a pass that is due enters the sequencer once the one before it is done: a sweep of each listed name, in
list order. -/
def execResweepPass (s : State) : Res :=
  match s.input with
  | .one asid => .next <| match tget s.ctxs asid with
    | none => s
    | some x =>
      if ¬ x.resweep ∨ x.sweeps.any (fun w => w.who = .pass) then s else
      let pass : List Sweep := x.frogs.map fun f => { name := f.name, scope := f.scope, core := f.core, who := .pass, op := 0 }
      s.modCtx asid fun x => { x with resweep := false, sweeps := x.sweeps ++ pass }
  | _ => .next s

/-- The core against which a sweep resolves its scope (R131): the one on which the group of a FROG now runs. -/
def State.sweepCore (s : State) (w : Sweep) : Nat :=
  match w.who with
  | .frog p _ _ _ => match tget s.groups p.gid with
    | none => w.core
    | some g => g.core
  | _ => w.core

/-- SWEEP (R131): the sequencer performs the sweep at its head. A FROG's result goes to its register, and its sweep is an acquire
at its scope towards the clears that it reads (R92); the meridian unit acts on its own result; a re-sweep frees a listed name at
the entry's scope. -/
def execSweep (s : State) : Res :=
  match s.input with
  | .one asid => .next <| match tget s.ctxs asid with
    | none => s
    | some x => match x.sweeps with
      | [] => s
      | w :: rest =>
        let s := s.modCtx asid fun x => { x with sweeps := rest }
        let w : Sweep := { w with core := s.sweepCore w }
        let found := s.sweepFinds asid x w.name w.scope w.core
        match w.who with
        | .frog p clause d lanes =>
          let r := s.frogResult asid x w found
          let s := r.1.landV p clause d ((bitList lanes 1024).map fun l => (l, word r.2))
          (s.acquire w.core (scopeRank x w.core w.scope)).opDone p.gid p.role w.op
        | .window b slot =>
          let r := s.frogResult asid x w found
          r.1.windowSwept asid b slot r.2
        | .pass => match x.frogs.find? fun f => f.name = w.name with
          | none => s
          | some f => s.resweepName asid f
  | _ => .next s

/-- Whether a window may be freed (R223): STAGEWM has reached its lateness bound, no grid of it runs, and it has no record
that a fire grid or an amendment has still to see. -/
def Binding.frees (k : Binding) (w : Window) : Bool :=
  decide (k.winEnd w.k + k.lateness ≤ k.stagewm) && w.running.isNone && w.freeing = .no && w.n = w.count

/-- WINDOW_FREE (R223): the meridian unit's FROG of the window's buffer, at module scope: its release (R92), and its sweep enters
the sequencer. -/
def execWindowFree (s : State) : Res :=
  match s.input with
  | .three asid b slot => .next <| match s.binding asid b with
    | none => s
    | some (_, k) => match tget k.windows slot with
      | none => s
      | some w =>
        if ¬ k.en ∨ ¬ s.alive asid ∨ ¬ k.frees w then s else
        let s := s.deliverInv.modBinding asid b fun k => { k with
          windows := tmod k.windows slot fun w => { w with freeing := .asked } }
        let q : Sweep :=
          { name := BitVec.ofNat 64 (k.bufVA w.buf), scope := 4, core := 0, who := .window b slot, op := 0 }
        s.modCtx asid fun x => { x with sweeps := x.sweeps ++ [q] }
  | _ => .next s

end Sys2Proof.Machine
end

