-- ==== Sys2Proof/Machine/Queue.lean ====
section
/-! DEFINITION. Queue engines (08 R181 to R191, R200) and the completion of grids (R191, R219): polling, the packets of each
kind, their completion. -/

namespace Sys2Proof.Machine

/-- The head of a queue as its engine finds it: the context, header address, engine's die, configuration word, read index,
the 64 bytes of the packet there. -/
structure Head where
  x      : Ctx
  hdr    : Nat
  die    : Nat
  conf   : Nat
  rd     : Nat
  packet : List Byte
  deriving DecidableEq, Repr

/-- The header address of a queue; index 64 is the transport ring. -/
def Ctx.header (x : Ctx) (q : Nat) : Option Nat := if q = 64 then x.ring else tget x.queues q

/-- LOG2SZ of a configuration word. -/
def confLog (conf : Nat) : Nat := bitsOf conf 0 5

/-- The fault of a queue header (R181), the lowest code first: a reserved field, then LOG2SZ and, but for a transport ring,
KIND. -/
def headerError (ring : Bool) (conf rest : Nat) : Option Nat :=
  if bitsOf conf 24 40 ≠ 0 ∨ bitsOf conf 10 5 ≠ 0 ∨ rest ≠ 0 then some 2
  else if confLog conf < 6 ∨ 16 < confLog conf ∨ (¬ ring ∧ 2 ≤ bitsOf conf 5 3) then some 3
  else none

/-- The engine of a queue. -/
def State.engine (s : State) (q : QRef) : Engine :=
  (tget s.engines (256 * q.asid + q.q)).getD Engine.new

/-- The state with a queue's engine changed. -/
def State.modEngine (s : State) (q : QRef) (f : Engine → Engine) : State :=
  { s with engines := tset s.engines (256 * q.asid + q.q) (f (s.engine q)) }

/-- The header of a queue read by its engine (R181): its address, die, configuration word, the reserved bytes after it, and
RDIDX; none for a queue that is not in use or cannot be read. -/
def State.readHeader (s : State) (q : QRef) : State × Option (Head × Nat) :=
  match tget s.ctxs q.asid with
  | none => (s, none)
  | some x => match x.header q.q with
    | none => (s, none)
    | some hdr =>
      if x.kill ≠ .live then (s, none) else
      let die := s.homeOf q.asid x hdr
      let r := s.unitRead die q.asid x hdr 64
      match r.2 with
      | .error _ => (r.1, none)
      | .ok bs =>
        let n := natLE bs
        let h : Head := { x := x, hdr := hdr, die := die, conf := bitsOf n 192 64, rd := bitsOf n 64 64, packet := [] }
        (r.1, some (h, bitsOf n 320 192))

/-- The packet at the head of a queue that its engine may consume (R182, R184): the queue is enabled and shows no error, WRIDX
is above RDIDX, and the slot has the phase of its lap. -/
def State.headOf (s : State) (q : QRef) : State × Option Head :=
  let r := s.readHeader q
  match r.2 with
  | none => (r.1, none)
  | some (h, rest) =>
    if ¬ bitOf h.conf 8 ∨ bitOf h.conf 15 ∨ (headerError (q.q = 64) h.conf rest).isSome then (r.1, none)
    else
      let log := confLog h.conf
      let w := r.1.unitNat h.die q.asid h.x h.hdr 8
      let p := w.1.unitRead h.die q.asid h.x (h.hdr + 64 + 64 * (h.rd % 2 ^ log)) 64
      match w.2, p.2 with
      | .ok wr, .ok bs =>
        if h.rd < wr ∧ bitOf (natLE bs) 8 = bitOf (h.rd / 2 ^ log) 0 then (p.1, some { h with packet := bs })
        else (p.1, none)
      | _, _ => (p.1, none)

/-- A queue stops (R187): ERR, ERRCODE and ERRIDX are set in its header and the driver is notified. Nothing is consumed. The copy
of ERRIDX that the notification leads to holds the fault code of an error 0x05 in its bits 63:56 (R188, log 45). -/
def State.stopQueue (s : State) (q : QRef) (h : Head) (e : QErr) : State :=
  let conf := bitsOf h.conf 0 15 + 2 ^ 15 + 2 ^ 16 * e.code + h.conf / 2 ^ 24 * 2 ^ 24
  let s := (s.unitWrite h.die q.asid h.x (h.hdr + 0x18) (bytesLE 8 conf)).1
  let s := (s.unitWrite h.die q.asid h.x (h.hdr + 0x20) (bytesLE 8 h.rd)).1
  let s := s.modEngine q fun k => { k with errCopy := BitVec.ofNat 64 (2 ^ 56 * e.fault + h.rd % 2 ^ 56) }
  s.notify 1 (256 * e.fault + e.code) q.asid 0 h.hdr

/-- A packet that passed its checks is consumed (R184): RDIDX rises with a release at system scope, and the engine has started
it. -/
def State.consume (s : State) (q : QRef) (h : Head) (p : Packet) : State :=
  let s := (s.deliverInv.unitWrite h.die q.asid h.x (h.hdr + 8) (bytesLE 8 (h.rd + 1))).1
  s.modEngine q fun e => { e with packets := e.packets ++ [p], prev := p.grid }

/-- Whether the packet consumed last on a queue has started a grid that its trap handler has terminated (R124, R379). -/
def State.prevKilled (s : State) (q : QRef) : Bool :=
  match (s.engine q).prev with
  | none => false
  | some a => match tget s.grids a with
    | none => false
    | some d => d.killed

/-- The packet of a head, just started. -/
def Head.start (h : Head) (t : Nat) : Packet :=
  { index := h.rd, kind := natLE h.packet % 256, bytes := h.packet, grid := none, left := 0, since := t, done := false }

/-- Whether packets of a queue run concurrently (R181, R190). -/
def confConc (conf : Nat) : Bool := bitOf conf 9 || bitsOf conf 5 3 = 1

/-- Whether every group of a grid has been dispatched and marked (R196). -/
def State.allMarked (s : State) (grid : Nat) (d : Grid) : Bool :=
  d.lr.size ≤ d.next && (s.groups.filter fun g => g.2.grid = grid).all fun g => g.2.succ

/-- The grid behind which a LAUNCH with SUCC may start early (R196): that of the packet before it, every group of which has
been dispatched and marked. -/
def State.earlyAfter (s : State) (e : Engine) : Option Nat :=
  match e.packets.getLast? with
  | none => none
  | some p => match p.grid with
    | none => none
    | some a => match tget s.grids a with
      | none => none
      | some d => if ¬ d.done && s.allMarked a d then some a else none

/-- Whether the next packet of a queue may start (R190), and the grid behind which it starts early. -/
def State.mayStart (s : State) (q : QRef) (conf : Nat) (succ : Bool) : Option (Option Nat) :=
  let e := s.engine q
  if e.packets.any (fun p => p.kind = 4 && ¬ p.done) then none
  else if confConc conf then
    match e.packets.getLast? with
    | none => some none
    | some p => match p.grid with
      | none => some none
      | some a => match tget s.grids a with
        | none => some none
        | some d => if d.done || d.lr.size ≤ d.next then some none else none
  else if e.packets.isEmpty then some none
  else if succ then (s.earlyAfter e).map some
  else none

/-- A packet of a kind that may start now: its head, and the grid behind which it starts early. Whether a packet is checked and
consumed before R190 lets it start the spec does not say: here only then (DESIGN CHOICE, log 87). -/
def State.nextPacket (s : State) (q : QRef) (kind : Nat) : State × Option (Head × Option Nat) :=
  let r := s.headOf q
  match r.2 with
  | none => (r.1, none)
  | some h =>
    let n := natLE h.packet
    if n % 256 ≠ kind ∨ q.q = 64 then (r.1, none)
    else (r.1, (r.1.mayStart q h.conf (kind = 1 && bitOf n 9)).map fun e => (h, e))

/-- QUEUE_POLL (R181, R182, R185): the engine reads an enabled queue's header; a faulty header stops the queue, and so does
a packet kind that is none, once the packet may start. -/
def execQueuePoll (s : State) : Res :=
  match s.input with
  | .queue q => .next <|
    let r := s.readHeader q
    match r.2 with
    | none => r.1
    | some (h, rest) =>
      let s := r.1.modEngine q fun e => { e with polled := r.1.etime }
      if ¬ bitOf h.conf 8 ∨ bitOf h.conf 15 then s
      else match headerError (q.q = 64) h.conf rest with
        | some code => s.stopQueue q h { code := code, fault := 0 }
        | none =>
          if q.q = 64 then s else
          let p := s.headOf q
          match p.2 with
          | none => p.1
          | some h =>
            let kind := natLE h.packet % 256
            let known : Bool := kind = 1 || kind = 2 || kind = 3 || kind = 4 || kind = 6 || kind = 7
            if known || (p.1.mayStart q h.conf false).isNone then p.1
            else p.1.stopQueue q h { code := 1, fault := 0 }
  | _ => .next s

/-- PACKET_LAUNCH (R186, R187): the record is checked; a grid starts, or the queue stops. -/
def execPacketLaunch (s : State) : Res :=
  match s.input with
  | .queue q => .next <|
    let r := s.nextPacket q 1
    match r.2 with
    | none => r.1
    | some (h, early) =>
      let n := natLE h.packet
      let c := r.1.checkRecord h.die q.asid h.x n
      match c.2 with
      | some e => c.1.stopQueue q h e
      | none =>
        let gid := c.1.fresh
        (c.1.startGrid q.asid (LaunchRec.ofNat n) (.packet q h.rd) early (c.1.prevKilled q)).consume q h
          { h.start c.1.etime with grid := some gid }
  | _ => .next s

/-- The first failure among page checks. -/
def State.checkPages (s : State) (h : Head) (asid : Nat) : List (Nat × Nat × Access) → State × Option QErr
  | [] => (s, none)
  | (va, n, acc) :: l =>
    let r := s.unitCheck h.die asid h.x va n acc
    match r.2 with
    | some f => (r.1, some { code := 5, fault := f.cause })
    | none => r.1.checkPages h asid l

/-- A packet's field error, then the pages it names (R189). -/
def State.checkPacket (s : State) (h : Head) (asid : Nat) (fields : Option Nat) (pages : List (Nat × Nat × Access)) :
    State × Option QErr :=
  match fields with
  | some e => (s, some { code := e, fault := 0 })
  | none => s.checkPages h asid pages

/-- The access of a completion write, where a packet names one. -/
def completionPage (va : Nat) : List (Nat × Nat × Access) := if va = 0 then [] else [(va, 8, .write)]

/-- A number of a packet, by byte offset and bytes. -/
def field (n off k : Nat) : Nat := bitsOf n (8 * off) (8 * k)

/-- PACKET_COPY (R189, Table 8-6): checked in full and handed to a bulk engine, which moves it. -/
def execPacketCopy (s : State) : Res :=
  match s.input with
  | .queue q => .next <|
    let r := s.nextPacket q 2
    match r.2 with
    | none => r.1
    | some (h, _) =>
      let n := natLE h.packet
      let fields : Option Nat :=
        if bitsOf n 16 48 ≠ 0 ∨ field n 0x30 16 ≠ 0 then some 2
        else if 2 ^ 40 < field n 0x18 8 then some 6
        else none
      let len := field n 0x18 8
      let c := r.1.checkPacket h q.asid fields
        ([(field n 8 8, len, .read), (field n 0x10 8, len, .write)] ++ completionPage (field n 0x20 8))
      match c.2 with
      | some e => c.1.stopQueue q h e
      | none => c.1.consume q h (h.start c.1.etime)
  | _ => .next s

/-- A failed access of a started packet (R189): it is not performed, and the driver is told the address. -/
def State.missed (s : State) (asid : Nat) (f : Flt) (va : Nat) : State := s.notify 3 (256 * f.cause + f.detail) asid 0 va

/-- A 64-bit number written or added at its home slice by an engine, with a release at system scope (R189); an addition to host
memory is a PCIe AtomicOp (R35). -/
def State.signal (s : State) (h : Head) (asid va val : Nat) (add : Bool) : State :=
  let t := s.deliverInv.unitXlat h.die asid h.x va (if add then .rmw else .write)
  match t.2 with
  | .error f => t.1.missed asid f va
  | .ok y =>
    if add ∧ isHostMem y.pa then { t.1 with
      fresh := t.1.fresh + 1, signals := t.1.signals ++ [t.1.fresh]
      out := t.1.out ++ [.hostAtomic t.1.fresh y.pa .add true (BitVec.ofNat 64 val) 0] }
    else
      let old := if add then t.1.pageNat y 0 8 else (t.1, 0)
      old.1.pageWrite (.die h.die) y 0 (bytesLE 8 (old.2 + val))

/-- PACKET_SIGNAL (R189): a store or an ADD at the home slice, at system scope. -/
def execPacketSignal (s : State) : Res :=
  match s.input with
  | .queue q => .next <|
    let r := s.nextPacket q 3
    match r.2 with
    | none => r.1
    | some (h, _) =>
      let n := natLE h.packet
      let va := field n 8 8
      let fields : Option Nat :=
        if bitsOf n 10 54 ≠ 0 ∨ field n 0x18 40 ≠ 0 then some 2 else if va % 8 ≠ 0 then some 3 else none
      let c := r.1.checkPacket h q.asid fields [(va, 8, if bitOf n 9 then .rmw else .write)]
      match c.2 with
      | some e => c.1.stopQueue q h e
      | none => (c.1.consume q h { h.start c.1.etime with done := true }).signal h q.asid va (field n 0x10 8) (bitOf n 9)
  | _ => .next s

/-- A WAITSEQ reads its word (R189): it is done once the word has reached the value, or when the read fails. -/
def State.waitRead (s : State) (h : Head) (q : QRef) (index va val : Nat) : State :=
  let mark (s : State) : State := s.modEngine q fun e => { e with
    packets := e.packets.map fun p => if p.index = index then { p with done := true } else p }
  let r := s.unitNat h.die q.asid h.x va 8
  match r.2 with
  | .error f => mark (r.1.missed q.asid f va)
  | .ok w => if val ≤ w then mark r.1 else r.1

/-- PACKET_WAITSEQ (R189): it holds its queue until a word reaches a value. -/
def execPacketWaitseq (s : State) : Res :=
  match s.input with
  | .queue q => .next <|
    let r := s.nextPacket q 4
    match r.2 with
    | none => r.1
    | some (h, _) =>
      let n := natLE h.packet
      let va := field n 8 8
      let fields : Option Nat :=
        if bitsOf n 9 55 ≠ 0 ∨ field n 0x18 40 ≠ 0 then some 2 else if va % 8 ≠ 0 then some 3 else none
      let c := r.1.checkPacket h q.asid fields [(va, 8, .read)]
      match c.2 with
      | some e => c.1.stopQueue q h e
      | none => (c.1.consume q h (h.start c.1.etime)).waitRead h q h.rd va (field n 0x10 8)
  | _ => .next s

/-- WAITSEQ_POLL (R189): a started WAITSEQ reads its word again, every 1,024 ticks after its start. -/
def execWaitseqPoll (s : State) : Res :=
  match s.input with
  | .queue q => .next <|
    let r := s.readHeader q
    match r.2 with
    | none => r.1
    | some (h, _) => match (r.1.engine q).packets.find? fun p => p.kind = 4 && ¬ p.done with
      | none => r.1
      | some p =>
        if r.1.etime < p.since + 1024 then r.1 else
        let n := natLE p.bytes
        let later (k : Packet) : Packet :=
          if k.index = p.index then { k with since := p.since + (r.1.etime - p.since) / 1024 * 1024 } else k
        (r.1.modEngine q fun e => { e with packets := e.packets.map later }).waitRead h q p.index (field n 8 8)
          (field n 0x10 8)
  | _ => .next s

/-- PACKET_WMADV (R189): a source advanced at system scope. -/
def execPacketWmadv (s : State) : Res :=
  match s.input with
  | .queue q => .next <|
    let r := s.nextPacket q 6
    match r.2 with
    | none => r.1
    | some (h, _) =>
      let n := natLE h.packet
      let src := field n 4 1
      let fields : Option Nat :=
        if bitsOf n 9 23 ≠ 0 ∨ field n 5 3 ≠ 0 ∨ field n 0x10 48 ≠ 0 then some 2
        else if ¬ h.x.hasSource src then some 3 else none
      match fields with
      | some e => r.1.stopQueue q h { code := e, fault := 0 }
      | none => (r.1.consume q h { h.start r.1.etime with done := true }).deliverInv.wmadv q.asid src (i64 (field n 8 8))
  | _ => .next s

/-- The first record of a RECORDS packet whose PLEN its source's slot does not hold makes error 0x03 (R189). -/
def State.checkPlens (s : State) (h : Head) (asid : Nat) (k : Source) (va count : Nat) : State × Option QErr :=
  (List.range count).foldl (fun e i => match e.2 with
    | some _ => e
    | none =>
      let r := e.1.unitNat h.die asid h.x (va + i * 2 ^ k.slotLog + 12) 2
      match r.2 with
      | .error f => (r.1, some { code := 5, fault := f.cause })
      | .ok n => (r.1, if k.limit < n then some { code := 3, fault := 0 } else none)) (s, none)

/-- Whether bytes that a unit reads are poisoned at their homes (R68). -/
def State.unitPoison (s : State) (die asid : Nat) (x : Ctx) (va n : Nat) : Bool :=
  ¬ s.poison.isEmpty && (pieces va n).any fun p => match (s.unitXlat die asid x p.1 .read).2 with
    | .ok y => s.poisonedHome y.pa p.2
    | .error _ => false

/-- The next record of a started RECORDS packet is appended, with its poison; where the source has no room for it the packet waits (R189). -/
def State.nextRecord (s : State) (h : Head) (q : QRef) (p : Packet) : State :=
  let n := natLE p.bytes
  let src := field n 4 1
  match s.source q.asid src with
  | none => s
  | some (_, k) =>
    let va := field n 8 8 + (field n 5 3 - p.left) * 2 ^ k.slotLog
    let step (k : Packet) : Packet :=
      if k.index = p.index then { k with left := p.left - 1, done := p.left ≤ 1 } else k
    let go (s : State) : State := s.modEngine q fun e => { e with packets := e.packets.map step }
    let r := s.unitRead h.die q.asid h.x va (2 ^ k.slotLog)
    match r.2 with
    | .error f => go (r.1.missed q.asid f va)
    | .ok bs =>
      let w := natLE (bs.take 16)
      let plen := min (bitsOf w 96 16) k.limit
      let head := w % 2 ^ 112 + 2 ^ 114 * bitsOf w 114 6
      let poison := r.1.unitPoison h.die q.asid h.x va (2 ^ k.slotLog)
      let e : NewRec := { head := head, payload := (bs.drop 16).take plen, poison := poison }
      let a := r.1.deliverInv.append q.asid src e true
      if a.2 then go a.1 else a.1

/-- The packet that a queue's bulk engine carries (R200): engine q mod 4 of the header's home die carries one COPY or RECORDS
packet of the queue at a time, the one that started first. -/
def Engine.carries (e : Engine) : Option Packet := e.packets.find? fun p => (p.kind = 2 || p.kind = 7) && ¬ p.done

/-- A RECORDS packet checked and started (R189). -/
def State.startRecords (s : State) (q : QRef) : State :=
  let r := s.nextPacket q 7
  match r.2 with
  | none => r.1
  | some (h, _) =>
    let n := natLE h.packet
    let src := field n 4 1
    let count := field n 5 3
    let fields : Option Nat :=
      if bitsOf n 9 23 ≠ 0 ∨ field n 0x10 48 ≠ 0 then some 2
      else if count = 0 ∨ ¬ h.x.hasSource src then some 3 else none
    match fields, tget h.x.sources src with
    | some e, _ => r.1.stopQueue q h { code := e, fault := 0 }
    | none, none => r.1.stopQueue q h { code := 3, fault := 0 }
    | none, some k =>
      let c := r.1.checkPages h q.asid [(field n 8 8, count * 2 ^ k.slotLog, .read)]
      match c.2 with
      | some e => c.1.stopQueue q h e
      | none =>
        let d := c.1.checkPlens h q.asid k (field n 8 8) count
        match d.2 with
        | some e => d.1.stopQueue q h e
        | none => d.1.consume q h { h.start d.1.etime with left := count }

/-- PACKET_RECORDS (R189, R200): the engine that carries a RECORDS packet appends its next record, as a RAPP at system scope; else
the next RECORDS packet is checked and started. -/
def execPacketRecords (s : State) : Res :=
  match s.input with
  | .queue q => .next <| match (s.engine q).carries with
    | some p => if p.kind = 7 then
        let r := s.readHeader q
        match r.2 with
        | none => r.1
        | some (h, _) => r.1.nextRecord h q p
      else s.startRecords q
    | none => s.startRecords q
  | .packet q _ => .next (s.startRecords q)
  | _ => .next s

/-- The parts of a copy within one page of its source and one of its destination: offset and length. -/
def copyParts (src dst n : Nat) : List (Nat × Nat) :=
  (pieces src n).flatMap fun p => (pieces (dst + (p.1 - src)) p.2).map fun d => (d.1 - dst, d.2)

/-- A range copied by a bulk engine at home slices, poison with it (R68, R200); a part whose page fails is not copied. -/
def State.bulkCopy (s : State) (h : Head) (asid src dst n : Nat) : State :=
  (copyParts src dst n).foldl (fun s p =>
    let a := s.unitXlat h.die asid h.x (src + p.1) .read
    match a.2 with
    | .error f => a.1.missed asid f (src + p.1)
    | .ok y =>
      let b := a.1.unitXlat h.die asid h.x (dst + p.1) .write
      match b.2 with
      | .error f => b.1.missed asid f (dst + p.1)
      | .ok z =>
        let r := b.1.pageRead y 0 p.2
        let bad := (List.range p.2).filter fun i => r.1.poison.contains (y.pa + i)
        let s := r.1.pageWrite (.die h.die) z 0 r.2
        if isDeviceMem z.pa then { s with poison := s.poison ++ bad.map fun i => z.pa + i } else s) s

/-- A completion value written at its address by an engine, with a release at system scope (R191). -/
def State.writeCompletion (s : State) (die asid : Nat) (x : Ctx) (va val : Nat) : State :=
  if va = 0 then s else
  let w := s.deliverInv.unitWrite die asid x va (bytesLE 8 val)
  match w.2 with
  | some f => w.1.missed asid f va
  | none => w.1

/-- Whether a packet is complete: a RECORDS packet once every binding has binned its records (R210, DEDUCED from R411, log 85). -/
def State.packetOver (s : State) (asid : Nat) (p : Packet) : Bool :=
  p.done && (p.kind ≠ 7 || match tget s.ctxs asid with
    | none => true
    | some x => (x.waiting (field (natLE p.bytes) 4 1)).isEmpty)

/-- The completed packets at the front of a queue. -/
def State.donePrefix (s : State) (q : QRef) : List Packet := (s.engine q).packets.takeWhile (s.packetOver q.asid)

/-- The release that REL asks of a COPY at its SCOPE (R88, R189), resolved against the first core of the engine's die (log 76).
ACQ asks for nothing more: a bulk engine reads at home slices, which hold every write that has been performed. -/
def State.copyRelease (s : State) (h : Head) (n : Nat) : State :=
  if bitOf n 10 ∧ 4 ≤ scopeRank h.x (512 * h.die) (bitsOf n 11 5) then s.deliverInv else s

/-- PACKET_COMPLETION (R191): the COPY that its engine carries is moved, released where REL says so, and its completion value
written; CSEQ rises over the packets that have completed without a gap, after what was written before is visible. -/
def execPacketCompletion (s : State) : Res :=
  match s.input with
  | .packet q i => .next <| match (s.engine q).packets.find? fun p => p.index = i with
    | none => s
    | some p =>
      let r := s.readHeader q
      match r.2 with
      | none => r.1
      | some (h, _) =>
        let n := natLE p.bytes
        let s := if p.kind = 2 ∧ ¬ p.done ∧ (r.1.engine q).carries = some p then
            let s := (r.1.bulkCopy h q.asid (field n 8 8) (field n 0x10 8) (field n 0x18 8)).copyRelease h n
            let s := s.writeCompletion h.die q.asid h.x (field n 0x20 8) (field n 0x28 8)
            s.modEngine q fun e => { e with packets := e.packets.map fun k => if k.index = i then { k with done := true } else k }
          else r.1
        match (s.donePrefix q).getLast? with
        | none => s
        | some l =>
          let gone := s.packetOver q.asid
          let s := s.modEngine q fun e => { e with packets := e.packets.dropWhile gone }
          let w := s.deliverInv.unitWrite h.die q.asid h.x (h.hdr + 0x10) (bytesLE 8 (l.index + 1))
          match w.2 with
          | some f => w.1.missed q.asid f (h.hdr + 0x10)
          | none => w.1
  | _ => .next s

/-- Whether frames that paths of a grid have sent are not all acknowledged (R397): a release at system scope of what the grid has
done waits for them (Table 2-2). -/
def State.gridOwes (s : State) (grid asid : Nat) : Bool :=
  match tget s.ctxs asid with
  | none => false
  | some x =>
    let ours (r : Ref) : Bool := match tget s.groups r.gid with
      | none => false
      | some g => g.grid = grid
    ((x.channels.flatMap fun c => c.2.sent.filterMap Sent.path) ++ x.ringBy.map Prod.snd).any fun r =>
      ours r && s.owesFrames asid r

/-- Whether a grid may complete (R89, R191): every group dispatched and ended, no operation of it left, no frame of it
unacknowledged. -/
def State.gridOver (s : State) (grid : Nat) (d : Grid) : Bool :=
  let mine := s.groups.filter fun g => g.2.grid = grid
  ¬ d.done && d.lr.size ≤ d.next && d.lr.size ≤ d.endedN && (mine.all fun g => g.2.place = .ended) &&
    (¬ s.ops.any fun o => mine.any fun g => g.1 = o.2.path.gid) && (¬ s.issues.any fun e => mine.any fun g => g.1 = e.path.gid) &&
    ¬ s.gridOwes grid d.asid

/-- A window grid has completed (R219, R220): its window goes on, unless a reload has dropped it meanwhile; the unit publishes the
header that the grid did not, with a release at module scope. -/
def State.windowDone (s : State) (grid : Nat) (d : Grid) (x : Ctx) (b slot : Nat) : State :=
  let die : Nat := match s.binding d.asid b with
    | none => 0
    | some (_, k) => k.die
  let s := if d.published then s
    else ((s.deliverInv.unitWrite die d.asid x d.res d.head).1).notePublished grid d.asid b slot
  s.modBinding d.asid b fun k => { k with windows := tmod k.windows slot fun w => { w with
    running := if w.running = some grid then none else w.running } }

/-- GRID_COMPLETION (R191, R89): the grid's writes are released at system scope, its completion value is written, its packet
counts as complete, its window goes on. -/
def execGridCompletion (s : State) : Res :=
  match s.input with
  | .one n => .next <| match tget s.grids n with
    | none => s
    | some d => match tget s.ctxs d.asid with
      | none => s
      | some x =>
        if ¬ s.gridOver n d ∨ x.kill ≠ .live then s else
        let cores := ((s.groups.filter fun g => g.2.grid = n).map fun g => g.2.core).dedup
        let s := (cores.foldl (fun s c => s.release c 5) s).deliverInv
        let s := s.modGrid n fun d => { d with done := true }
        let s := s.writeCompletion 0 d.asid x d.lr.caddr d.lr.cval.toNat
        let mark (p : Packet) : Packet := if p.grid = some n then { p with done := true } else p
        let s := { s with engines := tmap s.engines fun _ e => { e with packets := e.packets.map mark } }
        match d.origin with
        | .packet _ _ => s
        | .window b slot _ => s.windowDone n d x b slot
  | _ => .next s

end Sys2Proof.Machine
end

