-- ==== Sys2Proof/Machine/Preempt.lean ====
section
/-! DEFINITION. Pre-emption and resumption (17 R384 to R387, 08 R193, 02 R55, R67). -/

namespace Sys2Proof.Machine

/-- The resident members of a gang. -/
def State.gangMembers (s : State) (gang : Nat) : List (Nat × Group) :=
  s.groups.filter fun g => g.2.gang = gang && g.2.place = .resident

/-- Whether a path stands where a pre-emption can take it (R385): at a clause boundary, asleep, at a join, or stopped by a
trap of its team. -/
def Team.stopped (t : Team) (slot : Nat) (p : Path) : Bool :=
  p.clause.isNone || p.status ≠ .running || (t.trap.isSome && ¬ t.handling slot)

/-- Whether every path of a group stands so. -/
def Group.stopped (g : Group) : Bool := g.teams.all fun t => t.2.paths.all fun p => t.2.stopped p.1 p.2

/-- The markers of a group: team, register, name. -/
def Group.marks (g : Group) : List (Nat × Nat × BitVec 64) :=
  g.teams.flatMap fun t => (t.2.markers.filter fun m => m.2 ≠ 0).map fun m => (t.1, m.1, m.2)

/-- A marker moved to the lowest free entry of the parked-marker table (R130, R385). -/
def State.park (s : State) (asid gid gsave : Nat) (m : Nat × Nat × BitVec 64) : State :=
  match tget s.ctxs asid with
  | none => s
  | some x => match lowestFree x.parkn (x.parked.map Parked.entry) with
    | none => s
    | some e =>
      let p : Parked := { entry := e, gsave := gsave, name := m.2.2, gid := gid, role := m.1, k := m.2.1 }
      let s := s.put asid (x.parktab + 16 * e) (bytesLE 16 (m.2.2.toNat + 2 ^ 64 * gsave))
      s.modCtx asid fun x => { x with parked := x.parked ++ [p] }

/-- The group record of a save slot (Table 17-6): its fields in the order of the table, a 64-bit word each. -/
def Group.record (g : Group) (d : Grid) : List Byte :=
  let pre : Nat := (if g.predPhase then 1 else 0) + (if g.predErr then 2 else 0)
  [g.grid, g.index, g.teams.length, 8 * d.lr.v8, d.lr.m, g.spadKiB, g.firstCore, if d.lr.pinned then 1 else 0, g.member, pre,
    g.pool].flatMap (bytesLE 8)

/-- A path slot in a team record: PC, Jp, mask, s file, its written marks, FUTSTAT; zero for a slot without a path. -/
def Team.slotRecord (t : Team) (slot : Nat) : List Byte :=
  match tget t.paths slot with
  | none => bytesLE 416 0
  | some p => bytesLE 8 p.pc ++ bytesLE 8 (p.jp.getD 0) ++ bytesLE 128 p.mask.toNat ++
      (List.range 64).flatMap (fun n => bytesLE 4 ((tget p.s n).getD 0).toNat) ++ bytesLE 8 p.sWritten.toNat ++
      bytesLE 8 p.futstat.toNat

/-- The counts of a slot's 12 flags in a team record, a byte each (R261), and how many operations go on away. -/
def Team.countRecord (t : Team) (slot : Nat) : List Byte :=
  (List.range 12).flatMap (fun f => bytesLE 1 (t.flagCount slot f)) ++
    bytesLE 2 ((t.outst.filter fun o => o.slots.getLsbD slot).map fun o => o.ops.length).sum

/-- A team record of a save slot (Table 17-6): the path slots, the held stack entries, the done masks, FPC, FSR and MXSTAT, the
flag counts; in 2 KiB. -/
def Team.record (t : Team) : List Byte :=
  let pushed := t.splits.filter fun e => match e with | .pushed _ _ _ _ _ _ => true | .pair _ _ _ _ _ => false
  let mask (k : Nat) : LaneSet := match tget t.done k with | none => 0 | some d => d.2
  let bs := t.slotRecord 0 ++ t.slotRecord 1 ++
    (List.range 4).flatMap (fun i => match pushed[i]? with | none => bytesLE 160 0 | some e => e.bytes) ++
    (List.range 4).flatMap (fun k => bytesLE 128 (mask k).toNat) ++
    bytesLE 4 t.fpc.toNat ++ bytesLE 4 t.fsr.toNat ++ bytesLE 4 t.mxstat.toNat ++ t.countRecord 0 ++ t.countRecord 1
  (bs ++ bytesLE 2048 0).take 2048

/-- The registers of a team in the order register, lane. -/
def Team.vectorBytes (t : Team) : List Byte :=
  (List.range t.vregs).flatMap fun n => t.lanes.flatMap fun l => bytesLE 4 ((tget l.2.v n).getD 0).toNat
/-- The matrix slots of a team in the order register, lane. -/
def Team.matrixBytes (t : Team) : List Byte :=
  (List.range t.mregs).flatMap fun n => t.lanes.flatMap fun l => bytesLE 128 (l.2.getM n).data.toNat
/-- The shape tags of a team in the order register, lane. -/
def Team.tagBytes (t : Team) : List Byte :=
  (List.range t.mregs).flatMap fun n => t.lanes.flatMap fun l => bytesLE 2 (l.2.getM n).tag.toNat

/-- The memory of a save slot (R386, Table 17-6): each part at its place. How a part's content lies within it the spec does not
say: in the order of the table's words, without gaps (DESIGN CHOICE, log 49). -/
def State.writeSlot (s : State) (asid : Nat) (x : Ctx) (g : Group) (k : Nat) : State :=
  let base := x.trapfr + 0x100000 + 0x80000 * k
  let ts := g.teams.map Prod.snd
  let record : List Byte := match tget s.grids g.grid with | none => [] | some d => g.record d
  let s := s.put asid base record
  let s := s.put asid (base + 0x1000) (ts.flatMap Team.record)
  let s := s.put asid (base + 0x10000) (ts.flatMap Team.vectorBytes)
  let s := s.put asid (base + 0x30000) (ts.flatMap Team.matrixBytes)
  let s := s.put asid (base + 0x50000) (ts.flatMap Team.tagBytes)
  s.put asid (base + 0x51000) (memBytes g.spad 0 (1024 * g.spadKiB))

/-- A path as it is saved (R170, R176): latches cleared, a leave request withdrawn; it is not ready while it is away. -/
def Path.saved (p : Path) : Path := { p with cycLatch := none, etLatch := none, grant := .none, since := none, missed := 0 }

/-- The outstanding work of every team of a group settles (R385 step 2). -/
def State.settleGroup (s : State) (gid : Nat) (g : Group) : State :=
  (tkeys g.teams).foldl (fun s role => s.settle gid role) s

/-- One member of a gang saved (R385 steps 3 to 6), once its work has settled. -/
def State.saveGroup (s : State) (gid : Nat) : State :=
  match tget s.groups gid with
  | none => s
  | some g =>
    let s := s.release g.core 4
    match tget s.ctxs g.asid with
    | none => s
    | some x => match lowestFree x.nsave x.saves with
      | none => s
      | some k =>
        let s := g.marks.foldl (fun s m => s.park g.asid gid k m) s
        let s := (tkeys g.teams).foldl (fun s role => s.deactivate g.core { gid := gid, role := role }) s
        let s := match tget s.groups gid with
          | none => s
          | some g => s.writeSlot g.asid x g k
        let s := s.modCtx g.asid fun x => { x with saves := x.saves ++ [k] }
        s.modGroup gid fun g => { g with
          place := .saved k s.etime
          ways := []
          teams := tmap g.teams fun _ t => { t with markers := [], paths := tmap t.paths fun _ p => p.saved } }

/-- Whether issued work of a group is still incomplete after it has settled: sweeps, atomics of host memory, releases that
wait for acknowledgements (R385 step 2). -/
def State.groupBusy (s : State) (gid : Nat) (g : Group) : Bool := (tkeys g.teams).any fun role => s.teamBusy gid role

/-- The creel slots that a gang holds leave the creel with it (R67), into the save slot of the first member saved. -/
def State.saveTiles (s : State) (gang gid : Nat) (g : Group) : State :=
  let cell := cellOf g.core
  let held := ((s.cell cell).creel.filter fun t => t.2.gang = gang).map Prod.snd
  let s := s.modCell cell fun c => { c with creel := c.creel.filter fun t => t.2.gang ≠ gang }
  let s := s.modGroup gid fun g => { g with tiles := held }
  match tget s.groups gid, tget s.ctxs g.asid with
  | some m, some x => match m.place with
    | .saved k _ => s.put g.asid (x.trapfr + 0x179000 + 0x80000 * k) (held.flatMap CreelSlot.tile)
    | _ => s
  | _, _ => s

/-- A gang pre-empted whole (R30, R384, R385): refused, with a notification, without save slots or room in the parked-marker
table; not yet, while some path of it is within a clause or some issued work is not complete, that of its ended members among it.
Its creel slots leave the creel with it, and its ended members' scratchpads too. -/
def State.preempt (s : State) (gang : Nat) : State :=
  match s.gangMembers gang with
  | [] => s
  | (gid, g) :: rest =>
    let all := (gid, g) :: rest
    match tget s.ctxs g.asid with
    | none => s
    | some x =>
      let marks := (all.map fun e => e.2.marks.length).sum
      if x.nsave < x.saves.length + all.length ∨ x.parkn < x.parked.length + marks then
        s.notify 5 0 g.asid 0 g.index
      else if ¬ all.all fun e => e.2.stopped then s
      else
        let mates := s.groups.filter fun e => e.2.gang = gang
        let t := mates.foldl (fun s e => s.settleGroup e.1 e.2) s
        if mates.any fun e => t.groupBusy e.1 e.2 then s else
        let s := (all.foldl (fun s e => s.saveGroup e.1) t).saveTiles gang gid g
        { s with groups := tmap s.groups fun _ g => if g.gang = gang then { g with ways := [] } else g }

/-- GROUP_PREEMPTION (R384, R385), with the whole gang of a group. -/
def execGroupPreemption (s : State) : Res :=
  match s.input with
  | .one gid => .next <| match tget s.groups gid with
    | none => s
    | some g => if g.place = .resident then s.preempt g.gang else s
  | _ => .next s

/-- Residents leave a core in order until a gang of a record has room there; one that cannot leave yet, or is refused, holds back
those after it (R193). -/
def State.clearCore (s : State) (r : LaunchRec) (core : Nat) : List (Nat × Group) → State
  | [] => s
  | v :: vs =>
    if s.gangRoom r core then s else
    let t := s.preempt v.2.gang
    if (t.gangMembers v.2.gang).isEmpty then t.clearCore r core vs else t

/-- PRIORITY_PREEMPTION (R193): a group that has waited 100 µs without room on any core makes resident groups of lower
priority leave one core of its DIES, lowest priority first, until it fits. Which core that is, where several would do, the spec does
not say: the first in the search order of its queue (DESIGN CHOICE, log 88). -/
def execPriorityPreemption (s : State) : Res :=
  match s.input with
  | .one n => .next <| match tget s.grids n with
    | none => s
    | some d => match d.waitSince with
      | none => s
      | some t0 =>
        if ¬ s.alive d.asid ∨ ¬ d.waits ∨ s.etime < t0 + Config.preemptTicks ∨ (s.coreFor d).isSome then s
        else
          let prio (g : Group) : Nat := match tget s.grids g.grid with | none => 3 | some e => e.lr.prio
          let victims (core : Nat) : List (Nat × Group) :=
            (List.range d.lr.gsz).flatMap fun i =>
              s.groups.filter fun g => g.2.core = core + i && g.2.place = .resident && decide (prio g.2 < d.lr.prio)
          let without (vs : List (Nat × Group)) : State :=
            { s with groups := s.groups.filter fun g => ¬ vs.any fun v => v.2.gang = g.2.gang }
          let fits (core : Nat) : Bool := (without (victims core)).gangRoom d.lr core
          match (coreOrder d.lr.dieSet (s.lastCore d.key)).find? fits with
          | none => s
          | some core => s.clearCore d.lr core (sortBy (fun v => prio v.2) (victims core))
  | _ => .next s

/-- A member's core when its gang's member 0 goes to a core. -/
def Group.coreAt (g : Group) (base : Nat) : Nat := base + g.member

/-- Whether a gang may resume with member 0 on a core (R387, R67): every saved member has room on a core of the grid's DIES
in one cell, a PINNED one on its first core, and the creel has room for the tiles saved with it. -/
def State.mayResume (s : State) (ms : List (Nat × Group)) (d : Grid) (base size : Nat) : Bool :=
  let tiles := (ms.map fun m => m.2.tiles.length).sum
  base % 16 + size ≤ 16 && ((s.cell (cellOf base)).creel.length + tiles ≤ 8) && ms.all fun m =>
    let core := m.2.coreAt base
    core < Config.cores && (m.2.place = .ended && waysOf m.2.spadKiB + 4 ≤ (s.l1Ways core).length ||
      m.2.place ≠ .ended && d.lr.dieSet.getLsbD (dieOf core) && (¬ d.lr.pinned || m.2.firstCore = core) &&
        s.hasRoom core m.2.load m.2.spadKiB)

/-- The tiles saved with a gang go back into the creel of its cell, in their order (R67). -/
def State.restoreTiles (s : State) (cell : Nat) (ts : List CreelSlot) : State :=
  ts.foldl (fun s t => match lowestFree 8 (tkeys (s.cell cell).creel) with
    | none => s
    | some k => s.modCell cell fun c => { c with creel := tset c.creel k t }) s

/-- The markers of a saved group go back to the CAM before their table entries free (R130, R387). -/
def State.restoreMarks (s : State) (asid gid : Nat) : State :=
  match tget s.ctxs asid with
  | none => s
  | some x =>
    let mine := x.parked.filter fun p => p.gid = gid
    let s := mine.foldl (fun s p => s.modTeam gid p.role fun t => { t with markers := tset t.markers p.k p.name }) s
    s.unpark asid fun p => p.gid = gid

/-- A path that goes on after a resumption: a BWAIT that slept is issued again (R123). -/
def Path.resumed (p : Path) : Path :=
  match p.status with
  | .asleep _ _ => { p with status := .running }
  | _ => p

/-- A team that goes on, on the core of a resumed group, in a team slot: the counters of that core count from now (R387). -/
def Team.resumed (t : Team) (slot now : Nat) : Team :=
  { t with
    slotId := slot
    issued := now
    outst := t.outst.map fun o => { o with since := now, ops := o.ops.map fun e => (e.1, now) }
    paths := tmap t.paths fun _ p => p.resumed }

/-- A member of a gang restored on a core (R55, R56, R387). On another die than it left, no older copy of what it has seen may be
read through the remote-data cache (Coherence, R83). Operations that went on while the group was away go on from its new core (R74,
R88); those without a slot are issued again by the copy unit when it has room (`State.issueAgain`). -/
def State.restoreGroup (s : State) (gid core : Nat) : State :=
  match tget s.groups gid with
  | none => s
  | some g =>
    let w := s.takeWays core (waysOf g.spadKiB)
    let move (o : AsyncOp) : AsyncOp := if o.path.gid = gid then { o with core := core } else o
    let w : State × List Nat := ({ w.1 with ops := tmap w.1.ops fun _ o => move o }, w.2)
    match g.place with
    | .saved k _ =>
      let s := if core = g.core then w.1 else w.1.dropPaths core g.asid
      let s := if dieOf core = dieOf g.core then s else s.deliverIf fun e => e.die = dieOf core
      let s := s.acquire core 5
      let slots := freeSlots (s.teamSlots core) g.teams.length
      let now := (s.clock core).cyc.toNat
      let s := s.modGroup gid fun g => { g with
        core := core
        ways := w.2
        place := .resident
        teams := g.teams.zipIdx.map fun e => (e.1.1, e.1.2.resumed ((slots[e.2]?).getD 0) now) }
      let s := s.restoreMarks g.asid gid
      let s := s.modCtx g.asid fun x => { x with saves := x.saves.filter (· ≠ k) }
      let follow (f : Frog) : Frog := if f.gid = some gid then { f with core := core } else f
      let s := match tget s.ctxs g.asid with
        | none => s
        | some x => s.setFrogs g.asid (x.frogs.map follow)
      (tkeys g.teams).foldl (fun s role =>
        let done : Bool := match tget g.teams role with | none => true | some t => t.ended
        let trapped : Bool := match tget g.teams role with | none => false | some t => t.trap.isSome
        if done then s else
        (if trapped then s else s.reissueLdfs gid role core).activate core { gid := gid, role := role }) s
    | _ => w.1.modGroup gid fun g => { g with core := core, ways := w.2 }

/-- The gang of a saved group resumes as a whole, its member 0 on a core, where it may (R387). -/
def State.resumeGang (s : State) (g : Group) (base : Nat) : State :=
  match tget s.grids g.grid, tget s.gangs g.gang with
  | some d, some k =>
    let ms := s.groups.filter fun m => m.2.gang = g.gang
    if ¬ s.alive g.asid ∨ ¬ s.mayResume ms d base k.size then s else
    let tiles := ms.flatMap fun m => m.2.tiles
    let s := ms.foldl (fun s m => s.restoreGroup m.1 (m.2.coreAt base)) s
    let s := s.restoreTiles (cellOf base) tiles
    { s with groups := tmap s.groups fun _ m => if m.gang = g.gang then { m with tiles := [] } else m }
  | _, _ => s

/-- Whether a group is saved. -/
def Group.away (g : Group) : Bool := match g.place with | .saved _ _ => true | _ => false

/-- GROUP_RESUMPTION (R387): the gang of a saved group resumes, its member 0 on the core given. -/
def execGroupResumption (s : State) : Res :=
  match s.input with
  | .two gid base => .next <| match tget s.groups gid with
    | none => s
    | some g => if g.away then s.resumeGang g base else s
  | _ => .next s

/-- A group saved 2 ms ago resumes with its gang on the first core of its DIES that has room for it (R177). -/
def State.resumeDue (s : State) (gid : Nat) : State :=
  match tget s.groups gid with
  | none => s
  | some g => match g.place, tget s.grids g.grid, tget s.gangs g.gang with
    | .saved _ t, some d, some k =>
      if s.etime < t + Config.resumeTicks then s else
      let ms := s.groups.filter fun m => m.2.gang = g.gang
      match (coreOrder d.lr.dieSet none).find? fun c => s.mayResume ms d c k.size with
      | none => s
      | some base => s.resumeGang g base
    | _, _, _ => s

end Sys2Proof.Machine
end

