-- ==== Sys2Proof/Machine/CacheEvents.lean ====
section
/-! DEFINITION. Events at the home slices, the deferral buffers and the remote-data caches (02 R47 to R64), soft errors and
patrol (R68, 18 R402). -/

namespace Sys2Proof.Machine

/-- The number of the current uncore cycle, counted from module reset (R61, R8). -/
def State.uncoreCycle (s : State) : Nat := s.etime / Config.uncoreTicks

/-- The order of the dies whose requests reach a line in one cycle (R61): in uncore cycle n die n mod 8 comes first, the others
after it in ascending order, wrapping. -/
def dieOrder (n : Nat) : List Nat := (List.range 8).map fun i => (n + i) % 8

/-- Requests that reach a home slice in one cycle in the order in which they are performed (R61). -/
def State.rotated {α : Type} (s : State) (die : α → Nat) (rs : List α) : List α :=
  (dieOrder s.uncoreCycle).flatMap fun d => rs.filter fun r => die r = d

/-- HOME_SLICE_READ (R47, R59): a read performed at a line's home slice recalls an owner and allocates the line. -/
def execHomeSliceRead (s : State) : Res :=
  match s.input with
  | .two _ line => .next (if isDeviceMem (128 * line) then (s.recall line).l2Use line false else s)
  | _ => .next s

/-- A write performed at home slices for an agent of a die (R48, R50, R63). -/
def State.sliceWrite (s : State) (die pa : Nat) (bytes : List Byte) : State :=
  if isDeviceMem pa ∧ isDeviceMem (pa + bytes.length) then s.homeWrite (.die die) pa bytes else s

/-- HOME_SLICE_WRITE (R47, R48, R50, R61, R63): a write, or writes of several dies that reach their line in one cycle. -/
def execHomeSliceWrite (s : State) : Res :=
  match s.input with
  | .write die pa bytes => .next (s.sliceWrite die pa bytes)
  | .writes rs => .next ((s.rotated (fun r => r.1) rs).foldl (fun s r => s.sliceWrite r.1 r.2.1 r.2.2) s)
  | _ => .next s

/-- The deferral limit of a context in ticks (R64). -/
def Ctx.deferLimit (x : Ctx) : Nat := if x.deflim = 0 then Config.deferTicks else x.deflim * Config.scanTicks

/-- Entries of the deferral buffer of the slice that a cell lies in (R62). -/
def State.sliceLoad (s : State) (cell : Nat) : Nat :=
  (s.defer.filter fun e => homeDie (8 * e.cell) = homeDie (8 * cell) && Config.slice (e.cell / 16) = Config.slice (cell / 16)).length

/-- FUTURE_CELL_READ (R62): a request reads its cell at the home slice; it is answered, parked, or refused for want of an
entry. The core has seen the cell's line as its home holds it (R83). -/
def execFutureCellRead (s : State) : Res :=
  match s.input with
  | .one i => .next <| match s.cellReqs[i]? with
    | none => s
    | some e =>
      let line := e.cell / 16
      let s := ({ s with cellReqs := s.cellReqs.eraseIdx i } : State).recall line
      let s := (if e.attr.uncached then s else s.l2Use line e.attr.low).seen e.core line
      let v := memNat s.mem (8 * e.cell) 8
      if v ≠ 0 then s.decideLdf e (BitVec.ofNat 64 v) true 0
      else if 64 ≤ s.sliceLoad e.cell then s.decideLdf e 0 false 2
      else
        let limit : Nat := match tget s.ctxs e.asid with
          | none => Config.deferTicks
          | some x => x.deferLimit
        { s with defer := s.defer ++ [{ e with deadline := s.etime + limit }] }
  | _ => .next s

/-- DEFERRAL_EXPIRY (R64): at the latest multiple of 4,096 ticks every entry past its deadline expires. -/
def execDeferralExpiry (s : State) : Res :=
  .next <|
    let now := s.etime / Config.scanTicks * Config.scanTicks
    let gone := s.defer.filter fun e => e.deadline ≤ now
    gone.foldl (fun s e => s.decideLdf e 0 false 1) { s with defer := s.defer.filter fun e => ¬ e.deadline ≤ now }

/-- OWNERSHIP_REQUEST (R58): a near atomic of a core. -/
def execOwnershipRequest (s : State) : Res :=
  match s.input with
  | .atomic core pa q => .next (if isDeviceMem pa then (s.rmwNear core pa false q).s else s)
  | _ => .next s

/-- An atomic at the home slice (R58, R59); the core's own dirty bytes of the line go home first. -/
def State.farAtomic (s : State) (core pa : Nat) (q : AtomReq) : State :=
  if isDeviceMem pa then ((s.writeBack core (pa / 128)).rmwHome core pa true false q).s else s

/-- FAR_ATOMIC (R58, R59, R61): an atomic, or atomics of several dies that reach their line in one cycle. -/
def execFarAtomic (s : State) : Res :=
  match s.input with
  | .atomic core pa q => .next (s.farAtomic core pa q)
  | .atomics rs => .next ((s.rotated (fun r => dieOf r.1) rs).foldl (fun s r => s.farAtomic r.1 r.2.1 r.2.2) s)
  | _ => .next s

/-- CONTENDED_EXPIRY (R58). -/
def execContendedExpiry (s : State) : Res :=
  match s.input with
  | .one line => .next <| match (s.dir line).contended with
    | none => s
    | some t => if t ≤ s.etime then s.modDir line fun d => { d with contended := none } else s
  | _ => .next s

/-- RDC_INVALIDATION (R48): an invalidation sent to a die reaches its RDC. -/
def execRdcInvalidation (s : State) : Res :=
  match s.input with
  | .two die line => .next (s.deliverIf fun e => e.die = die ∧ e.line = line)
  | _ => .next s

/-- A fill laid under what the RDC holds of its line: sectors already present are newer and stay. -/
def CLine.under (held : CLine) (fill : CLine) : CLine :=
  (bitList held.valid 4).foldl (fun (l : CLine) i =>
    let m := maskBits 128 (32 * i) 32
    { l with
      valid := l.valid ||| (1#4 <<< i), data := setBytes l.data (32 * i) (getBytes held.data (32 * i) 32)
      poison := (l.poison &&& ~~~ m) ||| (held.poison &&& m) }) fill

/-- RDC_FILL (R51, R417): a fill arrives; one whose line was invalidated meanwhile is discarded. -/
def execRdcFill (s : State) : Res :=
  match s.input with
  | .two die line => .next <| match s.rdcFill.find? fun f => f.die = die && f.line.line = line with
    | none => s
    | some f =>
      let s := { s with rdcFill := s.rdcFill.eraseP fun f => f.die = die && f.line.line = line }
      if f.spoilt then s else s.modDie die fun d =>
        let l : CLine := match d.rdc.find? fun l => l.line = line with
          | none => f.line
          | some held => held.under f.line
        { d with rdc := cachePut 16384 16 d.rdc l f.low }
  | _ => .next s

/-- Addresses of the 32-byte sector that holds an address; an uncorrectable error poisons a sector (log 50). -/
def sectorAt (a : Nat) : List Nat := (List.range 32).map fun i => a / 32 * 32 + i

/-- An L1 line with an uncorrectable error (R68): clean, it is dropped; bytes of which it holds the only copy, dirty and
atomically modified ones, are poisoned, and the driver is told (R402). -/
def State.l1Spoil (s : State) (core line : Nat) : State :=
  match s.l1Find core line with
  | none => s
  | some l =>
    if l.dirty = 0 ∧ l.amod = 0 then s.l1Evict core line
    else (s.l1Mod core line fun l => { l with valid := 0, poison := l.poison ||| l.dirty ||| l.amod }).notify 8 0 0 0 (128 * line)

/-- An L2 line with an uncorrectable error (R68): a clean one is dropped, a dirty one is poisoned and the driver told
(R394). -/
def State.l2Spoil (s : State) (line : Nat) : State :=
  let d := s.dir line
  if ¬ d.present then s
  else if ¬ d.dirty then s.l2Drop line
  else (s.poisonMask line (BitVec.allOnes 128)).notify 8 0 0 0 (128 * line)

/-- A line dropped from a path cache of a core (R68): constant, sampler, tile, instruction. -/
def Core.dropPathLine (c : Core) (path line : Nat) : Core :=
  let out (l : List CLine) : List CLine := l.filter fun e => e.line ≠ line
  if path = 0 then { c with constC := out c.constC }
  else if path = 1 then { c with smpC := out c.smpC }
  else if path = 2 then { c with tileC := out c.tileC }
  else { c with instC := out c.instC }

/-- An uncorrectable error where it lies (R68). -/
def State.spoil (s : State) : SoftPlace → State
  | .l1 core line => s.l1Spoil core line
  | .rdc die line => s.modDie die fun d => { d with rdc := d.rdc.filter fun l => l.line ≠ line }
  | .pathCache core path line => s.modCore core fun c => c.dropPathLine path line
  | .cellCache cell line => s.modCell cell fun c => { c with instC := c.instC.filter fun l => l.line ≠ line }
  | .l2 line => s.l2Spoil line
  | .spad gid off => s.modGroup gid fun g => { g with spadPoison := g.spadPoison ++ sectorAt off }
  | .creel cell slot => s.modCell cell fun c => { c with creel := tmod c.creel slot fun t => { t with poison := BitVec.allOnes 128 } }
  | .deferral i => match s.defer[i]? with
    | none => s
    | some e => ({ s with defer := s.defer.eraseIdx i } : State).decideLdf e 0 false 1

/-- Every access that is issued and not performed is performed, before an error: an access found its data sound when its
instruction checked it (log 83). -/
def State.beforeError (s : State) : State := s.flush fun _ => true

/-- SOFT_ERROR (R68, Table 18-2): a corrected error is counted, and raises a notification over the threshold (log 31); an
uncorrectable one acts by where it lies. -/
def execSoftError (s : State) : Res :=
  match s.input with
  | .soft place ok => .next <|
    if ok then
      let n := s.plat.corrected + 1
      let s := { s with plat := { s.plat with corrected := n } }
      if n = Config.softThreshold + 1 then s.notify 7 0 0 0 0 else s
    else
      let s := s.beforeError
      ({ s with plat := { s.plat with uncorrected := s.plat.uncorrected + 1 } } : State).spoil place
  | _ => .next s

/-- PATROL_SCRUB (R402): a pass over the memories; data that cannot be corrected is poisoned, each with a notification. -/
def execPatrolScrub (s : State) : Res :=
  match s.input with
  | .scrub bad => .next <|
    let s := if bad.isEmpty then s else s.beforeError
    let s := { s with plat := { s.plat with patrols := s.plat.patrols + 1 } }
    (bad.filter fun a => isDeviceMem a).foldl (fun s a =>
      ({ s with
        poison := s.poison ++ sectorAt a
        plat := { s.plat with uncorrected := s.plat.uncorrected + 1 } } : State).notify 8 0 0 0 (a / 32 * 32)) s
  | _ => .next s

end Sys2Proof.Machine
end

