-- ==== Sys2Proof/Machine/Cross.lean ====
section
/-! DEFINITION. Cross-lane instructions: majors 0x12 to 0x16 (13 R291 to R296). -/

namespace Sys2Proof.Machine

/-- The lane that CABLE reads, from a lane and its crossing position (R293): the lane itself where the crossing is
dropped. -/
def cableFrom (act : List Nat) (l : Nat) (t : Int) : Nat :=
  if 0 ≤ t ∧ t ≤ 31 ∧ act.contains (l / 32 * 32 + t.toNat) then l / 32 * 32 + t.toNat else l

/-- CABLE with the crossing position of its mode, from the lane's position i and its b (R293). -/
def State.cable (s : State) (c : Cur) (o : OpG) (t : Nat → Nat → Int) : State :=
  let act := c.act s.guard
  s.lanewise c fun l r =>
    r.setV o.d.toNat ((c.t.lane (cableFrom act l (t (l % 32) (r.getV o.b.toNat).toNat))).getV o.a.toNat)

/-- A quad exchange (R294): the partner's register is read whether or not the partner is active. -/
def State.quad (s : State) (c : Cur) (o : OpU) (partner : Nat → Nat) : State :=
  s.lanewise c fun l r => r.setV o.d.toNat ((c.t.lane (l / 4 * 4 + partner (l % 4))).getV o.a.toNat)

/-- A fold over the participants (R295), written to every active lane. -/
def State.fold (s : State) (c : Cur) (o : OpG) (f : Word → Word → Word) (none : Word) : State :=
  let r := (c.gather s.guard o.a).foldl f none
  s.lanewise c fun _ l => l.setV o.d.toNat r

/-- A participant's value as the sum starts with it: FTZ and the canonical NaN apply (R227, R231, R295). -/
def foldFirst (ftz : Bool) (a : Nat) : FpR :=
  match f32.value ftz a with
  | .nan x => { bits := f32.canonNaN, flags := if x then flagIV else 0 }
  | _ => { bits := f32.flushIn ftz a, flags := 0 }

/-- The f32 sum of the participants in ascending lane order, with the flags of every step (R295). -/
def foldSum (rm : Nat) (ftz : Bool) : List Word → FpR
  | [] => { bits := 0, flags := 0 }
  | a :: as => as.foldl (fun r b =>
      let x := f32.add rm ftz r.bits b.toNat
      { bits := x.bits, flags := r.flags ||| x.flags }) (foldFirst ftz a.toNat)

/-- VOTE.ANY (R292): whether pa is true in any participant. -/
def execVoteAny (o : OpG) (s : State) : Res :=
  s.issue (.voteAny o) fun c => let r := ! (c.voters s.guard o.a).isEmpty
    s.lanewise c fun _ l => l.setP o.d.toNat r

/-- VOTE.ALL: whether pa is true in every participant. -/
def execVoteAll (o : OpG) (s : State) : Res :=
  s.issue (.voteAll o) fun c => let r := (c.voters s.guard o.a).length = (c.workers s.guard).length
    s.lanewise c fun _ l => l.setP o.d.toNat r

/-- VOTE.BALLOT: bit j is set when lane 32 w + j is a participant whose pa is true; w of 32 or more gives 0. -/
def execVoteBallot (o : OpG) (s : State) : Res :=
  s.issue (.voteBallot o) fun c => let w := (c.p.getS o.b.toNat).toNat
    let r : Word := ((c.voters s.guard o.a).filter fun l => l / 32 = w).foldl (fun m l => m ||| (1#32 <<< (l % 32))) 0
    s.lanewise c fun _ l => l.setV o.d.toNat r

/-- VOTE.COUNT: the number of participants whose pa is true. -/
def execVoteCount (o : OpG) (s : State) : Res :=
  s.issue (.voteCount o) fun c => let r := word (c.voters s.guard o.a).length
    s.lanewise c fun _ l => l.setV o.d.toNat r

/-- CABLE.AT (Table 13-7). -/
def execCableAt (o : OpG) (s : State) : Res :=
  s.issue (.cableAt o) fun c => s.cable c o fun _ b => b

/-- CABLE.BACK (Table 13-7). -/
def execCableBack (o : OpG) (s : State) : Res :=
  s.issue (.cableBack o) fun c => s.cable c o fun i b => (i : Int) - b

/-- CABLE.FWD (Table 13-7). -/
def execCableFwd (o : OpG) (s : State) : Res :=
  s.issue (.cableFwd o) fun c => s.cable c o fun i b => (i : Int) + b

/-- CABLE.FLIP (Table 13-7). -/
def execCableFlip (o : OpG) (s : State) : Res :=
  s.issue (.cableFlip o) fun c => s.cable c o fun i b => ((i ^^^ b : Nat) : Int)

/-- QSWPH (Table 13-8). -/
def execQswph (o : OpU) (s : State) : Res :=
  s.issue (.qswph o) fun c => s.quad c o fun q => q ^^^ 1

/-- QSWPV (Table 13-8). -/
def execQswpv (o : OpU) (s : State) : Res :=
  s.issue (.qswpv o) fun c => s.quad c o fun q => q ^^^ 2

/-- QSWPD (Table 13-8). -/
def execQswpd (o : OpU) (s : State) : Res :=
  s.issue (.qswpd o) fun c => s.quad c o fun q => q ^^^ 3

/-- QBC0 (Table 13-8). -/
def execQbc0 (o : OpU) (s : State) : Res :=
  s.issue (.qbc0 o) fun c => s.quad c o fun _ => 0

/-- QBC1 (Table 13-8). -/
def execQbc1 (o : OpU) (s : State) : Res :=
  s.issue (.qbc1 o) fun c => s.quad c o fun _ => 1

/-- QBC2 (Table 13-8). -/
def execQbc2 (o : OpU) (s : State) : Res :=
  s.issue (.qbc2 o) fun c => s.quad c o fun _ => 2

/-- QBC3 (Table 13-8). -/
def execQbc3 (o : OpU) (s : State) : Res :=
  s.issue (.qbc3 o) fun c => s.quad c o fun _ => 3

/-- FOLD.ADD.i32 (Table 13-9). -/
def execFoldAddI32 (o : OpG) (s : State) : Res :=
  s.issue (.foldAddI32 o) fun c => s.fold c o (fun a b => a + b) 0

/-- FOLD.MIN.i32 (Table 13-9). -/
def execFoldMinI32 (o : OpG) (s : State) : Res :=
  s.issue (.foldMinI32 o) fun c => s.fold c o (fun a b => if a.toInt ≤ b.toInt then a else b) 0x7FFFFFFF

/-- FOLD.MAX.i32 (Table 13-9). -/
def execFoldMaxI32 (o : OpG) (s : State) : Res :=
  s.issue (.foldMaxI32 o) fun c => s.fold c o (fun a b => if b.toInt ≤ a.toInt then a else b) 0x80000000

/-- FOLD.AND (Table 13-9). -/
def execFoldAnd (o : OpG) (s : State) : Res :=
  s.issue (.foldAnd o) fun c => s.fold c o (fun a b => a &&& b) 0xFFFFFFFF

/-- FOLD.OR (Table 13-9). -/
def execFoldOr (o : OpG) (s : State) : Res :=
  s.issue (.foldOr o) fun c => s.fold c o (fun a b => a ||| b) 0

/-- FOLD.XOR (Table 13-9). -/
def execFoldXor (o : OpG) (s : State) : Res :=
  s.issue (.foldXor o) fun c => s.fold c o (fun a b => a ^^^ b) 0

/-- FOLD.FADD (R295): the f32 sum; an enabled flag traps with every participant in the lane mask. -/
def execFoldFadd (o : OpG) (s : State) : Res :=
  s.issue (.foldFadd o) fun c => 
    let r := foldSum c.t.rm c.t.ftz (c.gather s.guard o.a)
    let s := s.modTeam c.r.gid c.r.role fun t => t.raise r.flags
    if r.flags &&& c.t.te = 0 then s.lanewise c fun _ l => l.setV o.d.toNat (word r.bits)
    else s.takeTrap c.r 0x0A 0 0 (laneSet (c.workers s.guard)) false

/-- NZS (R296): lane numbers of the participants with non-zero a, and their count into s[sc]. -/
def execNzs (o : OpG) (s : State) : Res :=
  s.issue (.nzs o) fun c => 
    let z := (c.workers s.guard).filter fun l => (c.t.lane l).getV o.a.toNat ≠ 0
    let s := if (c.act s.guard).isEmpty then s else s.modPath c.r fun p => p.setS o.b.toNat (word z.length)
    s.lanewise c fun l r => r.setV o.d.toNat (match z[l]? with | some k => word k | none => 0xFFFFFFFF)

end Sys2Proof.Machine
end

