-- ==== Sys2Proof/Machine/Float.lean ====
section
/-! DEFINITION. f32 arithmetic: majors 0x20 to 0x25 (13 R300 to R306). -/

namespace Sys2Proof.Machine

/-- FADD (Table 13-12). -/
def execFadd (o : OpR) (s : State) : Res :=
  s.issue (.fadd o) fun c => s.fpLanes c fun l => (f32.add c.t.rm c.t.ftz (l.getV o.a.toNat).toNat (l.getV o.b.toNat).toNat).toV l o.d.toNat

/-- FSUB. -/
def execFsub (o : OpR) (s : State) : Res :=
  s.issue (.fsub o) fun c => s.fpLanes c fun l => (f32.sub c.t.rm c.t.ftz (l.getV o.a.toNat).toNat (l.getV o.b.toNat).toNat).toV l o.d.toNat

/-- FMUL. -/
def execFmul (o : OpR) (s : State) : Res :=
  s.issue (.fmul o) fun c => s.fpLanes c fun l => (f32.mul c.t.rm c.t.ftz (l.getV o.a.toNat).toNat (l.getV o.b.toNat).toNat).toV l o.d.toNat

/-- FFMA: a × b + d, rounded once. -/
def execFfma (o : OpR) (s : State) : Res :=
  s.issue (.ffma o) fun c => s.fpLanes c fun l => (f32.fma c.t.rm c.t.ftz (l.getV o.a.toNat).toNat (l.getV o.b.toNat).toNat (l.getV o.d.toNat).toNat).toV l o.d.toNat

/-- FMIN (Table 13-13). -/
def execFmin (o : OpG) (s : State) : Res :=
  s.issue (.fmin o) fun c => s.fpLanes c fun l => (f32.minmax false false c.t.ftz (l.getV o.a.toNat).toNat (l.getV o.b.toNat).toNat).toV l o.d.toNat

/-- FMAX (Table 13-13). -/
def execFmax (o : OpG) (s : State) : Res :=
  s.issue (.fmax o) fun c => s.fpLanes c fun l => (f32.minmax true false c.t.ftz (l.getV o.a.toNat).toNat (l.getV o.b.toNat).toNat).toV l o.d.toNat

/-- FMINP (Table 13-13). -/
def execFminp (o : OpG) (s : State) : Res :=
  s.issue (.fminp o) fun c => s.fpLanes c fun l => (f32.minmax false true c.t.ftz (l.getV o.a.toNat).toNat (l.getV o.b.toNat).toNat).toV l o.d.toNat

/-- FMAXP (Table 13-13). -/
def execFmaxp (o : OpG) (s : State) : Res :=
  s.issue (.fmaxp o) fun c => s.fpLanes c fun l => (f32.minmax true true c.t.ftz (l.getV o.a.toNat).toNat (l.getV o.b.toNat).toNat).toV l o.d.toNat

/-- FABS: a with bit 31 cleared; NaN payloads are kept, and FTZ reads a subnormal as zero (R302). -/
def execFabs (o : OpG) (s : State) : Res :=
  s.issue (.fabs o) fun c => s.v2 c o.d o.a fun a => word (f32.flushIn c.t.ftz a.toNat % 2 ^ 31)

/-- FNEG: a with bit 31 inverted. -/
def execFneg (o : OpG) (s : State) : Res :=
  s.issue (.fneg o) fun c => s.v2 c o.d o.a fun a => word (f32.flushIn c.t.ftz a.toNat) ^^^ 0x80000000

/-- FCOPYS: bits 30:0 of a with bit 31 of b. -/
def execFcopys (o : OpG) (s : State) : Res :=
  s.issue (.fcopys o) fun c => s.v3 c o.d o.a o.b fun a b => word (f32.flushIn c.t.ftz a.toNat % 2 ^ 31) ||| (b &&& 0x80000000)

/-- FCMP (R303, Table 13-14). -/
def execFcmp (o : OpC) (s : State) : Res :=
  s.issue (.fcmp o) fun c => s.fpLanes c fun l => 
    let r := fcond o.cc.toNat (f32.value c.t.ftz (l.getV o.a.toNat).toNat) (f32.value c.t.ftz (l.getV o.b.toNat).toNat)
    { lane := l.setP o.d.toNat r.1, flags := r.2 }

/-- RCP (Table 13-15). -/
def execRcp (o : OpU) (s : State) : Res :=
  s.issue (.rcp o) fun c => s.fpLanes c fun l => (fnRcp c.t.ftz (l.getV o.a.toNat).toNat).toV l o.d.toNat

/-- RSQ (Table 13-15). -/
def execRsq (o : OpU) (s : State) : Res :=
  s.issue (.rsq o) fun c => s.fpLanes c fun l => (fnRsq c.t.ftz (l.getV o.a.toNat).toNat).toV l o.d.toNat

/-- EXP2 (Table 13-15). -/
def execExp2 (o : OpU) (s : State) : Res :=
  s.issue (.exp2 o) fun c => s.fpLanes c fun l => (fnExp2 c.t.ftz (l.getV o.a.toNat).toNat).toV l o.d.toNat

/-- LOG2 (Table 13-15). -/
def execLog2 (o : OpU) (s : State) : Res :=
  s.issue (.log2 o) fun c => s.fpLanes c fun l => (fnLog2 c.t.ftz (l.getV o.a.toNat).toNat).toV l o.d.toNat

/-- SINR (Table 13-15). -/
def execSinr (o : OpU) (s : State) : Res :=
  s.issue (.sinr o) fun c => s.fpLanes c fun l => (fnSinr c.t.ftz (l.getV o.a.toNat).toNat).toV l o.d.toNat

/-- COSR (Table 13-15). -/
def execCosr (o : OpU) (s : State) : Res :=
  s.issue (.cosr o) fun c => s.fpLanes c fun l => (fnCosr c.t.ftz (l.getV o.a.toNat).toNat).toV l o.d.toNat

/-- TANH (Table 13-15). -/
def execTanh (o : OpU) (s : State) : Res :=
  s.issue (.tanh o) fun c => s.fpLanes c fun l => (fnTanh c.t.ftz (l.getV o.a.toNat).toNat).toV l o.d.toNat

/-- FLOOR (Table 13-16). -/
def execFloor (o : OpU) (s : State) : Res :=
  s.issue (.floor o) fun c => s.fpLanes c fun l => (f32.rint 3 c.t.ftz (l.getV o.a.toNat).toNat).toV l o.d.toNat

/-- CEIL (Table 13-16). -/
def execCeil (o : OpU) (s : State) : Res :=
  s.issue (.ceil o) fun c => s.fpLanes c fun l => (f32.rint 2 c.t.ftz (l.getV o.a.toNat).toNat).toV l o.d.toNat

/-- TRUNC (Table 13-16). -/
def execTrunc (o : OpU) (s : State) : Res :=
  s.issue (.trunc o) fun c => s.fpLanes c fun l => (f32.rint 1 c.t.ftz (l.getV o.a.toNat).toNat).toV l o.d.toNat

/-- RINT (Table 13-16). -/
def execRint (o : OpU) (s : State) : Res :=
  s.issue (.rint o) fun c => s.fpLanes c fun l => (f32.rint c.t.rm c.t.ftz (l.getV o.a.toNat).toNat).toV l o.d.toNat

/-- FRACT (Table 13-16). -/
def execFract (o : OpU) (s : State) : Res :=
  s.issue (.fract o) fun c => s.fpLanes c fun l => (f32.fract c.t.rm c.t.ftz (l.getV o.a.toNat).toNat).toV l o.d.toNat

/-- FDIV (R306). -/
def execFdiv (o : OpG) (s : State) : Res :=
  s.issue (.fdiv o) fun c => s.fpLanes c fun l => (f32.div c.t.rm c.t.ftz (l.getV o.a.toNat).toNat (l.getV o.b.toNat).toNat).toV l o.d.toNat

/-- FSQRT (R306). -/
def execFsqrt (o : OpG) (s : State) : Res :=
  s.issue (.fsqrt o) fun c => s.fpLanes c fun l => (f32.sqrt c.t.rm c.t.ftz (l.getV o.a.toNat).toNat).toV l o.d.toNat

end Sys2Proof.Machine
end

