-- ==== Sys2Proof/Machine/Transport.lean ====
section
/-! DEFINITION. The Nirup transport (18 R395 to R397): descriptors of a context's ring, the types of frames received,
acknowledgements and resends. The places of a descriptor's fields are the model's (log 52). -/

namespace Sys2Proof.Machine

/-- A ring descriptor (Table 18-3) as the model lays it out (log 52). -/
structure Desc where
  kind   : Nat
  rel    : Bool
  peer   : Nat
  remote : Nat
  arg    : Nat
  loc    : Nat
  va     : Nat
  a      : Nat
  b      : Nat
  op     : Nat
  deriving DecidableEq, Repr

/-- The fields of a descriptor's 64 bytes. -/
def Desc.ofNat (n : Nat) : Desc :=
  { kind := bitsOf n 0 8, rel := bitOf n 9, peer := bitsOf n 16 16, remote := bitsOf n 32 12, arg := bitsOf n 48 16
    loc := field n 8 8, va := field n 0x10 8, a := field n 0x18 8, b := field n 0x20 8, op := field n 0x28 1 }

/-- The error of a descriptor (R184, R188), the lowest code first: type, reserved fields, values. -/
def Desc.error (d : Desc) (n : Nat) : Option Nat :=
  if d.kind = 0 ∨ 4 < d.kind then some 1
  else if bitsOf n 10 6 ≠ 0 ∨ bitsOf n 44 4 ≠ 0 ∨ field n 0x29 23 ≠ 0 then some 2
  else if (d.kind = 1 ∧ 64 ≤ d.arg) ∨ (d.kind = 2 ∧ (d.arg = 0 ∨ 4096 < d.arg)) ∨ (d.kind = 4 ∧ 256 ≤ d.arg) ∨
      (d.kind = 3 ∧ (d.va % 8 ≠ 0 ∨ d.loc % 8 ≠ 0 ∨ 2 < d.op)) then some 3
  else none

/-- The local pages that a descriptor names (R189). -/
def Desc.pages (d : Desc) : List (Nat × Nat × Access) :=
  if d.kind = 1 then [(d.loc, 64, .read)] else if d.kind = 2 then [(d.loc, d.arg, .read)]
  else if d.kind = 3 then [(d.loc, 8, .write)] else []

/-- A resend of a channel's unacknowledged frames from a place in their order, each one attempt more (R397). -/
def State.resend (s : State) (asid peer from_ : Nat) : State :=
  match tget s.ctxs asid with
  | none => s
  | some x =>
    let ch := x.channel peer
    let again : List Sent := ch.sent.zipIdx.map fun f =>
      if from_ ≤ f.2 then { f.1 with tries := f.1.tries + 1, since := s.etime } else f.1
    let s := s.modCtx asid fun x => { x with channels := tset x.channels peer { ch with sent := again } }
    (again.drop from_).foldl (fun s f => s.emitFrame peer asid f) s

/-- A channel fails (R397): its ring takes ERR with ERRCODE 0x07, and a link-failed notification is raised. -/
def State.failChannel (s : State) (asid peer : Nat) : State :=
  match tget s.ctxs asid with
  | none => s
  | some x =>
    let ch := x.channel peer
    let s := s.modCtx asid fun x => { x with channels := tset x.channels peer { ch with failed := true } }
    let q : QRef := { asid := asid, q := 64 }
    let r := s.readHeader q
    let s := match r.2 with
      | none => r.1
      | some (h, _) =>
        let conf := bitsOf h.conf 0 15 + 2 ^ 15 + 2 ^ 16 * 7 + h.conf / 2 ^ 24 * 2 ^ 24
        let s := (r.1.unitWrite h.die asid h.x (h.hdr + 0x18) (bytesLE 8 conf)).1
        (s.unitWrite h.die asid h.x (h.hdr + 0x20) (bytesLE 8 h.rd)).1
    s.notify 9 7 asid 0 (x.ring.getD 0)

/-- A channel that had failed goes on once its ring is served again: what was not acknowledged is sent once more (log 53). -/
def State.reviveChannel (s : State) (asid peer : Nat) : State :=
  match tget s.ctxs asid with
  | none => s
  | some x =>
    let ch := x.channel peer
    if ¬ ch.failed then s else
    let again : List Sent := ch.sent.map fun f => { f with tries := 0 }
    (s.modCtx asid fun x => { x with
      channels := tset x.channels peer { ch with failed := false, sent := again } }).resend asid peer 0

/-- TRANSPORT_DESCRIPTOR (R396): the next descriptor of a ring is checked and consumed, its payload read at home slices, its
frame sent; a faulty one stops the ring. -/
def execTransportDescriptor (s : State) : Res :=
  match s.input with
  | .one asid => .next <|
    let q : QRef := { asid := asid, q := 64 }
    let r := s.headOf q
    match r.2 with
    | none => r.1
    | some h =>
      let n := natLE h.packet
      let d := Desc.ofNat n
      let c := r.1.checkPacket h asid (d.error n) d.pages
      match c.2 with
      | some e => c.1.stopQueue q h e
      | none =>
        let slot := h.rd % 2 ^ confLog h.conf
        let s := c.1.modCtx asid fun x => { x with ringBy := tdel x.ringBy slot }
        let s := (s.deliverInv.unitWrite h.die asid h.x (h.hdr + 8) (bytesLE 8 (h.rd + 1))).1.reviveChannel asid d.peer
        let p := s.unitRead h.die asid h.x d.loc (if d.kind = 1 then 64 else if d.kind = 2 then d.arg else 0)
        let data : List Byte := match p.2 with
          | .ok bs => bs
          | .error _ => []
        let args : List Byte :=
          if d.kind = 1 then bytesLE 8 d.arg
          else if d.kind = 2 then bytesLE 8 d.va ++ bytesLE 8 d.arg
          else if d.kind = 3 then bytesLE 8 d.va ++ bytesLE 8 d.op ++ bytesLE 8 d.a ++ bytesLE 8 d.b
          else bytesLE 8 d.arg ++ bytesLE 8 d.va
        p.1.sendFrame asid d.peer (Sent.new (tget h.x.ringBy slot) d.kind d.remote d.rel d.loc args data)
  | _ => .next s

/-- FRAME_QUEUE_APPEND (R396, R183): a packet appended to a queue of the context. -/
def execFrameQueueAppend (s : State) : Res :=
  match s.input with
  | .frameAppend h q packet => .next <| s.receive h fun s x =>
      match tget x.queues q with
      | none => .refused
      | some hdr => s.netAppend h.asid x hdr (bytesLE 64 packet.toNat)
  | _ => .next s

/-- FRAME_REMOTE_WRITE (R396): bytes written at home slices. -/
def execFrameRemoteWrite (s : State) : Res :=
  match s.input with
  | .frameWrite h va bytes => .next <| s.receive h fun s x => match s.netWrite h.asid x va bytes with
      | none => .refused
      | some s => .done s 0
  | _ => .next s

/-- The value that a bus or transport RMW leaves (R392, Table 18-3): the sum, the operand, or CAS's new value on equality. -/
def BusOp.apply (op : Sys2Proof.BusOp) (old a b : Nat) : Nat :=
  match op with
  | .add => old + a
  | .swap => a
  | .cas => if old = a then b else old

/-- FRAME_REMOTE_ATOMIC (R396): an n64 RMW at the home slice; its old value is returned. On host memory it is a PCIe AtomicOp,
whose completion brings the old value (R35). -/
def execFrameRemoteAtomic (s : State) : Res :=
  match s.input with
  | .frameAtomic h va op a b => .next <| s.receive h fun s x =>
      if va % 8 ≠ 0 then .refused else
      match s.unitXlat 0 h.asid x va .rmw with
      | (_, .error _) => .refused
      | (s, .ok y) =>
        if isHostMem y.pa then
          .waits { s with fresh := s.fresh + 1, out := s.out ++ [.hostAtomic s.fresh y.pa op true a b] } (.host s.fresh)
        else if ¬ isDeviceMem y.pa then .refused else
        let r := s.pageNat y 0 8
        .done (r.1.pageWrite .outside y 0 (bytesLE 8 (BusOp.apply op r.2 a.toNat b.toNat))) (BitVec.ofNat 64 r.2)
  | _ => .next s

/-- The completion of a received atomic on host memory (R35, R396). -/
def State.netCompletion (s : State) (id : Nat) (value : BitVec 64) : State :=
  match s.recv.find? fun e => match e.2.wait with
    | some (_, .host k) => k = id
    | _ => false with
  | none => s
  | some (_, r) => match r.wait with
    | none => s
    | some (h, _) => s.conclude h { r with wait := none } (.done s value)

/-- FRAME_WATERMARK (R95, R396): a WMADV at system scope. -/
def execFrameWatermark (s : State) : Res :=
  match s.input with
  | .frameMark h src v => .next <| s.receive h fun s _ => .done (s.deliverInv.wmadv h.asid src (i64 v.toNat)) 0
  | _ => .next s

/-- The place of a sequence number among a channel's unacknowledged frames. -/
def Channel.find (c : Channel) (seq : Nat) : Option Nat := c.sent.findIdx? fun f => f.seq = seq

/-- FRAME_ACK (R397): a frame is acknowledged, and with it the earlier frames of its channel but atomics, whose old values
come with acknowledgements of their own; the old value of an atomic is written at its result address, with release at system
scope. -/
def execFrameAck (s : State) : Res :=
  match s.input with
  | .ack asid peer seq old => .next <| match tget s.ctxs asid with
    | none => s
    | some x =>
      let ch := x.channel peer
      match ch.find seq with
      | none => s
      | some i =>
        let keep := ch.sent.zipIdx.filter fun f => ¬ (f.2 = i ∨ (f.2 < i ∧ f.1.kind ≠ 3))
        let s := s.modCtx asid fun x => { x with
          channels := tset x.channels peer { ch with sent := keep.map Prod.fst } }
        match ch.sent[i]? with
        | none => s
        | some f =>
          if f.kind ≠ 3 then s else
          match s.deliverInv.netWrite asid x f.resVA (bytesLE 8 old.toNat) with
          | some s => s
          | none => s
  | _ => .next s

/-- A channel's frames from a place are sent again, or the channel fails after its last attempt (R397). -/
def State.retry (s : State) (asid peer i : Nat) (f : Sent) : State :=
  if Config.frameAttempts ≤ f.tries then s.failChannel asid peer else s.resend asid peer i

/-- FRAME_NACK (R397). -/
def execFrameNack (s : State) : Res :=
  match s.input with
  | .ack asid peer seq _ => .next <| match tget s.ctxs asid with
    | none => s
    | some x =>
      let ch := x.channel peer
      match ch.find seq with
      | none => s
      | some i => match ch.sent[i]? with
        | none => s
        | some f => if ch.failed then s else s.retry asid peer i f
  | _ => .next s

/-- TRANSPORT_ACK_TIMEOUT (R397): the oldest frame that has waited 20 µs is sent again with every later one. -/
def execTransportAckTimeout (s : State) : Res :=
  match s.input with
  | .two asid peer => .next <| match tget s.ctxs asid with
    | none => s
    | some x =>
      let ch := x.channel peer
      match ch.sent.findIdx? fun f => f.since + Config.frameTicks ≤ s.etime with
      | none => s
      | some i => match ch.sent[i]? with
        | none => s
        | some f => if ch.failed then s else s.retry asid peer i f
  | _ => .next s

end Sys2Proof.Machine
end

