-- ==== Sys2Proof/Machine/Host.lean ====
section
/-! DEFINITION. The host's side (18 R392 to R394, 01 R36 to R38): context operations with the checks of a context descriptor and
of stream descriptors (08 R179, R180, 09 R209 to R211), kills (08 R206), answers to faults, BAR0 registers, the host window. -/

namespace Sys2Proof.Machine

/-- A physical address that a descriptor may lie at: device or host memory. -/
def hasMemory (pa : Nat) : Bool := isDeviceMem pa || isHostMem pa

/-- A user virtual address with an alignment. -/
def vaAt (a n : Nat) : Bool := userVA a && a % n = 0

/-- The error of a context descriptor (Tables 1-6 and 8-1): reserved fields, then values; a root table lies in device memory
(R15). -/
def ctxError (n : Nat) : Option Nat :=
  let f (off k : Nat) : Nat := field n off k
  if bitsOf n 52 12 ≠ 0 ∨ bitsOf n 16 5 ≠ 0 ∨ bitsOf n 12 3 ≠ 0 ∨ f 0x14 4 ≠ 0 ∨ f 0x18 8 ≠ 0 ∨ f 0x4C 4 / 2 ^ 23 ≠ 0 ∨
      f 0x78 8 ≠ 0 then some 2
  else if bitsOf n 0 12 = 0 ∨ bitOf n 15 ∨ ¬ isDeviceMem (bitsOf n 21 31 * 2 ^ 21) ∨ ¬ vaAt (f 8 8) 65536 ∨
      f 0x12 2 = 0 ∨ 4096 < f 0x12 2 ∨ f 0x10 2 = 0 ∨ 4096 < f 0x10 2 ∨ ¬ vaAt (f 0x20 8) 512 ∨ ¬ vaAt (f 0x28 8) 4096 ∨
      ¬ vaAt (f 0x30 8) 512 ∨ ¬ vaAt (f 0x38 8) 16 ∨ (f 0x40 4 ≠ 0 ∧ f 0x40 4 < 4) ∨ 976562 < f 0x40 4 ∨ 976 < f 0x44 4 ∨
      1000000 < f 0x48 4 ∨ f 0x4C 4 % 2 ^ 17 < 256 ∨ 65536 < f 0x4C 4 % 2 ^ 17 ∨ ¬ vaAt (f 0x50 8) 65536 ∨
      ¬ vaAt (f 0x58 8) 65536 ∨ ¬ vaAt (f 0x60 8) 4096 ∨ ¬ userVA (f 0x68 8) ∨ ¬ vaAt (f 0x70 8) 256 then some 3
  else none

/-- The context that a descriptor names, before its tables are read. -/
def Ctx.ofNat (n : Nat) : Ctx :=
  let f (off k : Nat) : Nat := field n off k
  { root := bitsOf n 21 31 * 2 ^ 21, supv := false, privbase := f 8 8, psz := f 0x12 2, nslot := f 0x10 2
    scopetab := f 0x20 8, tenstab := f 0x28 8, qtab := f 0x30 8, parktab := f 0x38 8, deflim := f 0x40 4
    frogint := f 0x44 4, wdog := f 0x48 4, dlq := f 0x4C 4 / 2 ^ 17 % 64, parkn := f 0x4C 4 % 2 ^ 17
    froglist := f 0x50 8, notice := f 0x58 8, strtab := f 0x60 8, traph := f 0x68 8, trapfr := f 0x70 8
    nframe := 0, nsave := 0, scopes := [], queues := [], privUsed := [], frames := [], saves := [], atomsat := 0
    parked := [], frogs := [], notices := [], noticeN := 0, sweeps := [], resweep := false, frogDone := 0, sources := []
    bindings := [], carried := [], ring := none, ringBy := [], channels := [], kill := .live }

/-- The programmable scopes of a table (R76): entries 6 to 31. -/
def scopeTable (bs : List Byte) : Tab (BitVec 4096) :=
  (List.range 26).map fun i => (6 + i, BitVec.ofNat 4096 (natLE ((bs.drop (512 * i)).take 512)))

/-- The queues in use of a queue table (R180); none where an entry is no 64-byte-aligned user address. -/
def queueTable (bs : List Byte) : Option (Tab Nat) :=
  let es := (List.range 64).map fun i => (i, natLE ((bs.drop (8 * i)).take 8))
  let used := es.filter fun e => e.2 ≠ 0
  if used.all (fun e => vaAt e.2 64) then some used else none

/-- The scope table of a context read (R76), or what refuses it (log 45). -/
def State.readScopes (s : State) (asid : Nat) (x : Ctx) : State × Except Nat (Tab (BitVec 4096)) :=
  match s.unitRead 0 asid x x.scopetab 13312 with
  | (s, .ok bs) => (s, .ok (scopeTable bs))
  | (s, .error f) => (s, .error (256 * f.cause + f.detail))

/-- The queue table of a context read (R180), or what refuses it; its device launch queue must be in use and of KIND 1. -/
def State.readQueues (s : State) (asid : Nat) (x : Ctx) : State × Except Nat (Tab Nat) :=
  match s.unitRead 0 asid x x.qtab 512 with
  | (s, .error f) => (s, .error (256 * f.cause + f.detail))
  | (s, .ok bs) => match queueTable bs with
    | none => (s, .error 3)
    | some t => match tget t x.dlq with
      | none => (s, .error 3)
      | some hdr => match s.unitNat 0 asid x (hdr + 0x18) 8 with
        | (s, .error f) => (s, .error (256 * f.cause + f.detail))
        | (s, .ok conf) => (s, if bitsOf conf 5 3 = 1 then .ok t else .error 3)

/-- The header of the trap-frame area read (R378): frame slots and save slots; or what refuses it, where the header breaks
its layout or a part of the area is not mapped with RD and W. -/
def State.readFrames (s : State) (asid : Nat) (x : Ctx) : State × Except Nat (Nat × Nat) :=
  match s.unitRead 0 asid x x.trapfr 256 with
  | (s, .error f) => (s, .error (256 * f.cause + f.detail))
  | (s, .ok bs) =>
    let n := natLE bs
    let nf := bitsOf n 0 32
    let ns := bitsOf n 32 32
    if n / 2 ^ 64 ≠ 0 then (s, .error 2)
    else if nf = 0 ∨ 4095 < nf ∨ 4096 < ns then (s, .error 3)
    else
      let parts := [(x.trapfr, 256 * (nf + 1)), (x.trapfr + 0x100000, 0x80000 * ns)]
      parts.foldl (fun e p => match e.2 with
        | .error _ => e
        | .ok _ =>
          let a := e.1.unitCheck 0 asid x p.1 p.2 .read
          let b := a.1.unitCheck 0 asid x p.1 p.2 .write
          (b.1, match a.2, b.2 with
            | some f, _ => .error (256 * f.cause + f.detail)
            | _, some f => .error (256 * f.cause + f.detail)
            | none, none => e.2)) (s, .ok (nf, ns))

/-- The error of a source descriptor (Table 9-1, R211): reserved fields, then values and a ring that is not empty. -/
def sourceError (n : Nat) : Option Nat :=
  if bitsOf n 81 15 ≠ 0 ∨ bitsOf n 76 3 ≠ 0 ∨ bitsOf n 69 3 ≠ 0 ∨ bitsOf n 409 37 ≠ 0 ∨ field n 0x38 8 ≠ 0 then some 2
  else if ¬ vaAt (field n 0 8) 256 ∨ bitsOf n 72 4 < 5 ∨ 8 < bitsOf n 72 4 ∨ bitsOf n 64 5 < 4 ∨ 20 < bitsOf n 64 5 ∨
      field n 0x10 8 ≠ field n 0x18 8 then some 3
  else none

/-- A source as its descriptor starts it (Table 9-1, R410). -/
def Source.ofNat (n now : Nat) : Source :=
  { ring := field n 0 8, idlet := field n 0xC 4, swc := bitOf n 80, en := true, slotLog := bitsOf n 72 4
    nLog := bitsOf n 64 5, xen := bitOf n 408, xsrc := field n 0x32 1, xpeer := field n 0x30 2, wridx := field n 0x10 8
    rdidx := field n 0x18 8, swm := wmMin, lastact := now, state := .active }

/-- Whether a source is in use, its slot no larger than a limit. -/
def Ctx.sourceUpTo (x : Ctx) (i log : Nat) : Bool := match tget x.sources i with
  | none => false
  | some k => k.en && k.slotLog ≤ log

/-- A binding as its descriptor starts it (Table 9-2, R410). What TOOLATE, OVFCNT and DLDROP start at the spec does not say: 0, whatever
the descriptor holds (DESIGN CHOICE, log 89). -/
def Binding.ofNat (x : Ctx) (n : Nat) : Binding :=
  let f (off k : Nat) : Nat := field n off k
  let w := f 0x40 4
  let inputs : BitVec 256 := BitVec.ofNat 256 (f 0 32)
  let len : Int := (f 0x20 8 : Nat)
  { inputs := inputs, length := len, slide := if bitOf w 30 then ((f 0x28 8 : Nat) : Int) else len
    origin := i64 (f 0x30 8), lateness := ((f 0x38 8 : Nat) : Int), en := true, outen := bitOf w 29, dlen := bitOf w 28
    die := bitsOf w 24 3, outsrc := bitsOf w 8 8, dlsrc := bitsOf w 0 8, lbatch := f 0x44 4 % 4096, ltimer := f 0x48 4
    bincap := f 0x4C 4, bufpool := f 0x50 8, nbuf := f 0x59 1, bslot := f 0x58 1 % 16, wdesc := f 0x60 8
    result := f 0x68 8, resstr := f 0x70 4, firerec := f 0x78 8, amendrec := f 0x80 8, toolate := 0, ovfcnt := 0
    dldrop := 0, stagewm := wmMin, outwm := wmMin, windows := [], bufs := [], todo := []
    view := (x.sources.filter fun e => inputs.getLsbD e.1).map fun e => (e.1, (e.2.swm, e.2.state)) }

/-- The error of a binding descriptor (Table 9-2, R208, R211): reserved fields, then values. -/
def bindingError (x : Ctx) (n : Nat) : Option Nat :=
  let f (off k : Nat) : Nat := field n off k
  let w := f 0x40 4
  let b := Binding.ofNat x n
  let bad (on : Bool) (src : Nat) : Bool := on && (¬ x.sourceUpTo src 8 || b.inputs.getLsbD src)
  if bitOf w 27 ∨ bitsOf w 16 8 ≠ 0 ∨ f 0x44 4 / 2 ^ 12 ≠ 0 ∨ f 0x5A 6 ≠ 0 ∨ f 0x58 1 / 16 ≠ 0 ∨ f 0x74 4 ≠ 0 ∨
      f 0xB0 80 ≠ 0 then some 2
  else if b.inputs = 0 ∨ b.length < 1 ∨ 2 ^ 62 < b.length ∨ b.slide < 1 ∨ b.length < b.slide ∨ 16 * b.slide < b.length ∨
      2 ^ 62 < b.length + b.lateness ∨ b.lbatch = 0 ∨ b.bincap = 0 ∨ 2 ^ 20 < b.bincap ∨ ¬ vaAt b.bufpool 4096 ∨ b.nbuf = 0 ∨
      b.bslot < 5 ∨ 8 < b.bslot ∨ ¬ vaAt b.wdesc 4096 ∨ ¬ vaAt b.result 32 ∨ b.resstr < 32 ∨ 65536 < b.resstr ∨
      b.resstr % 32 ≠ 0 ∨ ¬ vaAt b.firerec 64 ∨ ¬ vaAt b.amendrec 64 ∨
      (bitList b.inputs 256).any (fun i => ¬ x.sourceUpTo i b.bslot) ∨ bad b.outen b.outsrc ∨ bad b.dlen b.dlsrc then some 3
  else none

/-- The status fields that a source's start changes, written into its descriptor, of which `n` are the bytes (R209, R410). -/
def State.sourceStarted (s : State) (asid i va n : Nat) : State :=
  match s.source asid i with
  | none => s
  | some (_, k) =>
    let s := s.putField asid (va + 0x20) (field n 0x20 8) (u64 k.swm)
    let s := s.putField asid (va + 0x28) (field n 0x28 8) k.lastact
    s.putField asid (va + 0x30) (field n 0x30 8) k.stateWord

/-- The status fields that a binding's start changes; OUTWM changes with the first output advance (Table 21-3). -/
def State.bindingStarted (s : State) (asid b va n : Nat) : State :=
  match s.binding asid b with
  | none => s
  | some (_, k) =>
    let s := s.putField asid (va + 0x88) (field n 0x88 8) k.toolate
    let s := s.putField asid (va + 0x90) (field n 0x90 8) k.ovfcnt
    let s := s.putField asid (va + 0x98) (field n 0x98 8) k.dldrop
    s.putField asid (va + 0xA0) (field n 0xA0 8) (u64 k.stagewm)

/-- One stream descriptor loaded (R209 to R211): index 0 to 255 a source, 256 to 319 a binding. One with EN clear is not in use
(log 55); a refused one stays disabled, the driver is notified of it, and the answer is false. A source that starts is ACTIVE at
the least watermark, which its bindings learn as a change (R215); the rings of a binding that has gone are free of it (R210). How the
stage minimum counts a source that is reloaded with EN clear while a binding reads it the spec does not say: the binding keeps the SWM and
STATE that it has taken up (DESIGN CHOICE, log 89). -/
def State.loadStream (s : State) (asid i : Nat) : State × Bool :=
  match tget s.ctxs asid with
  | none => (s, false)
  | some x =>
    let isSrc : Bool := i < 256
    let va := x.strtab + (if i < 256 then 64 * i else 0x4000 + 256 * (i - 256))
    let s := if isSrc then s.modCtx asid fun x => { x with sources := tdel x.sources i }
      else match tget x.bindings (i - 256) with
        | none => s
        | some b => (s.modCtx asid fun x => { x with bindings := tdel x.bindings (i - 256) }).freeRings asid b.inputs
    match s.unitNat 0 asid x va (if i < 256 then 64 else 256) with
    | (s, .error f) => (s.notify 2 (256 * f.cause + f.detail) asid 0 va, false)
    | (s, .ok n) =>
      let on : Bool := if isSrc then bitOf n 79 else bitOf n 543
      if ¬ on then (s, true) else
      match if isSrc then sourceError n else bindingError x n with
      | some e => (s.notify 2 e asid 0 va, false)
      | none =>
        if isSrc then
          (((s.modCtx asid fun x => { x with sources := tset x.sources i (Source.ofNat n s.etime) }).tell asid i
            (.change i wmMin .active)).sourceStarted asid i va n, true)
        else ((s.modCtx asid fun x => { x with bindings := tset x.bindings (i - 256) (Binding.ofNat x n) }).bindingStarted asid
          (i - 256) va n, true)

/-- Every stream descriptor of a new context loaded, sources first. -/
def State.loadStreams (s : State) (asid : Nat) (x : Ctx) : State :=
  if x.strtab = 0 then s else (List.range 320).foldl (fun s i => (s.loadStream asid i).1) s

/-- A context operation served (R393): a write of CTXOP while CTXSTAT is busy is ignored and sets result 3; else the result
of the operation is set. -/
def State.serve (s : State) (f : State → State × Nat) : State :=
  if s.host.busy then { s with host := { s.host with result := 3 } }
  else
    let r := f s
    { r.1 with host := { r.1.host with result := BitVec.ofNat 8 r.2 } }

/-- The live contexts (R20): one counts as live until its kill is complete. -/
def State.liveCount (s : State) : Nat := s.ctxs.length

/-- A context descriptor refused (R21, R180): result 1, and the driver is notified of it (log 55). -/
def State.refuseCtx (s : State) (asid detail : Nat) : State × Nat := (s.notify 2 detail asid 0 s.host.ctxaddr.toNat, 1)

/-- A context created from the descriptor at CTXADDR (R179, R180, R209, R378, R393): refused with result 1 where it breaks its
tables, or its ASID is in use, or a table cannot be read (log 55); no room with 64 contexts live. -/
def State.createCtx (s : State) : State × Nat :=
  let pa := s.host.ctxaddr.toNat
  if ¬ hasMemory pa then s.refuseCtx 0 3 else
  let d := s.homeNat pa 128
  let n := d.2
  let asid := bitsOf n 0 12
  match ctxError n with
  | some e => d.1.refuseCtx asid e
  | none =>
    if (tget s.ctxs asid).isSome then d.1.refuseCtx asid 3 else
    let x := Ctx.ofNat n
    match d.1.readScopes asid x with
    | (s, .error e) => s.refuseCtx asid e
    | (s, .ok scopes) => match s.readQueues asid x with
      | (s, .error e) => s.refuseCtx asid e
      | (s, .ok queues) => match s.readFrames asid x with
        | (s, .error e) => s.refuseCtx asid e
        | (s, .ok (nf, ns)) =>
          if Config.maxContexts ≤ s.liveCount then (s, 2) else
          let x := { x with scopes := scopes, queues := queues, nframe := nf, nsave := ns, frogDone := s.etime / x.frogIv }
          let s : State := { s with ctxs := tset s.ctxs asid x }
          (s.loadStreams asid x, 0)

/-- CTXOP_CREATE (R393 op 1). -/
def execCtxopCreate (s : State) : Res :=
  match s.input with
  | .command _ => .next (s.serve State.createCtx)
  | _ => .next s

/-- An operation on a live context; without one, and with one that is being killed, it is refused (log 55). -/
def State.onCtx (s : State) (c : Sys2Proof.CtxCmd) (f : State → Nat → Ctx → State × Nat) : State :=
  s.serve fun s => match tget s.ctxs c.asid.toNat with
    | none => (s, 1)
    | some x => if x.kill ≠ .live then (s, 1) else f s c.asid.toNat x

/-- CTXOP_RELOAD_SCOPE (R76, R393 op 2). -/
def execCtxopReloadScope (s : State) : Res :=
  match s.input with
  | .command c => .next <| s.onCtx c fun s asid x => match s.readScopes asid x with
      | (s, .error _) => (s, 1)
      | (s, .ok t) => (s.modCtx asid fun x => { x with scopes := t }, 0)
  | _ => .next s

/-- CTXOP_RELOAD_QUEUES (R180, R393 op 3). -/
def execCtxopReloadQueues (s : State) : Res :=
  match s.input with
  | .command c => .next <| s.onCtx c fun s asid x => match s.readQueues asid x with
      | (s, .error _) => (s, 1)
      | (s, .ok t) => (s.modCtx asid fun x => { x with queues := t }, 0)
  | _ => .next s

/-- CTXOP_RELOAD_STREAM (R209, R393 op 4): an index above 319, and a context without a stream table, set result 1. -/
def execCtxopReloadStream (s : State) : Res :=
  match s.input with
  | .command c => .next <| s.onCtx c fun s asid x =>
      if x.strtab = 0 ∨ 320 ≤ c.index.toNat then (s, 1) else
      let r := s.loadStream asid c.index.toNat
      (r.1, if r.2 then 0 else 1)
  | _ => .next s

/-- A core's path caches without what an ASID filled (Table 2-4). -/
def Core.dropAsid (c : Core) (asid : Nat) : Core :=
  let out (l : List CLine) : List CLine := l.filter fun e => e.asid ≠ asid
  { c with
    constC := out c.constC, smpC := out c.smpC, tileC := out c.tileC, instC := out c.instC
    descs := c.descs.filter fun d => d.asid ≠ asid }

/-- The receiving end of a channel without a frame for a context that waits. -/
def Recv.without (r : Recv) (asid : Nat) : Recv :=
  match r.wait with
  | none => r
  | some (h, _) => if h.asid = asid then { r with wait := none } else r

/-- A kill of a context (R206, R207, R224): its queues stop; its teams take the kill fault, which writes no frame, and its
groups and grids are discarded with every parked request, operation, creel slot, sweep, marker and stream; path caches
drop its lines (Table 2-4). Writes already performed at a home slice stay; what its stores left dirty in an L1, its issued stores,
and a received append that waits for room are never performed (log 60). -/
def State.killCtx (s : State) (asid : Nat) : State :=
  let gids := (s.groups.filter fun g => g.2.asid = asid).map Prod.fst
  let gone (r : Ref) : Bool := gids.contains r.gid
  let s := s.modCtx asid fun x => { x with
    kill := .killing s.etime, frames := [], saves := [], privUsed := [], parked := [], frogs := [], notices := [], noticeN := 0
    sweeps := [], resweep := false, sources := [], bindings := [], carried := [], ringBy := [], channels := [] }
  let out (l : List CLine) : List CLine := l.filter fun e => e.asid ≠ asid
  { s with
    defer := s.defer.filter fun e => e.asid ≠ asid
    cellReqs := s.cellReqs.filter fun e => e.asid ≠ asid
    ldfs := s.ldfs.filter fun l => ¬ gone l.2.path
    ops := s.ops.filter fun o => o.2.asid ≠ asid
    cancelled := s.cancelled.filter fun k => ¬ gone k.path
    issues := s.issues.filter fun e => e.asid ≠ asid
    hostData := s.hostData.filter fun e => ¬ gone e.path
    recv := tmap s.recv fun _ r => r.without asid
    cores := tmap s.cores fun _ c =>
      { ((c.dropAsid asid).dropDirty gids) with active := c.active.filter fun t => ¬ gids.contains t.gid }
    cells := tmap s.cells fun _ c => { c with instC := out c.instC, creel := c.creel.filter fun t => t.2.asid ≠ asid }
    grids := s.grids.filter fun d => d.2.asid ≠ asid
    gangs := s.gangs.filter fun k => ¬ s.groups.any fun g => g.2.asid = asid && g.2.gang = k.1
    groups := s.groups.filter fun g => g.2.asid ≠ asid
    engines := s.engines.filter fun e => e.1 / 256 ≠ asid
    hostReqs := s.hostReqs.map fun r => if gone r.path then { r with live := false } else r }

/-- CTXOP_KILL (R206, R393 op 5). -/
def execCtxopKill (s : State) : Res :=
  match s.input with
  | .command c => .next <| s.onCtx c fun s asid _ => (s.killCtx asid, 0)
  | _ => .next s

/-- The end of a kill (R206): the context is gone, and the driver is told. -/
def State.killDone (s : State) (asid : Nat) : State := ({ s with ctxs := tdel s.ctxs asid } : State).notify 4 0 asid 0 0

/-- KILL_COMPLETE (R206): every engine has acknowledged its quiescence. -/
def execKillComplete (s : State) : Res :=
  match s.input with
  | .one asid => .next <| match tget s.ctxs asid with
    | none => s
    | some x => match x.kill with
      | .live => s
      | .killing _ => s.killDone asid
  | _ => .next s

/-- Whether a team waits for the driver's answer under a token. -/
def Team.waitsFor (t : Team) (token : Nat) : Bool := match t.trap with
  | none => false
  | some tr => match tr.phase with
    | .driver k => k % 65536 = token
    | _ => false

/-- The team that waits for the driver's answer under a token (R376, R393). -/
def State.faultOf (s : State) (token : Nat) : Option (Group × TRef) :=
  s.groups.findSome? fun g => (g.2.teams.find? fun t => t.2.waitsFor token).map fun t => (g.2, { gid := g.1, role := t.1 })

/-- The answer to a fault whose token is given (R376); a token that no fault has is refused. -/
def State.answer (s : State) (c : Sys2Proof.CtxCmd) (f : State → Group → TRef → Trap → State) : State :=
  s.serve fun s => match s.faultOf c.index.toNat with
    | none => (s, 1)
    | some (g, t) => match tget g.teams t.role with
      | none => (s, 1)
      | some k => match k.trap with
        | none => (s, 1)
        | some tr => (f s g t tr, 0)

/-- CTXOP_RESUME (R393 op 6): the path goes on at the faulting instruction; a team saved meanwhile goes on when its group
resumes. -/
def execCtxopResume (s : State) : Res :=
  match s.input with
  | .command c => .next <| s.answer c fun s g t tr =>
      match s.at { gid := t.gid, role := t.role, slot := tr.slot } with
      | none => s
      | some k =>
        if g.place = .resident then s.resumeTrap k.r tr k.p.pc k.p.clause false
        else s.modTeam t.gid t.role fun t => { t with trap := none }
  | _ => .next s

/-- CTXOP_DELIVER (R393 op 7, R377): to the context's handler; without one the grid is terminated (R376). -/
def execCtxopDeliver (s : State) : Res :=
  match s.input with
  | .command c => .next <| s.answer c fun s g t tr =>
      match tget s.ctxs g.asid with
      | none => s
      | some x =>
        if x.traph = 0 then s.terminateGrid g.grid g.index (256 * tr.cause + tr.detail)
        else
          let s := s.modTeam t.gid t.role fun t => { t with trap := some { tr with phase := .frame } }
          if g.place = .resident then s.deliver t.gid t.role else s
  | _ => .next s

/-- CTXOP_TERMINATE (R393 op 8, R379). -/
def execCtxopTerminate (s : State) : Res :=
  match s.input with
  | .command c => .next <| s.answer c fun s g _ tr => s.terminateGrid g.grid g.index (256 * tr.cause + tr.detail)
  | _ => .next s

/-- CTXOP_SET_TRANSPORT_RING (R393 op 9): a ring header is 64-byte aligned (R396); an address that is none is refused
(log 55). -/
def execCtxopSetTransportRing (s : State) : Res :=
  match s.input with
  | .command c => .next <| s.onCtx c fun s asid _ =>
      let va := s.host.ctxaddr.toNat
      if vaAt va 64 then (s.modCtx asid fun x => { x with ring := some va }, 0) else (s, 1)
  | _ => .next s

/-- CTXOP_INVALIDATE (R23, R393 op 10): CTXSTAT stays busy until no access translated with an old entry is outstanding, and
result 0 is set then. -/
def execCtxopInvalidate (s : State) : Res :=
  match s.input with
  | .command c =>
    let k := c.index.toNat
    let va := s.host.ctxaddr.toNat
    let kind : InvKind := if k = 0 then .all else if k = 1 then .asid c.asid.toNat else if k = 2 then .page c.asid.toNat va else .gpage va
    .next <|
      if s.host.busy ∨ 4 ≤ k then s.serve fun s => (s, 1)
      else
        let t := s.invalidate23 kind .host
        State.invalsDone { t with host := { t.host with busy := true } }
  | _ => .next s

/-- CTXOP_UNDEFINED (R393): op 0 and ops 11 to 15. -/
def execCtxopUndefined (s : State) : Res :=
  match s.input with
  | .command _ => .next (s.serve fun s => (s, 1))
  | _ => .next s

/-- NTFBASE_WRITE (R394): bits 51:16 and EN are kept; held notifications are written once the ring is in use. -/
def execNtfbaseWrite (s : State) : Res :=
  match s.input with
  | .reg off v => .next <|
    if off ≠ 0x200 then s else
    State.flushNotes s.held.length { s with host := { s.host with ntfbase := v &&& 0x000FFFFFFFFF0001#64 } }
  | _ => .next s

/-- NTFTAIL_WRITE (R394). -/
def execNtftailWrite (s : State) : Res :=
  match s.input with
  | .reg off v => .next <|
    if off ≠ 0x210 then s else
    State.flushNotes s.held.length { s with host := { s.host with ntftail := v.toNat } }
  | _ => .next s

/-- PWRCAP_WRITE (R392, R401): 0, or a value clamped to 1,000 to 4,000. -/
def execPwrcapWrite (s : State) : Res :=
  match s.input with
  | .reg off v => .next <|
    if off ≠ 0x300 then s else
    { s with host := { s.host with pwrcap := if v = 0 then 0 else BitVec.ofNat 64 (min 4000 (max 1000 v.toNat)) } }
  | _ => .next s

/-- Target of a host window slice (Table 1-10). -/
def sliceTarget (v : BitVec 64) : Nat := bitsOf v.toNat 30 22 * 2 ^ 30

/-- HWSL_WRITE (R36): a TARGET outside device memory leaves EN clear; reserved bits are 0. -/
def execHwslWrite (s : State) : Res :=
  match s.input with
  | .reg off v => .next <|
    if off < 0x20000 ∨ 0x20200 ≤ off ∨ off % 8 ≠ 0 then s else
    let v := v &&& 0x000FFFFFC0000003#64
    let v := if isDeviceMem (sliceTarget v) then v else v &&& ~~~ 1#64
    { s with host := { s.host with hwsl := tset s.host.hwsl ((off - 0x20000) / 8) v } }
  | _ => .next s

/-- What a BAR0 register reads as (Table 18-1); one that is written only, or none, as the module answers, which the spec does not
say. -/
def State.readRegister (s : State) (off : Nat) : BitVec 64 :=
  let h := s.host
  if off = 0 then Config.ident
  else if off = 0x110 then BitVec.ofNat 64 ((if h.busy then 1 else 0) + 256 * h.result.toNat)
  else if off = 0x200 then h.ntfbase
  else if off = 0x208 then BitVec.ofNat 64 h.ntfhead
  else if off = 0x210 then BitVec.ofNat 64 h.ntftail
  else if off = 0x300 then h.pwrcap
  else if 0x20000 ≤ off ∧ off < 0x20200 ∧ off % 8 = 0 then (tget h.hwsl ((off - 0x20000) / 8)).getD 0
  else if off = 0x20200 then h.hwdrop
  else if 0x100000 ≤ off ∧ off < 0x200000 ∧ off % 16 = 0 then (tget h.peers ((off - 0x100000) / 16)).getD 0
  else Config.registerRead off

/-- REGISTER_WRITE (Table 18-1): CTXADDR and PEERn; a write of a register that is read only, or of none, has no effect. A read of
a register, for which the opcode table has no step of its own, is answered by this one. -/
def execRegisterWrite (s : State) : Res :=
  match s.input with
  | .reg off v => .next <|
    if off = 0x100 then { s with host := { s.host with ctxaddr := v } }
    else if 0x100000 ≤ off ∧ off < 0x200000 ∧ off % 16 = 0 then
      { s with host := { s.host with
        peers := tset s.host.peers ((off - 0x100000) / 16) (v &&& 0x800FFFFFFFFFFFFF#64) } }
    else s
  | .regRead off => .next { s with out := s.out ++ [Out.completion (bytesLE 8 (s.readRegister off).toNat)] }
  | _ => .next s

/-- The slice register that maps a window offset, and the physical address (R36); none outside the window. -/
def State.windowAt (s : State) (off : Nat) : Option (BitVec 64 × Nat) :=
  if off < 2 ^ 36 then
    let v := (tget s.host.hwsl (off / 2 ^ 30)).getD 0
    some (v, sliceTarget v + off % 2 ^ 30)
  else none

/-- HOST_WINDOW_READ (R37): performed at the home slice, or Unsupported Request from a disabled slice. -/
def execHostWindowRead (s : State) : Res :=
  match s.input with
  | .two off n => .next <| match s.windowAt off with
    | none => s
    | some (v, pa) =>
      if v.getLsbD 0 then
        let r := s.homeRead pa n
        { r.1 with out := r.1.out ++ [Out.completion r.2] }
      else { s with out := s.out ++ [Out.unsupported] }
  | _ => .next s

/-- HOST_WINDOW_WRITE (R37, R38): performed at home slices once earlier posted writes are visible everywhere; a write of a
disabled slice, or of one without WE, is dropped and counted. -/
def execHostWindowWrite (s : State) : Res :=
  match s.input with
  | .hostWrite off bytes => .next <| match s.windowAt off with
    | none => s
    | some (v, pa) =>
      if v.getLsbD 0 ∧ v.getLsbD 1 then s.deliverInv.homeWrite .outside pa bytes
      else { s with host := { s.host with hwdrop := s.host.hwdrop + 1 } }
  | _ => .next s

/-- HOST_WINDOW_ATOMIC (R392): an RMW at the home slice at system scope. A slice that is disabled or without WE, and a
misaligned address, answer Unsupported Request (log 56). -/
def execHostWindowAtomic (s : State) : Res :=
  match s.input with
  | .hostAtomic off op wide a b => .next <| match s.windowAt off with
    | none => s
    | some (v, pa) =>
      let n : Nat := if wide then 8 else 4
      if ¬ v.getLsbD 0 ∨ ¬ v.getLsbD 1 ∨ pa % n ≠ 0 then { s with out := s.out ++ [Out.unsupported] }
      else
        let m := 2 ^ (8 * n)
        let r := s.deliverInv.homeNat pa n
        let s := r.1.homeWrite .outside pa (bytesLE n (BusOp.apply op r.2 (a.toNat % m) (b.toNat % m)))
        { s with out := s.out ++ [Out.completion (bytesLE n r.2)] }
  | _ => .next s

end Sys2Proof.Machine
end

