-- ==== Sys2Proof/Machine/Logic.lean ====
section
/-! DEFINITION. Logic, shifts, bit counts, fields, moves and compares: majors 0x04, 0x05, 0x07, 0x08, 0x0A to 0x0D, 0x0F (13 R286
to R289). -/

namespace Sys2Proof.Machine

/-- AND (Table 13-5). -/
def execAndV (o : OpG) (s : State) : Res :=
  s.issue (.andV o) fun c => s.v3 c o.d o.a o.b fun a b => a &&& b

/-- OR (Table 13-5). -/
def execOrV (o : OpG) (s : State) : Res :=
  s.issue (.orV o) fun c => s.v3 c o.d o.a o.b fun a b => a ||| b

/-- XOR (Table 13-5). -/
def execXorV (o : OpG) (s : State) : Res :=
  s.issue (.xorV o) fun c => s.v3 c o.d o.a o.b fun a b => a ^^^ b

/-- ANDN (Table 13-5). -/
def execAndn (o : OpG) (s : State) : Res :=
  s.issue (.andn o) fun c => s.v3 c o.d o.a o.b fun a b => a &&& ~~~ b

/-- ORN (Table 13-5). -/
def execOrn (o : OpG) (s : State) : Res :=
  s.issue (.orn o) fun c => s.v3 c o.d o.a o.b fun a b => a ||| ~~~ b

/-- XNOR (Table 13-5). -/
def execXnor (o : OpG) (s : State) : Res :=
  s.issue (.xnor o) fun c => s.v3 c o.d o.a o.b fun a b => ~~~ (a ^^^ b)

/-- SHL: a count of 32 or more gives 0. -/
def execShl (o : OpG) (s : State) : Res :=
  s.issue (.shl o) fun c => s.v3 c o.d o.a o.b fun a b => shlW a b.toNat

/-- SHR: a count of 32 or more gives 0. -/
def execShr (o : OpG) (s : State) : Res :=
  s.issue (.shr o) fun c => s.v3 c o.d o.a o.b fun a b => shrW a b.toNat

/-- SAR: a count of 32 or more gives copies of bit 31. -/
def execSar (o : OpG) (s : State) : Res :=
  s.issue (.sar o) fun c => s.v3 c o.d o.a o.b fun a b => sarW a b.toNat

/-- ROL: rotates by b mod 32. -/
def execRol (o : OpG) (s : State) : Res :=
  s.issue (.rol o) fun c => s.v3 c o.d o.a o.b fun a b => rolW a b.toNat

/-- ROR: rotates by b mod 32. -/
def execRor (o : OpG) (s : State) : Res :=
  s.issue (.ror o) fun c => s.v3 c o.d o.a o.b fun a b => rolW a (32 - b.toNat % 32)

/-- SHL64: a count of 64 or more gives 0. -/
def execShl64 (o : OpG) (s : State) : Res :=
  s.issue (.shl64 o) fun c => s.w2v c o.d o.a o.b fun a b => shlW a b.toNat

/-- SHR64. -/
def execShr64 (o : OpG) (s : State) : Res :=
  s.issue (.shr64 o) fun c => s.w2v c o.d o.a o.b fun a b => shrW a b.toNat

/-- SAR64: a count of 64 or more gives copies of bit 63. -/
def execSar64 (o : OpG) (s : State) : Res :=
  s.issue (.sar64 o) fun c => s.w2v c o.d o.a o.b fun a b => sarW a b.toNat

/-- POPC: number of one bits. -/
def execPopc (o : OpU) (s : State) : Res :=
  s.issue (.popc o) fun c => s.v2 c o.d o.a fun a => word (popCount a)

/-- CLZ: zero bits above the highest one bit; 32 for zero. -/
def execClz (o : OpU) (s : State) : Res :=
  s.issue (.clz o) fun c => s.v2 c o.d o.a fun a => word (leadingZeros a)

/-- CTZ: zero bits below the lowest one bit; 32 for zero. -/
def execCtz (o : OpU) (s : State) : Res :=
  s.issue (.ctz o) fun c => s.v2 c o.d o.a fun a => word (trailingZeros a)

/-- BREV: bit i of d is bit 31 − i of a. -/
def execBrev (o : OpU) (s : State) : Res :=
  s.issue (.brev o) fun c => s.v2 c o.d o.a fun a => bitReverse a

/-- BSWAP: byte i of d is byte 3 − i of a. -/
def execBswap (o : OpU) (s : State) : Res :=
  s.issue (.bswap o) fun c => s.v2 c o.d o.a fun a => byteReverse a

/-- NOT. -/
def execNotV (o : OpU) (s : State) : Res :=
  s.issue (.notV o) fun c => s.v2 c o.d o.a fun a => ~~~ a

/-- BFE.i32 (R287): the field of LEN1 + 1 bits from POS, sign-extended. -/
def execBfeI32 (o : OpG) (x : XBf) (s : State) : Res :=
  s.issue (.bfeI32 o x) fun c => s.v2 c o.d o.a fun a =>
    sarW ((a >>> x.pos.toNat) <<< (31 - x.len.toNat)) (31 - x.len.toNat)

/-- BFE.n32: the field, zero-extended. -/
def execBfeN32 (o : OpG) (x : XBf) (s : State) : Res :=
  s.issue (.bfeN32 o x) fun c => s.v2 c o.d o.a fun a => (a >>> x.pos.toNat) &&& fieldMask (x.len.toNat + 1)

/-- BFI: the low bits of a inserted into a field of D. -/
def execBfi (o : OpG) (x : XBf) (s : State) : Res :=
  s.issue (.bfi o x) fun c => s.v4 c o.d o.a 0 fun a _ d =>
    let m := fieldMask (x.len.toNat + 1)
    (d &&& ~~~ (m <<< x.pos.toNat)) ||| ((a &&& m) <<< x.pos.toNat)

/-- MOV (R288): d := a. -/
def execMov (o : OpU) (s : State) : Res :=
  s.issue (.mov o) fun c => s.v2 c o.d o.a fun a => a

/-- MOVK: d := the literal of word 1. -/
def execMovk (o : OpG) (x : XLit) (s : State) : Res :=
  s.issue (.movk o x) fun c => s.v2 c o.d 0 fun _ => x.xl

/-- MOVK.w: pair d := the literal, sign-extended. -/
def execMovkW (o : OpG) (x : XLit) (s : State) : Res :=
  s.issue (.movkW o x) fun c => s.lanewise c fun _ l => l.setV2 o.d.toNat (x.xl.signExtend 64)

/-- ICMP.i32 (R289): the signed comparison under CC, into PD. -/
def execIcmpI32 (o : OpC) (s : State) : Res :=
  s.issue (.icmpI32 o) fun c => s.toP c o.d fun l => icond o.cc (compare (l.getV o.a.toNat).toInt (l.getV o.b.toNat).toInt)

/-- ICMP.n32: the unsigned comparison. -/
def execIcmpN32 (o : OpC) (s : State) : Res :=
  s.issue (.icmpN32 o) fun c => s.toP c o.d fun l => icond o.cc (compare (l.getV o.a.toNat).toNat (l.getV o.b.toNat).toNat)

/-- SEL (R288): d := a where predicate PSEL is true, b elsewhere. -/
def execSel (o : OpG) (x : XSel) (s : State) : Res :=
  s.issue (.sel o x) fun c => s.lanewise c fun _ l => l.setV o.d.toNat (if l.getP x.psel.toNat then l.getV o.a.toNat else l.getV o.b.toNat)

end Sys2Proof.Machine
end

