-- ==== Sys2Proof/Machine/Matrix.lean ====
section
/-! DEFINITION. Register-to-register matrix instructions: majors 0x30 and 0x34 to 0x38 (14 R316 to R318, R322 to
R327). -/

namespace Sys2Proof.Machine

/-- MSHAPE, immediate form (R316): the shape is checked even with no active lane (R313). -/
def execMshapeImm (o : OpG) (x : XMat) (s : State) : Res :=
  s.issue (.mshapeImm o x) fun c => 
    let r := x.nr.toNat + 1
    let k := x.nc.toNat + 1
    if ¬ shapeFits c.t.mregs o.d.toNat r k x.ty.toNat then s.takeTrap c.r 8 0 0 0 false
    else s.matrix c fun l =>
      if oddOfPair l o.d.toNat then none else some (LaneOut.slots (l.retag o.d.toNat r k x.ty.toNat))

/-- MSHAPE, per-lane form (R316): bits 15:0 of va as a tag, its P computed. -/
def execMshapeLane (o : OpG) (x : XMat) (s : State) : Res :=
  s.issue (.mshapeLane o x) fun c => s.matrix c fun l =>
    let v := l.getV o.a.toNat
    let t : BitVec 16 := v.extractLsb' 0 16
    if oddOfPair l o.d.toNat then none
    else if ¬ tagV t then
      let a := l.getM o.d.toNat
      let b := l.getM (o.d.toNat + 1)
      some (LaneOut.slots ((o.d.toNat, { a with tag := 0 }) ::
        (if tagP a.tag then [(o.d.toNat + 1, { b with tag := 0 })] else [])))
    else if allTypes.contains (tagTy t) ∧ shapeFits c.t.mregs o.d.toNat (tagR t) (tagC t) (tagTy t) then
      some (LaneOut.slots (l.retag o.d.toNat (tagR t) (tagC t) (tagTy t)))
    else none

/-- A multiply form (R322): op(A) · op(B) + acc, written to D. -/
def State.multiply (s : State) (c : Cur) (o : OpG) (x : XMat) (ta tb : Bool) (acc : Bool) : State :=
  s.matrixTo c o.d fun l =>
    (l.mat c.t.mregs o.a.toNat x.ty).bind fun a => (l.matAny c.t.mregs o.b.toNat).bind fun b =>
      let a := if ta then a.trans else a
      let b := if tb then b.trans else b
      if acc then (l.matAny c.t.mregs x.c.toNat).bind fun z => matMul a b (some z) else matMul a b none

/-- An element-wise form on two operands of one type and one shape (R323). -/
def State.elementwise (s : State) (c : Cur) (o : OpG) (x : XMat) (f : Nat → Nat → Nat → Nat) : State :=
  s.matrixTo c o.d fun l =>
    (l.mat c.t.mregs o.a.toNat x.ty).bind fun a => (l.matAny c.t.mregs o.b.toNat).bind fun b =>
      if a.r = b.r ∧ a.c = b.c ∧ a.ty = b.ty then
        some { a with el := (a.el.zip b.el).map fun e => f a.ty e.1 e.2 }
      else none

/-- The places of the slice of an operand, under TYPE (R163, R312). -/
def sliceOf (p : Path) (x : XMat) (m : Mat) : Option (List Nat) := slicePlaces m.r m.c x.slc.toNat (sliceIndex p x)

/-- A factorisation (R324): D and a true predicate where it completes, a false predicate where it fails; MXSTAT counts
the failing lanes that are no helpers; with MXTRAP the path waits for it, and a failure is a matrix trap. -/
def State.factor (s : State) (c : Cur) (o : OpG) (x : XMat) (kind : Nat) (f : Fmt → Nat → Arr → Option Arr) : State :=
  let act := c.act s.guard
  let lane (l : Lane) : Option LaneOut := (l.square c.t.mregs o.a.toNat x.ty).bind fun fa =>
    if ¬ shapeFits c.t.mregs o.d.toNat fa.2.r fa.2.c fa.2.ty ∨ oddOfPair l o.d.toNat then none
    else match f fa.1 fa.2.r fa.2.arr with
      | none => some { m := [], v := [], p := [(o.b.toNat, false)], fail := true }
      | some w => (l.matWrite c.t.mregs o.d.toNat (fa.2.ofArr w)).map fun m =>
          { m := m, v := [], p := [(o.b.toNat, true)], fail := false }
  let outs := act.filterMap fun l => (lane (c.t.lane l)).map fun e => (l, e)
  let bad := act.filter fun l => (lane (c.t.lane l)).isNone
  let fails := (outs.filter fun e => e.2.fail && ¬ c.t.helper e.1).map Prod.fst
  if ¬ bad.isEmpty then s.takeTrap c.r 8 0 0 (laneSet bad) false
  else
    let start := s.fresh
    let s := s.landOuts c.r c.p.clauseId outs
    let s := if fails.isEmpty then s else s.land c.r.gid c.r.role c.p.clauseId (.mx fails.length kind)
    if c.t.mxtrap then
      let s := s.landIf c.r.gid c.r.role fun l => start ≤ l.id
      if fails.isEmpty then s.advance c.r else s.takeTrap c.r 9 kind 0 (laneSet fails) true
    else s.advance c.r

/-- A triangular solve (R325). -/
def State.solve (s : State) (c : Cur) (o : OpG) (x : XMat) (upper : Bool) : State :=
  s.matrixTo c o.d fun l =>
    (l.square c.t.mregs o.a.toNat x.ty).bind fun t => (l.matAny c.t.mregs o.b.toNat).bind fun b =>
      if b.r = t.2.r ∧ b.ty = t.2.ty then
        some (b.ofArr (solveArr t.1 b.r b.c upper (x.ix.getLsbD 0) t.2.arr b.arr))
      else none

/-- MMUL (Table 14-4). -/
def execMmul (o : OpG) (x : XMat) (s : State) : Res :=
  s.issue (.mmul o x) fun c => s.multiply c o x false false false

/-- MMA (Table 14-4). -/
def execMma (o : OpG) (x : XMat) (s : State) : Res :=
  s.issue (.mma o x) fun c => s.multiply c o x false false true

/-- MMAT (Table 14-4). -/
def execMmat (o : OpG) (x : XMat) (s : State) : Res :=
  s.issue (.mmat o x) fun c => s.multiply c o x true false true

/-- MMAB (Table 14-4). -/
def execMmab (o : OpG) (x : XMat) (s : State) : Res :=
  s.issue (.mmab o x) fun c => s.multiply c o x false true true

/-- MADD (Table 14-6). -/
def execMadd (o : OpG) (x : XMat) (s : State) : Res :=
  s.issue (.madd o x) fun c => s.elementwise c o x elemAdd

/-- MSUB (Table 14-6). -/
def execMsub (o : OpG) (x : XMat) (s : State) : Res :=
  s.issue (.msub o x) fun c => s.elementwise c o x elemSub

/-- MHAD (Table 14-6). -/
def execMhad (o : OpG) (x : XMat) (s : State) : Res :=
  s.issue (.mhad o x) fun c => s.elementwise c o x elemMul

/-- MMAX (Table 14-6). -/
def execMmax (o : OpG) (x : XMat) (s : State) : Res :=
  s.issue (.mmax o x) fun c => s.elementwise c o x elemMax

/-- MSCAL (Table 14-6): the elements of A, or of a slice of it, scaled by vb. -/
def execMscal (o : OpG) (x : XMat) (s : State) : Res :=
  s.issue (.mscal o x) fun c => s.matrixTo c o.d fun l =>
    (l.mat c.t.mregs o.a.toNat x.ty).bind fun a => (sliceOf c.p x a).map fun ks =>
      let v := if a.ty = 4 then (l.getV2 o.b.toNat).toNat else (l.getV o.b.toNat).toNat
      let el := (List.range a.el.length).map fun k =>
        if ks.contains k then elemScale a.ty v ((a.el[k]?).getD 0) else (a.el[k]?).getD 0
      { a with el := el }

/-- MEXP2 (Table 14-6): on f32, f16 and bf16. -/
def execMexp2 (o : OpG) (x : XMat) (s : State) : Res :=
  s.issue (.mexp2 o x) fun c => s.matrixTo c o.d fun l =>
    (l.mat c.t.mregs o.a.toNat x.ty).bind fun a =>
      if a.ty = 1 ∨ a.ty = 2 ∨ a.ty = 3 then
        (fmtOf a.ty).map fun f => { a with el := a.el.map fun e => (fnExp2In f false e).bits }
      else none

/-- MZERO (Table 14-3); a lane faults only where D is the odd register of a pair (R161, R313). -/
def execMzero (o : OpG) (x : XMat) (s : State) : Res :=
  s.issue (.mzero o x) fun c => s.matrix c fun l =>
    let a := l.getM o.d.toNat
    let b := l.getM (o.d.toNat + 1)
    if oddOfPair l o.d.toNat then none
    else some (LaneOut.slots ((o.d.toNat, { a with data := 0 }) ::
      (if tagP a.tag ∧ o.d.toNat % 2 = 0 then [(o.d.toNat + 1, { b with data := 0 })] else [])))

/-- MCVT (Table 14-6): Convert under RNE without flags; IX bit 1 must say whether A holds f64. -/
def execMcvt (o : OpG) (x : XMat) (s : State) : Res :=
  s.issue (.mcvt o x) fun c => s.matrixTo c o.d fun l =>
    (l.matAny c.t.mregs o.a.toNat).bind fun a =>
      if decide (a.ty = 4) ≠ x.ix.getLsbD 1 then none
      else
        let el := a.el.map fun e => (convert a.ty x.ty.toNat (x.ix.getLsbD 0) 0 false e).bits
        some { a with ty := x.ty.toNat, el := el }

/-- MTRN (Table 14-3). -/
def execMtrn (o : OpG) (x : XMat) (s : State) : Res :=
  s.issue (.mtrn o x) fun c => s.matrixTo c o.d fun l => (l.mat c.t.mregs o.a.toNat x.ty).map Mat.trans

/-- MMOV (Table 14-3): a slice becomes a 1 × len matrix. -/
def execMmov (o : OpG) (x : XMat) (s : State) : Res :=
  s.issue (.mmov o x) fun c => s.matrixTo c o.d fun l =>
    (l.mat c.t.mregs o.a.toNat x.ty).bind fun a => (sliceOf c.p x a).map fun ks =>
      if x.slc = 0 then a
      else
        let el := ks.map fun k => (a.el[k]?).getD 0
        { a with r := 1, c := ks.length, el := el }

/-- MGET (Table 14-3). -/
def execMget (o : OpG) (x : XMat) (s : State) : Res :=
  s.issue (.mget o x) fun c => s.matrix c fun l =>
    (l.mat c.t.mregs o.a.toNat x.ty).bind fun a => (sliceOf c.p x a).bind fun ks =>
      (ks[(l.getV o.b.toNat).toNat]?).map fun k => LaneOut.regs (elemToV l o.d.toNat a.ty ((a.el[k]?).getD 0))

/-- MPUT (Table 14-3): D keeps its tag and its other bytes. -/
def execMput (o : OpG) (x : XMat) (s : State) : Res :=
  s.issue (.mput o x) fun c => s.matrix c fun l =>
    (l.mat c.t.mregs o.d.toNat x.ty).bind fun a => (sliceOf c.p x a).bind fun ks =>
      (ks[(l.getV o.b.toNat).toNat]?).map fun k =>
        let v := if a.ty = 4 then (l.getV2 o.a.toNat).toNat else (l.getV o.a.toNat).toNat
        LaneOut.slots (l.matPatch o.d.toNat (typeBytes a.ty) [(k, v)])

/-- MRED (R318): B 0 ADD, 1 MAX, 2 MIN. -/
def execMred (o : OpG) (x : XMat) (s : State) : Res :=
  s.issue (.mred o x) fun c => s.matrix c fun l =>
    (l.mat c.t.mregs o.a.toNat x.ty).bind fun a => (sliceOf c.p x a).map fun ks =>
      LaneOut.regs (elemToV l o.d.toNat (redType a.ty)
        (reduceElems o.b.toNat a.ty (ks.map fun k => (a.el[k]?).getD 0)))

/-- MSHGET (Table 14-3); a lane faults only where A is the odd register of a pair (R161, R313). -/
def execMshget (o : OpG) (x : XMat) (s : State) : Res :=
  s.issue (.mshget o x) fun c => s.matrix c fun l =>
    if oddOfPair l o.a.toNat then none else some (LaneOut.regs [(o.d.toNat, (l.getM o.a.toNat).tag.setWidth 32)])

/-- MINV (R324). -/
def execMinv (o : OpG) (x : XMat) (s : State) : Res :=
  s.issue (.minv o x) fun c => s.factor c o x 0 minvArr

/-- MLU (R324). -/
def execMlu (o : OpG) (x : XMat) (s : State) : Res :=
  s.issue (.mlu o x) fun c => s.factor c o x 1 mluArr

/-- MCHOL (R324). -/
def execMchol (o : OpG) (x : XMat) (s : State) : Res :=
  s.issue (.mchol o x) fun c => s.factor c o x 2 mcholArr

/-- MSOLVL (R325). -/
def execMsolvl (o : OpG) (x : XMat) (s : State) : Res :=
  s.issue (.msolvl o x) fun c => s.solve c o x false

/-- MSOLVU (R325). -/
def execMsolvu (o : OpG) (x : XMat) (s : State) : Res :=
  s.issue (.msolvu o x) fun c => s.solve c o x true

/-- MPOW (R326): A to bits 7:0 of s[N]. -/
def execMpow (o : OpG) (x : XMat) (s : State) : Res :=
  s.issue (.mpow o x) fun c => s.matrixTo c o.d fun l =>
    (l.square c.t.mregs o.a.toNat x.ty).map fun a =>
      a.2.ofArr ((powArr a.1 a.2.r ((c.p.getS x.sx.toNat).toNat % 256) 8 none a.2.arr).getD (identArr a.1 a.2.r))

/-- MDET (R326). -/
def execMdet (o : OpG) (x : XMat) (s : State) : Res :=
  s.issue (.mdet o x) fun c => s.matrix c fun l =>
    (l.square c.t.mregs o.a.toNat x.ty).map fun a =>
      LaneOut.regs (elemToV l o.d.toNat a.2.ty (detArr a.1 a.2.r (List.range a.2.r) a.2.arr none 0))

/-- The tag of a top-k list (R327): valid, 8 × 4, i32. -/
def topkTag : BitVec 16 := 0xBB0B

/-- Score and index of an entry. -/
def topkEntry (d : BitVec 1024) (e : Nat) : Nat × Nat :=
  ((d.extractLsb' (64 * e) 32).toNat, (d.extractLsb' (64 * e + 32) 32).toNat)

/-- The capacity that the bytes hold (R327). -/
def topkCap (d : BitVec 1024) : Nat :=
  ((List.range 16).find? fun e => (topkEntry d e).1 = 0xFFFFFFFF).getD 16

/-- The count that the bytes hold. -/
def topkCount (d : BitVec 1024) : Nat :=
  ((List.range (topkCap d)).find? fun e => (f32.unpack (topkEntry d e).1).isNaN).getD (topkCap d)

/-- The bytes of a list with capacity k and the given entries; free entries hold the free marker, closed ones the
closed marker. -/
def topkData (k : Nat) (es : List (Nat × Nat)) : BitVec 1024 :=
  (List.range 16).foldl (fun d e =>
    let x : Nat × Nat := if k ≤ e then (0xFFFFFFFF, 0xFFFFFFFF) else (es[e]?).getD (0x7FC00000, 0xFFFFFFFF)
    d ||| (BitVec.ofNat 1024 (x.1 + 2 ^ 32 * x.2) <<< (64 * e))) 0

/-- Whether score a is at least score b, as numbers (R243). -/
def scoreGe (a b : Nat) : Bool :=
  match (f32.unpack a).cmp (f32.unpack b) with
  | some .lt => false
  | none => false
  | _ => true

/-- TOPK.INS on the bytes of a list (R243, R327): a NaN is never inserted; equal scores stay ahead; a full list drops its
last entry; entries from the new count up to the capacity hold the free marker afterwards. -/
def topkInsert (d : BitVec 1024) (score idx : Nat) : BitVec 1024 :=
  let k := topkCap d
  let es := (List.range (topkCount d)).map (topkEntry d)
  let i := (es.filter fun e => scoreGe e.1 score).length
  let w := if (f32.unpack score).isNaN then es else (es.take i ++ [(score, idx)] ++ es.drop i).take k
  -- closed entries keep their bytes
  let m : BitVec 1024 := maskBits 1024 0 (64 * k)
  (d &&& ~~~ m) ||| (topkData k w &&& m)

/-- TOPK.INS (Table 14-8). -/
def execTopkIns (o : OpG) (x : XMat) (s : State) : Res :=
  s.issue (.topkIns o x) fun c => s.matrix c fun l =>
    let a := l.getM o.d.toNat
    if a.tag ≠ topkTag then none
    else some (LaneOut.slots [(o.d.toNat,
      { a with data := topkInsert a.data (l.getV o.a.toNat).toNat (l.getV o.b.toNat).toNat })])

/-- TOPK.GET (Table 14-8). -/
def execTopkGet (o : OpG) (x : XMat) (s : State) : Res :=
  s.issue (.topkGet o x) fun c => s.matrix c fun l =>
    let a := l.getM o.a.toNat
    let j := sliceIndex c.p x
    if a.tag ≠ topkTag then none
    else
      let e := if j < topkCount a.data then topkEntry a.data j else (0x7FC00000, 0xFFFFFFFF)
      some (LaneOut.regs [(o.d.toNat, word e.1), (o.d.toNat + 1, word e.2)])

/-- TOPK.CLR (Table 14-8): tag 0xBB0B, k free entries. -/
def execTopkClr (o : OpG) (x : XMat) (s : State) : Res :=
  s.issue (.topkClr o x) fun c => s.matrix c fun l =>
    let k := sliceIndex c.p x
    if k = 0 ∨ 16 < k ∨ oddOfPair l o.d.toNat then none
    else
      let w := l.retag o.d.toNat 8 4 11
      some (LaneOut.slots (withBytes w o.d.toNat ((0 : BitVec 1024) ++ topkData k []) false))

end Sys2Proof.Machine
end

