-- ==== Sys2Proof/Machine/Packed.lean ====
section
/-! DEFINITION. Packed 16-bit and f64 arithmetic, and conversion: majors 0x26 to 0x2A (13 R307 to R309). -/

namespace Sys2Proof.Machine

/-- HADD2 (Table 13-17). -/
def execHadd2 (o : OpG) (s : State) : Res :=
  s.issue (.hadd2 o) fun c => s.fpLanes c fun l => (packed (fun a b _ => f16.add c.t.rm c.t.ftz a b) (l.getV o.a.toNat) (l.getV o.b.toNat) 0).toV l o.d.toNat

/-- HSUB2 (Table 13-17). -/
def execHsub2 (o : OpG) (s : State) : Res :=
  s.issue (.hsub2 o) fun c => s.fpLanes c fun l => (packed (fun a b _ => f16.sub c.t.rm c.t.ftz a b) (l.getV o.a.toNat) (l.getV o.b.toNat) 0).toV l o.d.toNat

/-- HMUL2 (Table 13-17). -/
def execHmul2 (o : OpG) (s : State) : Res :=
  s.issue (.hmul2 o) fun c => s.fpLanes c fun l => (packed (fun a b _ => f16.mul c.t.rm c.t.ftz a b) (l.getV o.a.toNat) (l.getV o.b.toNat) 0).toV l o.d.toNat

/-- HFMA2. -/
def execHfma2 (o : OpG) (s : State) : Res :=
  s.issue (.hfma2 o) fun c => s.fpLanes c fun l => (packed (fun a b d => f16.fma c.t.rm c.t.ftz a b d) (l.getV o.a.toNat) (l.getV o.b.toNat)
    (l.getV o.d.toNat)).toV l o.d.toNat

/-- HMIN2. -/
def execHmin2 (o : OpG) (s : State) : Res :=
  s.issue (.hmin2 o) fun c => s.fpLanes c fun l => (packed (fun a b _ => f16.minmax false false c.t.ftz a b) (l.getV o.a.toNat) (l.getV o.b.toNat)
    0).toV l o.d.toNat

/-- HMAX2. -/
def execHmax2 (o : OpG) (s : State) : Res :=
  s.issue (.hmax2 o) fun c => s.fpLanes c fun l => (packed (fun a b _ => f16.minmax true false c.t.ftz a b) (l.getV o.a.toNat) (l.getV o.b.toNat)
    0).toV l o.d.toNat

/-- BADD2 (Table 13-17). -/
def execBadd2 (o : OpG) (s : State) : Res :=
  s.issue (.badd2 o) fun c => s.fpLanes c fun l => (packed (fun a b _ => bf16.add c.t.rm c.t.ftz a b) (l.getV o.a.toNat) (l.getV o.b.toNat) 0).toV l o.d.toNat

/-- BSUB2 (Table 13-17). -/
def execBsub2 (o : OpG) (s : State) : Res :=
  s.issue (.bsub2 o) fun c => s.fpLanes c fun l => (packed (fun a b _ => bf16.sub c.t.rm c.t.ftz a b) (l.getV o.a.toNat) (l.getV o.b.toNat) 0).toV l o.d.toNat

/-- BMUL2 (Table 13-17). -/
def execBmul2 (o : OpG) (s : State) : Res :=
  s.issue (.bmul2 o) fun c => s.fpLanes c fun l => (packed (fun a b _ => bf16.mul c.t.rm c.t.ftz a b) (l.getV o.a.toNat) (l.getV o.b.toNat) 0).toV l o.d.toNat

/-- BFMA2. -/
def execBfma2 (o : OpG) (s : State) : Res :=
  s.issue (.bfma2 o) fun c => s.fpLanes c fun l => (packed (fun a b d => bf16.fma c.t.rm c.t.ftz a b d) (l.getV o.a.toNat) (l.getV o.b.toNat)
    (l.getV o.d.toNat)).toV l o.d.toNat

/-- BMIN2. -/
def execBmin2 (o : OpG) (s : State) : Res :=
  s.issue (.bmin2 o) fun c => s.fpLanes c fun l => (packed (fun a b _ => bf16.minmax false false c.t.ftz a b) (l.getV o.a.toNat) (l.getV o.b.toNat)
    0).toV l o.d.toNat

/-- BMAX2. -/
def execBmax2 (o : OpG) (s : State) : Res :=
  s.issue (.bmax2 o) fun c => s.fpLanes c fun l => (packed (fun a b _ => bf16.minmax true false c.t.ftz a b) (l.getV o.a.toNat) (l.getV o.b.toNat)
    0).toV l o.d.toNat

/-- DADD (Table 13-18); FTZ never acts on f64. -/
def execDadd (o : OpG) (s : State) : Res :=
  s.issue (.dadd o) fun c => s.fpLanes c fun l => (f64.add c.t.rm false (l.getV2 o.a.toNat).toNat (l.getV2 o.b.toNat).toNat).toV2 l o.d.toNat

/-- DSUB (Table 13-18); FTZ never acts on f64. -/
def execDsub (o : OpG) (s : State) : Res :=
  s.issue (.dsub o) fun c => s.fpLanes c fun l => (f64.sub c.t.rm false (l.getV2 o.a.toNat).toNat (l.getV2 o.b.toNat).toNat).toV2 l o.d.toNat

/-- DMUL (Table 13-18); FTZ never acts on f64. -/
def execDmul (o : OpG) (s : State) : Res :=
  s.issue (.dmul o) fun c => s.fpLanes c fun l => (f64.mul c.t.rm false (l.getV2 o.a.toNat).toNat (l.getV2 o.b.toNat).toNat).toV2 l o.d.toNat

/-- DDIV (Table 13-18); FTZ never acts on f64. -/
def execDdiv (o : OpG) (s : State) : Res :=
  s.issue (.ddiv o) fun c => s.fpLanes c fun l => (f64.div c.t.rm false (l.getV2 o.a.toNat).toNat (l.getV2 o.b.toNat).toNat).toV2 l o.d.toNat

/-- DFMA. -/
def execDfma (o : OpG) (s : State) : Res :=
  s.issue (.dfma o) fun c => s.fpLanes c fun l => (f64.fma c.t.rm false (l.getV2 o.a.toNat).toNat (l.getV2 o.b.toNat).toNat (l.getV2 o.d.toNat).toNat).toV2 l o.d.toNat

/-- DMIN. -/
def execDmin (o : OpG) (s : State) : Res :=
  s.issue (.dmin o) fun c => s.fpLanes c fun l => (f64.minmax false false false (l.getV2 o.a.toNat).toNat (l.getV2 o.b.toNat).toNat).toV2 l o.d.toNat

/-- DMAX. -/
def execDmax (o : OpG) (s : State) : Res :=
  s.issue (.dmax o) fun c => s.fpLanes c fun l => (f64.minmax true false false (l.getV2 o.a.toNat).toNat (l.getV2 o.b.toNat).toNat).toV2 l o.d.toNat

/-- DSQRT. -/
def execDsqrt (o : OpG) (s : State) : Res :=
  s.issue (.dsqrt o) fun c => s.fpLanes c fun l => (f64.sqrt c.t.rm false (l.getV2 o.a.toNat).toNat).toV2 l o.d.toNat

/-- DCMP (R303) on pairs. -/
def execDcmp (o : OpC) (s : State) : Res :=
  s.issue (.dcmp o) fun c => s.fpLanes c fun l => 
    let r := fcond o.cc.toNat (f64.unpack (l.getV2 o.a.toNat).toNat) (f64.unpack (l.getV2 o.b.toNat).toNat)
    { lane := l.setP o.d.toNat r.1, flags := r.2 }

/-- A converted value written to its place (R309): a pair for the 64-bit types, else the low bits of d. -/
def cvtWrite (l : Lane) (d dt : Nat) (r : FpR) : FpLane :=
  if typeBytes dt = 8 then r.toV2 l d
  else
    let k := 2 ^ (8 * typeBytes dt)
    { lane := l.setV d (word ((l.getV d).toNat / k * k + r.bits)), flags := r.flags }

/-- CVT (R309): Convert from STYPE to DTYPE, under RMO or FPC.RM. -/
def execCvt (o : OpG) (x : XCvt) (s : State) : Res :=
  s.issue (.cvt o x) fun c => s.fpLanes c fun l =>
    let a := if typeBytes x.st.toNat = 8 then (l.getV2 o.a.toNat).toNat else (l.getV o.a.toNat).toNat
    let rm := if x.rmo = 0 then c.t.rm else if x.rmo = 1 then 0 else if x.rmo = 2 then 1 else 3
    cvtWrite l o.d.toNat x.dt.toNat (convert x.st.toNat x.dt.toNat (x.sat = 1) rm c.t.ftz
      (a % 2 ^ (8 * typeBytes x.st.toNat)))

end Sys2Proof.Machine
end

