-- ==== Sys2Proof/Machine/Crypto.lean ====
section
/-! DEFINITION. The algorithms of the boot ROM and of attestation (18 R399): SHA-384, and ECDSA over brainpoolP384r1. The spec
names them by their standards; their constants are those of the standards (PRESUMED, log 77). -/

namespace Sys2Proof.Machine

/-- The round constants of SHA-384: the first 64 bits of the fractions of the cube roots of the first 80 primes. -/
def shaK : List Nat :=
  [0x428A2F98D728AE22, 0x7137449123EF65CD, 0xB5C0FBCFEC4D3B2F, 0xE9B5DBA58189DBBC,
    0x3956C25BF348B538, 0x59F111F1B605D019, 0x923F82A4AF194F9B, 0xAB1C5ED5DA6D8118,
    0xD807AA98A3030242, 0x12835B0145706FBE, 0x243185BE4EE4B28C, 0x550C7DC3D5FFB4E2,
    0x72BE5D74F27B896F, 0x80DEB1FE3B1696B1, 0x9BDC06A725C71235, 0xC19BF174CF692694] ++
  [0xE49B69C19EF14AD2, 0xEFBE4786384F25E3, 0x0FC19DC68B8CD5B5, 0x240CA1CC77AC9C65,
    0x2DE92C6F592B0275, 0x4A7484AA6EA6E483, 0x5CB0A9DCBD41FBD4, 0x76F988DA831153B5,
    0x983E5152EE66DFAB, 0xA831C66D2DB43210, 0xB00327C898FB213F, 0xBF597FC7BEEF0EE4,
    0xC6E00BF33DA88FC2, 0xD5A79147930AA725, 0x06CA6351E003826F, 0x142929670A0E6E70] ++
  [0x27B70A8546D22FFC, 0x2E1B21385C26C926, 0x4D2C6DFC5AC42AED, 0x53380D139D95B3DF,
    0x650A73548BAF63DE, 0x766A0ABB3C77B2A8, 0x81C2C92E47EDAEE6, 0x92722C851482353B,
    0xA2BFE8A14CF10364, 0xA81A664BBC423001, 0xC24B8B70D0F89791, 0xC76C51A30654BE30,
    0xD192E819D6EF5218, 0xD69906245565A910, 0xF40E35855771202A, 0x106AA07032BBD1B8] ++
  [0x19A4C116B8D2D0C8, 0x1E376C085141AB53, 0x2748774CDF8EEB99, 0x34B0BCB5E19B48A8,
    0x391C0CB3C5C95A63, 0x4ED8AA4AE3418ACB, 0x5B9CCA4F7763E373, 0x682E6FF3D6B2B8A3,
    0x748F82EE5DEFB2FC, 0x78A5636F43172F60, 0x84C87814A1F0AB72, 0x8CC702081A6439EC,
    0x90BEFFFA23631E28, 0xA4506CEBDE82BDE9, 0xBEF9A3F7B2C67915, 0xC67178F2E372532B] ++
  [0xCA273ECEEA26619C, 0xD186B8C721C0C207, 0xEADA7DD6CDE0EB1E, 0xF57D4F7FEE6ED178,
    0x06F067AA72176FBA, 0x0A637DC5A2C898A6, 0x113F9804BEF90DAE, 0x1B710B35131C471B,
    0x28DB77F523047D84, 0x32CAAB7B40C72493, 0x3C9EBE0A15C9BEBC, 0x431D67C49C100D4C,
    0x4CC5D4BECB3E42B6, 0x597F299CFC657E2A, 0x5FCB6FAB3AD6FAEC, 0x6C44198C4A475817]

/-- The initial value of SHA-384: the first 64 bits of the fractions of the square roots of the ninth to sixteenth primes. -/
def shaInit : List Nat :=
  [0xCBBB9D5DC1059ED8, 0x629A292A367CD507, 0x9159015A3070DD17, 0x152FECD8F70E5939,
    0x67332667FFC00B31, 0x8EB44A8768581511, 0xDB0C2E0D64F98FA7, 0x47B5481DBEFA4FA4]

/-- A 64-bit word rotated right. -/
def rotR64 (x n : Nat) : Nat := (x / 2 ^ n + x * 2 ^ (64 - n)) % 2 ^ 64

/-- An entry of a list of words, 0 beyond it. -/
def wordAt (l : List Nat) (i : Nat) : Nat := (l[i]?).getD 0

/-- The next word of a message schedule whose latest words stand first. -/
def shaNext (w : List Nat) : Nat :=
  let a := wordAt w 14
  let b := wordAt w 1
  let s0 := rotR64 a 1 ^^^ rotR64 a 8 ^^^ a / 2 ^ 7
  let s1 := rotR64 b 19 ^^^ rotR64 b 61 ^^^ b / 2 ^ 6
  (wordAt w 15 + s0 + wordAt w 6 + s1) % 2 ^ 64

/-- The 80 words of the schedule of a block of 16. -/
def shaSchedule (block : List Nat) : List Nat :=
  ((List.range 64).foldl (fun w _ => shaNext w :: w) block.reverse).reverse

/-- One round on the eight working words. -/
def shaRound (v : List Nat) (k w : Nat) : List Nat :=
  let x := wordAt v
  let s1 := rotR64 (x 4) 14 ^^^ rotR64 (x 4) 18 ^^^ rotR64 (x 4) 41
  let ch := (x 4 &&& x 5) ^^^ ((2 ^ 64 - 1 - x 4) &&& x 6)
  let t1 := x 7 + s1 + ch + k + w
  let s0 := rotR64 (x 0) 28 ^^^ rotR64 (x 0) 34 ^^^ rotR64 (x 0) 39
  let maj := (x 0 &&& x 1) ^^^ (x 0 &&& x 2) ^^^ (x 1 &&& x 2)
  [(t1 + s0 + maj) % 2 ^ 64, x 0, x 1, x 2, (x 3 + t1) % 2 ^ 64, x 4, x 5, x 6]

/-- One block of 16 words taken into the hash. -/
def shaBlock (h block : List Nat) : List Nat :=
  let v := (shaK.zip (shaSchedule block)).foldl (fun v e => shaRound v e.1 e.2) h
  (h.zip v).map fun e => (e.1 + e.2) % 2 ^ 64

/-- A big-endian number. -/
def natBE (bs : List Byte) : Nat := bs.foldl (fun n b => 256 * n + b.toNat) 0

/-- The n bytes of a big-endian number. -/
def bytesBE (n x : Nat) : List Byte := (bytesLE n x).reverse

/-- A message padded to whole blocks of 128 bytes: a bit 1, zeros, the length in bits in 16 bytes. -/
def shaPad (m : List Byte) : List Byte :=
  m ++ [0x80#8] ++ List.replicate ((239 - m.length % 128) % 128) (0#8) ++ bytesBE 16 (8 * m.length)

/-- SHA-384 as a number. -/
def sha384 (m : List Byte) : Nat :=
  let p := shaPad m
  let block (i : Nat) : List Nat := (List.range 16).map fun j => natBE ((p.drop (128 * i + 8 * j)).take 8)
  let h := (List.range (p.length / 128)).foldl (fun h i => shaBlock h (block i)) shaInit
  (h.take 6).foldl (fun n x => 2 ^ 64 * n + x) 0

/-- The field prime of brainpoolP384r1. -/
def curveP : Nat := 0x8CB91E82A3386D280F5D6F7E50E641DF152F7109ED5456B412B1DA197FB71123ACD3A729901D1A71874700133107EC53
/-- The coefficient A of brainpoolP384r1. -/
def curveA : Nat := 0x7BC382C63D8C150C3C72080ACE05AFA0C2BEA28E4FB22787139165EFBA91F90F8AA5814A503AD4EB04A8C7DD22CE2826
/-- The coefficient B of brainpoolP384r1. -/
def curveB : Nat := 0x4A8C7DD22CE28268B39B55416F0447C2FB77DE107DCD2A62E880EA53EEB62D57CB4390295DBC9943AB78696FA504C11
/-- The base point of brainpoolP384r1. -/
def curveG : Point := some
  (0x1D1C64F068CF45FFA2A63A81B7C13F6B8847A3E77EF14FE3DB7FCAFE0CBD10E8E826E03436D646AAEF87B2E247D4AF1E,
   0x8ABE1D7520F9C2A45CB1EB8E95CFD55262B70B29FEEC5864E19C054FF99129280E4646217791811142820341263C5315)
/-- The order of the base point. -/
def curveN : Nat := 0x8CB91E82A3386D280F5D6F7E50E641DF152F7109ED5456B31F166E6CAC0425A7CF3AB6AF6B7FC3103B883202E9046565

/-- A power modulo m: the fuel is the number of bits of the exponent. -/
def powMod (m : Nat) : Nat → Nat → Nat → Nat
  | 0, _, _ => 1
  | k + 1, b, e =>
    let r := powMod m k (b * b % m) (e / 2)
    if e % 2 = 1 then b * r % m else r

/-- The inverse modulo a prime of 384 bits. -/
def invMod (m x : Nat) : Nat := powMod m 384 (x % m) (m - 2)

/-- A difference modulo the field prime. -/
def subP (x y : Nat) : Nat := (x + curveP - y % curveP) % curveP

/-- The sum of two points of the curve. -/
def pointAdd : Point → Point → Point
  | none, q => q
  | q, none => q
  | some (x1, y1), some (x2, y2) =>
    if x1 = x2 ∧ (y1 + y2) % curveP = 0 then none else
    let l := if x1 = x2 then (3 * x1 * x1 + curveA) * invMod curveP (2 * y1) % curveP
      else subP y2 y1 * invMod curveP (subP x2 x1) % curveP
    let x3 := subP (subP (l * l % curveP) x1) x2
    some (x3, subP (l * subP x1 x3 % curveP) y1)

/-- A multiple of a point; the fuel is the number of bits of the factor. -/
def pointMul : Nat → Nat → Point → Point
  | 0, _, _ => none
  | f + 1, k, q =>
    let r := pointMul f (k / 2) (pointAdd q q)
    if k % 2 = 1 then pointAdd q r else r

/-- Whether a pair of coordinates is a point of the curve. -/
def onCurve (q : Nat × Nat) : Bool :=
  q.1 < curveP && q.2 < curveP && decide (q.2 * q.2 % curveP = (q.1 * q.1 * q.1 + curveA * q.1 + curveB) % curveP)

/-- ECDSA with SHA-384: whether a signature of a message verifies under a public key. -/
def ecdsaVerify (key : Nat × Nat) (m : List Byte) (sig : Nat × Nat) : Bool :=
  if sig.1 = 0 ∨ curveN ≤ sig.1 ∨ sig.2 = 0 ∨ curveN ≤ sig.2 ∨ ¬ onCurve key then false else
  let w := invMod curveN sig.2
  let r := pointAdd (pointMul 384 (sha384 m * w % curveN) curveG) (pointMul 384 (sig.1 * w % curveN) (some key))
  match r with
  | none => false
  | some q => q.1 % curveN = sig.1

/-- ECDSA with SHA-384: the signature of a message by a private key, with the number k of this signature. -/
def ecdsaSign (d k : Nat) (m : List Byte) : Nat × Nat :=
  let r := match pointMul 384 (k % curveN) curveG with
    | none => 0
    | some q => q.1 % curveN
  (r, invMod curveN (k % curveN) * (sha384 m + r * d) % curveN)

end Sys2Proof.Machine
end

