-- ==== Sys2Proof/Machine/Platform.lean ====
section
/-! DEFINITION. Platform events (18 R392, R398 to R403) and PCIe completions (01 R35). -/

namespace Sys2Proof.Machine

/-- CONFIG_REQUEST (R392): Configuration Request Retry Status until the firmware is ready; then the register's value. -/
def execConfigRequest (s : State) : Res :=
  match s.input with
  | .one n => .next { s with out := s.out ++ [if s.plat.ready then Out.configValue (Config.configRegister n) else Out.retryStatus] }
  | _ => .next s

/-- A public key as the hash of the fuses covers it, and the bytes that a slot's signature covers: the image, then its version.
The spec gives neither (DESIGN CHOICE, log 77). -/
def keyBytes (k : Nat × Nat) : List Byte := bytesBE 48 k.1 ++ bytesBE 48 k.2
/-- The bytes that a slot's signature covers. -/
def slotBytes (f : Sys2Proof.FlashImage) : List Byte := f.image ++ bytesLE 8 f.version

/-- The conditions under which the boot ROM accepts a slot (R399): its ECDSA signature verifies, the signing key hashes to the
fused key hash, the version is at or above the fused rollback counter. -/
def slotOk (rollback : Nat) : Option Sys2Proof.FlashImage → Bool
  | none => false
  | some f => ecdsaVerify f.key (slotBytes f) f.sig && decide (sha384 (keyBytes f.key) = Config.fusedKeyHash.toNat) &&
      decide (rollback ≤ f.version)

/-- The module comes up with the firmware of a slot (R399, R400): its SHA-384 measurement is taken, CTXSTAT reads 0. -/
def State.bootFrom (s : State) (slot : Nat) (f : Sys2Proof.FlashImage) (certificate : List Byte) : State :=
  let p : Platform := { s.plat with
    ready := true, slot := some slot, version := f.version, measure := BitVec.ofNat 384 (sha384 f.image)
    certificate := certificate }
  { s with plat := p, host := { s.host with busy := false, result := 0 } }

/-- The module started from a slot, where its image verifies (R399). -/
def State.trySlot (s : State) (slot : Nat) (f : Option Sys2Proof.FlashImage) (certificate : List Byte) : Option State :=
  match f with
  | none => none
  | some i => if slotOk s.plat.rollback f then some (s.bootFrom slot i certificate) else none

/-- POWER_GOOD (R399, R400): the boot ROM tries slot A, then slot B; with a slot accepted the module comes up. With neither the
module stays in reset and reports on I3C. -/
def execPowerGood (s : State) : Res :=
  match s.input with
  | .boot a b certificate => .next <|
    if s.plat.ready then s else
    match s.trySlot 0 a certificate with
    | some t => t
    | none => match s.trySlot 1 b certificate with
      | some t => t
      | none => { s with out := s.out ++ [Out.i3c []] }
  | _ => .next s

/-- An MCTP message sent. -/
def State.mctp (s : State) (bs : List Byte) : State := { s with out := s.out ++ [Out.mctp bs] }

/-- MCTP_CONTROL_MESSAGE (R398): answered by MCTP's own rules, which the spec does not give; the answer is a free value
(log 57). -/
def execMctpControlMessage (s : State) : Res :=
  match s.input with
  | .msg bs => .next (s.mctp (Config.mctpAnswer bs))
  | _ => .next s

/-- READ_TEMPERATURES (R398): sensor values are free (log 57). -/
def execReadTemperatures (s : State) : Res := .next (({ s with free := s.free + 1 } : State).mctp (Config.readings s.free))

/-- READ_POWER (R398): sensor values are free (log 57). -/
def execReadPower (s : State) : Res := .next (({ s with free := s.free + 1 } : State).mctp (Config.readings s.free))

/-- READ_SOFT_ERROR_COUNTS (R398, R68): corrected and uncorrectable, 8 bytes each (log 57). -/
def execReadSoftErrorCounts (s : State) : Res :=
  .next (s.mctp (bytesLE 8 s.plat.corrected ++ bytesLE 8 s.plat.uncorrected))

/-- READ_IDENT (R398). -/
def execReadIdent (s : State) : Res := .next (s.mctp (bytesLE 8 Config.ident.toNat))

/-- FAULT_REPORT (R403): a detected fault of the module, in the notification ring and on MCTP. -/
def execFaultReport (s : State) : Res :=
  match s.input with
  | .one code => .next ((s.notify 0x0A code 0 0 0).mctp (bytesLE 4 code))
  | _ => .next s

/-- What an attestation answer signs (R399): IDENT, the measurement of the running firmware, the rollback counter, the
nonce. -/
def State.attested (s : State) (nonce : BitVec 256) : List Byte :=
  bytesLE 8 Config.ident.toNat ++ bytesLE 48 s.plat.measure.toNat ++ bytesLE 8 s.plat.rollback ++ bytesLE 32 nonce.toNat

/-- The signature of an attestation answer (R399): ECDSA with the identity key that is derived from the fused secret; its two
numbers, big-endian (log 57). -/
def State.attestation (s : State) (nonce : BitVec 256) : List Byte :=
  let g := ecdsaSign (Config.identityKey Config.fusedSecret) (Config.signNonce s.free) (s.attested nonce)
  s.attested nonce ++ bytesBE 48 g.1 ++ bytesBE 48 g.2

/-- ATTESTATION_REQUEST (R399): answered while a firmware runs, with the vendor's certificate after the signed answer (log 57). -/
def execAttestationRequest (s : State) : Res :=
  match s.input with
  | .nonce n => .next <|
    if s.plat.slot.isNone then s
    else ({ s with free := s.free + 1 } : State).mctp (s.attestation n ++ s.plat.certificate)
  | _ => .next s

/-- A piece of an issued access of host memory is performed: it holds the bytes that the host has given (R35). -/
def State.hostPiece (s : State) (q : HostReq) (op index : Nat) (v : BitVec 64) : State :=
  let put (l : LaneAcc) : LaneAcc := if l.lane = q.lane then
      { l with pieces := l.pieces.set index (.given (bytesLE q.size v.toNat)) } else l
  (s.modIssue op fun e => { e with lanes := e.lanes.map put }).settleLane op q.lane

/-- Bytes that a step of a unit has asked of the host have come (R35). -/
def State.unitCompletion (s : State) (id : Nat) (v : BitVec 64) : State :=
  match s.unitReqs.find? fun q => q.id = id with
  | none => s
  | some q => { s with
      unitReqs := s.unitReqs.filter fun q => q.id ≠ id
      unitData := s.unitData ++ [{ who := q.who, pa := q.pa, bytes := bytesLE q.size v.toNat }] }

/-- PCIE_COMPLETION_FROM_HOST (R35): the bytes of a read, or an atomic's old value, reach the access that asked for them; bytes that
an instruction fetches, or that a step of a unit reads, wait for it; the old value for a received frame goes to its peer. -/
def execPcieCompletionFromHost (s : State) : Res :=
  match s.input with
  | .data id v => .next <| match s.hostReqs.find? fun q => q.id = id with
    | none => ({ s.unitCompletion id v with signals := s.signals.filter (· ≠ id) } : State).netCompletion id v
    | some q =>
      let s : State := { s with hostReqs := s.hostReqs.filter fun q => q.id ≠ id }
      if ¬ q.live then s else
      match q.what with
      | .fetch => { s with hostData := s.hostData ++ [{ path := q.path, lane := q.lane, pa := q.pa, bytes := bytesLE q.size v.toNat }] }
      | .piece op index => s.hostPiece q op index v
  | _ => .next s

end Sys2Proof.Machine
end

