-- ==== Sys2Proof/Machine/Pred.lean ====
section
/-! DEFINITION. Predicate logic: major 0x11 (13 R290). A write to p7 is ignored (R264). -/

namespace Sys2Proof.Machine

/-- PAND (Table 13-6). -/
def execPand (o : OpG) (s : State) : Res :=
  s.issue (.pand o) fun c => s.toP c o.d fun l => l.getP o.a.toNat && l.getP o.b.toNat

/-- POR (Table 13-6). -/
def execPor (o : OpG) (s : State) : Res :=
  s.issue (.por o) fun c => s.toP c o.d fun l => l.getP o.a.toNat || l.getP o.b.toNat

/-- PXOR (Table 13-6). -/
def execPxor (o : OpG) (s : State) : Res :=
  s.issue (.pxor o) fun c => s.toP c o.d fun l => l.getP o.a.toNat != l.getP o.b.toNat

/-- PANDN (Table 13-6). -/
def execPandn (o : OpG) (s : State) : Res :=
  s.issue (.pandn o) fun c => s.toP c o.d fun l => l.getP o.a.toNat && ! l.getP o.b.toNat

/-- PMOV (Table 13-6). -/
def execPmov (o : OpG) (s : State) : Res :=
  s.issue (.pmov o) fun c => s.toP c o.d fun l => l.getP o.a.toNat

/-- PNOT (Table 13-6). -/
def execPnot (o : OpG) (s : State) : Res :=
  s.issue (.pnot o) fun c => s.toP c o.d fun l => ! l.getP o.a.toNat

/-- PSETV (Table 13-6). -/
def execPsetv (o : OpG) (s : State) : Res :=
  s.issue (.psetv o) fun c => s.toP c o.d fun l => l.getV o.a.toNat ≠ 0

/-- PGETV: vd := 1 if pa else 0. -/
def execPgetv (o : OpG) (s : State) : Res :=
  s.issue (.pgetv o) fun c => s.lanewise c fun _ l => l.setV o.d.toNat (if l.getP o.a.toNat then 1 else 0)

end Sys2Proof.Machine
end

