-- ==== Sys2Proof/Machine/Uniform.lean ====
section
/-! DEFINITION. Uniform instructions: majors 0x17 to 0x1B (13 R297 to R299). -/

namespace Sys2Proof.Machine

/-- SADD (Table 13-11). -/
def execSadd (o : OpG) (s : State) : Res :=
  s.issue (.sadd o) fun c => s.s3 c o.d o.a o.b fun a b => a + b

/-- SSUB (Table 13-11). -/
def execSsub (o : OpG) (s : State) : Res :=
  s.issue (.ssub o) fun c => s.s3 c o.d o.a o.b fun a b => a - b

/-- SMUL (Table 13-11). -/
def execSmul (o : OpG) (s : State) : Res :=
  s.issue (.smul o) fun c => s.s3 c o.d o.a o.b fun a b => a * b

/-- SAND (Table 13-11). -/
def execSand (o : OpG) (s : State) : Res :=
  s.issue (.sand o) fun c => s.s3 c o.d o.a o.b fun a b => a &&& b

/-- SOR (Table 13-11). -/
def execSor (o : OpG) (s : State) : Res :=
  s.issue (.sor o) fun c => s.s3 c o.d o.a o.b fun a b => a ||| b

/-- SXOR (Table 13-11). -/
def execSxor (o : OpG) (s : State) : Res :=
  s.issue (.sxor o) fun c => s.s3 c o.d o.a o.b fun a b => a ^^^ b

/-- SSHL (Table 13-11). -/
def execSshl (o : OpG) (s : State) : Res :=
  s.issue (.sshl o) fun c => s.s3 c o.d o.a o.b fun a b => shlW a b.toNat

/-- SSHR (Table 13-11). -/
def execSshr (o : OpG) (s : State) : Res :=
  s.issue (.sshr o) fun c => s.s3 c o.d o.a o.b fun a b => shrW a b.toNat

/-- SADDI: sd := sa + SignExtend(IMM9). -/
def execSaddi (o : OpI) (s : State) : Res :=
  s.issue (.saddi o) fun c => s.uniform c fun p => p.setS o.d.toNat (p.getS o.a.toNat + imm9 o.imm)

/-- SMOVK: sd := the literal. -/
def execSmovk (o : OpG) (x : XLit) (s : State) : Res :=
  s.issue (.smovk o x) fun c => s.uniform c fun p => p.setS o.d.toNat x.xl

/-- SMOVK.w: pair sd := the literal, sign-extended. -/
def execSmovkW (o : OpG) (x : XLit) (s : State) : Res :=
  s.issue (.smovkW o x) fun c => s.uniform c fun p => p.setS2 o.d.toNat (x.xl.signExtend 64)

/-- SCMP: the signed comparison of sa and sb, into PD of every active lane. -/
def execScmp (o : OpC) (s : State) : Res :=
  s.issue (.scmp o) fun c => let r := icond o.cc (compare (c.p.getS o.a.toNat).toInt (c.p.getS o.b.toNat).toInt)
    s.toP c o.d fun _ => r

/-- VBC (R299): vd := sa in every active lane. -/
def execVbc (o : OpG) (s : State) : Res :=
  s.issue (.vbc o) fun c => s.lanewise c fun _ l => l.setV o.d.toNat (c.p.getS o.a.toNat)

/-- SFIRST: sd := va of the lowest active non-helper lane; with none, nothing. -/
def execSfirst (o : OpG) (s : State) : Res :=
  s.issue (.sfirst o) fun c => 
    match c.workers s.guard with
    | [] => s.advance c.r
    | l :: _ => s.uniform c fun p => p.setS o.d.toNat ((c.t.lane l).getV o.a.toNat)

/-- SLANE: sd := va of lane sb, read wherever it is; a lane at or above L gives 0. -/
def execSlane (o : OpG) (s : State) : Res :=
  s.issue (.slane o) fun c => 
    let x : Word := match tget c.t.lanes (c.p.getS o.b.toNat).toNat with
      | some l => l.getV o.a.toNat
      | none => 0
    s.uniform c fun p => p.setS o.d.toNat x

end Sys2Proof.Machine
end

