-- ==== Sys2Proof/Machine/Dispatch.lean ====
section
/-! DEFINITION. One arm per instruction: its meaning. -/

namespace Sys2Proof.Machine

/-- What an instruction, or a step of a unit, does to a state. -/
def exec (i : Instr) (s : State) : Host.Outcome State Fault Refusal :=
  match i with
  | .iadd o => Sys2Proof.Machine.execIadd o s
  | .isub o => Sys2Proof.Machine.execIsub o s
  | .imul o => Sys2Proof.Machine.execImul o s
  | .imad o => Sys2Proof.Machine.execImad o s
  | .imulhI32 o => Sys2Proof.Machine.execImulhI32 o s
  | .imulhN32 o => Sys2Proof.Machine.execImulhN32 o s
  | .imulwI32 o => Sys2Proof.Machine.execImulwI32 o s
  | .imulwN32 o => Sys2Proof.Machine.execImulwN32 o s
  | .andV o => Sys2Proof.Machine.execAndV o s
  | .orV o => Sys2Proof.Machine.execOrV o s
  | .xorV o => Sys2Proof.Machine.execXorV o s
  | .andn o => Sys2Proof.Machine.execAndn o s
  | .orn o => Sys2Proof.Machine.execOrn o s
  | .xnor o => Sys2Proof.Machine.execXnor o s
  | .shl o => Sys2Proof.Machine.execShl o s
  | .shr o => Sys2Proof.Machine.execShr o s
  | .sar o => Sys2Proof.Machine.execSar o s
  | .rol o => Sys2Proof.Machine.execRol o s
  | .ror o => Sys2Proof.Machine.execRor o s
  | .shl64 o => Sys2Proof.Machine.execShl64 o s
  | .shr64 o => Sys2Proof.Machine.execShr64 o s
  | .sar64 o => Sys2Proof.Machine.execSar64 o s
  | .iminI32 o => Sys2Proof.Machine.execIminI32 o s
  | .imaxI32 o => Sys2Proof.Machine.execImaxI32 o s
  | .iminN32 o => Sys2Proof.Machine.execIminN32 o s
  | .imaxN32 o => Sys2Proof.Machine.execImaxN32 o s
  | .iabs o => Sys2Proof.Machine.execIabs o s
  | .ineg o => Sys2Proof.Machine.execIneg o s
  | .iaddsI32 o => Sys2Proof.Machine.execIaddsI32 o s
  | .iaddsN32 o => Sys2Proof.Machine.execIaddsN32 o s
  | .popc o => Sys2Proof.Machine.execPopc o s
  | .clz o => Sys2Proof.Machine.execClz o s
  | .ctz o => Sys2Proof.Machine.execCtz o s
  | .brev o => Sys2Proof.Machine.execBrev o s
  | .bswap o => Sys2Proof.Machine.execBswap o s
  | .notV o => Sys2Proof.Machine.execNotV o s
  | .bfeI32 o x => Sys2Proof.Machine.execBfeI32 o x s
  | .bfeN32 o x => Sys2Proof.Machine.execBfeN32 o x s
  | .bfi o x => Sys2Proof.Machine.execBfi o x s
  | .iaddi o => Sys2Proof.Machine.execIaddi o s
  | .mov o => Sys2Proof.Machine.execMov o s
  | .movk o x => Sys2Proof.Machine.execMovk o x s
  | .movkW o x => Sys2Proof.Machine.execMovkW o x s
  | .icmpI32 o => Sys2Proof.Machine.execIcmpI32 o s
  | .icmpN32 o => Sys2Proof.Machine.execIcmpN32 o s
  | .iadd64 o => Sys2Proof.Machine.execIadd64 o s
  | .isub64 o => Sys2Proof.Machine.execIsub64 o s
  | .sel o x => Sys2Proof.Machine.execSel o x s
  | .lea o sh => Sys2Proof.Machine.execLea o sh s
  | .pand o => Sys2Proof.Machine.execPand o s
  | .por o => Sys2Proof.Machine.execPor o s
  | .pxor o => Sys2Proof.Machine.execPxor o s
  | .pandn o => Sys2Proof.Machine.execPandn o s
  | .pmov o => Sys2Proof.Machine.execPmov o s
  | .pnot o => Sys2Proof.Machine.execPnot o s
  | .psetv o => Sys2Proof.Machine.execPsetv o s
  | .pgetv o => Sys2Proof.Machine.execPgetv o s
  | .voteAny o => Sys2Proof.Machine.execVoteAny o s
  | .voteAll o => Sys2Proof.Machine.execVoteAll o s
  | .voteBallot o => Sys2Proof.Machine.execVoteBallot o s
  | .voteCount o => Sys2Proof.Machine.execVoteCount o s
  | .cableAt o => Sys2Proof.Machine.execCableAt o s
  | .cableBack o => Sys2Proof.Machine.execCableBack o s
  | .cableFwd o => Sys2Proof.Machine.execCableFwd o s
  | .cableFlip o => Sys2Proof.Machine.execCableFlip o s
  | .qswph o => Sys2Proof.Machine.execQswph o s
  | .qswpv o => Sys2Proof.Machine.execQswpv o s
  | .qswpd o => Sys2Proof.Machine.execQswpd o s
  | .qbc0 o => Sys2Proof.Machine.execQbc0 o s
  | .qbc1 o => Sys2Proof.Machine.execQbc1 o s
  | .qbc2 o => Sys2Proof.Machine.execQbc2 o s
  | .qbc3 o => Sys2Proof.Machine.execQbc3 o s
  | .foldAddI32 o => Sys2Proof.Machine.execFoldAddI32 o s
  | .foldMinI32 o => Sys2Proof.Machine.execFoldMinI32 o s
  | .foldMaxI32 o => Sys2Proof.Machine.execFoldMaxI32 o s
  | .foldAnd o => Sys2Proof.Machine.execFoldAnd o s
  | .foldOr o => Sys2Proof.Machine.execFoldOr o s
  | .foldXor o => Sys2Proof.Machine.execFoldXor o s
  | .foldFadd o => Sys2Proof.Machine.execFoldFadd o s
  | .nzs o => Sys2Proof.Machine.execNzs o s
  | .sadd o => Sys2Proof.Machine.execSadd o s
  | .ssub o => Sys2Proof.Machine.execSsub o s
  | .smul o => Sys2Proof.Machine.execSmul o s
  | .sand o => Sys2Proof.Machine.execSand o s
  | .sor o => Sys2Proof.Machine.execSor o s
  | .sxor o => Sys2Proof.Machine.execSxor o s
  | .sshl o => Sys2Proof.Machine.execSshl o s
  | .sshr o => Sys2Proof.Machine.execSshr o s
  | .saddi o => Sys2Proof.Machine.execSaddi o s
  | .smovk o x => Sys2Proof.Machine.execSmovk o x s
  | .smovkW o x => Sys2Proof.Machine.execSmovkW o x s
  | .scmp o => Sys2Proof.Machine.execScmp o s
  | .vbc o => Sys2Proof.Machine.execVbc o s
  | .sfirst o => Sys2Proof.Machine.execSfirst o s
  | .slane o => Sys2Proof.Machine.execSlane o s
  | .fadd o => Sys2Proof.Machine.execFadd o s
  | .fsub o => Sys2Proof.Machine.execFsub o s
  | .fmul o => Sys2Proof.Machine.execFmul o s
  | .ffma o => Sys2Proof.Machine.execFfma o s
  | .fmin o => Sys2Proof.Machine.execFmin o s
  | .fmax o => Sys2Proof.Machine.execFmax o s
  | .fminp o => Sys2Proof.Machine.execFminp o s
  | .fmaxp o => Sys2Proof.Machine.execFmaxp o s
  | .fabs o => Sys2Proof.Machine.execFabs o s
  | .fneg o => Sys2Proof.Machine.execFneg o s
  | .fcopys o => Sys2Proof.Machine.execFcopys o s
  | .fcmp o => Sys2Proof.Machine.execFcmp o s
  | .rcp o => Sys2Proof.Machine.execRcp o s
  | .rsq o => Sys2Proof.Machine.execRsq o s
  | .exp2 o => Sys2Proof.Machine.execExp2 o s
  | .log2 o => Sys2Proof.Machine.execLog2 o s
  | .sinr o => Sys2Proof.Machine.execSinr o s
  | .cosr o => Sys2Proof.Machine.execCosr o s
  | .tanh o => Sys2Proof.Machine.execTanh o s
  | .floor o => Sys2Proof.Machine.execFloor o s
  | .ceil o => Sys2Proof.Machine.execCeil o s
  | .trunc o => Sys2Proof.Machine.execTrunc o s
  | .rint o => Sys2Proof.Machine.execRint o s
  | .fract o => Sys2Proof.Machine.execFract o s
  | .fdiv o => Sys2Proof.Machine.execFdiv o s
  | .fsqrt o => Sys2Proof.Machine.execFsqrt o s
  | .hadd2 o => Sys2Proof.Machine.execHadd2 o s
  | .hsub2 o => Sys2Proof.Machine.execHsub2 o s
  | .hmul2 o => Sys2Proof.Machine.execHmul2 o s
  | .hfma2 o => Sys2Proof.Machine.execHfma2 o s
  | .hmin2 o => Sys2Proof.Machine.execHmin2 o s
  | .hmax2 o => Sys2Proof.Machine.execHmax2 o s
  | .badd2 o => Sys2Proof.Machine.execBadd2 o s
  | .bsub2 o => Sys2Proof.Machine.execBsub2 o s
  | .bmul2 o => Sys2Proof.Machine.execBmul2 o s
  | .bfma2 o => Sys2Proof.Machine.execBfma2 o s
  | .bmin2 o => Sys2Proof.Machine.execBmin2 o s
  | .bmax2 o => Sys2Proof.Machine.execBmax2 o s
  | .dadd o => Sys2Proof.Machine.execDadd o s
  | .dsub o => Sys2Proof.Machine.execDsub o s
  | .dmul o => Sys2Proof.Machine.execDmul o s
  | .dfma o => Sys2Proof.Machine.execDfma o s
  | .dmin o => Sys2Proof.Machine.execDmin o s
  | .dmax o => Sys2Proof.Machine.execDmax o s
  | .ddiv o => Sys2Proof.Machine.execDdiv o s
  | .dsqrt o => Sys2Proof.Machine.execDsqrt o s
  | .dcmp o => Sys2Proof.Machine.execDcmp o s
  | .cvt o x => Sys2Proof.Machine.execCvt o x s
  | .mshapeImm o x => Sys2Proof.Machine.execMshapeImm o x s
  | .mshapeLane o x => Sys2Proof.Machine.execMshapeLane o x s
  | .mld o x => Sys2Proof.Machine.execMld o x s
  | .mldT o x => Sys2Proof.Machine.execMldT o x s
  | .mst o x => Sys2Proof.Machine.execMst o x s
  | .mstT o x => Sys2Proof.Machine.execMstT o x s
  | .mldw o x => Sys2Proof.Machine.execMldw o x s
  | .mmul o x => Sys2Proof.Machine.execMmul o x s
  | .mma o x => Sys2Proof.Machine.execMma o x s
  | .mmat o x => Sys2Proof.Machine.execMmat o x s
  | .mmab o x => Sys2Proof.Machine.execMmab o x s
  | .madd o x => Sys2Proof.Machine.execMadd o x s
  | .msub o x => Sys2Proof.Machine.execMsub o x s
  | .mhad o x => Sys2Proof.Machine.execMhad o x s
  | .mscal o x => Sys2Proof.Machine.execMscal o x s
  | .mexp2 o x => Sys2Proof.Machine.execMexp2 o x s
  | .mmax o x => Sys2Proof.Machine.execMmax o x s
  | .mzero o x => Sys2Proof.Machine.execMzero o x s
  | .mcvt o x => Sys2Proof.Machine.execMcvt o x s
  | .mtrn o x => Sys2Proof.Machine.execMtrn o x s
  | .mmov o x => Sys2Proof.Machine.execMmov o x s
  | .mget o x => Sys2Proof.Machine.execMget o x s
  | .mput o x => Sys2Proof.Machine.execMput o x s
  | .mred o x => Sys2Proof.Machine.execMred o x s
  | .mshget o x => Sys2Proof.Machine.execMshget o x s
  | .minv o x => Sys2Proof.Machine.execMinv o x s
  | .mlu o x => Sys2Proof.Machine.execMlu o x s
  | .mchol o x => Sys2Proof.Machine.execMchol o x s
  | .msolvl o x => Sys2Proof.Machine.execMsolvl o x s
  | .msolvu o x => Sys2Proof.Machine.execMsolvu o x s
  | .mpow o x => Sys2Proof.Machine.execMpow o x s
  | .mdet o x => Sys2Proof.Machine.execMdet o x s
  | .topkIns o x => Sys2Proof.Machine.execTopkIns o x s
  | .topkGet o x => Sys2Proof.Machine.execTopkGet o x s
  | .topkClr o x => Sys2Proof.Machine.execTopkClr o x s
  | .ldG o x => Sys2Proof.Machine.execLdG o x s
  | .ldL o x => Sys2Proof.Machine.execLdL o x s
  | .ldP o x => Sys2Proof.Machine.execLdP o x s
  | .ldC o x => Sys2Proof.Machine.execLdC o x s
  | .stG o x => Sys2Proof.Machine.execStG o x s
  | .stL o x => Sys2Proof.Machine.execStL o x s
  | .stP o x => Sys2Proof.Machine.execStP o x s
  | .stGw o x => Sys2Proof.Machine.execStGw o x s
  | .atom o x => Sys2Proof.Machine.execAtom o x s
  | .red o x => Sys2Proof.Machine.execRed o x s
  | .atomL o x => Sys2Proof.Machine.execAtomL o x s
  | .redL o x => Sys2Proof.Machine.execRedL o x s
  | .ldf o x => Sys2Proof.Machine.execLdf o x s
  | .stf o x => Sys2Proof.Machine.execStf o x s
  | .fence o x => Sys2Proof.Machine.execFence o x s
  | .pfence o x => Sys2Proof.Machine.execPfence o x s
  | .wback o x => Sys2Proof.Machine.execWback o x s
  | .smp o x => Sys2Proof.Machine.execSmp o x s
  | .ldt o x => Sys2Proof.Machine.execLdt o x s
  | .binit o x => Sys2Proof.Machine.execBinit o x s
  | .barv o x => Sys2Proof.Machine.execBarv o x s
  | .bexp o x => Sys2Proof.Machine.execBexp o x s
  | .bwait o x => Sys2Proof.Machine.execBwait o x s
  | .btest o x => Sys2Proof.Machine.execBtest o x s
  | .barvx o x => Sys2Proof.Machine.execBarvx o x s
  | .mark o x => Sys2Proof.Machine.execMark o x s
  | .unmark o x => Sys2Proof.Machine.execUnmark o x s
  | .frog o x => Sys2Proof.Machine.execFrog o x s
  | .frogq o x => Sys2Proof.Machine.execFrogq o x s
  | .pref o x => Sys2Proof.Machine.execPref o x s
  | .cpyGl o x => Sys2Proof.Machine.execCpyGl o x s
  | .cpyLg o x => Sys2Proof.Machine.execCpyLg o x s
  | .cpyt o x => Sys2Proof.Machine.execCpyt o x s
  | .cpytG o x => Sys2Proof.Machine.execCpytG o x s
  | .cpym o x => Sys2Proof.Machine.execCpym o x s
  | .cpyg o x => Sys2Proof.Machine.execCpyg o x s
  | .cdrain o x => Sys2Proof.Machine.execCdrain o x s
  | .qapp o x => Sys2Proof.Machine.execQapp o x s
  | .launch o x => Sys2Proof.Machine.execLaunch o x s
  | .rapp o x => Sys2Proof.Machine.execRapp o x s
  | .wmadv o x => Sys2Proof.Machine.execWmadv o x s
  | .sclose o x => Sys2Proof.Machine.execSclose o x s
  | .wpub o x => Sys2Proof.Machine.execWpub o x s
  | .wpubAmend o x => Sys2Proof.Machine.execWpubAmend o x s
  | .bra o => Sys2Proof.Machine.execBra o s
  | .brd o => Sys2Proof.Machine.execBrd o s
  | .brx o => Sys2Proof.Machine.execBrx o s
  | .callx o => Sys2Proof.Machine.execCallx o s
  | .call o => Sys2Proof.Machine.execCall o s
  | .ret o => Sys2Proof.Machine.execRet o s
  | .rgive o => Sys2Proof.Machine.execRgive o s
  | .rclaim o => Sys2Proof.Machine.execRclaim o s
  | .srd o ix => Sys2Proof.Machine.execSrd o ix s
  | .swr o ix => Sys2Proof.Machine.execSwr o ix s
  | .trap o => Sys2Proof.Machine.execTrap o s
  | .trapReturn o => Sys2Proof.Machine.execTrapReturn o s
  | .trapTerminate o => Sys2Proof.Machine.execTrapTerminate o s
  | .tlbinvAll o x => Sys2Proof.Machine.execTlbinvAll o x s
  | .tlbinvAsid o x => Sys2Proof.Machine.execTlbinvAsid o x s
  | .tlbinvPage o x => Sys2Proof.Machine.execTlbinvPage o x s
  | .tlbinvGpage o x => Sys2Proof.Machine.execTlbinvGpage o x s
  | .imad24I24 o => Sys2Proof.Machine.execImad24I24 o s
  | .imad24N24 o => Sys2Proof.Machine.execImad24N24 o s
  | .dot4i8I8 o => Sys2Proof.Machine.execDot4i8I8 o s
  | .dot4i8N8 o => Sys2Proof.Machine.execDot4i8N8 o s
  | .ldro o x => Sys2Proof.Machine.execLdro o x s
  | .succ => Sys2Proof.Machine.execSucc s
  | .predw => Sys2Proof.Machine.execPredw s
  | .exit => Sys2Proof.Machine.execExit s
  | .endTeam => Sys2Proof.Machine.execEndTeam s
  | .nop => Sys2Proof.Machine.execNop s
  | .yield => Sys2Proof.Machine.execYield s
  | .bkpt => Sys2Proof.Machine.execBkpt s
  | .eret => Sys2Proof.Machine.execEret s
  | .clauseStart => Sys2Proof.Machine.execClauseStart s
  | .flagRelease => Sys2Proof.Machine.execFlagRelease s
  | .joinArrival => Sys2Proof.Machine.execJoinArrival s
  | .teamSwap => Sys2Proof.Machine.execTeamSwap s
  | .forcedSwap => Sys2Proof.Machine.execForcedSwap s
  | .leaveGrant => Sys2Proof.Machine.execLeaveGrant s
  | .droopStep => Sys2Proof.Machine.execDroopStep s
  | .watchdogExpiry => Sys2Proof.Machine.execWatchdogExpiry s
  | .trapDelivery => Sys2Proof.Machine.execTrapDelivery s
  | .retiredOpcodeEmulation => Sys2Proof.Machine.execRetiredOpcodeEmulation s
  | .groupPreemption => Sys2Proof.Machine.execGroupPreemption s
  | .groupResumption => Sys2Proof.Machine.execGroupResumption s
  | .priorityPreemption => Sys2Proof.Machine.execPriorityPreemption s
  | .groupDispatch => Sys2Proof.Machine.execGroupDispatch s
  | .gridCompletion => Sys2Proof.Machine.execGridCompletion s
  | .predecessorArrival => Sys2Proof.Machine.execPredecessorArrival s
  | .queuePoll => Sys2Proof.Machine.execQueuePoll s
  | .packetLaunch => Sys2Proof.Machine.execPacketLaunch s
  | .packetCopy => Sys2Proof.Machine.execPacketCopy s
  | .packetSignal => Sys2Proof.Machine.execPacketSignal s
  | .packetWaitseq => Sys2Proof.Machine.execPacketWaitseq s
  | .waitseqPoll => Sys2Proof.Machine.execWaitseqPoll s
  | .packetWmadv => Sys2Proof.Machine.execPacketWmadv s
  | .packetRecords => Sys2Proof.Machine.execPacketRecords s
  | .packetCompletion => Sys2Proof.Machine.execPacketCompletion s
  | .asyncCompletion => Sys2Proof.Machine.execAsyncCompletion s
  | .copySectorLand => Sys2Proof.Machine.execCopySectorLand s
  | .creelSlotGrant => Sys2Proof.Machine.execCreelSlotGrant s
  | .drainSlotReady => Sys2Proof.Machine.execDrainSlotReady s
  | .queueAppendRoom => Sys2Proof.Machine.execQueueAppendRoom s
  | .homeSliceRead => Sys2Proof.Machine.execHomeSliceRead s
  | .homeSliceWrite => Sys2Proof.Machine.execHomeSliceWrite s
  | .futureCellRead => Sys2Proof.Machine.execFutureCellRead s
  | .deferralExpiry => Sys2Proof.Machine.execDeferralExpiry s
  | .ownershipRequest => Sys2Proof.Machine.execOwnershipRequest s
  | .farAtomic => Sys2Proof.Machine.execFarAtomic s
  | .contendedExpiry => Sys2Proof.Machine.execContendedExpiry s
  | .rdcInvalidation => Sys2Proof.Machine.execRdcInvalidation s
  | .rdcFill => Sys2Proof.Machine.execRdcFill s
  | .softError => Sys2Proof.Machine.execSoftError s
  | .patrolScrub => Sys2Proof.Machine.execPatrolScrub s
  | .sweep => Sys2Proof.Machine.execSweep s
  | .frogInterval => Sys2Proof.Machine.execFrogInterval s
  | .resweepPass => Sys2Proof.Machine.execResweepPass s
  | .recordPlacement => Sys2Proof.Machine.execRecordPlacement s
  | .stageRecompute => Sys2Proof.Machine.execStageRecompute s
  | .windowTransit => Sys2Proof.Machine.execWindowTransit s
  | .amendmentLaunch => Sys2Proof.Machine.execAmendmentLaunch s
  | .lateTimerExpiry => Sys2Proof.Machine.execLateTimerExpiry s
  | .windowFree => Sys2Proof.Machine.execWindowFree s
  | .sourceIdleScan => Sys2Proof.Machine.execSourceIdleScan s
  | .watermarkPropagation => Sys2Proof.Machine.execWatermarkPropagation s
  | .transportDescriptor => Sys2Proof.Machine.execTransportDescriptor s
  | .frameQueueAppend => Sys2Proof.Machine.execFrameQueueAppend s
  | .frameRemoteWrite => Sys2Proof.Machine.execFrameRemoteWrite s
  | .frameRemoteAtomic => Sys2Proof.Machine.execFrameRemoteAtomic s
  | .frameWatermark => Sys2Proof.Machine.execFrameWatermark s
  | .frameAck => Sys2Proof.Machine.execFrameAck s
  | .frameNack => Sys2Proof.Machine.execFrameNack s
  | .transportAckTimeout => Sys2Proof.Machine.execTransportAckTimeout s
  | .ctxopCreate => Sys2Proof.Machine.execCtxopCreate s
  | .ctxopReloadScope => Sys2Proof.Machine.execCtxopReloadScope s
  | .ctxopReloadQueues => Sys2Proof.Machine.execCtxopReloadQueues s
  | .ctxopReloadStream => Sys2Proof.Machine.execCtxopReloadStream s
  | .ctxopKill => Sys2Proof.Machine.execCtxopKill s
  | .killComplete => Sys2Proof.Machine.execKillComplete s
  | .ctxopResume => Sys2Proof.Machine.execCtxopResume s
  | .ctxopDeliver => Sys2Proof.Machine.execCtxopDeliver s
  | .ctxopTerminate => Sys2Proof.Machine.execCtxopTerminate s
  | .ctxopSetTransportRing => Sys2Proof.Machine.execCtxopSetTransportRing s
  | .ctxopInvalidate => Sys2Proof.Machine.execCtxopInvalidate s
  | .ctxopUndefined => Sys2Proof.Machine.execCtxopUndefined s
  | .ntfbaseWrite => Sys2Proof.Machine.execNtfbaseWrite s
  | .ntftailWrite => Sys2Proof.Machine.execNtftailWrite s
  | .pwrcapWrite => Sys2Proof.Machine.execPwrcapWrite s
  | .hwslWrite => Sys2Proof.Machine.execHwslWrite s
  | .registerWrite => Sys2Proof.Machine.execRegisterWrite s
  | .hostWindowRead => Sys2Proof.Machine.execHostWindowRead s
  | .hostWindowWrite => Sys2Proof.Machine.execHostWindowWrite s
  | .hostWindowAtomic => Sys2Proof.Machine.execHostWindowAtomic s
  | .configRequest => Sys2Proof.Machine.execConfigRequest s
  | .powerGood => Sys2Proof.Machine.execPowerGood s
  | .mctpControlMessage => Sys2Proof.Machine.execMctpControlMessage s
  | .readTemperatures => Sys2Proof.Machine.execReadTemperatures s
  | .readPower => Sys2Proof.Machine.execReadPower s
  | .readSoftErrorCounts => Sys2Proof.Machine.execReadSoftErrorCounts s
  | .readIdent => Sys2Proof.Machine.execReadIdent s
  | .faultReport => Sys2Proof.Machine.execFaultReport s
  | .attestationRequest => Sys2Proof.Machine.execAttestationRequest s
  | .illegalInstruction => Sys2Proof.Machine.execIllegalInstruction s
  | .pcieCompletionFromHost => Sys2Proof.Machine.execPcieCompletionFromHost s

end Sys2Proof.Machine
end

