-- ==== Sys2Proof/Machine/Sched.lean ====
section
/-! DEFINITION. What a step adds around `exec` (07 R167 to R178): time and counters, what is due by now, which path may run and
which the scheduler selects, what its next instruction is; and a state in which a given word is the next instruction. -/

namespace Sys2Proof.Machine

/-- One ETIME tick of a core's clock (R167 to R169): the cycle in which it stands goes on, or ends within the tick and the next one
begins, at a gauge that is free (log 1), stretched as its die is then. -/
def Clock.tick (core stretch : Nat) (k : Clock) : Clock :=
  if Config.tickFs ≤ k.rest then { k with rest := k.rest - Config.tickFs } else
  let g := Config.cycleGauge core k.cyc.toNat
  let one (i : Fin 4) : BitVec 32 := if g = i then 1 else 0
  { rest := k.rest + Config.gaugeFs g * (1000 + 5 * stretch) / 1000 - Config.tickFs, cyc := k.cyc + 1
    gcyc0 := k.gcyc0 + one 0, gcyc1 := k.gcyc1 + one 1, gcyc2 := k.gcyc2 + one 2, gcyc3 := k.gcyc3 + one 3 }

/-- A core's clock after some ticks. -/
def Clock.pass (core stretch : Nat) : Nat → Clock → Clock
  | 0, k => k
  | n + 1, k => (k.tick core stretch).pass core stretch n

/-- The clocks of some cores from a number upward after some ticks, by the stretches of their dies. -/
def passFrom (stretch : Nat → Nat) (ticks : Nat) : Nat → Nat → Tab Clock → Tab Clock
  | 0, _, _ => []
  | k + 1, n, [] => (n, Clock.zero.pass n (stretch n) ticks) :: passFrom stretch ticks k (n + 1) []
  | k + 1, n, e :: t =>
    if e.1 = n then (n, e.2.pass n (stretch n) ticks) :: passFrom stretch ticks k (n + 1) t
    else (n, Clock.zero.pass n (stretch n) ticks) :: passFrom stretch ticks k (n + 1) (e :: t)

/-- The clocks of every core after some ticks. -/
def State.clocksAfter (s : State) (ticks : Nat) : Tab Clock :=
  passFrom (fun n => (s.die (dieOf n)).stretch) ticks Config.cores 0 s.clocks

/-- The state some ticks later (R168, R169). -/
def State.later (s : State) (ticks : Nat) : State := { s with etime := s.etime + ticks, clocks := s.clocksAfter ticks }

/-- Every path of the module. -/
def State.refs (s : State) : List Ref :=
  s.groups.flatMap fun g => g.2.teams.flatMap fun t => t.2.paths.map fun p => { gid := g.1, role := t.1, slot := p.1 }

/-- Every path of a resident group, as it stands. -/
def State.residentPaths (s : State) : List Cur :=
  (s.refs.filterMap s.at).filter fun c => c.g.place = .resident

/-- A state after what is done for each path of a list, each as it stands then. -/
def State.forPaths (s : State) (f : State → Cur → State) : State :=
  s.refs.foldl (fun s r => match s.at r with
    | none => s
    | some c => if c.g.place = .resident then f s c else s) s

/-- Grids whose watchdog expired in an earlier tick, with no group retired in that tick: their faults are due (R178). -/
def State.expireDue (s : State) : State :=
  (s.grids.filter fun d => match d.2.expired with | none => false | some t => t < s.etime).foldl (fun s d => s.expire d.1) s

/-- Watchdog faults that are due are taken (R178). -/
def State.watchdogs (s : State) : State := s.forPaths fun s c => if s.wdogDue c then s.takeWatchdog c else s

/-- Leave requests whose 800 ticks have passed are granted (R176). -/
def State.grantsDue (s : State) : State :=
  s.forPaths fun s c => match c.p.grant with
    | .asked t _ => if t + Config.grantTicks ≤ s.etime then s.answerLeave c else s
    | _ => s

/-- The stretch of a die rises where the arbiter has asked for it, a step in 20 ns at most (R168, R176). -/
def State.droopDue (s : State) : State :=
  (tkeys s.dies).foldl (fun s n =>
    let d := s.die n
    if d.goal = 0 then s else if s.etime < d.changed + Config.droopTicks then s else s.stretchUp n) s

/-- Kills that began 20 ms ago are complete (R403). -/
def State.killsDue (s : State) : State :=
  (s.ctxs.filter fun x => match x.2.kill with | .live => false | .killing t => t + Config.killTicks ≤ s.etime).foldl
    (fun s x => s.killDone x.1) s

/-- A context with nothing that a frog interval begins for: no name listed, no window whose free was refused (R93, R133). -/
def Ctx.frogless (x : Ctx) : Bool :=
  x.frogs.isEmpty && x.bindings.all fun b => b.2.windows.all fun w => ¬ (w.2.freeing = .refused)

/-- What an engine does at a poll (R182): it reads the header of its queue, and a packet that it may consume starts. -/
def pollSteps (q : QRef) : List (Instr × Input) :=
  (.queuePoll, .queue q) :: if q.q = 64 then [(.transportDescriptor, .one q.asid)] else
    [(.packetLaunch, .queue q), (.packetCopy, .queue q), (.packetSignal, .queue q), (.packetWaitseq, .queue q),
      (.packetWmadv, .queue q), (.packetRecords, .packet q 0)]

/-- The queues of a context, its transport ring among them. -/
def Ctx.queueRefs (x : Ctx) (asid : Nat) : List QRef :=
  (x.queues.map fun e => { asid := asid, q := e.1 }) ++ if x.ring.isSome then [{ asid := asid, q := 64 }] else []

/-- The steps of units that time alone makes due: grids past their watchdog (R178), deferrals past their deadline (R64), frog
intervals (R133), polls of queues (R182) and of WAITSEQ (R189), frames without acknowledgement (R397), idle sources (R214), late timers
(R220), contended lines (R58). Each acts only where it is due. -/
def State.timed (s : State) : List (Instr × Input) :=
  let ctx (f : Nat → Ctx → List (Instr × Input)) : List (Instr × Input) := s.ctxs.flatMap fun x => f x.1 x.2
  ((s.grids.filter fun d => d.2.started.isSome && ¬ d.2.done && d.2.expired.isNone).map fun d => (.watchdogExpiry, .one d.1)) ++
  (if s.defer.isEmpty then [] else [(.deferralExpiry, .none)]) ++
  ((s.ctxs.filter fun x => ¬ x.2.frogless).map fun x => (.frogInterval, .one x.1)) ++
  (ctx fun asid x => ((x.queueRefs asid).filter fun q => (s.engine q).polled + Config.pollTicks ≤ s.etime).flatMap pollSteps) ++
  ((s.engines.filter fun e => e.2.packets.any fun p => p.kind = 4 && ¬ p.done && decide (p.since + 1024 ≤ s.etime)).map fun e =>
    (.waitseqPoll, .queue { asid := e.1 / 256, q := e.1 % 256 })) ++
  (ctx fun asid x => (x.channels.filter fun k => ¬ k.2.sent.isEmpty).map fun k => (.transportAckTimeout, .two asid k.1)) ++
  (ctx fun asid x => if x.sources.any fun k => k.2.state = .active && k.2.idlet ≠ 0 then [(.sourceIdleScan, .one asid)] else []) ++
  (ctx fun asid x => x.bindings.flatMap fun b => (b.2.windows.filter fun w => b.2.ltimer ≠ 0 && w.2.transited && ¬ w.2.timer).map
    fun w => (.lateTimerExpiry, .three asid b.1 w.1)) ++
  ((s.l2.filter fun d => d.2.contended.isSome).map fun d => (.contendedExpiry, .one d.1))

/-- The host is asked for the bytes that a step of a unit wants and has not asked for (R35). -/
def State.askUnit (s : State) (who : Instr × Input) (ks : List (Nat × Nat)) : State :=
  ks.foldl (fun s k =>
    if s.unitReqs.any fun q => q.who = who && q.pa = k.1 then s else
    { s with
      fresh := s.fresh + 1, unitReqs := s.unitReqs ++ [{ id := s.fresh, who := who, pa := k.1, size := k.2 }]
      out := s.out ++ [.hostRead s.fresh k.1 k.2] }) s

/-- A step of a unit (R35): where it reads bytes of host memory that have not come, it asks for them and does nothing else. -/
def State.attempt (s : State) (i : Instr) (x : Input) : Res :=
  match exec i { s with input := x, asker := some (i, x), wanted := [] } with
  | .next t =>
    if t.wanted.isEmpty then .next { t with asker := none, unitData := t.unitData.filter fun e => e.who ≠ (i, x) }
    else .next (s.askUnit (i, x) t.wanted)
  | r => r

/-- A step of a unit that takes place beside what the machine does. -/
def State.happen (s : State) (i : Instr) (x : Input) : State :=
  match s.attempt i x with
  | .next t => t
  | _ => s

/-- What time alone has made due is done; a frog interval that ends with nothing listed begins no pass. -/
def State.timedDue (s : State) : State :=
  let s := s.timed.foldl (fun s e => s.happen e.1 e.2) s
  { s with ctxs := tmap s.ctxs fun _ x => if x.frogless then { x with frogDone := s.etime / x.frogIv } else x }

/-- Groups saved 2 ms ago resume where there is room (R177). -/
def State.resumesDue (s : State) : State :=
  ((s.groups.filter fun g => g.2.away).map Prod.fst).foldl (fun s gid => s.resumeDue gid) s

/-- Traps whose teams have completed their issued instructions are delivered (R375). -/
def State.trapsDue (s : State) : State :=
  let due := s.groups.flatMap fun g => (g.2.teams.filter fun t => match t.2.trap with
    | none => false
    | some tr => tr.phase = .drain).map fun t => (g.1, t.1)
  due.foldl (fun s t => s.trapGo t.1 t.2) s

/-- Operations cancelled at a trap or a pre-emption are issued again where their team goes on (Table 16-3). -/
def State.retries (s : State) : State := s.cancelled.foldl (fun s k => s.issueAgain k) s

/-- Register writes that nothing has waited on are done at any time (R262): those that a free choice selects are. -/
def State.landSome (s : State) : State :=
  let now (l : Land) : Bool := Config.landsNow s.free l.id
  let ts := s.groups.flatMap fun g => (g.2.teams.filter fun t => t.2.landing.any now).map fun t => (g.1, t.1)
  ts.foldl (fun s t => s.landIf t.1 t.2 now) s

/-- The pipes of a core (R147). -/
inductive Pipe where
  | alu | mat | mem
  deriving DecidableEq, Repr

/-- The pipe on which an instruction issues, by its major (R147, R273, R175). -/
def pipeOf (w : Word) : Pipe :=
  let m := majorOf w
  if m = 0x30 ∨ (0x34 ≤ m ∧ m ≤ 0x38) then .mat
  else if (0x31 ≤ m ∧ m ≤ 0x33) ∨ (0x40 ≤ m ∧ m ≤ 0x4A) ∨ (0x50 ≤ m ∧ m ≤ 0x56) then .mem
  else .alu

/-- The number of a pipe. -/
def Pipe.num : Pipe → Nat
  | .alu => 0
  | .mat => 1
  | .mem => 2

/-- What the scheduler selects among (R174): a ready path of the active set, whether its next instruction is the first of a
clause, its pipe, the gauge of the clause. -/
structure Cand where
  cur   : Cur
  start : Bool
  pipe  : Pipe
  gauge : Nat

/-- A ready path as the scheduler sees it; none for one whose next clause is its join or cannot be fetched, which issues no
pass. -/
def State.cand (s : State) (c : Cur) : Option Cand :=
  match c.p.clause with
  | some k => some { cur := c, start := k.pos = 0, pipe := pipeOf k.word0, gauge := hdrGauge k.hdr }
  | none => match s.peekHeader c with
    | none => none
    | some h =>
      if c.joins h then none
      else some { cur := c, start := true, pipe := pipeOf ((s.peekCode c (c.p.pc + 4)).getD 0), gauge := hdrGauge h }

/-- The ready paths of a core's active set. -/
def State.readyPaths (s : State) (core : Nat) : List Cur :=
  (s.core core).active.flatMap fun t => [0, 1].filterMap fun k => match s.at { gid := t.gid, role := t.role, slot := k } with
    | none => none
    | some c => if s.ready c then some c else none

/-- What the scheduler of a core selects among. -/
def State.cands (s : State) (core : Nat) : List Cand := (s.readyPaths core).filterMap s.cand

/-- The cycles since a path became ready (R174). -/
def State.waited (s : State) (d : Cand) : Nat :=
  let now := (s.clock d.cur.g.core).cyc.toNat
  now - d.cur.p.since.getD now

/-- Those of the cycles since a path became ready that count as waiting: its pipe was not occupied by an earlier pass (R175). -/
def State.counted (s : State) (d : Cand) : Nat :=
  let now := (s.clock d.cur.g.core).cyc.toNat
  let since := d.cur.p.since.getD now
  (List.range (now - since)).countP fun i => ¬ Config.pipeBusy d.cur.g.core d.pipe.num (since + i)

/-- A clause start that has waited 192 cycles (R174 rule 1). -/
def State.aged (s : State) (d : Cand) : Bool := d.start && Config.agedCycles ≤ s.waited d

/-- The team of a candidate. -/
def Cand.team (d : Cand) : Nat × Nat := (d.cur.r.gid, d.cur.r.role)

/-- Whether a candidate goes before another one on the same pipe (R174 rules 1 to 3): an aged clause start, the oldest first;
then the next instruction of a started clause before a clause start of another team; then the older of two clause starts of the
preferred gauge. -/
def State.precedes (s : State) (d c : Cand) : Bool :=
  if d.pipe ≠ c.pipe then false
  else if s.aged d then ¬ s.aged c || s.waited c < s.waited d
  else if s.aged c then false
  else if ¬ d.start then c.start && d.team ≠ c.team
  else c.start && d.gauge = c.gauge && s.waited c < s.waited d

/-- The passes of an instruction of a path: one for each word of its mask with a lane (R144). -/
def Cur.passes (c : Cur) : Nat := (wordsOf (bitList c.p.mask 1024)).length

/-- Whether two paths are the slots of one team. -/
def Cur.mate (c d : Cur) : Bool := d.r.gid = c.r.gid && d.r.role = c.r.role

/-- Whether the passes of a path's instruction would be the last by which its team's other slot may be passed over (R175). -/
def Cur.passedOver (c d : Cur) : Bool := c.mate d && Config.slotIssues ≤ d.p.missed + c.passes

/-- Whether a path may go by the rules of R174, of other ready paths of its core: none of them goes before it, and a clause start that
is not aged has the preferred gauge, unless its team's other slot may not go any more without it (R175). -/
def State.fits (s : State) (c : Cur) (ds : List Cur) : Bool :=
  match s.cand c with
  | none => true
  | some k => (¬ k.start || s.aged k || k.gauge = (s.core c.g.core).pref || ds.any fun d => d.passedOver c) &&
      (ds.filterMap s.cand).all fun d => ¬ s.precedes d k

/-- Whether the scheduler of its core may select a path (R174, R175): it may go by the rules, and it does not pass over the other slot
of its team, if that is ready: the slots alternate where both may go, and each issues within 64 passes. -/
def State.selects (s : State) (c : Cur) : Bool :=
  match s.readyPaths c.g.core with
  | [] => true
  | rs => match rs.filter fun d => d.r ≠ c.r with
    | [] => true
    | ds => s.fits c ds && ds.all fun d =>
        ¬ c.mate d || (¬ c.passedOver d && (d.p.missed = 0 || ¬ s.fits d (rs.filter fun e => e.r ≠ d.r)))

/-- The gauge with the most ready clause starts; a tie goes to the shorter gauge (R174 rule 4). -/
def newPref (starts : List Cand) : Nat :=
  let n (g : Nat) : Nat := (starts.filter fun d => d.gauge = g).length
  [1, 2, 3].foldl (fun b g => if n b < n g then g else b) 0

/-- A core chooses a new preferred gauge when no ready clause start has the old one, or when that has held for 64 cycles
(R174 rule 4). -/
def State.prefer (s : State) (core : Nat) : State :=
  let starts := (s.cands core).filter Cand.start
  if starts.isEmpty then s else
  let k := s.core core
  let now := (s.clock core).cyc.toNat
  if starts.all (fun d => d.gauge ≠ k.pref) || k.prefAt + Config.prefCycles ≤ now then
    s.modCore core fun k => { k with pref := newPref starts, prefAt := now }
  else s

/-- A path that has become ready is noted with the CYC of its core, and one that is ready no more is not (R173 to R175); a path
whose next clause waits for nothing but its leave grant asks for it (R176). -/
def State.notePath (s : State) (c : Cur) : State :=
  let since := if s.ready c then some (c.p.since.getD (s.clock c.g.core).cyc.toNat) else none
  let s := if since = c.p.since then s else s.modPath c.r fun p => { p with since := since }
  if c.p.grant = .none ∧ s.wantsGrant c then s.askLeave c.r else s

/-- The swap that is due on a core (R173): with a full active set and a pending team ready, the exchange with an active team that
is blocked long, else the forced one when that team has been ready for 224 cycles; the team that leaves and the one that enters. None in
a cycle in which the core has made one. -/
def State.swapDue (s : State) (core : Nat) : Option (Instr × TRef × TRef) :=
  if (s.core core).active.length < Config.activeTeams then none else
  if ¬ s.swapFree core then none else
  match s.longestReady core with
  | none => none
  | some t => match (s.core core).active.find? s.blockedLong with
    | some b => some (.teamSwap, b, t)
    | none => match s.readySince t, s.oldestIssue core with
      | some n, some o => if n + Config.forcedCycles ≤ (s.clock core).cyc.toNat then some (.forcedSwap, o, t) else none
      | _, _ => none

/-- Whether a path's team is in its core's active set, and not since this cycle (R173), or finds room there (R172). -/
def State.mayEnter (s : State) (c : Cur) : Bool :=
  let t : TRef := { gid := c.r.gid, role := c.r.role }
  let k := s.core c.g.core
  let late : Bool := match k.swap with
    | none => false
    | some (n, e) => e = t && n = (s.clock c.g.core).cyc.toNat
  (k.active.contains t && ¬ late) || (¬ k.active.contains t && k.active.length < Config.activeTeams)

/-- Whether a path may run now: its group is resident, its team in the active set with no swap due, and the path is ready and
selected. -/
def State.mayRun (s : State) (c : Cur) : Bool :=
  c.g.place = .resident && s.mayEnter c && (s.swapDue c.g.core).isNone && s.ready c && s.selects c

/-- Whether a ready path has waited as long as it may (R175, R177). -/
def State.overdue (s : State) (c : Cur) : Bool :=
  match c.p.since with
  | none => false
  | some _ => match s.cand c with
    | none => false
    | some d => Config.readyCycles ≤ s.counted d

/-- Whether a core can act in its present cycle: a swap is due, or a path may run. -/
def State.coreActs (s : State) (core : Nat) : Bool :=
  (s.swapDue core).isSome || s.residentPaths.any fun c => c.g.core = core && s.mayRun c

/-- Whether no time may pass before a core acts: a path that may wait no longer stands on it (R175, R177). -/
def State.stands (s : State) : Bool := s.residentPaths.any fun c => s.overdue c && s.coreActs c.g.core

/-- How many of some ticks pass: those before time stands. -/
def State.span (s : State) : Nat → Nat
  | 0 => 0
  | n + 1 =>
    let m := s.span n
    if m < n ∨ (s.later m).stands then m else m + 1

/-- Time passes (R168, R169, log 1): ETIME goes on by a free number of ticks, as far as the promises of R175 and R177 let it, and the
clock of every core with it. -/
def State.tick (s : State) : State :=
  let n := s.span (Config.stepTicks s.free)
  { s with etime := s.etime + n, clocks := s.clocksAfter n, free := s.free + 1 }

/-- What passes before the machine acts: time, then what is due by now. -/
def State.before (s : State) : State :=
  let s : State := { s.tick with mode := .whole }
  let s := s.expireDue.watchdogs.grantsDue.droopDue.killsDue.timedDue.resumesDue
  let s := s.trapsDue.retries.invalsDone.landSome
  let s := s.forPaths State.notePath
  (tkeys s.cores).foldl (fun s n => s.prefer n) s

/-- Whether an operation of the copy units starts nothing in a path, and only its fences act (R353, R358). -/
def Cur.fencesOnly (c : Cur) (g : Guard) : Instr → Bool
  | .cpym _ _ => true
  | _ => (c.workers g).isEmpty

/-- Whether a path's instruction performs a release at system scope when it issues (R44, R80, R92, R353). -/
def Cur.systemRelease (c : Cur) (g : Guard) (i : Instr) : Bool :=
  match i with
  | .stG _ x | .stL _ x | .stP _ x | .stGw _ x => ordRel x.ord && x.scope = 5
  | .stf _ x => x.scope = 5
  | .atom _ x | .red _ x | .atomL _ x | .redL _ x => ordRel x.ord && x.scope = 5
  | .mst _ x | .mstT _ x => ordRel x.ord && x.scope = 5
  | .fence _ x => ordRel x.ord && x.scope = 5
  | .pfence _ x => x.scope = 5
  | .binit _ x | .barv _ x | .barvx _ x => x.scope = 5
  | .frog _ x => x.scope = 5
  | .mark o _ => c.t.marker o.d.toNat ≠ 0
  | .unmark _ _ => true
  | .exit | .endTeam => c.t.markers.any fun m => m.2 ≠ 0
  | .rapp _ x | .wmadv _ x | .sclose _ x | .wpub _ x | .wpubAmend _ x => x.scope = 5
  | .cpyGl _ x | .cpyLg _ x | .cpyt _ x | .cpytG _ x | .cpym _ x | .cpyg _ x | .cdrain _ x | .qapp _ x | .launch _ x =>
    x.rel = 1 && x.scope = 5 && c.fencesOnly g i
  | _ => false

/-- Whether an instruction of a path must wait for what the path has issued: one that the reads of its path precede, for its LDFs and its
reads of host memory (R79, R81, R35); a release at system scope, for the acknowledgements of its frames (R44, R397). -/
def State.mustWait (s : State) (c : Cur) (g : Guard) (i : Instr) : Bool :=
  (awaitsReads i && (s.undecided c.r || s.issues.any fun e => e.before c.r && e.waitsHost)) ||
    (c.systemRelease g i && s.owesFrames c.g.asid c.r)

/-- Which accesses that its path has issued are performed before an instruction acts. -/
inductive Flush where
  | none | reads | all
  deriving DecidableEq, Repr

/-- What an instruction performs of what its path has issued before it acts (R79, R81): nothing where it reads and writes registers or the
pc only, or reads memory; the reads where it is a plain store, an atomic that does not release, or an acquire fence; else everything.
What it shares bytes with it performs in any case (R83). -/
def flushOf (i : Instr) : Flush :=
  match i with
  | .ldG _ _ | .ldL _ _ | .ldP _ _ | .ldC _ _ | .smp _ _ | .ldt _ _ | .mld _ _ | .mldT _ _ | .mldw _ _ | .ldf _ _ => .none
  | .bra _ | .brx _ | .call _ | .callx _ | .ret _ | .brd _ | .yield | .nop | .srd _ _ => .none
  | .stG _ x | .stL _ x | .stP _ x | .stGw _ x => if ordRel x.ord then .all else .reads
  | .mst _ x | .mstT _ x => if ordRel x.ord then .all else .reads
  | .atom _ x | .red _ x | .atomL _ x | .redL _ x => if ordRel x.ord then .all else .reads
  | .fence _ x => if x.ord = 0 then .none else if x.ord = 1 then .reads else .all
  | i => match encode { neg := 0, p := 7 } i with
    | [] => .all
    | w :: _ => if pipeOf w = .mat || (pipeOf w = .alu && majorOf w < 0x2B) then .none else .all

/-- What a path has issued is performed as far as an instruction asks (R79). -/
def State.flushFor (s : State) (r : Ref) : Flush → State
  | .none => s
  | .reads => s.flush fun e => e.before r && e.how.reads
  | .all => s.flush (Issue.before r)

/-- Time passes until the cycle of a core ends within the tick: what a core does, it does at the boundary of a cycle, so that its counts of
cycles and of ticks agree (R167 to R169, R411). -/
def State.align (s : State) (core : Nat) : State := s.later ((s.clock core).rest / Config.tickFs)

/-- The state in which a path acts: it is the current one, its team in the active set, and an issue is noted: the CYC of the
core for the team (R173), the passes by which the team's other slot was passed over if that was ready (R175). How a pending team takes a
free place in the active set the spec does not say: it enters when it first issues, and the scheduler counts it among those it selects
among from then on (DESIGN CHOICE, log 80). -/
def State.enter (s : State) (c : Cur) : State :=
  let s := { (s.align c.g.core).activate c.g.core { gid := c.r.gid, role := c.r.role } with cur := some c.r }
  let now := (s.clock c.g.core).cyc.toNat
  if c.p.clause.isNone then s else
  s.modTeam c.r.gid c.r.role fun t => { t with
    issued := now
    paths := tmap t.paths fun k p =>
      if k = c.r.slot then { p with since := none, missed := 0 }
      else if p.since.isSome then { p with missed := p.missed + c.passes } else p }

/-- A path acts: it arrives at its join, starts its next clause, or executes its next instruction. A release at system scope
that waits for acknowledgements has written its core's dirty bytes back; nothing that waits acts. -/
def State.runPath (s : State) (c : Cur) : Res :=
  let s := s.enter c
  match c.p.clause with
  | none =>
    if s.standsAtJoin c then exec .joinArrival (s.modPath c.r fun p => { p with since := none }) else exec .clauseStart s
  | some k => match parse k.word0 k.word1 with
    | .error _ => exec .illegalInstruction s
    | .ok i =>
      if s.mustWait c (guardOf k.word0) i then
        .next (if c.systemRelease (guardOf k.word0) i then (s.flushFor c.r .all).release c.g.core 5 else s)
      else exec i { s.flushFor c.r (flushOf i) with guard := guardOf k.word0 }

/-- The paths in the order in which they are tried where no turn is given: from the one after the current path on. -/
def State.round (s : State) : List Ref :=
  match s.cur with
  | none => s.refs
  | some r => (s.refs.dropWhile (· ≠ r)).drop 1 ++ s.refs

/-- The path that runs where no turn is given: the first that may. -/
def State.pick (s : State) : Option Cur :=
  s.round.findSome? fun r => match s.at r with
    | none => none
    | some c => if s.mayRun c then some c else none

/-- A clause whose flags can be released. -/
def State.releasable (s : State) : Option (Sys2Proof.TRef × Nat) :=
  s.groups.findSome? fun g => g.2.teams.findSome? fun t =>
    (t.2.outst.find? fun o => o.issued && o.ops.isEmpty).map fun o => ({ gid := g.1, role := t.1 }, o.clause)

/-- A core on which a swap is due, with the swap. -/
def State.anySwap (s : State) : Option (Nat × Instr × TRef × TRef) :=
  (tkeys s.cores).findSome? fun n => (s.swapDue n).map fun k => (n, k)

/-- Whether an event of an issued access can be performed: it does not wait for the host. -/
def Issue.canGo (e : Issue) : Bool := e.lanes.any fun l => l.pieces.any fun p => p.isOpen && ¬ (p.isHost && e.how.reads)

/-- What happens where no turn is given: a swap that is due takes place, else a ready path runs, else a flag is released, else the
oldest issued access is performed, else only time passes. -/
def State.runAny (s : State) : Res :=
  match s.anySwap with
  | some (core, i, l, e) => exec i { s with input := .swap core l e }
  | none => match s.pick with
    | some c => s.runPath c
    | none => match s.releasable with
      | some (t, k) => exec .flagRelease { s with input := .clause t k }
      | none => match s.issues.find? Issue.canGo with
        | none => .next s
        | some e => .next (s.doIssue e)

/-- A turn given to a path; a path that may not run lets only time pass. -/
def State.runTurn (s : State) (r : Sys2Proof.Ref) : Res :=
  match s.at r with
  | none => .next s
  | some c => if s.mayRun c then s.runPath c else .next s

/-- Whether a term is a step of a unit that acts by itself, as against what a path does. -/
def isUnitStep (i : Instr) : Bool :=
  match i with
  | .clauseStart | .joinArrival | .illegalInstruction => false
  | i => ¬ i.hasWords

/-- Whether a step may take place while no firmware has been accepted and the module stays in reset (R392, R399). -/
def inReset (i : Instr) : Bool :=
  match i with
  | .powerGood | .configRequest => true
  | _ => false

/-- A step of a unit with what it acts on; a term that is none, and one that the module in reset does not take, lets only time
pass. -/
def State.runEvent (s : State) (i : Instr) (x : Input) : Res :=
  if isUnitStep i ∧ (s.plat.slot.isSome ∨ inReset i) then s.attempt i x else .next s

/-- The launch record of a group that runs one given word. -/
def probeRec : LaunchRec :=
  { dieSet := 255, prio := 0, pinned := false, gang := false, succ := false, teams := 1, lanes := 1, code := 0x1000, csz := 1
    spad := 0, m := 16, v8 := 8, gsz := 1, groups := 1, param := 0, caddr := 0, cval := 0, tiles := 0, tcnt := 0, wseq := 0 }

/-- A clause whose only instruction has the given words: COUNT 1, its CLASS, gauge G3, no flag. -/
def probeClause (ws : List Word) : Clause :=
  { addr := 0x1000
    hdr := word (2 ^ 28 + 2 ^ 25 * (classOf (majorOf (ws.headD 0))).getD 0 + 2 ^ 23 * 3 + 2 ^ 7 * 15 + 2 ^ 3 * 15)
    words := ws, pos := 0, left := 1, id := 0 }

/-- A team whose path in slot 0 stands in that clause. -/
def probeTeam (ws : List Word) : Team :=
  let t := Team.start 0 probeRec
  { t with
    paths := tmap t.paths fun _ p => { p with clause := some (probeClause ws) }
    outst := [{ clause := 0, seta := none, setb := none, slots := 1, issued := false, ops := [], since := 0, asy := false }] }

/-- A group of that team on core 0, and its grid. -/
def probeGroup (ws : List Word) : Group :=
  { asid := 1, grid := 0, index := 0, gang := 0, member := 0, core := 0, firstCore := 0, ways := [], spadKiB := 0, spad := []
    spadPoison := [], privSlot := 0, pool := 0, succ := false, predPhase := true, predErr := false
    teams := [(0, probeTeam ws)], place := .resident, tiles := [] }

/-- The grid of that group. -/
def probeGrid : Grid :=
  { asid := 1, lr := probeRec, origin := .packet { asid := 1, q := 0 } 0, next := 1, endedN := 0, started := none
    waitSince := none, early := false, pred := none, predDone := false, predFail := false, desc := 0, head := []
    res := 0, published := false, killed := false, done := false, expired := none }

/-- A context with empty tables. -/
def probeCtx : Ctx :=
  { root := 0, supv := false, privbase := 0, psz := 1, nslot := 1, scopetab := 0, tenstab := 0, qtab := 0, parktab := 0
    deflim := 0, frogint := 0, wdog := 0, dlq := 0, parkn := 256, froglist := 0, notice := 0, strtab := 0, traph := 0x1000
    trapfr := 0, nframe := 1, nsave := 0, scopes := [], queues := [], privUsed := [0], frames := [], saves := []
    atomsat := 0, parked := [], frogs := [], notices := [], noticeN := 0, sweeps := [], resweep := false, frogDone := 0
    sources := [], bindings := [], carried := [], ring := none, ringBy := [], channels := [], kill := .live }

/-- A state whose next step executes the instruction of the given words: in path slot 0 of a team of one lane on core 0, in
a user context with ASID 1 of a module that has booted (log 58). -/
def State.withWords (s : State) (ws : List Word) : State :=
  let s := s.modCore 0 fun c => { c with active := [{ gid := 0, role := 0 }] }
  let booted : Platform := { s.plat with ready := true, slot := some 0 }
  { s with
    plat := booted
    host := { s.host with busy := false }
    ctxs := tset s.ctxs 1 probeCtx
    grids := tset s.grids 0 probeGrid
    gangs := tset s.gangs 0 { size := 1 }
    groups := tset s.groups 0 (probeGroup ws)
    fresh := max s.fresh 1
    turns := [.path { gid := 0, role := 0, slot := 0 }] }

/-- The words of an instruction whose bits are numbered as the opcode table numbers them. -/
def tableWords (nbits w : Nat) : List Word :=
  let n := w % 2 ^ nbits
  if isX (majorOf (word n)) then [word n, word (n / 2 ^ 32)] else [word n]

end Sys2Proof.Machine
end

