-- ==== Sys2Proof/Machine/Step.lean ====
section
/-! DEFINITION. The step of the machine, and a state whose next step executes a given word. -/

namespace Sys2Proof.Machine

/-- One step: time passes and what is due is done, then the first turn acts, or, where none is given, what is ready. -/
def step (s : State) : Host.Outcome State Fault Refusal :=
  match s.turns with
  | [] => s.before.runAny
  | .path r :: rest => { s.before with turns := rest }.runTurn r
  | .lanes r m :: rest => { s.before with turns := rest, mode := .lanes m }.runTurn r
  | .access op lane i :: rest => .next (({ s.before with turns := rest } : State).doEvent op lane i)
  | .event i x :: rest => { s.before with turns := rest }.runEvent i x

/-- The state with an instruction as the next one to execute (log 58). -/
def State.withFetchWord (s : State) (nbits w : Nat) : State := s.withWords (tableWords nbits w)

end Sys2Proof.Machine
end

