-- ==== Sys2Proof/Safety.lean ====
section
/-! DEFINITION. What counts as a safe state and a safe run, and the terms in which claims speak of an instruction: when it
issues, what it leaves as it was, where its path stands after it. -/

namespace Sys2Proof.Machine

/-- Memory in canonical form: addresses strictly rising, no byte listed that an unlisted address reads as. -/
def Memory.wf (m : List Host.Cell) : Bool := memWf m

/-- The counters of a core agree (R169): CYC and the four GCYC have the same sum modulo 2^32. -/
def Clock.agrees (k : Clock) : Prop :=
  k.cyc.setWidth 32 = k.gcyc0 + k.gcyc1 + k.gcyc2 + k.gcyc3

/-- What every step keeps: memory in canonical form and counters that agree. -/
def State.Inv (s : State) : Prop := Memory.wf s.mem = true ∧ ∀ k ∈ s.clocks, k.2.agrees

/-- A step that goes on: neither a fault nor a refusal. -/
def goesOn (s : State) : Prop := ∃ t, step s = .next t

/-- An instruction issues in a path: the path is current, and no check of R276 and R277 fails. -/
def Issues (s : State) (i : Instr) (c : Cur) : Prop := s.look = some c ∧ s.illegal i c [] = none

/-- A path after an instruction that goes on to the next one (R257): the next word of its clause, or, after the last
instruction, the header that follows the clause. -/
def Path.after (p : Path) : Path :=
  match p.clause with
  | none => p
  | some k =>
    if k.left ≤ 1 then { p with pc := k.next, clause := none, grant := .none }
    else { p with clause := some { k with pos := k.pos + wordCount k.word0, left := k.left - 1 } }

/-- The flag counts of a team after that (R261): at the end of a clause those that nothing holds are released. -/
def Cur.outstAfter (c : Cur) : List Outst :=
  match c.p.clause with
  | none => c.t.outst
  | some k => if k.left ≤ 1 then closeOutst k.id (shortClass k.hdr) c.t.outst else c.t.outst

/-- What an instruction does to its team alone: active lanes by `fl`, registers of the team by `ft`, the path by `fp`, which
then goes on. Everything else is as it was: the other lanes, paths, teams and groups, memory, caches, contexts and every other
part of the machine but the model's own counters of names. -/
def Effect (s : State) (c : Cur) (fl : Nat → Lane → Lane) (ft : Team → Team) (fp : Path → Path) (t : State) : Prop :=
  { t with groups := [], fresh := 0 } = { s with groups := [], fresh := 0 } ∧
  (∀ n, n ≠ c.r.gid → tget t.groups n = tget s.groups n) ∧
  ∃ d, t.at c.r = some d ∧
    { d.g with teams := [] } = { c.g with teams := [] } ∧
    (∀ k, k ≠ c.r.role → tget d.g.teams k = tget c.g.teams k) ∧
    { d.t with lanes := [], paths := [], outst := [] } = { ft c.t with lanes := [], paths := [], outst := [] } ∧
    (∀ l, tget d.t.lanes l = (tget c.t.lanes l).map fun x => if l ∈ c.act s.guard then fl l x else x) ∧
    (∀ k, k ≠ c.r.slot → tget d.t.paths k = tget c.t.paths k) ∧
    d.p = (fp c.p).after ∧ d.t.outst = c.outstAfter

/-- The answer is a next state in which `fl` has acted on every active lane, and nothing else has changed but the place of
the path. -/
def LaneWrite (s : State) (c : Cur) (fl : Nat → Lane → Lane) (r : Res) : Prop := ∃ t, r = .next t ∧ Effect s c fl id id t

/-- Every issue of the instruction writes v register `d` of every active lane, with `f` of the lane's registers. -/
def ComputesV (i : Instr) (d : BitVec 6) (f : Lane → Word) : Prop :=
  ∀ s c, Issues s i c → LaneWrite s c (fun _ l => l.setV d.toNat (f l)) (exec i s)

/-- As `ComputesV`, for the pair `d`. -/
def ComputesV2 (i : Instr) (d : BitVec 6) (f : Lane → Dbl) : Prop :=
  ∀ s c, Issues s i c → LaneWrite s c (fun _ l => l.setV2 d.toNat (f l)) (exec i s)

/-- As `ComputesV`, for predicate `d`; p7 stays true. -/
def ComputesP (i : Instr) (d : BitVec 6) (f : Lane → Bool) : Prop :=
  ∀ s c, Issues s i c → LaneWrite s c (fun _ l => l.setP d.toNat (f l)) (exec i s)

/-- Every issue of the instruction changes the path's uniform file by `f` where some lane is active, and nothing else but the
place of the path. -/
def ComputesS (i : Instr) (f : Cur → Path → Path) : Prop :=
  ∀ s c, Issues s i c → ∃ t, exec i s = .next t ∧
    Effect s c (fun _ x => x) id (if (c.act s.guard).isEmpty then id else f c) t

/-- A scalar floating-point instruction (R229), `f` being what it does with a lane under the team's FPC: with no enabled flag
raised, every active lane is changed by `f` and the flags of the active lanes that are no helpers are in FSR as well; with one
raised, FSR alone is changed and the FP trap is taken with the lanes that raised it. -/
def ComputesF (i : Instr) (f : Team → Lane → FpLane) : Prop :=
  ∀ s c, Issues s i c →
    (c.fpBad s.guard (f c.t) = [] → ∃ t, exec i s = .next t ∧
      Effect s c (fun _ l => (f c.t l).lane) (fun u => u.raise (c.fpAll s.guard (f c.t))) id t) ∧
    (c.fpBad s.guard (f c.t) ≠ [] → exec i s = .next
      ((s.modTeam c.r.gid c.r.role fun u => u.raise (c.fpAll s.guard (f c.t))).takeTrap c.r 0x0A 0 0
        (laneSet (c.fpBad s.guard (f c.t))) false))

/-- A lane's registers after the writes of an outcome; a write to p7 is ignored. -/
def Lane.after (l : Lane) (o : LaneOut) (x : Lane) : Prop :=
  (∀ n, x.getM n = (tget o.m n).getD (l.getM n)) ∧
  (∀ n, x.getV n = (tget o.v n).getD (l.getV n)) ∧
  (∀ n < 64, x.getP n = if n = 7 then true else (tget o.p n).getD (l.getP n))

/-- Register writes that wait (R262): added behind those of the team, under the clause; once all of them are done, every
listed lane holds what its outcome gives, and nothing else of the team has changed. -/
def Waits (c : Cur) (outs : List (Nat × LaneOut)) (new : List Land) : Prop :=
  (∀ n ∈ new, n.clause = c.p.clauseId) ∧
  ∀ u : Team, u.lanes = c.t.lanes →
    { new.foldl (fun u n => u.doLand n.what) u with lanes := [] } = { u with lanes := [] } ∧
    ∀ l, match tget c.t.lanes l, tget (new.foldl (fun u n => u.doLand n.what) u).lanes l with
      | none, none => True
      | some x, some y => match tget outs l with
        | none => y = x
        | some o => x.after o y
      | _, _ => False

/-- A matrix instruction (R313, R315), `f` being what it does with a lane: where every active lane has a result, the results
wait as register writes and nothing else changes but the place of the path; where some lane has none, the bad-shape fault is
taken with those lanes. -/
def ComputesM (i : Instr) (f : Cur → Lane → Option LaneOut) : Prop :=
  ∀ s c, Issues s i c →
    (∀ outs, (c.act s.guard).mapM (fun l => (f c (c.t.lane l)).map fun o => (l, o)) = some outs →
      ∃ t new, exec i s = .next t ∧ Waits c outs new ∧
        Effect s c (fun _ l => l) (fun u => { u with landing := u.landing ++ new }) id t) ∧
    ((∃ l ∈ c.act s.guard, f c (c.t.lane l) = none) → exec i s = .next (s.takeTrap c.r 8 0 0
      (laneSet ((c.act s.guard).filter fun l => (f c (c.t.lane l)).isNone)) false))

/-- A matrix written to slot `d` of a lane by R314, where there is one and it fits. -/
def Cur.toM (c : Cur) (d : BitVec 6) (l : Lane) (m : Option Mat) : Option LaneOut :=
  match m with
  | none => none
  | some m => match l.matWrite c.t.mregs d.toNat m with
    | none => none
    | some w => some { m := w, v := [], p := [], fail := false }

/-- Matrix slots, or v registers, as an outcome. -/
def outM (w : List (Nat × MReg)) : LaneOut := { m := w, v := [], p := [], fail := false }
/-- v registers as an outcome. -/
def outV (w : List (Nat × Word)) : LaneOut := { m := [], v := w, p := [], fail := false }

/-- A restartable access (R24, R25, R349, R350): in every issue for which `f` gives the state that the instruction's own
checks leave and its access. It releases first where it does. The lanes whose done bits are clear are checked. Where they all pass, none
would consume poison and the step performs every lane, they are performed, in an order that nothing fixes, the results wait as register
writes, it acquires where it does, and the done mask is cleared and freed. Where a lane that is no helper fails, the lanes that passed are
performed, or issued where they wait for the host, the mask is held by the path, with the lanes of a store recorded in it, and the lowest
failing lane's fault is taken, with every lane that failed with its code; where none fails and some would consume poison, the lowest
one's fault 0x10 is taken with the mask held and no lane performed. Where the step leaves some lanes for later, they are issued under the
mask, which the path holds no more, and the path goes on. -/
def Performs (i : Instr) (f : State → Cur → Ctx → Option (State × Restart)) : Prop :=
  ∀ s c x n done u k, Issues s i c → tget s.ctxs c.g.asid = some x → c.doneMask = some (n, done) → f s c x = some (u, k) →
    let v := u.relFor c k.rel
    let lanes := (c.act s.guard).filter fun l => ! done.getLsbD l && ! (k.suppress && c.t.helper l)
    let r := v.checkLanes lanes k.check
    let ls := passed r.2
    let bad := (failed r.2).filter fun e => ! c.t.helper e.1
    let spoilt := ls.filter fun e => r.1.wouldPoison c.g.core k.how e.2
    ((∀ e ∈ r.2, ∃ ps, e.2 = .ok ps) → spoilt = [] → ls.all (v.mode.now k.how) = true →
      let p := r.1.perform ls (k.run c)
      exec i s = .next ((((p.1.landOuts c.r c.p.clauseId p.2).acqFor c k.acq).freeDone c.r n).advance c.r)) ∧
    (∀ l e rest, bad = (l, e) :: rest → ∃ (w : State) (bits : LaneSet),
      exec i s = .next ((w.holdDone c.r n bits).takeTrap c.r e.cause e.detail e.addr
        (laneSet ((bad.filter fun b => b.2.cause = e.cause).map Prod.fst)) false) ∧
      (∀ q, done.getLsbD q = true → bits.getLsbD q = true) ∧
      ((k.how.reads = false ∨ ls.all (Mode.now .whole k.how) = true) → spoilt = [] → ∀ e ∈ ls, e.1 < 1024 → bits.getLsbD e.1 = true)) ∧
    (bad = [] → ∀ l ps rest, spoilt = (l, ps) :: rest →
      exec i s = .next ((r.1.holdDone c.r n done).takeTrap c.r 0x10 0 (pieceAddr ps) (laneSet (l :: rest.map Prod.fst)) false)) ∧
    ((∀ e ∈ r.2, ∃ ps, e.2 = .ok ps) → spoilt = [] → ls.all (v.mode.now k.how) = false → ∃ (w : State) (bits : LaneSet) (e : Issue),
      exec i s = .next ((w.keepDone c.r n bits).advance c.r) ∧ e ∈ w.issues ∧ e.path = c.r ∧ e.done = some n ∧ e.how = k.how ∧
      e.acq = k.acq ∧ e.lanes.map LaneAcc.lane = (ls.filter fun e => ! v.mode.now k.how e).map Prod.fst)

/-- An access of every lane or none (R26): in every issue the active lanes that are no helpers are checked. Where they all
pass and would consume no poison, `k` is what the instruction does; where some fail, the lowest one's fault is taken, and where none
fails and some would consume poison, the lowest one's fault 0x10, with nothing performed. -/
def PerformsAll (i : Instr) (check : Cur → Ctx → State → Nat → State × Checked) (poison : Cur → State → List Piece → Bool)
    (k : State → Cur → Ctx → State → List (Nat × List Piece) → State) : Prop :=
  ∀ s c x, Issues s i c → tget s.ctxs c.g.asid = some x →
    let r := s.checkLanes (c.workers s.guard) (check c x)
    ((∀ e ∈ r.2, ∃ ps, e.2 = .ok ps ∧ poison c r.1 ps = false) → exec i s = .next (k s c x r.1 (passed r.2))) ∧
    (∀ l e rest, failed r.2 = (l, e) :: rest → exec i s = .next (r.1.takeTrap c.r e.cause e.detail e.addr
      (laneSet ((((l, e) :: rest).filter fun b => b.2.cause = e.cause).map Prod.fst)) false)) ∧
    (failed r.2 = [] → ∀ l ps rest, ((passed r.2).filter fun e => poison c r.1 e.2) = (l, ps) :: rest →
      exec i s = .next (r.1.takeTrap c.r 0x10 0 (pieceAddr ps) (laneSet (l :: rest.map Prod.fst)) false))

/-- Memory and every cache, context and unit are as they were: all that may differ is what groups hold, the clock of free
values and the counter of names. -/
def State.OnlyGroups (s t : State) : Prop :=
  { t with groups := [], free := 0, fresh := 0 } = { s with groups := [], free := 0, fresh := 0 }

/-- What the registers of a path and its team are: lanes, FPC, FSR, MXSTAT, markers, the uniform file, FUTSTAT. -/
def Cur.regs (c : Cur) : Tab Lane × Word × Word × Word × Tab (BitVec 64) × Tab Word × Word :=
  (c.t.lanes, c.t.fpc, c.t.fsr, c.t.mxstat, c.t.markers, c.p.s, c.p.futstat)

/-- Every path there was is there, with the registers that it had. -/
def State.SameRegs (s t : State) : Prop := ∀ r c, s.at r = some c → ∃ d, t.at r = some d ∧ d.regs = c.regs

end Sys2Proof.Machine
end

