-- ==== Sys2Proof/WellFormed.lean ====
section
/-! DEFINITION. Which instruction terms the K9 gives a meaning as they stand: the static checks of 12 R264 and
R276 pass, and a form told apart by a field holds that field. -/

namespace Sys2Proof

/-- The static checks of the fields pass (R276); a retired form is checked by its emulation (R383). -/
def Instr.fieldsOk (i : Instr) : Bool := i.isRetired || i.staticErr.isNone

/-- A well-formed instruction. -/
def Instr.wf (i : Instr) : Bool := i.formOk && i.fieldsOk

end Sys2Proof
end

