-- ==== Sys2Proof/Certificates/Slice0/Obligations.lean ====
section
/-! DEFINITION. Statements about the model for the provers. Each docstring cites the rules of spec/ that the statement
formalises. -/

open Sys2Proof Sys2Proof.Machine

/-! ## Encoding and the step (12 R257 to R277) -/

/-- R263 to R265 and Tables 12-4 to 12-13: the words that the encoder writes for a well-formed instruction decode to it, with its
guard, whatever words follow. -/
def Obligations.DecodeEncode : Prop :=
  ∀ (g : Guard) (i : Instr) (rest : List Word), i.wf = true → i.hasWords = true →
    decode (encode g i ++ rest) = .ok { guard := g, instr := i, rest := rest }

/-- R263 to R265: an instruction that decodes is well-formed, and its words are those that the encoder writes: decoding drops no
bit. -/
def Obligations.EncodeDecode : Prop :=
  ∀ (ws : List Word) (d : Decoded), decode ws = .ok d → d.instr.wf = true ∧ encode d.guard d.instr ++ d.rest = ws

/-- R275 and Tables 12-10 to 12-14: a major outside the map is an illegal instruction of detail 0, and an FN value that no row of its
major lists one of detail 1 (every V value of an R-format major has a row); the retired majors decode to their retired forms (R382), and
an FN of theirs that no row lists is found by firmware, after the retired-opcode fault (R383). -/
def Obligations.OutsideTheMap : Prop :=
  ∀ w w1 : Word,
    (majorOf w = 0 ∨ 0x1C ≤ majorOf w ∧ majorOf w ≤ 0x1F ∨ 0x2B ≤ majorOf w ∧ majorOf w ≤ 0x2F ∨
      0x39 ≤ majorOf w ∧ majorOf w ≤ 0x3F ∨ 0x4B ≤ majorOf w ∧ majorOf w ≤ 0x4F ∨ 0x57 ≤ majorOf w ∧ majorOf w ≤ 0x5F ∨
      0x6A ≤ majorOf w ∧ majorOf w ≤ 0x6F ∨ 0x76 ≤ majorOf w ∧ majorOf w ≤ 0x7B ∨ majorOf w = 0x7F →
        decodeWords w w1 = .error (.illegal 0)) ∧
    (∀ e ∈ [(0x03, 4), (0x04, 6), (0x08, 3), (0x0B, 2), (0x0F, 1), (0x12, 4), (0x13, 4), (0x15, 7), (0x16, 1), (0x19, 2), (0x1B, 3),
        (0x22, 7), (0x25, 2), (0x26, 6), (0x27, 6), (0x2A, 1), (0x30, 1), (0x31, 2), (0x32, 2), (0x33, 1), (0x34, 4), (0x36, 6),
        (0x37, 7), (0x38, 3), (0x40, 4), (0x41, 4), (0x42, 4), (0x43, 1), (0x44, 1), (0x45, 3), (0x46, 1), (0x47, 1), (0x48, 6),
        (0x49, 4), (0x4A, 1), (0x50, 6), (0x51, 1), (0x52, 1), (0x54, 1), (0x55, 2), (0x56, 2), (0x61, 1), (0x62, 2), (0x69, 2),
        (0x75, 1), (0x7D, 2), (0x7E, 1)],
      majorOf w = e.1 → e.2 ≤ fnOf w → decodeWords w w1 = .error (.illegal 1)) ∧
    (∀ e ∈ [(0x07, 6), (0x0A, 1), (0x14, 7), (0x24, 13), (0x53, 2), (0x64, 1), (0x65, 1), (0x66, 1), (0x67, 1), (0x68, 1), (0x73, 1),
        (0x74, 1)],
      majorOf w = e.1 → e.2 ≤ fnUOf w → decodeWords w w1 = .error (.illegal 1)) ∧
    (majorOf w = 0x24 → fnUOf w = 7 → decodeWords w w1 = .error (.illegal 1)) ∧
    (majorOf w = 0x7C → ∃ o, decodeWords w w1 = .ok (if vOf w = 0 then .imad24I24 o else .imad24N24 o)) ∧
    (majorOf w = 0x7D → fnOf w < 2 → ∃ o, decodeWords w w1 = .ok (if fnOf w = 0 then .dot4i8I8 o else .dot4i8N8 o)) ∧
    (majorOf w = 0x7E → fnOf w = 0 → ∃ o x, decodeWords w w1 = .ok (.ldro o x))

/-- Words written out in the spec's own tables (13, 14-9, 15, 16, 17-5) decode to the instructions that stand beside them. -/
def Obligations.DecodeWords : Prop :=
  let always : Guard := { neg := 0, p := 7 }
  decode [0x40E08418] = .ok { guard := always, instr := .fadd ⟨1, 2, 3, 0⟩, rest := [] } ∧
  decode [0x27651663] = .ok { guard := { neg := 1, p := 3 }, instr := .cableFlip ⟨10, 11, 12⟩, rest := [] } ∧
  decode [0x10E41201, 0x8B] = .ok { guard := always, instr := .bfeN32 ⟨8, 9, 0⟩ ⟨0, 4, 11⟩, rest := [] } ∧
  decode [0x6E230449, 0] = .ok { guard := { neg := 0, p := 1 }, instr := .mlu ⟨6, 2, 9⟩ ⟨0, 0, 0, 0, 0, 0, 0⟩, rest := [] } ∧
  decode [0x86E10C08, 0x22C00000] = .ok { guard := always, instr := .ldf ⟨2, 6, 1⟩ ⟨4, 1, 3, 0, 0, 0⟩, rest := [] } ∧
  decode [0xA8E10848, 0x20000007] = .ok { guard := always, instr := .rapp ⟨2, 4, 9⟩ ⟨4, 0, 0, 0, 0, 7⟩, rest := [] } ∧
  decode [0xE0E280B0] = .ok { guard := always, instr := .srd ⟨5, 0, 0⟩ 22, rest := [] } ∧
  decode [0xF8E20A30] = .ok { guard := always, instr := .imad24I24 ⟨4, 5, 6, 0⟩, rest := [] }

/-- R257 and R277: where the path whose turn it is may run and stands in a clause whose next words decode to an instruction,
the step is that instruction's meaning, with its guard and the path as the current one, after time has passed, the core's cycle has
ended and the issue is noted; what waits for the path's earlier reads or for its frames waits (R79, R397), and accesses that the path has
issued and not performed are performed first as far as the instruction asks (R79). A turn may give a restartable instruction some of
its lanes. Where no turn is given and no exchange of teams is due (R173), the path that is ready and selected runs in the same way.
Choices of the model that it rests on: log 1, 44, 80. -/
def Obligations.StepRunsDecoded : Prop :=
  ∀ (s : State) (c : Cur) (k : Clause) (d : Decoded), c.p.clause = some k → decode (k.words.drop k.pos) = .ok d →
    let runs (u : State) : Prop :=
      u.mayRun c = true → (u.enter c).mustWait c d.guard d.instr = false →
        step s = exec d.instr { (u.enter c).flushFor c.r (flushOf d.instr) with guard := d.guard }
    (∀ r rest, s.turns = .path r :: rest → s.before.at r = some c → runs { s.before with turns := rest }) ∧
    (∀ r m rest, s.turns = .lanes r m :: rest → s.before.at r = some c →
      runs { s.before with turns := rest, mode := .lanes m }) ∧
    (s.turns = [] → s.before.anySwap = none → s.before.pick = some c → runs s.before)

/-- R169, and the canonical form of memory: every step that goes on keeps, from every state that has them, memory in canonical form and
the sum of each core's GCYC counters equal to its CYC. -/
def Obligations.StepKeepsInv : Prop := ∀ s t : State, s.Inv → step s = .next t → t.Inv

/-- The state after reset has the invariant. -/
def Obligations.ResetInv : Prop := State.reset.Inv

/-- R400: the state after reset: no context, grid, group or packet exists, memory lists nothing, ETIME is 0. That a byte of
memory that nothing has written reads 0 is the model's choice (log 3), and so is that every core's caches and active set are empty, its
preferred gauge is G0 and every counter of R169 is 0 (log 4). -/
def Obligations.ResetState : Prop :=
  State.reset.ctxs = [] ∧ State.reset.grids = [] ∧ State.reset.groups = [] ∧ State.reset.engines = [] ∧
  State.reset.etime = 0 ∧ (∀ a, memGet State.reset.mem a = 0) ∧
  ∀ n, State.reset.core n = Core.empty ∧ State.reset.clock n = Clock.zero

/-- No step of any state is a refusal, and no step is a fault: every instruction of the map and every event goes on. -/
def Obligations.EveryStepGoesOn : Prop := ∀ s : State, goesOn s

/-- R143: at the start of a team every lane's registers are zero but for p7, its shape tags are not valid, the one path has every
lane, zeros in its s registers, no marker, flag or done mask is held, FPC, FSR, MXSTAT and FUTSTAT read zero, and PARAMLO and PARAMHI read
the record's parameter. That the path starts at the kernel's code, with no join and no entry on its stack, is read from R143, R149 and
R151 (log 18, DEDUCED). -/
def Obligations.TeamStart : Prop :=
  ∀ (slot : Nat) (r : LaunchRec), r.lanesUp ≤ 1024 →
    let t := Team.start slot r
    (∀ l < r.lanesUp, ∃ x, tget t.lanes l = some x ∧ ∀ n, x.getV n = 0 ∧ x.getP n = decide (n = 7) ∧
      x.getM n = { tag := 0, data := 0 } ∧ tagV (x.getM n).tag = false) ∧
    (∃ p, t.paths = [(0, p)] ∧ p.pc = r.code ∧ p.clause = none ∧ p.jp = none ∧ (∀ n, p.getS n = 0) ∧ p.futstat = 0 ∧
      ∀ l, p.mask.getLsbD l = decide (l < r.lanesUp)) ∧
    (∀ k, t.marker k = 0) ∧ (∀ f, t.pending 0 f = false) ∧ t.done = [] ∧ t.splits = [] ∧ t.fpc = 0 ∧ t.fsr = 0 ∧ t.mxstat = 0 ∧
    ∀ (s : State) (c : Cur) (d : Grid) (l : Nat), tget s.grids c.g.grid = some d → d.lr = r →
      s.special c 25 l = r.param.toNat % 2 ^ 32 ∧ s.special c 26 l = r.param.toNat / 2 ^ 32

/-! ## Lanes: integers, logic, predicates, cross-lane and uniform instructions (13 R284 to R299) -/

/-- R284 and Table 13-3: wrapping sums and products, the high words and the exact 64-bit products, on v registers and pairs. -/
def Obligations.IntegerArithmetic : Prop :=
  (∀ o, ComputesV (.iadd o) o.d fun l => l.getV o.a.toNat + l.getV o.b.toNat) ∧
  (∀ o, ComputesV (.isub o) o.d fun l => l.getV o.a.toNat - l.getV o.b.toNat) ∧
  (∀ o, ComputesV (.imul o) o.d fun l => l.getV o.a.toNat * l.getV o.b.toNat) ∧
  (∀ o, ComputesV (.imad o) o.d fun l => l.getV o.a.toNat * l.getV o.b.toNat + l.getV o.d.toNat) ∧
  (∀ o, ComputesV (.imulhI32 o) o.d fun l =>
    ((l.getV o.a.toNat).signExtend 64 * (l.getV o.b.toNat).signExtend 64).extractLsb' 32 32) ∧
  (∀ o, ComputesV (.imulhN32 o) o.d fun l =>
    ((l.getV o.a.toNat).setWidth 64 * (l.getV o.b.toNat).setWidth 64).extractLsb' 32 32) ∧
  (∀ o, ComputesV2 (.imulwI32 o) o.d fun l => (l.getV o.a.toNat).signExtend 64 * (l.getV o.b.toNat).signExtend 64) ∧
  (∀ o, ComputesV2 (.imulwN32 o) o.d fun l => (l.getV o.a.toNat).setWidth 64 * (l.getV o.b.toNat).setWidth 64) ∧
  (∀ o, ComputesV (.iaddi o) o.d fun l => l.getV o.a.toNat + o.imm.signExtend 32) ∧
  (∀ o, ComputesV2 (.iadd64 o) o.d fun l => l.getV2 o.a.toNat + l.getV2 o.b.toNat) ∧
  (∀ o, ComputesV2 (.isub64 o) o.d fun l => l.getV2 o.a.toNat - l.getV2 o.b.toNat)

/-- R285 and Table 13-4: minimum, maximum, absolute value and negation that wrap, clamped sums, and address arithmetic; with B other
than zero IABS and INEG take the illegal-instruction fault of detail 2 (R277). -/
def Obligations.IntegerLimits : Prop :=
  (∀ o, ComputesV (.iminI32 o) o.d fun l =>
    if (l.getV o.a.toNat).toInt ≤ (l.getV o.b.toNat).toInt then l.getV o.a.toNat else l.getV o.b.toNat) ∧
  (∀ o, ComputesV (.imaxI32 o) o.d fun l =>
    if (l.getV o.b.toNat).toInt ≤ (l.getV o.a.toNat).toInt then l.getV o.a.toNat else l.getV o.b.toNat) ∧
  (∀ o, ComputesV (.iminN32 o) o.d fun l =>
    if (l.getV o.a.toNat).toNat ≤ (l.getV o.b.toNat).toNat then l.getV o.a.toNat else l.getV o.b.toNat) ∧
  (∀ o, ComputesV (.imaxN32 o) o.d fun l =>
    if (l.getV o.b.toNat).toNat ≤ (l.getV o.a.toNat).toNat then l.getV o.a.toNat else l.getV o.b.toNat) ∧
  (∀ o, ComputesV (.iabs o) o.d fun l => if (l.getV o.a.toNat).msb then - l.getV o.a.toNat else l.getV o.a.toNat) ∧
  (∀ o, ComputesV (.ineg o) o.d fun l => - l.getV o.a.toNat) ∧
  (∀ o, ComputesV (.iaddsI32 o) o.d fun l =>
    let x := (l.getV o.a.toNat).toInt + (l.getV o.b.toNat).toInt
    if 2 ^ 31 - 1 < x then 0x7FFFFFFF else if x < -(2 ^ 31) then 0x80000000 else l.getV o.a.toNat + l.getV o.b.toNat) ∧
  (∀ o, ComputesV (.iaddsN32 o) o.d fun l =>
    if 2 ^ 32 ≤ (l.getV o.a.toNat).toNat + (l.getV o.b.toNat).toNat then 0xFFFFFFFF
    else l.getV o.a.toNat + l.getV o.b.toNat) ∧
  (∀ o sh, ComputesV2 (.lea o sh) o.d fun l =>
    l.getV2 o.a.toNat + (l.getV o.b.toNat).signExtend 64 * BitVec.ofNat 64 (2 ^ sh.toNat)) ∧
  (∀ o : OpG, o.b ≠ 0 → ∀ (s : State) (c : Cur), s.look = some c → o.d.toNat < c.t.vregs → o.a.toNat < c.t.vregs →
    exec (.iabs o) s = .next (s.takeTrap c.r 1 2 0 0 false) ∧
    exec (.ineg o) s = .next (s.takeTrap c.r 1 2 0 0 false))

/-- R286 and Table 13-5: logic, shifts with a count at or above the width, rotations and bit counts. -/
def Obligations.LogicAndShifts : Prop :=
  (∀ o, ComputesV (.andV o) o.d fun l => l.getV o.a.toNat &&& l.getV o.b.toNat) ∧
  (∀ o, ComputesV (.orV o) o.d fun l => l.getV o.a.toNat ||| l.getV o.b.toNat) ∧
  (∀ o, ComputesV (.xorV o) o.d fun l => l.getV o.a.toNat ^^^ l.getV o.b.toNat) ∧
  (∀ o, ComputesV (.andn o) o.d fun l => l.getV o.a.toNat &&& ~~~ l.getV o.b.toNat) ∧
  (∀ o, ComputesV (.orn o) o.d fun l => l.getV o.a.toNat ||| ~~~ l.getV o.b.toNat) ∧
  (∀ o, ComputesV (.xnor o) o.d fun l => ~~~ (l.getV o.a.toNat ^^^ l.getV o.b.toNat)) ∧
  (∀ o, ComputesV (.shl o) o.d fun l => BitVec.ofNat 32 ((l.getV o.a.toNat).toNat * 2 ^ (l.getV o.b.toNat).toNat)) ∧
  (∀ o, ComputesV (.shr o) o.d fun l => BitVec.ofNat 32 ((l.getV o.a.toNat).toNat / 2 ^ (l.getV o.b.toNat).toNat)) ∧
  (∀ o, ComputesV (.sar o) o.d fun l => BitVec.ofInt 32 ((l.getV o.a.toNat).toInt / 2 ^ (l.getV o.b.toNat).toNat)) ∧
  (∀ o, ComputesV (.rol o) o.d fun l => (l.getV o.a.toNat).rotateLeft ((l.getV o.b.toNat).toNat % 32)) ∧
  (∀ o, ComputesV (.ror o) o.d fun l => (l.getV o.a.toNat).rotateRight ((l.getV o.b.toNat).toNat % 32)) ∧
  (∀ o, ComputesV2 (.shl64 o) o.d fun l => BitVec.ofNat 64 ((l.getV2 o.a.toNat).toNat * 2 ^ (l.getV o.b.toNat).toNat)) ∧
  (∀ o, ComputesV2 (.shr64 o) o.d fun l => BitVec.ofNat 64 ((l.getV2 o.a.toNat).toNat / 2 ^ (l.getV o.b.toNat).toNat)) ∧
  (∀ o, ComputesV2 (.sar64 o) o.d fun l => BitVec.ofInt 64 ((l.getV2 o.a.toNat).toInt / 2 ^ (l.getV o.b.toNat).toNat)) ∧
  (∀ o, ComputesV (.popc o) o.d fun l => word ((List.range 32).countP (l.getV o.a.toNat).getLsbD)) ∧
  (∀ o, ComputesV (.clz o) o.d fun l =>
    word (((List.range 32).find? fun i => (l.getV o.a.toNat).getLsbD (31 - i)).getD 32)) ∧
  (∀ o, ComputesV (.ctz o) o.d fun l => word (((List.range 32).find? (l.getV o.a.toNat).getLsbD).getD 32)) ∧
  (∀ o, ∃ f : Lane → Word, ComputesV (.brev o) o.d f ∧
    ∀ l, ∀ i < 32, (f l).getLsbD i = (l.getV o.a.toNat).getLsbD (31 - i)) ∧
  (∀ o, ∃ f : Lane → Word, ComputesV (.bswap o) o.d f ∧
    ∀ l, ∀ i < 4, (f l).extractLsb' (8 * i) 8 = (l.getV o.a.toNat).extractLsb' (8 * (3 - i)) 8) ∧
  (∀ o, ComputesV (.notV o) o.d fun l => ~~~ l.getV o.a.toNat)

/-- R287, R288 and R289: bit fields, moves, selection and compares. -/
def Obligations.FieldsMovesCompares : Prop :=
  (∀ o x, ComputesV (.bfeI32 o x) o.d fun l =>
    ((l.getV o.a.toNat).extractLsb' x.pos.toNat (x.len.toNat + 1)).signExtend 32) ∧
  (∀ o x, ComputesV (.bfeN32 o x) o.d fun l =>
    ((l.getV o.a.toNat).extractLsb' x.pos.toNat (x.len.toNat + 1)).setWidth 32) ∧
  (∀ o x, ∃ f : Lane → Word, ComputesV (.bfi o x) o.d f ∧ ∀ l, ∀ i < 32, (f l).getLsbD i =
    if x.pos.toNat ≤ i ∧ i ≤ x.pos.toNat + x.len.toNat then (l.getV o.a.toNat).getLsbD (i - x.pos.toNat)
    else (l.getV o.d.toNat).getLsbD i) ∧
  (∀ o, ComputesV (.mov o) o.d fun l => l.getV o.a.toNat) ∧
  (∀ o x, ComputesV (.movk o x) o.d fun _ => x.xl) ∧
  (∀ o x, ComputesV2 (.movkW o x) o.d fun _ => x.xl.signExtend 64) ∧
  (∀ o x, ComputesV (.sel o x) o.d fun l => if l.getP x.psel.toNat then l.getV o.a.toNat else l.getV o.b.toNat) ∧
  (∀ o, ComputesP (.icmpI32 o) o.d fun l =>
    let a := l.getV o.a.toNat
    let b := l.getV o.b.toNat
    match o.cc.toNat with | 0 => a == b | 1 => a != b | 2 => a.slt b | 3 => a.sle b | 4 => b.slt a | _ => b.sle a) ∧
  (∀ o, ComputesP (.icmpN32 o) o.d fun l =>
    let a := l.getV o.a.toNat
    let b := l.getV o.b.toNat
    match o.cc.toNat with | 0 => a == b | 1 => a != b | 2 => a.ult b | 3 => a.ule b | 4 => b.ult a | _ => b.ule a)

/-- R290 and Table 13-6, R292: predicate logic, where a write to p7 leaves the lane as it was (R264) and a B field that must be zero and
is not is an illegal instruction; and the four votes over the
participants, the active lanes that are no helpers, whose result every active lane receives. -/
def Obligations.PredicatesAndVotes : Prop :=
  (
    (∀ o, ComputesP (.pand o) o.d fun l => l.getP o.a.toNat && l.getP o.b.toNat) ∧
    (∀ o, ComputesP (.por o) o.d fun l => l.getP o.a.toNat || l.getP o.b.toNat) ∧
    (∀ o, ComputesP (.pxor o) o.d fun l => xor (l.getP o.a.toNat) (l.getP o.b.toNat)) ∧
    (∀ o, ComputesP (.pandn o) o.d fun l => l.getP o.a.toNat && ! l.getP o.b.toNat) ∧
    (∀ o, ComputesP (.pmov o) o.d fun l => l.getP o.a.toNat) ∧
    (∀ o, ComputesP (.pnot o) o.d fun l => ! l.getP o.a.toNat) ∧
    (∀ o, ComputesP (.psetv o) o.d fun l => l.getV o.a.toNat != 0) ∧
    (∀ o, ComputesV (.pgetv o) o.d fun l => if l.getP o.a.toNat then 1 else 0) ∧
    (∀ (s : State) (c : Cur) (o : OpG), s.look = some c → o.b ≠ 0 → o.d.toNat < c.t.vregs →
      o.a.toNat < c.t.vregs → ∀ i ∈ [Instr.pmov o, .pnot o, .psetv o, .pgetv o],
      exec i s = .next (s.takeTrap c.r 1 2 0 0 false)) ∧
    ∀ (l : Lane) (b : Bool), l.setP 7 b = l ∧ l.getP 7 = true) ∧
  (
    ∀ s c o,
      (Issues s (.voteAny o) c → LaneWrite s c (fun _ l => l.setP o.d.toNat
        ((c.workers s.guard).any fun k => (c.t.lane k).getP o.a.toNat)) (exec (.voteAny o) s)) ∧
      (Issues s (.voteAll o) c → LaneWrite s c (fun _ l => l.setP o.d.toNat
        ((c.workers s.guard).all fun k => (c.t.lane k).getP o.a.toNat)) (exec (.voteAll o) s)) ∧
      (Issues s (.voteBallot o) c → ∃ r : Word, LaneWrite s c (fun _ l => l.setV o.d.toNat r) (exec (.voteBallot o) s) ∧
        ∀ j < 32, r.getLsbD j = ((c.workers s.guard).any fun k =>
          k == 32 * (c.p.getS o.b.toNat).toNat + j && (c.t.lane k).getP o.a.toNat)) ∧
      (Issues s (.voteCount o) c → LaneWrite s c (fun _ l => l.setV o.d.toNat
        (word ((c.workers s.guard).countP fun k => (c.t.lane k).getP o.a.toNat))) (exec (.voteCount o) s)))

/-- R293, R294, Tables 13-7 and 13-8: each lane receives a of the lane at its crossing position in its own mask word, where that
lane is active, else it keeps its own a; in the quad forms a of its partner, active or not. -/
def Obligations.CrossLaneMoves : Prop :=
  (
    ∀ s c o,
      let from_ (l : Nat) (t : Int) : Nat :=
        if 0 ≤ t ∧ t ≤ 31 ∧ l / 32 * 32 + t.toNat ∈ c.act s.guard then l / 32 * 32 + t.toNat else l
      let gives (t : Int → Int → Int) (l : Nat) (r : Lane) : Lane :=
        r.setV o.d.toNat ((c.t.lane (from_ l (t (l % 32 : Nat) ((r.getV o.b.toNat).toNat : Nat)))).getV o.a.toNat)
      (Issues s (.cableAt o) c → LaneWrite s c (gives fun _ b => b) (exec (.cableAt o) s)) ∧
      (Issues s (.cableBack o) c → LaneWrite s c (gives fun i b => i - b) (exec (.cableBack o) s)) ∧
      (Issues s (.cableFwd o) c → LaneWrite s c (gives fun i b => i + b) (exec (.cableFwd o) s)) ∧
      (Issues s (.cableFlip o) c → LaneWrite s c (gives fun i b => ((i.toNat ^^^ b.toNat : Nat) : Int)) (exec (.cableFlip o) s))) ∧
  (
    ∀ s c o,
      let takes (i : Instr) (partner : Nat → Nat) : Prop := Issues s i c →
        LaneWrite s c (fun l r => r.setV o.d.toNat ((c.t.lane (l / 4 * 4 + partner (l % 4))).getV o.a.toNat)) (exec i s)
      takes (.qswph o) (fun q => q ^^^ 1) ∧ takes (.qswpv o) (fun q => q ^^^ 2) ∧ takes (.qswpd o) (fun q => q ^^^ 3) ∧
      takes (.qbc0 o) (fun _ => 0) ∧ takes (.qbc1 o) (fun _ => 1) ∧ takes (.qbc2 o) (fun _ => 2) ∧ takes (.qbc3 o) (fun _ => 3))

/-- R295 and Table 13-9: the folds over the participants, with the identity where there is none. The f32 fold adds in ascending
lane order; its flags go into FSR; an enabled one is the FP trap of every participant, and no lane is written. -/
def Obligations.Folds : Prop :=
  ∀ s c o,
    let as := (c.workers s.guard).map fun l => (c.t.lane l).getV o.a.toNat
    let gives (i : Instr) (P : Word → Prop) : Prop := Issues s i c →
      ∃ r, P r ∧ LaneWrite s c (fun _ l => l.setV o.d.toNat r) (exec i s)
    gives (.foldAddI32 o) (fun r => r = as.sum) ∧
    gives (.foldMinI32 o) (fun r => if as = [] then r = 0x7FFFFFFF else r ∈ as ∧ ∀ x ∈ as, r.toInt ≤ x.toInt) ∧
    gives (.foldMaxI32 o) (fun r => if as = [] then r = 0x80000000 else r ∈ as ∧ ∀ x ∈ as, x.toInt ≤ r.toInt) ∧
    gives (.foldAnd o) (fun r => ∀ j < 32, r.getLsbD j = as.all fun x => x.getLsbD j) ∧
    gives (.foldOr o) (fun r => ∀ j < 32, r.getLsbD j = as.any fun x => x.getLsbD j) ∧
    gives (.foldXor o) (fun r => ∀ j < 32, r.getLsbD j = decide ((as.countP fun x => x.getLsbD j) % 2 = 1)) ∧
    (Issues s (.foldFadd o) c →
      let r := foldSum c.t.rm c.t.ftz as
      (r.flags &&& c.t.te = 0 → ∃ t, exec (.foldFadd o) s = .next t ∧
        Effect s c (fun _ l => l.setV o.d.toNat (word r.bits)) (fun u => u.raise r.flags) id t) ∧
      (r.flags &&& c.t.te ≠ 0 → exec (.foldFadd o) s = .next ((s.modTeam c.r.gid c.r.role fun u => u.raise r.flags).takeTrap
        c.r 0x0A 0 0 (laneSet (c.workers s.guard)) false))) ∧
    (as = [] → foldSum c.t.rm c.t.ftz as = { bits := 0, flags := 0 }) ∧
    (∀ x : Word, foldSum c.t.rm c.t.ftz [x] = match f32.unpack x.toNat with
      | .nan b => { bits := 0x7FC00000, flags := if b then flagIV else 0 }
      | _ => { bits := f32.flushIn c.t.ftz x.toNat, flags := 0 }) ∧
    ∀ (l : List Word) (y : Word), l ≠ [] → foldSum c.t.rm c.t.ftz (l ++ [y]) =
      let a := foldSum c.t.rm c.t.ftz l
      let b := f32.add c.t.rm c.t.ftz a.bits y.toNat
      { bits := b.bits, flags := a.flags ||| b.flags }

/-- R296: NZS compacts the numbers of the participants whose a is not zero, and counts them in an s register. -/
def Obligations.NzsCompacts : Prop :=
  ∀ s c o, Issues s (.nzs o) c →
    let z := (c.workers s.guard).filter fun l => (c.t.lane l).getV o.a.toNat ≠ 0
    ∃ t, exec (.nzs o) s = .next t ∧
      Effect s c (fun l r => r.setV o.d.toNat (if h : l < z.length then word z[l] else 0xFFFFFFFF)) id
        (if (c.act s.guard).isEmpty then id else fun p => p.setS o.b.toNat (word z.length)) t

/-- R297 to R299: uniform arithmetic acts once where some lane is active, and then counts as a write (R154); values move between the
uniform file and the lanes. -/
def Obligations.UniformFile : Prop :=
  (
    let binary (i : OpG → Instr) (f : Word → Word → Word) : Prop :=
      ∀ o, ComputesS (i o) fun _ p => p.setS o.d.toNat (f (p.getS o.a.toNat) (p.getS o.b.toNat))
    binary .sadd (· + ·) ∧ binary .ssub (· - ·) ∧ binary .smul (· * ·) ∧ binary .sand (· &&& ·) ∧ binary .sor (· ||| ·) ∧
    binary .sxor (· ^^^ ·) ∧ binary .sshl (fun a b => BitVec.ofNat 32 (a.toNat * 2 ^ b.toNat)) ∧
    binary .sshr (fun a b => BitVec.ofNat 32 (a.toNat / 2 ^ b.toNat)) ∧
    (∀ o, ComputesS (.saddi o) fun _ p => p.setS o.d.toNat (p.getS o.a.toNat + o.imm.signExtend 32)) ∧
    (∀ o x, ComputesS (.smovk o x) fun _ p => p.setS o.d.toNat x.xl) ∧
    (∀ o x, ComputesS (.smovkW o x) fun _ p => p.setS2 o.d.toNat (x.xl.signExtend 64)) ∧
    (∀ s c o, Issues s (.scmp o) c → LaneWrite s c (fun _ l => l.setP o.d.toNat
      (let a := c.p.getS o.a.toNat
       let b := c.p.getS o.b.toNat
       match o.cc.toNat with | 0 => a == b | 1 => a != b | 2 => a.slt b | 3 => a.sle b | 4 => b.slt a | _ => b.sle a))
      (exec (.scmp o) s))) ∧
  (
    (∀ s c o, Issues s (.vbc o) c → LaneWrite s c (fun _ l => l.setV o.d.toNat (c.p.getS o.a.toNat)) (exec (.vbc o) s)) ∧
    (∀ s c o, Issues s (.sfirst o) c → ∃ t, exec (.sfirst o) s = .next t ∧ Effect s c (fun _ l => l) id
      (match c.workers s.guard with
        | [] => id
        | l :: _ => fun p => p.setS o.d.toNat ((c.t.lane l).getV o.a.toNat)) t) ∧
    (∀ o, ComputesS (.slane o) fun c p => p.setS o.d.toNat
      (((tget c.t.lanes (c.p.getS o.b.toNat).toNat).map fun l => l.getV o.a.toNat).getD 0)))

/-- R12, R143 and R264: registers of lanes read back what was written, p7 apart, and no other register changes. -/
def Obligations.LaneRegisters : Prop :=
  ∀ (l : Lane) (n k : Nat) (x : Word) (b : Bool) (m : MReg),
    (l.setV n x).getV k = (if k = n then x else l.getV k) ∧
    (l.setV n x).getM k = l.getM k ∧ (l.setV n x).getP k = l.getP k ∧
    (l.setM n m).getM k = (if k = n then m else l.getM k) ∧
    (l.setM n m).getV k = l.getV k ∧ (l.setM n m).getP k = l.getP k ∧
    (k < 64 → (l.setP n b).getP k = if k = 7 then true else if k = n then b else l.getP k) ∧
    (l.setP n b).getV k = l.getV k ∧ (l.setP n b).getM k = l.getM k ∧ l.getP 7 = true ∧
    ∀ y : Dbl, (l.setV2 n y).getV2 n = y

/-! ## Lanes: floating point (10 R226 to R233, 13 R300 to R309) -/

/-- R301 to R303 and R306: f32 arithmetic, minimum and maximum, sign operations, compares, division and square root, with the
flags and the trap of R229. -/
def Obligations.SingleArithmetic : Prop :=
  let unary (i : Instr) (d a : BitVec 6) (f : Nat → Bool → Nat → FpR) : Prop := ComputesF i fun u l =>
    let r := f u.rm u.ftz (l.getV a.toNat).toNat
    { lane := l.setV d.toNat (word r.bits), flags := r.flags }
  let binary (i : Instr) (d a b : BitVec 6) (f : Nat → Bool → Nat → Nat → FpR) : Prop := ComputesF i fun u l =>
    let r := f u.rm u.ftz (l.getV a.toNat).toNat (l.getV b.toNat).toNat
    { lane := l.setV d.toNat (word r.bits), flags := r.flags }
  (∀ o, binary (.fadd o) o.d o.a o.b f32.add) ∧ (∀ o, binary (.fsub o) o.d o.a o.b f32.sub) ∧
  (∀ o, binary (.fmul o) o.d o.a o.b f32.mul) ∧
  (∀ o, ComputesF (.ffma o) fun u l =>
    let r := f32.fma u.rm u.ftz (l.getV o.a.toNat).toNat (l.getV o.b.toNat).toNat (l.getV o.d.toNat).toNat
    { lane := l.setV o.d.toNat (word r.bits), flags := r.flags }) ∧
  (∀ o, binary (.fmin o) o.d o.a o.b fun _ z => f32.minmax false false z) ∧
  (∀ o, binary (.fmax o) o.d o.a o.b fun _ z => f32.minmax true false z) ∧
  (∀ o, binary (.fminp o) o.d o.a o.b fun _ z => f32.minmax false true z) ∧
  (∀ o, binary (.fmaxp o) o.d o.a o.b fun _ z => f32.minmax true true z) ∧
  (∀ o, binary (.fdiv o) o.d o.a o.b f32.div) ∧ (∀ o, unary (.fsqrt o) o.d o.a f32.sqrt) ∧
  (∀ o, ComputesF (.fcmp o) fun u l =>
    let r := fcond o.cc.toNat (f32.value u.ftz (l.getV o.a.toNat).toNat) (f32.value u.ftz (l.getV o.b.toNat).toNat)
    { lane := l.setP o.d.toNat r.1, flags := r.2 }) ∧
  (∀ s c o, Issues s (.fabs o) c → LaneWrite s c (fun _ l => l.setV o.d.toNat
    (word (f32.flushIn c.t.ftz (l.getV o.a.toNat).toNat) &&& 0x7FFFFFFF)) (exec (.fabs o) s)) ∧
  (∀ s c o, Issues s (.fneg o) c → LaneWrite s c (fun _ l => l.setV o.d.toNat
    (word (f32.flushIn c.t.ftz (l.getV o.a.toNat).toNat) ^^^ 0x80000000)) (exec (.fneg o) s)) ∧
  (∀ s c o, Issues s (.fcopys o) c → LaneWrite s c (fun _ l => l.setV o.d.toNat
    ((word (f32.flushIn c.t.ftz (l.getV o.a.toNat).toNat) &&& 0x7FFFFFFF) ||| (l.getV o.b.toNat &&& 0x80000000)))
    (exec (.fcopys o) s))

/-- R304 and R305: the function instructions round to nearest even whatever FPC.RM holds; FLOOR, CEIL and TRUNC round downward, upward
and to zero, RINT and the difference of FRACT by FPC.RM. A NaN operand gives the canonical NaN, with IV where it signals, and Table 13-15
gives the other special values. -/
def Obligations.FunctionInstructions : Prop :=
  let unary (i : OpU → Instr) (f : Nat → Bool → Nat → FpR) : Prop := ∀ o, ComputesF (i o) fun u l =>
    let r := f u.rm u.ftz (l.getV o.a.toNat).toNat
    { lane := l.setV o.d.toNat (word r.bits), flags := r.flags }
  unary .rcp (fun _ => fnRcp) ∧ unary .rsq (fun _ => fnRsq) ∧ unary .exp2 (fun _ => fnExp2) ∧ unary .log2 (fun _ => fnLog2) ∧
  unary .sinr (fun _ => fnSinr) ∧ unary .cosr (fun _ => fnCosr) ∧ unary .tanh (fun _ => fnTanh) ∧
  unary .floor (fun _ => f32.rint 3) ∧ unary .ceil (fun _ => f32.rint 2) ∧ unary .trunc (fun _ => f32.rint 1) ∧
  unary .rint f32.rint ∧ unary .fract f32.fract ∧
  (∀ f ∈ [fnRcp, fnRsq, fnExp2, fnLog2, fnSinr, fnCosr, fnTanh, f32.rint 0, f32.fract 0], ∀ (z : Bool) (a : Nat) (x : Bool),
    f32.value z a = .nan x → f z a = { bits := 0x7FC00000, flags := if x then flagIV else 0 }) ∧
  ∀ z : Bool,
    fnRcp z 0 = { bits := 0x7F800000, flags := flagDZ } ∧ fnRcp z 0x80000000 = { bits := 0xFF800000, flags := flagDZ } ∧
    fnRcp z 0x7F800000 = { bits := 0, flags := 0 } ∧ fnRcp z 0xFF800000 = { bits := 0x80000000, flags := 0 } ∧
    fnRsq z 0 = { bits := 0x7F800000, flags := flagDZ } ∧ fnRsq z 0x80000000 = { bits := 0xFF800000, flags := flagDZ } ∧
    fnRsq z 0xBF800000 = { bits := 0x7FC00000, flags := flagIV } ∧ fnRsq z 0x7F800000 = { bits := 0, flags := 0 } ∧
    fnExp2 z 0xFF800000 = { bits := 0, flags := 0 } ∧ fnExp2 z 0x7F800000 = { bits := 0x7F800000, flags := 0 } ∧
    fnExp2 z 0 = { bits := 0x3F800000, flags := 0 } ∧ fnExp2 z 0x80000000 = { bits := 0x3F800000, flags := 0 } ∧
    fnLog2 z 0 = { bits := 0xFF800000, flags := flagDZ } ∧ fnLog2 z 0x80000000 = { bits := 0xFF800000, flags := flagDZ } ∧
    fnLog2 z 0xBF800000 = { bits := 0x7FC00000, flags := flagIV } ∧
    fnLog2 z 0x7F800000 = { bits := 0x7F800000, flags := 0 } ∧ fnLog2 z 0x3F800000 = { bits := 0, flags := 0 } ∧
    fnSinr z 0x7F800000 = { bits := 0x7FC00000, flags := flagIV } ∧ fnSinr z 0x80000000 = { bits := 0x80000000, flags := 0 } ∧
    fnSinr z 0x3E800000 = { bits := 0x3F800000, flags := 0 } ∧ fnCosr z 0x3E800000 = { bits := 0, flags := 0 } ∧
    fnCosr z 0xFF800000 = { bits := 0x7FC00000, flags := flagIV } ∧
    fnTanh z 0x7F800000 = { bits := 0x3F800000, flags := 0 } ∧ fnTanh z 0xFF800000 = { bits := 0xBF800000, flags := 0 } ∧
    fnTanh z 0 = { bits := 0, flags := 0 } ∧ fnTanh z 0x80000000 = { bits := 0x80000000, flags := 0 }

/-- R307 and Table 13-17: the two halves of each register are computed apart, each by the rules of its format, and their flags
are ORed. -/
def Obligations.PackedArithmetic : Prop :=
  let halves (i : OpG → Instr) (f : Nat → Bool → Nat → Nat → Nat → FpR) : Prop := ∀ o, ComputesF (i o) fun u l =>
    let half (k : Nat) : FpR := f u.rm u.ftz ((l.getV o.a.toNat).extractLsb' k 16).toNat
      ((l.getV o.b.toNat).extractLsb' k 16).toNat ((l.getV o.d.toNat).extractLsb' k 16).toNat
    { lane := l.setV o.d.toNat (word ((half 16).bits * 2 ^ 16 + (half 0).bits)), flags := (half 16).flags ||| (half 0).flags }
  let of (f : Fmt) (add sub mul fma lo hi : OpG → Instr) : Prop :=
    halves add (fun rm z a b _ => f.add rm z a b) ∧ halves sub (fun rm z a b _ => f.sub rm z a b) ∧
    halves mul (fun rm z a b _ => f.mul rm z a b) ∧ halves fma (fun rm z a b d => f.fma rm z a b d) ∧
    halves lo (fun _ z a b _ => f.minmax false false z a b) ∧ halves hi (fun _ z a b _ => f.minmax true false z a b)
  of f16 .hadd2 .hsub2 .hmul2 .hfma2 .hmin2 .hmax2 ∧ of bf16 .badd2 .bsub2 .bmul2 .bfma2 .bmin2 .bmax2

/-- R308 and R303: f64 arithmetic on pairs; FTZ never applies. -/
def Obligations.DoubleArithmetic : Prop :=
  let binary (i : OpG → Instr) (f : Nat → Bool → Nat → Nat → FpR) : Prop := ∀ o, ComputesF (i o) fun u l =>
    let r := f u.rm false (l.getV2 o.a.toNat).toNat (l.getV2 o.b.toNat).toNat
    { lane := l.setV2 o.d.toNat (BitVec.ofNat 64 r.bits), flags := r.flags }
  binary .dadd f64.add ∧ binary .dsub f64.sub ∧ binary .dmul f64.mul ∧ binary .ddiv f64.div ∧
  binary .dmin (fun _ => f64.minmax false false) ∧ binary .dmax (fun _ => f64.minmax true false) ∧
  (∀ o, ComputesF (.dfma o) fun u l =>
    let r := f64.fma u.rm false (l.getV2 o.a.toNat).toNat (l.getV2 o.b.toNat).toNat (l.getV2 o.d.toNat).toNat
    { lane := l.setV2 o.d.toNat (BitVec.ofNat 64 r.bits), flags := r.flags }) ∧
  (∀ o, ComputesF (.dsqrt o) fun u l =>
    let r := f64.sqrt u.rm false (l.getV2 o.a.toNat).toNat
    { lane := l.setV2 o.d.toNat (BitVec.ofNat 64 r.bits), flags := r.flags }) ∧
  ∀ o, ComputesF (.dcmp o) fun _ l =>
    let r := fcond o.cc.toNat (f64.unpack (l.getV2 o.a.toNat).toNat) (f64.unpack (l.getV2 o.b.toNat).toNat)
    { lane := l.setP o.d.toNat r.1, flags := r.2 }

/-- R309 and R233: CVT reads and writes an operand by its size, a narrow result leaving the other bits of D; the conversion of
an integer to an integer keeps its value where it fits, and else wraps, or clamps under SAT. -/
def Obligations.Conversions : Prop :=
  (∀ o x, ComputesF (.cvt o x) fun u l =>
    let wide (k : BitVec 8) : Bool := typeBytes k.toNat = 8
    let a := if wide x.st then (l.getV2 o.a.toNat).toNat else (l.getV o.a.toNat).toNat
    let rm := match x.rmo.toNat with | 0 => u.rm | 1 => 0 | 2 => 1 | _ => 3
    let r := convert x.st.toNat x.dt.toNat (x.sat = 1) rm u.ftz (a % 2 ^ (8 * typeBytes x.st.toNat))
    let k := 8 * typeBytes x.dt.toNat
    { lane := if wide x.dt then l.setV2 o.d.toNat (BitVec.ofNat 64 r.bits)
        else l.setV o.d.toNat (word ((l.getV o.d.toNat).toNat / 2 ^ k * 2 ^ k + r.bits))
      flags := r.flags }) ∧
  ∀ src dst i j, intOf src = some i → intOf dst = some j → ∀ (sat : Bool) (rm : Nat) (z : Bool) (b : Nat),
    let x := intOfBits i b
    let r := convert src dst sat rm z b
    r.flags = 0 ∧ r.bits < 2 ^ j.1 ∧ (intMin j ≤ x → x ≤ intMax j → intOfBits j r.bits = x) ∧
    (sat = true → intOfBits j r.bits = max (intMin j) (min x (intMax j))) ∧
    (sat = false → ((2 : Int) ^ j.1) ∣ intOfBits j r.bits - x)

/-- R226 to R228 and R300: the four rounding modes on a magnitude cut by k bits; bits that are no NaN are those of the value they
hold, a NaN is written as the canonical one, and sums and products do not depend on the order of their operands. -/
def Obligations.FormatsAndRounding : Prop :=
  (
    ∀ (neg : Bool) (m : Nat) (e : Int) (k : Nat),
      let r (rm : Nat) : Nat := (quant rm neg m e false (e + k)).1
      (2 * m ≤ (2 * r 0 + 1) * 2 ^ k ∧ 2 * r 0 * 2 ^ k ≤ 2 * m + 2 ^ k ∧
        (2 * m = (2 * r 0 + 1) * 2 ^ k ∨ 2 * m + 2 ^ k = 2 * r 0 * 2 ^ k → r 0 % 2 = 0)) ∧
      r 1 = m / 2 ^ k ∧
      r 2 = (if neg then m / 2 ^ k else (m + 2 ^ k - 1) / 2 ^ k) ∧
      r 3 = (if neg then (m + 2 ^ k - 1) / 2 ^ k else m / 2 ^ k) ∧
      ∀ rm, ((quant rm neg m e false (e + k)).2 = true ↔ m % 2 ^ k ≠ 0)) ∧
  (
    ∀ f ∈ [f16, bf16, f32, f64, e4m3, e5m2],
      (∀ b < 2 ^ f.width, (f.unpack b).isNaN = false → f.pack (f.unpack b) = b) ∧
      (f.unpack f.canonNaN).isNaN = true ∧
      (∀ (rm : Nat) (z : Bool) (x : Bool), (f.result rm z (.nan x)).bits = f.canonNaN) ∧
      ∀ (rm : Nat) (z : Bool) (a b : Nat), f.add rm z a b = f.add rm z b a ∧ f.mul rm z a b = f.mul rm z b a)

/-! ## Matrices (14 R312 to R327) -/

/-- R316 and R317: shapes, movement and inspection. Elements move as bits. MZERO and MSHGET fault a lane whose operand is the odd
register of a pair: R161 says so of every instruction, and the model follows it over Table 14-3's "none" (log 79). -/
def Obligations.MatrixMoves : Prop :=
  (∀ s c o x, Issues s (.mshapeImm o x) c →
    let r := x.nr.toNat + 1
    let k := x.nc.toNat + 1
    ¬ shapeFits c.t.mregs o.d.toNat r k x.ty.toNat → exec (.mshapeImm o x) s = .next (s.takeTrap c.r 8 0 0 0 false)) ∧
  (∀ s c o x, Issues s (.mshapeImm o x) c → shapeFits c.t.mregs o.d.toNat (x.nr.toNat + 1) (x.nc.toNat + 1) x.ty.toNat →
    (∀ l ∈ c.act s.guard, oddOfPair (c.t.lane l) o.d.toNat = false) → ∃ t new, exec (.mshapeImm o x) s = .next t ∧
      Waits c ((c.act s.guard).map fun l =>
        (l, outM ((c.t.lane l).retag o.d.toNat (x.nr.toNat + 1) (x.nc.toNat + 1) x.ty.toNat))) new ∧
      Effect s c (fun _ l => l) (fun u => { u with landing := u.landing ++ new }) id t) ∧
  (∀ o x, ComputesM (.mshapeLane o x) fun c l =>
    let t : BitVec 16 := (l.getV o.a.toNat).extractLsb' 0 16
    let a := l.getM o.d.toNat
    let b := l.getM (o.d.toNat + 1)
    if oddOfPair l o.d.toNat then none
    else if tagV t = false then some (outM ((o.d.toNat, { a with tag := 0 }) ::
      (if tagP a.tag then [(o.d.toNat + 1, { b with tag := 0 })] else [])))
    else if tagTy t ∈ allTypes ∧ shapeFits c.t.mregs o.d.toNat (tagR t) (tagC t) (tagTy t) then
      some (outM (l.retag o.d.toNat (tagR t) (tagC t) (tagTy t)))
    else none) ∧
  (∀ o x, ComputesM (.mzero o x) fun _ l => if oddOfPair l o.d.toNat then none else
    some (outM ((o.d.toNat, { l.getM o.d.toNat with data := 0 }) ::
      (if tagP (l.getM o.d.toNat).tag ∧ o.d.toNat % 2 = 0 then
        [(o.d.toNat + 1, { l.getM (o.d.toNat + 1) with data := 0 })] else [])))) ∧
  (∀ o x, ComputesM (.mshget o x) fun _ l => if oddOfPair l o.a.toNat then none else
    some (outV [(o.d.toNat, (l.getM o.a.toNat).tag.setWidth 32)])) ∧
  (∀ o x, ComputesM (.mtrn o x) fun c l => c.toM o.d l ((l.mat c.t.mregs o.a.toNat x.ty).map Mat.trans)) ∧
  (∀ o x, ComputesM (.mmov o x) fun c l => c.toM o.d l
    (match l.mat c.t.mregs o.a.toNat x.ty with
    | none => none
    | some a => match slicePlaces a.r a.c x.slc.toNat (sliceIndex c.p x) with
      | none => none
      | some ks => if x.slc = 0 then some a
        else some { a with r := 1, c := ks.length, el := ks.map fun k => (a.el[k]?).getD 0 })) ∧
  (∀ o x, ComputesM (.mget o x) fun c l =>
    match l.mat c.t.mregs o.a.toNat x.ty with
    | none => none
    | some a => match slicePlaces a.r a.c x.slc.toNat (sliceIndex c.p x) with
      | none => none
      | some ks => (ks[(l.getV o.b.toNat).toNat]?).map fun k => outV (elemToV l o.d.toNat a.ty ((a.el[k]?).getD 0))) ∧
  (∀ o x, ComputesM (.mput o x) fun c l =>
    match l.mat c.t.mregs o.d.toNat x.ty with
    | none => none
    | some a => match slicePlaces a.r a.c x.slc.toNat (sliceIndex c.p x) with
      | none => none
      | some ks => (ks[(l.getV o.b.toNat).toNat]?).map fun k => outM (l.matPatch o.d.toNat (typeBytes a.ty)
          [(k, if a.ty = 4 then (l.getV2 o.a.toNat).toNat else (l.getV o.a.toNat).toNat)])) ∧
  (∀ o x, ComputesM (.mred o x) fun c l =>
    match l.mat c.t.mregs o.a.toNat x.ty with
    | none => none
    | some a => match slicePlaces a.r a.c x.slc.toNat (sliceIndex c.p x) with
      | none => none
      | some ks => some (outV (elemToV l o.d.toNat (redType a.ty)
          (reduceElems o.b.toNat a.ty (ks.map fun k => (a.el[k]?).getD 0)))))

/-- R322 and R323: the multiply forms and the element-wise operations. -/
def Obligations.MatrixArithmetic : Prop :=
  let product (i : OpG → XMat → Instr) (ta tb acc : Bool) : Prop := ∀ o x, ComputesM (i o x) fun c l => c.toM o.d l
    (match l.mat c.t.mregs o.a.toNat x.ty, l.matAny c.t.mregs o.b.toNat with
    | some a, some b =>
      let a := if ta then a.trans else a
      let b := if tb then b.trans else b
      if acc then (match l.matAny c.t.mregs x.c.toNat with
        | none => none
        | some z => matMul a b (some z))
      else matMul a b none
    | _, _ => none)
  let both (i : OpG → XMat → Instr) (f : Nat → Nat → Nat → Nat) : Prop := ∀ o x, ComputesM (i o x) fun c l => c.toM o.d l
    (match l.mat c.t.mregs o.a.toNat x.ty, l.matAny c.t.mregs o.b.toNat with
    | some a, some b =>
      if a.r = b.r ∧ a.c = b.c ∧ a.ty = b.ty then some { a with el := (a.el.zip b.el).map fun e => f a.ty e.1 e.2 } else none
    | _, _ => none)
  product .mmul false false false ∧ product .mma false false true ∧ product .mmat true false true ∧
  product .mmab false true true ∧ both .madd elemAdd ∧ both .msub elemSub ∧ both .mhad elemMul ∧ both .mmax elemMax ∧
  (∀ o x, ComputesM (.mscal o x) fun c l => c.toM o.d l
    (match l.mat c.t.mregs o.a.toNat x.ty with
    | none => none
    | some a => match slicePlaces a.r a.c x.slc.toNat (sliceIndex c.p x) with
      | none => none
      | some ks =>
        let v := if a.ty = 4 then (l.getV2 o.b.toNat).toNat else (l.getV o.b.toNat).toNat
        some { a with el := (List.range a.el.length).map fun k =>
          if k ∈ ks then elemScale a.ty v ((a.el[k]?).getD 0) else (a.el[k]?).getD 0 })) ∧
  (∀ o x, ComputesM (.mexp2 o x) fun c l => c.toM o.d l
    (match l.mat c.t.mregs o.a.toNat x.ty with
    | none => none
    | some a => if a.ty ∈ [1, 2, 3] then
        (fmtOf a.ty).map fun f => { a with el := a.el.map fun e => (fnExp2In f false e).bits } else none)) ∧
  (∀ o x, ComputesM (.mcvt o x) fun c l => c.toM o.d l
    (match l.matAny c.t.mregs o.a.toNat with
    | none => none
    | some a => if (a.ty = 4) ≠ (x.ix.getLsbD 1 = true) then none
      else some { a with ty := x.ty.toNat
                         el := a.el.map fun e => (convert a.ty x.ty.toNat (x.ix.getLsbD 0) 0 false e).bits }))

/-- R324 to R326: factorisations with their predicate and MXSTAT, solves, powers and determinants. A factorisation whose
lanes' shapes pass completes: without MXTRAP its results wait, with MXTRAP they are written at once, and a lane that failed
then makes the matrix trap, which resumes at the next instruction. -/
def Obligations.MatrixSolvers : Prop :=
  let factor (i : OpG → XMat → Instr) (kind : Nat) (f : Fmt → Nat → Arr → Option Arr) : Prop := ∀ s c o x, Issues s (i o x) c →
    let lane (l : Lane) : Option LaneOut := match l.square c.t.mregs o.a.toNat x.ty with
      | none => none
      | some (g, a) =>
        if shapeFits c.t.mregs o.d.toNat a.r a.c a.ty = false ∨ oddOfPair l o.d.toNat then none
        else match f g a.r a.arr with
          | none => some { m := [], v := [], p := [(o.b.toNat, false)], fail := true }
          | some w => (l.matWrite c.t.mregs o.d.toNat { a with el := w.flatten }).map fun m =>
              { m := m, v := [], p := [(o.b.toNat, true)], fail := false }
    let act := c.act s.guard
    ((∃ l ∈ act, lane (c.t.lane l) = none) → exec (i o x) s = .next (s.takeTrap c.r 8 0 0
      (laneSet (act.filter fun l => (lane (c.t.lane l)).isNone)) false)) ∧
    ∀ outs, act.mapM (fun l => (lane (c.t.lane l)).map fun e => (l, e)) = some outs →
      let failed := (outs.filter fun e => e.2.fail && ! c.t.helper e.1).map Prod.fst
      let u := s.landOuts c.r c.p.clauseId outs
      let u := if failed = [] then u else u.land c.r.gid c.r.role c.p.clauseId (.mx failed.length kind)
      let v := u.landIf c.r.gid c.r.role fun w => decide (s.fresh ≤ w.id)
      exec (i o x) s = .next (if c.t.mxtrap = false then u.advance c.r
        else if failed = [] then v.advance c.r else v.takeTrap c.r 9 kind 0 (laneSet failed) true)
  let solve (i : OpG → XMat → Instr) (upper : Bool) : Prop := ∀ o x, ComputesM (i o x) fun c l => c.toM o.d l
    (match l.square c.t.mregs o.a.toNat x.ty, l.matAny c.t.mregs o.b.toNat with
    | some (g, a), some b => if b.r = a.r ∧ b.ty = a.ty then
        some { b with el := (solveArr g b.r b.c upper (x.ix.getLsbD 0) a.arr b.arr).flatten } else none
    | _, _ => none)
  factor .minv 0 minvArr ∧ factor .mlu 1 mluArr ∧ factor .mchol 2 mcholArr ∧ solve .msolvl false ∧ solve .msolvu true ∧
  (∀ o x, ComputesM (.mpow o x) fun c l => c.toM o.d l
    (match l.square c.t.mregs o.a.toNat x.ty with
    | none => none
    | some (g, a) => some { a with el :=
        ((powArr g a.r ((c.p.getS x.sx.toNat).toNat % 256) 8 none a.arr).getD (identArr g a.r)).flatten })) ∧
  ∀ o x, ComputesM (.mdet o x) fun c l => match l.square c.t.mregs o.a.toNat x.ty with
    | none => none
    | some (g, a) => some (outV (elemToV l o.d.toNat a.ty (detArr g a.r (List.range a.r) a.arr none 0)))

/-- R327 and R243: top-k lists. A new list of capacity k is empty; after a NaN score the entries stand as they were and the free
ones hold the free marker; a full list whose entries are all at least the new score stays as it is. -/
def Obligations.TopkLists : Prop :=
  (∀ o x, ComputesM (.topkClr o x) fun c l =>
    let k := sliceIndex c.p x
    if k = 0 ∨ 16 < k ∨ oddOfPair l o.d.toNat then none
    else some (outM (withBytes (l.retag o.d.toNat 8 4 11) o.d.toNat ((0 : BitVec 1024) ++ topkData k []) false))) ∧
  (∀ o x, ComputesM (.topkIns o x) fun _ l =>
    let a := l.getM o.d.toNat
    if a.tag ≠ 0xBB0B then none
    else some (outM [(o.d.toNat, { a with data := topkInsert a.data (l.getV o.a.toNat).toNat (l.getV o.b.toNat).toNat })])) ∧
  (∀ o x, ComputesM (.topkGet o x) fun c l =>
    let a := l.getM o.a.toNat
    let j := sliceIndex c.p x
    if a.tag ≠ 0xBB0B then none
    else if j < topkCount a.data then
      some (outV [(o.d.toNat, word (topkEntry a.data j).1), (o.d.toNat + 1, word (topkEntry a.data j).2)])
    else some (outV [(o.d.toNat, 0x7FC00000), (o.d.toNat + 1, 0xFFFFFFFF)])) ∧
  (∀ k, 1 ≤ k → k ≤ 16 → topkCap (topkData k []) = k ∧ topkCount (topkData k []) = 0) ∧
  ∀ (d : BitVec 1024) (score idx : Nat),
    ((f32.unpack score).isNaN = true → ∀ j < topkCap d, topkEntry (topkInsert d score idx) j =
      if j < topkCount d then topkEntry d j else (0x7FC00000, 0xFFFFFFFF)) ∧
    ((∀ e < topkCount d, scoreGe (topkEntry d e).1 score = true) → topkCount d = topkCap d → topkInsert d score idx = d)

/-- R161, R162 and R314: a matrix written to a slot of a lane reads back as the matrix that was written, whatever the slot and
its partner held before. -/
def Obligations.MatrixWriteReads : Prop :=
  ∀ (l : Lane) (mregs n : Nat) (m : Mat) (w : List (Nat × MReg)),
    m.ty ∈ allTypes → 1 ≤ m.r → m.r ≤ 8 → 1 ≤ m.c → m.c ≤ 8 → m.el.length = m.r * m.c →
    (∀ e ∈ m.el, e < 2 ^ (8 * typeBytes m.ty)) → l.matWrite mregs n m = some w →
    (w.foldl (fun l e => l.setM e.1 e.2) l).matAny mregs n = some m

/-! ## Control and system instructions (06 R148 to R157, 12 R278, 16 R361 to R373, 17 R375 to R383) -/

/-- R365, R366 and R368: a uniform transfer goes to its target where the guard holds in every deciding lane, and to the next
clause where it holds in none; a call writes the return address to s62 and s63. A guard that differs among the deciding lanes
is the fault 0x0B, a target off a word boundary 0x06, one outside the space 0x0E. That a target which is both takes 0x06 is the model's
choice (log 10). -/
def Obligations.BranchesAndCalls : Prop :=
  let goes (i : Instr) (s : State) (c : Cur) (target : Int) (aligned : Bool) (write : Path → Path) : Prop := Issues s i c →
    let holds (l : Nat) : Prop := guardHolds s.guard (c.t.lane l) = true
    let addr := (target % 2 ^ 64).toNat
    ((∀ l ∈ c.deciding, holds l) → 0 ≤ target → target < 2 ^ 57 → (aligned = true → target % 4 = 0) →
      exec i s = .next ((s.modPath c.r write).jump c.r target.toNat)) ∧
    ((∀ l ∈ c.deciding, ¬ holds l) → c.deciding ≠ [] → exec i s = .next (s.jump c.r c.fall)) ∧
    ((∃ l ∈ c.deciding, holds l) → (∃ l ∈ c.deciding, ¬ holds l) → exec i s = .next (s.takeTrap c.r 0x0B 0 0 0 false)) ∧
    ((∀ l ∈ c.deciding, holds l) → aligned = true → target % 4 ≠ 0 → exec i s = .next (s.takeTrap c.r 6 0 addr 0 false)) ∧
    ((∀ l ∈ c.deciding, holds l) → target < 0 ∨ 2 ^ 57 ≤ target → (aligned = true → target % 4 = 0) →
      exec i s = .next (s.takeTrap c.r 0x0E 0 addr 0 false))
  ∀ (s : State) (c : Cur),
    let link (p : Path) : Path := p.setS2 62 (BitVec.ofNat 64 c.fall)
    (∀ o : OpJ, goes (.bra o) s c (c.header + 4 * o.off.toInt) false id) ∧
    (∀ o : OpJ, goes (.call o) s c (c.header + 4 * o.off.toInt) false link) ∧
    (∀ o : OpG, goes (.brx o) s c (c.p.getS2 o.a.toNat).toNat true id) ∧
    (∀ o : OpG, goes (.callx o) s c (c.p.getS2 o.a.toNat).toNat true link) ∧
    ∀ o : OpU, goes (.ret o) s c (c.p.getS2 o.a.toNat).toNat true id

/-- R367, R150 and Table 6-2: BRD by its taken lanes: none falls through, all go to the target, some split the path. With the other
slot free the sides run concurrently in both slots, each with a copy of the s file; else the lanes that are not taken are
pushed, and a push beyond 32 entries is the fault 0x0B of detail 1. A push beyond four entries writes the oldest that the core held to
the team's spill area, entry i at offset 160 × i (R153). A target or join outside the space is 0x0E. Table 6-3: an entry in memory holds SLOT in byte 0, ARR in byte 1, OUTER, JOIN and PC in the three words from byte 8, and the mask; that OUTER
is 0 where there was no join is the model's choice (log 73). -/
def Obligations.DivergentBranch : Prop :=
  (∀ (k pc join : Nat) (mask : LaneSet) (outer : Option Nat) (arr : Bool), k < 2 → pc < 2 ^ 57 → join < 2 ^ 57 →
    (∀ a, outer = some a → a < 2 ^ 57) →
    (Split.pushed k mask pc join outer arr).bytes =
      [BitVec.ofNat 8 k, if arr then 1 else 0, 0, 0, 0, 0, 0, 0] ++ bytesLE 8 (outer.getD 0) ++ bytesLE 8 join ++ bytesLE 8 pc ++
        bytesLE 128 mask.toNat) ∧
  ∀ (s : State) (c : Cur) (o : OpB), Issues s (.brd o) c →
    let target : Int := c.header + 4 * o.t.toInt
    let join : Int := c.header + 4 * o.j.toInt
    let taken := laneSet (c.act s.guard)
    let rest := c.p.mask &&& ~~~ taken
    (target < 0 ∨ 2 ^ 57 ≤ target → exec (.brd o) s = .next (s.takeTrap c.r 0x0E 0 (target % 2 ^ 64).toNat 0 false)) ∧
    (0 ≤ target → target < 2 ^ 57 → join < 0 ∨ 2 ^ 57 ≤ join →
      exec (.brd o) s = .next (s.takeTrap c.r 0x0E 0 (join % 2 ^ 64).toNat 0 false)) ∧
    (0 ≤ target → target < 2 ^ 57 → 0 ≤ join → join < 2 ^ 57 →
      (taken = 0 → exec (.brd o) s = .next (s.jump c.r c.fall)) ∧
      (taken ≠ 0 → rest = 0 → exec (.brd o) s = .next (s.jump c.r target.toNat)) ∧
      (taken ≠ 0 → rest ≠ 0 → tget c.t.paths (1 - c.r.slot) = none → c.r.slot < 2 →
        ∃ t d q, exec (.brd o) s = .next t ∧ t.at c.r = some d ∧ tget d.t.paths (1 - c.r.slot) = some q ∧
          d.p.mask = taken ∧ d.p.pc = target.toNat ∧ d.p.jp = some join.toNat ∧ d.p.s = c.p.s ∧ d.p.clause = none ∧
          q.mask = rest ∧ q.pc = c.fall ∧ q.jp = some join.toNat ∧ q.s = c.p.s ∧ q.clause = none ∧
          d.t.lanes = c.t.lanes ∧ t.mem = s.mem) ∧
      (taken ≠ 0 → rest ≠ 0 → (tget c.t.paths (1 - c.r.slot)).isSome → 32 ≤ c.t.stackLen →
        exec (.brd o) s = .next (s.takeTrap c.r 0x0B 1 0 0 false)) ∧
      (taken ≠ 0 → rest ≠ 0 → (tget c.t.paths (1 - c.r.slot)).isSome → c.t.stackLen < 32 →
        ∃ u d, u.at c.r = some d ∧ d.p.mask = taken ∧ d.p.pc = target.toNat ∧ d.p.jp = some join.toNat ∧ d.p.clause = none ∧
          d.t.splits = .pushed c.r.slot rest c.fall join.toNat c.p.jp false :: c.t.splits ∧ d.t.lanes = c.t.lanes ∧
          { u with groups := [], fresh := 0 } = { s with groups := [], fresh := 0 } ∧
          (c.t.stackLen < 4 → exec (.brd o) s = .next u) ∧
          (∀ x e, 4 ≤ c.t.stackLen → tget s.ctxs c.g.asid = some x →
            (c.t.splits.filter fun k => match k with | .pushed _ _ _ _ _ _ => true | .pair _ _ _ _ _ => false)[3]? = some e →
            let slot := x.psz * 16 * 4096 + 40960
            exec (.brd o) s = .next (u.put c.g.asid (x.privbase + d.g.privSlot * slot + x.psz * 16 * 4096 + 5120 * c.r.role +
              160 * (c.t.stackLen - 4)) e.bytes))))

/-- R369, R370, R157 and R173: EXIT, END, NOP, YIELD and the re-division of registers: a team that yields leaves the active set
for the pending team that has been ready longest, in a cycle in which its core has made no other swap; registers given up lose what they hold and what they wait for, and registers
claimed read as zero. -/
def Obligations.EndsAndYields : Prop :=
  ∀ (s : State) (c : Cur),
    (Issues s .nop c → ∃ t, exec .nop s = .next t ∧ Effect s c (fun _ l => l) id id t) ∧
    (Issues s .endTeam c → (c.act s.guard ≠ [] → exec .endTeam s = .next (s.endTeam c.r.gid c.r.role)) ∧
      (c.act s.guard = [] → exec .endTeam s = .next (s.advance c.r))) ∧
    (Issues s .exit c →
      let out := laneSet (c.act s.guard)
      (out = 0 → exec .exit s = .next (s.advance c.r)) ∧
      (out ≠ 0 → (∀ l < c.t.lanesN, (c.t.alive &&& ~~~ out).getLsbD l = false) →
        exec .exit s = .next (s.endTeam c.r.gid c.r.role)) ∧
      (out ≠ 0 → (∃ l < c.t.lanesN, (c.t.alive &&& ~~~ out).getLsbD l = true) → c.p.mask &&& ~~~ out ≠ 0 →
        ∃ t d, exec .exit s = .next t ∧ t.at c.r = some d ∧ d.p.mask = c.p.mask &&& ~~~ out ∧ d.p.pc = c.fall ∧
          d.t.lanes = c.t.lanes ∧ t.mem = s.mem)) ∧
    (Issues s .yield c →
      let me : TRef := { gid := c.r.gid, role := c.r.role }
      (∀ t, c.act s.guard ≠ [] → s.longestReady c.g.core = some t →
        (s.swapFree c.g.core = true → exec .yield s = .next ((s.advance c.r).swapTeams c.g.core me t)) ∧
        (s.swapFree c.g.core = false → exec .yield s = .next s)) ∧
      (c.act s.guard = [] ∨ s.longestReady c.g.core = none → exec .yield s = .next (s.advance c.r))) ∧
    (∀ o : OpG, Issues s (.rgive o) c → c.workers s.guard ≠ [] →
      (c.t.paths.length = 1 → c.t.stackLen = 0 → 8 * o.a.toNat + 8 ≤ c.t.vregs →
        ∃ t d, exec (.rgive o) s = .next t ∧ t.at c.r = some d ∧ d.t.vregs = c.t.vregs - 8 * o.a.toNat ∧
          d.g.pool = c.g.pool + o.a.toNat ∧ t.mem = s.mem ∧ d.t.landing = (c.t.dropLand (c.t.vregs - 8 * o.a.toNat)).landing) ∧
      (c.t.paths.length ≠ 1 ∨ c.t.stackLen ≠ 0 ∨ c.t.vregs < 8 * o.a.toNat + 8 →
        exec (.rgive o) s = .next (s.takeTrap c.r 1 8 0 0 false))) ∧
    (∀ o : OpG, Issues s (.rclaim o) c → c.workers s.guard ≠ [] → c.t.paths.length = 1 → c.t.stackLen = 0 →
      let ok : Bool := o.a.toNat ≤ c.g.pool && c.t.vregs + 8 * o.a.toNat ≤ 64
      ∃ t d, exec (.rclaim o) s = .next t ∧ t.at c.r = some d ∧ t.mem = s.mem ∧
        d.t.vregs = (if ok then c.t.vregs + 8 * o.a.toNat else c.t.vregs) ∧
        d.g.pool = (if ok then c.g.pool - o.a.toNat else c.g.pool) ∧
        (ok = true → d.t.landing = (c.t.dropLand c.t.vregs).landing) ∧
        ∀ l, tget d.t.lanes l = (tget c.t.lanes l).map fun x =>
          let x : Lane := if ok then { x with v := x.v.filter fun e => e.1 < c.t.vregs } else x
          if l ∈ c.act s.guard then x.setP o.d.toNat ok else x)

/-- R278 and Table 12-17: SRD gives each active lane the register's value, and a read of a counter's low half latches its high
half (R170), whatever lanes are active (log 90); SWR writes the lowest active lane's value without the reserved bits, and DONEn lane by lane. -/
def Obligations.SpecialRegisters : Prop :=
  (∀ s c o ix, Issues s (.srd o ix) c → ∃ t, exec (.srd o ix) s = .next t ∧
    Effect s c (fun l r => r.setV o.d.toNat (word (s.special c ix.toNat l))) id
      (if ix = 12 then fun p => { p with cycLatch := some (word ((s.clock c.g.core).cyc.toNat / 2 ^ 32)) }
       else if ix = 14 then fun p => { p with etLatch := some (word (s.etimeOn c.g.core / 2 ^ 32)) } else id) t) ∧
  (∀ s c (o : OpU) (ix : BitVec 6) l rest, Issues s (.swr o ix) c → c.workers s.guard = l :: rest →
    let a := (c.t.lane l).getV o.a.toNat
    let writes (ft : Team → Team) (fp : Path → Path) : Prop := ∃ t, exec (.swr o ix) s = .next t ∧
      Effect s c (fun _ r => r) ft fp t
    (ix = 20 → writes (fun t => { t with fpc := a &&& 0x7E7 }) id) ∧
    (ix = 21 → writes (fun t => { t with fsr := a &&& 0x1F }) id) ∧
    (ix = 22 → writes (fun t => { t with mxstat := a &&& 0x8007FFFF }) id) ∧
    (ix = 23 → writes id fun p => { p with futstat := a &&& 3 }) ∧
    (ix = 24 → exec (.swr o ix) s = .next ((s.modCtx c.g.asid fun x => { x with atomsat := a.setWidth 2 }).advance c.r))) ∧
  (∀ s c (o : OpU) (ix : BitVec 6), Issues s (.swr o ix) c → 32 ≤ ix.toNat →
    let old := (tget c.t.done (ix.toNat - 32)).getD (false, 0)
    ∃ t new, exec (.swr o ix) s = .next t ∧
      Effect s c (fun _ r => r) (fun t => { t with done := tset t.done (ix.toNat - 32) (old.1, new) }) id t ∧
      ∀ l < 1024, (new : LaneSet).getLsbD l =
        if l ∈ c.act s.guard then ((c.t.lane l).getV o.a.toNat).getLsbD 0 else old.2.getLsbD l) ∧
  ∀ (s : State) (c : Cur) (l : Nat),
    s.special c 0 l = l ∧ s.special c 1 l = c.t.slotId ∧ s.special c 5 l = c.t.lanesN ∧ s.special c 6 l = c.r.role ∧
    s.special c 20 l = c.t.fpc.toNat ∧ s.special c 21 l = c.t.fsr.toNat ∧ s.special c 22 l = c.t.mxstat.toNat ∧
    s.special c 23 l = c.p.futstat.toNat ∧ s.special c 7 l = if c.t.lanesN ≤ l then 1 else 0

/-- R372, R377 to R380: TRAP and BKPT enter the handler after the instruction, with their cause and detail. In handler state
TRAP 511 and ERET return and TRAP 510 terminates the grid; elsewhere the two are ordinary traps, and ERET is illegal: with
detail 5 in a user context, with detail 8 outside handler state.
Choices of the model that it rests on: log 10. -/
def Obligations.TrapInstructions : Prop :=
  ∀ (s : State) (c : Cur),
    let works := c.workers s.guard ≠ []
    (∀ o, Issues s (.trap o) c → works → exec (.trap o) s = .next (s.takeTrap c.r 0x20 o.imm.toNat 0 0 true)) ∧
    (Issues s .bkpt c → works → exec .bkpt s = .next (s.takeTrap c.r 0x21 0 0 0 true)) ∧
    (∀ o, Issues s (.trapReturn o) c → works → (c.handles = true → exec (.trapReturn o) s = .next (s.returnTrap c.r)) ∧
      (c.handles = false → exec (.trapReturn o) s = .next (s.takeTrap c.r 0x20 511 0 0 true))) ∧
    (∀ o, Issues s (.trapTerminate o) c → works →
      (c.handles = true → exec (.trapTerminate o) s = .next (s.terminateGrid c.g.grid c.g.index c.t.trapCode)) ∧
      (c.handles = false → exec (.trapTerminate o) s = .next (s.takeTrap c.r 0x20 510 0 0 true))) ∧
    (Issues s .eret c → works → c.handles = true → exec .eret s = .next (s.returnTrap c.r)) ∧
    (s.look = some c → s.supv c = false → exec .eret s = .next (s.takeTrap c.r 1 5 0 0 false)) ∧
    (s.look = some c → s.supv c = true → c.handles = false → exec .eret s = .next (s.takeTrap c.r 1 8 0 0 false)) ∧
    ∀ i ∈ [Instr.trap ⟨0, 0, 0⟩, .trapReturn ⟨0, 0, 511⟩, .trapTerminate ⟨0, 0, 510⟩, .bkpt, .eret],
      Issues s i c → c.workers s.guard = [] → (i = .eret → c.handles = true) → exec i s = .next (s.advance c.r)

/-- R373, R23 and R274: TLBINV in a supervisor context drops the translations that it covers from the TLBs of every core and cell and from
the walk cache of every die (Table 16-5), and keeps the others; it completes at once where no access is outstanding that was translated
before it, and else its flag waits until none is, and its path issues nothing; in a user context it is an illegal instruction of detail
5, and of a lower detail only where an encoding that does not decode breaks a rule of its own (log 10). -/
def Obligations.TlbInvalidation : Prop :=
  let drops (i : Instr) (k : Cur → InvKind) : Prop := ∀ s c,
    (Issues s i c → c.workers s.guard ≠ [] → s.translated = [] → (∀ q ∈ s.hostReqs, q.live = false) →
      exec i s = .next ((s.invalidateTlb (k c)).advance c.r)) ∧
    (Issues s i c → c.workers s.guard ≠ [] → s.translated ≠ [] ∨ (∃ q ∈ s.hostReqs, q.live = true) →
      let v : Inval := { who := .clause c.r s.fresh, ops := s.translated, reqs := (s.hostReqs.filter fun q => q.live).map fun q => q.id }
      let u : State := s.invalidateTlb (k c)
      exec i s = .next ((({ u with fresh := s.fresh + 1, invals := s.invals ++ [v] } : State).addOp c.r c.p.clauseId s.fresh).advance
        c.r)) ∧
    (Issues s i c → c.workers s.guard = [] → exec i s = .next (s.advance c.r)) ∧
    (s.look = some c → s.supv c = false → i.wf = true → exec i s = .next (s.takeTrap c.r 1 5 0 0 false)) ∧
    (s.look = some c → s.supv c = false → ∃ d ≤ 5, exec i s = .next (s.takeTrap c.r 1 d 0 0 false)) ∧
    (s.look = some c → s.supv c = true → i.wf = true → Issues s i c)
  (∀ o x, drops (.tlbinvAll o x) fun _ => .all) ∧
  (∀ o x, drops (.tlbinvAsid o x) fun _ => .asid x.asid.toNat) ∧
  (∀ o x, drops (.tlbinvPage o x) fun c => .page x.asid.toNat (c.p.getS2 o.a.toNat).toNat) ∧
  (∀ o x, drops (.tlbinvGpage o x) fun c => .gpage (c.p.getS2 o.a.toNat).toNat) ∧
  (∀ (s : State) (k : InvKind) (n : Nat),
    (∀ e, e ∈ ((s.invalidateTlb k).core n).tlb ↔ e ∈ (s.core n).tlb ∧ k.covers e = false) ∧
    (∀ e, e ∈ ((s.invalidateTlb k).cell n).tlb ↔ e ∈ (s.cell n).tlb ∧ k.covers e = false) ∧
    (∀ w, w ∈ ((s.invalidateTlb k).die n).walk ↔ w ∈ (s.die n).walk ∧ match k with | .asid a => w.asid ≠ a | _ => False) ∧
    { s.invalidateTlb k with cores := [], cells := [], dies := [] } = { s with cores := [], cells := [], dies := [] } ∧
    { (s.invalidateTlb k).core n with tlb := [] } = { s.core n with tlb := [] } ∧
    { (s.invalidateTlb k).cell n with tlb := [] } = { s.cell n with tlb := [] } ∧
    { (s.invalidateTlb k).die n with walk := [] } = { s.die n with walk := [] }) ∧
  (∀ (e : TlbEntry) (n va : Nat),
    let global := e.leaf.getLsbD 7
    let holds := decide (e.base / 2 ^ e.size = va % 2 ^ 57 / 2 ^ e.size)
    InvKind.covers .all e = true ∧ InvKind.covers (.asid n) e = (! global && decide (e.asid = n)) ∧
    InvKind.covers (.page n va) e = (! global && decide (e.asid = n) && holds) ∧ InvKind.covers (.gpage va) e = (global && holds)) ∧
  (∀ (s : State), ∀ v ∈ s.invalsDone.invals, (v.ops ≠ [] ∨ v.reqs ≠ []) ∧ (∀ n ∈ v.ops, n ∈ s.translated) ∧
    ∀ n ∈ v.reqs, ∃ q ∈ s.hostReqs, q.live = true ∧ q.id = n) ∧
  ∀ (s : State) (c : Cur) (v : Inval) (op : Nat), v ∈ s.invals → v.who = .clause c.r op → s.ready c = false

/-- R277, R382, R383 and Table 17-5: IMAD24 and DOT4I8, signed and unsigned, and LDRO take the retired-opcode fault before any other
check, and wait for firmware, which delivers an illegal instruction for an FN that no row lists or a field check that fails, and
else performs the form in each active lane and resumes after it; a word outside the map is an illegal instruction.
Choices of the model that it rests on: log 10. -/
def Obligations.RetiredAndIllegal : Prop :=
  (∀ (s : State) (c : Cur), s.look = some c →
    let retired : Res := .next (s.takeTrap c.r 3 0 0 0 false)
    (∀ o, exec (.imad24I24 o) s = retired ∧ exec (.imad24N24 o) s = retired) ∧
    (∀ o, exec (.dot4i8I8 o) s = retired ∧ exec (.dot4i8N8 o) s = retired) ∧ ∀ o x, exec (.ldro o x) s = retired) ∧
  (∀ (s : State) (c : Cur) (k : Clause) (d : Nat), s.look = some c → c.p.clause = some k →
    parse k.word0 k.word1 = .error d → exec .illegalInstruction s = .next (
      if 0x7C ≤ majorOf k.word0 ∧ majorOf k.word0 ≤ 0x7E then s.takeTrap c.r 3 0 0 0 false else s.takeTrap c.r 1 d 0 0 false)) ∧
  (∀ (s : State) (t : TRef) (tr : Trap) (c : Cur) (x : Ctx), s.input = .team t → c.t.trap = some tr →
    s.at { gid := t.gid, role := t.role, slot := tr.slot } = some c → tget s.ctxs c.g.asid = some x →
    tr.phase = .firmware → c.g.place = .resident →
    let u : State := { s with guard := guardOf (tr.iwords.extractLsb' 0 32) }
    let illegal (d : Nat) : State :=
      (u.modTeam c.r.gid c.r.role fun t => { t with trap := none }).takeTrap c.r 1 d 0 0 false
    (∀ d, parse (tr.iwords.extractLsb' 0 32) (tr.iwords.extractLsb' 32 32) = .error d →
      exec .retiredOpcodeEmulation s = .next (illegal d)) ∧
    ∀ i, parse (tr.iwords.extractLsb' 0 32) (tr.iwords.extractLsb' 32 32) = .ok i →
      (∀ d, u.illegal i c [] = some d → exec .retiredOpcodeEmulation s = .next (illegal d)) ∧ (u.illegal i c [] = none →
      let three (d a b : BitVec 6) (f : Word → Word → Word → Word) : State :=
        u.emulated c tr fun l => l.setV d.toNat (f (l.getV a.toNat) (l.getV b.toNat) (l.getV d.toNat))
      (∀ o, i = .imad24I24 o → exec .retiredOpcodeEmulation s = .next (three o.d o.a o.b fun a b d =>
        BitVec.ofInt 32 ((a.extractLsb' 0 24).toInt * (b.extractLsb' 0 24).toInt) + d)) ∧
      (∀ o, i = .imad24N24 o → exec .retiredOpcodeEmulation s = .next (three o.d o.a o.b fun a b d =>
        BitVec.ofNat 32 ((a.extractLsb' 0 24).toNat * (b.extractLsb' 0 24).toNat) + d)) ∧
      (∀ o, i = .dot4i8I8 o → exec .retiredOpcodeEmulation s = .next (three o.d o.a o.b fun a b d =>
        BitVec.ofInt 32 ((List.range 4).map fun k => (a.extractLsb' (8 * k) 8).toInt * (b.extractLsb' (8 * k) 8).toInt).sum + d)) ∧
      (∀ o, i = .dot4i8N8 o → exec .retiredOpcodeEmulation s = .next (three o.d o.a o.b fun a b d =>
        BitVec.ofNat 32 ((List.range 4).map fun k => (a.extractLsb' (8 * k) 8).toNat * (b.extractLsb' (8 * k) 8).toNat).sum + d)) ∧
      ∀ o m, i = .ldro o m →
        let n := 2 ^ m.sz.toNat
        let r := u.checkLanes (c.act u.guard) fun s l => s.checkG c x (gAddr c o m.ub m.off.toInt l) n .read
        let spoilt := (passed r.2).filter fun e => e.2.any fun p => r.1.poisonPiece c.g.core false p
        let v := (r.1.hostAll c (passed r.2)).1
        (∀ l e rest, ((failed r.2).filter fun e => ! c.t.helper e.1) = (l, e) :: rest →
          exec .retiredOpcodeEmulation s = .next ((r.1.modTeam c.r.gid c.r.role fun t => { t with trap := none }).takeTrap c.r
            e.cause e.detail e.addr (laneSet ((((l, e) :: rest).filter fun b => b.2.cause = e.cause).map Prod.fst)) false)) ∧
        (((failed r.2).filter fun e => ! c.t.helper e.1) = [] → spoilt = [] →
          ((r.1.hostAll c (passed r.2)).2 = none → exec .retiredOpcodeEmulation s = .next v) ∧
          ∀ ls, (r.1.hostAll c (passed r.2)).2 = some ls →
            let p := v.perform ls fun s _ ps =>
              let q := s.readAll ps fun s p => s.readPiece c.g.core false p
              (q.1, LaneOut.regs (loadRegs o.d.toNat (m.sx = 1) q.2))
            let zeros := (failed r.2).map fun e => (e.1, LaneOut.regs (loadRegs o.d.toNat false (List.replicate n 0)))
            exec .retiredOpcodeEmulation s =
              .next ((p.1.landOuts c.r c.p.clauseId (p.2 ++ zeros)).resumeTrap c.r tr c.p.pc c.p.clause true))))

/-! ## Memory (01 R24 to R31, 02 R39 to R60, 05 R116 to R134, 15 R329 to R350) -/

/-- R332 and R333, R24, R349: the loads and stores complete where every lane passes its checks: a lane is performed as the instruction
issues, or later by an event of its own, which ends as the instruction does where it is the last. LD.g and ST.g take a global address,
LD.l and ST.l a scratchpad offset, LD.p and ST.p a private offset, LD.c the constant path, SMP an indexed address over the sampler path;
a release precedes a store, an acquire follows a load.
Choices of the model that it rests on: log 1, 83. -/
def Obligations.LoadsAndStores : Prop :=
  let load (i : OpG → XMem → Instr) (check : Cur → Ctx → OpG → XMem → State → Nat → State × Checked) (how : Cur → Ctx → XMem → How)
      (grain : XMem → Nat) : Prop :=
    ∀ o x, Performs (i o x) fun s c k => some (s,
      { rel := none
        acq := if ordAcq x.ord then some (scopeRank k c.g.core x.scope.toNat) else none
        suppress := false
        how := how c k x
        grain := grain x
        check := check c k o x
        arg := fun _ => .into (.regs o.d.toNat (x.sx = 1))
        zero := fun _ => LaneOut.regs (loadRegs o.d.toNat false (List.replicate (2 ^ x.sz.toNat) 0)) })
  let store (i : OpG → XMem → Instr) (through : Bool) (check : Cur → Ctx → OpG → XMem → State → Nat → State × Checked)
      (grain : XMem → Nat) : Prop :=
    ∀ o x, Performs (i o x) fun s c k =>
      let rank := scopeRank k c.g.core x.scope.toNat
      some (s,
        { rel := if ordRel x.ord then some rank else none
          acq := none
          suppress := true
          how := .store rank through
          grain := grain x
          check := check c k o x
          arg := fun l => .bytes (storeBytes (c.t.lane l) o.b.toNat (2 ^ x.sz.toNat))
          zero := fun _ => LaneOut.regs [] })
  let globally (acc : Access) (c : Cur) (k : Ctx) (o : OpG) (x : XMem) (u : State) (l : Nat) : State × Checked :=
    u.checkG c k (gAddr c o x.ub x.off.toInt l) (2 ^ x.sz.toNat) acc
  let locally (c : Cur) (_ : Ctx) (o : OpG) (x : XMem) (u : State) (l : Nat) : State × Checked :=
    (u, u.checkL c (lOff c o x.ub x.off.toInt l) (2 ^ x.sz.toNat))
  let privately (acc : Access) (c : Cur) (k : Ctx) (o : OpG) (x : XMem) (u : State) (l : Nat) : State × Checked :=
    u.checkP c k l (lOff c o x.ub x.off.toInt l) (2 ^ x.sz.toNat) acc
  let indexed (c : Cur) (k : Ctx) (o : OpG) (x : XMem) (u : State) (l : Nat) : State × Checked :=
    u.checkG c k (addOff 64 (gAddr c o x.ub x.off.toInt l)
      ((((c.t.lane l).getV o.b.toNat).toNat * 2 ^ x.sz.toNat : Nat) : Int)) (2 ^ x.sz.toNat) .read
  let plain (c : Cur) (k : Ctx) (x : XMem) : How := .load none (ordAcq x.ord && 2 ≤ scopeRank k c.g.core x.scope.toNat)
  let path (kind : PathKind) (_ : Cur) (_ : Ctx) (_ : XMem) : How := .load (some kind) false
  let one (_ : XMem) : Nat := 1
  let words (x : XMem) : Nat := if 8 ≤ 2 ^ x.sz.toNat then 2 else 1
  load .ldG (globally .read) plain one ∧ load .ldL locally plain one ∧ load .ldP (privately .read) plain words ∧
  load .ldC (globally .read) (path .constant) one ∧ load .smp indexed (path .sampler) one ∧
  store .stG false (globally .write) one ∧ store .stL false locally one ∧ store .stP false (privately .write) words ∧
  store .stGw true (globally .write) one ∧
  (∀ (s : State) (c : Cur) (k : Restart) (l : Nat) (ps : List Piece), s.issues = [] →
    (∀ kind past d sx, k.how = .load kind past → k.arg l = .into (.regs d sx) →
      let r := s.readAll ps fun u p => u.readBy c.g.core c.g.asid kind past p
      k.run c s l ps = (r.1, LaneOut.regs (loadRegs d sx r.2))) ∧
    (∀ rank through bs, k.how = .store rank through → k.arg l = .bytes bs → (ps.map Piece.len).sum ≤ bs.length →
      k.run c s l ps = ((ps.foldl (fun (e : State × Nat) p =>
        (e.1.writePiece c.r.gid c.g.core rank through ((bs.drop e.2).take p.len) p, e.2 + p.len))
          (s.noteRing c.g.asid c.r ps, 0)).1, LaneOut.regs []))) ∧
  ∀ (s : State) (e : Issue) (l : LaneAcc) (p : Piece), s.issueOf e.id = some e → e.lanes = [l] → l.pieces = [p] → l.grain = 1 →
    p.isOpen = true → (p.isHost && e.how.reads) = false → s.wouldPoison e.core e.how [p] = false →
    let r := s.doPiece e.asid e.core e.path e.clause e.how l.arg 0 p
    let done : Issue := { e with lanes := [{ l with pieces := [.given r.2] }] }
    let u := r.1.modIssue e.id fun k => { k with lanes := k.lanes.map fun a =>
      if a.lane = l.lane then { a with pieces := [.given r.2] } else a }
    s.doEvent e.id l.lane 0 = State.finishIssue (match e.done with
      | some n => if e.how.reads then u else u.markDone e.path n (laneSet [l.lane])
      | none => u) done

/-- R29, R330, R332 and Table 12-5: scratchpad accesses, and the bytes of registers. LD.l gives each lane the bytes at its offset, in its
own scratchpad or a member's through the gang window, and changes no register before the results are written (here in a step that
performs every lane, with no access of before that waits). ST.l makes every byte
that a lane stores that lane's byte (one of theirs, where several store it) and leaves every other byte of every scratchpad, memory and
every register as they were. One and two loaded bytes are extended by SX to 32 bits, wider values fill registers from the lowest; a
store takes the low bytes, or the registers in the same order. -/
def Obligations.ScratchpadAccess : Prop :=
  (
    ∀ (s : State) (c : Cur) (o : OpG) (x : XMem) (k : Ctx) (n : Nat) (done : LaneSet) (place : Nat → Nat × Nat),
      tget s.ctxs c.g.asid = some k → c.doneMask = some (n, done) → s.mode = .whole → s.issues = [] →
      let size := 2 ^ x.sz.toNat
      let off (l : Nat) : Nat := lOff c o x.ub x.off.toInt l
      let fits (l : Nat) : Prop := off l % size = 0 ∧ s.spadWhere c.r.gid (off l) size = .ok (place l)
      (Issues s (.ldL o x) c →
        let lanes := (c.act s.guard).filter fun l => ! done.getLsbD l
        (∀ l ∈ lanes, fits l ∧ s.spadPoisoned (place l).1 (place l).2 size = false) →
        let u : State := if ordAcq x.ord then s.acquire c.g.core (scopeRank k c.g.core x.scope.toNat) else s
        ∃ t new, exec (.ldL o x) s = .next t ∧
          Waits c (lanes.map fun l =>
            (l, LaneOut.regs (loadRegs o.d.toNat (x.sx = 1) (s.spadBytes (place l).1 (place l).2 size)))) new ∧
          Effect { u with free := u.free + 1 } c (fun _ r => r)
            (fun w => { w with landing := w.landing ++ new, done := tdel w.done n })
            (fun p => { p with heldDone := if p.heldDone = some n then none else p.heldDone }) t) ∧
      (Issues s (.stL o x) c → ordRel x.ord = false →
        let lanes := (c.act s.guard).filter fun l => ! done.getLsbD l && ! c.t.helper l
        (∀ l ∈ lanes, fits l) →
        let at_ (l gid a : Nat) : Prop := (place l).1 = gid ∧ (place l).2 ≤ a ∧ a < (place l).2 + size
        ∃ t, exec (.stL o x) s = .next t ∧ s.OnlyGroups t ∧ s.SameRegs t ∧
          ∀ gid g, tget s.groups gid = some g → ∃ h, tget t.groups gid = some h ∧ ∀ a,
            ((∀ l ∈ lanes, ¬ at_ l gid a) → memGet h.spad a = memGet g.spad a) ∧
            ((∃ l ∈ lanes, at_ l gid a) → ∃ l ∈ lanes, at_ l gid a ∧
              some (memGet h.spad a) = (storeBytes (c.t.lane l) o.b.toNat size)[a - (place l).2]?))) ∧
  (
    (∀ (d : Nat) (b : Byte), loadRegs d false [b] = [(d, b.setWidth 32)] ∧ loadRegs d true [b] = [(d, b.signExtend 32)]) ∧
    (∀ (d : Nat) (b b1 : Byte), loadRegs d false [b, b1] = [(d, (b1 ++ b : BitVec 16).setWidth 32)] ∧
      loadRegs d true [b, b1] = [(d, (b1 ++ b : BitVec 16).signExtend 32)]) ∧
    (∀ (d : Nat) (sx : Bool) (ws : List Word), ws ≠ [] → loadRegs d sx (ws.flatMap fun w => bytesLE 4 w.toNat) =
      ws.zipIdx.map fun e => (d + e.2, e.1)) ∧
    ∀ (l : Lane) (b : Nat), storeBytes l b 1 = [(l.getV b).extractLsb' 0 8] ∧
      storeBytes l b 2 = [(l.getV b).extractLsb' 0 8, (l.getV b).extractLsb' 8 8] ∧
      (∀ n < 5, 0 < n → storeBytes l b (4 * n) = (List.range n).flatMap fun i => bytesLE 4 (l.getV (b + i)).toNat) ∧
      ∀ x : Dbl, storeBytes (l.setV2 b x) b 8 = bytesLE 8 x.toNat)

/-- R42, R44 to R46, R59 and Table 2-1: the write-back L1. A core reads its own narrow stores; a store at cell rank or wider, or
a written-through one, is in memory at once, and where no L1 owns a line it writes no other byte; a release writes back every dirty
byte that it covers, and at module rank or wider waits for every RDC invalidation that the core answers for; an acquire at cell rank
or wider leaves no clean line but those under atomic ownership; a full fence at module rank leaves no invalidation pending.
Choices of the model that it rests on: log 67. -/
def Obligations.WriteBackCache : Prop :=
  (∀ (s : State) (gid core pa rank : Nat) (bs : List Byte) (a : Attr), a.uncached = false → rank < 2 →
    pa % 128 + bs.length ≤ 128 → s.l1Ways core ≠ [] →
    ((s.storeOf gid core pa bs rank false a).l1Load core pa bs.length a).2 = bs) ∧
  (∀ (s : State) (gid core pa rank : Nat) (bs : List Byte) (through : Bool) (a : Attr), pa % 128 + bs.length ≤ 128 → bs ≠ [] →
    isDeviceMem pa = true → through = true ∨ 2 ≤ rank →
    let t := s.storeOf gid core pa bs rank through a
    memBytes t.mem pa bs.length = bs ∧
    ((∀ line, (s.dir line).owner = none) → (∀ b, b / 128 ≠ pa / 128 → memGet t.mem b = memGet s.mem b) ∧
      (a.uncached = false → ∀ b, b < pa ∨ pa + bs.length ≤ b → memGet t.mem b = memGet s.mem b))) ∧
  (∀ (s : State) (core rank line : Nat) (l : Line) (i : Nat), s.l1Find core line = some l → l.dirty.getLsbD i = true →
    2 ≤ rank ∨ rank = 1 ∧ l.group = false →
    memGet (s.release core rank).mem (128 * line + i) = getByte l.data i) ∧
  (∀ (s : State) (core rank : Nat), 4 ≤ rank → ∀ e ∈ (s.release core rank).rdcInv, core ∉ e.cores) ∧
  (∀ (s : State) (core rank : Nat), rank < 2 → s.acquire core rank = s) ∧
  (∀ (s : State) (core rank : Nat), 2 ≤ rank → ∀ l ∈ ((s.acquire core rank).core core).l1,
    l.owned = true ∨ l.valid = 0 ∧ l.dirty ≠ 0) ∧
  ∀ (s : State) (core rank : Nat), 4 ≤ rank → (s.fullFence core rank).rdcInv = []

/-- R319 to R321, R313, R335, R204, R27: matrix loads and stores in their address and tensor forms, packed weights, and LDT. Their
shapes and descriptors are checked first: a descriptor that cannot be used is the fault that it gives, and one that the host has still
to give is awaited; without an active lane a page of descriptors never faults. Then each lane accesses its elements.
Choices of the model that it rests on: log 1, 10, 70. -/
def Obligations.MatrixMemory : Prop :=
  let shaped (c : Cur) (g : Guard) (shape : Lane → Option Mat) : Option (Nat → Mat) :=
    if (c.act g).all fun l => (shape (c.t.lane l)).isSome then
      some fun l => (shape (c.t.lane l)).getD { r := 1, c := 1, ty := 1, el := [] }
    else none
  let typed (c : Cur) (o : OpG) (x : MMem) (t : Option Tensor) (l : Lane) : Option Mat :=
    (l.mat c.t.mregs o.d.toNat x.ty).bind fun m => match t with
      | none => some m
      | some t => if m.ty = t.ty then some m else none
  let given (s : State) (c : Cur) (k : Ctx) (id : Nat) (ok : Tensor → Bool) : Option (State × Option Tensor) :=
    match s.tensor c k id with
    | (u, .ok t) => if ok t then some (u, some t) else none
    | (u, .skip) => some (u, none)
    | _ => none
  let elems (c : Cur) (k : Ctx) (o : OpG) (t : Option Tensor) (acc : Access) (s : State) (l : Nat) (m : Mat) : State × Checked :=
    s.checkMany (places m.r m.c) fun s e => s.checkElem c k t (elemCoords (coordsOf (c.t.lane l) o) e.1 e.2) acc
  let rel (c : Cur) (k : Ctx) (x : MMem) : Option Nat :=
    if ordRel x.ord then some (scopeRank k c.g.core x.scope.toNat) else none
  let plainType (t : Tensor) : Bool := allTypes.contains t.ty
  (∀ o x, Performs (.mld o x) fun s c k =>
    let rank := scopeRank k c.g.core x.scope.toNat
    let imm := blank (x.nr.toNat + 1) (x.nc.toNat + 1) x.ty.toNat
    if x.shp = 1 ∧ shapeFits c.t.mregs o.d.toNat imm.r imm.c imm.ty = false then none
    else (shaped c s.guard fun l =>
        if x.shp = 1 then (if oddOfPair l o.d.toNat then none else some imm) else l.mat c.t.mregs o.d.toNat x.ty).map fun m =>
      (s, c.matLoad o m (.load none (ordAcq x.ord && 2 ≤ rank)) (if ordAcq x.ord then some rank else none)
        (fun u l m => u.checkRows c k o l m.r m.c (typeBytes m.ty) .read))) ∧
  (∀ o x, Performs (.mst o x) fun s c k =>
    (shaped c s.guard fun l => l.mat c.t.mregs o.d.toNat x.ty).map fun m =>
      (s, Cur.matStore m (rel c k x) (scopeRank k c.g.core x.scope.toNat)
        (fun u l m => u.checkRows c k o l m.r m.c (typeBytes m.ty) .write))) ∧
  (∀ o x, Performs (.mldT o x) fun s c k =>
    (given s c k (c.p.getS x.sx.toNat).toNat plainType).bind fun e =>
      (shaped c s.guard (typed c o x e.2)).map fun m =>
        (e.1, c.matLoad o m (.load (some .tile) false) none (elems c k o e.2 .read))) ∧
  (∀ o x, Performs (.mstT o x) fun s c k =>
    (given s c k (c.p.getS x.sx.toNat).toNat plainType).bind fun e =>
      (shaped c s.guard (typed c o x e.2)).map fun m =>
        (e.1, Cur.matStore m (rel c k x) (scopeRank k c.g.core x.scope.toNat) (elems c k o e.2 .write))) ∧
  (∀ o x, Performs (.mldw o x) fun s c k =>
    (given s c k (c.p.getS x.sx.toNat).toNat weightOk).bind fun e =>
      (shaped c s.guard fun l => (l.mat c.t.mregs o.d.toNat x.ty).bind fun m => if m.ty = 3 then some m else none).map fun m =>
        let coords (l : Nat) : List (List Int) := (places (m l).r (m l).c).map fun p => elemCoords (coordsOf (c.t.lane l) o) p.1 p.2
        (e.1,
          { rel := none
            acq := none
            suppress := false
            how := .load (some .tile) false
            grain := 1
            check := fun u l => u.checkMany (coords l) fun u is => u.checkWeight c k e.2 is
            arg := fun l => .into (.weights o.d.toNat (m l).r (m l).c (match e.2 with
              | none => []
              | some t => (coords l).map (weightPlace t)))
            zero := fun l => LaneOut.slots (((c.t.lane l).matWrite c.t.mregs o.d.toNat
              { m l with el := (m l).el.map fun _ => 0 }).getD []) })) ∧
  (∀ o x, Performs (.ldt o x) fun s c k =>
    (given s c k (c.p.getS o.b.toNat).toNat fun t => ! isWeight t.ty && typeBytes t.ty = szBytes x.sz).map fun e =>
      (e.1, c.load o x k (.load (some .tile) false) 1 fun u l =>
        let v (i : Nat) : Int := (((c.t.lane l).getV (o.a.toNat + i)).toNat : Int)
        u.checkElem c k e.2 [v 0 + x.off.toInt, v 1, v 2, v 3, 0] .read)) ∧
  (∀ (l : Lane) (mregs d r k ty : Nat) (els : List Nat), els.length = r * k → (∀ e ∈ els, e < 2 ^ (8 * typeBytes ty)) →
    LaneArg.out (.into (.mat d r k ty)) mregs l (els.flatMap fun e => bytesLE (typeBytes ty) e) =
      LaneOut.slots ((l.matWrite mregs d { r := r, c := k, ty := ty, el := els }).getD [])) ∧
  (∀ (s : State) (c : Cur) (k : Ctx) (o : OpG) (x : MMem), tget s.ctxs c.g.asid = some k →
    let bad := (c.act s.guard).filter fun l => ((c.t.lane l).mat c.t.mregs o.d.toNat x.ty).isNone
    bad ≠ [] → (Issues s (.mst o x) c → exec (.mst o x) s = .next (s.takeTrap c.r 8 0 0 (laneSet bad) false)) ∧
      (Issues s (.mld o x) c → x.shp = 0 → exec (.mld o x) s = .next (s.takeTrap c.r 8 0 0 (laneSet bad) false))) ∧
  ∀ (s : State) (c : Cur) (k : Ctx) (i : Instr) (id : Nat) (ok : Tensor → Bool), tget s.ctxs c.g.asid = some k → Issues s i c →
    (∃ o x, i = .mldT o x ∧ id = (c.p.getS x.sx.toNat).toNat ∧ ok = plainType) ∨
      (∃ o x, i = .mstT o x ∧ id = (c.p.getS x.sx.toNat).toNat ∧ ok = plainType) ∨
      (∃ o x, i = .mldw o x ∧ id = (c.p.getS x.sx.toNat).toNat ∧ ok = weightOk) ∨
      (∃ o x, i = .ldt o x ∧ id = (c.p.getS o.b.toNat).toNat ∧
        ok = fun t => ! isWeight t.ty && typeBytes t.ty = szBytes x.sz) →
    ∀ u, (∀ e, s.tensor c k id = (u, .bad e) → exec i s = .next (u.takeTrap c.r e.cause e.detail e.addr 0 false)) ∧
      (s.tensor c k id = (u, .wait) → exec i s = .next u) ∧
      (∀ t, s.tensor c k id = (u, .ok t) → ok t = false → exec i s = .next (u.takeTrap c.r 7 0 0 0 false)) ∧
      (4096 ≤ id → exec i s = .next (s.takeTrap c.r 7 0 0 0 false))

/-- R26, R336 to R340, R35: ATOM, RED, their scratchpad forms, LDF and STF act in every lane or none. Each completes where every
worker lane passes its checks and consumes no poison: its lanes are performed as it issues, or issued, and then performed one by one. RMWs
release before and acquire after the last lane; STF releases and never acquires; LDF hands its requests to the home slices, and completes
at once where no lane asks. A lane that fails makes its fault, with nothing performed.
Choices of the model that it rests on: log 1, 16. -/
def Obligations.AtomicForms : Prop :=
  let acts (u : State) (c : Cur) (a : Restart) (ps : List (Nat × List Piece)) (zeros : List (Nat × LaneOut)) : State :=
    if ps.all (u.mode.now a.how) then
      let r := (u.relFor c a.rel).perform ps (a.run c)
      ((r.1.landOuts c.r c.p.clauseId (r.2 ++ zeros)).acqFor c a.acq).advance c.r
    else u.goAll c a ps zeros
  let rmw (i : OpG → XAtm → Instr) (ret : Bool) (check : Cur → Ctx → OpG → XAtm → State → Nat → State × Checked) : Prop :=
    ∀ o x, PerformsAll (i o x) (fun c k => check c k o x) (fun c u ps => ps.any (u.poisonAtom c.g.core)) fun s c k u ps =>
      let rank := scopeRank k c.g.core x.scope.toNat
      acts u c
        { rel := if ordRel x.ord then some rank else none
          acq := if ordAcq x.ord then some rank else none
          suppress := false
          how := .atom
          grain := 1
          check := check c k o x
          arg := fun l => .rmw (atomReq (c.t.lane l) o.b.toNat x) (if ret then some o.d.toNat else none)
          zero := fun _ => LaneOut.regs (atomRegs o.d.toNat x 0) } ps
        (((c.act s.guard).filter fun l => ret && c.t.helper l).map fun l => (l, LaneOut.regs (atomRegs o.d.toNat x 0)))
  rmw .atom true (fun c k o x u l => u.checkAtom c k o x true l) ∧
  rmw .red false (fun c k o x u l => u.checkAtom c k o x false l) ∧
  rmw .atomL true (fun c _ o x u l => (u, u.checkL c (lOff c o x.ub x.off.toInt l) (atomBits x.aty / 8))) ∧
  rmw .redL false (fun c _ o x u l => (u, u.checkL c (lOff c o x.ub x.off.toInt l) (atomBits x.aty / 8))) ∧
  (∀ o x, PerformsAll (.stf o x) (fun c k u l => u.checkCell c k o x .write l) (fun _ _ _ => false) fun _ c k u ps =>
    acts u c
      { rel := some (scopeRank k c.g.core x.scope.toNat)
        acq := none
        suppress := true
        how := .store 5 true
        grain := 1
        check := fun u l => u.checkCell c k o x .write l
        arg := fun l => .bytes (bytesLE 8 ((c.t.lane l).getV2 o.b.toNat).toNat)
        zero := fun _ => LaneOut.regs [] } ps []) ∧
  (∀ o x, PerformsAll (.ldf o x) (fun c k u l => u.checkCell c k o x .read l) (fun _ u ps => ps.any (u.poisonHome ·))
      fun s c k u ps =>
    let v := u.catchUp c.r (ps.flatMap Prod.snd)
    let id := v.fresh
    let reqs := ldfReqs c o id ps
    let zero : LaneOut := { m := [], v := [(o.d.toNat, 0), (o.d.toNat + 1, 0)], p := [(o.b.toNat, false)], fail := false }
    let w := ({ v with fresh := id + 1 }).landOuts c.r c.p.clauseId
      (((c.act s.guard).filter fun l => c.t.helper l).map fun l => (l, zero))
    if reqs = [] then (if ordAcq x.ord then w.acquire c.g.core (scopeRank k c.g.core x.scope.toNat) else w).advance c.r
    else
      let l : Ldf :=
        { path := c.r, clause := c.p.clauseId, code := 0, left := reqs.length, reqs := reqs, held := false
          acq := if ordAcq x.ord then some x.scope.toNat else none, slots := 1#2 <<< c.r.slot }
      (({ w with ldfs := tset w.ldfs id l, cellReqs := w.cellReqs ++ reqs }).addOp c.r c.p.clauseId id).advance c.r) ∧
  (∀ (s : State) (c : Cur) (a : Restart) (ps : List (Nat × List Piece)) (zeros : List (Nat × LaneOut)),
    ps.all (s.mode.now a.how) = false → ∃ (w : State) (e : Issue), s.goAll c a ps zeros = w.advance c.r ∧ e ∈ w.issues ∧
      e.path = c.r ∧ e.done = none ∧ e.how = a.how ∧ e.acq = a.acq ∧
      e.lanes.map (fun l => (l.lane, l.arg)) = (ps.filter fun p => ! s.mode.now a.how p).map fun p => (p.1, a.arg p.1)) ∧
  (∀ (s : State) (c : Cur) (a : Restart) (q : AtomReq) (dst : Option Nat) (l va pa n : Nat) (y : Attr), s.issues = [] →
    a.how = .atom → a.arg l = .rmw q dst →
    let out (r : RmwOut) : LaneOut := LaneOut.regs (oldRegs dst (bytesLE (atomBits q.ty / 8) r.old))
    let far := (s.noteRing c.g.asid c.r [.mem va pa n y]).rmwGlobal c.g.core pa y q
    (far.flags = 0 → far.sat = 0 → a.run c s l [.mem va pa n y] = (far.s, out far)) ∧
    ∀ gid off,
      let own := s.rmwSpad gid off q
      own.flags = 0 → own.sat = 0 → a.run c s l [.spad va gid off n] = (own.s, out own)) ∧
  (∀ (d : Nat) (x : XAtm) (old : Nat), oldRegs none (bytesLE (atomBits x.aty / 8) old) = [] ∧
    oldRegs (some d) (bytesLE (atomBits x.aty / 8) old) = atomRegs d x old) ∧
  (∀ (s : State) (gid off : Nat) (q : AtomReq) (g : Group), tget s.groups gid = some g →
    let n := atomBits q.ty / 8
    let r := s.rmwSpad gid off q
    r.old = natLE (s.spadBytes gid off n) ∧ r.s.spadBytes gid off n = bytesLE n (atomStep q r.old).new ∧ r.s.mem = s.mem) ∧
  ∀ (s : State) (core pa : Nat) (q : AtomReq), isDeviceMem pa = true → pa % (atomBits q.ty / 8) = 0 →
    (s.dir (pa / 128)).owner = none →
    let n := atomBits q.ty / 8
    let r := s.rmwHome core pa true false q
    r.old = memNat s.mem pa n ∧ memNat r.s.mem pa n = (atomStep q r.old).new % 2 ^ (8 * n)

/-- R337 and Table 12-6: the new value of an integer atomic on m with operands b and c, by its type, and the saturation of
INC and DEC; it raises no floating-point flag. -/
def Obligations.AtomicValues : Prop :=
  let at32 (op : Nat) (signed : Bool) (f : Word → Word → Word → Word) : Prop := ∀ (m b n : Word),
    let r := atomStep { op := BitVec.ofNat 4 op, ty := if signed then 0 else 1, b := b.setWidth 64, c := n.setWidth 64 } m.toNat
    r.new = (f m b n).toNat ∧ r.flags = 0 ∧ r.sat = 0
  let at64 (op : Nat) (signed : Bool) (f : Dbl → Dbl → Dbl → Dbl) : Prop := ∀ (m b n : Dbl),
    let r := atomStep { op := BitVec.ofNat 4 op, ty := if signed then 2 else 3, b := b, c := n } m.toNat
    r.new = (f m b n).toNat ∧ r.flags = 0 ∧ r.sat = 0
  (∀ sg, at32 0 sg (fun m b _ => m + b) ∧ at64 0 sg fun m b _ => m + b) ∧
  at32 1 true (fun m b _ => if b.slt m then b else m) ∧ at32 1 false (fun m b _ => if b < m then b else m) ∧
  at64 1 true (fun m b _ => if b.slt m then b else m) ∧ at64 1 false (fun m b _ => if b < m then b else m) ∧
  at32 2 true (fun m b _ => if m.slt b then b else m) ∧ at32 2 false (fun m b _ => if m < b then b else m) ∧
  at64 2 true (fun m b _ => if m.slt b then b else m) ∧ at64 2 false (fun m b _ => if m < b then b else m) ∧
  (∀ sg, at32 3 sg (fun m b _ => m &&& b) ∧ at64 3 sg fun m b _ => m &&& b) ∧
  (∀ sg, at32 4 sg (fun m b _ => m ||| b) ∧ at64 4 sg fun m b _ => m ||| b) ∧
  (∀ sg, at32 5 sg (fun m b _ => m ^^^ b) ∧ at64 5 sg fun m b _ => m ^^^ b) ∧
  (∀ sg, at32 6 sg (fun _ b _ => b) ∧ at64 6 sg fun _ b _ => b) ∧
  (∀ sg, at32 7 sg (fun m b n => if m = b then n else m) ∧ at64 7 sg fun m b n => if m = b then n else m) ∧
  (∀ (m b : Word),
    let r (op ty : Nat) : AtomRes := atomStep { op := BitVec.ofNat 4 op, ty := BitVec.ofNat 3 ty, b := b.setWidth 64, c := 0 } m.toNat
    let up : AtomRes := { new := (m + 1).toNat, flags := 0, sat := 0 }
    let down : AtomRes := { new := (m - 1).toNat, flags := 0, sat := 0 }
    r 8 0 = (if m.slt b = true then up else { new := m.toNat, flags := 0, sat := 1 }) ∧
    r 8 1 = (if m < b then up else { new := m.toNat, flags := 0, sat := 1 }) ∧
    r 9 0 = (if b.slt m = true then down else { new := m.toNat, flags := 0, sat := 2 }) ∧
    r 9 1 = if b < m then down else { new := m.toNat, flags := 0, sat := 2 }) ∧
  ∀ (m b : Dbl),
    let r (op ty : Nat) : AtomRes := atomStep { op := BitVec.ofNat 4 op, ty := BitVec.ofNat 3 ty, b := b, c := 0 } m.toNat
    let up : AtomRes := { new := (m + 1).toNat, flags := 0, sat := 0 }
    let down : AtomRes := { new := (m - 1).toNat, flags := 0, sat := 0 }
    r 8 2 = (if m.slt b = true then up else { new := m.toNat, flags := 0, sat := 1 }) ∧
    r 8 3 = (if m < b then up else { new := m.toNat, flags := 0, sat := 1 }) ∧
    r 9 2 = (if b.slt m = true then down else { new := m.toNat, flags := 0, sat := 2 }) ∧
    r 9 3 = if b < m then down else { new := m.toNat, flags := 0, sat := 2 }

/-- R54, R82, R341 to R344: FENCE releases or acquires by its order, or is a full fence; PFENCE releases and empties the named caches that its scope
covers; WBACK writes back each worker's line; PREF asks for each active lane's line. A lane whose address does not translate
is dropped.
Choices of the model that it rests on: log 71. -/
def Obligations.FencesAndPrefetch : Prop :=
  ∀ (s : State) (c : Cur) (k : Ctx), tget s.ctxs c.g.asid = some k →
    let rank (e : BitVec 5) : Nat := scopeRank k c.g.core e.toNat
    (∀ o x, Issues s (.fence o x) c → exec (.fence o x) s = .next (State.advance
      (if x.ord = 3 then s.fullFence c.g.core (rank x.scope)
       else if x.ord.getLsbD 1 then s.release c.g.core (rank x.scope)
       else if x.ord.getLsbD 0 then s.acquire c.g.core (rank x.scope) else s) c.r)) ∧
    (∀ o x, Issues s (.pfence o x) c → ∃ t, exec (.pfence o x) s = .next t ∧
      let u := s.release c.g.core (rank x.scope)
      t.mem = u.mem ∧ u.SameRegs t ∧
      ∀ n, scopeCovers k c.g.core x.scope.toNat n = true →
        (x.paths.getLsbD 0 → (t.core n).constC = []) ∧ (x.paths.getLsbD 1 → (t.core n).smpC = []) ∧
        (x.paths.getLsbD 2 → (t.core n).tileC = [] ∧ (t.core n).descs = []) ∧
        (x.paths.getLsbD 3 → (t.core n).instC = [] ∧ (t.cell (n / 16)).instC = [])) ∧
    (∀ o x, Issues s (.wback o x) c → exec (.wback o x) s = .next (State.advance ((c.workers s.guard).foldl (fun u l =>
      match u.translate c.g.core c.g.asid k (gAddr c o x.ub x.off.toInt l) .read with
      | (v, .error _) => v
      | (v, .ok y) => v.writeBack c.g.core (y.pa / 128)) s) c.r)) ∧
    ∀ o x, Issues s (.pref o x) c → exec (.pref o x) s = .next (State.advance ((c.act s.guard).foldl (fun u l =>
      match u.translate c.g.core c.g.asid k (gAddr c o x.ub x.off.toInt l) .read with
      | (v, .error _) => v
      | (v, .ok y) =>
        if y.attr.uncached then v
        else if x.sz = 0 then (v.l1Load c.g.core (y.pa / 128 * 128) 128 y.attr).1
        else if homeDie y.pa = dieOf c.g.core then (v.recall (y.pa / 128)).l2Use (y.pa / 128) y.attr.low
        else if y.attr.nrd = true then v
        else v.askRdc (dieOf c.g.core) (y.pa / 128) y.attr.low) s) c.r)

/-- R14 to R19, R22 and Tables 1-2 to 1-4: translation. The form of an address is checked before any walk, a permission after it; each
level's entry faults by the list of R17, is the leaf, or leads to the next table; at level 0 an entry with C64 maps 64 KiB, and where the
16 entries of its range differ any one of them is used (R18); a translation that succeeds stands in the core's TLB, and one that
fails leaves nothing in any TLB or walk cache. -/
def Obligations.Translation : Prop :=
  (∀ (user : Bool) (va : Nat), formFault user va = if 2 ^ 57 ≤ va then some { cause := 4, detail := 2 }
    else if user = true ∧ va.testBit 56 = true then some { cause := 5, detail := 4 } else none) ∧
  (∀ (user : Bool) (leaf : Nat),
    (user = true → leaf.testBit 6 = true → ∀ acc, permFault user acc leaf = some { cause := 5, detail := 3 }) ∧
    (user = false ∨ leaf.testBit 6 = false →
      permFault user .read leaf = (if leaf.testBit 3 then none else some { cause := 5, detail := 1 }) ∧
      permFault user .write leaf = (if leaf.testBit 4 then none else some { cause := 5, detail := 0 }) ∧
      permFault user .rmw leaf = (if ! leaf.testBit 4 then some { cause := 5, detail := 0 }
        else if leaf.testBit 3 then none else some { cause := 5, detail := 1 }) ∧
      permFault user .fetch leaf = if leaf.testBit 5 then none else some { cause := 5, detail := 2 })) ∧
  (∀ (level : Nat) (supv : Bool) (e : Nat), level ≤ 3 →
    let leaf := e.testBit 2
    let frame := e / 2 ^ 12 % 2 ^ 40 * 2 ^ 12
    let memory (a : Nat) : Bool := (a / 2 ^ 48 = 0 && a < 2 ^ 40) || (a / 2 ^ 48 = 1 && a % 2 ^ 48 < 2 ^ 41)
    isDeviceMem frame = memory frame ∧
    entryFault level supv e =
      if e % 2 = 0 then some { cause := 4, detail := 0 }
      else if e / 2 ^ 60 % 16 ≠ 0 ∨ e.testBit 1 = true ∨ level = 3 ∧ leaf = true ∨ level = 0 ∧ leaf = false ∨
          leaf = true ∧ (e / 2 ^ 10 % 4 = 3 ∨ e.testBit 8 = true ∧ level ≠ 0 ∨ level = 2 ∧ e / 2 ^ 12 % 2 ^ 18 ≠ 0 ∨
            level = 1 ∧ e / 2 ^ 12 % 2 ^ 9 ≠ 0 ∨
            memory frame = false ∧ frame / 2 ^ 48 ≠ 2 ∧ (frame / 2 ^ 48 ≠ 15 ∨ supv = false)) ∨
          leaf = false ∧ memory frame = false
        then some { cause := 4, detail := 1 } else none) ∧
  (∀ (s : State) (die asid va base : Nat) (supv : Bool) (used : List WalkEntry) (rest : List Nat),
    (∀ line, (s.dir line).owner = none) → (s.die die).walk = [] → (∀ i < 512, isDeviceMem (base + 8 * i) = true) →
    let ix := va / 2 ^ 12 % 512
    let entry (i : Nat) : Nat := memNat s.mem (base + 8 * i) 8
    let alike (a b : Nat) : Prop := a / 2 ^ 16 = b / 2 ^ 16 ∧ a % 2 ^ 12 = b % 2 ^ 12
    let w := s.walk die asid supv va used base (0 :: rest)
    ∃ e, ((entry ix).testBit 8 = false → e = entry ix) ∧
      ((∀ i < 16, alike (entry (ix / 16 * 16 + i)) (entry ix)) → e = entry ix) ∧ (∃ i < 16, e = entry (ix / 16 * 16 + i)) ∧
      (∀ f, entryFault 0 supv e = some f → w.2 = .error f) ∧
      (entryFault 0 supv e = none →
        let k := if e.testBit 8 then 16 else 12
        w.2 = .ok ({ pa := e / 2 ^ 12 % 2 ^ 40 * 2 ^ 12 / 2 ^ k * 2 ^ k + va % 2 ^ k, size := k, leaf := e }, used))) ∧
  (∀ (s : State) (die asid va base level : Nat) (supv : Bool) (used : List WalkEntry) (rest : List Nat),
    (∀ line, (s.dir line).owner = none) → (s.die die).walk = [] → level = 1 ∨ level = 2 ∨ level = 3 →
    let at_ := base + 8 * (va / 2 ^ (12 + 9 * level) % 2 ^ (if level = 3 then 18 else 9))
    let e := memNat s.mem at_ 8
    let w := s.walk die asid supv va used base (level :: rest)
    isDeviceMem at_ = true →
    (e % 2 = 0 → w.2 = .error { cause := 4, detail := 0 }) ∧
    (∀ f, entryFault level supv e = some f → w.2 = .error f) ∧
    (entryFault level supv e = none → e.testBit 2 = true → ∃ x, w.2 = .ok (x, used) ∧
      x.pa = frameOf e / 2 ^ (12 + 9 * level) * 2 ^ (12 + 9 * level) + va % 2 ^ (12 + 9 * level) ∧ x.leaf = e ∧
      x.size = 12 + 9 * level) ∧
    (entryFault level supv e = none → e.testBit 2 = false → ∃ u : State, u.mem = s.mem ∧
      w = u.walk die asid supv va ({ asid := asid, pa := at_, entry := BitVec.ofNat 64 e } :: used) (e / 2 ^ 12 % 2 ^ 40 * 2 ^ 12)
        rest)) ∧
  ∀ (s t : State) (core asid va : Nat) (x : Ctx) (acc : Access),
    (∀ y, s.translate core asid x va acc = (t, .ok y) → va < 2 ^ 57 ∧ (x.supv = false → va < 2 ^ 56) ∧
      permFault (! x.supv) acc y.leaf = none ∧ ∃ e rest, (t.core core).tlb = e :: rest ∧ e.asid = asid ∧ e.size = y.size ∧
        e.base = va / 2 ^ y.size * 2 ^ y.size ∧ e.leaf = BitVec.ofNat 64 y.leaf) ∧
    ∀ f, s.translate core asid x va acc = (t, .error f) → ∀ n, (t.core n).tlb = (s.core n).tlb ∧
      (t.cell n).tlb = (s.cell n).tlb ∧ (t.die n).walk = (s.die n).walk

/-! ## Synchronisation, asynchronous operations, streams (05 R116 to R134, 08 R195 to R204, 09 R208 to R222, 16 R352 to R364) -/

/-- R118 to R121 and Table 5-2: a barrier object is its 128 bits in scratchpad. Arrivals lower the pending count, expectations and
landings raise their counts; with none pending and as much landed as expected the phase advances and the counts reload; too many
arrivals or counts beyond 32 bits set OVF, more landed than expected sets SERR, and an object in error does not complete. A path
asleep on the object wakes when a step changes the phase or leaves an error, and keeps which of the two it was. -/
def Obligations.BarrierObjects : Prop :=
  let inRange (b : Bar) : Prop := b.phase < 16 ∧ b.reload < 4096 ∧ b.pend < 4096 ∧ b.expect < 2 ^ 32 ∧ b.landed < 2 ^ 32
  (∀ b : Bar, inRange b → b.toNat < 2 ^ 128 ∧ Bar.ofNat b.toNat = b ∧
    ∀ (s : State) (gid off : Nat), (tget s.groups gid).isSome → (s.spadPut gid off (bytesLE 16 b.toNat)).bar gid off = b) ∧
  (∀ b : Bar, b.ovf = false → b.serr = false →
    let done : Bar := { b with phase := (b.phase + 1) % 16, pend := b.reload, expect := 0, landed := 0 }
    (∀ n < b.pend, (b.arrive n).check = { b with pend := b.pend - n }) ∧
    (b.landed = b.expect → (b.arrive b.pend).check = done) ∧
    (b.landed < b.expect → (b.arrive b.pend).check = { b with pend := 0 }) ∧
    (b.expect < b.landed → (b.arrive b.pend).check = { b with pend := 0, serr := true }) ∧
    (∀ n, b.pend < n → (b.arrive n).check = { b with pend := 0, ovf := true }) ∧
    (∀ n, 2 ^ 32 ≤ b.expect + n → (b.expects n).check = { b with ovf := true }) ∧
    (∀ n, b.expect + n < 2 ^ 32 → b.pend ≠ 0 → (b.expects n).check = { b with expect := b.expect + n }) ∧
    (∀ n, 2 ^ 32 ≤ b.landed + n → (b.land n).check = { b with landed := 2 ^ 32 - 1, ovf := true }) ∧
    (∀ n, b.landed + n < 2 ^ 32 → b.pend ≠ 0 → (b.land n).check = { b with landed := b.landed + n }) ∧
    (∀ n, b.landed + n < 2 ^ 32 → b.pend = 0 → b.landed + n = b.expect → (b.land n).check = done)) ∧
  (∀ b : Bar, b.ovf = true ∨ b.serr = true → b.check = b) ∧
  ∀ (s : State) (gid off : Nat) (f : Bar → Bar) (r : Ref) (c d : Cur), s.at r = some c → (s.barStep gid off f).at r = some d →
    let b := (f (s.bar gid off)).check
    let changed := b.phase ≠ (s.bar gid off).phase
    let fails := b.error ≠ (s.bar gid off).error ∧ b.error.isSome = true
    (c.p.status ≠ .asleep gid off ∨ ¬ changed ∧ ¬ fails → d.p = c.p) ∧
    (c.p.status = .asleep gid off → changed → d.p = { c.p with status := .running, wake := some none }) ∧
    (c.p.status = .asleep gid off → ¬ changed → fails → d.p = { c.p with status := .running, wake := some b.error })

/-- R121 to R123 and R346: the barrier instructions on an object that holds no error, with an active worker lane: a release
comes first, after the new object for BINIT, which writes no other byte of any scratchpad; an acquire where BWAIT or BTEST finds the phase changed; a BWAIT whose phase has not changed sleeps, and one that was
woken returns after the phase change, or takes the barrier fault of the error, that woke it. Without a worker only the fences happen.
An object in error makes the barrier fault. -/
def Obligations.BarrierInstructions : Prop :=
  ∀ (s : State) (c : Cur) (k : Ctx) (o : OpG) (x : XBar), tget s.ctxs c.g.asid = some k →
    let rank := scopeRank k c.g.core x.scope.toNat
    let off := (c.p.getS o.a.toNat).toNat
    let operand := if x.immf = 1 then x.value.toNat else (c.p.getS o.b.toNat).toNat
    let released := s.release c.g.core rank
    let acquired := s.acquire c.g.core rank
    (c.workers s.guard = [] →
      (∀ i ∈ [Instr.binit o x, .barv o x, .barvx o x], Issues s i c → exec i s = .next (released.advance c.r)) ∧
      (∀ i ∈ [Instr.bwait o x, .btest o x], Issues s i c → c.p.wake = none → exec i s = .next (acquired.advance c.r)) ∧
      (Issues s (.bexp o x) c → exec (.bexp o x) s = .next (s.advance c.r))) ∧
    (Issues s (.bwait o x) c →
      let awake := s.modPath c.r fun p => { p with wake := none }
      (c.p.wake = some none → exec (.bwait o x) s = .next ((awake.acquire c.g.core rank).advance c.r)) ∧
      ∀ d, c.p.wake = some (some d) → exec (.bwait o x) s = .next (awake.takeTrap c.r 0x0C d 0 0 false)) ∧
    ∀ gid a, c.workers s.guard ≠ [] → off % 16 = 0 → s.spadWhere c.r.gid off 16 = .ok (gid, a) →
      (Issues s (.binit o x) c →
        (0 < operand → operand < 4096 → ∃ u t, exec (.binit o x) s = .next t ∧ t = (u.release c.g.core rank).advance c.r ∧
          u.bar gid a = Bar.init operand ∧ t.bar gid a = Bar.init operand ∧ s.OnlyGroups u ∧ s.SameRegs u ∧
          ∀ n g, tget s.groups n = some g → ∃ h, tget u.groups n = some h ∧
            ∀ b, n ≠ gid ∨ b < a ∨ a + 16 ≤ b → memGet h.spad b = memGet g.spad b) ∧
        (operand = 0 ∨ 4096 ≤ operand → exec (.binit o x) s = .next (s.takeTrap c.r 0x0C 2 0 0 false))) ∧
      (Issues s (.barv o x) c → (released.bar gid a).error = none →
        exec (.barv o x) s = .next ((released.barStep gid a fun b => b.arrive 1).advance c.r)) ∧
      (Issues s (.bexp o x) c → (s.bar gid a).error = none →
        exec (.bexp o x) s = .next ((s.barStep gid a fun b => b.expects operand).advance c.r)) ∧
      (Issues s (.barvx o x) c → (released.bar gid a).error = none →
        exec (.barvx o x) s = .next ((released.barStep gid a fun b =>
          (b.expects (c.p.getS o.b.toNat).toNat).arrive x.value.toNat).advance c.r)) ∧
      (Issues s (.bwait o x) c → c.p.wake = none → (s.bar gid a).error = none →
        ((s.bar gid a).phase ≠ operand % 16 → exec (.bwait o x) s = .next (acquired.advance c.r)) ∧
        ((s.bar gid a).phase = operand % 16 →
          exec (.bwait o x) s = .next (s.modPath c.r fun p => { p with status := .asleep gid a }))) ∧
      (Issues s (.btest o x) c → (s.bar gid a).error = none →
        let changed : Bool := (s.bar gid a).phase ≠ operand % 16
        ∃ t new, exec (.btest o x) s = .next t ∧
          Waits c ((c.act s.guard).map fun l => (l, { m := [], v := [], p := [(o.d.toNat, changed)], fail := false })) new ∧
          Effect (if changed then acquired else s) c (fun _ r => r) (fun u => { u with landing := u.landing ++ new }) id t) ∧
      ∀ d, (Issues s (.barv o x) c → (released.bar gid a).error = some d →
          exec (.barv o x) s = .next (released.takeTrap c.r 0x0C d 0 0 false)) ∧
        (Issues s (.barvx o x) c → (released.bar gid a).error = some d →
          exec (.barvx o x) s = .next (released.takeTrap c.r 0x0C d 0 0 false)) ∧
        ∀ i ∈ [Instr.bexp o x, .bwait o x, .btest o x], Issues s i c → c.p.wake = none → (s.bar gid a).error = some d →
          exec i s = .next (s.takeTrap c.r 0x0C d 0 0 false)

/-- R129, R133, R134, R347, R92 and R93: markers, FROG and FROGQ. A marker that replaces another is cleared first, with a release at
system scope, and asks for a re-sweep pass; after MARK the core's L1 holds no clean copy that a later read could take, but of lines
under atomic ownership. UNMARK releases at system scope in any case, whether it clears a marker or none. FROG's sweep waits in the sequencer; name 0 gives 0 at once. FROGQ pops the oldest
notice with an acquire at its scope. -/
def Obligations.Markers : Prop :=
  ∀ (s : State) (c : Cur) (k : Ctx) (o : OpG) (x : XMark), tget s.ctxs c.g.asid = some k →
    let name := c.p.getS2 o.a.toNat
    let works := c.workers s.guard ≠ []
    let marked (t : State) (name : BitVec 64) : Prop := ∃ d, t.at c.r = some d ∧ d.t.marker o.d.toNat = name ∧
      (∀ j, j ≠ o.d.toNat → d.t.marker j = c.t.marker j) ∧ d.t.lanes = c.t.lanes
    (Issues s (.mark o x) c →
      (works → ∃ t, exec (.mark o x) s = .next t ∧ marked t name ∧
        (∀ l ∈ (t.core c.g.core).l1, l.owned = true ∨ l.valid = 0 ∧ l.dirty ≠ 0) ∧
        (c.t.marker o.d.toNat = 0 ∨ c.t.marker o.d.toNat = name → t.mem = s.mem ∧ t.ctxs = s.ctxs) ∧
        (c.t.marker o.d.toNat ≠ 0 → c.t.marker o.d.toNat ≠ name →
          t.mem = (s.release c.g.core 5).mem ∧ tget t.ctxs c.g.asid = some { k with resweep := true })) ∧
      (¬ works → exec (.mark o x) s = .next (s.advance c.r))) ∧
    (Issues s (.unmark o x) c →
      (works → ∃ t, exec (.unmark o x) s = .next t ∧ marked t 0 ∧ t.mem = (s.release c.g.core 5).mem ∧
        (c.t.marker o.d.toNat ≠ 0 → tget t.ctxs c.g.asid = some { k with resweep := true }) ∧
        (c.t.marker o.d.toNat = 0 → t = (s.release c.g.core 5).advance c.r)) ∧
      (¬ works → exec (.unmark o x) s = .next ((s.release c.g.core 5).advance c.r))) ∧
    (Issues s (.frog o x) c →
      let u := s.release c.g.core (scopeRank k c.g.core x.scope.toNat)
      (¬ works → exec (.frog o x) s = .next (u.advance c.r)) ∧
      (works → name = 0 → exec (.frog o x) s = .next ((u.landV c.r c.p.clauseId o.d.toNat
        ((c.act s.guard).map fun l => (l, 0))).advance c.r)) ∧
      (works → name ≠ 0 → ∃ t, exec (.frog o x) s = .next t ∧ t.mem = u.mem ∧
        tget t.ctxs c.g.asid = some { k with sweeps := k.sweeps ++
          [{ name := name, scope := x.scope.toNat, core := c.g.core, op := u.fresh
             who := .frog c.r c.p.clauseId o.d.toNat (laneSet (c.act s.guard)) }] })) ∧
    (Issues s (.frogq o x) c →
      let pair (name : BitVec 64) (ok : Bool) (u : State) : State :=
        (u.landVs c.r c.p.clauseId o.d.toNat 2 ((c.act s.guard).map fun l =>
          (l, [name.extractLsb' 0 32, name.extractLsb' 32 32]))).landP c.r c.p.clauseId o.b.toNat
            ((c.act s.guard).map fun l => (l, ok))
      (¬ works → exec (.frogq o x) s = .next ((s.acquire c.g.core 5).advance c.r)) ∧
      (works → k.notices = [] → exec (.frogq o x) s = .next ((pair 0 false s).advance c.r)) ∧
      ∀ n rest, works → k.notices = n :: rest → exec (.frogq o x) s = .next
        (((pair n.name true (s.modCtx c.g.asid fun y => { y with notices := rest })).acquire c.g.core
          (scopeRank k c.g.core n.scope)).advance c.r))

/-- R352 to R359: copies, tiles, multicast and drains are accepted once their operands are checked and the core has a place for them:
the operation with its sectors, barrier object, scope and orders is then outstanding, and its clause waits for it. A CPYM of no receiver, and an
operation without an active worker lane, are their fences alone.
Choices of the model that it rests on: log 10. -/
def Obligations.AsyncOperations : Prop :=
  ∀ (s : State) (c : Cur) (k : Ctx) (o : OpG) (x : XAsy), tget s.ctxs c.g.asid = some k →
    let rank := scopeRank k c.g.core x.scope.toNat
    let fences : State := (let u := if x.rel = 1 then s.release c.g.core rank else s
      (if x.acq = 1 then u.acquire c.g.core rank else u).advance c.r)
    (c.workers s.guard = [] → ∀ i ∈ [Instr.cpyGl o x, .cpyLg o x, .cpyg o x, .cpym o x, .cdrain o x, .qapp o x, .launch o x],
      Issues s i c → exec i s = .next fences) ∧
    (c.workers s.guard ≠ [] →
    let a32 := (c.p.getS o.a.toNat).toNat
    let a64 := (c.p.getS2 o.a.toNat).toNat
    let d32 := (c.p.getS o.d.toNat).toNat
    let d64 := (c.p.getS2 o.d.toNat).toNat
    let n := 32 * x.len.toNat
    let room (u : State) : Prop := (u.ops.filter fun p => p.2.core = c.g.core).length < 16
    let acq (u : State) : State := if x.acq = 1 then u.acquire c.g.core rank else u
    let takes (i : Instr) (u : State) (kind : OpKind) (sectors : List Sector) (bar : Option (Nat × Nat)) : Prop :=
      ∃ t, exec i s = .next t ∧ tget t.ops u.fresh = some
          { asid := c.g.asid, core := c.g.core, path := c.r, clause := c.p.clauseId, kind := kind, seq := u.fresh
            scope := x.scope.toNat, acq := x.acq = 1, rel := x.rel = 1, sectors := sectors, bar := bar, credits := 0 } ∧
        (∀ j, j ≠ u.fresh → tget t.ops j = tget u.ops j) ∧ t.mem = u.mem ∧
        ∀ r d, u.at r = some d → ∃ e, t.at r = some e ∧ e.regs = d.regs
    (Issues s (.cpyGl o x) c → ∀ bar w u l, a64 % 32 = 0 → d32 % 32 = 0 → s.bosObject c x = .ok bar →
      s.spadWhere c.r.gid d32 n = .ok w → s.globalSectors c.g.core c.g.asid k a64 n .read = (u, .ok l) → room u →
      takes (.cpyGl o x) u .copy (sectorsFrom (srcMem l) (dstSpad w x.len.toNat)) bar) ∧
    (Issues s (.cpyLg o x) c → ∀ w u l, d64 % 32 = 0 → a32 % 32 = 0 → a32 < 0x100000 →
      s.spadWhere c.r.gid a32 n = .ok w → s.globalSectors c.g.core c.g.asid k d64 n .write = (u, .ok l) → room u →
      takes (.cpyLg o x) u .copy (sectorsFrom (srcSpad w x.len.toNat) (dstMem l)) none) ∧
    (Issues s (.cpyg o x) c → ∀ u v l m, d64 % 32 = 0 → a64 % 32 = 0 →
      s.globalSectors c.g.core c.g.asid k a64 n .read = (u, .ok l) → u.globalSectors c.g.core c.g.asid k d64 n .write = (v, .ok m) → room v →
      takes (.cpyg o x) v .copy (sectorsFrom (srcMem l) (dstMem m)) none) ∧
    (Issues s (.cpym o x) c → (c.p.getS o.b.toNat).toNat < 2 ^ s.gangSize c.g → a64 % 32 = 0 →
      (c.p.getS o.b.toNat = 0 → exec (.cpym o x) s = .next fences) ∧
      ∀ u l, c.p.getS o.b.toNat ≠ 0 → s.globalSectors c.g.core c.g.asid k a64 n .read = (u, .ok l) → room u →
        takes (.cpym o x) u (.cpym a64 n (srcMem l) ((c.p.getS o.b.toNat).setWidth 12) none) [] none) ∧
    (Issues s (.cdrain o x) c → ∀ bar w, d32 % 32 = 0 → d32 < 0x100000 → s.bosObject c x = .ok bar →
      s.spadWhere c.r.gid d32 32 = .ok w → room s → takes (.cdrain o x) s (.cdrain d32 false) [] bar) ∧
    (∀ u t v ps,
      let rows := x.len.toNat / 1024 % 32 + 1
      let cols := x.len.toNat % 1024 + 1
      let pitch := (cols * typeBytes t.ty + 31) / 32 * 32
      let co (i : Nat) : Int := ((c.p.getS (o.b.toNat + i)).toNat : Int)
      s.tensor c k a32 = (u, .ok t) → isWeight t.ty = false → u.checkTile c k (some t) co rows cols = (v, .ok ps) →
      (Issues s (.cpyt o x) c → (t.layout = 1 → cols * typeBytes t.ty % 128 = 0) → ∀ bar w, d32 % 32 = 0 →
        u.bosObject c x = .ok bar → u.spadWhere c.r.gid d32 (rows * pitch) = .ok w → room v →
        let b := (acq v).readTile c (t.layout = 1) pitch ps
        takes (.cpyt o x) b.1 .copy (sectorsFrom (srcHeld b.2) (dstSpad w (rows * pitch / 32))) bar) ∧
      (Issues s (.cpytG o x) c → ∀ y m, d64 % 32 = 0 →
        v.globalSectors c.g.core c.g.asid k d64 (rows * pitch) .write = (y, .ok m) → room y →
        let b := (acq y).readTile c false pitch ps
        takes (.cpytG o x) b.1 .copy (sectorsFrom (srcHeld b.2) (dstMem m)) none)))

/-- R197, R360, R195, R196, R361 and R124: QAPP and LAUNCH complete where their queue is enabled and without error, their operands are
sound and the core has a place: they claim the next index of the queue, the WRIDX that its header's home slice holds, which goes up by one, give
it in the s pair D, and their packet waits for room. SUCC marks its group. PREDW goes on with an acquire at module scope once the
predecessor object is in phase 1, sleeps until then, and takes the barrier fault where the predecessor failed. -/
def Obligations.AppendsAndChaining : Prop :=
  (∀ (s : State) (c : Cur) (k : Ctx) (o : OpG) (x : XAsy) (i : Instr) (q : Nat), tget s.ctxs c.g.asid = some k →
    c.workers s.guard ≠ [] → i = .qapp o x ∧ q = x.len.toNat % 64 ∨ i = .launch o x ∧ q = k.dlq → Issues s i c →
    (tget k.queues q = none → exec i s = .next (s.takeTrap c.r 1 8 0 0 false)) ∧
    ∀ hdr y w u conf p l, tget k.queues q = some hdr → s.translate c.g.core c.g.asid k hdr .rmw = (w, .ok y) →
      w.pageNat y 0x18 8 = (u, conf) →
      (bitOf conf 8 = false ∨ bitOf conf 15 = true → exec i s = .next (u.takeTrap c.r 1 8 0 0 false)) ∧
      let off := (c.p.getS o.a.toNat).toNat
      (bitOf conf 8 = true → bitOf conf 15 = false → off % 64 = 0 → u.spadWhere c.r.gid off 64 = .ok p →
        ∀ v, u.globalSectors c.g.core c.g.asid k hdr (64 + 64 * 2 ^ bitsOf conf 0 5) .rmw = (v, .ok l) →
        (v.ops.filter fun e => e.2.core = c.g.core).length < 16 →
        let acquired : State := if x.acq = 1 then v.acquire c.g.core (scopeRank k c.g.core x.scope.toNat) else v
        let home := (acquired.writeBack c.g.core (y.pa / 128)).recall (y.pa / 128)
        let old := memNat home.mem y.pa 8
        ∃ t id d a b, exec i s = .next t ∧ tget t.ops id = some
            { asid := c.g.asid, core := c.g.core, path := c.r, clause := c.p.clauseId
              kind := .append hdr old (v.spadBytes p.1 p.2 64) ((List.range 64).filter fun i => v.spadPoisoned p.1 (p.2 + i) 1)
              seq := id, scope := x.scope.toNat, acq := x.acq = 1, rel := x.rel = 1, sectors := [], bar := none, credits := 0 } ∧
          (∀ j, j ≠ id → tget t.ops j = tget v.ops j) ∧
          memNat t.mem y.pa 8 = (old + 1) % 2 ^ 64 ∧
          t.at c.r = some d ∧ d.t.lanes = c.t.lanes ∧ d.p.s = c.p.s ∧
          d.t.landing.drop (d.t.landing.length - 2) = [a, b] ∧
          a.what = .s c.r.slot o.d.toNat (word old) ∧ b.what = .s c.r.slot (o.d.toNat + 1) (word (old / 2 ^ 32)))) ∧
  ∀ (s : State) (c : Cur),
    (Issues s .succ c → c.workers s.guard ≠ [] → ∃ t d, exec .succ s = .next t ∧ t.at c.r = some d ∧ d.g.succ = true ∧
      s.OnlyGroups t ∧ s.SameRegs t) ∧
    (Issues s .succ c → c.workers s.guard = [] → exec .succ s = .next (s.advance c.r)) ∧
    (Issues s .predw c → c.workers s.guard = [] → exec .predw s = .next ((s.acquire c.g.core 4).advance c.r)) ∧
    (Issues s .predw c → c.workers s.guard ≠ [] → c.g.predErr = false →
      (c.g.predPhase = true → exec .predw s = .next ((s.acquire c.g.core 4).advance c.r)) ∧
      (c.g.predPhase = false → exec .predw s = .next (s.modPath c.r fun p => { p with status := .asleepPred }))) ∧
    (Issues s .predw c → c.workers s.guard ≠ [] → c.g.predErr = true →
      exec .predw s = .next (s.takeTrap c.r 0x0C 3 0 0 false))

/-- R208, R212 to R214, R219 and R362 to R364: RAPP appends one record for each worker lane in ascending order until one finds no
room, and gives each lane whether it was appended; WMADV raises a source's watermark, SCLOSE closes it; WPUB and WPUB.AMEND publish
their window's result header once, through the core's L1 (log 63). Each releases first, RAPP, WMADV and SCLOSE at module or system scope
and WPUB at its SCOPE, and completes; without a worker lane the release is all. A source that is not in use, a record longer than its slot and a grid that is no window's are illegal instructions of detail 8.
Choices of the model that it rests on: log 10, 63. -/
def Obligations.StreamInstructions : Prop :=
  (∀ (s : State) (c : Cur) (k : Ctx) (o : OpG) (x : XAsy), tget s.ctxs c.g.asid = some k →
    let rank := if x.scope = 5 then 5 else 4
    let src := x.len.toNat % 256
    let len (l : Nat) : Nat := ((c.t.lane l).getV (o.a.toNat + 3)).toNat % 65536
    (c.workers s.guard = [] → ∀ i ∈ [Instr.rapp o x, .wmadv o x, .sclose o x], Issues s i c →
      exec i s = .next ((s.release c.g.core rank).advance c.r)) ∧
    (c.workers s.guard ≠ [] → k.hasSource src = false → ∀ i ∈ [Instr.rapp o x, .wmadv o x, .sclose o x], Issues s i c →
      exec i s = .next (s.takeTrap c.r 1 8 0 0 false)) ∧
    (c.workers s.guard ≠ [] → k.hasSource src = true →
      (Issues s (.wmadv o x) c → exec (.wmadv o x) s = .next (((s.release c.g.core rank).wmadv c.g.asid src
        (c.p.getS2 o.a.toNat).toInt).advance c.r)) ∧
      (Issues s (.sclose o x) c →
        exec (.sclose o x) s = .next (((s.release c.g.core rank).sclose c.g.asid src).advance c.r)) ∧
      (Issues s (.rapp o x) c → ∀ q, tget k.sources src = some q →
        let long := (c.workers s.guard).filter fun l => decide (2 ^ q.slotLog - 16 < len l)
        let chk := (c.workers s.guard).zipIdx.foldl (fun (e : State × List (Nat × Checked)) p =>
          ((e.1.checkRecordLane c k q o p.1 p.2).1, e.2 ++ [(p.1, (e.1.checkRecordLane c k q o p.1 p.2).2)])) (s, [])
        (long ≠ [] → exec (.rapp o x) s = .next (s.takeTrap c.r 1 8 0 (laneSet long) false)) ∧
        (long = [] → ∀ l e rest, failed chk.2 = (l, e) :: rest → exec (.rapp o x) s = .next (chk.1.takeTrap c.r e.cause e.detail
          e.addr (laneSet ((((l, e) :: rest).filter fun b => b.2.cause = e.cause).map Prod.fst)) false)) ∧
        (long = [] → failed chk.2 = [] →
          let r := (passed chk.2).foldl (fun (e : State × List (Nat × Bool) × Bool) p =>
            if e.2.2 then (e.1, e.2.1 ++ [(p.1, false)], true)
            else
              let a := e.1.append c.g.asid src (e.1.laneRecord c o p.1 p.2) true
              (a.1, e.2.1 ++ [(p.1, a.2)], ! a.2)) (chk.1.release c.g.core rank, [], false)
          exec (.rapp o x) s = .next ((r.1.landP c.r c.p.clauseId o.d.toNat
            (r.2.1 ++ ((c.act s.guard).filter fun l => c.t.helper l).map fun l => (l, false))).advance c.r))))) ∧
  (∀ (s : State) (asid src : Nat) (x : Ctx) (k : Source) (r : NewRec) (mark : Bool),
    (s.takeRdidx asid src).source asid src = some (x, k) →
    let a := s.append asid src r mark
    (k.en = false ∨ k.state = .closed ∨ 2 ^ k.nLog ≤ k.behind k.rdidx → a = (s.takeRdidx asid src, false)) ∧
    (a.2 = true → ∃ y h, a.1.source asid src = some (y, h) ∧ h.wridx = (k.wridx + 1) % 2 ^ 64 ∧ h.state = .active ∧
      h.lastact = s.etime)) ∧
  (∀ (s : State) (asid src : Nat) (x : Ctx) (k : Source) (w : Int), s.source asid src = some (x, k) → k.en = true →
    (k.state = .closed → s.wmadv asid src w = s ∧ s.sclose asid src = s) ∧
    (w ≤ k.swm → s.wmadv asid src w = s) ∧
    (k.state ≠ .closed →
      (k.swm < w → ∃ y h, (s.wmadv asid src w).source asid src = some (y, h) ∧ h.swm = w ∧ h.state = k.state ∧
        h.lastact = if k.state = .active then s.etime else k.lastact) ∧
      ∃ y h, (s.sclose asid src).source asid src = some (y, h) ∧ h.swm = 2 ^ 63 - 1 ∧ h.state = .closed)) ∧
  (∀ (s : State) (c : Cur) (o : OpG) (x : XAsy) (amend : Bool) (i : Instr),
    i = (if amend then .wpubAmend o x else .wpub o x) → Issues s i c →
    (∀ d b slot, tget s.grids c.g.grid = some d → d.origin ≠ .window b slot amend) →
      exec i s = .next (s.takeTrap c.r 1 8 0 0 false)) ∧
  ∀ (s : State) (c : Cur) (k : Ctx) (d : Grid) (b slot : Nat) (amend : Bool) (o : OpG) (x : XAsy) (i : Instr),
    i = (if amend then .wpubAmend o x else .wpub o x) → Issues s i c → tget s.ctxs c.g.asid = some k →
    tget s.grids c.g.grid = some d → d.origin = .window b slot amend →
    let rank := scopeRank k c.g.core x.scope.toNat
    (c.workers s.guard = [] ∨ d.published = true → exec i s = .next ((s.release c.g.core rank).advance c.r)) ∧
    (c.workers s.guard ≠ [] → d.published = false →
      (∀ u y, s.translate c.g.core c.g.asid k d.res .write = (u, .ok y) →
        exec i s = .next ((((u.release c.g.core rank).storeThrough c.g.core y.pa d.head y.attr).notePublished
          c.g.grid c.g.asid b slot).advance c.r)) ∧
      ∀ u f, s.translate c.g.core c.g.asid k d.res .write = (u, .error f) →
        exec i s = .next (u.takeTrap c.r f.cause f.detail d.res 0 false))
/-! ## Exceptions, scheduling, groups and queues (06 R149 to R157, 07 R166 to R178, 08 R181 to R197, 17 R375 to R387) -/

/-- R375 to R381 and Table 17-2: TAKING AN EXCEPTION. A fault raised while a trap is served terminates the grid; else the trap records
its cause, detail, addresses, lanes and the path's place, and waits while issued instructions of the team are not complete. Then a
retired opcode waits for firmware; a page or protection fault for the driver, with a new token; every other cause goes to the context's
handler, but with TRAPH 0 it terminates the grid. THE HANDLER IS ENTERED where a frame slot is free, the lowest, and the frame can be
written: it is written there, s60 and s61 take its address, the path goes on at TRAPH in handler state; without a free slot the team stays
stopped; a frame that cannot be written terminates the grid. RETURNING restores s60, s61 and the place of the path, goes on after the
instruction where SKIP is set, and frees the slot; a frame that cannot be read terminates the grid.
Choices of the model that it rests on: log 10, 42, 45, 59, 84. -/
def Obligations.TakingExceptions : Prop :=
  (∀ (s : State) (r : Ref) (c : Cur) (x : Ctx) (cause detail addr : Nat) (lmask : LaneSet) (skip : Bool),
    s.at r = some c → tget s.ctxs c.g.asid = some x →
    let e := s.takeTrap r cause detail addr lmask skip
    let u := s.settle r.gid r.role
    let w0 : Word := match c.p.clause with | none => 0 | some k => k.word0
    let w1 : Word := match c.p.clause with | none => 0 | some k => k.word1
    let tr : Trap :=
      { cause := cause, detail := detail, slot := r.slot, ipc := c.p.nextAddr, hdr := c.p.pc, addr := addr
        iwords := if c.p.clause.isNone then 0 else ((if wordCount w0 = 2 then w1 else 0#32) ++ w0 : BitVec 64)
        lmask := lmask, doneix := c.p.heldDone.getD 7, opc := (tget c.t.paths (1 - r.slot)).map Path.nextAddr, etime := u.etime
        skip := skip, len := if c.p.clause.isNone then 0 else wordCount w0, boundary := c.p.clause.isNone || decide (cause = 0x0F)
        phase := .drain }
    (c.t.trap ≠ none → e = s.terminateGrid c.g.grid c.g.index (256 * cause + detail)) ∧
    (c.t.trap = none → e = (u.modTeam r.gid r.role fun k => { k with
      trap := some tr, paths := tmod k.paths r.slot fun p => { p with status := .running } }).trapGo r.gid r.role)) ∧
  (∀ (s : State) (gid role : Nat) (g : Group) (t : Team) (x : Ctx) (tr : Trap), tget s.groups gid = some g →
    tget g.teams role = some t → tget s.ctxs g.asid = some x → t.trap = some tr → tr.phase = .drain →
    let l := s.landAll gid role
    let put (v : State) (p : TrapPhase) : State := v.modTeam gid role fun k => { k with trap := some { tr with phase := p } }
    (s.teamBusy gid role = true → s.trapGo gid role = s) ∧
    (s.teamBusy gid role = false →
      (tr.cause = 3 → s.trapGo gid role = put l .firmware) ∧
      (tr.cause = 4 ∨ tr.cause = 5 → s.trapGo gid role =
        (put { l with tokens := l.tokens + 1 } (.driver l.tokens)).notify 3 (256 * tr.cause + tr.detail) g.asid l.tokens tr.addr) ∧
      (tr.cause ≠ 3 → tr.cause ≠ 4 → tr.cause ≠ 5 →
        (x.traph = 0 → s.trapGo gid role = l.terminateGrid g.grid g.index (256 * tr.cause + tr.detail)) ∧
        (x.traph ≠ 0 → s.trapGo gid role = (put l .frame).deliver gid role)))) ∧
  (∀ (s : State) (gid role : Nat) (c : Cur) (x : Ctx) (tr : Trap), s.at { gid := gid, role := role, slot := tr.slot } = some c →
    tget s.ctxs c.g.asid = some x → c.t.trap = some tr → tr.phase = .frame →
    (lowestFree x.nframe x.frames = none → s.deliver gid role = s) ∧
    ∀ f, lowestFree x.nframe x.frames = some f →
      let va := x.trapfr + 256 * (f + 1)
      let w := (s.cleanLines c.g.core c.g.asid x va).unitWrite (dieOf c.g.core) c.g.asid x va (frameBytes c tr)
      (∀ e, w.2 = some e → s.deliver gid role = w.1.terminateGrid c.g.grid c.g.index (256 * e.cause + e.detail)) ∧
      (w.2 = none → ∃ d y, (s.deliver gid role).at { gid := gid, role := role, slot := tr.slot } = some d ∧
        d.t.trap = some { tr with phase := .handler f va c.p.pc c.p.clause } ∧ d.t.handling tr.slot = true ∧
        d.p.pc = x.traph ∧ d.p.clause = none ∧ d.p.grant = .none ∧ d.p.status = .running ∧ d.p.mask = c.p.mask ∧
        d.p.getS 60 = word va ∧ d.p.getS 61 = word (va / 2 ^ 32) ∧
        (∀ n, n ≠ 60 → n ≠ 61 → d.p.getS n = c.p.getS n) ∧ d.t.lanes = c.t.lanes ∧
        (∀ k, k ≠ tr.slot → (tget d.t.paths k).map (fun p => (p.pc, p.mask, p.s)) =
          (tget c.t.paths k).map fun p => (p.pc, p.mask, p.s)) ∧
        tget (s.deliver gid role).ctxs c.g.asid = some y ∧ y.frames = x.frames ++ [f] ∧ (s.deliver gid role).mem = w.1.mem)) ∧
  (∀ (c : Cur) (t : Trap), t.cause < 1024 → t.detail < 65536 → t.slot < 2 → t.doneix < 8 → t.ipc < 2 ^ 64 → t.hdr < 2 ^ 64 →
    t.addr < 2 ^ 64 → t.etime < 2 ^ 64 → (∀ a, t.opc = some a → a < 2 ^ 64) →
    let bs := frameBytes c t
    let q (off : Nat) : Nat := natLE ((bs.drop off).take 8)
    bs.length = 256 ∧ q 0 % 1024 = t.cause ∧ bitOf (q 0) 10 = t.skip ∧ bitsOf (q 0) 11 1 = t.slot ∧ bitOf (q 0) 12 = t.opc.isSome ∧
    bitsOf (q 0) 13 3 = t.doneix ∧ bitsOf (q 0) 32 16 = t.detail ∧ q 8 = t.ipc ∧ q 0x10 = t.hdr ∧ q 0x18 = t.addr ∧
    q 0x20 = t.iwords.toNat ∧ q 0x28 = (c.p.getS2 60).toNat ∧ q 0x30 = t.opc.getD 0 ∧ q 0x38 = t.etime ∧
    natLE ((bs.drop 0x40).take 128) = t.lmask.toNat) ∧
  ∀ (s : State) (r : Ref) (c : Cur) (x : Ctx) (tr : Trap) (f va pc : Nat) (clause : Option Clause) (w v : Nat),
    s.at r = some c → tget s.ctxs c.g.asid = some x → c.t.trap = some tr → tr.phase = .handler f va pc clause →
    let h := (s.cleanLines c.g.core c.g.asid x va).unitNat (dieOf c.g.core) c.g.asid x va 8
    let q := h.1.unitNat (dieOf c.g.core) c.g.asid x (va + 0x28) 8
    (∀ e, h.2 = .error e ∨ ((∃ k, h.2 = .ok k) ∧ q.2 = .error e) → s.returnTrap r =
      q.1.terminateGrid c.g.grid c.g.index (256 * e.cause + e.detail)) ∧
    (h.2 = .ok w → q.2 = .ok v → ∃ d y, (s.returnTrap r).at r = some d ∧ d.t.trap = none ∧ d.p.getS 60 = word v ∧ d.p.getS 61 = word (v / 2 ^ 32) ∧
      tget (s.returnTrap r).ctxs c.g.asid = some y ∧ y.frames = x.frames.filter (· ≠ f) ∧
      (bitOf w 10 = false ∨ tr.boundary = true → d.p.pc = pc ∧ d.p.clause = clause) ∧
      (bitOf w 10 = true → tr.boundary = false → ∀ k, clause = some k →
        (1 < k.left → d.p.pc = pc ∧ d.p.clause = some { k with pos := k.pos + wordCount k.word0, left := k.left - 1 }) ∧
        (k.left ≤ 1 → d.p.pc = k.next ∧ d.p.clause = none)))

/-- R259 to R261, R151, R152, R168 and R172 to R178: how clauses start, flags are released, paths arrive at joins; which path may run
(an aged clause start first, the oldest of them; a started clause before a clause start of another team; then the preferred gauge,
the longest ready first; the slots of a team alternate where both may go, and none is passed over for 64 passes of the team), and that no
time passes on a core that can act while a ready path of it has waited 256 cycles; how teams exchange places, one exchange of a core in a
cycle; a leave request is granted at once within the die's budget and else at its deadline, and the stretch of a die moves a step in
80 ticks; the watchdog expires, unless a group of the grid retires in the same tick.
Choices of the model that it rests on: log 1, and log 80 for the draws, the pipes' occupation and the waiting times. -/
def Obligations.SchedulingEvents : Prop :=
  (∀ (s : State) (c : Cur) (x : Ctx) (u : State), s.look = some c → tget s.ctxs c.g.asid = some x → s.mayIssue c = true →
    c.p.clause = none → s.wdogDue c = false →
    (s.fetchWord c x c.p.pc = (u, .error none) → exec .clauseStart s = .next u) ∧
    (∀ f, s.fetchWord c x c.p.pc = (u, .error (some f)) →
      exec .clauseStart s = .next ((u.hostTaken c.r codeLane).takeTrap c.r f.cause f.detail c.p.pc 0 false)) ∧
    ∀ w, s.fetchWord c x c.p.pc = (u, .ok w) → c.joins w = false →
      (c.flagsOpen w = false → exec .clauseStart s = .next s) ∧
      (c.flagsOpen w = true → hdrLeave w = true → c.p.grant ≠ .held → exec .clauseStart s = .next (s.askLeave c.r)) ∧
      (c.flagsOpen w = true → hdrLeave w = false ∨ c.p.grant = .held →
        (∀ v a, u.fetchClause c x (hdrCount w) (c.p.pc + 4) [] = (v, .error (none, a)) → exec .clauseStart s = .next v) ∧
        (∀ v f a, u.fetchClause c x (hdrCount w) (c.p.pc + 4) [] = (v, .error (some f, a)) →
          exec .clauseStart s = .next ((v.hostTaken c.r codeLane).takeTrap c.r f.cause f.detail a 0 false)) ∧
        ∀ v ws, u.fetchClause c x (hdrCount w) (c.p.pc + 4) [] = (v, .ok ws) →
          (∀ d iw, clauseFault w (splitWords (hdrCount w) ws) = some (d, iw) →
            exec .clauseStart s = .next ((v.hostTaken c.r codeLane).takeTrapW c.r 2 d 0 0 false (some iw))) ∧
          (clauseFault w (splitWords (hdrCount w) ws) = none →
            ∃ t d, exec .clauseStart s = .next t ∧ t.at c.r = some d ∧
            d.p.clause = some { addr := c.p.pc, hdr := w, words := ws, pos := 0, left := hdrCount w, id := v.fresh } ∧
            { clause := v.fresh, seta := hdrSeta w, setb := hdrSetb w, slots := 1#2 <<< c.r.slot, issued := false, ops := []
              since := (v.clock c.g.core).cyc.toNat, asy := decide (hdrClass w = 3) } ∈ d.t.outst ∧ t.mem = v.mem))) ∧
  (∀ (s : State) (c : Cur), s.mayRun c = true → s.ready c = true ∧ (s.swapDue c.g.core).isNone = true ∧
    (((s.core c.g.core).active.contains { gid := c.r.gid, role := c.r.role } = true ∧
        (s.core c.g.core).swap ≠ some ((s.clock c.g.core).cyc.toNat, { gid := c.r.gid, role := c.r.role })) ∨
      (s.core c.g.core).active.length < Config.activeTeams) ∧
    ∀ d ∈ s.readyPaths c.g.core, d.r ≠ c.r →
      (d.r.gid = c.r.gid → d.r.role = c.r.role → d.p.missed + c.passes < Config.slotIssues ∧
        (d.p.missed ≠ 0 → s.fits d ((s.readyPaths c.g.core).filter fun e => e.r ≠ d.r) = false)) ∧
      ∀ k, s.cand c = some k →
        (k.start = true → s.aged k = false → k.gauge = (s.core c.g.core).pref ∨
          ∃ e ∈ s.readyPaths c.g.core, e.r ≠ c.r ∧ e.passedOver c = true) ∧
        ∀ e, s.cand d = some e → e.pipe = k.pipe →
          (s.aged e = true → s.aged k = true ∧ s.waited e ≤ s.waited k) ∧
          (k.start = true → s.aged k = false → e.start = false → e.team = k.team) ∧
          (k.start = true → s.aged k = false → e.start = true → e.gauge = k.gauge → s.waited e ≤ s.waited k)) ∧
  (∀ (s : State) (c d : Cur) (k : Clause), s.at c.r = some c → c.p.clause = some k → s.at { c.r with slot := 1 - c.r.slot } = some d →
    c.r.slot < 2 → ∃ e f, (s.enter c).at c.r = some e ∧ e.p.missed = 0 ∧ e.p.since = none ∧
      e.t.issued = ((s.enter c).clock c.g.core).cyc.toNat ∧ (s.enter c).at { c.r with slot := 1 - c.r.slot } = some f ∧
      f.p.missed = if d.p.since.isSome then d.p.missed + c.passes else d.p.missed) ∧
  (∀ (s : State) (n : Nat), (∀ m, m < s.span n → (s.later m).stands = false) ∧ (s.span n < n → (s.later (s.span n)).stands = true) ∧
    s.span n ≤ n ∧ s.tick.etime = s.etime + s.span (Config.stepTicks s.free)) ∧
  (∀ s : State, s.stands = true ↔ ∃ c ∈ s.residentPaths, ((s.swapDue c.g.core).isSome = true ∨
      ∃ d ∈ s.residentPaths, d.g.core = c.g.core ∧ s.mayRun d = true) ∧
    c.p.since ≠ none ∧ ∃ k, s.cand c = some k ∧ Config.readyCycles ≤ s.counted k) ∧
  (∀ (s : State) (t : TRef) (id : Nat) (g : Group) (k : Team) (o : Outst), s.input = .clause t id → tget s.groups t.gid = some g →
    tget g.teams t.role = some k → k.outst.find? (fun o => o.clause = id) = some o → o.issued = true → o.ops = [] →
    ∃ u h e, exec .flagRelease s = .next u ∧ tget u.groups t.gid = some h ∧ tget h.teams t.role = some e ∧
      (∀ p ∈ e.outst, p.clause ≠ id) ∧ (∀ l ∈ e.landing, l.clause ≠ id) ∧
      e.lanes = ((k.landing.filter fun l => l.clause = id).foldl (fun t l => t.doLand l.what) k).lanes) ∧
  (∀ (s : State) (c : Cur), s.look = some c → s.mayIssue c = true → c.p.clause = none → s.wdogDue c = false →
    s.standsAtJoin c = true →
    (∀ mask pc join outer older, c.t.splits = .pushed c.r.slot mask pc join outer false :: older →
      ∃ t d, exec .joinArrival s = .next t ∧ t.at c.r = some d ∧ d.p.mask = mask ∧ d.p.pc = pc ∧ d.p.s = c.p.s ∧
        d.t.splits = .pushed c.r.slot c.p.mask join join outer true :: older) ∧
    (∀ mask pc join outer older, c.t.splits = .pushed c.r.slot mask pc join outer true :: older →
      ∃ t d, exec .joinArrival s = .next t ∧ t.at c.r = some d ∧ d.p.mask = c.p.mask ||| mask ∧ d.p.pc = c.p.pc ∧
        d.p.jp = outer ∧ d.t.splits = older) ∧
    (∀ join outer fork written older q, c.t.splits = .pair join outer fork written false :: older →
      tget c.t.paths (1 - c.r.slot) = some q →
      (q.status ≠ .atJoin → exec .joinArrival s = .next (s.modPath c.r fun p => { p with status := .atJoin })) ∧
      (q.status = .atJoin → ∃ t d, exec .joinArrival s = .next t ∧ t.at { c.r with slot := 0 } = some d ∧
        d.p.mask = c.p.mask ||| q.mask ∧ d.p.pc = join ∧ d.p.jp = outer ∧ tkeys d.t.paths = [0]))) ∧
  (∀ (s : State) (core : Nat) (leaves enters : TRef), s.input = .swap core leaves enters →
    let cyc := (s.clock core).cyc.toNat
    let swapped (t : State) : Prop := (t.core core).active = (s.core core).active.filter (· ≠ leaves) ++ [enters] ∧
      (t.core core).swap = some (cyc, enters) ∧ t.mem = s.mem
    ((∃ t, (s.core core).swap = some (cyc, t)) → exec .teamSwap s = .next s ∧ exec .forcedSwap s = .next s) ∧
    ((∀ t, (s.core core).swap ≠ some (cyc, t)) →
      ((s.core core).active.contains leaves = true → s.blockedLong leaves = true → s.longestReady core = some enters →
        ∃ t, exec .teamSwap s = .next t ∧ swapped t) ∧
      (∀ n, s.readySince enters = some n → n + Config.forcedCycles ≤ cyc → s.oldestIssue core = some leaves →
        (s.pendingTeams core).contains enters = true → s.teamReady enters = true →
        ∃ t, exec .forcedSwap s = .next t ∧ swapped t))) ∧
  (∀ (s : State) (core : Nat) (t : TRef), s.longestReady core = some t →
    let since (u : TRef) : Nat := (s.readySince u).getD (s.clock core).cyc.toNat
    t ∈ s.pendingTeams core ∧ s.teamReady t = true ∧
      ∀ u ∈ s.pendingTeams core, s.teamReady u = true → since t ≤ since u) ∧
  (∀ (s : State) (r : Ref) (c : Cur), s.at r = some c →
    let budget := 400 * s.host.cap / 4000
    let draw := Config.projectedDraw s.free
    (c.p.grant = .none → ∃ d, (s.askLeave r).at r = some d ∧ d.p = { c.p with
      grant := (if draw ≤ budget then Grant.held else Grant.asked s.etime (1 + Config.excessSteps (draw - budget))) }) ∧
    (c.p.grant ≠ .none → ∃ d, (s.askLeave r).at r = some d ∧ d.p = c.p) ∧
    ∀ since n, s.input = .path r → c.p.grant = .asked since n →
      let held (t : State) : Prop := ∃ d, t.at r = some d ∧ d.p = { c.p with grant := .held } ∧ t.mem = s.mem
      (draw ≤ budget → ∃ t, exec .leaveGrant s = .next t ∧ held t ∧ t.dies = s.dies) ∧
      (budget < draw → s.etime < since + Config.grantTicks → exec .leaveGrant s = .next { s with free := s.free + 1 }) ∧
      (budget < draw → since + Config.grantTicks ≤ s.etime → ∃ t, exec .leaveGrant s = .next t ∧ held t ∧
        (t.die (dieOf c.g.core)).goal = (s.die (dieOf c.g.core)).goal + n)) ∧
  (∀ (s : State) (die : Nat), s.input = .one die →
    let d := s.die die
    (s.etime < d.changed + Config.droopTicks → exec .droopStep s = .next s) ∧
    (d.changed + Config.droopTicks ≤ s.etime →
      (0 < d.goal ∨ 400 * s.host.cap / 4000 < Config.measuredDraw s.free → ∃ t, exec .droopStep s = .next t ∧
        (t.die die).stretch = if d.stretch < 12 then d.stretch + 1 else d.stretch) ∧
      (d.goal = 0 → Config.measuredDraw s.free ≤ 400 * s.host.cap / 4000 → ∃ t, exec .droopStep s = .next t ∧
        (t.die die).stretch = d.stretch - 1))) ∧
  (∀ (s : State) (id : Nat) (d : Grid) (x : Ctx) (t0 : Nat), s.input = .one id → tget s.grids id = some d → d.started = some t0 →
    tget s.ctxs d.asid = some x →
    (d.done = true ∨ s.etime < t0 + x.wdogTicks → exec .watchdogExpiry s = .next s) ∧
    (d.done = false → t0 + x.wdogTicks ≤ s.etime →
      exec .watchdogExpiry s = .next (s.modGrid id fun d => { d with expired := some s.etime }))) ∧
  (∀ s : State, ∀ d ∈ s.grids, d.2.started ≠ none → d.2.done = false → d.2.expired = none →
    (Instr.watchdogExpiry, Input.one d.1) ∈ s.timed) ∧
  (∀ s : State, (∀ d ∈ s.grids, ∀ t, d.2.expired = some t → s.etime ≤ t) → s.expireDue = s) ∧
  ∀ (s : State) (id : Nat),
    let live (g : Nat × Group) : Prop := g.2.grid = id ∧ g.2.place ≠ .ended
    let handles (g : Nat × Group) : Prop := ∃ t ∈ g.2.teams, t.2.inHandler = true
    ((∃ g ∈ s.groups, live g ∧ handles g) → ∃ g ∈ s.groups, live g ∧ handles g ∧ s.expire id =
      (s.modGrid id fun d => { d with expired := none }).terminateGrid id g.2.index (256 * 0x0F)) ∧
    ((∀ g ∈ s.groups, live g → ¬ handles g) → ∀ gid g role k, tget s.groups gid = some g → g.grid = id → g.place = .resident →
      tget g.teams role = some k → ∃ h, tget (s.expire id).groups gid = some h ∧
        tget h.teams role = some { k with wdog := ! k.ended })

/-- R192 to R196, R124, R178, R191, R377, R384 to R387: groups are dispatched with their teams at their start, and those that find no
room count their wait; gangs are pre-empted whole into save slots once their issued instructions are complete, and resumed whole; a core
is cleared for a gang of higher priority, the lowest first, and no resident is passed over; waiting traps are delivered (as TakingExceptions
says), grids complete, and successors learn that their predecessor has retired.
Choices of the model that it rests on: log 45, 49, 59, 64 (which grids begin early), 88. -/
def Obligations.GroupsAndGrids : Prop :=
  (∀ (s : State) (t : TRef) (g : Group), s.input = .team t → tget s.groups t.gid = some g → g.place = .resident →
    exec .trapDelivery s = .next (s.deliver t.gid t.role)) ∧
  (∀ (s : State) (gid : Nat) (g : Group) (x : Ctx), s.input = .one gid → tget s.groups gid = some g → g.place = .resident →
    tget s.ctxs g.asid = some x →
    (∀ m ∈ s.groups, m.2.gang = g.gang → tget s.groups m.1 = some m.2 ∧ m.2.asid = g.asid) →
    let all := s.gangMembers g.gang
    let mates := s.groups.filter fun m => m.2.gang = g.gang
    let marks := (all.map fun m => m.2.marks.length).sum
    (x.nsave < x.saves.length + all.length ∨ x.parkn < x.parked.length + marks → ∀ m, all.head? = some m →
      exec .groupPreemption s = .next (s.notify 5 0 g.asid 0 m.2.index)) ∧
    (x.saves.length + all.length ≤ x.nsave → x.parked.length + marks ≤ x.parkn → (all.all fun m => m.2.stopped) = false →
      exec .groupPreemption s = .next s) ∧
    (x.saves.length + all.length ≤ x.nsave → x.parked.length + marks ≤ x.parkn → (all.all fun m => m.2.stopped) = true →
      let v := mates.foldl (fun u m => u.settleGroup m.1 m.2) s
      ((mates.any fun m => v.groupBusy m.1 m.2) = true → exec .groupPreemption s = .next s) ∧
      ((mates.any fun m => v.groupBusy m.1 m.2) = false → ∃ t, exec .groupPreemption s = .next t ∧ ∀ m ∈ mates,
        ∃ h, tget t.groups m.1 = some h ∧ h.ways = [] ∧ (m.2.place = .ended → h.place = .ended) ∧
        (m.2.place = .resident → (∃ k, h.place = .saved k s.etime ∧ k ∉ x.saves) ∧
          ∀ role u, tget h.teams role = some u → u.markers = [] ∧ ∀ slot p, tget u.paths slot = some p →
            p.cycLatch = none ∧ p.etLatch = none ∧ p.grant = .none ∧ p.since = none)))) ∧
  (∀ (s : State) (gid base slot since : Nat) (g : Group) (d : Grid) (k : Gang), s.input = .two gid base →
    tget s.groups gid = some g → g.place = .saved slot since → tget s.grids g.grid = some d → tget s.gangs g.gang = some k →
    (∀ m ∈ s.groups, m.2.gang = g.gang → tget s.groups m.1 = some m.2) → s.alive g.asid = true →
    let ms := s.groups.filter fun m => m.2.gang = g.gang
    (s.mayResume ms d base k.size = false → exec .groupResumption s = .next s) ∧
    (s.mayResume ms d base k.size = true → ∃ t, exec .groupResumption s = .next t ∧ ∀ m ∈ ms, ∃ h, tget t.groups m.1 = some h ∧
      h.core = base + m.2.member ∧ h.spad = m.2.spad ∧ h.index = m.2.index ∧ h.tiles = [] ∧
      (m.2.place = .ended → h.place = .ended) ∧ ∀ k since, m.2.place = .saved k since → h.place = .resident)) ∧
  (∀ (s : State) (n : Nat) (d : Grid) (t0 : Nat), s.input = .one n → tget s.grids n = some d → d.waitSince = some t0 →
    (s.etime < t0 + Config.preemptTicks ∨ (s.coreFor d).isSome → exec .priorityPreemption s = .next s) ∧
    (s.alive d.asid = true → d.waits = true → t0 + Config.preemptTicks ≤ s.etime → s.coreFor d = none →
      let prio (g : Group) : Nat := match tget s.grids g.grid with | none => 3 | some e => e.lr.prio
      let victims (core : Nat) : List (Nat × Group) := (List.range d.lr.gsz).flatMap fun i =>
        s.groups.filter fun g => g.2.core = core + i && g.2.place = .resident && decide (prio g.2 < d.lr.prio)
      let fits (core : Nat) : Bool := State.gangRoom { s with groups := s.groups.filter fun g =>
        !((victims core).any fun v => v.2.gang = g.2.gang) } d.lr core
      match (coreOrder d.lr.dieSet (s.lastCore d.key)).find? fits with
      | none => exec .priorityPreemption s = .next s
      | some core => exec .priorityPreemption s = .next (s.clearCore d.lr core (sortBy (fun v => prio v.2) (victims core))))) ∧
  (∀ (s : State) (r : LaunchRec) (core : Nat) (v : Nat × Group) (vs : List (Nat × Group)), s.clearCore r core [] = s ∧
    (s.gangRoom r core = true → s.clearCore r core (v :: vs) = s) ∧
    (s.gangRoom r core = false → s.clearCore r core (v :: vs) = if (s.preempt v.2.gang).gangMembers v.2.gang = [] then
      (s.preempt v.2.gang).clearCore r core vs else s.preempt v.2.gang)) ∧
  (∀ (s : State),
    let pick := s.served.findSome? fun d => if s.mayPlace d.2 then (s.placeFor d.2).map fun c => (d, c) else none
    (∀ d core, pick = some (d, core) → exec .groupDispatch s =
      .next ((s.headGrids.filter fun e => e.1 ≠ d.1).foldl (fun u e => u.noteWait e.1 e.2) (s.dispatch d.1 d.2 core))) ∧
    (pick = none → exec .groupDispatch s = .next (s.headGrids.foldl (fun u e => u.noteWait e.1 e.2) s)) ∧
    (∀ n d, tget s.grids n = some d →
      (s.coreFor d = none → d.waitSince = none → ∃ e, tget (s.noteWait n d).grids n = some e ∧ e.waitSince = some s.etime) ∧
      ((s.coreFor d).isSome = true → ∃ e, tget (s.noteWait n d).grids n = some e ∧ e.waitSince = none)) ∧
    ∀ n d core, tget s.grids n = some d →
      let t := s.dispatch n d core
      (∃ gang, ∀ i, i < d.lr.gsz → ∃ gid g, tget t.groups gid = some g ∧ g.grid = n ∧ g.asid = d.asid ∧ g.index = d.next + i ∧
        g.gang = gang ∧ g.member = i ∧ g.core = core + i ∧ g.firstCore = core + i ∧
        g.place = .resident ∧ g.spad = [] ∧ g.spadKiB = d.lr.spad ∧ g.predPhase = !(d.early && !s.predOver d) ∧
        g.predErr = d.predFail ∧ ∀ role k, tget g.teams role = some k → ∃ slot,
          { k with landing := [], paths := (Team.start slot d.lr).paths } = Team.start slot d.lr ∧
          (d.lr.gsz = 1 ∨ s.defer = [] → k = Team.start slot d.lr)) ∧
      ∃ e, tget t.grids n = some e ∧ e.next = d.next + d.lr.gsz ∧ e.waitSince = none ∧
        e.started = if d.started.isNone then some s.etime else d.started) ∧
  (∀ (s : State) (n : Nat) (d : Grid) (x : Ctx), s.input = .one n → tget s.grids n = some d → tget s.ctxs d.asid = some x →
    s.gridOver n d = true → x.kill = .live →
    ∃ t e, exec .gridCompletion s = .next t ∧ tget t.grids n = some e ∧ e.done = true ∧
      (∀ key g, tget t.engines key = some g → ∀ p ∈ g.packets, p.grid = some n → p.done = true) ∧
      ∀ q i, d.origin = .packet q i → t.mem =
        (State.writeCompletion (State.modGrid (State.deliverInv
          ((((s.groups.filter fun g => g.2.grid = n).map fun g => g.2.core).dedup).foldl (fun u k => u.release k 5) s)) n
            fun d => { d with done := true }) 0 d.asid x d.lr.caddr d.lr.cval.toNat).mem) ∧
  ∀ (s : State) (n a : Nat) (d e : Grid), s.input = .one n → tget s.grids n = some d → d.pred = some a → tget s.grids a = some e →
    e.done = true → e.killed = false → d.predDone = false →
    ∃ t f, exec .predecessorArrival s = .next t ∧ tget t.grids n = some f ∧ f.predDone = true ∧ t.mem = s.mem ∧
      ∀ gid g, tget s.groups gid = some g → g.grid = n → ∃ h, tget t.groups gid = some h ∧ h.predPhase = true ∧
        ∀ role u slot p, tget h.teams role = some u → tget u.paths slot = some p → p.status ≠ .asleepPred

/-- R181 to R191, R196 and R200: queue engines. A faulty header or packet stops its queue with ERRCODE (a packet's fields before its pages)
and consumes nothing, the fault code of an error 0x05 in bits 63:56 of the copy of ERRIDX; an engine carries one COPY or RECORDS packet
of a queue at a time; a sound packet is consumed and acts: a LAUNCH starts a grid, a COPY and a RECORDS packet are started, a SIGNAL
writes, a WAITSEQ reads, a WMADV advances its source; completions raise CSEQ over the packets complete without a gap, after what was
written before is visible, a RECORDS packet being complete once its records are binned.
Choices of the model that it rests on: log 10, 45, 76 (ACQ, REL and SCOPE of a COPY packet), 85 (RECORDS), 86, 87. -/
def Obligations.QueuePackets : Prop :=
  (∀ (s : State) (q : QRef) (h : Head) (e : QErr), ((s.stopQueue q h e).engine q).errCopy =
    BitVec.ofNat 64 (2 ^ 56 * e.fault + h.rd % 2 ^ 56)) ∧
  (∀ (e : Engine) (p : Packet), e.carries = some p → p ∈ e.packets ∧ (p.kind = 2 ∨ p.kind = 7) ∧ p.done = false) ∧
  (∀ (s : State) (q : QRef) (u : State) (h : Head) (rest : Nat), s.input = .queue q → s.readHeader q = (u, some (h, rest)) →
    let p := u.modEngine q fun e => { e with polled := u.etime }
    (bitOf h.conf 8 = false ∨ bitOf h.conf 15 = true → exec .queuePoll s = .next p) ∧
    (bitOf h.conf 8 = true → bitOf h.conf 15 = false →
      (∀ code, headerError (q.q = 64) h.conf rest = some code →
        exec .queuePoll s = .next (p.stopQueue q h { code := code, fault := 0 })) ∧
      (headerError (q.q = 64) h.conf rest = none → q.q ≠ 64 → ∀ v k, p.headOf q = (v, some k) →
        let kind := natLE k.packet % 256
        (kind ∈ [1, 2, 3, 4, 6, 7] → exec .queuePoll s = .next v) ∧
        (kind ∉ [1, 2, 3, 4, 6, 7] → (v.mayStart q k.conf false).isSome = true →
          exec .queuePoll s = .next (v.stopQueue q k { code := 1, fault := 0 }))))) ∧
  (∀ (s : State) (q : QRef) (u : State) (h : Head) (early : Option Nat) (x : QErr), s.input = .queue q →
    let n := natLE h.packet
    let va := field n 8 8
    let src := field n 4 1
    let starts (done : Bool) (v : State) : State := v.consume q h
      { index := h.rd, kind := n % 256, bytes := h.packet, grid := none, left := 0, since := v.etime, done := done }
    let stops (v : State) (code : Nat) : State := v.stopQueue q h { code := code, fault := 0 }
    (s.nextPacket q 1 = (u, some (h, early)) →
      (∀ v, u.checkRecord h.die q.asid h.x n = (v, some x) → exec .packetLaunch s = .next (v.stopQueue q h x)) ∧
      ∀ v, u.checkRecord h.die q.asid h.x n = (v, none) →
        let d : Grid := { asid := q.asid, lr := LaunchRec.ofNat n, origin := .packet q h.rd, next := 0, endedN := 0, started := none
                          waitSince := none, early := early.isSome, pred := early, predDone := false, predFail := v.prevKilled q
                          desc := 0, head := [], res := 0, published := false, killed := false, done := false, expired := none }
        exec .packetLaunch s = .next (State.consume { v with fresh := v.fresh + 1, grids := tset v.grids v.fresh d } q h
          { index := h.rd, kind := n % 256, bytes := h.packet, grid := some v.fresh, left := 0, since := v.etime, done := false })) ∧
    (s.nextPacket q 2 = (u, some (h, early)) →
      (bitsOf n 16 48 ≠ 0 ∨ field n 0x30 16 ≠ 0 → exec .packetCopy s = .next (stops u 2)) ∧
      (bitsOf n 16 48 = 0 → field n 0x30 16 = 0 → 2 ^ 40 < field n 0x18 8 → exec .packetCopy s = .next (stops u 6)) ∧
      (bitsOf n 16 48 = 0 → field n 0x30 16 = 0 → field n 0x18 8 ≤ 2 ^ 40 →
        let pages := [(va, field n 0x18 8, Access.read), (field n 0x10 8, field n 0x18 8, Access.write)] ++
          completionPage (field n 0x20 8)
        (∀ v, u.checkPages h q.asid pages = (v, some x) → exec .packetCopy s = .next (v.stopQueue q h x)) ∧
        ∀ v, u.checkPages h q.asid pages = (v, none) → exec .packetCopy s = .next (starts false v))) ∧
    (s.nextPacket q 3 = (u, some (h, early)) →
      (bitsOf n 10 54 ≠ 0 ∨ field n 0x18 40 ≠ 0 → exec .packetSignal s = .next (stops u 2)) ∧
      (bitsOf n 10 54 = 0 → field n 0x18 40 = 0 → va % 8 ≠ 0 → exec .packetSignal s = .next (stops u 3)) ∧
      (bitsOf n 10 54 = 0 → field n 0x18 40 = 0 → va % 8 = 0 → ∀ v,
        u.checkPages h q.asid [(va, 8, if bitOf n 9 then .rmw else .write)] = (v, none) →
        exec .packetSignal s = .next ((starts true v).signal h q.asid va (field n 0x10 8) (bitOf n 9)))) ∧
    (s.nextPacket q 4 = (u, some (h, early)) →
      (bitsOf n 9 55 ≠ 0 ∨ field n 0x18 40 ≠ 0 → exec .packetWaitseq s = .next (stops u 2)) ∧
      (bitsOf n 9 55 = 0 → field n 0x18 40 = 0 → va % 8 ≠ 0 → exec .packetWaitseq s = .next (stops u 3)) ∧
      (bitsOf n 9 55 = 0 → field n 0x18 40 = 0 → va % 8 = 0 → ∀ v, u.checkPages h q.asid [(va, 8, .read)] = (v, none) →
        exec .packetWaitseq s = .next ((starts false v).waitRead h q h.rd va (field n 0x10 8)))) ∧
    (s.nextPacket q 6 = (u, some (h, early)) →
      (bitsOf n 9 23 ≠ 0 ∨ field n 5 3 ≠ 0 ∨ field n 0x10 48 ≠ 0 → exec .packetWmadv s = .next (stops u 2)) ∧
      (bitsOf n 9 23 = 0 → field n 5 3 = 0 → field n 0x10 48 = 0 →
        (h.x.hasSource src = false → exec .packetWmadv s = .next (stops u 3)) ∧
        (h.x.hasSource src = true → exec .packetWmadv s = .next ((starts true u).deliverInv.wmadv q.asid src
          (BitVec.ofNat 64 va).toInt)))) ∧
    (∀ p v k, (s.engine q).carries = some p → p.kind = 7 → s.readHeader q = (v, some k) →
      exec .packetRecords s = .next (v.nextRecord k.1 q p))) ∧
  (∀ (s : State) (q : QRef) (u : State) (h : Head) (early : Option Nat) (x : QErr),
    (s.input = .queue q ∧ ∀ p, (s.engine q).carries = some p → p.kind ≠ 7) ∨ (∃ i, s.input = .packet q i) →
    let n := natLE h.packet
    let va := field n 8 8
    let src := field n 4 1
    let stops (v : State) (code : Nat) : State := v.stopQueue q h { code := code, fault := 0 }
    s.nextPacket q 7 = (u, some (h, early)) →
    (bitsOf n 9 23 ≠ 0 ∨ field n 0x10 48 ≠ 0 → exec .packetRecords s = .next (stops u 2)) ∧
    (bitsOf n 9 23 = 0 → field n 0x10 48 = 0 → field n 5 3 = 0 ∨ h.x.hasSource src = false →
      exec .packetRecords s = .next (stops u 3)) ∧
    (bitsOf n 9 23 = 0 → field n 0x10 48 = 0 → field n 5 3 ≠ 0 → h.x.hasSource src = true → ∀ k v, tget h.x.sources src = some k →
      let pages := [(va, field n 5 3 * 2 ^ k.slotLog, Access.read)]
      (u.checkPages h q.asid pages = (v, some x) → exec .packetRecords s = .next (v.stopQueue q h x)) ∧
      (u.checkPages h q.asid pages = (v, none) → ∀ w,
        (v.checkPlens h q.asid k va (field n 5 3) = (w, some x) → exec .packetRecords s = .next (w.stopQueue q h x)) ∧
        (v.checkPlens h q.asid k va (field n 5 3) = (w, none) →
          exec .packetRecords s = .next (w.consume q h { index := h.rd, kind := n % 256, bytes := h.packet, grid := none
                                                         left := field n 5 3, since := w.etime, done := false }))))) ∧
  (∀ (s : State) (asid : Nat) (p : Packet) (x : Ctx), tget s.ctxs asid = some x → (s.packetOver asid p = true ↔
    p.done = true ∧ (p.kind = 7 → x.waiting (field (natLE p.bytes) 4 1) = []))) ∧
  (∀ (s : State) (q : QRef) (u : State) (h : Head) (rest : Nat) (p : Packet), s.input = .queue q →
    s.readHeader q = (u, some (h, rest)) → (u.engine q).packets.find? (fun p => p.kind = 4 && ! p.done) = some p →
    (u.etime < p.since + 1024 → exec .waitseqPoll s = .next u) ∧
    (p.since + 1024 ≤ u.etime → exec .waitseqPoll s = .next ((u.modEngine q fun e => { e with packets := e.packets.map fun k =>
        if k.index = p.index then { k with since := p.since + (u.etime - p.since) / 1024 * 1024 } else k }).waitRead h q p.index
          (field (natLE p.bytes) 8 8) (field (natLE p.bytes) 0x10 8)))) ∧
  ∀ (s : State) (q : QRef) (i : Nat) (u : State) (h : Head) (rest : Nat) (p : Packet), s.input = .packet q i →
    (s.engine q).packets.find? (fun p => p.index = i) = some p → s.readHeader q = (u, some (h, rest)) →
    let n := natLE p.bytes
    let v : State := if p.kind = 2 ∧ p.done = false ∧ (u.engine q).carries = some p then
        (((u.bulkCopy h q.asid (field n 8 8) (field n 0x10 8) (field n 0x18 8)).copyRelease h n).writeCompletion h.die q.asid h.x
          (field n 0x20 8) (field n 0x28 8)).modEngine q fun e => { e with packets := e.packets.map fun k =>
            if k.index = i then { k with done := true } else k }
      else u
    (v.donePrefix q = [] → exec .packetCompletion s = .next v) ∧
    ∀ l, (v.donePrefix q).getLast? = some l → v.donePrefix q = (v.engine q).packets.takeWhile (v.packetOver q.asid) ∧
      let w := State.unitWrite (State.deliverInv (v.modEngine q fun e => { e with
        packets := e.packets.dropWhile (v.packetOver q.asid) })) h.die q.asid h.x (h.hdr + 0x10) (bytesLE 8 (l.index + 1))
      (w.2 = none → exec .packetCompletion s = .next w.1) ∧
      ∀ f, w.2 = some f → exec .packetCompletion s = .next (w.1.missed q.asid f (h.hdr + 0x10))
/-! ## Copies, caches, streams, the transport, the host and the platform (02 R47 to R68, 05 R131 to R134, 09 R214 to R223,
16 R353 to R360, 18 R392 to R403) -/

/-- R47 to R51, R58 to R68, R119, R354 to R360 and R402: what copy units, home slices, deferral buffers and the remote-data caches do by
themselves, and soft errors. Writes and atomics of several dies that reach a line in one uncore cycle are performed in the rotating
order of R61; a sector is credited when its bytes are written; what is issued is performed before an error strikes.
Choices of the model that it rests on: log 48, 50, 67 (which copies a read has seen), 68, 82, 83. -/
def Obligations.CopiesAndCells : Prop :=
  (∀ (s : State) (id i k : Nat) (o : AsyncOp) (sec : Sector), tget s.ops id = some o → o.sectors[i]? = some sec →
    let r := s.sectorRead o.core sec.src
    let u := r.1.sectorWrite o.path.gid o.core (s.writeRank o) sec.dst r.2.1 r.2.2
    let landed : Nat := match sec.dst with | .spad _ _ => 1 | .mem _ _ _ => 0
    let rest : AsyncOp := { o with
      sectors := o.sectors.eraseIdx i, credits := if o.rel then o.credits + landed else o.credits }
    let v : State := { u with ops := tset u.ops id rest }
    (s.input = .two id i → exec .copySectorLand s = .next (match o.bar with
      | none => v
      | some (gid, off) => if o.rel = true ∨ landed = 0 then v else v.barStep gid off fun b => b.land 1)) ∧
    (s.input = .three id i k → exec .copySectorLand s = .next s)) ∧
  (∀ (s : State) (id : Nat) (o : AsyncOp), s.input = .one id → tget s.ops id = some o →
    (s.opWaits o = true → exec .asyncCompletion s = .next s) ∧
    (o.kind = .copy → s.opWaits o = false → ∃ t, exec .asyncCompletion s = .next t ∧ tget t.ops id = none ∧
      ((∀ x ∈ o.sectors, ∃ gid off, x.dst = .spad gid off) → o.rel = false → (∀ x ∈ o.sectors, ∃ bs b, x.src = .held bs b) →
        t.mem = s.mem)) ∧
    (∀ off, o.kind = .cdrain off false → exec .asyncCompletion s = .next s) ∧
    (∀ va len src mask g k, o.kind = .cpym va len src mask none → tget s.groups o.path.gid = some g →
      lowestFree 8 (tkeys (s.cell (cellOf o.core)).creel) = some k →
      ((s.cell (cellOf o.core)).creel.filter fun t => t.2.gang = g.gang).length < 4 →
      (∀ p ∈ s.ops, p.2.seq < o.seq → cellOf p.2.core = cellOf o.core → ∀ va len src mask, p.2.kind = .cpym va len src mask none →
        ∀ h, tget s.groups p.2.path.gid = some h → 4 ≤ ((s.cell (cellOf o.core)).creel.filter fun t => t.2.gang = h.gang).length) →
      ∃ t p c, exec .creelSlotGrant s = .next t ∧ tget t.ops id = some p ∧ p.kind = .cpym va len src mask (some k) ∧
        tget (t.cell (cellOf o.core)).creel k = some c ∧ c.gang = g.gang ∧ c.mask = mask &&& s.liveMembers g.gang ∧
        c.ready = false) ∧
    (∀ va len src mask g, o.kind = .cpym va len src mask none → tget s.groups o.path.gid = some g →
      4 ≤ ((s.cell (cellOf o.core)).creel.filter fun t => t.2.gang = g.gang).length → exec .creelSlotGrant s = .next s) ∧
    (∀ off g, o.kind = .cdrain off false → tget s.groups o.path.gid = some g →
      ∀ k c rest, sortBy (fun t => t.2.order) ((s.cell (cellOf o.core)).creel.filter fun t =>
          t.2.gang = g.gang && t.2.mask.getLsbD g.member) = (k, c) :: rest →
        let first : Prop := ∀ p ∈ s.ops, p.2.path.gid = o.path.gid → p.2.seq < o.seq → ∀ off, p.2.kind ≠ .cdrain off false
        (c.ready = false ∨ ¬ first → exec .drainSlotReady s = .next s) ∧
        (c.ready = true → first → ∃ t p, exec .drainSlotReady s = .next t ∧ tget t.ops id = some p ∧ p.kind = .cdrain off true ∧
          p.sectors.length = min ((1024 * g.spadKiB - off) / 32) (c.tile.length / 32) ∧
          ∀ e ∈ (t.cell (cellOf o.core)).creel, e.1 = k → e.2.gang = g.gang → e.2.mask.getLsbD g.member = false)) ∧
    (∀ hdr index packet bad x, o.kind = .append hdr index packet bad → tget s.ctxs o.asid = some x →
      (s.opWaits o = true → exec .queueAppendRoom s = .next s) ∧
      (s.opWaits o = false → ∀ rd u w v,
        s.unitNat (dieOf o.core) o.asid x (hdr + 8) 8 = (u, .ok rd) →
        u.unitNat (dieOf o.core) o.asid x (hdr + 0x18) 8 = (v, .ok w) →
        (2 ^ bitsOf w 0 5 ≤ (index + 2 ^ 64 - rd) % 2 ^ 64 → exec .queueAppendRoom s = .next v) ∧
        ((index + 2 ^ 64 - rd) % 2 ^ 64 < 2 ^ bitsOf w 0 5 →
          let p := v.writePacket o x hdr (bitsOf w 0 5) index packet bad
          p.2 = none → exec .queueAppendRoom s = .next (p.1.endOp id))))) ∧
  (∀ (s : State) (core line : Nat), s.input = .two core line → isDeviceMem (128 * line) = true →
    ∃ t, exec .homeSliceRead s = .next t ∧ (t.dir line).owner = none ∧ (t.dir line).present = true) ∧
  (∀ (s : State) (die pa : Nat) (bs : List Byte), s.input = .write die pa bs → isDeviceMem pa = true →
    isDeviceMem (pa + bs.length) = true → ∃ t, exec .homeSliceWrite s = .next t ∧ memBytes t.mem pa bs.length = bs) ∧
  (∀ (s : State) (rs : List (Nat × Nat × List Byte)), s.input = .writes rs → exec .homeSliceWrite s =
    .next ((((List.range 8).flatMap fun i => rs.filter fun r => r.1 = (s.etime / 2 + i) % 8)).foldl
      (fun u r => u.sliceWrite r.1 r.2.1 r.2.2) s)) ∧
  (∀ (s : State) (rs : List (Nat × Nat × AtomReq)), s.input = .atomics rs → exec .farAtomic s =
    .next ((((List.range 8).flatMap fun i => rs.filter fun r => dieOf r.1 = (s.etime / 2 + i) % 8)).foldl
      (fun u r => u.farAtomic r.1 r.2.1 r.2.2) s)) ∧
  (∀ (s : State) (i : Nat) (e : Defer), s.input = .one i → s.cellReqs[i]? = some e →
    let u : State := { s with cellReqs := s.cellReqs.eraseIdx i }
    let w := u.recall (e.cell / 16)
    let v := (if e.attr.uncached then w else w.l2Use (e.cell / 16) e.attr.low).seen e.core (e.cell / 16)
    let n := memNat v.mem (8 * e.cell) 8
    ((s.dir (e.cell / 16)).owner = none → n = memNat s.mem (8 * e.cell) 8) ∧
    (n ≠ 0 → exec .futureCellRead s = .next (v.decideLdf e (BitVec.ofNat 64 n) true 0)) ∧
    (n = 0 → 64 ≤ v.sliceLoad e.cell → exec .futureCellRead s = .next (v.decideLdf e 0 false 2)) ∧
    (n = 0 → v.sliceLoad e.cell < 64 → ∃ t d, exec .futureCellRead s = .next t ∧ t.defer = v.defer ++ [{ e with deadline := d }] ∧
      t.mem = v.mem ∧ v.SameRegs t)) ∧
  (∀ (s : State),
    let now := s.etime / 4096 * 4096
    ∃ t, exec .deferralExpiry s = .next t ∧ t.mem = s.mem ∧ (∀ e ∈ t.defer, now < e.deadline) ∧
      ((∀ e ∈ s.defer, now < e.deadline) → t = s) ∧ (s.defer ≠ [] → (Instr.deferralExpiry, Input.none) ∈ s.timed)) ∧
  (∀ (s : State) (core pa : Nat) (q : AtomReq), s.input = .atomic core pa q → isDeviceMem pa = true →
    exec .ownershipRequest s = .next (s.rmwNear core pa false q).s ∧
    ∃ t, exec .farAtomic s = .next t ∧ let n := atomBits q.ty / 8
      memNat t.mem pa n = (atomStep q (memNat ((s.writeBack core (pa / 128)).recall (pa / 128)).mem pa n)).new % 2 ^ (8 * n)) ∧
  (∀ (s : State) (line t0 : Nat), s.input = .one line → (s.dir line).contended = some t0 →
    (t0 ≤ s.etime → ∃ t, exec .contendedExpiry s = .next t ∧ (t.dir line).contended = none ∧ t.mem = s.mem) ∧
    (s.etime < t0 → exec .contendedExpiry s = .next s)) ∧
  (∀ (s : State) (die line : Nat), s.input = .two die line →
    (∃ t, exec .rdcInvalidation s = .next t ∧ (∀ e ∈ t.rdcInv, ¬ (e.die = die ∧ e.line = line)) ∧ t.mem = s.mem ∧
      ((∃ e ∈ s.rdcInv, e.die = die ∧ e.line = line) → ∀ l ∈ (t.die die).rdc, l.line ≠ line)) ∧
    ∀ f, s.rdcFill.find? (fun f => f.die = die && f.line.line = line) = some f → ∃ t, exec .rdcFill s = .next t ∧
      t.mem = s.mem ∧ (f.spoilt = true → (t.die die).rdc = (s.die die).rdc) ∧
      (f.spoilt = false →
        ((s.die die).rdc.find? (fun l => l.line = line) = none → f.line ∈ (t.die die).rdc) ∧
        ∀ held, (s.die die).rdc.find? (fun l => l.line = line) = some held → held.under f.line ∈ (t.die die).rdc)) ∧
  (∀ (s : State) (place : SoftPlace), (s.input = .soft place true → s.plat.corrected ≠ Config.softThreshold →
      exec .softError s = .next { s with plat := { s.plat with corrected := s.plat.corrected + 1 } }) ∧
    let u := s.flush fun _ => true
    (∀ line, s.input = .soft (.l2 line) false → ∃ t, exec .softError s = .next t ∧
      t.plat.uncorrected = s.plat.uncorrected + 1 ∧
      ((u.dir line).present = true → (u.dir line).dirty = false → (t.dir line).present = false) ∧
      ((u.dir line).present = true → (u.dir line).dirty = true → u.host.ntfbase.getLsbD 0 = false →
        ∀ i < 128, 128 * line + i ∈ t.poison)) ∧
    (∀ core line l, s.input = .soft (.l1 core line) false → u.l1Find core line = some l → ∃ t, exec .softError s = .next t ∧
      (l.dirty = 0 → l.amod = 0 → t.l1Find core line = none) ∧
      (l.dirty ≠ 0 ∨ l.amod ≠ 0 → u.host.ntfbase.getLsbD 0 = false → t.mem = u.mem ∧
        t.l1Find core line = some { l with valid := 0, poison := l.poison ||| l.dirty ||| l.amod } ∧
        t.held = u.held ++ [{ info := BitVec.ofNat 64 (128 * line), token := 0, detail := 0, asid := 0, type := 8 }])) ∧
    ∀ die line, s.input = .soft (.rdc die line) false → ∃ t, exec .softError s = .next t ∧ ∀ l ∈ (t.die die).rdc, l.line ≠ line) ∧
  ∀ (s : State) (bad : List Nat), s.input = .scrub bad → ∃ t, exec .patrolScrub s = .next t ∧
    t.plat.patrols = s.plat.patrols + 1 ∧ t.plat.uncorrected = s.plat.uncorrected + (bad.filter isDeviceMem).length

/-- R130 to R135, R214 to R223 and R95: the sweep sequencer and the meridian unit. A sweep gives 1 where the name is listed, 2 for any
other while the list is full, 0 where nothing matches; a re-sweep pass enters the sequencer behind what waits there; a re-swept name
without a match leaves the list and its notice enters the ring; records are
placed, stages recomputed, windows transit, are amended and freed; sources go idle; carried watermarks arrive.
Choices of the model that it rests on: log 46, 47, 61 (2 for any unlisted name while the list is full), 62, 63 (how status fields are
written). -/
def Obligations.SweepsAndWindows : Prop :=
  (∀ (s : State) (asid : Nat) (x : Ctx) (w : Sweep) (rest : List Sweep), s.input = .one asid → tget s.ctxs asid = some x →
    x.sweeps = w :: rest →
    let u := s.modCtx asid fun x => { x with sweeps := rest }
    let v : Sweep := { w with core := u.sweepCore w }
    let r := u.frogResult asid x v (u.sweepFinds asid x v.name v.scope v.core)
    (∀ p clause d lanes, w.who = .frog p clause d lanes → exec .sweep s = .next (((r.1.landV p clause d
      ((bitList lanes 1024).map fun l => (l, word r.2))).acquire v.core (scopeRank x v.core v.scope)).opDone p.gid p.role w.op)) ∧
    (∀ b slot, w.who = .window b slot → exec .sweep s = .next (r.1.windowSwept asid b slot r.2)) ∧
    (w.who = .pass → (x.frogs.find? (fun f => f.name = w.name) = none → exec .sweep s = .next u) ∧
      ∀ f, x.frogs.find? (fun f => f.name = w.name) = some f → exec .sweep s = .next (u.resweepName asid f)) ∧
    ∀ p clause d lanes g, w.who = .frog p clause d lanes → tget s.groups p.gid = some g → v.core = g.core) ∧
  (∀ (s : State) (asid : Nat) (x : Ctx) (w : Sweep) (found : Bool),
    ((x.frogs.any fun f => f.name = w.name) = true → (s.frogResult asid x w found).2 = 1) ∧
    ((x.frogs.any fun f => f.name = w.name) = false →
      (4096 ≤ x.frogs.length → s.frogResult asid x w found = (s, 2)) ∧
      (x.frogs.length < 4096 → (s.frogResult asid x w found).2 = if found then 1 else 0))) ∧
  (∀ (s : State) (asid : Nat) (x : Ctx) (f : Frog), s.input = .one asid → tget s.ctxs asid = some x →
    (x.frogDone < s.etime / x.frogIv → ∃ t y, exec .frogInterval s = .next t ∧ tget t.ctxs asid = some y ∧ y.resweep = true ∧
      y.frogDone = s.etime / x.frogIv ∧ t.mem = s.mem) ∧
    (s.etime / x.frogIv ≤ x.frogDone → exec .frogInterval s = .next s) ∧
    (x.resweep = false ∨ (∃ w ∈ x.sweeps, w.who = .pass) → exec .resweepPass s = .next s) ∧
    (x.resweep = true → (∀ w ∈ x.sweeps, w.who ≠ .pass) → ∃ t y, exec .resweepPass s = .next t ∧ tget t.ctxs asid = some y ∧
      y.resweep = false ∧ t.mem = s.mem ∧ y.sweeps = x.sweeps ++ x.frogs.map fun f =>
        { name := f.name, scope := f.scope, core := f.core, who := .pass, op := 0 }) ∧
    (s.sweepFinds asid x f.name f.scope f.core = true ∨ 4096 ≤ x.notices.length → s.resweepName asid f = s) ∧
    (x.notices.length < 4096 → s.sweepFinds asid x f.name f.scope f.core = false →
      ∃ y, tget (s.resweepName asid f).ctxs asid = some y ∧ y.frogs = x.frogs.filter (fun g => g.name ≠ f.name) ∧
        y.notices = x.notices ++ [{ etime := BitVec.ofNat 32 (s.etime / 4096), meridian := f.meridian, scope := f.scope
                                    name := f.name }])) ∧
  (∀ (s : State) (asid b src idx : Nat) (x : Ctx) (k : Binding) (bytes : List Byte) (bad : Bool) (i : Nat),
    s.input = .three asid b src → s.binding asid b = some (x, k) → k.nextOf src = some (.record i idx bytes bad) →
    k.free = true → s.alive asid = true →
    (k.changeFirst src = true → exec .recordPlacement s = .next s) ∧
    ∀ y q, k.changeFirst src = false →
      ((s.modBinding asid b fun k => k.taken src).place asid b src bytes bad).source asid src = some (y, q) →
      exec .recordPlacement s = .next ((((s.modBinding asid b fun k => k.taken src).place asid b src bytes bad).freeRing
      asid src).srcStatus asid src q)) ∧
  (∀ (s : State) (asid b src i : Nat) (x : Ctx) (k : Binding) (swm : Int) (st : SrcState), s.input = .three asid b src →
    s.binding asid b = some (x, k) → k.nextOf src = some (.change i swm st) → k.free = true → s.alive asid = true →
    ∃ t y h, exec .stageRecompute s = .next t ∧ t.binding asid b = some (y, h) ∧ tget h.view src = some (swm, st) ∧
      k.stagewm ≤ h.stagewm ∧ h.windows = k.windows) ∧
  (∀ (s : State) (asid b : Nat) (x : Ctx) (k : Binding), s.input = .two asid b → s.binding asid b = some (x, k) → k.en = true →
    s.alive asid = true →
    (k.windows.filter (fun w => k.due w.2) = [] → exec .windowTransit s = .next s) ∧
    ∀ slot w, k.windows.filter (fun w => k.due w.2) = [(slot, w)] →
      exec .windowTransit s = .next (s.launchWindow asid b slot false false)) ∧
  (∀ (s : State) (asid b slot : Nat) (x : Ctx) (k : Binding) (w : Window), s.input = .three asid b slot →
    s.binding asid b = some (x, k) → tget k.windows slot = some w → k.en = true →
    (s.alive asid = true → k.amends w = true → exec .amendmentLaunch s = .next
      (s.launchWindow asid b slot true (k.winEnd w.k + k.lateness ≤ k.stagewm))) ∧
    (k.amends w = false → exec .amendmentLaunch s = .next s) ∧
    (k.ltimer ≠ 0 → w.transited = true → w.count < w.n → w.oldest + k.ltimer * 4096 ≤ s.etime →
      ∃ t y h v, exec .lateTimerExpiry s = .next t ∧ t.binding asid b = some (y, h) ∧ tget h.windows slot = some v ∧
        v = { w with timer := true } ∧ t.mem = s.mem) ∧
    (s.alive asid = true → k.frees w = true → ∃ t y h v, exec .windowFree s = .next t ∧ t.binding asid b = some (y, h) ∧
      tget h.windows slot = some v ∧ v = { w with freeing := .asked } ∧ t.mem = s.mem ∧
      y.sweeps = x.sweeps ++ [{ name := BitVec.ofNat 64 (k.bufpool + w.buf * (k.bincap * 2 ^ k.bslot)), scope := 4, core := 0
                                who := .window b slot, op := 0 }])) ∧
  (∀ (s : State) (asid b slot final : Nat) (amend fin : Bool) (x : Ctx) (k : Binding) (w : Window) (u v : State) (n : Nat),
    s.binding asid b = some (x, k) → tget k.windows slot = some w →
    let w' : Window := { w with
      count := w.n, version := if amend then w.published else 0, final := fin, timer := false, transited := true }
    (s.unitWrite k.die asid x (k.wdesc + 64 * slot) (k.descriptor slot w' (if amend then w.count else 0) amend)).1.unitNat k.die
      asid x (if amend then k.amendrec else k.firerec) 64 = (u, .ok n) → u.checkRecord k.die asid x n = (v, none) →
    final = v.fresh → ∃ d, tget (s.launchWindow asid b slot amend fin).grids final = some d ∧ d.lr = LaunchRec.ofNat n ∧
      d.origin = .window b slot amend ∧ d.next = 0 ∧ d.asid = asid ∧ d.desc = k.wdesc + 64 * slot ∧ d.head = k.header w' ∧
      d.res = k.result + k.resstr * slot) ∧
  (∀ (s : State) (asid src : Nat) (x : Ctx), s.input = .one asid → tget s.ctxs asid = some x →
    ∃ t, exec .sourceIdleScan s = .next t ∧ ∀ k, x.sources = [(src, k)] →
      let now := s.etime / 4096 * 4096
      if k.en = true ∧ k.state = .active ∧ k.idlet ≠ 0 ∧ k.lastact + k.idlet * 4096 ≤ now then
        ∃ y h, t.source asid src = some (y, h) ∧ h = { k with state := .idle }
      else t = s) ∧
  ∀ (s : State) (asid src : Nat) (x : Ctx) (w : Option Int), s.input = .two asid src → tget s.ctxs asid = some x →
    x.carried.find? (fun e => e.1 = src) = some (src, w) →
    let u := s.modCtx asid fun x => { x with carried := x.carried.eraseP fun e => e.1 = src }
    exec .watermarkPropagation s = .next (match w with | some w => u.wmadv asid src w | none => u.sclose asid src)

/-- R395 to R397, R35, R95, R183: transport frames. A ring's descriptor is checked, consumed and sent; a frame in its turn is performed
and acknowledged, one ahead of its turn draws a negative acknowledgement, one performed before is acknowledged again; an append claims
its index and then waits for room; an atomic of host memory waits for its completion; an acknowledgement ends a frame, a negative one
and a timeout resend it, or fail its channel after the last attempt.
Choices of the model that it rests on: log 52, 53, 54, 67 (what a delivered invalidation orders). -/
def Obligations.TransportFrames : Prop :=
  (∀ (s u : State) (asid : Nat) (h : Head), s.input = .one asid → s.headOf { asid := asid, q := 64 } = (u, some h) →
    let n := natLE h.packet
    let d := Desc.ofNat n
    (∀ v e, u.checkPacket h asid (d.error n) d.pages = (v, some e) →
      exec .transportDescriptor s = .next (v.stopQueue { asid := asid, q := 64 } h e)) ∧
    ∀ v, u.checkPacket h asid (d.error n) d.pages = (v, none) →
      let slot := h.rd % 2 ^ confLog h.conf
      let w := v.modCtx asid fun x => { x with ringBy := tdel x.ringBy slot }
      let z := (w.deliverInv.unitWrite h.die asid h.x (h.hdr + 8) (bytesLE 8 (h.rd + 1))).1.reviveChannel asid d.peer
      let sends (y : State) (args data : List Byte) : Prop := exec .transportDescriptor s = .next (y.sendFrame asid d.peer
        (Sent.new (tget h.x.ringBy slot) d.kind d.remote d.rel d.loc args data))
      (∀ y bs, d.kind = 1 → z.unitRead h.die asid h.x d.loc 64 = (y, .ok bs) → sends y (bytesLE 8 d.arg) bs) ∧
      (∀ y bs, d.kind = 2 → z.unitRead h.die asid h.x d.loc d.arg = (y, .ok bs) →
        sends y (bytesLE 8 d.va ++ bytesLE 8 d.arg) bs) ∧
      (∀ y bs, d.kind = 3 → z.unitRead h.die asid h.x d.loc 0 = (y, .ok bs) →
        sends y (bytesLE 8 d.va ++ bytesLE 8 d.op ++ bytesLE 8 d.a ++ bytesLE 8 d.b) bs) ∧
      (∀ y bs, d.kind = 4 → z.unitRead h.die asid h.x d.loc 0 = (y, .ok bs) → sends y (bytesLE 8 d.arg ++ bytesLE 8 d.va) bs)) ∧
  (∀ (s : State) (h : FrameHdr) (f : State → Ctx → Performed),
    let r := s.recvOf h
    let ahead := (r.next + 2 ^ 32 - h.seq) % 2 ^ 32
    (h.seq ≠ r.next → ahead < 2 ^ 31 → s.receive h f = s.sendAck h ((tget r.olds h.seq).getD 0)) ∧
    (h.seq ≠ r.next → 2 ^ 31 ≤ ahead → s.receive h f = s.nack h) ∧
    ∀ x, h.seq = r.next → tget s.ctxs h.asid = some x → x.kill = .live →
      (r.wait.isSome = true → s.receive h f = s) ∧
      (r.wait = none → (f s x = .refused → s.receive h f = s.nack h) ∧
        (∀ u w, f s x = .waits u w → s.receive h f = { u with recv := tset u.recv (frameKey h) { r with wait := some (h, w) } }) ∧
        ∀ u old, f s x = .done u old → (s.receive h f).mem = u.mem ∧
          (((tget u.host.peers h.sender).getD 0).getLsbD 63 = true →
            (s.receive h f).out.getLast? = some (.ack (u.link h.sender) h.reply old)) ∧
          tget (s.receive h f).recv (frameKey h) =
            some { next := (h.seq + 1) % 2 ^ 32, olds := tset r.olds h.seq old, wait := none })) ∧
  (∀ (s : State) (h : FrameHdr) (q : Nat) (packet : BitVec 512), s.input = .frameAppend h q packet →
    exec .frameQueueAppend s = .next (s.receive h fun u x => match tget x.queues q with
      | none => .refused
      | some hdr => u.netAppend h.asid x hdr (bytesLE 64 packet.toNat))) ∧
  (∀ (s u : State) (asid : Nat) (x : Ctx) (hdr : Nat) (packet bs : List Byte), s.unitRead 0 asid x hdr 64 = (u, .ok bs) →
    let n := natLE bs
    let log := bitsOf n 192 5
    (∀ v, (u.unitCheck 0 asid x (hdr + 64 + 64 * (bitsOf n 0 64 % 2 ^ log)) 64 .write).2 = none →
      u.netWrite asid x hdr (bytesLE 8 (bitsOf n 0 64 + 1)) = some v →
      s.netAppend asid x hdr packet = v.netRoom asid x hdr (bitsOf n 0 64) packet) ∧
    ∀ index, 2 ^ log ≤ (index + 2 ^ 64 - bitsOf n 64 64) % 2 ^ 64 →
      s.netRoom asid x hdr index packet = .waits u (.room hdr index packet)) ∧
  (∀ (s : State) (sender src : Nat), s.input = .two sender src →
    exec .queueAppendRoom s = .next (s.netRetry (4096 * sender + src))) ∧
  (∀ (s : State) (h : FrameHdr) (va : Nat) (bytes : List Byte), s.input = .frameWrite h va bytes →
    exec .frameRemoteWrite s = .next (s.receive h fun u x => match u.netWrite h.asid x va bytes with
      | none => .refused
      | some u => .done u 0)) ∧
  (∀ (s : State) (h : FrameHdr) (va : Nat) (op : BusOp) (a b : BitVec 64) (x : Ctx) (y : Xlat) (u : State),
    s.input = .frameAtomic h va op a b → h.seq = (s.recvOf h).next → (s.recvOf h).wait = none → tget s.ctxs h.asid = some x →
    x.kill = .live → va % 8 = 0 → s.unitXlat 0 h.asid x va .rmw = (u, .ok y) →
    let old : BitVec 64 := BitVec.ofNat 64 (u.pageNat y 0 8).2
    (isDeviceMem y.pa = true → y.pa % 8 = 0 → ∃ t, exec .frameRemoteAtomic s = .next t ∧
      (((tget t.host.peers h.sender).getD 0).getLsbD 63 = true →
        t.out.getLast? = some (.ack (t.link h.sender) h.reply old)) ∧
      memNat t.mem y.pa 8 = (match op with | .add => old + a | .swap => a | .cas => if old = a then b else old).toNat) ∧
    (isHostMem y.pa = true → ∃ t r, exec .frameRemoteAtomic s = .next t ∧ t.mem = u.mem ∧
      t.out = u.out ++ [.hostAtomic u.fresh y.pa op true a b] ∧ tget t.recv (frameKey h) = some r ∧
      r.wait = some (h, .host u.fresh))) ∧
  (∀ (s : State) (h : FrameHdr) (src : Nat) (v : BitVec 64), s.input = .frameMark h src v →
    exec .frameWatermark s = .next (s.receive h fun u _ => .done (u.deliverInv.wmadv h.asid src v.toInt) 0)) ∧
  ∀ (s : State) (asid peer seq : Nat) (old : BitVec 64) (x : Ctx) (i : Nat) (f : Sent), tget s.ctxs asid = some x →
    (x.channel peer).sent[i]? = some f →
    (s.input = .ack asid peer seq old → (x.channel peer).find seq = some i →
      (f.kind ≠ 3 → ∃ t y, exec .frameAck s = .next t ∧ tget t.ctxs asid = some y ∧ t.mem = s.mem ∧
        (y.channel peer).next = (x.channel peer).next ∧
        (y.channel peer).sent = ((x.channel peer).sent.zipIdx.filter fun e => ! (e.2 == i || (e.2 < i && e.1.kind != 3))).map
          Prod.fst) ∧
      ((x.channel peer).failed = false →
        (f.tries < Config.frameAttempts → exec .frameNack s = .next (s.resend asid peer i)) ∧
        (Config.frameAttempts ≤ f.tries → exec .frameNack s = .next (s.failChannel asid peer)))) ∧
    (s.input = .two asid peer → (x.channel peer).failed = false →
      ((x.channel peer).sent.findIdx? fun f => f.since + Config.frameTicks ≤ s.etime) = some i →
      (f.tries < Config.frameAttempts → exec .transportAckTimeout s = .next (s.resend asid peer i)) ∧
      (Config.frameAttempts ≤ f.tries → exec .transportAckTimeout s = .next (s.failChannel asid peer)))

/-- R21, R35 to R38, R76, R180, R206, R209, R376 and R392 to R403: context operations, answers to faults, host registers and the host window,
start-up, management messages, and completions from the host; a module in reset takes no step but power good and configuration
requests.
Choices of the model that it rests on: log 51, 55, 56, 57, 77, 60 (a kill drops the bytes its stores left dirty), 78 (reads of BAR0 as
events), 4 (reserved bits read 0, writes of read-only registers do nothing). -/
def Obligations.HostAndPlatform : Prop :=
  (∀ (s : State) (cmd : CtxCmd), s.input = .command cmd → s.host.busy = true →
    ∀ i ∈ [Instr.ctxopCreate, .ctxopReloadScope, .ctxopReloadQueues, .ctxopReloadStream, .ctxopKill, .ctxopResume, .ctxopDeliver,
      .ctxopTerminate, .ctxopSetTransportRing, .ctxopInvalidate, .ctxopUndefined],
      exec i s = .next { s with host := { s.host with result := 3 } }) ∧
  (∀ (s : State) (cmd : CtxCmd) (x : Ctx), s.input = .command cmd → s.host.busy = false →
    let asid := cmd.asid.toNat
    let gives (t : State) (n : Nat) : State := { t with host := { t.host with result := BitVec.ofNat 8 n } }
    (exec .ctxopUndefined s = .next (gives s 1)) ∧
    (exec .ctxopCreate s = .next (gives s.createCtx.1 s.createCtx.2)) ∧
    (4 ≤ cmd.index.toNat → exec .ctxopInvalidate s = .next (gives s 1)) ∧
    (∀ k kind, cmd.index.toNat = k → [InvKind.all, .asid asid, .page asid s.host.ctxaddr.toNat,
      .gpage s.host.ctxaddr.toNat][k]? = some kind →
      let v := s.invalidate23 kind .host
      exec .ctxopInvalidate s = .next (State.invalsDone { v with host := { v.host with busy := true } }) ∧
      (s.invals = [] → ∃ t, exec .ctxopInvalidate s = .next t ∧ t.cells = (s.invalidateTlb kind).cells ∧
        (s.translated = [] → (∀ q ∈ s.hostReqs, q.live = false) → t.host.busy = false ∧ t.host.result = 0) ∧
        (s.translated ≠ [] ∨ (∃ q ∈ s.hostReqs, q.live = true) → t.host.busy = true))) ∧
    (tget s.ctxs asid = none → ∀ i ∈ [Instr.ctxopReloadScope, .ctxopReloadQueues, .ctxopReloadStream, .ctxopKill,
      .ctxopSetTransportRing], exec i s = .next (gives s 1)) ∧
    (tget s.ctxs asid = some x → x.kill = .live →
      (∀ u t, s.readScopes asid x = (u, .ok t) →
        exec .ctxopReloadScope s = .next (gives (u.modCtx asid fun x => { x with scopes := t }) 0)) ∧
      (∀ u t, s.readQueues asid x = (u, .ok t) →
        exec .ctxopReloadQueues s = .next (gives (u.modCtx asid fun x => { x with queues := t }) 0)) ∧
      (x.strtab ≠ 0 → cmd.index.toNat < 320 → exec .ctxopReloadStream s = .next
        (gives (s.loadStream asid cmd.index.toNat).1 (if (s.loadStream asid cmd.index.toNat).2 then 0 else 1))) ∧
      (∃ t y, exec .ctxopKill s = .next t ∧ tget t.ctxs asid = some y ∧ y.kill = .killing s.etime ∧ t.mem = s.mem ∧
        (∀ g ∈ t.groups, g.2.asid ≠ asid) ∧ (∀ d ∈ t.grids, d.2.asid ≠ asid) ∧ (∀ e ∈ t.defer, e.asid ≠ asid) ∧
        (∀ o ∈ t.ops, o.2.asid ≠ asid) ∧ (∀ e ∈ t.issues, e.asid ≠ asid) ∧
        ∀ k ∈ t.cores, ∀ l ∈ k.2.l1, ∀ g ∈ s.groups, g.2.asid = asid → ∀ e ∈ l.wrote, e.1 ≠ g.1) ∧
      (let va := s.host.ctxaddr.toNat
       (va < 2 ^ 56 → va % 64 = 0 →
         exec .ctxopSetTransportRing s = .next (gives (s.modCtx asid fun x => { x with ring := some va }) 0)) ∧
       (2 ^ 56 ≤ va ∨ va % 64 ≠ 0 → exec .ctxopSetTransportRing s = .next (gives s 1))))) ∧
  (∀ (s : State) (cmd : CtxCmd) (g : Group) (t : TRef) (k : Team) (tr : Trap) (c : Cur) (x : Ctx), s.input = .command cmd →
    s.host.busy = false → s.faultOf cmd.index.toNat = some (g, t) → tget g.teams t.role = some k → k.trap = some tr →
    s.at { gid := t.gid, role := t.role, slot := tr.slot } = some c → tget s.ctxs g.asid = some x →
    let gives (t : State) (n : Nat) : State := { t with host := { t.host with result := BitVec.ofNat 8 n } }
    let ends := s.terminateGrid g.grid g.index (256 * tr.cause + tr.detail)
    (g.place = .resident → exec .ctxopResume s = .next (gives (s.resumeTrap c.r tr c.p.pc c.p.clause false) 0)) ∧
    (exec .ctxopTerminate s = .next (gives ends 0)) ∧
    (x.traph = 0 → exec .ctxopDeliver s = .next (gives ends 0)) ∧
    (x.traph ≠ 0 → g.place = .resident → exec .ctxopDeliver s = .next (gives ((s.modTeam t.gid t.role fun t =>
      { t with trap := some { tr with phase := .frame } }).deliver t.gid t.role) 0))) ∧
  (∀ (s : State) (asid t0 : Nat) (x : Ctx), tget s.ctxs asid = some x → x.kill = .killing t0 →
    (s.input = .one asid → exec .killComplete s = .next (State.notify { s with ctxs := tdel s.ctxs asid } 4 0 asid 0 0)) ∧
    (t0 + 80000000 ≤ s.etime → tget s.killsDue.ctxs asid = none)) ∧
  (∀ (s : State) (off : Nat) (v : BitVec 64), s.input = .reg off v →
    (off = 0x200 → ∃ t, exec .ntfbaseWrite s = .next t ∧ t.host.ntfbase = v &&& 0x000FFFFFFFFF0001) ∧
    (off = 0x210 → ∃ t, exec .ntftailWrite s = .next t ∧ t.host.ntftail = v.toNat) ∧
    (off = 0x300 → exec .pwrcapWrite s = .next { s with host := { s.host with
      pwrcap := if v = 0 then 0 else if v < 1000 then 1000 else if 4000 < v then 4000 else v } }) ∧
    (0x20000 ≤ off → off < 0x20200 → off % 8 = 0 → ∃ t w, exec .hwslWrite s = .next t ∧
      tget t.host.hwsl ((off - 0x20000) / 8) = some w ∧ w.getLsbD 1 = v.getLsbD 1 ∧ sliceTarget w = sliceTarget v ∧
      w.getLsbD 0 = (v.getLsbD 0 && isDeviceMem (sliceTarget v))) ∧
    (off = 0x100 → exec .registerWrite s = .next { s with host := { s.host with ctxaddr := v } }) ∧
    (∀ n < 65536, off = 0x100000 + 16 * n → ∃ t w, exec .registerWrite s = .next t ∧ tget t.host.peers n = some w ∧
      w = v &&& 0x800FFFFFFFFFFFFF) ∧
    (off ≠ 0x100 → off < 0x100000 ∨ 0x200000 ≤ off → exec .registerWrite s = .next s)) ∧
  (∀ (s : State) (off : Nat) (v : BitVec 64), s.input = .regRead off →
    (off = 0 ∧ v = 0x4B390000000003A0 ∨
      off = 0x110 ∧ v = (if s.host.busy then 1 else 0) + 256 * s.host.result.setWidth 64 ∨ off = 0x200 ∧ v = s.host.ntfbase ∨
      off = 0x208 ∧ v = BitVec.ofNat 64 s.host.ntfhead ∨ off = 0x210 ∧ v = BitVec.ofNat 64 s.host.ntftail ∨
      off = 0x300 ∧ v = s.host.pwrcap ∨ off = 0x20200 ∧ v = s.host.hwdrop ∨
      (∃ n < 64, off = 0x20000 + 8 * n ∧ v = (tget s.host.hwsl n).getD 0) ∨
      (∃ n < 65536, off = 0x100000 + 16 * n ∧ v = (tget s.host.peers n).getD 0)) →
    exec .registerWrite s = .next { s with out := s.out ++ [.completion (bytesLE 8 v.toNat)] }) ∧
  (∀ (s : State) (off : Nat), off < 2 ^ 36 →
    let v := (tget s.host.hwsl (off / 2 ^ 30)).getD 0
    let pa := sliceTarget v + off % 2 ^ 30
    (∀ n, s.input = .two off n →
      (v.getLsbD 0 = false → exec .hostWindowRead s = .next { s with out := s.out ++ [.unsupported] }) ∧
      (v.getLsbD 0 = true → ∃ t, exec .hostWindowRead s = .next t ∧
        t.out.getLast? = some (.completion (s.homeRead pa n).2))) ∧
    (∀ bs, s.input = .hostWrite off bs →
      (v.getLsbD 0 = false ∨ v.getLsbD 1 = false →
        exec .hostWindowWrite s = .next { s with host := { s.host with hwdrop := s.host.hwdrop + 1 } }) ∧
      (v.getLsbD 0 = true → v.getLsbD 1 = true → exec .hostWindowWrite s = .next (s.deliverInv.homeWrite .outside pa bs))) ∧
    ∀ op wide a b, s.input = .hostAtomic off op wide a b →
      let n := if wide then 8 else 4
      (v.getLsbD 0 = false ∨ v.getLsbD 1 = false ∨ pa % n ≠ 0 →
        exec .hostWindowAtomic s = .next { s with out := s.out ++ [.unsupported] }) ∧
      (v.getLsbD 0 = true → v.getLsbD 1 = true → pa % n = 0 → ∃ t, exec .hostWindowAtomic s = .next t ∧
        t.out.getLast? = some (.completion (bytesLE n (s.deliverInv.homeNat pa n).2)))) ∧
  (∀ (s : State) (n : Nat) (bs : List Byte) (c : BitVec 256),
    (s.input = .one n → exec .configRequest s = .next { s with
      out := s.out ++ [if s.plat.ready then .configValue (Config.configRegister n) else .retryStatus] }) ∧
    (s.input = .msg bs → exec .mctpControlMessage s = .next { s with out := s.out ++ [.mctp (Config.mctpAnswer bs)] }) ∧
    (∀ i ∈ [Instr.readTemperatures, .readPower], exec i s = .next { s with
      free := s.free + 1, out := s.out ++ [.mctp (Config.readings s.free)] }) ∧
    (exec .readSoftErrorCounts s = .next { s with
      out := s.out ++ [.mctp (bytesLE 8 s.plat.corrected ++ bytesLE 8 s.plat.uncorrected)] }) ∧
    (exec .readIdent s = .next { s with out := s.out ++ [.mctp (bytesLE 8 Config.ident.toNat)] }) ∧
    (s.input = .one n → ∃ t, exec .faultReport s = .next t ∧ t.out.getLast? = some (.mctp (bytesLE 4 n))) ∧
    (s.input = .nonce c → (s.plat.slot = none → exec .attestationRequest s = .next s) ∧
      (s.plat.slot ≠ none →
        let g := ecdsaSign (Config.identityKey Config.fusedSecret) (Config.signNonce s.free) (s.attested c)
        exec .attestationRequest s = .next { s with
          free := s.free + 1
          out := s.out ++ [.mctp (s.attested c ++ bytesBE 48 g.1 ++ bytesBE 48 g.2 ++ s.plat.certificate)] }))) ∧
  (∀ (s : State) (a b : Option FlashImage) (certificate : List Byte), s.input = .boot a b certificate →
    (s.plat.ready = true → exec .powerGood s = .next s) ∧
    (s.plat.ready = false →
      let good (g : FlashImage) : Prop := ecdsaVerify g.key (slotBytes g) g.sig = true ∧
        sha384 (keyBytes g.key) = Config.fusedKeyHash.toNat ∧ s.plat.rollback ≤ g.version
      let up (n : Nat) (g : FlashImage) : Prop := ∃ t, exec .powerGood s = .next t ∧ t.plat.ready = true ∧ t.plat.slot = some n ∧
        t.plat.version = g.version ∧ t.plat.measure = BitVec.ofNat 384 (sha384 g.image) ∧ t.host.busy = false
      (∀ g, a = some g → good g → up 0 g) ∧
      (∀ g, (∀ h, a = some h → ¬ good h) → b = some g → good g → up 1 g) ∧
      ((∀ h, a = some h → ¬ good h) → (∀ h, b = some h → ¬ good h) →
        exec .powerGood s = .next { s with out := s.out ++ [.i3c []] }))) ∧
  (∀ (s : State) (i : Instr) (x : Input) (rest : List Turn), s.turns = .event i x :: rest → s.before.plat.slot = none →
    i ≠ .powerGood → i ≠ .configRequest → step s = .next { s.before with turns := rest }) ∧
  (∀ (s : State) (id : Nat) (v : BitVec 64), s.input = .data id v → s.hostReqs.find? (fun q => q.id = id) = none →
    (s.unitReqs.find? (fun q => q.id = id) = none →
      exec .pcieCompletionFromHost s = .next (State.netCompletion { s with signals := s.signals.filter (· ≠ id) } id v)) ∧
    ∀ q, s.unitReqs.find? (fun q => q.id = id) = some q → exec .pcieCompletionFromHost s = .next (State.netCompletion { s with
      unitReqs := s.unitReqs.filter fun q => q.id ≠ id
      unitData := s.unitData ++ [{ who := q.who, pa := q.pa, bytes := bytesLE q.size v.toNat }]
      signals := s.signals.filter (· ≠ id) } id v)) ∧
  ∀ (s : State) (id : Nat) (v : BitVec 64) (q : HostReq), s.input = .data id v → s.hostReqs.find? (fun q => q.id = id) = some q →
    let u : State := { s with hostReqs := s.hostReqs.filter fun q => q.id ≠ id }
    let bytes := bytesLE q.size v.toNat
    (q.live = false → exec .pcieCompletionFromHost s = .next u) ∧
    (q.live = true → q.what = .fetch → exec .pcieCompletionFromHost s = .next { u with hostData := s.hostData ++
      [{ path := q.path, lane := q.lane, pa := q.pa, bytes := bytes }] }) ∧
    ∀ op index, q.live = true → q.what = .piece op index →
      let held (l : LaneAcc) : LaneAcc := if l.lane = q.lane then { l with pieces := l.pieces.set index (.given bytes) } else l
      exec .pcieCompletionFromHost s = .next (State.settleLane { u with
        issues := u.issues.map fun e => if e.id = op then { e with lanes := e.lanes.map held } else e } op q.lane)
end

