-- ==== Sys2Proof/Laws/Tables.lean ====
section
/-! SUPPORT. Laws of keyed tables and of memory: what a read gives after a write, and that memory keeps its canonical form. -/

namespace Sys2Proof.Machine

variable {α β : Type}

@[simp] theorem tget_tset_self (t : Tab α) (k : Nat) (a : α) : tget (tset t k a) k = some a := by
  induction t with
  | nil => simp [tset, tget]
  | cons e t ih => grind [tset, tget]

theorem tget_tset_ne (t : Tab α) {k j : Nat} (a : α) (h : j ≠ k) : tget (tset t k a) j = tget t j := by
  induction t with
  | nil => simp [tset, tget, h]
  | cons e t ih => grind [tset, tget]

theorem tget_tset (t : Tab α) (k j : Nat) (a : α) : tget (tset t k a) j = if j = k then some a else tget t j := by
  split
  · next h => subst h; simp
  · next h => exact tget_tset_ne t a h

theorem tget_tmod (t : Tab α) (k j : Nat) (f : α → α) :
    tget (tmod t k f) j = if j = k then (tget t k).map f else tget t j := by
  unfold tmod
  cases h : tget t k with
  | none => by_cases e : j = k <;> simp_all
  | some a => by_cases e : j = k <;> simp_all [tget_tset]

@[simp] theorem tget_tmod_self (t : Tab α) (k : Nat) (f : α → α) : tget (tmod t k f) k = (tget t k).map f := by
  simp [tget_tmod]

theorem tset_tset (t : Tab α) (k : Nat) (a b : α) : tset (tset t k a) k b = tset t k b := by
  induction t with
  | nil => simp [tset]
  | cons c t ih => grind [tset]

theorem tmod_tmod (t : Tab α) (k : Nat) (f g : α → α) : tmod (tmod t k f) k g = tmod t k fun a => g (f a) := by
  cases h : tget t k with
  | none => simp [tmod, h]
  | some a => simp [tmod, h, tset_tset]

@[simp] theorem tget_tmap (t : Tab α) (f : Nat → α → α) (k : Nat) : tget (tmap t f) k = (tget t k).map (f k) := by
  induction t with
  | nil => rfl
  | cons e t ih => simp only [tmap, List.map_cons, tget]; grind [tmap]

theorem tget_map (t : Tab α) (f : Nat → α → β) (k : Nat) :
    tget (t.map fun e => (e.1, f e.1 e.2)) k = (tget t k).map (f k) := by
  induction t with
  | nil => rfl
  | cons e t ih => simp only [List.map_cons, tget]; grind

theorem tget_tdel (t : Tab α) (k j : Nat) : tget (tdel t k) j = if j = k then none else tget t j := by
  induction t with
  | nil => simp [tdel, tget]
  | cons e t ih => grind [tdel, tget]

theorem tget_mem {t : Tab α} {k : Nat} {a : α} (h : tget t k = some a) : (k, a) ∈ t := by
  induction t with
  | nil => simp [tget] at h
  | cons e t ih => grind [tget]

theorem rget_tset (t : Tab Word) (k j : Nat) (x : Word) : rget (tset t k x) j = if j = k then x else rget t j := by
  simp only [rget, tget_tset]; split <;> simp

/-- The canonical form as a property of a sorted list. -/
theorem memWf_iff (m : List Host.Cell) :
    memWf m = true ↔ (∀ c ∈ m, c.2 ≠ 0) ∧ m.Pairwise fun c d => c.1 < d.1 := by
  induction m with
  | nil => simp [memWf]
  | cons c m ih =>
    cases m with
    | nil => simp [memWf]
    | cons d m =>
      simp only [memWf, Bool.and_eq_true, ih, List.pairwise_cons, List.mem_cons]
      grind

theorem mem_tset {t : Tab α} {k : Nat} {a : α} {e : Nat × α} (h : e ∈ tset t k a) : e = (k, a) ∨ e ∈ t := by
  induction t with
  | nil => simpa [tset] using h
  | cons c t ih => grind [tset]

theorem memWf_memSet {m : List Host.Cell} (h : memWf m = true) (a : Nat) (b : Byte) : memWf (memSet m a b) = true := by
  rw [memWf_iff] at h ⊢
  unfold memSet
  split
  · exact ⟨fun c hc => h.1 c (List.mem_filter.1 hc).1, h.2.filter _⟩
  · next hb =>
    refine ⟨fun c hc => ?_, ?_⟩
    · rcases mem_tset hc with rfl | hc
      · simpa [emptyByte] using hb
      · exact h.1 c hc
    · have h2 := h.2
      clear h
      induction m with
      | nil => simp [tset]
      | cons c m ih =>
        simp only [List.pairwise_cons] at h2
        simp only [tset]
        split
        · next e => subst e; exact List.pairwise_cons.2 ⟨h2.1, h2.2⟩
        · split
          · next e1 e2 =>
            refine List.pairwise_cons.2 ⟨fun d hd => ?_, List.pairwise_cons.2 h2⟩
            rcases List.mem_cons.1 hd with rfl | hd
            · exact e2
            · exact Nat.lt_trans e2 (h2.1 d hd)
          · next e1 e2 =>
            refine List.pairwise_cons.2 ⟨fun d hd => ?_, ih h2.2⟩
            rcases mem_tset hd with rfl | hd
            · simp only; omega
            · exact h2.1 d hd

theorem memWf_memPut {m : List Host.Cell} (h : memWf m = true) (a : Nat) (bs : List Byte) : memWf (memPut m a bs) = true := by
  induction bs generalizing m a with
  | nil => exact h
  | cons b bs ih => exact ih (memWf_memSet h a b) (a + 1)

theorem memGet_memSet (m : List Host.Cell) (a b : Nat) (x : Byte) :
    memGet (memSet m a x) b = if b = a then x else memGet m b := by
  unfold memGet memSet
  split
  · next h => subst h; rw [tget_tdel]; split <;> simp [emptyByte]
  · rw [tget_tset]; split <;> simp

theorem memGet_memPut (m : List Host.Cell) (a b : Nat) (bs : List Byte) :
    memGet (memPut m a bs) b = if h : a ≤ b ∧ b - a < bs.length then bs[b - a] else memGet m b := by
  induction bs generalizing m a with
  | nil => simp [memPut]
  | cons x bs ih =>
    simp only [memPut, ih, memGet_memSet, List.length_cons]
    by_cases h : b = a
    · subst h; simp
    · by_cases h2 : a ≤ b ∧ b - a < bs.length + 1
      · rw [dif_pos (by omega), dif_pos h2]
        obtain ⟨k, hk⟩ : ∃ k, b - a = k + 1 := ⟨b - a - 1, by omega⟩
        simp [hk, show b - (a + 1) = k by omega]
      · rw [dif_neg (by omega), dif_neg h2]; simp [h]

theorem length_memBytes (m : List Host.Cell) (a n : Nat) : (memBytes m a n).length = n := by
  induction n generalizing a with
  | zero => rfl
  | succ n ih => simp [memBytes, ih]

theorem getElem_memBytes (m : List Host.Cell) (a n i : Nat) (h : i < (memBytes m a n).length) :
    (memBytes m a n)[i] = memGet m (a + i) := by
  induction n generalizing a i with
  | zero => simp [memBytes] at h
  | succ n ih =>
    cases i with
    | zero => simp [memBytes]
    | succ i => simp only [memBytes, List.getElem_cons_succ]; rw [ih]; congr 1; omega

/-- Bytes read where they were written are the bytes written. -/
theorem memBytes_memPut_self (m : List Host.Cell) (a : Nat) (bs : List Byte) :
    memBytes (memPut m a bs) a bs.length = bs := by
  apply List.ext_getElem
  · simp [length_memBytes]
  · intro i h1 h2
    rw [getElem_memBytes, memGet_memPut, dif_pos (by omega)]
    simp

end Sys2Proof.Machine
end

