-- ==== Sys2Proof/Laws/Keeps.lean ====
section
/-! SUPPORT. Every operation on the state keeps memory in canonical form and the counters of the cores in agreement: one lemma for each,
by which a claim about all steps is proved without unfolding them. -/

namespace Sys2Proof.Machine
/-- What every operation keeps: memory that is in canonical form stays so, and counters of the cores that agree still do, which only
the passing of time changes (R169). -/
def Kept (s : State) (m : List Host.Cell) (k : Tab Clock) : Prop :=
  (memWf s.mem = true → memWf m = true) ∧ ((∀ e ∈ s.clocks, e.2.agrees) → ∀ e ∈ k, e.2.agrees)

/-- A state keeps what another had. -/
abbrev State.Keeps (s t : State) : Prop := Kept s t.mem t.clocks

theorem kept_foldl {s₀ : State} {α : Type} {f : State → α → State} {l : List α} {s : State} (h : s₀.Keeps s)
    (hf : ∀ u e, s₀.Keeps u → s₀.Keeps (f u e)) :
    s₀.Keeps (l.foldl f s) := by
  induction l generalizing s with
  | nil => exact h
  | cons e l ih => exact ih (hf s e h)

theorem kept_foldl_fst {s₀ : State} {α β : Type} {f : State × β → α → State × β} {l : List α} {p : State × β}
    (h : s₀.Keeps p.1)
    (hf : ∀ u e, s₀.Keeps u.1 → s₀.Keeps (f u e).1) :
    s₀.Keeps (l.foldl f p).1 := by
  induction l generalizing p with
  | nil => exact h
  | cons e l ih => exact ih (hf p e h)

theorem kept_id {s₀ s : State} (h : s₀.Keeps s) : s₀.Keeps (id s) := h

theorem kept_pair {s₀ : State} {β : Type} {p : State × β} {t : State} {y : β} (e : p = (t, y))
    (h : s₀.Keeps p.1) : s₀.Keeps t := by subst e; exact h

/-- A restartable access that keeps what a state had. -/
structure Restart.Keeps (k : Restart) (s₀ : State) : Prop where
  check : ∀ u l, s₀.Keeps u → s₀.Keeps (k.check u l).1

theorem kept_modGroup {s₀ : State} (s : State) (gid : Nat) (f : Group → Group) (h_s : s₀.Keeps s) :
    s₀.Keeps (s.modGroup gid f) := by
  unfold State.modGroup
  exact h_s

theorem kept_modTeam {s₀ : State} (s : State) (gid role : Nat) (f : Team → Team) (h_s : s₀.Keeps s) :
    s₀.Keeps (s.modTeam gid role f) := by
  unfold State.modTeam
  with_reducible
    repeat' first | assumption | apply kept_modGroup

theorem kept_modPath {s₀ : State} (s : State) (r : Ref) (f : Path → Path) (h_s : s₀.Keeps s) :
    s₀.Keeps (s.modPath r f) := by
  unfold State.modPath
  with_reducible
    repeat' first | assumption | apply kept_modTeam

theorem kept_modCtx {s₀ : State} (s : State) (asid : Nat) (f : Ctx → Ctx) (h_s : s₀.Keeps s) :
    s₀.Keeps (s.modCtx asid f) := by
  unfold State.modCtx
  exact h_s

theorem kept_modGrid {s₀ : State} (s : State) (n : Nat) (f : Grid → Grid) (h_s : s₀.Keeps s) :
    s₀.Keeps (s.modGrid n f) := by
  unfold State.modGrid
  exact h_s

theorem kept_modCore {s₀ : State} (s : State) (n : Nat) (f : Core → Core) (h_s : s₀.Keeps s) :
    s₀.Keeps (s.modCore n f) := by
  unfold State.modCore
  exact h_s

theorem kept_modCell {s₀ : State} (s : State) (n : Nat) (f : CellUnit → CellUnit) (h_s : s₀.Keeps s) :
    s₀.Keeps (s.modCell n f) := by
  unfold State.modCell
  exact h_s

theorem kept_modDie {s₀ : State} (s : State) (n : Nat) (f : Die → Die) (h_s : s₀.Keeps s) :
    s₀.Keeps (s.modDie n f) := by
  unfold State.modDie
  exact h_s

theorem kept_modDir {s₀ : State} (s : State) (line : Nat) (f : Dir → Dir) (h_s : s₀.Keeps s) :
    s₀.Keeps (s.modDir line f) := by
  unfold State.modDir
  exact h_s

theorem kept_advance {s₀ : State} (s : State) (r : Ref) (h_s : s₀.Keeps s) :
    s₀.Keeps (s.advance r) := by
  unfold State.advance
  with_reducible
    repeat' first | assumption | apply kept_modTeam

theorem kept_jump {s₀ : State} (s : State) (r : Ref) (target : Nat) (h_s : s₀.Keeps s) :
    s₀.Keeps (s.jump r target) := by
  unfold State.jump
  with_reducible
    repeat' first | assumption | apply kept_modTeam

theorem kept_land {s₀ : State} (s : State) (gid role clause : Nat) (w : Pending) (h_s : s₀.Keeps s) :
    s₀.Keeps (s.land gid role clause w) := by
  unfold State.land
  exact h_s

theorem kept_landIf {s₀ : State} (s : State) (gid role : Nat) (sel : Land → Bool) (h_s : s₀.Keeps s) :
    s₀.Keeps (s.landIf gid role sel) := by
  unfold State.landIf
  with_reducible
    repeat' first | assumption | apply kept_modCtx | refine kept_foldl ?_ ?_ | refine kept_foldl_fst ?_ ?_ | intro _ | split
                  | dsimp only

theorem kept_landAll {s₀ : State} (s : State) (gid role : Nat) (h_s : s₀.Keeps s) :
    s₀.Keeps (s.landAll gid role) := by
  unfold State.landAll
  with_reducible
    repeat' first | assumption | apply kept_landIf

theorem kept_landV {s₀ : State} (s : State) (r : Ref) (clause n : Nat) (vals : List (Nat × Word)) (h_s : s₀.Keeps s) :
    s₀.Keeps (s.landV r clause n vals) := by
  unfold State.landV
  with_reducible
    repeat' first | assumption | apply kept_land | refine kept_foldl ?_ ?_ | refine kept_foldl_fst ?_ ?_ | intro _

theorem kept_landP {s₀ : State} (s : State) (r : Ref) (clause n : Nat) (vals : List (Nat × Bool)) (h_s : s₀.Keeps s) :
    s₀.Keeps (s.landP r clause n vals) := by
  unfold State.landP
  with_reducible
    repeat' first | assumption | apply kept_land | refine kept_foldl ?_ ?_ | refine kept_foldl_fst ?_ ?_ | intro _

theorem kept_landM {s₀ : State} (s : State) (r : Ref) (clause n : Nat) (vals : List (Nat × MReg)) (h_s : s₀.Keeps s) :
    s₀.Keeps (s.landM r clause n vals) := by
  unfold State.landM
  with_reducible
    repeat' first | assumption | apply kept_land | refine kept_foldl ?_ ?_ | refine kept_foldl_fst ?_ ?_ | intro _

theorem kept_landOuts {s₀ : State} (s : State) (r : Ref) (clause : Nat) (outs : List (Nat × LaneOut)) (h_s : s₀.Keeps s) :
    s₀.Keeps (s.landOuts r clause outs) := by
  unfold State.landOuts
  with_reducible
    repeat' first | assumption | apply kept_landM | apply kept_landV | apply kept_landP | refine kept_foldl ?_ ?_
                  | refine kept_foldl_fst ?_ ?_ | intro _

theorem kept_landVs {s₀ : State} (s : State) (r : Ref) (clause n k : Nat) (vals : List (Nat × List Word)) (h_s : s₀.Keeps s) :
    s₀.Keeps (s.landVs r clause n k vals) := by
  unfold State.landVs
  with_reducible
    repeat' first | assumption | apply kept_landV | refine kept_foldl ?_ ?_ | refine kept_foldl_fst ?_ ?_ | intro _

theorem kept_opDone {s₀ : State} (s : State) (gid : Nat) (role : Nat) (op : Nat) (h_s : s₀.Keeps s) :
    s₀.Keeps (s.opDone gid role op) := by
  unfold State.opDone
  with_reducible
    repeat' first | assumption | apply kept_modTeam | intro _ | split | dsimp only

theorem kept_predict {s₀ : State} (s : State) (core line : Nat) (up : Bool) (h_s : s₀.Keeps s) :
    s₀.Keeps (s.predict core line up) := by
  unfold State.predict
  with_reducible
    repeat' first | assumption | apply kept_modCore

theorem kept_seen {s₀ : State} (s : State) (core line : Nat) (h_s : s₀.Keeps s) :
    s₀.Keeps (s.seen core line) := by
  unfold State.seen
  exact h_s

theorem kept_acquire {s₀ : State} (s : State) (core rank : Nat) (h_s : s₀.Keeps s) :
    s₀.Keeps (s.acquire core rank) := by
  unfold State.acquire
  with_reducible
    repeat' first | assumption | apply kept_modCore | intro _ | split

theorem kept_dropRdc {s₀ : State} (s : State) (die line : Nat) (h_s : s₀.Keeps s) :
    s₀.Keeps (s.dropRdc die line) := by
  unfold State.dropRdc
  with_reducible
    repeat' first | assumption | apply kept_modDie

theorem kept_deliverIf {s₀ : State} (s : State) (sel : RdcInv → Bool) (h_s : s₀.Keeps s) :
    s₀.Keeps (s.deliverIf sel) := by
  unfold State.deliverIf
  with_reducible
    repeat' first | assumption | apply kept_dropRdc | refine kept_foldl ?_ ?_ | refine kept_foldl_fst ?_ ?_ | intro _

theorem kept_deliverInv {s₀ : State} (s : State) (h_s : s₀.Keeps s) :
    s₀.Keeps (s.deliverInv) := by
  unfold State.deliverInv
  with_reducible
    repeat' first | assumption | apply kept_deliverIf

theorem kept_seeHome {s₀ : State} (s : State) (core line : Nat) (h_s : s₀.Keeps s) :
    s₀.Keeps (s.seeHome core line) := by
  unfold State.seeHome
  with_reducible
    repeat' first | assumption | apply kept_seen | apply kept_dropRdc | apply kept_modCore | intro _ | split | dsimp only

theorem kept_decideLdf {s₀ : State} (s : State) (e : Defer) (value : Dbl) (ok : Bool) (code : BitVec 2) (h_s : s₀.Keeps s) :
    s₀.Keeps (s.decideLdf e value ok code) := by
  unfold State.decideLdf
  with_reducible
    repeat' first | assumption | apply kept_seeHome | apply kept_landV | apply kept_landP | apply kept_modPath
                  | apply kept_acquire | apply kept_opDone | intro _ | split

theorem kept_answerCell {s₀ : State} (s : State) (cell : Nat) (h_s : s₀.Keeps s) :
    s₀.Keeps (s.answerCell cell) := by
  unfold State.answerCell
  with_reducible
    repeat' first | assumption | apply kept_decideLdf | refine kept_foldl ?_ ?_ | refine kept_foldl_fst ?_ ?_ | intro _
                  | split | dsimp only

theorem kept_invalidate {s₀ : State} (s : State) (line : Nat) (a : Agent) (h_s : s₀.Keeps s) :
    s₀.Keeps (s.invalidate line a) := by
  unfold State.invalidate
  with_reducible
    repeat' first | assumption | intro _ | split

theorem memWf_writes {m : List Host.Cell} (h : memWf m = true) (k : Nat) (bs : List (Nat × Byte)) :
    memWf (bs.foldl (fun m e => memSet m (k + e.1) e.2) m) = true := by
  induction bs generalizing m with
  | nil => exact h
  | cons e bs ih => exact ih (memWf_memSet h _ _)

theorem kept_writeLine {s₀ : State} (s : State) (a : Agent) (line : Nat) (bs : List (Nat × Byte)) (h_s : s₀.Keeps s) :
    s₀.Keeps (s.writeLine a line bs) := by
  unfold State.writeLine
  have h2 : Kept s₀ (bs.foldl (fun m e => memSet m (128 * line + e.1) e.2) s.mem) s.clocks :=
    ⟨fun h => memWf_writes (h_s.1 h) _ _, h_s.2⟩
  with_reducible
    repeat' first | assumption | apply kept_invalidate | apply kept_modDie | apply kept_answerCell | refine kept_foldl ?_ ?_
                  | intro _ | split | dsimp only

theorem kept_poisonMask {s₀ : State} (s : State) (line : Nat) (mask : BitVec 128) (h_s : s₀.Keeps s) :
    s₀.Keeps (s.poisonMask line mask) := by
  unfold State.poisonMask
  with_reducible
    repeat' first | assumption | intro _ | split

theorem kept_flushAmod {s₀ : State} (s : State) (core line : Nat) (h_s : s₀.Keeps s) :
    s₀.Keeps (s.flushAmod core line) := by
  unfold State.flushAmod
  with_reducible
    repeat' first | assumption | apply kept_modCore | apply kept_writeLine | apply kept_poisonMask | intro _ | split

theorem kept_recall {s₀ : State} (s : State) (line : Nat) (h_s : s₀.Keeps s) :
    s₀.Keeps (s.recall line) := by
  unfold State.recall
  with_reducible
    repeat' first | assumption | apply kept_flushAmod | apply kept_predict | apply kept_modDir | apply kept_modCore
                   | intro _ | split | dsimp only

theorem kept_l2Drop {s₀ : State} (s : State) (line : Nat) (h_s : s₀.Keeps s) :
    s₀.Keeps (s.l2Drop line) := by
  unfold State.l2Drop
  with_reducible
    repeat' first | assumption | apply kept_recall | apply kept_dropRdc | apply kept_modDir | refine kept_foldl ?_ ?_
                  | refine kept_foldl_fst ?_ ?_ | intro _

theorem kept_l2Use {s₀ : State} (s : State) (line : Nat) (low : Bool) (h_s : s₀.Keeps s) :
    s₀.Keeps (s.l2Use line low) := by
  unfold State.l2Use
  with_reducible
    repeat' first | assumption | apply kept_l2Drop | apply kept_modDir | intro _ | split | dsimp only

theorem kept_homeWriteIn {s₀ : State} (s : State) (a : Agent) (keep low : Bool) (pa : Nat) (bs : List Byte) (h_s : s₀.Keeps s) :
    s₀.Keeps (s.homeWriteIn a keep low pa bs) := by
  unfold State.homeWriteIn
  with_reducible
    repeat' first | assumption | apply kept_recall | apply kept_l2Use | apply kept_writeLine | intro _ | split

theorem kept_homePut {s₀ : State} (s : State) (a : Agent) (keep low : Bool) (pa : Nat) (bs : List Byte) (h_s : s₀.Keeps s) :
    s₀.Keeps (s.homePut a keep low pa bs) := by
  unfold State.homePut
  with_reducible
    repeat' first | assumption | apply kept_homeWriteIn | refine kept_foldl ?_ ?_ | refine kept_foldl_fst ?_ ?_ | intro _
                  | split

theorem kept_homeWrite {s₀ : State} (s : State) (a : Agent) (pa : Nat) (bs : List Byte) (h_s : s₀.Keeps s) :
    s₀.Keeps (s.homeWrite a pa bs) := by
  unfold State.homeWrite
  with_reducible
    repeat' first | assumption | apply kept_homePut

theorem kept_homeWriteMask {s₀ : State} (s : State) (a : Agent) (line : Nat) (mask : BitVec 128) (data : BitVec 1024) (low : Bool) (h_s : s₀.Keeps s) :
    s₀.Keeps (s.homeWriteMask a line mask data low) := by
  unfold State.homeWriteMask
  with_reducible
    repeat' first | assumption | apply kept_recall | apply kept_l2Use | apply kept_writeLine | intro _ | split
                   | dsimp only

theorem kept_hostGet {s₀ : State} (s : State) (pa : Nat) (n : Nat) (h_s : s₀.Keeps s) :
    s₀.Keeps (s.hostGet pa n).1 := by
  unfold State.hostGet
  with_reducible
    repeat' first | assumption | intro _ | split | dsimp only

theorem kept_homeGet {s₀ : State} (s : State) (keep : Bool) (low : Bool) (pa : Nat) (n : Nat) (h_s : s₀.Keeps s) :
    s₀.Keeps (s.homeGet keep low pa n).1 := by
  unfold State.homeGet
  with_reducible
    repeat' first | assumption | apply kept_recall | apply kept_l2Use | apply kept_hostGet | refine kept_foldl ?_ ?_
                   | refine kept_foldl_fst ?_ ?_ | intro _ | split | dsimp only

theorem kept_homeRead {s₀ : State} (s : State) (pa n : Nat) (h_s : s₀.Keeps s) :
    s₀.Keeps (s.homeRead pa n).1 := by
  unfold State.homeRead
  with_reducible
    repeat' first | assumption | apply kept_homeGet

theorem kept_homeNat {s₀ : State} (s : State) (pa n : Nat) (h_s : s₀.Keeps s) :
    s₀.Keeps (s.homeNat pa n).1 := by
  unfold State.homeNat
  with_reducible
    repeat' first | assumption | apply kept_homeRead

theorem kept_fillSectors {s₀ : State} (s : State) (need : BitVec 4) (low : Bool) (l : CLine) (h_s : s₀.Keeps s) :
    s₀.Keeps (s.fillSectors need low l).1 := by
  unfold State.fillSectors
  with_reducible
    repeat' first | assumption | apply kept_homeGet | refine kept_foldl ?_ ?_ | refine kept_foldl_fst ?_ ?_ | intro _

theorem kept_dieRead {s₀ : State} (s : State) (core : Nat) (pa : Nat) (n : Nat) (alloc : Bool) (low : Bool) (h_s : s₀.Keeps s) :
    s₀.Keeps (s.dieRead core pa n alloc low).1 := by
  unfold State.dieRead
  with_reducible
    repeat' first | assumption | apply kept_id | apply kept_seen | apply kept_homeGet | apply kept_seeHome
                   | apply kept_recall | apply kept_fillSectors | apply kept_modDie | apply kept_spoil | apply kept_modDir
                   | intro _ | split | dsimp only

theorem kept_l1Mod {s₀ : State} (s : State) (core line : Nat) (f : Line → Line) (h_s : s₀.Keeps s) :
    s₀.Keeps (s.l1Mod core line f) := by
  unfold State.l1Mod
  with_reducible
    repeat' first | assumption | apply kept_modCore

theorem kept_writeBack {s₀ : State} (s : State) (core : Nat) (line : Nat) (h_s : s₀.Keeps s) :
    s₀.Keeps (s.writeBack core line) := by
  unfold State.writeBack
  with_reducible
    repeat' first | assumption | apply kept_homeWriteMask | apply kept_poisonMask | apply kept_l1Mod | intro _ | split
                   | dsimp only

theorem kept_l1Evict {s₀ : State} (s : State) (core line : Nat) (h_s : s₀.Keeps s) :
    s₀.Keeps (s.l1Evict core line) := by
  unfold State.l1Evict
  with_reducible
    repeat' first | assumption | apply kept_writeBack | apply kept_recall | apply kept_modCore | intro _ | split

theorem kept_l1Enter {s₀ : State} (s : State) (core : Nat) (l : Line) (h_s : s₀.Keeps s) :
    s₀.Keeps (s.l1Enter core l) := by
  unfold State.l1Enter
  with_reducible
    repeat' first | assumption | apply kept_l1Evict | apply kept_modCore | intro _ | split | dsimp only

theorem kept_l1Load {s₀ : State} (s : State) (core : Nat) (pa : Nat) (n : Nat) (a : Attr) (h_s : s₀.Keeps s) :
    s₀.Keeps (s.l1Load core pa n a).1 := by
  unfold State.l1Load
  with_reducible
    repeat' first | assumption | apply kept_id | apply kept_seeHome | apply kept_homeGet | apply kept_recall
                   | apply kept_dieRead | apply kept_l1Enter | refine kept_foldl ?_ ?_ | refine kept_foldl_fst ?_ ?_
                   | intro _ | split | dsimp only

theorem kept_l1LoadAcq {s₀ : State} (s : State) (core pa n : Nat) (a : Attr) (h_s : s₀.Keeps s) :
    s₀.Keeps (s.l1LoadAcq core pa n a).1 := by
  unfold State.l1LoadAcq
  with_reducible
    repeat' first | assumption | apply kept_seeHome | apply kept_homeGet | apply kept_dieRead | intro _ | split

theorem kept_l1StoreNarrow {s₀ : State} (s : State) (core : Nat) (pa : Nat) (bs : List Byte) (rank : Nat) (a : Attr) (h_s : s₀.Keeps s) :
    s₀.Keeps (s.l1StoreNarrow core pa bs rank a) := by
  unfold State.l1StoreNarrow
  with_reducible
    repeat' first | assumption | apply kept_flushAmod | apply kept_l1Enter | intro _ | split | dsimp only

theorem kept_storeThrough {s₀ : State} (s : State) (core pa : Nat) (bs : List Byte) (a : Attr) (h_s : s₀.Keeps s) :
    s₀.Keeps (s.storeThrough core pa bs a) := by
  unfold State.storeThrough
  with_reducible
    repeat' first | assumption | apply kept_l1Evict | apply kept_l1Mod | apply kept_homePut | intro _ | split

theorem kept_store {s₀ : State} (s : State) (core pa : Nat) (bs : List Byte) (rank : Nat) (through : Bool) (a : Attr) (h_s : s₀.Keeps s) :
    s₀.Keeps (s.store core pa bs rank through a) := by
  unfold State.store
  with_reducible
    repeat' first | assumption | apply kept_storeThrough | apply kept_l1StoreNarrow | intro _ | split

theorem kept_storeOf {s₀ : State} (s : State) (gid : Nat) (core : Nat) (pa : Nat) (bs : List Byte) (rank : Nat) (through : Bool) (a : Attr) (h_s : s₀.Keeps s) :
    s₀.Keeps (s.storeOf gid core pa bs rank through a) := by
  unfold State.storeOf
  with_reducible
    repeat' first | assumption | apply kept_store | apply kept_l1Mod | intro _ | split | dsimp only

theorem kept_release {s₀ : State} (s : State) (core rank : Nat) (h_s : s₀.Keeps s) :
    s₀.Keeps (s.release core rank) := by
  unfold State.release
  with_reducible
    repeat' first | assumption | apply kept_writeBack | apply kept_deliverIf | refine kept_foldl ?_ ?_
                  | refine kept_foldl_fst ?_ ?_ | intro _ | split

theorem kept_fullFence {s₀ : State} (s : State) (core rank : Nat) (h_s : s₀.Keeps s) :
    s₀.Keeps (s.fullFence core rank) := by
  unfold State.fullFence
  with_reducible
    repeat' first | assumption | apply kept_release | apply kept_deliverInv | apply kept_acquire | intro _ | split

theorem kept_pathSector {s₀ : State} (s : State) (core : Nat) (k : PathKind) (asid i : Nat) (a : Attr) (l : CLine) (h_s : s₀.Keeps s) :
    s₀.Keeps (s.pathSector core k asid i a l).1 := by
  unfold State.pathSector
  with_reducible
    repeat' first | assumption | apply kept_modCell | apply kept_dieRead | intro _ | split | dsimp only

theorem kept_pathRead {s₀ : State} (s : State) (core : Nat) (k : PathKind) (asid pa n : Nat) (a : Attr) (h_s : s₀.Keeps s) :
    s₀.Keeps (s.pathRead core k asid pa n a).1 := by
  unfold State.pathRead
  with_reducible
    repeat' first | assumption | apply kept_seen | apply kept_homeGet | apply kept_pathSector | apply kept_modCore
                  | refine kept_foldl ?_ ?_ | refine kept_foldl_fst ?_ ?_ | intro _ | split

theorem kept_dropPaths {s₀ : State} (s : State) (core asid : Nat) (h_s : s₀.Keeps s) :
    s₀.Keeps (s.dropPaths core asid) := by
  unfold State.dropPaths
  with_reducible
    repeat' first | assumption | apply kept_modCell | apply kept_modCore

theorem kept_pageRead {s₀ : State} (s : State) (y : Xlat) (off : Nat) (n : Nat) (h_s : s₀.Keeps s) :
    s₀.Keeps (s.pageRead y off n).1 := by
  unfold State.pageRead
  with_reducible
    repeat' first | assumption | apply kept_homeGet | intro _ | split | dsimp only

theorem kept_pageNat {s₀ : State} (s : State) (y : Xlat) (off : Nat) (n : Nat) (h_s : s₀.Keeps s) :
    s₀.Keeps (s.pageNat y off n).1 := by
  unfold State.pageNat
  with_reducible
    repeat' first | assumption | apply kept_pageRead | intro _ | split | dsimp only

theorem kept_pageWrite {s₀ : State} (s : State) (a : Agent) (y : Xlat) (off : Nat) (bs : List Byte) (h_s : s₀.Keeps s) :
    s₀.Keeps (s.pageWrite a y off bs) := by
  unfold State.pageWrite
  with_reducible
    repeat' first | assumption | apply kept_homePut | intro _ | split | dsimp only

theorem kept_walkEntry {s₀ : State} (s : State) (die asid pa : Nat) (h_s : s₀.Keeps s) :
    s₀.Keeps (s.walkEntry die asid pa).1 := by
  unfold State.walkEntry
  with_reducible
    repeat' first | assumption | apply kept_homeNat | apply kept_walk | intro _ | split | dsimp only

theorem kept_lastEntry {s₀ : State} (s : State) (die asid base idx : Nat) (h_s : s₀.Keeps s) :
    s₀.Keeps (s.lastEntry die asid base idx).1 := by
  unfold State.lastEntry
  with_reducible
    repeat' first | assumption | apply kept_walkEntry | apply kept_homeNat | intro _ | split | dsimp only

theorem kept_walk {s₀ : State} (s : State) (die asid : Nat) (supv : Bool) (va : Nat) (used : List WalkEntry) (z0 : Nat) (z1 : List Nat) (h_s : s₀.Keeps s) :
    s₀.Keeps (s.walk die asid supv va used z0 z1).1 := by
  induction z1 generalizing s used z0 with
  | nil => exact h_s
  | cons e l ih =>
    unfold State.walk
    with_reducible
      repeat' first | assumption | apply ih | apply kept_lastEntry | apply kept_walkEntry | split | dsimp only


theorem kept_walkPut {s₀ : State} (s : State) (die : Nat) (ws : List WalkEntry) (h_s : s₀.Keeps s) :
    s₀.Keeps (s.walkPut die ws) := by
  unfold State.walkPut
  with_reducible
    repeat' first | assumption | apply kept_modDie | apply kept_walk | intro _ | split

theorem kept_tlbPut {s₀ : State} (s : State) (core asid va : Nat) (x : Xlat) (h_s : s₀.Keeps s) :
    s₀.Keeps (s.tlbPut core asid va x) := by
  unfold State.tlbPut
  with_reducible
    repeat' first | assumption | apply kept_modCore | apply kept_modCell

theorem kept_translate {s₀ : State} (s : State) (core asid : Nat) (x : Ctx) (va : Nat) (acc : Access) (h_s : s₀.Keeps s) :
    s₀.Keeps (s.translate core asid x va acc).1 := by
  unfold State.translate
  extract_lets user w src r
  split
  · exact h_s
  · have hw : s₀.Keeps w.1 := kept_walk _ _ _ _ _ _ _ _ h_s
    have hr : s₀.Keeps r.1 := by
      unfold r src
      clear_value w
      with_reducible
        repeat' first | assumption | split | dsimp only
    clear_value r
    split
    · exact hr
    · split
      · exact hr
      · exact kept_tlbPut _ _ _ _ _ (kept_walkPut _ _ _ hr)

theorem kept_invalidateTlb {s₀ : State} (s : State) (k : InvKind) (h_s : s₀.Keeps s) :
    s₀.Keeps (s.invalidateTlb k) := by
  unfold State.invalidateTlb
  exact h_s

theorem kept_unitXlat {s₀ : State} (s : State) (die asid : Nat) (x : Ctx) (va : Nat) (acc : Access) (h_s : s₀.Keeps s) :
    s₀.Keeps (s.unitXlat die asid x va acc).1 := by
  unfold State.unitXlat
  with_reducible
    repeat' first | assumption | apply kept_walk | apply kept_walkPut | intro _ | split | dsimp only

theorem kept_unitRead {s₀ : State} (s : State) (die : Nat) (asid : Nat) (x : Ctx) (va : Nat) (n : Nat) (h_s : s₀.Keeps s) :
    s₀.Keeps (s.unitRead die asid x va n).1 := by
  unfold State.unitRead
  with_reducible
    repeat' first | assumption | apply kept_unitXlat | apply kept_pageRead | refine kept_foldl ?_ ?_
                   | refine kept_foldl_fst ?_ ?_ | intro _ | split | dsimp only

theorem kept_unitNat {s₀ : State} (s : State) (die asid : Nat) (x : Ctx) (va n : Nat) (h_s : s₀.Keeps s) :
    s₀.Keeps (s.unitNat die asid x va n).1 := by
  unfold State.unitNat
  with_reducible
    repeat' first | assumption | apply kept_unitRead

theorem kept_unitCheck {s₀ : State} (s : State) (die asid : Nat) (x : Ctx) (va n : Nat) (acc : Access) (h_s : s₀.Keeps s) :
    s₀.Keeps (s.unitCheck die asid x va n acc).1 := by
  unfold State.unitCheck
  with_reducible
    repeat' first | assumption | apply kept_unitXlat | refine kept_foldl ?_ ?_ | refine kept_foldl_fst ?_ ?_ | intro _
                  | split | dsimp only

theorem kept_unitWrite {s₀ : State} (s : State) (die : Nat) (asid : Nat) (x : Ctx) (va : Nat) (bs : List Byte) (h_s : s₀.Keeps s) :
    s₀.Keeps (s.unitWrite die asid x va bs).1 := by
  unfold State.unitWrite
  with_reducible
    repeat' first | assumption | apply kept_unitXlat | apply kept_pageWrite | refine kept_foldl ?_ ?_
                   | refine kept_foldl_fst ?_ ?_ | intro _ | split | dsimp only

theorem kept_spadPut {s₀ : State} (s : State) (gid off : Nat) (bs : List Byte) (h_s : s₀.Keeps s) :
    s₀.Keeps (s.spadPut gid off bs) := by
  unfold State.spadPut
  with_reducible
    repeat' first | assumption | apply kept_modGroup

theorem kept_mapPaths {s₀ : State} (s : State) (f : Path → Path) (h_s : s₀.Keeps s) :
    s₀.Keeps (s.mapPaths f) := by
  unfold State.mapPaths
  exact h_s

theorem kept_barStep {s₀ : State} (s : State) (gid off : Nat) (f : Bar → Bar) (h_s : s₀.Keeps s) :
    s₀.Keeps (s.barStep gid off f) := by
  unfold State.barStep
  with_reducible
    repeat' first | assumption | apply kept_spadPut | apply kept_mapPaths | intro _ | split | dsimp only

theorem kept_rmwHome {s₀ : State} (s : State) (core pa : Nat) (keep low : Bool) (q : AtomReq) (h_s : s₀.Keeps s) :
    s₀.Keeps (State.rmwHome s core pa keep low q).s := by
  unfold State.rmwHome
  with_reducible
    repeat' first | assumption | apply kept_recall | apply kept_seeHome | apply kept_homeWriteIn

theorem kept_rmwOwned {s₀ : State} (s : State) (core : Nat) (pa : Nat) (l : Line) (q : AtomReq) (h_s : s₀.Keeps s) :
    s₀.Keeps (s.rmwOwned core pa l q).s := by
  unfold State.rmwOwned
  with_reducible
    repeat' first | assumption | apply kept_l1Enter | intro _ | split | dsimp only

theorem kept_grantLine {s₀ : State} (s : State) (core : Nat) (line : Nat) (low : Bool) (h_s : s₀.Keeps s) :
    s₀.Keeps (s.grantLine core line low) := by
  unfold State.grantLine
  with_reducible
    repeat' first | assumption | apply kept_writeBack | apply kept_seeHome | apply kept_l2Use | apply kept_invalidate
                   | apply kept_dropRdc | apply kept_l1Enter | apply kept_predict | apply kept_modDir
                   | refine kept_foldl ?_ ?_ | refine kept_foldl_fst ?_ ?_ | intro _ | split | dsimp only

theorem kept_rmwNear {s₀ : State} (s : State) (core : Nat) (pa : Nat) (low : Bool) (q : AtomReq) (h_s : s₀.Keeps s) :
    s₀.Keeps (s.rmwNear core pa low q).s := by
  unfold State.rmwNear
  with_reducible
    repeat' first | assumption | apply kept_id | apply kept_rmwOwned | apply kept_writeBack | apply kept_rmwHome
                   | apply kept_recall | apply kept_modDir | apply kept_predict | apply kept_grantLine | intro _ | split
                   | dsimp only

theorem kept_rmwGlobal {s₀ : State} (s : State) (core pa : Nat) (a : Attr) (q : AtomReq) (h_s : s₀.Keeps s) :
    s₀.Keeps (State.rmwGlobal s core pa a q).s := by
  unfold State.rmwGlobal
  with_reducible
    repeat' first | assumption | apply kept_writeBack | apply kept_rmwHome | apply kept_rmwNear | intro _ | split
                  | dsimp only

theorem kept_rmwSpad {s₀ : State} (s : State) (gid off : Nat) (q : AtomReq) (h_s : s₀.Keeps s) :
    s₀.Keeps (State.rmwSpad s gid off q).s := by
  unfold State.rmwSpad
  with_reducible
    repeat' first | assumption | apply kept_spadPut

theorem kept_readPiece {s₀ : State} (s : State) (core : Nat) (acq : Bool) (z0 : Piece) (h_s : s₀.Keeps s) :
    s₀.Keeps (s.readPiece core acq z0).1 := by
  unfold State.readPiece
  with_reducible
    repeat' first | assumption | apply kept_l1LoadAcq | apply kept_l1Load | intro _ | split

theorem kept_readPath {s₀ : State} (s : State) (core asid : Nat) (k : PathKind) (z0 : Piece) (h_s : s₀.Keeps s) :
    s₀.Keeps (s.readPath core asid k z0).1 := by
  unfold State.readPath
  with_reducible
    repeat' first | assumption | apply kept_pathRead | intro _ | split

theorem kept_readAll {s₀ : State} (s : State) (ps : List Piece) (rd : State → Piece → State × List Byte) (h_s : s₀.Keeps s) (h_rd : ∀ (rd0 : State) (rd1 : Piece), s₀.Keeps rd0 → s₀.Keeps (rd rd0 rd1).1) :
    s₀.Keeps (s.readAll ps rd).1 := by
  unfold State.readAll
  with_reducible
    repeat' first | assumption | refine kept_foldl ?_ ?_ | refine kept_foldl_fst ?_ ?_ | apply h_rd | intro _

theorem kept_writePiece {s₀ : State} (s : State) (gid : Nat) (core : Nat) (rank : Nat) (through : Bool) (bs : List Byte) (z0 : Piece) (h_s : s₀.Keeps s) :
    s₀.Keeps (s.writePiece gid core rank through bs z0) := by
  unfold State.writePiece
  with_reducible
    repeat' first | assumption | apply kept_storeOf | apply kept_spadPut | intro _ | split | dsimp only

theorem kept_readBy {s₀ : State} (s : State) (core : Nat) (asid : Nat) (path : Option PathKind) (past : Bool) (p : Piece) (h_s : s₀.Keeps s) :
    s₀.Keeps (s.readBy core asid path past p).1 := by
  unfold State.readBy
  with_reducible
    repeat' first | assumption | apply kept_readPiece | apply kept_readPath | intro _ | split | dsimp only

theorem kept_rmwPiece {s₀ : State} (s : State) (core : Nat) (r : Ref) (clause : Nat) (q : AtomReq) (p : Piece) (h_s : s₀.Keeps s) :
    s₀.Keeps (s.rmwPiece core r clause q p).1 := by
  unfold State.rmwPiece
  with_reducible
    repeat' first | assumption | apply kept_land | apply kept_rmwGlobal | apply kept_rmwSpad | intro _ | split
                   | dsimp only

theorem kept_doPiece {s₀ : State} (s : State) (asid : Nat) (core : Nat) (r : Ref) (clause : Nat) (h : How) (a : LaneArg) (off : Nat) (p : Piece) (h_s : s₀.Keeps s) :
    s₀.Keeps (s.doPiece asid core r clause h a off p).1 := by
  unfold State.doPiece
  with_reducible
    repeat' first | assumption | apply kept_readBy | apply kept_store | apply kept_writePiece | apply kept_rmwPiece
                   | intro _ | split | dsimp only

theorem kept_latePiece {s₀ : State} (s : State) (e : Issue) (l : LaneAcc) (off : Nat) (p : Piece) (h_s : s₀.Keeps s) :
    s₀.Keeps (s.latePiece e l off p).1 := by
  unfold State.latePiece
  with_reducible
    repeat' first | assumption | apply kept_seen | apply kept_doPiece | intro _ | split | dsimp only

theorem kept_doPieces {s₀ : State} (s : State) (e : Issue) (l : LaneAcc) (skip n off : Nat) (ps : List Piece) (h_s : s₀.Keeps s) :
    s₀.Keeps (s.doPieces e l skip n off ps).1 := by
  induction ps generalizing s skip n off with
  | nil => exact h_s
  | cons p ps ih =>
    unfold State.doPieces
    split
    · exact ih _ _ _ _ h_s
    · split
      · exact h_s
      · split
        · exact ih _ _ _ _ (kept_latePiece _ _ _ _ _ h_s)
        · exact ih _ _ _ _ h_s

theorem kept_modIssue {s₀ : State} (s : State) (id : Nat) (f : Issue → Issue) (h_s : s₀.Keeps s) :
    s₀.Keeps (s.modIssue id f) := by
  unfold State.modIssue
  with_reducible
    repeat' first | assumption | apply kept_id | intro _ | split | dsimp only

theorem kept_markDone {s₀ : State} (s : State) (r : Ref) (k : Nat) (bits : LaneSet) (h_s : s₀.Keeps s) :
    s₀.Keeps (s.markDone r k bits) := by
  unfold State.markDone
  with_reducible
    repeat' first | assumption | apply kept_modTeam | intro _ | split | dsimp only

theorem kept_freeDone {s₀ : State} (s : State) (r : Ref) (k : Nat) (h_s : s₀.Keeps s) :
    s₀.Keeps (s.freeDone r k) := by
  unfold State.freeDone
  with_reducible
    repeat' first | assumption | apply kept_modTeam | apply kept_modPath

theorem kept_finishIssue {s₀ : State} (s : State) (e : Issue) (h_s : s₀.Keeps s) :
    s₀.Keeps (s.finishIssue e) := by
  unfold State.finishIssue
  with_reducible
    repeat' first | assumption | apply kept_landOuts | apply kept_freeDone | apply kept_markDone | apply kept_acquire
                   | apply kept_opDone | intro _ | split | dsimp only

theorem kept_settleLane {s₀ : State} (s : State) (id : Nat) (lane : Nat) (h_s : s₀.Keeps s) :
    s₀.Keeps (s.settleLane id lane) := by
  unfold State.settleLane
  with_reducible
    repeat' first | assumption | apply kept_id | apply kept_markDone | apply kept_finishIssue | intro _ | split
                   | dsimp only

theorem kept_doEvent {s₀ : State} (s : State) (id : Nat) (lane : Nat) (i : Nat) (h_s : s₀.Keeps s) :
    s₀.Keeps (s.doEvent id lane i) := by
  unfold State.doEvent
  with_reducible
    repeat' first | assumption | apply kept_id | apply kept_doPieces | apply kept_put | apply kept_modIssue
                   | apply kept_settleLane | intro _ | split | dsimp only

theorem kept_doIssue {s₀ : State} (s : State) (e : Issue) (h_s : s₀.Keeps s) :
    s₀.Keeps (s.doIssue e) := by
  unfold State.doIssue
  with_reducible
    repeat' first | assumption | apply kept_doEvent | refine kept_foldl ?_ ?_ | refine kept_foldl_fst ?_ ?_ | intro _
                   | split | dsimp only

theorem kept_flush {s₀ : State} (s : State) (sel : Issue → Bool) (h_s : s₀.Keeps s) :
    s₀.Keeps (s.flush sel) := by
  unfold State.flush
  with_reducible
    repeat' first | assumption | apply kept_doIssue | refine kept_foldl ?_ ?_ | refine kept_foldl_fst ?_ ?_ | intro _
                   | split | dsimp only

theorem kept_catchUp {s₀ : State} (s : State) (r : Ref) (ps : List Piece) (h_s : s₀.Keeps s) :
    s₀.Keeps (s.catchUp r ps) := by
  unfold State.catchUp
  with_reducible
    repeat' first | assumption | apply kept_flush | intro _ | split | dsimp only

theorem kept_sectorRead {s₀ : State} (s : State) (core : Nat) (src : SecSrc) (h_s : s₀.Keeps s) :
    s₀.Keeps (s.sectorRead core src).1 := by
  unfold State.sectorRead
  with_reducible
    repeat' first | assumption | apply kept_l1LoadAcq | intro _ | split

theorem kept_poisonWritten {s₀ : State} (s : State) (core pa n : Nat) (h_s : s₀.Keeps s) :
    s₀.Keeps (s.poisonWritten core pa n) := by
  unfold State.poisonWritten
  with_reducible
    repeat' first | assumption | apply kept_l1Mod | apply kept_poisonMask | intro _ | split | dsimp only

theorem kept_sectorWrite {s₀ : State} (s : State) (gid : Nat) (core : Nat) (rank : Nat) (dst : SecDst) (bs : List Byte) (bad : Bool) (h_s : s₀.Keeps s) :
    s₀.Keeps (s.sectorWrite gid core rank dst bs bad) := by
  unfold State.sectorWrite
  with_reducible
    repeat' first | assumption | apply kept_storeOf | apply kept_poisonWritten | apply kept_spadPut | apply kept_modGroup
                   | intro _ | split | dsimp only

theorem kept_opRelease {s₀ : State} (s : State) (o : AsyncOp) (h_s : s₀.Keeps s) :
    s₀.Keeps (s.opRelease o) := by
  unfold State.opRelease
  with_reducible
    repeat' first | assumption | apply kept_release | intro _ | split

theorem kept_credit {s₀ : State} (s : State) (bar : Option (Nat × Nat)) (n : Nat) (h_s : s₀.Keeps s) :
    s₀.Keeps (s.credit bar n) := by
  unfold State.credit
  with_reducible
    repeat' first | assumption | apply kept_barStep | apply kept_land | intro _ | split

theorem kept_copySector {s₀ : State} (s : State) (id : Nat) (i : Nat) (h_s : s₀.Keeps s) :
    s₀.Keeps (s.copySector id i) := by
  unfold State.copySector
  with_reducible
    repeat' first | assumption | apply kept_id | apply kept_sectorRead | apply kept_sectorWrite | apply kept_credit
                   | intro _ | split | dsimp only

theorem kept_copyAll {s₀ : State} (s : State) (id : Nat) (h_s : s₀.Keeps s) :
    s₀.Keeps (s.copyAll id) := by
  unfold State.copyAll
  with_reducible
    repeat' first | assumption | apply kept_id | apply kept_copySector | refine kept_foldl ?_ ?_
                  | refine kept_foldl_fst ?_ ?_ | intro _ | split

theorem kept_freeGang {s₀ : State} (s : State) (gang : Nat) (h_s : s₀.Keeps s) :
    s₀.Keeps (s.freeGang gang) := by
  unfold State.freeGang
  with_reducible
    repeat' first | assumption | apply kept_place | intro _ | split | dsimp only

theorem kept_endOp {s₀ : State} (s : State) (id : Nat) (h_s : s₀.Keeps s) :
    s₀.Keeps (s.endOp id) := by
  unfold State.endOp
  with_reducible
    repeat' first | assumption | apply kept_id | apply kept_opDone | apply kept_freeGang | intro _ | split | dsimp only

theorem kept_fillTile {s₀ : State} (s : State) (o : AsyncOp) (src : List SecSrc) (slot : Nat) (h_s : s₀.Keeps s) :
    s₀.Keeps (s.fillTile o src slot) := by
  unfold State.fillTile
  with_reducible
    repeat' first | assumption | apply kept_sectorRead | apply kept_opRelease | apply kept_modCell
                   | refine kept_foldl ?_ ?_ | refine kept_foldl_fst ?_ ?_ | intro _ | split | dsimp only

theorem kept_completeOp {s₀ : State} (s : State) (id : Nat) (h_s : s₀.Keeps s) :
    s₀.Keeps (s.completeOp id) := by
  unfold State.completeOp
  with_reducible
    repeat' first | assumption | apply kept_id | apply kept_fillTile | apply kept_endOp | apply kept_append
                  | apply kept_copyAll | apply kept_opRelease | apply kept_credit | intro _ | split | dsimp only

theorem kept_grantCreel {s₀ : State} (s : State) (id : Nat) (h_s : s₀.Keeps s) :
    s₀.Keeps (s.grantCreel id) := by
  unfold State.grantCreel
  with_reducible
    repeat' first | assumption | apply kept_id | apply kept_modCell | intro _ | split | dsimp only

theorem kept_takeTile {s₀ : State} (s : State) (id : Nat) (h_s : s₀.Keeps s) :
    s₀.Keeps (s.takeTile id) := by
  unfold State.takeTile
  with_reducible
    repeat' first | assumption | apply kept_id | apply kept_modCell | intro _ | split | dsimp only

theorem kept_flushNotes {s₀ : State} (z0 : Nat) (z1 : State) (h_z1 : s₀.Keeps z1) :
    s₀.Keeps (State.flushNotes z0 z1) := by
  induction z0 generalizing z1 with
  | zero => exact h_z1
  | succ n ih =>
    unfold State.flushNotes
    with_reducible
      repeat' first | assumption | apply ih | apply kept_homeWrite | split

theorem kept_notify {s₀ : State} (s : State) (type detail asid token : Nat) (info : Nat) (h_s : s₀.Keeps s) :
    s₀.Keeps (s.notify type detail asid token info) := by
  unfold State.notify
  with_reducible
    repeat' first | assumption | apply kept_flushNotes

theorem kept_leaveExcess {s₀ : State} (s : State) (h_s : s₀.Keeps s) :
    s₀.Keeps (s.leaveExcess).1 := by
  unfold State.leaveExcess
  with_reducible
    repeat' first | assumption | intro _ | split | dsimp only

theorem kept_askLeave {s₀ : State} (s : State) (r : Ref) (h_s : s₀.Keeps s) :
    s₀.Keeps (s.askLeave r) := by
  unfold State.askLeave
  with_reducible
    repeat' first | assumption | apply kept_leaveExcess | apply kept_modPath | intro _ | split | dsimp only

theorem kept_deactivate {s₀ : State} (s : State) (core : Nat) (t : TRef) (h_s : s₀.Keeps s) :
    s₀.Keeps (s.deactivate core t) := by
  unfold State.deactivate
  with_reducible
    repeat' first | assumption | apply kept_modCore

theorem kept_activate {s₀ : State} (s : State) (core : Nat) (t : TRef) (h_s : s₀.Keeps s) :
    s₀.Keeps (s.activate core t) := by
  unfold State.activate
  with_reducible
    repeat' first | assumption | apply kept_modCore

theorem kept_cancelLdfs {s₀ : State} (s : State) (gid role : Nat) (hold : Bool) (h_s : s₀.Keeps s) :
    s₀.Keeps (s.cancelLdfs gid role hold) := by
  unfold State.cancelLdfs
  with_reducible
    repeat' first | assumption | apply kept_opDone | refine kept_foldl ?_ ?_ | refine kept_foldl_fst ?_ ?_ | intro _ | split

theorem kept_askAgain {s₀ : State} (s : State) (core : Nat) (e : Defer) (h_s : s₀.Keeps s) :
    s₀.Keeps (s.askAgain core e) := by
  unfold State.askAgain
  with_reducible
    repeat' first | assumption | apply kept_translate | apply kept_decideLdf | apply kept_notify | intro _ | split
                   | dsimp only

theorem kept_reissueLdfs {s₀ : State} (s : State) (gid role core : Nat) (h_s : s₀.Keeps s) :
    s₀.Keeps (s.reissueLdfs gid role core) := by
  unfold State.reissueLdfs
  with_reducible
    repeat' first | assumption | apply kept_askAgain | refine kept_foldl ?_ ?_ | refine kept_foldl_fst ?_ ?_ | intro _

theorem kept_clearMarkers {s₀ : State} (s : State) (asid gid role : Nat) (h_s : s₀.Keeps s) :
    s₀.Keeps (s.clearMarkers asid gid role) := by
  unfold State.clearMarkers
  with_reducible
    repeat' first | assumption | apply kept_release | apply kept_modTeam | apply kept_modCtx | intro _ | split

theorem kept_freeFrame {s₀ : State} (s : State) (asid : Nat) (p : TrapPhase) (h_s : s₀.Keeps s) :
    s₀.Keeps (s.freeFrame asid p) := by
  unfold State.freeFrame
  with_reducible
    repeat' first | assumption | apply kept_modCtx | intro _ | split

theorem kept_endGroup {s₀ : State} (s : State) (gid : Nat) (retire : Bool) (h_s : s₀.Keeps s) :
    s₀.Keeps (s.endGroup gid retire) := by
  unfold State.endGroup
  with_reducible
    repeat' first | assumption | apply kept_place | apply kept_modGroup | apply kept_modCtx | apply kept_modCell
                  | apply kept_modGrid | apply kept_freeGang | intro _ | split

theorem kept_endTeam {s₀ : State} (s : State) (gid role : Nat) (h_s : s₀.Keeps s) :
    s₀.Keeps (s.endTeam gid role) := by
  unfold State.endTeam
  with_reducible
    repeat' first | assumption | apply kept_clearMarkers | apply kept_cancelLdfs | apply kept_landIf | apply kept_freeFrame
                  | apply kept_deactivate | apply kept_modTeam | apply kept_endGroup | intro _ | split | dsimp only

theorem kept_failSuccessors {s₀ : State} (s : State) (grid : Nat) (h_s : s₀.Keeps s) :
    s₀.Keeps (s.failSuccessors grid) := by
  unfold State.failSuccessors
  exact h_s

theorem kept_put {s₀ : State} (s : State) (asid : Nat) (va : Nat) (bs : List Byte) (h_s : s₀.Keeps s) :
    s₀.Keeps (s.put asid va bs) := by
  unfold State.put
  with_reducible
    repeat' first | assumption | apply kept_unitWrite | intro _ | split

theorem kept_unpark {s₀ : State} (s : State) (asid : Nat) (sel : Parked → Bool) (h_s : s₀.Keeps s) :
    s₀.Keeps (s.unpark asid sel) := by
  unfold State.unpark
  with_reducible
    repeat' first | assumption | apply kept_put | apply kept_modCtx | refine kept_foldl ?_ ?_ | refine kept_foldl_fst ?_ ?_
                  | intro _ | split

theorem kept_terminateGrid {s₀ : State} (s : State) (grid : Nat) (index : Nat) (detail : Nat) (h_s : s₀.Keeps s) :
    s₀.Keeps (s.terminateGrid grid index detail) := by
  unfold State.terminateGrid
  with_reducible
    repeat' first | assumption | apply kept_cancelLdfs | apply kept_landIf | apply kept_freeFrame
                   | apply kept_clearMarkers | apply kept_deactivate | apply kept_modTeam | apply kept_endGroup
                   | apply kept_modCtx | apply kept_freeGang | apply kept_unpark | apply kept_modGrid
                   | apply kept_failSuccessors | apply kept_notify | refine kept_foldl ?_ ?_ | refine kept_foldl_fst ?_ ?_
                   | intro _ | split | dsimp only

theorem kept_cancelOps {s₀ : State} (s : State) (gid role : Nat) (h_s : s₀.Keeps s) :
    s₀.Keeps (s.cancelOps gid role) := by
  unfold State.cancelOps
  exact h_s

theorem kept_settle {s₀ : State} (s : State) (gid : Nat) (role : Nat) (h_s : s₀.Keeps s) :
    s₀.Keeps (s.settle gid role) := by
  unfold State.settle
  with_reducible
    repeat' first | assumption | apply kept_flush | apply kept_cancelLdfs | apply kept_completeOp | apply kept_cancelOps
                   | apply kept_landAll | refine kept_foldl ?_ ?_ | refine kept_foldl_fst ?_ ?_ | intro _ | split
                   | dsimp only

theorem kept_cleanLines {s₀ : State} (s : State) (core asid : Nat) (x : Ctx) (va : Nat) (h_s : s₀.Keeps s) :
    s₀.Keeps (s.cleanLines core asid x va) := by
  unfold State.cleanLines
  with_reducible
    repeat' first | assumption | apply kept_unitXlat | apply kept_l1Evict | intro _ | split | dsimp only

theorem kept_deliver {s₀ : State} (s : State) (gid : Nat) (role : Nat) (h_s : s₀.Keeps s) :
    s₀.Keeps (s.deliver gid role) := by
  unfold State.deliver
  with_reducible
    repeat' first | assumption | apply kept_cleanLines | apply kept_unitWrite | apply kept_terminateGrid
                   | apply kept_modCtx | apply kept_modTeam | intro _ | split | dsimp only

theorem kept_trapGo {s₀ : State} (s : State) (gid role : Nat) (h_s : s₀.Keeps s) :
    s₀.Keeps (s.trapGo gid role) := by
  unfold State.trapGo
  with_reducible
    repeat' first | assumption | apply kept_landAll | apply kept_modTeam | apply kept_notify | apply kept_terminateGrid
                  | apply kept_deliver | intro _ | split

theorem kept_takeTrapW {s₀ : State} (s : State) (r : Ref) (cause detail addr : Nat) (lmask : LaneSet) (skip : Bool) (words : Option (BitVec 64)) (h_s : s₀.Keeps s) :
    s₀.Keeps (s.takeTrapW r cause detail addr lmask skip words) := by
  unfold State.takeTrapW
  with_reducible
    repeat' first | assumption | apply kept_terminateGrid | apply kept_settle | apply kept_modTeam | apply kept_trapGo
                  | intro _ | split

theorem kept_takeTrap {s₀ : State} (s : State) (r : Ref) (cause detail addr : Nat) (lmask : LaneSet) (skip : Bool) (h_s : s₀.Keeps s) :
    s₀.Keeps (s.takeTrap r cause detail addr lmask skip) := by
  unfold State.takeTrap
  with_reducible
    repeat' first | assumption | apply kept_takeTrapW

theorem kept_resumeTrap {s₀ : State} (s : State) (r : Ref) (tr : Trap) (pc : Nat) (clause : Option Clause) (skip : Bool) (h_s : s₀.Keeps s) :
    s₀.Keeps (s.resumeTrap r tr pc clause skip) := by
  unfold State.resumeTrap
  with_reducible
    repeat' first | assumption | apply kept_modTeam | apply kept_advance | apply kept_reissueLdfs | intro _ | split
                  | dsimp only

theorem kept_returnTrap {s₀ : State} (s : State) (r : Ref) (h_s : s₀.Keeps s) :
    s₀.Keeps (s.returnTrap r) := by
  unfold State.returnTrap
  with_reducible
    repeat' first | assumption | apply kept_cleanLines | apply kept_unitNat | apply kept_modCtx | apply kept_jump
                  | apply kept_modPath | apply kept_resumeTrap | apply kept_terminateGrid | intro _ | split | dsimp only

theorem kept_emitFrame {s₀ : State} (s : State) (peer src : Nat) (f : Sent) (h_s : s₀.Keeps s) :
    s₀.Keeps (s.emitFrame peer src f) := by
  unfold State.emitFrame
  with_reducible
    repeat' first | assumption | intro _ | split

theorem kept_sendFrame {s₀ : State} (s : State) (asid peer : Nat) (f : Sent) (h_s : s₀.Keeps s) :
    s₀.Keeps (s.sendFrame asid peer f) := by
  unfold State.sendFrame
  with_reducible
    repeat' first | assumption | apply kept_modCtx | apply kept_emitFrame | intro _ | split | dsimp only

theorem kept_answerPeer {s₀ : State} (s : State) (h : FrameHdr) (o : Out) (h_s : s₀.Keeps s) :
    s₀.Keeps (s.answerPeer h o) := by
  unfold State.answerPeer
  with_reducible
    repeat' first | assumption | intro _ | split

theorem kept_sendAck {s₀ : State} (s : State) (h : FrameHdr) (old : BitVec 64) (h_s : s₀.Keeps s) :
    s₀.Keeps (s.sendAck h old) := by
  unfold State.sendAck
  with_reducible
    repeat' first | assumption | apply kept_answerPeer

theorem kept_nack {s₀ : State} (s : State) (h : FrameHdr) (h_s : s₀.Keeps s) :
    s₀.Keeps (s.nack h) := by
  unfold State.nack
  with_reducible
    repeat' first | assumption | apply kept_answerPeer

/-- What the performance of a frame leaves keeps what a state had. -/
def Performed.Keeps (s₀ : State) : Performed → Prop
  | .refused => True
  | .done t _ => s₀.Keeps t
  | .waits t _ => s₀.Keeps t

theorem kept_conclude {s₀ : State} (s : State) (h : FrameHdr) (r : Recv) (p : Performed) (h_s : s₀.Keeps s)
    (h_p : p.Keeps s₀) : s₀.Keeps (s.conclude h r p) := by
  cases p with
  | refused => exact kept_nack _ _ h_s
  | waits t w => exact h_p
  | done t old =>
    unfold State.conclude
    dsimp only
    apply kept_sendAck
    split
    · exact kept_deliverInv _ h_p
    · exact h_p


theorem kept_receive {s₀ : State} (s : State) (h : FrameHdr) (f : State → Ctx → Performed) (h_s : s₀.Keeps s)
    (h_f : ∀ u x, s₀.Keeps u → (f u x).Keeps s₀) :
    s₀.Keeps (s.receive h f) := by
  unfold State.receive
  extract_lets r
  split
  · split
    · exact kept_nack _ _ h_s
    · split
      · exact kept_nack _ _ h_s
      · split
        · exact h_s
        · exact kept_conclude _ _ _ _ h_s (h_f _ _ h_s)
  · split
    · exact kept_sendAck _ _ _ h_s
    · exact kept_nack _ _ h_s


theorem kept_netWrite {s₀ : State} (s : State) (asid : Nat) (x : Ctx) (va : Nat) (bs : List Byte) (h_s : s₀.Keeps s) :
    ∀ o, (State.netWrite s asid x va bs) = some o → s₀.Keeps o := by
  intro o e
  unfold State.netWrite at e
  have hc := kept_unitCheck s 0 asid x va bs.length .write h_s
  generalize s.unitCheck 0 asid x va bs.length .write = c at e hc
  dsimp only at e
  split at e
  · cases e
  · cases e
    refine kept_foldl hc fun u p hu => ?_
    have ht := kept_unitXlat u 0 asid x p.1 .write hu
    generalize u.unitXlat 0 asid x p.1 .write = r at ht ⊢
    rcases r with ⟨t, y | y⟩
    · exact ht
    · exact kept_pageWrite _ _ _ _ _ ht

theorem kept_netRoom {s₀ : State} (s : State) (asid : Nat) (x : Ctx) (hdr index : Nat) (packet : List Byte)
    (h_s : s₀.Keeps s) : (s.netRoom asid x hdr index packet).Keeps s₀ := by
  unfold State.netRoom
  have hc := kept_unitRead s 0 asid x hdr 64 h_s
  generalize s.unitRead 0 asid x hdr 64 = r at hc
  rcases r with ⟨t, y | y⟩
  · trivial
  · dsimp only
    split
    · exact hc
    · split
      · trivial
      · next h1 =>
        split
        · trivial
        · next h2 => exact kept_netWrite _ _ _ _ _ (kept_deliverInv _ (kept_netWrite _ _ _ _ _ hc _ h1)) _ h2

theorem kept_netAppend {s₀ : State} (s : State) (asid : Nat) (x : Ctx) (hdr : Nat) (packet : List Byte)
    (h_s : s₀.Keeps s) : (s.netAppend asid x hdr packet).Keeps s₀ := by
  unfold State.netAppend
  have hc := kept_unitRead s 0 asid x hdr 64 h_s
  generalize s.unitRead 0 asid x hdr 64 = r at hc
  rcases r with ⟨t, y | y⟩
  · trivial
  · dsimp only
    split
    · trivial
    · split
      · trivial
      · next h1 => exact kept_netRoom _ _ _ _ _ _ (kept_netWrite _ _ _ _ _ hc _ h1)

theorem kept_netRetry {s₀ : State} (s : State) (key : Nat) (h_s : s₀.Keeps s) :
    s₀.Keeps (s.netRetry key) := by
  unfold State.netRetry
  split
  · exact h_s
  · next r _ =>
    split
    · next h hdr index packet _ =>
      split
      · exact h_s
      · next x _ =>
        dsimp only
        split
        · exact h_s
        · exact kept_conclude _ _ _ _ h_s (kept_netRoom _ _ _ _ _ _ h_s)
    · exact h_s


theorem kept_modSource {s₀ : State} (s : State) (asid src : Nat) (f : Source → Source) (h_s : s₀.Keeps s) :
    s₀.Keeps (s.modSource asid src f) := by
  unfold State.modSource
  with_reducible
    repeat' first | assumption | apply kept_modCtx

theorem kept_modBinding {s₀ : State} (s : State) (asid b : Nat) (f : Binding → Binding) (h_s : s₀.Keeps s) :
    s₀.Keeps (s.modBinding asid b f) := by
  unfold State.modBinding
  with_reducible
    repeat' first | assumption | apply kept_modCtx

theorem kept_putData {s₀ : State} (s : State) (die asid va : Nat) (bs : List Byte) (bad : Bool) (h_s : s₀.Keeps s) :
    s₀.Keeps (s.putData die asid va bs bad) := by
  unfold State.putData
  with_reducible
    repeat' first | assumption | apply kept_unitWrite | apply kept_unitXlat | refine kept_foldl ?_ ?_
                  | intro _ | split | dsimp only [State.Keeps] | refine kept_pair (by assumption) ?_

theorem kept_putField {s₀ : State} (s : State) (asid va old new : Nat) (h_s : s₀.Keeps s) :
    s₀.Keeps (s.putField asid va old new) := by
  unfold State.putField
  with_reducible
    repeat' first | assumption | apply kept_put | intro _ | split

theorem kept_srcStatus {s₀ : State} (s : State) (asid src : Nat) (old : Source) (h_s : s₀.Keeps s) :
    s₀.Keeps (s.srcStatus asid src old) := by
  unfold State.srcStatus
  with_reducible
    repeat' first | assumption | apply kept_putField | intro _ | split

theorem kept_bindStatus {s₀ : State} (s : State) (asid b : Nat) (old : Binding) (h_s : s₀.Keeps s) :
    s₀.Keeps (s.bindStatus asid b old) := by
  unfold State.bindStatus
  with_reducible
    repeat' first | assumption | apply kept_putField | intro _ | split

theorem kept_tell {s₀ : State} (s : State) (asid src : Nat) (i : Item) (h_s : s₀.Keeps s) :
    s₀.Keeps (s.tell asid src i) := by
  unfold State.tell
  with_reducible
    repeat' first | assumption | apply kept_modCtx

theorem kept_freeRing {s₀ : State} (s : State) (asid src : Nat) (h_s : s₀.Keeps s) :
    s₀.Keeps (s.freeRing asid src) := by
  unfold State.freeRing
  with_reducible
    repeat' first | assumption | apply kept_modCtx

theorem kept_freeRings {s₀ : State} (s : State) (asid : Nat) (srcs : BitVec 256) (h_s : s₀.Keeps s) :
    s₀.Keeps (s.freeRings asid srcs) := by
  unfold State.freeRings
  with_reducible
    repeat' first | assumption | apply kept_freeRing | apply kept_srcStatus | refine kept_foldl ?_ ?_
                  | refine kept_foldl_fst ?_ ?_ | intro _ | split

theorem kept_takeRdidx {s₀ : State} (s : State) (asid src : Nat) (h_s : s₀.Keeps s) :
    s₀.Keeps (s.takeRdidx asid src) := by
  unfold State.takeRdidx
  with_reducible
    repeat' first | assumption | apply kept_unitNat | apply kept_modSource | intro _ | split | dsimp only

theorem kept_append {s₀ : State} (s : State) (asid src : Nat) (r : NewRec) (mark : Bool) (h_s : s₀.Keeps s) :
    s₀.Keeps (s.append asid src r mark).1 := by
  unfold State.append
  with_reducible
    repeat' first | assumption | apply kept_takeRdidx | apply kept_modBinding | apply kept_putData | apply kept_modSource
                  | apply kept_tell | apply kept_freeRing | apply kept_srcStatus | refine kept_foldl ?_ ?_
                  | refine kept_foldl_fst ?_ ?_ | intro _ | split | dsimp only

theorem kept_changed {s₀ : State} (s : State) (asid src : Nat) (old : Source) (h_s : s₀.Keeps s) :
    s₀.Keeps (s.changed asid src old) := by
  unfold State.changed
  with_reducible
    repeat' first | assumption | apply kept_tell | apply kept_srcStatus | apply kept_deliverInv | apply kept_sendFrame
                  | intro _ | split

theorem kept_wmadv {s₀ : State} (s : State) (asid src : Nat) (w : Int) (h_s : s₀.Keeps s) :
    s₀.Keeps (s.wmadv asid src w) := by
  unfold State.wmadv
  with_reducible
    repeat' first | assumption | apply kept_modSource | apply kept_changed | intro _ | split

theorem kept_sclose {s₀ : State} (s : State) (asid src : Nat) (h_s : s₀.Keeps s) :
    s₀.Keeps (s.sclose asid src) := by
  unfold State.sclose
  with_reducible
    repeat' first | assumption | apply kept_modSource | apply kept_changed | intro _ | split

theorem kept_outSend {s₀ : State} (s : State) (asid : Nat) (k : Binding) (w : Option Int) (h_s : s₀.Keeps s) :
    s₀.Keeps (s.outSend asid k w) := by
  unfold State.outSend
  with_reducible
    repeat' first | assumption | apply kept_deliverInv | apply kept_modCtx | apply kept_wmadv | apply kept_sclose | intro _
                  | split | dsimp only

theorem kept_outAdvance {s₀ : State} (s : State) (asid b : Nat) (h_s : s₀.Keeps s) :
    s₀.Keeps (s.outAdvance asid b) := by
  unfold State.outAdvance
  with_reducible
    repeat' first | assumption | apply kept_modBinding | apply kept_outSend | apply kept_bindStatus | refine kept_foldl ?_ ?_
                  | refine kept_foldl_fst ?_ ?_ | intro _ | split | dsimp only

theorem kept_toBin {s₀ : State} (s : State) (asid b : Nat) (k : Binding) (slot : Nat) (w : Window) (src : Nat) (bytes : List Byte) (bad : Bool) (h_s : s₀.Keeps s) :
    s₀.Keeps (s.toBin asid b k slot w src bytes bad) := by
  unfold State.toBin
  with_reducible
    repeat' first | assumption | apply kept_putData | apply kept_modBinding

theorem kept_deadLetter {s₀ : State} (s : State) (asid b : Nat) (k : Binding) (src : Nat) (bytes : List Byte) (bad : Bool) (h_s : s₀.Keeps s) :
    s₀.Keeps (s.deadLetter asid b k src bytes bad) := by
  unfold State.deadLetter
  with_reducible
    repeat' first | assumption | apply kept_deliverInv | apply kept_append | apply kept_modBinding | intro _ | split
                  | dsimp only

theorem kept_place {s₀ : State} (s : State) (asid b src : Nat) (bytes : List Byte) (bad : Bool) (h_s : s₀.Keeps s) :
    s₀.Keeps (s.place asid b src bytes bad) := by
  unfold State.place
  with_reducible
    repeat' first | assumption | apply kept_modBinding | apply kept_toBin | apply kept_deadLetter | apply kept_bindStatus
                  | refine kept_foldl ?_ ?_ | refine kept_foldl_fst ?_ ?_ | intro _ | split

theorem kept_notePublished {s₀ : State} (s : State) (grid asid b slot : Nat) (h_s : s₀.Keeps s) :
    s₀.Keeps (s.notePublished grid asid b slot) := by
  unfold State.notePublished
  with_reducible
    repeat' first | assumption | apply kept_modGrid | apply kept_modBinding | apply kept_outAdvance | intro _ | split
                  | dsimp only

theorem kept_checkRecord {s₀ : State} (s : State) (die asid : Nat) (x : Ctx) (n : Nat) (h_s : s₀.Keeps s) :
    s₀.Keeps (s.checkRecord die asid x n).1 := by
  unfold State.checkRecord
  with_reducible
    repeat' first | assumption | apply kept_unitCheck | intro _ | split | dsimp only

theorem kept_startGrid {s₀ : State} (s : State) (asid : Nat) (r : LaunchRec) (origin : Origin) (pred : Option Nat) (failed : Bool) (h_s : s₀.Keeps s) :
    s₀.Keeps (s.startGrid asid r origin pred failed) := by
  unfold State.startGrid
  with_reducible
    repeat' first | assumption | intro _ | split | dsimp only

theorem kept_takeWays {s₀ : State} (s : State) (core n : Nat) (h_s : s₀.Keeps s) :
    s₀.Keeps (s.takeWays core n).1 := by
  unfold State.takeWays
  with_reducible
    repeat' first | assumption | apply kept_l1Evict | refine kept_foldl ?_ ?_ | refine kept_foldl_fst ?_ ?_ | intro _

theorem kept_placeGroup {s₀ : State} (s : State) (grid : Nat) (d : Grid) (index gang member core : Nat) (h_s : s₀.Keeps s) :
    s₀.Keeps (s.placeGroup grid d index gang member core) := by
  unfold State.placeGroup
  with_reducible
    repeat' first | assumption | apply kept_takeWays | apply kept_acquire | apply kept_modCtx | apply kept_activate
                  | refine kept_foldl ?_ ?_ | refine kept_foldl_fst ?_ ?_ | intro _

theorem kept_dispatch {s₀ : State} (s : State) (grid : Nat) (d : Grid) (core : Nat) (h_s : s₀.Keeps s) :
    s₀.Keeps (s.dispatch grid d core) := by
  unfold State.dispatch
  with_reducible
    repeat' first | assumption | apply kept_placeGroup | apply kept_modGrid | refine kept_foldl ?_ ?_
                  | refine kept_foldl_fst ?_ ?_ | intro _

theorem kept_noteWait {s₀ : State} (s : State) (n : Nat) (d : Grid) (h_s : s₀.Keeps s) :
    s₀.Keeps (s.noteWait n d) := by
  unfold State.noteWait
  with_reducible
    repeat' first | assumption | apply kept_modGrid | intro _ | split

theorem kept_fpLanes {s₀ : State} (s : State) (c : Cur) (f : Lane → FpLane) (h_s : s₀.Keeps s) :
    s₀.Keeps (s.fpLanes c f) := by
  unfold State.fpLanes
  with_reducible
    repeat' first | assumption | apply kept_modTeam | apply kept_advance | apply kept_takeTrap | intro _ | split | dsimp only

theorem kept_lanewise {s₀ : State} (s : State) (c : Cur) (f : Nat → Lane → Lane) (h_s : s₀.Keeps s) :
    s₀.Keeps (s.lanewise c f) := by
  unfold State.lanewise
  with_reducible
    repeat' first | assumption | apply kept_modTeam | apply kept_advance

theorem kept_v2 {s₀ : State} (s : State) (c : Cur) (d a : BitVec 6) (f : Word → Word) (h_s : s₀.Keeps s) :
    s₀.Keeps (s.v2 c d a f) := by
  unfold State.v2
  with_reducible
    repeat' first | assumption | apply kept_lanewise

theorem kept_v3 {s₀ : State} (s : State) (c : Cur) (d a b : BitVec 6) (f : Word → Word → Word) (h_s : s₀.Keeps s) :
    s₀.Keeps (s.v3 c d a b f) := by
  unfold State.v3
  with_reducible
    repeat' first | assumption | apply kept_lanewise

theorem kept_v4 {s₀ : State} (s : State) (c : Cur) (d a b : BitVec 6) (f : Word → Word → Word → Word) (h_s : s₀.Keeps s) :
    s₀.Keeps (s.v4 c d a b f) := by
  unfold State.v4
  with_reducible
    repeat' first | assumption | apply kept_lanewise

theorem kept_v3w {s₀ : State} (s : State) (c : Cur) (d a b : BitVec 6) (f : Word → Word → Dbl) (h_s : s₀.Keeps s) :
    s₀.Keeps (s.v3w c d a b f) := by
  unfold State.v3w
  with_reducible
    repeat' first | assumption | apply kept_lanewise

theorem kept_w2v {s₀ : State} (s : State) (c : Cur) (d a b : BitVec 6) (f : Dbl → Word → Dbl) (h_s : s₀.Keeps s) :
    s₀.Keeps (s.w2v c d a b f) := by
  unfold State.w2v
  with_reducible
    repeat' first | assumption | apply kept_lanewise

theorem kept_w3 {s₀ : State} (s : State) (c : Cur) (d a b : BitVec 6) (f : Dbl → Dbl → Dbl) (h_s : s₀.Keeps s) :
    s₀.Keeps (s.w3 c d a b f) := by
  unfold State.w3
  with_reducible
    repeat' first | assumption | apply kept_lanewise

theorem kept_toP {s₀ : State} (s : State) (c : Cur) (d : BitVec 6) (f : Lane → Bool) (h_s : s₀.Keeps s) :
    s₀.Keeps (s.toP c d f) := by
  unfold State.toP
  with_reducible
    repeat' first | assumption | apply kept_lanewise

theorem kept_uniform {s₀ : State} (s : State) (c : Cur) (f : Path → Path) (h_s : s₀.Keeps s) :
    s₀.Keeps (s.uniform c f) := by
  unfold State.uniform
  with_reducible
    repeat' first | assumption | apply kept_modPath | apply kept_advance | intro _ | split

theorem kept_s3 {s₀ : State} (s : State) (c : Cur) (d a b : BitVec 6) (f : Word → Word → Word) (h_s : s₀.Keeps s) :
    s₀.Keeps (s.s3 c d a b f) := by
  unfold State.s3
  with_reducible
    repeat' first | assumption | apply kept_uniform

theorem kept_checkG {s₀ : State} (s : State) (c : Cur) (x : Ctx) (va n : Nat) (acc : Access) (h_s : s₀.Keeps s) :
    s₀.Keeps (s.checkG c x va n acc).1 := by
  unfold State.checkG
  with_reducible
    repeat' first | assumption | apply kept_translate | intro _ | split | dsimp only

theorem kept_checkP {s₀ : State} (s : State) (c : Cur) (x : Ctx) (l off n : Nat) (acc : Access) (h_s : s₀.Keeps s) :
    s₀.Keeps (s.checkP c x l off n acc).1 := by
  unfold State.checkP
  with_reducible
    repeat' first | assumption | apply kept_translate | refine kept_foldl ?_ ?_ | refine kept_foldl_fst ?_ ?_ | intro _
                  | split | dsimp only

theorem kept_checkLanes {s₀ : State} (s : State) (ls : List Nat) (chk : State → Nat → State × Checked) (h_s : s₀.Keeps s) (h_chk : ∀ (chk0 : State) (chk1 : Nat), s₀.Keeps chk0 → s₀.Keeps (chk chk0 chk1).1) :
    s₀.Keeps (s.checkLanes ls chk).1 := by
  unfold State.checkLanes
  with_reducible
    repeat' first | assumption | refine kept_foldl ?_ ?_ | refine kept_foldl_fst ?_ ?_ | apply h_chk | intro _

theorem kept_perform {s₀ : State} (s : State) (ls : List (Nat × List Piece)) (f : State → Nat → List Piece → State × LaneOut) (h_s : s₀.Keeps s) (h_f : ∀ (f0 : State) (f1 : Nat) (f2 : List Piece), s₀.Keeps f0 → s₀.Keeps (f f0 f1 f2).1) :
    s₀.Keeps (s.perform ls f).1 := by
  unfold State.perform
  with_reducible
    repeat' first | assumption | refine kept_foldl ?_ ?_ | refine kept_foldl_fst ?_ ?_ | apply h_f | intro _

theorem kept_laneTrap {s₀ : State} (s : State) (r : Ref) (bad : List (Nat × LaneFault)) (h_s : s₀.Keeps s) :
    s₀.Keeps (s.laneTrap r bad) := by
  unfold State.laneTrap
  with_reducible
    repeat' first | assumption | apply kept_takeTrap | intro _ | split

theorem kept_holdDone {s₀ : State} (s : State) (r : Ref) (k : Nat) (bits : LaneSet) (h_s : s₀.Keeps s) :
    s₀.Keeps (s.holdDone r k bits) := by
  unfold State.holdDone
  with_reducible
    repeat' first | assumption | apply kept_modTeam | apply kept_modPath

theorem kept_askRead {s₀ : State} (s : State) (r : Ref) (clause : Nat) (lane : Nat) (k : Nat × Nat) (h_s : s₀.Keeps s) :
    s₀.Keeps (s.askRead r clause lane k) := by
  unfold State.askRead
  with_reducible
    repeat' first | assumption | apply kept_id | intro _ | split | dsimp only

theorem kept_hostFetch {s₀ : State} (s : State) (r : Ref) (clause lane pa n : Nat) (h_s : s₀.Keeps s) :
    s₀.Keeps (s.hostFetch r clause lane pa n).1 := by
  unfold State.hostFetch
  with_reducible
    repeat' first | assumption | apply kept_askRead | refine kept_foldl ?_ ?_ | refine kept_foldl_fst ?_ ?_ | intro _ | split
                  | dsimp only

theorem kept_hostTaken {s₀ : State} (s : State) (r : Ref) (lane : Nat) (h_s : s₀.Keeps s) :
    s₀.Keeps (s.hostTaken r lane) := by
  unfold State.hostTaken
  exact h_s

theorem kept_hostLane {s₀ : State} (s : State) (c : Cur) (l : Nat) (ps : List Piece) (h_s : s₀.Keeps s) :
    s₀.Keeps (s.hostLane c l ps).1 := by
  unfold State.hostLane
  with_reducible
    repeat' first | assumption | apply kept_hostFetch | refine kept_foldl ?_ ?_ | refine kept_foldl_fst ?_ ?_ | intro _
                  | split

theorem kept_hostAll {s₀ : State} (s : State) (c : Cur) (ls : List (Nat × List Piece)) (h_s : s₀.Keeps s) :
    s₀.Keeps (s.hostAll c ls).1 := by
  unfold State.hostAll
  with_reducible
    repeat' first | assumption | apply kept_hostLane | apply kept_hostTaken | refine kept_foldl ?_ ?_
                  | refine kept_foldl_fst ?_ ?_ | intro _ | split | dsimp only

theorem kept_relFor {s₀ : State} (s : State) (c : Cur) (rel : Option Nat) (h_s : s₀.Keeps s) :
    s₀.Keeps (s.relFor c rel) := by
  unfold State.relFor
  with_reducible
    repeat' first | assumption | apply kept_release | intro _ | split | dsimp only

theorem kept_acqFor {s₀ : State} (s : State) (c : Cur) (acq : Option Nat) (h_s : s₀.Keeps s) :
    s₀.Keeps (s.acqFor c acq) := by
  unfold State.acqFor
  with_reducible
    repeat' first | assumption | apply kept_acquire | intro _ | split | dsimp only

theorem kept_addOp {s₀ : State} (s : State) (r : Ref) (clause : Nat) (op : Nat) (h_s : s₀.Keeps s) :
    s₀.Keeps (s.addOp r clause op) := by
  unfold State.addOp
  with_reducible
    repeat' first | assumption | apply kept_modTeam | intro _ | split | dsimp only

theorem kept_noteRing {s₀ : State} (s : State) (asid : Nat) (r : Ref) (ps : List Piece) (h_s : s₀.Keeps s) :
    s₀.Keeps (s.noteRing asid r ps) := by
  unfold State.noteRing
  with_reducible
    repeat' first | assumption | apply kept_modCtx | refine kept_foldl ?_ ?_ | refine kept_foldl_fst ?_ ?_ | intro _
                   | split | dsimp only

theorem kept_runLane {s₀ : State} (s : State) (c : Cur) (h : How) (a : LaneArg) (ps : List Piece) (h_s : s₀.Keeps s) :
    s₀.Keeps (s.runLane c h a ps).1 := by
  unfold State.runLane
  with_reducible
    repeat' first | assumption | apply kept_doPiece | refine kept_foldl ?_ ?_ | refine kept_foldl_fst ?_ ?_ | intro _
                   | split | dsimp only

theorem kept_run {s₀ : State} (k : Restart) (c : Cur) (s : State) (l : Nat) (ps : List Piece) (h_k : k.Keeps s₀) (h_s : s₀.Keeps s) :
    s₀.Keeps (Restart.run k c s l ps).1 := by
  unfold Restart.run
  with_reducible
    repeat' first | assumption | apply kept_catchUp | apply kept_noteRing | apply kept_runLane | apply h_k.check | intro _
                   | split | dsimp only

theorem kept_askPieces {s₀ : State} (s : State) (c : Cur) (op : Nat) (l : LaneAcc) (h_s : s₀.Keeps s) :
    s₀.Keeps (s.askPieces c op l) := by
  unfold State.askPieces
  with_reducible
    repeat' first | assumption | apply kept_id | refine kept_foldl ?_ ?_ | refine kept_foldl_fst ?_ ?_ | intro _ | split
                   | dsimp only

theorem kept_issueLanes {s₀ : State} (s : State) (c : Cur) (k : Restart) (mask : Option Nat) (ends : Bool) (ls : List (Nat × List Piece)) (outs : List (Nat × LaneOut)) (h_s : s₀.Keeps s) (h_k : k.Keeps s₀) :
    s₀.Keeps (s.issueLanes c k mask ends ls outs) := by
  unfold State.issueLanes
  with_reducible
    repeat' first | assumption | apply kept_id | apply kept_catchUp | apply kept_noteRing | apply kept_addOp
                   | apply kept_askPieces | refine kept_foldl ?_ ?_ | refine kept_foldl_fst ?_ ?_ | apply h_k.check
                   | intro _ | split | dsimp only

theorem kept_goLanes {s₀ : State} (s : State) (c : Cur) (k : Restart) (m : Mode) (mask : Option Nat) (ends : Bool) (fit : List (Nat × List Piece)) (zeros : List (Nat × LaneOut)) (h_s : s₀.Keeps s) (h_k : k.Keeps s₀) :
    s₀.Keeps (s.goLanes c k m mask ends fit zeros) := by
  unfold State.goLanes
  with_reducible
    repeat' first | assumption | apply kept_perform | apply kept_run | apply kept_landOuts | apply kept_issueLanes
                   | apply h_k.check | intro _ | split | dsimp only

theorem kept_keepDone {s₀ : State} (s : State) (r : Ref) (k : Nat) (bits : LaneSet) (h_s : s₀.Keeps s) :
    s₀.Keeps (s.keepDone r k bits) := by
  unfold State.keepDone
  with_reducible
    repeat' first | assumption | apply kept_modTeam | apply kept_modPath | intro _ | split | dsimp only

theorem kept_restartable {s₀ : State} (s : State) (c : Cur) (k : Restart) (h_s : s₀.Keeps s) (h_k : k.Keeps s₀) :
    s₀.Keeps (s.restartable c k) := by
  unfold State.restartable
  with_reducible
    repeat' first | assumption | apply kept_flush | apply kept_relFor | apply kept_checkLanes | apply kept_holdDone
                   | apply kept_laneTrap | apply kept_goLanes | apply kept_acqFor | apply kept_freeDone
                   | apply kept_advance | apply kept_keepDone | apply h_k.check | intro _ | split | dsimp only

theorem kept_allOrNone {s₀ : State} (s : State) (c : Cur) (chk : State → Nat → State × Checked) (poison : State → List Piece → Bool) (k : State → List (Nat × List Piece) → State) (h_s : s₀.Keeps s) (h_chk : ∀ (chk0 : State) (chk1 : Nat), s₀.Keeps chk0 → s₀.Keeps (chk chk0 chk1).1) (h_k : ∀ (k0 : State) (k1 : List (Nat × List Piece)), s₀.Keeps k0 → s₀.Keeps (k k0 k1)) :
    s₀.Keeps (s.allOrNone c chk poison k) := by
  unfold State.allOrNone
  with_reducible
    repeat' first | assumption | apply kept_checkLanes | apply kept_laneTrap | apply h_chk | apply h_k | intro _ | split
                  | dsimp only

theorem kept_goAll {s₀ : State} (s : State) (c : Cur) (k : Restart) (ps : List (Nat × List Piece)) (zeros : List (Nat × LaneOut)) (h_s : s₀.Keeps s) (h_k : k.Keeps s₀) :
    s₀.Keeps (s.goAll c k ps zeros) := by
  unfold State.goAll
  with_reducible
    repeat' first | assumption | apply kept_relFor | apply kept_goLanes | apply kept_acqFor | apply kept_advance
                   | apply h_k.check | intro _ | split | dsimp only

theorem kept_tensor {s₀ : State} (s : State) (c : Cur) (x : Ctx) (id : Nat) (h_s : s₀.Keeps s) :
    s₀.Keeps (s.tensor c x id).1 := by
  unfold State.tensor
  with_reducible
    repeat' first | assumption | apply kept_id | apply kept_translate | apply kept_hostFetch | apply kept_hostTaken
                  | apply kept_dieRead | apply kept_modCore | intro _ | split | dsimp only

theorem kept_tensorTrap {s₀ : State} (s : State) (r : Ref) (f : TensorFault) (h_s : s₀.Keeps s) :
    s₀.Keeps (s.tensorTrap r f) := by
  unfold State.tensorTrap
  with_reducible
    repeat' first | assumption | apply kept_takeTrap

theorem kept_withTensor {s₀ : State} (s : State) (c : Cur) (k : Ctx) (id : Nat) (ok : Tensor → Bool) (f : State → Option Tensor → State) (h_s : s₀.Keeps s) (h_f : ∀ (f0 : State) (f1 : Option Tensor), s₀.Keeps f0 → s₀.Keeps (f f0 f1)) :
    s₀.Keeps (s.withTensor c k id ok f) := by
  unfold State.withTensor
  with_reducible
    repeat' first | assumption | apply kept_id | apply kept_tensor | apply kept_tensorTrap | apply h_f | intro _ | split
                  | dsimp only

theorem kept_checkElem {s₀ : State} (s : State) (c : Cur) (x : Ctx) (t : Option Tensor) (is : List Int) (acc : Access) (h_s : s₀.Keeps s) :
    s₀.Keeps (s.checkElem c x t is acc).1 := by
  unfold State.checkElem
  with_reducible
    repeat' first | assumption | apply kept_checkG | intro _ | split

theorem kept_checkMany {s₀ : State} {α : Type} (s : State) (l : List α) (chk : State → α → State × Checked) (h_s : s₀.Keeps s) (h_chk : ∀ (chk0 : State) (chk1 : α), s₀.Keeps chk0 → s₀.Keeps (chk chk0 chk1).1) :
    s₀.Keeps (s.checkMany l chk).1 := by
  unfold State.checkMany
  with_reducible
    repeat' first | assumption | refine kept_foldl ?_ ?_ | refine kept_foldl_fst ?_ ?_ | apply h_chk | intro _ | split
                  | dsimp only

theorem kept_matrix {s₀ : State} (s : State) (c : Cur) (f : Lane → Option LaneOut) (h_s : s₀.Keeps s) :
    s₀.Keeps (s.matrix c f) := by
  unfold State.matrix
  with_reducible
    repeat' first | assumption | apply kept_landOuts | apply kept_advance | apply kept_takeTrap | intro _ | split
                  | dsimp only

theorem kept_matrixTo {s₀ : State} (s : State) (c : Cur) (d : BitVec 6) (f : Lane → Option Mat) (h_s : s₀.Keeps s) :
    s₀.Keeps (s.matrixTo c d f) := by
  unfold State.matrixTo
  with_reducible
    repeat' first | assumption | apply kept_matrix

theorem kept_checkRows {s₀ : State} (s : State) (c : Cur) (x : Ctx) (o : OpG) (l r k size : Nat) (acc : Access) (h_s : s₀.Keeps s) :
    s₀.Keeps (s.checkRows c x o l r k size acc).1 := by
  unfold State.checkRows
  with_reducible
    repeat' first | assumption | apply kept_checkMany | apply kept_checkG | intro _ | split | dsimp only

theorem kept_shaped {s₀ : State} (s : State) (c : Cur) (shape : Lane → Option Mat) (k : (Nat → Mat) → Restart) (h_s : s₀.Keeps s) (h_k : ∀ (k0 : (Nat → Mat)), (k k0).Keeps s₀) :
    s₀.Keeps (s.shaped c shape k) := by
  unfold State.shaped
  with_reducible
    repeat' first | assumption | apply kept_restartable | apply kept_takeTrap | apply h_k | intro _ | split | dsimp only

theorem keeps_matLoad {s₀ : State} (c : Cur) (o : OpG) (m : Nat → Mat) (how : How) (acq : Option Nat) (check : State → Nat → Mat → State × Checked) (h_check : ∀ (check0 : State) (check1 : Nat) (check2 : Mat), s₀.Keeps check0 → s₀.Keeps (check check0 check1 check2).1) :
    (Cur.matLoad c o m how acq check).Keeps s₀ := ⟨fun _ _ h => h_check _ _ _ h⟩

theorem keeps_matStore {s₀ : State} (m : Nat → Mat) (rel : Option Nat) (rank : Nat) (check : State → Nat → Mat → State × Checked) (h_check : ∀ (check0 : State) (check1 : Nat) (check2 : Mat), s₀.Keeps check0 → s₀.Keeps (check check0 check1 check2).1) :
    (Cur.matStore m rel rank check).Keeps s₀ := ⟨fun _ _ h => h_check _ _ _ h⟩

theorem kept_withCtx {s₀ : State} (s : State) (c : Cur) (k : Ctx → State) (h_s : s₀.Keeps s) (h_k : ∀ (k0 : Ctx), s₀.Keeps (k k0)) :
    s₀.Keeps (s.withCtx c k) := by
  unfold State.withCtx
  with_reducible
    repeat' first | assumption | apply h_k | intro _ | split

theorem kept_checkWeight {s₀ : State} (s : State) (c : Cur) (k : Ctx) (t : Option Tensor) (is : List Int) (h_s : s₀.Keeps s) :
    s₀.Keeps (s.checkWeight c k t is).1 := by
  unfold State.checkWeight
  with_reducible
    repeat' first | assumption | apply kept_checkMany | apply kept_checkG | intro _ | split

theorem keeps_load {s₀ : State} (c : Cur) (o : OpG) (x : XMem) (k : Ctx) (how : How) (grain : Nat) (check : State → Nat → State × Checked) (h_check : ∀ (check0 : State) (check1 : Nat), s₀.Keeps check0 → s₀.Keeps (check check0 check1).1) :
    (Cur.load c o x k how grain check).Keeps s₀ := ⟨fun _ _ h => h_check _ _ h⟩

theorem keeps_store {s₀ : State} (c : Cur) (o : OpG) (x : XMem) (k : Ctx) (through : Bool) (grain : Nat) (check : State → Nat → State × Checked) (h_check : ∀ (check0 : State) (check1 : Nat), s₀.Keeps check0 → s₀.Keeps (check check0 check1).1) :
    (Cur.store c o x k through grain check).Keeps s₀ := ⟨fun _ _ h => h_check _ _ h⟩

theorem keeps_atomAcc {s₀ : State} (c : Cur) (o : OpG) (x : XAtm) (k : Ctx) (ret : Bool) (check : State → Nat → State × Checked) (h_check : ∀ (check0 : State) (check1 : Nat), s₀.Keeps check0 → s₀.Keeps (check check0 check1).1) :
    (Cur.atomAcc c o x k ret check).Keeps s₀ := ⟨fun _ _ h => h_check _ _ h⟩

theorem kept_checkAtom {s₀ : State} (s : State) (c : Cur) (k : Ctx) (o : OpG) (x : XAtm) (ret : Bool) (l : Nat) (h_s : s₀.Keeps s) :
    s₀.Keeps (s.checkAtom c k o x ret l).1 := by
  unfold State.checkAtom
  with_reducible
    repeat' first | assumption | apply kept_checkG | intro _ | split | dsimp only

theorem kept_atomic {s₀ : State} (s : State) (c : Cur) (k : Ctx) (o : OpG) (x : XAtm) (ret : Bool) (check : State → Nat → State × Checked) (h_s : s₀.Keeps s) (h_check : ∀ (check0 : State) (check1 : Nat), s₀.Keeps check0 → s₀.Keeps (check check0 check1).1) :
    s₀.Keeps (s.atomic c k o x ret check) := by
  unfold State.atomic
  with_reducible
    repeat' first | assumption | apply kept_allOrNone | apply kept_goAll | apply h_check | apply keeps_atomAcc | intro _ | split | dsimp only

theorem kept_checkCell {s₀ : State} (s : State) (c : Cur) (k : Ctx) (o : OpG) (x : XMem) (acc : Access) (l : Nat) (h_s : s₀.Keeps s) :
    s₀.Keeps (s.checkCell c k o x acc l).1 := by
  unfold State.checkCell
  with_reducible
    repeat' first | assumption | apply kept_checkG | intro _ | split | dsimp only

theorem kept_eachLine {s₀ : State} (s : State) (c : Cur) (k : Ctx) (o : OpG) (x : XMem) (ls : List Nat) (f : State → Nat → Attr → State) (h_s : s₀.Keeps s) (h_f : ∀ (f0 : State) (f1 : Nat) (f2 : Attr), s₀.Keeps f0 → s₀.Keeps (f f0 f1 f2)) :
    s₀.Keeps (s.eachLine c k o x ls f) := by
  unfold State.eachLine
  with_reducible
    repeat' first | assumption | apply kept_translate | refine kept_foldl ?_ ?_ | refine kept_foldl_fst ?_ ?_ | apply h_f
                  | intro _ | split | dsimp only

theorem kept_askRdc {s₀ : State} (s : State) (die line : Nat) (low : Bool) (h_s : s₀.Keeps s) :
    s₀.Keeps (s.askRdc die line low) := by
  unfold State.askRdc
  with_reducible
    repeat' first | assumption | apply kept_fillSectors | apply kept_modDir

theorem kept_atBar {s₀ : State} (s : State) (c : Cur) (o : OpG) (k : Nat → Nat → State) (h_s : s₀.Keeps s) (h_k : ∀ (k0 : Nat) (k1 : Nat), s₀.Keeps (k k0 k1)) :
    s₀.Keeps (s.atBar c o k) := by
  unfold State.atBar
  with_reducible
    repeat' first | assumption | apply kept_takeTrap | apply h_k | intro _ | split

theorem kept_ifSound {s₀ : State} (s : State) (c : Cur) (gid off : Nat) (k : State) (h_s : s₀.Keeps s) (h_k : s₀.Keeps k) :
    s₀.Keeps (s.ifSound c gid off k) := by
  unfold State.ifSound
  with_reducible
    repeat' first | assumption | apply kept_takeTrap | intro _ | split

theorem kept_setMarker {s₀ : State} (s : State) (c : Cur) (k : Nat) (name : BitVec 64) (h_s : s₀.Keeps s) :
    s₀.Keeps (s.setMarker c k name) := by
  unfold State.setMarker
  with_reducible
    repeat' first | assumption | apply kept_modTeam | apply kept_release | apply kept_modCtx | intro _ | split | dsimp only

theorem kept_fetchWord {s₀ : State} (s : State) (c : Cur) (x : Ctx) (va : Nat) (h_s : s₀.Keeps s) :
    s₀.Keeps (s.fetchWord c x va).1 := by
  unfold State.fetchWord
  with_reducible
    repeat' first | assumption | apply kept_translate | apply kept_hostFetch | apply kept_pathRead | intro _ | split
                  | dsimp only

theorem kept_fetchClause {s₀ : State} (s : State) (c : Cur) (x : Ctx) (z0 : Nat) (z1 : Nat) (z2 : List Word) (h_s : s₀.Keeps s) :
    s₀.Keeps (s.fetchClause c x z0 z1 z2).1 := by
  induction z0 generalizing s z1 z2 with
  | zero => exact h_s
  | succ n ih =>
    unfold State.fetchClause
    with_reducible
      repeat' first | assumption | apply ih | apply kept_fetchWord | split | dsimp only


theorem kept_takeWatchdog {s₀ : State} (s : State) (c : Cur) (h_s : s₀.Keeps s) :
    s₀.Keeps (s.takeWatchdog c) := by
  unfold State.takeWatchdog
  with_reducible
    repeat' first | assumption | apply kept_modTeam | apply kept_modGrid | apply kept_takeTrap | intro _ | split
                   | dsimp only

theorem kept_startClause {s₀ : State} (s : State) (c : Cur) (h : Word) (ws : List Word) (h_s : s₀.Keeps s) :
    s₀.Keeps (s.startClause c h ws) := by
  unfold State.startClause
  with_reducible
    repeat' first | assumption | apply kept_id | apply kept_modTeam | intro _ | split | dsimp only

theorem kept_branch {s₀ : State} (s : State) (c : Cur) (target : Int) (aligned : Bool) (write : Path → Path) (h_s : s₀.Keeps s) :
    s₀.Keeps (s.branch c target aligned write) := by
  unfold State.branch
  with_reducible
    repeat' first | assumption | apply kept_uniform | apply kept_takeTrap | apply kept_jump | apply kept_modPath | intro _
                  | split

theorem kept_forkOwed {s₀ : State} (s : State) (r : Ref) (h_s : s₀.Keeps s) :
    s₀.Keeps (s.forkOwed r) := by
  unfold State.forkOwed
  with_reducible
    repeat' first | assumption | intro _ | split | dsimp only

theorem kept_spill {s₀ : State} (s : State) (c : Cur) (h_s : s₀.Keeps s) :
    s₀.Keeps (s.spill c) := by
  unfold State.spill
  with_reducible
    repeat' first | assumption | apply kept_put | intro _ | split | dsimp only

theorem kept_mergeOwed {s₀ : State} (s : State) (gid : Nat) (role : Nat) (h_s : s₀.Keeps s) :
    s₀.Keeps (s.mergeOwed gid role) := by
  unfold State.mergeOwed
  with_reducible
    repeat' first | assumption | apply kept_park | intro _ | split | dsimp only

theorem kept_dropHandler {s₀ : State} (s : State) (c : Cur) (h_s : s₀.Keeps s) :
    s₀.Keeps (s.dropHandler c) := by
  unfold State.dropHandler
  with_reducible
    repeat' first | assumption | apply kept_freeFrame | apply kept_modTeam | intro _ | split | dsimp only

theorem kept_withdraw {s₀ : State} (s : State) (t : TRef) (h_s : s₀.Keeps s) :
    s₀.Keeps (s.withdraw t) := by
  unfold State.withdraw
  with_reducible
    repeat' first | assumption | apply kept_modTeam | intro _ | split | dsimp only

theorem kept_swapTeams {s₀ : State} (s : State) (core : Nat) (leaves : TRef) (enters : TRef) (h_s : s₀.Keeps s) :
    s₀.Keeps (s.swapTeams core leaves enters) := by
  unfold State.swapTeams
  with_reducible
    repeat' first | assumption | apply kept_modCore | apply kept_withdraw | intro _ | split | dsimp only

theorem kept_answerLeave {s₀ : State} (s : State) (c : Cur) (h_s : s₀.Keeps s) :
    s₀.Keeps (s.answerLeave c) := by
  unfold State.answerLeave
  with_reducible
    repeat' first | assumption | apply kept_leaveExcess | apply kept_modPath | apply kept_modDie | intro _ | split
                   | dsimp only

theorem kept_stretchUp {s₀ : State} (s : State) (die : Nat) (h_s : s₀.Keeps s) :
    s₀.Keeps (s.stretchUp die) := by
  unfold State.stretchUp
  with_reducible
    repeat' first | assumption | apply kept_modDie

theorem kept_expire {s₀ : State} (s : State) (id : Nat) (h_s : s₀.Keeps s) :
    s₀.Keeps (s.expire id) := by
  unfold State.expire
  with_reducible
    repeat' first | assumption | apply kept_id | apply kept_modGrid | apply kept_place | apply kept_terminateGrid
                  | apply kept_modGroup | refine kept_foldl ?_ ?_ | refine kept_foldl_fst ?_ ?_ | intro _ | split
                  | dsimp only

theorem kept_latch {s₀ : State} (s : State) (c : Cur) (ix : Nat) (h_s : s₀.Keeps s) :
    s₀.Keeps (s.latch c ix) := by
  unfold State.latch
  with_reducible
    repeat' first | assumption | apply kept_modPath | intro _ | split

theorem kept_trapN {s₀ : State} (s : State) (c : Cur) (n : Nat) (h_s : s₀.Keeps s) :
    s₀.Keeps (s.trapN c n) := by
  unfold State.trapN
  with_reducible
    repeat' first | assumption | apply kept_advance | apply kept_takeTrap | intro _ | split

theorem kept_invalidate23 {s₀ : State} (s : State) (k : InvKind) (who : InvalFor) (h_s : s₀.Keeps s) :
    s₀.Keeps (s.invalidate23 k who) := by
  unfold State.invalidate23
  with_reducible
    repeat' first | assumption | apply kept_id | apply kept_invalidateTlb

theorem kept_tlbinv {s₀ : State} (s : State) (c : Cur) (k : InvKind) (h_s : s₀.Keeps s) :
    s₀.Keeps (s.tlbinv c k) := by
  unfold State.tlbinv
  with_reducible
    repeat' first | assumption | apply kept_id | apply kept_advance | apply kept_invalidateTlb | apply kept_invalidate23
                  | apply kept_addOp | intro _ | split

theorem kept_invalsDone {s₀ : State} (s : State) (h_s : s₀.Keeps s) :
    s₀.Keeps (s.invalsDone) := by
  unfold State.invalsDone
  with_reducible
    repeat' first | assumption | apply kept_id | apply kept_opDone | refine kept_foldl ?_ ?_ | refine kept_foldl_fst ?_ ?_
                  | intro _ | split

theorem kept_emulationFault {s₀ : State} (s : State) (c : Cur) (f : State → State) (h_s : s₀.Keeps s) (h_f : ∀ (f0 : State), s₀.Keeps f0 → s₀.Keeps (f f0)) :
    s₀.Keeps (s.emulationFault c f) := by
  unfold State.emulationFault
  with_reducible
    repeat' first | assumption | apply kept_modTeam | apply h_f

theorem kept_emulated {s₀ : State} (s : State) (c : Cur) (tr : Trap) (f : Lane → Lane) (h_s : s₀.Keeps s) :
    s₀.Keeps (s.emulated c tr f) := by
  unfold State.emulated
  with_reducible
    repeat' first | assumption | apply kept_modTeam | apply kept_resumeTrap

theorem kept_emulateLdro {s₀ : State} (s : State) (c : Cur) (tr : Trap) (k : Ctx) (o : OpG) (x : XMem) (h_s : s₀.Keeps s) :
    s₀.Keeps (s.emulateLdro c tr k o x) := by
  unfold State.emulateLdro
  with_reducible
    repeat' first | assumption | apply kept_checkLanes | apply kept_checkG | apply kept_emulationFault | apply kept_laneTrap
                  | apply kept_hostAll | apply kept_perform | apply kept_readAll | apply kept_readPiece | apply kept_landOuts
                  | apply kept_resumeTrap | intro _ | split | dsimp only

theorem kept_checkRecordLane {s₀ : State} (s : State) (c : Cur) (x : Ctx) (k : Source) (o : OpG) (l i : Nat) (h_s : s₀.Keeps s) :
    s₀.Keeps (s.checkRecordLane c x k o l i).1 := by
  unfold State.checkRecordLane
  with_reducible
    repeat' first | assumption | apply kept_translate | intro _ | split | dsimp only

theorem kept_sourceOp {s₀ : State} (s : State) (c : Cur) (k : Ctx) (x : XAsy) (f : State → State) (h_s : s₀.Keeps s) (h_f : ∀ (f0 : State), s₀.Keeps f0 → s₀.Keeps (f f0)) :
    s₀.Keeps (s.sourceOp c k x f) := by
  unfold State.sourceOp
  with_reducible
    repeat' first | assumption | apply kept_release | apply kept_advance | apply kept_takeTrap | apply h_f | intro _ | split

theorem kept_publish {s₀ : State} (s : State) (c : Cur) (k : Ctx) (scope : BitVec 5) (h_s : s₀.Keeps s) :
    s₀.Keeps (s.publish c k scope) := by
  unfold State.publish
  with_reducible
    repeat' first | assumption | apply kept_release | apply kept_advance | apply kept_translate | apply kept_takeTrap
                  | apply kept_storeThrough | apply kept_notePublished | intro _ | split | dsimp only

theorem kept_stopBinding {s₀ : State} (s : State) (asid b : Nat) (x : Ctx) (e : QErr) (h_s : s₀.Keeps s) :
    s₀.Keeps (s.stopBinding asid b x e) := by
  unfold State.stopBinding
  with_reducible
    repeat' first | assumption | apply kept_modBinding | apply kept_freeRings | apply kept_unitNat | apply kept_put
                  | apply kept_notify | intro _ | split

theorem kept_launchWindow {s₀ : State} (s : State) (asid : Nat) (b : Nat) (slot : Nat) (amend : Bool) (final : Bool) (h_s : s₀.Keeps s) :
    s₀.Keeps (s.launchWindow asid b slot amend final) := by
  unfold State.launchWindow
  with_reducible
    repeat' first | assumption | apply kept_id | apply kept_unitWrite | apply kept_unitNat | apply kept_stopBinding
                   | apply kept_checkRecord | apply kept_deliverInv | apply kept_modBinding | apply kept_startGrid
                   | apply kept_modGrid | intro _ | split | dsimp only

theorem kept_onlyFences {s₀ : State} (s : State) (c : Cur) (k : Ctx) (x : XAsy) (h_s : s₀.Keeps s) :
    s₀.Keeps (s.onlyFences c k x) := by
  unfold State.onlyFences
  with_reducible
    repeat' first | assumption | apply kept_release | apply kept_acquire | apply kept_advance | intro _ | split

theorem kept_async {s₀ : State} (s : State) (c : Cur) (k : Ctx) (x : XAsy) (act : State → State) (h_s : s₀.Keeps s) (h_act : ∀ (act0 : State), s₀.Keeps act0 → s₀.Keeps (act act0)) :
    s₀.Keeps (s.async c k x act) := by
  unfold State.async
  with_reducible
    repeat' first | assumption | apply kept_onlyFences | apply h_act | intro _ | split

theorem kept_operandTrap {s₀ : State} (s : State) (c : Cur) (f : LaneFault) (h_s : s₀.Keeps s) :
    s₀.Keeps (s.operandTrap c f) := by
  unfold State.operandTrap
  with_reducible
    repeat' first | assumption | apply kept_takeTrap

theorem kept_globalSectors {s₀ : State} (s : State) (core asid : Nat) (k : Ctx) (va n : Nat) (acc : Access) (h_s : s₀.Keeps s) :
    s₀.Keeps (s.globalSectors core asid k va n acc).1 := by
  unfold State.globalSectors
  with_reducible
    repeat' first | assumption | apply kept_translate | refine kept_foldl ?_ ?_ | refine kept_foldl_fst ?_ ?_ | intro _
                  | split | dsimp only

theorem kept_accept {s₀ : State} (s : State) (c : Cur) (k : Ctx) (x : XAsy) (f : State → State × OpKind × List Sector × Option (Nat × Nat)) (h_s : s₀.Keeps s) (h_f : ∀ (f0 : State), s₀.Keeps f0 → s₀.Keeps (f f0).1) :
    s₀.Keeps (s.accept c k x f) := by
  unfold State.accept
  with_reducible
    repeat' first | assumption | apply kept_id | apply kept_acquire | apply kept_addOp | apply kept_advance | apply h_f
                  | intro _ | split

theorem kept_checkRow {s₀ : State} (s : State) (c : Cur) (k : Ctx) (t : Option Tensor) (co : Nat → Int) (row cols : Nat) (h_s : s₀.Keeps s) :
    s₀.Keeps (s.checkRow c k t co row cols).1 := by
  unfold State.checkRow
  with_reducible
    repeat' first | assumption | apply kept_checkMany | apply kept_checkElem | intro _

theorem kept_tilePiece {s₀ : State} (s : State) (core asid : Nat) (p : Piece) (h_s : s₀.Keeps s) :
    s₀.Keeps (s.tilePiece core asid p).1 := by
  unfold State.tilePiece
  with_reducible
    repeat' first | assumption | apply kept_pathRead | apply kept_readPath | intro _ | split

theorem kept_readTile {s₀ : State} (s : State) (c : Cur) (swz : Bool) (pitch : Nat) (rows : List (List Piece)) (h_s : s₀.Keeps s) :
    s₀.Keeps (s.readTile c swz pitch rows).1 := by
  unfold State.readTile
  with_reducible
    repeat' first | assumption | apply kept_tilePiece | refine kept_foldl ?_ ?_ | refine kept_foldl_fst ?_ ?_ | intro _

theorem kept_checkTile {s₀ : State} (s : State) (c : Cur) (k : Ctx) (t : Option Tensor) (co : Nat → Int) (rows cols : Nat) (h_s : s₀.Keeps s) :
    s₀.Keeps (s.checkTile c k t co rows cols).1 := by
  unfold State.checkTile
  with_reducible
    repeat' first | assumption | apply kept_checkRow | refine kept_foldl ?_ ?_ | refine kept_foldl_fst ?_ ?_ | intro _
                  | split | dsimp only

theorem kept_copyTile {s₀ : State} (s : State) (c : Cur) (k : Ctx) (o : OpG) (x : XAsy) (toGlobal : Bool) (h_s : s₀.Keeps s) :
    s₀.Keeps (s.copyTile c k o x toGlobal) := by
  unfold State.copyTile
  with_reducible
    repeat' first | assumption | apply kept_withTensor | apply kept_async | apply kept_accept | apply kept_readTile
                  | apply kept_operandTrap | apply kept_checkTile | apply kept_globalSectors | intro _ | split | dsimp only

theorem kept_queueAppend {s₀ : State} (s : State) (c : Cur) (k : Ctx) (o : OpG) (x : XAsy) (q : Nat) (h_s : s₀.Keeps s) :
    s₀.Keeps (s.queueAppend c k o x q) := by
  unfold State.queueAppend
  with_reducible
    repeat' first | assumption | apply kept_async | apply kept_takeTrap | apply kept_translate | apply kept_pageNat
                   | apply kept_operandTrap | apply kept_globalSectors | apply kept_accept | apply kept_writeBack
                   | apply kept_rmwHome | apply kept_land | apply kept_append | intro _ | split | dsimp only

theorem kept_packetPut {s₀ : State} (s : State) (core : Nat) (y : Xlat) (off : Nat) (bs : List Byte) (bad : List Nat) (h_s : s₀.Keeps s) :
    s₀.Keeps (s.packetPut core y off bs bad) := by
  unfold State.packetPut
  with_reducible
    repeat' first | assumption | apply kept_pageWrite | apply kept_poisonMask | refine kept_foldl ?_ ?_
                   | refine kept_foldl_fst ?_ ?_ | intro _ | split | dsimp only

theorem kept_writePacket {s₀ : State} (s : State) (o : AsyncOp) (x : Ctx) (hdr : Nat) (log : Nat) (index : Nat) (packet : List Byte) (bad : List Nat) (h_s : s₀.Keeps s) :
    s₀.Keeps (s.writePacket o x hdr log index packet bad).1 := by
  unfold State.writePacket
  with_reducible
    repeat' first | assumption | apply kept_unitXlat | apply kept_packetPut | apply kept_release | apply kept_deliverIf
                   | intro _ | split | dsimp only

theorem kept_issueAgain {s₀ : State} (s : State) (k : Cancelled) (h_s : s₀.Keeps s) :
    s₀.Keeps (s.issueAgain k) := by
  unfold State.issueAgain
  with_reducible
    repeat' first | assumption | apply kept_globalSectors | apply kept_opDone | apply kept_notify | apply kept_acquire
                   | intro _ | split | dsimp only

theorem kept_setFrogs {s₀ : State} (s : State) (asid : Nat) (fs : List Frog) (h_s : s₀.Keeps s) :
    s₀.Keeps (s.setFrogs asid fs) := by
  unfold State.setFrogs
  with_reducible
    repeat' first | assumption | apply kept_modCtx | apply kept_put | intro _ | split

theorem kept_frogResult {s₀ : State} (s : State) (asid : Nat) (x : Ctx) (w : Sweep) (found : Bool) (h_s : s₀.Keeps s) :
    s₀.Keeps (s.frogResult asid x w found).1 := by
  unfold State.frogResult
  with_reducible
    repeat' first | assumption | apply kept_setFrogs | intro _ | split

theorem kept_freeSlot {s₀ : State} (s : State) (asid b slot : Nat) (buffer : Bool) (h_s : s₀.Keeps s) :
    s₀.Keeps (s.freeSlot asid b slot buffer) := by
  unfold State.freeSlot
  with_reducible
    repeat' first | assumption | apply kept_modBinding | apply kept_outAdvance

theorem kept_windowSwept {s₀ : State} (s : State) (asid b slot res : Nat) (h_s : s₀.Keeps s) :
    s₀.Keeps (s.windowSwept asid b slot res) := by
  unfold State.windowSwept
  with_reducible
    repeat' first | assumption | apply kept_modBinding | apply kept_freeSlot | intro _ | split | dsimp only

theorem kept_returnBuffer {s₀ : State} (s : State) (asid : Nat) (name : Nat) (h_s : s₀.Keeps s) :
    s₀.Keeps (s.returnBuffer asid name) := by
  unfold State.returnBuffer
  with_reducible
    repeat' first | assumption | apply kept_modCtx

theorem kept_resweepName {s₀ : State} (s : State) (asid : Nat) (f : Frog) (h_s : s₀.Keeps s) :
    s₀.Keeps (s.resweepName asid f) := by
  unfold State.resweepName
  with_reducible
    repeat' first | assumption | apply kept_setFrogs | apply kept_modCtx | apply kept_put | apply kept_returnBuffer | intro _
                  | split

theorem kept_modEngine {s₀ : State} (s : State) (q : QRef) (f : Engine → Engine) (h_s : s₀.Keeps s) :
    s₀.Keeps (s.modEngine q f) := by
  unfold State.modEngine
  exact h_s

theorem kept_readHeader {s₀ : State} (s : State) (q : QRef) (h_s : s₀.Keeps s) :
    s₀.Keeps (s.readHeader q).1 := by
  unfold State.readHeader
  with_reducible
    repeat' first | assumption | apply kept_unitRead | intro _ | split | dsimp only

theorem kept_headOf {s₀ : State} (s : State) (q : QRef) (h_s : s₀.Keeps s) :
    s₀.Keeps (s.headOf q).1 := by
  unfold State.headOf
  with_reducible
    repeat' first | assumption | apply kept_readHeader | apply kept_unitNat | apply kept_unitRead | intro _ | split
                  | dsimp only

theorem kept_stopQueue {s₀ : State} (s : State) (q : QRef) (h : Head) (e : QErr) (h_s : s₀.Keeps s) :
    s₀.Keeps (s.stopQueue q h e) := by
  unfold State.stopQueue
  with_reducible
    repeat' first | assumption | apply kept_unitWrite | apply kept_modEngine | apply kept_notify

theorem kept_consume {s₀ : State} (s : State) (q : QRef) (h : Head) (p : Packet) (h_s : s₀.Keeps s) :
    s₀.Keeps (s.consume q h p) := by
  unfold State.consume
  with_reducible
    repeat' first | assumption | apply kept_deliverInv | apply kept_unitWrite | apply kept_modEngine | intro _ | split
                   | dsimp only

theorem kept_nextPacket {s₀ : State} (s : State) (q : QRef) (kind : Nat) (h_s : s₀.Keeps s) :
    s₀.Keeps (s.nextPacket q kind).1 := by
  unfold State.nextPacket
  with_reducible
    repeat' first | assumption | apply kept_headOf | intro _ | split | dsimp only

theorem kept_checkPages {s₀ : State} (s : State) (h : Head) (asid : Nat) (z0 : List (Nat × Nat × Access)) (h_s : s₀.Keeps s) :
    s₀.Keeps (s.checkPages h asid z0).1 := by
  induction z0 generalizing s with
  | nil => exact h_s
  | cons e l ih =>
    unfold State.checkPages
    with_reducible
      repeat' first | assumption | apply ih | apply kept_unitCheck | split | dsimp only


theorem kept_checkPacket {s₀ : State} (s : State) (h : Head) (asid : Nat) (fields : Option Nat) (pages : List (Nat × Nat × Access)) (h_s : s₀.Keeps s) :
    s₀.Keeps (s.checkPacket h asid fields pages).1 := by
  unfold State.checkPacket
  with_reducible
    repeat' first | assumption | apply kept_checkPages | intro _ | split

theorem kept_missed {s₀ : State} (s : State) (asid : Nat) (f : Flt) (va : Nat) (h_s : s₀.Keeps s) :
    s₀.Keeps (s.missed asid f va) := by
  unfold State.missed
  with_reducible
    repeat' first | assumption | apply kept_notify

theorem kept_signal {s₀ : State} (s : State) (h : Head) (asid : Nat) (va : Nat) (val : Nat) (add : Bool) (h_s : s₀.Keeps s) :
    s₀.Keeps (s.signal h asid va val add) := by
  unfold State.signal
  with_reducible
    repeat' first | assumption | apply kept_deliverInv | apply kept_unitXlat | apply kept_missed | apply kept_pageNat
                   | apply kept_pageWrite | intro _ | split | dsimp only

theorem kept_waitRead {s₀ : State} (s : State) (h : Head) (q : QRef) (index va val : Nat) (h_s : s₀.Keeps s) :
    s₀.Keeps (s.waitRead h q index va val) := by
  unfold State.waitRead
  with_reducible
    repeat' first | assumption | apply kept_modEngine | apply kept_unitNat | apply kept_missed | intro _ | split | dsimp only

theorem kept_checkPlens {s₀ : State} (s : State) (h : Head) (asid : Nat) (k : Source) (va count : Nat) (h_s : s₀.Keeps s) :
    s₀.Keeps (s.checkPlens h asid k va count).1 := by
  unfold State.checkPlens
  with_reducible
    repeat' first | assumption | apply kept_unitNat | refine kept_foldl ?_ ?_ | refine kept_foldl_fst ?_ ?_ | intro _ | split
                  | dsimp only

theorem kept_nextRecord {s₀ : State} (s : State) (h : Head) (q : QRef) (p : Packet) (h_s : s₀.Keeps s) :
    s₀.Keeps (s.nextRecord h q p) := by
  unfold State.nextRecord
  with_reducible
    repeat' first | assumption | apply kept_modEngine | apply kept_unitRead | apply kept_missed | apply kept_deliverInv
                  | apply kept_append | intro _ | split | dsimp only

theorem kept_startRecords {s₀ : State} (s : State) (q : QRef) (h_s : s₀.Keeps s) :
    s₀.Keeps (s.startRecords q) := by
  unfold State.startRecords
  with_reducible
    repeat' first | assumption | apply kept_nextPacket | apply kept_stopQueue | apply kept_checkPages | apply kept_checkPlens
                  | apply kept_consume | intro _ | split | dsimp only

theorem kept_bulkCopy {s₀ : State} (s : State) (h : Head) (asid : Nat) (src : Nat) (dst : Nat) (n : Nat) (h_s : s₀.Keeps s) :
    s₀.Keeps (s.bulkCopy h asid src dst n) := by
  unfold State.bulkCopy
  with_reducible
    repeat' first | assumption | apply kept_unitXlat | apply kept_missed | apply kept_pageRead | apply kept_pageWrite
                   | refine kept_foldl ?_ ?_ | refine kept_foldl_fst ?_ ?_ | intro _ | split | dsimp only

theorem kept_writeCompletion {s₀ : State} (s : State) (die asid : Nat) (x : Ctx) (va val : Nat) (h_s : s₀.Keeps s) :
    s₀.Keeps (s.writeCompletion die asid x va val) := by
  unfold State.writeCompletion
  with_reducible
    repeat' first | assumption | apply kept_deliverInv | apply kept_unitWrite | apply kept_missed | intro _ | split
                  | dsimp only

theorem kept_copyRelease {s₀ : State} (s : State) (h : Head) (n : Nat) (h_s : s₀.Keeps s) :
    s₀.Keeps (s.copyRelease h n) := by
  unfold State.copyRelease
  with_reducible
    repeat' first | assumption | apply kept_deliverInv | intro _ | split

theorem kept_windowDone {s₀ : State} (s : State) (grid : Nat) (d : Grid) (x : Ctx) (b slot : Nat) (h_s : s₀.Keeps s) :
    s₀.Keeps (s.windowDone grid d x b slot) := by
  unfold State.windowDone
  with_reducible
    repeat' first | assumption | apply kept_deliverInv | apply kept_unitWrite | apply kept_notePublished
                  | apply kept_modBinding | intro _ | split

theorem kept_park {s₀ : State} (s : State) (asid gid gsave : Nat) (m : Nat × Nat × BitVec 64) (h_s : s₀.Keeps s) :
    s₀.Keeps (s.park asid gid gsave m) := by
  unfold State.park
  with_reducible
    repeat' first | assumption | apply kept_put | apply kept_modCtx | intro _ | split

theorem kept_writeSlot {s₀ : State} (s : State) (asid : Nat) (x : Ctx) (g : Group) (k : Nat) (h_s : s₀.Keeps s) :
    s₀.Keeps (s.writeSlot asid x g k) := by
  unfold State.writeSlot
  with_reducible
    repeat' first | assumption | apply kept_put

theorem kept_settleGroup {s₀ : State} (s : State) (gid : Nat) (g : Group) (h_s : s₀.Keeps s) :
    s₀.Keeps (s.settleGroup gid g) := by
  unfold State.settleGroup
  with_reducible
    repeat' first | assumption | apply kept_settle | refine kept_foldl ?_ ?_ | refine kept_foldl_fst ?_ ?_ | intro _

theorem kept_saveGroup {s₀ : State} (s : State) (gid : Nat) (h_s : s₀.Keeps s) :
    s₀.Keeps (s.saveGroup gid) := by
  unfold State.saveGroup
  with_reducible
    repeat' first | assumption | apply kept_release | apply kept_park | apply kept_deactivate | apply kept_writeSlot
                  | apply kept_modCtx | apply kept_modGroup | refine kept_foldl ?_ ?_ | refine kept_foldl_fst ?_ ?_ | intro _
                  | split | dsimp only

theorem kept_saveTiles {s₀ : State} (s : State) (gang gid : Nat) (g : Group) (h_s : s₀.Keeps s) :
    s₀.Keeps (s.saveTiles gang gid g) := by
  unfold State.saveTiles
  with_reducible
    repeat' first | assumption | apply kept_modCell | apply kept_modGroup | apply kept_place | apply kept_put | intro _
                  | split | dsimp only

theorem kept_preempt {s₀ : State} (s : State) (gang : Nat) (h_s : s₀.Keeps s) :
    s₀.Keeps (s.preempt gang) := by
  unfold State.preempt
  with_reducible
    repeat' first | assumption | apply kept_notify | apply kept_settleGroup | apply kept_saveGroup | apply kept_saveTiles
                   | refine kept_foldl ?_ ?_ | refine kept_foldl_fst ?_ ?_ | intro _ | split | dsimp only

theorem kept_clearCore {s₀ : State} (s : State) (r : LaunchRec) (core : Nat) (vs : List (Nat × Group)) (h_s : s₀.Keeps s) :
    s₀.Keeps (s.clearCore r core vs) := by
  induction vs generalizing s with
  | nil => exact h_s
  | cons v vs ih =>
    unfold State.clearCore
    split
    · exact h_s
    · dsimp only
      split
      · exact ih _ (kept_preempt _ _ h_s)
      · exact kept_preempt _ _ h_s

theorem kept_restoreTiles {s₀ : State} (s : State) (cell : Nat) (ts : List CreelSlot) (h_s : s₀.Keeps s) :
    s₀.Keeps (s.restoreTiles cell ts) := by
  unfold State.restoreTiles
  with_reducible
    repeat' first | assumption | apply kept_modCell | refine kept_foldl ?_ ?_ | refine kept_foldl_fst ?_ ?_ | intro _ | split

theorem kept_restoreMarks {s₀ : State} (s : State) (asid gid : Nat) (h_s : s₀.Keeps s) :
    s₀.Keeps (s.restoreMarks asid gid) := by
  unfold State.restoreMarks
  with_reducible
    repeat' first | assumption | apply kept_modTeam | apply kept_unpark | refine kept_foldl ?_ ?_
                  | refine kept_foldl_fst ?_ ?_ | intro _ | split

theorem kept_restoreGroup {s₀ : State} (s : State) (gid : Nat) (core : Nat) (h_s : s₀.Keeps s) :
    s₀.Keeps (s.restoreGroup gid core) := by
  unfold State.restoreGroup
  with_reducible
    repeat' first | assumption | apply kept_takeWays | apply kept_place | apply kept_dropPaths | apply kept_deliverIf
                   | apply kept_acquire | apply kept_modGroup | apply kept_restoreMarks | apply kept_modCtx
                   | apply kept_setFrogs | apply kept_reissueLdfs | apply kept_activate | refine kept_foldl ?_ ?_
                   | refine kept_foldl_fst ?_ ?_ | intro _ | split | dsimp only

theorem kept_resumeGang {s₀ : State} (s : State) (g : Group) (base : Nat) (h_s : s₀.Keeps s) :
    s₀.Keeps (s.resumeGang g base) := by
  unfold State.resumeGang
  with_reducible
    repeat' first | assumption | apply kept_restoreGroup | apply kept_restoreTiles | refine kept_foldl ?_ ?_
                  | refine kept_foldl_fst ?_ ?_ | intro _ | split | dsimp only

theorem kept_resumeDue {s₀ : State} (s : State) (gid : Nat) (h_s : s₀.Keeps s) :
    s₀.Keeps (s.resumeDue gid) := by
  unfold State.resumeDue
  with_reducible
    repeat' first | assumption | apply kept_place | apply kept_resumeGang | intro _ | split | dsimp only

theorem kept_sliceWrite {s₀ : State} (s : State) (die pa : Nat) (bytes : List Byte) (h_s : s₀.Keeps s) :
    s₀.Keeps (s.sliceWrite die pa bytes) := by
  unfold State.sliceWrite
  with_reducible
    repeat' first | assumption | apply kept_homeWrite | intro _ | split

theorem kept_farAtomic {s₀ : State} (s : State) (core pa : Nat) (q : AtomReq) (h_s : s₀.Keeps s) :
    s₀.Keeps (s.farAtomic core pa q) := by
  unfold State.farAtomic
  with_reducible
    repeat' first | assumption | apply kept_writeBack | apply kept_rmwHome | intro _ | split

theorem kept_l1Spoil {s₀ : State} (s : State) (core : Nat) (line : Nat) (h_s : s₀.Keeps s) :
    s₀.Keeps (s.l1Spoil core line) := by
  unfold State.l1Spoil
  with_reducible
    repeat' first | assumption | apply kept_l1Evict | apply kept_l1Mod | apply kept_notify | intro _ | split | dsimp only

theorem kept_l2Spoil {s₀ : State} (s : State) (line : Nat) (h_s : s₀.Keeps s) :
    s₀.Keeps (s.l2Spoil line) := by
  unfold State.l2Spoil
  with_reducible
    repeat' first | assumption | apply kept_l2Drop | apply kept_poisonMask | apply kept_notify | intro _ | split | dsimp only

theorem kept_spoil {s₀ : State} (s : State) (z0 : SoftPlace) (h_s : s₀.Keeps s) :
    s₀.Keeps (s.spoil z0) := by
  unfold State.spoil
  with_reducible
    repeat' first | assumption | apply kept_l1Spoil | apply kept_modDie | apply kept_modCore | apply kept_modCell
                  | apply kept_l2Spoil | apply kept_modGroup | apply kept_decideLdf | intro _ | split

theorem kept_beforeError {s₀ : State} (s : State) (h_s : s₀.Keeps s) :
    s₀.Keeps (s.beforeError) := by
  unfold State.beforeError
  with_reducible
    repeat' first | assumption | apply kept_flush | intro _ | split | dsimp only

theorem kept_cable {s₀ : State} (s : State) (c : Cur) (o : OpG) (t : Nat → Nat → Int) (h_s : s₀.Keeps s) :
    s₀.Keeps (s.cable c o t) := by
  unfold State.cable
  with_reducible
    repeat' first | assumption | apply kept_lanewise

theorem kept_quad {s₀ : State} (s : State) (c : Cur) (o : OpU) (partner : Nat → Nat) (h_s : s₀.Keeps s) :
    s₀.Keeps (s.quad c o partner) := by
  unfold State.quad
  with_reducible
    repeat' first | assumption | apply kept_lanewise

theorem kept_fold {s₀ : State} (s : State) (c : Cur) (o : OpG) (f : Word → Word → Word) (none : Word) (h_s : s₀.Keeps s) :
    s₀.Keeps (s.fold c o f none) := by
  unfold State.fold
  with_reducible
    repeat' first | assumption | apply kept_lanewise

theorem kept_resend {s₀ : State} (s : State) (asid peer from_ : Nat) (h_s : s₀.Keeps s) :
    s₀.Keeps (s.resend asid peer from_) := by
  unfold State.resend
  with_reducible
    repeat' first | assumption | apply kept_modCtx | apply kept_emitFrame | refine kept_foldl ?_ ?_
                  | refine kept_foldl_fst ?_ ?_ | intro _ | split

theorem kept_failChannel {s₀ : State} (s : State) (asid peer : Nat) (h_s : s₀.Keeps s) :
    s₀.Keeps (s.failChannel asid peer) := by
  unfold State.failChannel
  with_reducible
    repeat' first | assumption | apply kept_modCtx | apply kept_readHeader | apply kept_unitWrite | apply kept_notify
                  | intro _ | split

theorem kept_reviveChannel {s₀ : State} (s : State) (asid peer : Nat) (h_s : s₀.Keeps s) :
    s₀.Keeps (s.reviveChannel asid peer) := by
  unfold State.reviveChannel
  with_reducible
    repeat' first | assumption | apply kept_modCtx | apply kept_resend | intro _ | split | dsimp only

theorem kept_netCompletion {s₀ : State} (s : State) (id : Nat) (value : BitVec 64) (h_s : s₀.Keeps s) :
    s₀.Keeps (s.netCompletion id value) := by
  unfold State.netCompletion
  split
  · exact h_s
  · split
    · exact h_s
    · exact kept_conclude _ _ _ _ h_s h_s


theorem kept_retry {s₀ : State} (s : State) (asid peer i : Nat) (f : Sent) (h_s : s₀.Keeps s) :
    s₀.Keeps (s.retry asid peer i f) := by
  unfold State.retry
  with_reducible
    repeat' first | assumption | apply kept_failChannel | apply kept_resend | intro _ | split

theorem kept_readScopes {s₀ : State} (s : State) (asid : Nat) (x : Ctx) (h_s : s₀.Keeps s) :
    s₀.Keeps (s.readScopes asid x).1 := by
  have h := kept_unitRead s 0 asid x x.scopetab 13312 h_s
  unfold State.readScopes
  generalize s.unitRead 0 asid x x.scopetab 13312 = r at h ⊢
  rcases r with ⟨t, e | b⟩ <;> exact h

theorem kept_readQueues {s₀ : State} (s : State) (asid : Nat) (x : Ctx) (h_s : s₀.Keeps s) :
    s₀.Keeps (s.readQueues asid x).1 := by
  unfold State.readQueues
  with_reducible
    repeat' first | assumption | apply kept_unitRead | apply kept_unitNat | intro _ | split | dsimp only
                  | refine kept_pair (by assumption) ?_

theorem kept_readFrames {s₀ : State} (s : State) (asid : Nat) (x : Ctx) (h_s : s₀.Keeps s) :
    s₀.Keeps (s.readFrames asid x).1 := by
  unfold State.readFrames
  with_reducible
    repeat' first | assumption | apply kept_unitRead | apply kept_unitCheck | refine kept_foldl ?_ ?_
                  | refine kept_foldl_fst ?_ ?_ | intro _ | split | dsimp only | refine kept_pair (by assumption) ?_

theorem kept_sourceStarted {s₀ : State} (s : State) (asid : Nat) (i : Nat) (va : Nat) (n : Nat) (h_s : s₀.Keeps s) :
    s₀.Keeps (s.sourceStarted asid i va n) := by
  unfold State.sourceStarted
  with_reducible
    repeat' first | assumption | apply kept_putField | intro _ | split | dsimp only

theorem kept_bindingStarted {s₀ : State} (s : State) (asid : Nat) (b : Nat) (va : Nat) (n : Nat) (h_s : s₀.Keeps s) :
    s₀.Keeps (s.bindingStarted asid b va n) := by
  unfold State.bindingStarted
  with_reducible
    repeat' first | assumption | apply kept_putField | intro _ | split | dsimp only

theorem kept_loadStream {s₀ : State} (s : State) (asid : Nat) (i : Nat) (h_s : s₀.Keeps s) :
    s₀.Keeps (s.loadStream asid i).1 := by
  unfold State.loadStream
  with_reducible
    repeat' first | assumption | apply kept_modCtx | apply kept_freeRings | apply kept_unitNat | apply kept_notify
                   | apply kept_tell | apply kept_sourceStarted | apply kept_bindingStarted | intro _ | split | dsimp only
                   | refine kept_pair (by assumption) ?_

theorem kept_loadStreams {s₀ : State} (s : State) (asid : Nat) (x : Ctx) (h_s : s₀.Keeps s) :
    s₀.Keeps (s.loadStreams asid x) := by
  unfold State.loadStreams
  with_reducible
    repeat' first | assumption | apply kept_loadStream | refine kept_foldl ?_ ?_ | refine kept_foldl_fst ?_ ?_ | intro _
                  | split

theorem kept_serve {s₀ : State} (s : State) (f : State → State × Nat) (h_s : s₀.Keeps s) (h_f : ∀ (f0 : State), s₀.Keeps f0 → s₀.Keeps (f f0).1) :
    s₀.Keeps (s.serve f) := by
  unfold State.serve
  with_reducible
    repeat' first | assumption | apply h_f | intro _ | split

theorem kept_refuseCtx {s₀ : State} (s : State) (asid detail : Nat) (h_s : s₀.Keeps s) :
    s₀.Keeps (s.refuseCtx asid detail).1 := by
  unfold State.refuseCtx
  with_reducible
    repeat' first | assumption | apply kept_notify

theorem kept_createCtx {s₀ : State} (s : State) (h_s : s₀.Keeps s) :
    s₀.Keeps (s.createCtx).1 := by
  unfold State.createCtx
  extract_lets pa d n asid x
  split
  · exact kept_refuseCtx _ _ _ h_s
  have hd : s₀.Keeps d.1 := kept_homeNat _ _ _ h_s
  split
  · exact kept_refuseCtx _ _ _ hd
  split
  · exact kept_refuseCtx _ _ _ hd
  have h1 := kept_readScopes d.1 asid x hd
  generalize d.1.readScopes asid x = r1 at h1 ⊢
  rcases r1 with ⟨t1, e | y⟩
  · exact kept_refuseCtx _ _ _ h1
  have h2 := kept_readQueues t1 asid x h1
  dsimp only
  generalize t1.readQueues asid x = r2 at h2 ⊢
  rcases r2 with ⟨t2, e | y⟩
  · exact kept_refuseCtx _ _ _ h2
  have h3 := kept_readFrames t2 asid x h2
  dsimp only
  generalize t2.readFrames asid x = r3 at h3 ⊢
  rcases r3 with ⟨t3, e | y⟩
  · exact kept_refuseCtx _ _ _ h3
  dsimp only
  split
  · exact h3
  · exact kept_loadStreams _ _ _ h3

theorem kept_onCtx {s₀ : State} (s : State) (c : Sys2Proof.CtxCmd) (f : State → Nat → Ctx → State × Nat) (h_s : s₀.Keeps s) (h_f : ∀ (f0 : State) (f1 : Nat) (f2 : Ctx), s₀.Keeps f0 → s₀.Keeps (f f0 f1 f2).1) :
    s₀.Keeps (s.onCtx c f) := by
  unfold State.onCtx
  with_reducible
    repeat' first | assumption | apply kept_serve | apply h_f | intro _ | split

theorem kept_killCtx {s₀ : State} (s : State) (asid : Nat) (h_s : s₀.Keeps s) :
    s₀.Keeps (s.killCtx asid) := by
  unfold State.killCtx
  with_reducible
    repeat' first | assumption | apply kept_modCtx | intro _ | split | dsimp only

theorem kept_killDone {s₀ : State} (s : State) (asid : Nat) (h_s : s₀.Keeps s) : s₀.Keeps (s.killDone asid) := by
  unfold State.killDone
  exact kept_notify _ _ _ _ _ _ h_s

theorem kept_answer {s₀ : State} (s : State) (c : Sys2Proof.CtxCmd) (f : State → Group → TRef → Trap → State) (h_s : s₀.Keeps s) (h_f : ∀ (f0 : State) (f1 : Group) (f2 : TRef) (f3 : Trap), s₀.Keeps f0 → s₀.Keeps (f f0 f1 f2 f3)) :
    s₀.Keeps (s.answer c f) := by
  unfold State.answer
  with_reducible
    repeat' first | assumption | apply kept_serve | apply h_f | intro _ | split

theorem kept_multiply {s₀ : State} (s : State) (c : Cur) (o : OpG) (x : XMat) (ta tb : Bool) (acc : Bool) (h_s : s₀.Keeps s) :
    s₀.Keeps (s.multiply c o x ta tb acc) := by
  unfold State.multiply
  with_reducible
    repeat' first | assumption | apply kept_matrixTo

theorem kept_elementwise {s₀ : State} (s : State) (c : Cur) (o : OpG) (x : XMat) (f : Nat → Nat → Nat → Nat) (h_s : s₀.Keeps s) :
    s₀.Keeps (s.elementwise c o x f) := by
  unfold State.elementwise
  with_reducible
    repeat' first | assumption | apply kept_matrixTo

theorem kept_factor {s₀ : State} (s : State) (c : Cur) (o : OpG) (x : XMat) (kind : Nat) (f : Fmt → Nat → Arr → Option Arr) (h_s : s₀.Keeps s) :
    s₀.Keeps (s.factor c o x kind f) := by
  unfold State.factor
  with_reducible
    repeat' first | assumption | apply kept_id | apply kept_takeTrap | apply kept_landOuts | apply kept_land
                  | apply kept_landIf | apply kept_advance | intro _ | split | dsimp only

theorem kept_solve {s₀ : State} (s : State) (c : Cur) (o : OpG) (x : XMat) (upper : Bool) (h_s : s₀.Keeps s) :
    s₀.Keeps (s.solve c o x upper) := by
  unfold State.solve
  with_reducible
    repeat' first | assumption | apply kept_matrixTo

theorem kept_bootFrom {s₀ : State} (s : State) (slot : Nat) (f : Sys2Proof.FlashImage) (certificate : List Byte) (h_s : s₀.Keeps s) :
    s₀.Keeps (s.bootFrom slot f certificate) := by
  unfold State.bootFrom
  exact h_s

theorem kept_trySlot {s₀ : State} (s : State) (slot : Nat) (f : Option Sys2Proof.FlashImage) (certificate : List Byte)
    (h_s : s₀.Keeps s) : ∀ o, s.trySlot slot f certificate = some o → s₀.Keeps o := by
  unfold State.trySlot
  intro o e
  split at e
  · cases e
  · split at e
    · cases e; exact kept_bootFrom _ _ _ _ h_s
    · cases e


theorem kept_mctp {s₀ : State} (s : State) (bs : List Byte) (h_s : s₀.Keeps s) :
    s₀.Keeps (s.mctp bs) := by
  unfold State.mctp
  exact h_s

theorem kept_hostPiece {s₀ : State} (s : State) (q : HostReq) (op : Nat) (index : Nat) (v : BitVec 64) (h_s : s₀.Keeps s) :
    s₀.Keeps (s.hostPiece q op index v) := by
  unfold State.hostPiece
  with_reducible
    repeat' first | assumption | apply kept_put | apply kept_modIssue | apply kept_settleLane | intro _ | split
                   | dsimp only

theorem kept_unitCompletion {s₀ : State} (s : State) (id : Nat) (v : BitVec 64) (h_s : s₀.Keeps s) :
    s₀.Keeps (s.unitCompletion id v) := by
  unfold State.unitCompletion
  with_reducible
    repeat' first | assumption | apply kept_id | intro _ | split | dsimp only

theorem kept_forPaths {s₀ : State} (s : State) (f : State → Cur → State) (h_s : s₀.Keeps s) (h_f : ∀ (f0 : State) (f1 : Cur), s₀.Keeps f0 → s₀.Keeps (f f0 f1)) :
    s₀.Keeps (s.forPaths f) := by
  unfold State.forPaths
  with_reducible
    repeat' first | assumption | apply kept_place | refine kept_foldl ?_ ?_ | refine kept_foldl_fst ?_ ?_ | apply h_f
                  | intro _ | split

theorem kept_expireDue {s₀ : State} (s : State) (h_s : s₀.Keeps s) :
    s₀.Keeps (s.expireDue) := by
  unfold State.expireDue
  with_reducible
    repeat' first | assumption | apply kept_expire | refine kept_foldl ?_ ?_ | refine kept_foldl_fst ?_ ?_ | intro _

theorem kept_watchdogs {s₀ : State} (s : State) (h_s : s₀.Keeps s) :
    s₀.Keeps (s.watchdogs) := by
  unfold State.watchdogs
  with_reducible
    repeat' first | assumption | apply kept_forPaths | apply kept_takeWatchdog | intro _ | split

theorem kept_grantsDue {s₀ : State} (s : State) (h_s : s₀.Keeps s) :
    s₀.Keeps (s.grantsDue) := by
  unfold State.grantsDue
  with_reducible
    repeat' first | assumption | apply kept_forPaths | apply kept_answerLeave | intro _ | split | dsimp only

theorem kept_droopDue {s₀ : State} (s : State) (h_s : s₀.Keeps s) :
    s₀.Keeps (s.droopDue) := by
  unfold State.droopDue
  with_reducible
    repeat' first | assumption | apply kept_changed | apply kept_stretchUp | refine kept_foldl ?_ ?_
                  | refine kept_foldl_fst ?_ ?_ | intro _ | split | dsimp only

theorem kept_killsDue {s₀ : State} (s : State) (h_s : s₀.Keeps s) :
    s₀.Keeps (s.killsDue) := by
  unfold State.killsDue
  with_reducible
    repeat' first | assumption | apply kept_killDone | refine kept_foldl ?_ ?_ | refine kept_foldl_fst ?_ ?_ | intro _

theorem kept_askUnit {s₀ : State} (s : State) (who : Instr × Input) (ks : List (Nat × Nat)) (h_s : s₀.Keeps s) :
    s₀.Keeps (s.askUnit who ks) := by
  unfold State.askUnit
  with_reducible
    repeat' first | assumption | apply kept_id | refine kept_foldl ?_ ?_ | refine kept_foldl_fst ?_ ?_ | intro _ | split
                   | dsimp only

theorem kept_resumesDue {s₀ : State} (s : State) (h_s : s₀.Keeps s) :
    s₀.Keeps (s.resumesDue) := by
  unfold State.resumesDue
  with_reducible
    repeat' first | assumption | apply kept_resumeDue | refine kept_foldl ?_ ?_

theorem kept_trapsDue {s₀ : State} (s : State) (h_s : s₀.Keeps s) :
    s₀.Keeps (s.trapsDue) := by
  unfold State.trapsDue
  with_reducible
    repeat' first | assumption | apply kept_trapGo | refine kept_foldl ?_ ?_ | refine kept_foldl_fst ?_ ?_ | intro _

theorem kept_retries {s₀ : State} (s : State) (h_s : s₀.Keeps s) :
    s₀.Keeps (s.retries) := by
  unfold State.retries
  with_reducible
    repeat' first | assumption | apply kept_issueAgain | refine kept_foldl ?_ ?_

theorem kept_landSome {s₀ : State} (s : State) (h_s : s₀.Keeps s) :
    s₀.Keeps (s.landSome) := by
  unfold State.landSome
  with_reducible
    repeat' first | assumption | apply kept_id | apply kept_landIf | refine kept_foldl ?_ ?_ | refine kept_foldl_fst ?_ ?_
                  | intro _

theorem kept_prefer {s₀ : State} (s : State) (core : Nat) (h_s : s₀.Keeps s) :
    s₀.Keeps (s.prefer core) := by
  unfold State.prefer
  with_reducible
    repeat' first | assumption | apply kept_modCore | intro _ | split | dsimp only

theorem kept_notePath {s₀ : State} (s : State) (c : Cur) (h_s : s₀.Keeps s) :
    s₀.Keeps (s.notePath c) := by
  unfold State.notePath
  with_reducible
    repeat' first | assumption | apply kept_modPath | apply kept_askLeave | intro _ | split | dsimp only

theorem kept_flushFor {s₀ : State} (s : State) (r : Ref) (z0 : Flush) (h_s : s₀.Keeps s) :
    s₀.Keeps (s.flushFor r z0) := by
  unfold State.flushFor
  with_reducible
    repeat' first | assumption | apply kept_flush | intro _ | split | dsimp only

end Sys2Proof.Machine
end

