-- ==== Sys2Proof/Laws/Clocks.lean ====
section
/-! SUPPORT. The passing of time keeps the counters of the cores in agreement (R169), and changes nothing but clocks. -/

namespace Sys2Proof.Machine

/-- A tick keeps a clock's counters in agreement: the one gauge that its new cycle has counts it. -/
theorem Clock.tick_agrees {core stretch : Nat} {k : Clock} (h : k.agrees) : (k.tick core stretch).agrees := by
  unfold Clock.tick Clock.agrees at *
  generalize Config.tickFs = m
  generalize Config.cycleGauge core k.cyc.toNat = g
  have e : (k.cyc + 1).setWidth 32 = k.cyc.setWidth 32 + 1#32 := by simp [BitVec.setWidth_add]
  split
  · simpa using h
  · simp only [e, h]
    match g with
    | 0 | 1 | 2 | 3 => simp; try ac_rfl

theorem Clock.pass_agrees {core stretch n : Nat} {k : Clock} (h : k.agrees) : (k.pass core stretch n).agrees := by
  induction n generalizing k with
  | zero => exact h
  | succ n ih => exact ih (Clock.tick_agrees h)

theorem Clock.zero_agrees : Clock.zero.agrees := rfl

theorem passFrom_agrees {stretch : Nat → Nat} {ticks k n : Nat} {t : Tab Clock} (h : ∀ e ∈ t, e.2.agrees) :
    ∀ e ∈ passFrom stretch ticks k n t, e.2.agrees := by
  induction k generalizing n t with
  | zero => simp [passFrom]
  | succ k ih =>
    have z : (Clock.zero.pass n (stretch n) ticks).agrees := Clock.pass_agrees Clock.zero_agrees
    cases t with
    | nil => simpa [passFrom, z] using ih h
    | cons e t =>
      simp only [passFrom]
      simp only [List.mem_cons, forall_eq_or_imp] at h
      split
      · simpa [Clock.pass_agrees h.1] using ih h.2
      · simpa [z] using ih (t := e :: t) (by simpa using h)

theorem kept_later {s₀ : State} (s : State) (n : Nat) (h : s₀.Keeps s) : s₀.Keeps (s.later n) :=
  ⟨h.1, fun k => passFrom_agrees (h.2 k)⟩

theorem kept_tick {s₀ : State} (s : State) (h : s₀.Keeps s) : s₀.Keeps s.tick := ⟨h.1, fun k => passFrom_agrees (h.2 k)⟩

theorem kept_align {s₀ : State} (s : State) (core : Nat) (h : s₀.Keeps s) : s₀.Keeps (s.align core) := kept_later _ _ h

theorem kept_enter {s₀ : State} (s : State) (c : Cur) (h : s₀.Keeps s) : s₀.Keeps (s.enter c) := by
  have ha : s₀.Keeps ((s.align c.g.core).activate c.g.core { gid := c.r.gid, role := c.r.role }) :=
    kept_activate _ _ _ (kept_align _ _ h)
  unfold State.enter
  dsimp only
  split
  · exact ha
  · exact kept_modTeam _ _ _ _ ha

end Sys2Proof.Machine
end

