-- ==== Sys2Proof/Laws/State.lean ====
section
/-! SUPPORT. What each update of State leaves in each field: one lemma per field per update, by definition. -/

namespace Sys2Proof.Machine

variable (s : State)

@[simp] theorem State.modGroup_turns (gid : Nat) (f : Group → Group) : (s.modGroup gid f).turns = s.turns := rfl
@[simp] theorem State.modGroup_cur (gid : Nat) (f : Group → Group) : (s.modGroup gid f).cur = s.cur := rfl
@[simp] theorem State.modGroup_guard (gid : Nat) (f : Group → Group) : (s.modGroup gid f).guard = s.guard := rfl
@[simp] theorem State.modGroup_mode (gid : Nat) (f : Group → Group) : (s.modGroup gid f).mode = s.mode := rfl
@[simp] theorem State.modGroup_input (gid : Nat) (f : Group → Group) : (s.modGroup gid f).input = s.input := rfl
@[simp] theorem State.modGroup_free (gid : Nat) (f : Group → Group) : (s.modGroup gid f).free = s.free := rfl
@[simp] theorem State.modGroup_fresh (gid : Nat) (f : Group → Group) : (s.modGroup gid f).fresh = s.fresh := rfl
@[simp] theorem State.modGroup_etime (gid : Nat) (f : Group → Group) : (s.modGroup gid f).etime = s.etime := rfl
@[simp] theorem State.modGroup_clocks (gid : Nat) (f : Group → Group) : (s.modGroup gid f).clocks = s.clocks := rfl
@[simp] theorem State.modGroup_mem (gid : Nat) (f : Group → Group) : (s.modGroup gid f).mem = s.mem := rfl
@[simp] theorem State.modGroup_poison (gid : Nat) (f : Group → Group) : (s.modGroup gid f).poison = s.poison := rfl
@[simp] theorem State.modGroup_l2 (gid : Nat) (f : Group → Group) : (s.modGroup gid f).l2 = s.l2 := rfl
@[simp] theorem State.modGroup_rdcInv (gid : Nat) (f : Group → Group) : (s.modGroup gid f).rdcInv = s.rdcInv := rfl
@[simp] theorem State.modGroup_rdcFill (gid : Nat) (f : Group → Group) : (s.modGroup gid f).rdcFill = s.rdcFill := rfl
@[simp] theorem State.modGroup_issues (gid : Nat) (f : Group → Group) : (s.modGroup gid f).issues = s.issues := rfl
@[simp] theorem State.modGroup_defer (gid : Nat) (f : Group → Group) : (s.modGroup gid f).defer = s.defer := rfl
@[simp] theorem State.modGroup_cellReqs (gid : Nat) (f : Group → Group) : (s.modGroup gid f).cellReqs = s.cellReqs := rfl
@[simp] theorem State.modGroup_ldfs (gid : Nat) (f : Group → Group) : (s.modGroup gid f).ldfs = s.ldfs := rfl
@[simp] theorem State.modGroup_cores (gid : Nat) (f : Group → Group) : (s.modGroup gid f).cores = s.cores := rfl
@[simp] theorem State.modGroup_cells (gid : Nat) (f : Group → Group) : (s.modGroup gid f).cells = s.cells := rfl
@[simp] theorem State.modGroup_dies (gid : Nat) (f : Group → Group) : (s.modGroup gid f).dies = s.dies := rfl
@[simp] theorem State.modGroup_ctxs (gid : Nat) (f : Group → Group) : (s.modGroup gid f).ctxs = s.ctxs := rfl
@[simp] theorem State.modGroup_grids (gid : Nat) (f : Group → Group) : (s.modGroup gid f).grids = s.grids := rfl
@[simp] theorem State.modGroup_groups (gid : Nat) (f : Group → Group) : (s.modGroup gid f).groups = tmod s.groups gid f := rfl
@[simp] theorem State.modGroup_gangs (gid : Nat) (f : Group → Group) : (s.modGroup gid f).gangs = s.gangs := rfl
@[simp] theorem State.modGroup_engines (gid : Nat) (f : Group → Group) : (s.modGroup gid f).engines = s.engines := rfl
@[simp] theorem State.modGroup_ops (gid : Nat) (f : Group → Group) : (s.modGroup gid f).ops = s.ops := rfl
@[simp] theorem State.modGroup_cancelled (gid : Nat) (f : Group → Group) : (s.modGroup gid f).cancelled = s.cancelled := rfl
@[simp] theorem State.modGroup_lastQ (gid : Nat) (f : Group → Group) : (s.modGroup gid f).lastQ = s.lastQ := rfl
@[simp] theorem State.modGroup_hostReqs (gid : Nat) (f : Group → Group) : (s.modGroup gid f).hostReqs = s.hostReqs := rfl
@[simp] theorem State.modGroup_hostData (gid : Nat) (f : Group → Group) : (s.modGroup gid f).hostData = s.hostData := rfl
@[simp] theorem State.modGroup_asker (gid : Nat) (f : Group → Group) : (s.modGroup gid f).asker = s.asker := rfl
@[simp] theorem State.modGroup_wanted (gid : Nat) (f : Group → Group) : (s.modGroup gid f).wanted = s.wanted := rfl
@[simp] theorem State.modGroup_unitReqs (gid : Nat) (f : Group → Group) : (s.modGroup gid f).unitReqs = s.unitReqs := rfl
@[simp] theorem State.modGroup_unitData (gid : Nat) (f : Group → Group) : (s.modGroup gid f).unitData = s.unitData := rfl
@[simp] theorem State.modGroup_signals (gid : Nat) (f : Group → Group) : (s.modGroup gid f).signals = s.signals := rfl
@[simp] theorem State.modGroup_invals (gid : Nat) (f : Group → Group) : (s.modGroup gid f).invals = s.invals := rfl
@[simp] theorem State.modGroup_out (gid : Nat) (f : Group → Group) : (s.modGroup gid f).out = s.out := rfl
@[simp] theorem State.modGroup_held (gid : Nat) (f : Group → Group) : (s.modGroup gid f).held = s.held := rfl
@[simp] theorem State.modGroup_recv (gid : Nat) (f : Group → Group) : (s.modGroup gid f).recv = s.recv := rfl
@[simp] theorem State.modGroup_tokens (gid : Nat) (f : Group → Group) : (s.modGroup gid f).tokens = s.tokens := rfl
@[simp] theorem State.modGroup_host (gid : Nat) (f : Group → Group) : (s.modGroup gid f).host = s.host := rfl
@[simp] theorem State.modGroup_plat (gid : Nat) (f : Group → Group) : (s.modGroup gid f).plat = s.plat := rfl

@[simp] theorem State.modTeam_turns (gid role : Nat) (f : Team → Team) : (s.modTeam gid role f).turns = s.turns := rfl
@[simp] theorem State.modTeam_cur (gid role : Nat) (f : Team → Team) : (s.modTeam gid role f).cur = s.cur := rfl
@[simp] theorem State.modTeam_guard (gid role : Nat) (f : Team → Team) : (s.modTeam gid role f).guard = s.guard := rfl
@[simp] theorem State.modTeam_mode (gid role : Nat) (f : Team → Team) : (s.modTeam gid role f).mode = s.mode := rfl
@[simp] theorem State.modTeam_input (gid role : Nat) (f : Team → Team) : (s.modTeam gid role f).input = s.input := rfl
@[simp] theorem State.modTeam_free (gid role : Nat) (f : Team → Team) : (s.modTeam gid role f).free = s.free := rfl
@[simp] theorem State.modTeam_fresh (gid role : Nat) (f : Team → Team) : (s.modTeam gid role f).fresh = s.fresh := rfl
@[simp] theorem State.modTeam_etime (gid role : Nat) (f : Team → Team) : (s.modTeam gid role f).etime = s.etime := rfl
@[simp] theorem State.modTeam_clocks (gid role : Nat) (f : Team → Team) : (s.modTeam gid role f).clocks = s.clocks := rfl
@[simp] theorem State.modTeam_mem (gid role : Nat) (f : Team → Team) : (s.modTeam gid role f).mem = s.mem := rfl
@[simp] theorem State.modTeam_poison (gid role : Nat) (f : Team → Team) : (s.modTeam gid role f).poison = s.poison := rfl
@[simp] theorem State.modTeam_l2 (gid role : Nat) (f : Team → Team) : (s.modTeam gid role f).l2 = s.l2 := rfl
@[simp] theorem State.modTeam_rdcInv (gid role : Nat) (f : Team → Team) : (s.modTeam gid role f).rdcInv = s.rdcInv := rfl
@[simp] theorem State.modTeam_rdcFill (gid role : Nat) (f : Team → Team) : (s.modTeam gid role f).rdcFill = s.rdcFill := rfl
@[simp] theorem State.modTeam_issues (gid role : Nat) (f : Team → Team) : (s.modTeam gid role f).issues = s.issues := rfl
@[simp] theorem State.modTeam_defer (gid role : Nat) (f : Team → Team) : (s.modTeam gid role f).defer = s.defer := rfl
@[simp] theorem State.modTeam_cellReqs (gid role : Nat) (f : Team → Team) : (s.modTeam gid role f).cellReqs = s.cellReqs := rfl
@[simp] theorem State.modTeam_ldfs (gid role : Nat) (f : Team → Team) : (s.modTeam gid role f).ldfs = s.ldfs := rfl
@[simp] theorem State.modTeam_cores (gid role : Nat) (f : Team → Team) : (s.modTeam gid role f).cores = s.cores := rfl
@[simp] theorem State.modTeam_cells (gid role : Nat) (f : Team → Team) : (s.modTeam gid role f).cells = s.cells := rfl
@[simp] theorem State.modTeam_dies (gid role : Nat) (f : Team → Team) : (s.modTeam gid role f).dies = s.dies := rfl
@[simp] theorem State.modTeam_ctxs (gid role : Nat) (f : Team → Team) : (s.modTeam gid role f).ctxs = s.ctxs := rfl
@[simp] theorem State.modTeam_grids (gid role : Nat) (f : Team → Team) : (s.modTeam gid role f).grids = s.grids := rfl
@[simp] theorem State.modTeam_groups (gid role : Nat) (f : Team → Team) :
    (s.modTeam gid role f).groups = tmod s.groups gid fun g => g.modTeam role f := rfl
@[simp] theorem State.modTeam_gangs (gid role : Nat) (f : Team → Team) : (s.modTeam gid role f).gangs = s.gangs := rfl
@[simp] theorem State.modTeam_engines (gid role : Nat) (f : Team → Team) : (s.modTeam gid role f).engines = s.engines := rfl
@[simp] theorem State.modTeam_ops (gid role : Nat) (f : Team → Team) : (s.modTeam gid role f).ops = s.ops := rfl
@[simp] theorem State.modTeam_cancelled (gid role : Nat) (f : Team → Team) : (s.modTeam gid role f).cancelled = s.cancelled := rfl
@[simp] theorem State.modTeam_lastQ (gid role : Nat) (f : Team → Team) : (s.modTeam gid role f).lastQ = s.lastQ := rfl
@[simp] theorem State.modTeam_hostReqs (gid role : Nat) (f : Team → Team) : (s.modTeam gid role f).hostReqs = s.hostReqs := rfl
@[simp] theorem State.modTeam_hostData (gid role : Nat) (f : Team → Team) : (s.modTeam gid role f).hostData = s.hostData := rfl
@[simp] theorem State.modTeam_asker (gid role : Nat) (f : Team → Team) : (s.modTeam gid role f).asker = s.asker := rfl
@[simp] theorem State.modTeam_wanted (gid role : Nat) (f : Team → Team) : (s.modTeam gid role f).wanted = s.wanted := rfl
@[simp] theorem State.modTeam_unitReqs (gid role : Nat) (f : Team → Team) : (s.modTeam gid role f).unitReqs = s.unitReqs := rfl
@[simp] theorem State.modTeam_unitData (gid role : Nat) (f : Team → Team) : (s.modTeam gid role f).unitData = s.unitData := rfl
@[simp] theorem State.modTeam_signals (gid role : Nat) (f : Team → Team) : (s.modTeam gid role f).signals = s.signals := rfl
@[simp] theorem State.modTeam_invals (gid role : Nat) (f : Team → Team) : (s.modTeam gid role f).invals = s.invals := rfl
@[simp] theorem State.modTeam_out (gid role : Nat) (f : Team → Team) : (s.modTeam gid role f).out = s.out := rfl
@[simp] theorem State.modTeam_held (gid role : Nat) (f : Team → Team) : (s.modTeam gid role f).held = s.held := rfl
@[simp] theorem State.modTeam_recv (gid role : Nat) (f : Team → Team) : (s.modTeam gid role f).recv = s.recv := rfl
@[simp] theorem State.modTeam_tokens (gid role : Nat) (f : Team → Team) : (s.modTeam gid role f).tokens = s.tokens := rfl
@[simp] theorem State.modTeam_host (gid role : Nat) (f : Team → Team) : (s.modTeam gid role f).host = s.host := rfl
@[simp] theorem State.modTeam_plat (gid role : Nat) (f : Team → Team) : (s.modTeam gid role f).plat = s.plat := rfl

@[simp] theorem State.modPath_turns (r : Ref) (f : Path → Path) : (s.modPath r f).turns = s.turns := rfl
@[simp] theorem State.modPath_cur (r : Ref) (f : Path → Path) : (s.modPath r f).cur = s.cur := rfl
@[simp] theorem State.modPath_guard (r : Ref) (f : Path → Path) : (s.modPath r f).guard = s.guard := rfl
@[simp] theorem State.modPath_mode (r : Ref) (f : Path → Path) : (s.modPath r f).mode = s.mode := rfl
@[simp] theorem State.modPath_input (r : Ref) (f : Path → Path) : (s.modPath r f).input = s.input := rfl
@[simp] theorem State.modPath_free (r : Ref) (f : Path → Path) : (s.modPath r f).free = s.free := rfl
@[simp] theorem State.modPath_fresh (r : Ref) (f : Path → Path) : (s.modPath r f).fresh = s.fresh := rfl
@[simp] theorem State.modPath_etime (r : Ref) (f : Path → Path) : (s.modPath r f).etime = s.etime := rfl
@[simp] theorem State.modPath_clocks (r : Ref) (f : Path → Path) : (s.modPath r f).clocks = s.clocks := rfl
@[simp] theorem State.modPath_mem (r : Ref) (f : Path → Path) : (s.modPath r f).mem = s.mem := rfl
@[simp] theorem State.modPath_poison (r : Ref) (f : Path → Path) : (s.modPath r f).poison = s.poison := rfl
@[simp] theorem State.modPath_l2 (r : Ref) (f : Path → Path) : (s.modPath r f).l2 = s.l2 := rfl
@[simp] theorem State.modPath_rdcInv (r : Ref) (f : Path → Path) : (s.modPath r f).rdcInv = s.rdcInv := rfl
@[simp] theorem State.modPath_rdcFill (r : Ref) (f : Path → Path) : (s.modPath r f).rdcFill = s.rdcFill := rfl
@[simp] theorem State.modPath_issues (r : Ref) (f : Path → Path) : (s.modPath r f).issues = s.issues := rfl
@[simp] theorem State.modPath_defer (r : Ref) (f : Path → Path) : (s.modPath r f).defer = s.defer := rfl
@[simp] theorem State.modPath_cellReqs (r : Ref) (f : Path → Path) : (s.modPath r f).cellReqs = s.cellReqs := rfl
@[simp] theorem State.modPath_ldfs (r : Ref) (f : Path → Path) : (s.modPath r f).ldfs = s.ldfs := rfl
@[simp] theorem State.modPath_cores (r : Ref) (f : Path → Path) : (s.modPath r f).cores = s.cores := rfl
@[simp] theorem State.modPath_cells (r : Ref) (f : Path → Path) : (s.modPath r f).cells = s.cells := rfl
@[simp] theorem State.modPath_dies (r : Ref) (f : Path → Path) : (s.modPath r f).dies = s.dies := rfl
@[simp] theorem State.modPath_ctxs (r : Ref) (f : Path → Path) : (s.modPath r f).ctxs = s.ctxs := rfl
@[simp] theorem State.modPath_grids (r : Ref) (f : Path → Path) : (s.modPath r f).grids = s.grids := rfl
@[simp] theorem State.modPath_gangs (r : Ref) (f : Path → Path) : (s.modPath r f).gangs = s.gangs := rfl
@[simp] theorem State.modPath_engines (r : Ref) (f : Path → Path) : (s.modPath r f).engines = s.engines := rfl
@[simp] theorem State.modPath_ops (r : Ref) (f : Path → Path) : (s.modPath r f).ops = s.ops := rfl
@[simp] theorem State.modPath_cancelled (r : Ref) (f : Path → Path) : (s.modPath r f).cancelled = s.cancelled := rfl
@[simp] theorem State.modPath_lastQ (r : Ref) (f : Path → Path) : (s.modPath r f).lastQ = s.lastQ := rfl
@[simp] theorem State.modPath_hostReqs (r : Ref) (f : Path → Path) : (s.modPath r f).hostReqs = s.hostReqs := rfl
@[simp] theorem State.modPath_hostData (r : Ref) (f : Path → Path) : (s.modPath r f).hostData = s.hostData := rfl
@[simp] theorem State.modPath_asker (r : Ref) (f : Path → Path) : (s.modPath r f).asker = s.asker := rfl
@[simp] theorem State.modPath_wanted (r : Ref) (f : Path → Path) : (s.modPath r f).wanted = s.wanted := rfl
@[simp] theorem State.modPath_unitReqs (r : Ref) (f : Path → Path) : (s.modPath r f).unitReqs = s.unitReqs := rfl
@[simp] theorem State.modPath_unitData (r : Ref) (f : Path → Path) : (s.modPath r f).unitData = s.unitData := rfl
@[simp] theorem State.modPath_signals (r : Ref) (f : Path → Path) : (s.modPath r f).signals = s.signals := rfl
@[simp] theorem State.modPath_invals (r : Ref) (f : Path → Path) : (s.modPath r f).invals = s.invals := rfl
@[simp] theorem State.modPath_out (r : Ref) (f : Path → Path) : (s.modPath r f).out = s.out := rfl
@[simp] theorem State.modPath_held (r : Ref) (f : Path → Path) : (s.modPath r f).held = s.held := rfl
@[simp] theorem State.modPath_recv (r : Ref) (f : Path → Path) : (s.modPath r f).recv = s.recv := rfl
@[simp] theorem State.modPath_tokens (r : Ref) (f : Path → Path) : (s.modPath r f).tokens = s.tokens := rfl
@[simp] theorem State.modPath_host (r : Ref) (f : Path → Path) : (s.modPath r f).host = s.host := rfl
@[simp] theorem State.modPath_plat (r : Ref) (f : Path → Path) : (s.modPath r f).plat = s.plat := rfl

@[simp] theorem State.advance_turns (r : Ref) : (s.advance r).turns = s.turns := rfl
@[simp] theorem State.advance_cur (r : Ref) : (s.advance r).cur = s.cur := rfl
@[simp] theorem State.advance_guard (r : Ref) : (s.advance r).guard = s.guard := rfl
@[simp] theorem State.advance_mode (r : Ref) : (s.advance r).mode = s.mode := rfl
@[simp] theorem State.advance_input (r : Ref) : (s.advance r).input = s.input := rfl
@[simp] theorem State.advance_free (r : Ref) : (s.advance r).free = s.free := rfl
@[simp] theorem State.advance_fresh (r : Ref) : (s.advance r).fresh = s.fresh := rfl
@[simp] theorem State.advance_etime (r : Ref) : (s.advance r).etime = s.etime := rfl
@[simp] theorem State.advance_clocks (r : Ref) : (s.advance r).clocks = s.clocks := rfl
@[simp] theorem State.advance_mem (r : Ref) : (s.advance r).mem = s.mem := rfl
@[simp] theorem State.advance_poison (r : Ref) : (s.advance r).poison = s.poison := rfl
@[simp] theorem State.advance_l2 (r : Ref) : (s.advance r).l2 = s.l2 := rfl
@[simp] theorem State.advance_rdcInv (r : Ref) : (s.advance r).rdcInv = s.rdcInv := rfl
@[simp] theorem State.advance_rdcFill (r : Ref) : (s.advance r).rdcFill = s.rdcFill := rfl
@[simp] theorem State.advance_issues (r : Ref) : (s.advance r).issues = s.issues := rfl
@[simp] theorem State.advance_defer (r : Ref) : (s.advance r).defer = s.defer := rfl
@[simp] theorem State.advance_cellReqs (r : Ref) : (s.advance r).cellReqs = s.cellReqs := rfl
@[simp] theorem State.advance_ldfs (r : Ref) : (s.advance r).ldfs = s.ldfs := rfl
@[simp] theorem State.advance_cores (r : Ref) : (s.advance r).cores = s.cores := rfl
@[simp] theorem State.advance_cells (r : Ref) : (s.advance r).cells = s.cells := rfl
@[simp] theorem State.advance_dies (r : Ref) : (s.advance r).dies = s.dies := rfl
@[simp] theorem State.advance_ctxs (r : Ref) : (s.advance r).ctxs = s.ctxs := rfl
@[simp] theorem State.advance_grids (r : Ref) : (s.advance r).grids = s.grids := rfl
@[simp] theorem State.advance_gangs (r : Ref) : (s.advance r).gangs = s.gangs := rfl
@[simp] theorem State.advance_engines (r : Ref) : (s.advance r).engines = s.engines := rfl
@[simp] theorem State.advance_ops (r : Ref) : (s.advance r).ops = s.ops := rfl
@[simp] theorem State.advance_cancelled (r : Ref) : (s.advance r).cancelled = s.cancelled := rfl
@[simp] theorem State.advance_lastQ (r : Ref) : (s.advance r).lastQ = s.lastQ := rfl
@[simp] theorem State.advance_hostReqs (r : Ref) : (s.advance r).hostReqs = s.hostReqs := rfl
@[simp] theorem State.advance_hostData (r : Ref) : (s.advance r).hostData = s.hostData := rfl
@[simp] theorem State.advance_asker (r : Ref) : (s.advance r).asker = s.asker := rfl
@[simp] theorem State.advance_wanted (r : Ref) : (s.advance r).wanted = s.wanted := rfl
@[simp] theorem State.advance_unitReqs (r : Ref) : (s.advance r).unitReqs = s.unitReqs := rfl
@[simp] theorem State.advance_unitData (r : Ref) : (s.advance r).unitData = s.unitData := rfl
@[simp] theorem State.advance_signals (r : Ref) : (s.advance r).signals = s.signals := rfl
@[simp] theorem State.advance_invals (r : Ref) : (s.advance r).invals = s.invals := rfl
@[simp] theorem State.advance_out (r : Ref) : (s.advance r).out = s.out := rfl
@[simp] theorem State.advance_held (r : Ref) : (s.advance r).held = s.held := rfl
@[simp] theorem State.advance_recv (r : Ref) : (s.advance r).recv = s.recv := rfl
@[simp] theorem State.advance_tokens (r : Ref) : (s.advance r).tokens = s.tokens := rfl
@[simp] theorem State.advance_host (r : Ref) : (s.advance r).host = s.host := rfl
@[simp] theorem State.advance_plat (r : Ref) : (s.advance r).plat = s.plat := rfl

@[simp] theorem State.jump_turns (r : Ref) (target : Nat) : (s.jump r target).turns = s.turns := rfl
@[simp] theorem State.jump_cur (r : Ref) (target : Nat) : (s.jump r target).cur = s.cur := rfl
@[simp] theorem State.jump_guard (r : Ref) (target : Nat) : (s.jump r target).guard = s.guard := rfl
@[simp] theorem State.jump_mode (r : Ref) (target : Nat) : (s.jump r target).mode = s.mode := rfl
@[simp] theorem State.jump_input (r : Ref) (target : Nat) : (s.jump r target).input = s.input := rfl
@[simp] theorem State.jump_free (r : Ref) (target : Nat) : (s.jump r target).free = s.free := rfl
@[simp] theorem State.jump_fresh (r : Ref) (target : Nat) : (s.jump r target).fresh = s.fresh := rfl
@[simp] theorem State.jump_etime (r : Ref) (target : Nat) : (s.jump r target).etime = s.etime := rfl
@[simp] theorem State.jump_clocks (r : Ref) (target : Nat) : (s.jump r target).clocks = s.clocks := rfl
@[simp] theorem State.jump_mem (r : Ref) (target : Nat) : (s.jump r target).mem = s.mem := rfl
@[simp] theorem State.jump_poison (r : Ref) (target : Nat) : (s.jump r target).poison = s.poison := rfl
@[simp] theorem State.jump_l2 (r : Ref) (target : Nat) : (s.jump r target).l2 = s.l2 := rfl
@[simp] theorem State.jump_rdcInv (r : Ref) (target : Nat) : (s.jump r target).rdcInv = s.rdcInv := rfl
@[simp] theorem State.jump_rdcFill (r : Ref) (target : Nat) : (s.jump r target).rdcFill = s.rdcFill := rfl
@[simp] theorem State.jump_issues (r : Ref) (target : Nat) : (s.jump r target).issues = s.issues := rfl
@[simp] theorem State.jump_defer (r : Ref) (target : Nat) : (s.jump r target).defer = s.defer := rfl
@[simp] theorem State.jump_cellReqs (r : Ref) (target : Nat) : (s.jump r target).cellReqs = s.cellReqs := rfl
@[simp] theorem State.jump_ldfs (r : Ref) (target : Nat) : (s.jump r target).ldfs = s.ldfs := rfl
@[simp] theorem State.jump_cores (r : Ref) (target : Nat) : (s.jump r target).cores = s.cores := rfl
@[simp] theorem State.jump_cells (r : Ref) (target : Nat) : (s.jump r target).cells = s.cells := rfl
@[simp] theorem State.jump_dies (r : Ref) (target : Nat) : (s.jump r target).dies = s.dies := rfl
@[simp] theorem State.jump_ctxs (r : Ref) (target : Nat) : (s.jump r target).ctxs = s.ctxs := rfl
@[simp] theorem State.jump_grids (r : Ref) (target : Nat) : (s.jump r target).grids = s.grids := rfl
@[simp] theorem State.jump_gangs (r : Ref) (target : Nat) : (s.jump r target).gangs = s.gangs := rfl
@[simp] theorem State.jump_engines (r : Ref) (target : Nat) : (s.jump r target).engines = s.engines := rfl
@[simp] theorem State.jump_ops (r : Ref) (target : Nat) : (s.jump r target).ops = s.ops := rfl
@[simp] theorem State.jump_cancelled (r : Ref) (target : Nat) : (s.jump r target).cancelled = s.cancelled := rfl
@[simp] theorem State.jump_lastQ (r : Ref) (target : Nat) : (s.jump r target).lastQ = s.lastQ := rfl
@[simp] theorem State.jump_hostReqs (r : Ref) (target : Nat) : (s.jump r target).hostReqs = s.hostReqs := rfl
@[simp] theorem State.jump_hostData (r : Ref) (target : Nat) : (s.jump r target).hostData = s.hostData := rfl
@[simp] theorem State.jump_asker (r : Ref) (target : Nat) : (s.jump r target).asker = s.asker := rfl
@[simp] theorem State.jump_wanted (r : Ref) (target : Nat) : (s.jump r target).wanted = s.wanted := rfl
@[simp] theorem State.jump_unitReqs (r : Ref) (target : Nat) : (s.jump r target).unitReqs = s.unitReqs := rfl
@[simp] theorem State.jump_unitData (r : Ref) (target : Nat) : (s.jump r target).unitData = s.unitData := rfl
@[simp] theorem State.jump_signals (r : Ref) (target : Nat) : (s.jump r target).signals = s.signals := rfl
@[simp] theorem State.jump_invals (r : Ref) (target : Nat) : (s.jump r target).invals = s.invals := rfl
@[simp] theorem State.jump_out (r : Ref) (target : Nat) : (s.jump r target).out = s.out := rfl
@[simp] theorem State.jump_held (r : Ref) (target : Nat) : (s.jump r target).held = s.held := rfl
@[simp] theorem State.jump_recv (r : Ref) (target : Nat) : (s.jump r target).recv = s.recv := rfl
@[simp] theorem State.jump_tokens (r : Ref) (target : Nat) : (s.jump r target).tokens = s.tokens := rfl
@[simp] theorem State.jump_host (r : Ref) (target : Nat) : (s.jump r target).host = s.host := rfl
@[simp] theorem State.jump_plat (r : Ref) (target : Nat) : (s.jump r target).plat = s.plat := rfl

@[simp] theorem State.modCtx_turns (asid : Nat) (f : Ctx → Ctx) : (s.modCtx asid f).turns = s.turns := rfl
@[simp] theorem State.modCtx_cur (asid : Nat) (f : Ctx → Ctx) : (s.modCtx asid f).cur = s.cur := rfl
@[simp] theorem State.modCtx_guard (asid : Nat) (f : Ctx → Ctx) : (s.modCtx asid f).guard = s.guard := rfl
@[simp] theorem State.modCtx_mode (asid : Nat) (f : Ctx → Ctx) : (s.modCtx asid f).mode = s.mode := rfl
@[simp] theorem State.modCtx_input (asid : Nat) (f : Ctx → Ctx) : (s.modCtx asid f).input = s.input := rfl
@[simp] theorem State.modCtx_free (asid : Nat) (f : Ctx → Ctx) : (s.modCtx asid f).free = s.free := rfl
@[simp] theorem State.modCtx_fresh (asid : Nat) (f : Ctx → Ctx) : (s.modCtx asid f).fresh = s.fresh := rfl
@[simp] theorem State.modCtx_etime (asid : Nat) (f : Ctx → Ctx) : (s.modCtx asid f).etime = s.etime := rfl
@[simp] theorem State.modCtx_clocks (asid : Nat) (f : Ctx → Ctx) : (s.modCtx asid f).clocks = s.clocks := rfl
@[simp] theorem State.modCtx_mem (asid : Nat) (f : Ctx → Ctx) : (s.modCtx asid f).mem = s.mem := rfl
@[simp] theorem State.modCtx_poison (asid : Nat) (f : Ctx → Ctx) : (s.modCtx asid f).poison = s.poison := rfl
@[simp] theorem State.modCtx_l2 (asid : Nat) (f : Ctx → Ctx) : (s.modCtx asid f).l2 = s.l2 := rfl
@[simp] theorem State.modCtx_rdcInv (asid : Nat) (f : Ctx → Ctx) : (s.modCtx asid f).rdcInv = s.rdcInv := rfl
@[simp] theorem State.modCtx_rdcFill (asid : Nat) (f : Ctx → Ctx) : (s.modCtx asid f).rdcFill = s.rdcFill := rfl
@[simp] theorem State.modCtx_issues (asid : Nat) (f : Ctx → Ctx) : (s.modCtx asid f).issues = s.issues := rfl
@[simp] theorem State.modCtx_defer (asid : Nat) (f : Ctx → Ctx) : (s.modCtx asid f).defer = s.defer := rfl
@[simp] theorem State.modCtx_cellReqs (asid : Nat) (f : Ctx → Ctx) : (s.modCtx asid f).cellReqs = s.cellReqs := rfl
@[simp] theorem State.modCtx_ldfs (asid : Nat) (f : Ctx → Ctx) : (s.modCtx asid f).ldfs = s.ldfs := rfl
@[simp] theorem State.modCtx_cores (asid : Nat) (f : Ctx → Ctx) : (s.modCtx asid f).cores = s.cores := rfl
@[simp] theorem State.modCtx_cells (asid : Nat) (f : Ctx → Ctx) : (s.modCtx asid f).cells = s.cells := rfl
@[simp] theorem State.modCtx_dies (asid : Nat) (f : Ctx → Ctx) : (s.modCtx asid f).dies = s.dies := rfl
@[simp] theorem State.modCtx_ctxs (asid : Nat) (f : Ctx → Ctx) : (s.modCtx asid f).ctxs = tmod s.ctxs asid f := rfl
@[simp] theorem State.modCtx_grids (asid : Nat) (f : Ctx → Ctx) : (s.modCtx asid f).grids = s.grids := rfl
@[simp] theorem State.modCtx_groups (asid : Nat) (f : Ctx → Ctx) : (s.modCtx asid f).groups = s.groups := rfl
@[simp] theorem State.modCtx_gangs (asid : Nat) (f : Ctx → Ctx) : (s.modCtx asid f).gangs = s.gangs := rfl
@[simp] theorem State.modCtx_engines (asid : Nat) (f : Ctx → Ctx) : (s.modCtx asid f).engines = s.engines := rfl
@[simp] theorem State.modCtx_ops (asid : Nat) (f : Ctx → Ctx) : (s.modCtx asid f).ops = s.ops := rfl
@[simp] theorem State.modCtx_cancelled (asid : Nat) (f : Ctx → Ctx) : (s.modCtx asid f).cancelled = s.cancelled := rfl
@[simp] theorem State.modCtx_lastQ (asid : Nat) (f : Ctx → Ctx) : (s.modCtx asid f).lastQ = s.lastQ := rfl
@[simp] theorem State.modCtx_hostReqs (asid : Nat) (f : Ctx → Ctx) : (s.modCtx asid f).hostReqs = s.hostReqs := rfl
@[simp] theorem State.modCtx_hostData (asid : Nat) (f : Ctx → Ctx) : (s.modCtx asid f).hostData = s.hostData := rfl
@[simp] theorem State.modCtx_asker (asid : Nat) (f : Ctx → Ctx) : (s.modCtx asid f).asker = s.asker := rfl
@[simp] theorem State.modCtx_wanted (asid : Nat) (f : Ctx → Ctx) : (s.modCtx asid f).wanted = s.wanted := rfl
@[simp] theorem State.modCtx_unitReqs (asid : Nat) (f : Ctx → Ctx) : (s.modCtx asid f).unitReqs = s.unitReqs := rfl
@[simp] theorem State.modCtx_unitData (asid : Nat) (f : Ctx → Ctx) : (s.modCtx asid f).unitData = s.unitData := rfl
@[simp] theorem State.modCtx_signals (asid : Nat) (f : Ctx → Ctx) : (s.modCtx asid f).signals = s.signals := rfl
@[simp] theorem State.modCtx_invals (asid : Nat) (f : Ctx → Ctx) : (s.modCtx asid f).invals = s.invals := rfl
@[simp] theorem State.modCtx_out (asid : Nat) (f : Ctx → Ctx) : (s.modCtx asid f).out = s.out := rfl
@[simp] theorem State.modCtx_held (asid : Nat) (f : Ctx → Ctx) : (s.modCtx asid f).held = s.held := rfl
@[simp] theorem State.modCtx_recv (asid : Nat) (f : Ctx → Ctx) : (s.modCtx asid f).recv = s.recv := rfl
@[simp] theorem State.modCtx_tokens (asid : Nat) (f : Ctx → Ctx) : (s.modCtx asid f).tokens = s.tokens := rfl
@[simp] theorem State.modCtx_host (asid : Nat) (f : Ctx → Ctx) : (s.modCtx asid f).host = s.host := rfl
@[simp] theorem State.modCtx_plat (asid : Nat) (f : Ctx → Ctx) : (s.modCtx asid f).plat = s.plat := rfl

@[simp] theorem State.modGrid_turns (n : Nat) (f : Grid → Grid) : (s.modGrid n f).turns = s.turns := rfl
@[simp] theorem State.modGrid_cur (n : Nat) (f : Grid → Grid) : (s.modGrid n f).cur = s.cur := rfl
@[simp] theorem State.modGrid_guard (n : Nat) (f : Grid → Grid) : (s.modGrid n f).guard = s.guard := rfl
@[simp] theorem State.modGrid_mode (n : Nat) (f : Grid → Grid) : (s.modGrid n f).mode = s.mode := rfl
@[simp] theorem State.modGrid_input (n : Nat) (f : Grid → Grid) : (s.modGrid n f).input = s.input := rfl
@[simp] theorem State.modGrid_free (n : Nat) (f : Grid → Grid) : (s.modGrid n f).free = s.free := rfl
@[simp] theorem State.modGrid_fresh (n : Nat) (f : Grid → Grid) : (s.modGrid n f).fresh = s.fresh := rfl
@[simp] theorem State.modGrid_etime (n : Nat) (f : Grid → Grid) : (s.modGrid n f).etime = s.etime := rfl
@[simp] theorem State.modGrid_clocks (n : Nat) (f : Grid → Grid) : (s.modGrid n f).clocks = s.clocks := rfl
@[simp] theorem State.modGrid_mem (n : Nat) (f : Grid → Grid) : (s.modGrid n f).mem = s.mem := rfl
@[simp] theorem State.modGrid_poison (n : Nat) (f : Grid → Grid) : (s.modGrid n f).poison = s.poison := rfl
@[simp] theorem State.modGrid_l2 (n : Nat) (f : Grid → Grid) : (s.modGrid n f).l2 = s.l2 := rfl
@[simp] theorem State.modGrid_rdcInv (n : Nat) (f : Grid → Grid) : (s.modGrid n f).rdcInv = s.rdcInv := rfl
@[simp] theorem State.modGrid_rdcFill (n : Nat) (f : Grid → Grid) : (s.modGrid n f).rdcFill = s.rdcFill := rfl
@[simp] theorem State.modGrid_issues (n : Nat) (f : Grid → Grid) : (s.modGrid n f).issues = s.issues := rfl
@[simp] theorem State.modGrid_defer (n : Nat) (f : Grid → Grid) : (s.modGrid n f).defer = s.defer := rfl
@[simp] theorem State.modGrid_cellReqs (n : Nat) (f : Grid → Grid) : (s.modGrid n f).cellReqs = s.cellReqs := rfl
@[simp] theorem State.modGrid_ldfs (n : Nat) (f : Grid → Grid) : (s.modGrid n f).ldfs = s.ldfs := rfl
@[simp] theorem State.modGrid_cores (n : Nat) (f : Grid → Grid) : (s.modGrid n f).cores = s.cores := rfl
@[simp] theorem State.modGrid_cells (n : Nat) (f : Grid → Grid) : (s.modGrid n f).cells = s.cells := rfl
@[simp] theorem State.modGrid_dies (n : Nat) (f : Grid → Grid) : (s.modGrid n f).dies = s.dies := rfl
@[simp] theorem State.modGrid_ctxs (n : Nat) (f : Grid → Grid) : (s.modGrid n f).ctxs = s.ctxs := rfl
@[simp] theorem State.modGrid_grids (n : Nat) (f : Grid → Grid) : (s.modGrid n f).grids = tmod s.grids n f := rfl
@[simp] theorem State.modGrid_groups (n : Nat) (f : Grid → Grid) : (s.modGrid n f).groups = s.groups := rfl
@[simp] theorem State.modGrid_gangs (n : Nat) (f : Grid → Grid) : (s.modGrid n f).gangs = s.gangs := rfl
@[simp] theorem State.modGrid_engines (n : Nat) (f : Grid → Grid) : (s.modGrid n f).engines = s.engines := rfl
@[simp] theorem State.modGrid_ops (n : Nat) (f : Grid → Grid) : (s.modGrid n f).ops = s.ops := rfl
@[simp] theorem State.modGrid_cancelled (n : Nat) (f : Grid → Grid) : (s.modGrid n f).cancelled = s.cancelled := rfl
@[simp] theorem State.modGrid_lastQ (n : Nat) (f : Grid → Grid) : (s.modGrid n f).lastQ = s.lastQ := rfl
@[simp] theorem State.modGrid_hostReqs (n : Nat) (f : Grid → Grid) : (s.modGrid n f).hostReqs = s.hostReqs := rfl
@[simp] theorem State.modGrid_hostData (n : Nat) (f : Grid → Grid) : (s.modGrid n f).hostData = s.hostData := rfl
@[simp] theorem State.modGrid_asker (n : Nat) (f : Grid → Grid) : (s.modGrid n f).asker = s.asker := rfl
@[simp] theorem State.modGrid_wanted (n : Nat) (f : Grid → Grid) : (s.modGrid n f).wanted = s.wanted := rfl
@[simp] theorem State.modGrid_unitReqs (n : Nat) (f : Grid → Grid) : (s.modGrid n f).unitReqs = s.unitReqs := rfl
@[simp] theorem State.modGrid_unitData (n : Nat) (f : Grid → Grid) : (s.modGrid n f).unitData = s.unitData := rfl
@[simp] theorem State.modGrid_signals (n : Nat) (f : Grid → Grid) : (s.modGrid n f).signals = s.signals := rfl
@[simp] theorem State.modGrid_invals (n : Nat) (f : Grid → Grid) : (s.modGrid n f).invals = s.invals := rfl
@[simp] theorem State.modGrid_out (n : Nat) (f : Grid → Grid) : (s.modGrid n f).out = s.out := rfl
@[simp] theorem State.modGrid_held (n : Nat) (f : Grid → Grid) : (s.modGrid n f).held = s.held := rfl
@[simp] theorem State.modGrid_recv (n : Nat) (f : Grid → Grid) : (s.modGrid n f).recv = s.recv := rfl
@[simp] theorem State.modGrid_tokens (n : Nat) (f : Grid → Grid) : (s.modGrid n f).tokens = s.tokens := rfl
@[simp] theorem State.modGrid_host (n : Nat) (f : Grid → Grid) : (s.modGrid n f).host = s.host := rfl
@[simp] theorem State.modGrid_plat (n : Nat) (f : Grid → Grid) : (s.modGrid n f).plat = s.plat := rfl

@[simp] theorem State.modCore_turns (n : Nat) (f : Core → Core) : (s.modCore n f).turns = s.turns := rfl
@[simp] theorem State.modCore_cur (n : Nat) (f : Core → Core) : (s.modCore n f).cur = s.cur := rfl
@[simp] theorem State.modCore_guard (n : Nat) (f : Core → Core) : (s.modCore n f).guard = s.guard := rfl
@[simp] theorem State.modCore_mode (n : Nat) (f : Core → Core) : (s.modCore n f).mode = s.mode := rfl
@[simp] theorem State.modCore_input (n : Nat) (f : Core → Core) : (s.modCore n f).input = s.input := rfl
@[simp] theorem State.modCore_free (n : Nat) (f : Core → Core) : (s.modCore n f).free = s.free := rfl
@[simp] theorem State.modCore_fresh (n : Nat) (f : Core → Core) : (s.modCore n f).fresh = s.fresh := rfl
@[simp] theorem State.modCore_etime (n : Nat) (f : Core → Core) : (s.modCore n f).etime = s.etime := rfl
@[simp] theorem State.modCore_clocks (n : Nat) (f : Core → Core) : (s.modCore n f).clocks = s.clocks := rfl
@[simp] theorem State.modCore_mem (n : Nat) (f : Core → Core) : (s.modCore n f).mem = s.mem := rfl
@[simp] theorem State.modCore_poison (n : Nat) (f : Core → Core) : (s.modCore n f).poison = s.poison := rfl
@[simp] theorem State.modCore_l2 (n : Nat) (f : Core → Core) : (s.modCore n f).l2 = s.l2 := rfl
@[simp] theorem State.modCore_rdcInv (n : Nat) (f : Core → Core) : (s.modCore n f).rdcInv = s.rdcInv := rfl
@[simp] theorem State.modCore_rdcFill (n : Nat) (f : Core → Core) : (s.modCore n f).rdcFill = s.rdcFill := rfl
@[simp] theorem State.modCore_issues (n : Nat) (f : Core → Core) : (s.modCore n f).issues = s.issues := rfl
@[simp] theorem State.modCore_defer (n : Nat) (f : Core → Core) : (s.modCore n f).defer = s.defer := rfl
@[simp] theorem State.modCore_cellReqs (n : Nat) (f : Core → Core) : (s.modCore n f).cellReqs = s.cellReqs := rfl
@[simp] theorem State.modCore_ldfs (n : Nat) (f : Core → Core) : (s.modCore n f).ldfs = s.ldfs := rfl
@[simp] theorem State.modCore_cores (n : Nat) (f : Core → Core) : (s.modCore n f).cores = tset s.cores n (f (s.core n)) := rfl
@[simp] theorem State.modCore_cells (n : Nat) (f : Core → Core) : (s.modCore n f).cells = s.cells := rfl
@[simp] theorem State.modCore_dies (n : Nat) (f : Core → Core) : (s.modCore n f).dies = s.dies := rfl
@[simp] theorem State.modCore_ctxs (n : Nat) (f : Core → Core) : (s.modCore n f).ctxs = s.ctxs := rfl
@[simp] theorem State.modCore_grids (n : Nat) (f : Core → Core) : (s.modCore n f).grids = s.grids := rfl
@[simp] theorem State.modCore_groups (n : Nat) (f : Core → Core) : (s.modCore n f).groups = s.groups := rfl
@[simp] theorem State.modCore_gangs (n : Nat) (f : Core → Core) : (s.modCore n f).gangs = s.gangs := rfl
@[simp] theorem State.modCore_engines (n : Nat) (f : Core → Core) : (s.modCore n f).engines = s.engines := rfl
@[simp] theorem State.modCore_ops (n : Nat) (f : Core → Core) : (s.modCore n f).ops = s.ops := rfl
@[simp] theorem State.modCore_cancelled (n : Nat) (f : Core → Core) : (s.modCore n f).cancelled = s.cancelled := rfl
@[simp] theorem State.modCore_lastQ (n : Nat) (f : Core → Core) : (s.modCore n f).lastQ = s.lastQ := rfl
@[simp] theorem State.modCore_hostReqs (n : Nat) (f : Core → Core) : (s.modCore n f).hostReqs = s.hostReqs := rfl
@[simp] theorem State.modCore_hostData (n : Nat) (f : Core → Core) : (s.modCore n f).hostData = s.hostData := rfl
@[simp] theorem State.modCore_asker (n : Nat) (f : Core → Core) : (s.modCore n f).asker = s.asker := rfl
@[simp] theorem State.modCore_wanted (n : Nat) (f : Core → Core) : (s.modCore n f).wanted = s.wanted := rfl
@[simp] theorem State.modCore_unitReqs (n : Nat) (f : Core → Core) : (s.modCore n f).unitReqs = s.unitReqs := rfl
@[simp] theorem State.modCore_unitData (n : Nat) (f : Core → Core) : (s.modCore n f).unitData = s.unitData := rfl
@[simp] theorem State.modCore_signals (n : Nat) (f : Core → Core) : (s.modCore n f).signals = s.signals := rfl
@[simp] theorem State.modCore_invals (n : Nat) (f : Core → Core) : (s.modCore n f).invals = s.invals := rfl
@[simp] theorem State.modCore_out (n : Nat) (f : Core → Core) : (s.modCore n f).out = s.out := rfl
@[simp] theorem State.modCore_held (n : Nat) (f : Core → Core) : (s.modCore n f).held = s.held := rfl
@[simp] theorem State.modCore_recv (n : Nat) (f : Core → Core) : (s.modCore n f).recv = s.recv := rfl
@[simp] theorem State.modCore_tokens (n : Nat) (f : Core → Core) : (s.modCore n f).tokens = s.tokens := rfl
@[simp] theorem State.modCore_host (n : Nat) (f : Core → Core) : (s.modCore n f).host = s.host := rfl
@[simp] theorem State.modCore_plat (n : Nat) (f : Core → Core) : (s.modCore n f).plat = s.plat := rfl

@[simp] theorem State.modCell_turns (n : Nat) (f : CellUnit → CellUnit) : (s.modCell n f).turns = s.turns := rfl
@[simp] theorem State.modCell_cur (n : Nat) (f : CellUnit → CellUnit) : (s.modCell n f).cur = s.cur := rfl
@[simp] theorem State.modCell_guard (n : Nat) (f : CellUnit → CellUnit) : (s.modCell n f).guard = s.guard := rfl
@[simp] theorem State.modCell_mode (n : Nat) (f : CellUnit → CellUnit) : (s.modCell n f).mode = s.mode := rfl
@[simp] theorem State.modCell_input (n : Nat) (f : CellUnit → CellUnit) : (s.modCell n f).input = s.input := rfl
@[simp] theorem State.modCell_free (n : Nat) (f : CellUnit → CellUnit) : (s.modCell n f).free = s.free := rfl
@[simp] theorem State.modCell_fresh (n : Nat) (f : CellUnit → CellUnit) : (s.modCell n f).fresh = s.fresh := rfl
@[simp] theorem State.modCell_etime (n : Nat) (f : CellUnit → CellUnit) : (s.modCell n f).etime = s.etime := rfl
@[simp] theorem State.modCell_clocks (n : Nat) (f : CellUnit → CellUnit) : (s.modCell n f).clocks = s.clocks := rfl
@[simp] theorem State.modCell_mem (n : Nat) (f : CellUnit → CellUnit) : (s.modCell n f).mem = s.mem := rfl
@[simp] theorem State.modCell_poison (n : Nat) (f : CellUnit → CellUnit) : (s.modCell n f).poison = s.poison := rfl
@[simp] theorem State.modCell_l2 (n : Nat) (f : CellUnit → CellUnit) : (s.modCell n f).l2 = s.l2 := rfl
@[simp] theorem State.modCell_rdcInv (n : Nat) (f : CellUnit → CellUnit) : (s.modCell n f).rdcInv = s.rdcInv := rfl
@[simp] theorem State.modCell_rdcFill (n : Nat) (f : CellUnit → CellUnit) : (s.modCell n f).rdcFill = s.rdcFill := rfl
@[simp] theorem State.modCell_issues (n : Nat) (f : CellUnit → CellUnit) : (s.modCell n f).issues = s.issues := rfl
@[simp] theorem State.modCell_defer (n : Nat) (f : CellUnit → CellUnit) : (s.modCell n f).defer = s.defer := rfl
@[simp] theorem State.modCell_cellReqs (n : Nat) (f : CellUnit → CellUnit) : (s.modCell n f).cellReqs = s.cellReqs := rfl
@[simp] theorem State.modCell_ldfs (n : Nat) (f : CellUnit → CellUnit) : (s.modCell n f).ldfs = s.ldfs := rfl
@[simp] theorem State.modCell_cores (n : Nat) (f : CellUnit → CellUnit) : (s.modCell n f).cores = s.cores := rfl
@[simp] theorem State.modCell_cells (n : Nat) (f : CellUnit → CellUnit) : (s.modCell n f).cells = tset s.cells n (f (s.cell n)) := rfl
@[simp] theorem State.modCell_dies (n : Nat) (f : CellUnit → CellUnit) : (s.modCell n f).dies = s.dies := rfl
@[simp] theorem State.modCell_ctxs (n : Nat) (f : CellUnit → CellUnit) : (s.modCell n f).ctxs = s.ctxs := rfl
@[simp] theorem State.modCell_grids (n : Nat) (f : CellUnit → CellUnit) : (s.modCell n f).grids = s.grids := rfl
@[simp] theorem State.modCell_groups (n : Nat) (f : CellUnit → CellUnit) : (s.modCell n f).groups = s.groups := rfl
@[simp] theorem State.modCell_gangs (n : Nat) (f : CellUnit → CellUnit) : (s.modCell n f).gangs = s.gangs := rfl
@[simp] theorem State.modCell_engines (n : Nat) (f : CellUnit → CellUnit) : (s.modCell n f).engines = s.engines := rfl
@[simp] theorem State.modCell_ops (n : Nat) (f : CellUnit → CellUnit) : (s.modCell n f).ops = s.ops := rfl
@[simp] theorem State.modCell_cancelled (n : Nat) (f : CellUnit → CellUnit) : (s.modCell n f).cancelled = s.cancelled := rfl
@[simp] theorem State.modCell_lastQ (n : Nat) (f : CellUnit → CellUnit) : (s.modCell n f).lastQ = s.lastQ := rfl
@[simp] theorem State.modCell_hostReqs (n : Nat) (f : CellUnit → CellUnit) : (s.modCell n f).hostReqs = s.hostReqs := rfl
@[simp] theorem State.modCell_hostData (n : Nat) (f : CellUnit → CellUnit) : (s.modCell n f).hostData = s.hostData := rfl
@[simp] theorem State.modCell_asker (n : Nat) (f : CellUnit → CellUnit) : (s.modCell n f).asker = s.asker := rfl
@[simp] theorem State.modCell_wanted (n : Nat) (f : CellUnit → CellUnit) : (s.modCell n f).wanted = s.wanted := rfl
@[simp] theorem State.modCell_unitReqs (n : Nat) (f : CellUnit → CellUnit) : (s.modCell n f).unitReqs = s.unitReqs := rfl
@[simp] theorem State.modCell_unitData (n : Nat) (f : CellUnit → CellUnit) : (s.modCell n f).unitData = s.unitData := rfl
@[simp] theorem State.modCell_signals (n : Nat) (f : CellUnit → CellUnit) : (s.modCell n f).signals = s.signals := rfl
@[simp] theorem State.modCell_invals (n : Nat) (f : CellUnit → CellUnit) : (s.modCell n f).invals = s.invals := rfl
@[simp] theorem State.modCell_out (n : Nat) (f : CellUnit → CellUnit) : (s.modCell n f).out = s.out := rfl
@[simp] theorem State.modCell_held (n : Nat) (f : CellUnit → CellUnit) : (s.modCell n f).held = s.held := rfl
@[simp] theorem State.modCell_recv (n : Nat) (f : CellUnit → CellUnit) : (s.modCell n f).recv = s.recv := rfl
@[simp] theorem State.modCell_tokens (n : Nat) (f : CellUnit → CellUnit) : (s.modCell n f).tokens = s.tokens := rfl
@[simp] theorem State.modCell_host (n : Nat) (f : CellUnit → CellUnit) : (s.modCell n f).host = s.host := rfl
@[simp] theorem State.modCell_plat (n : Nat) (f : CellUnit → CellUnit) : (s.modCell n f).plat = s.plat := rfl

@[simp] theorem State.modDie_turns (n : Nat) (f : Die → Die) : (s.modDie n f).turns = s.turns := rfl
@[simp] theorem State.modDie_cur (n : Nat) (f : Die → Die) : (s.modDie n f).cur = s.cur := rfl
@[simp] theorem State.modDie_guard (n : Nat) (f : Die → Die) : (s.modDie n f).guard = s.guard := rfl
@[simp] theorem State.modDie_mode (n : Nat) (f : Die → Die) : (s.modDie n f).mode = s.mode := rfl
@[simp] theorem State.modDie_input (n : Nat) (f : Die → Die) : (s.modDie n f).input = s.input := rfl
@[simp] theorem State.modDie_free (n : Nat) (f : Die → Die) : (s.modDie n f).free = s.free := rfl
@[simp] theorem State.modDie_fresh (n : Nat) (f : Die → Die) : (s.modDie n f).fresh = s.fresh := rfl
@[simp] theorem State.modDie_etime (n : Nat) (f : Die → Die) : (s.modDie n f).etime = s.etime := rfl
@[simp] theorem State.modDie_clocks (n : Nat) (f : Die → Die) : (s.modDie n f).clocks = s.clocks := rfl
@[simp] theorem State.modDie_mem (n : Nat) (f : Die → Die) : (s.modDie n f).mem = s.mem := rfl
@[simp] theorem State.modDie_poison (n : Nat) (f : Die → Die) : (s.modDie n f).poison = s.poison := rfl
@[simp] theorem State.modDie_l2 (n : Nat) (f : Die → Die) : (s.modDie n f).l2 = s.l2 := rfl
@[simp] theorem State.modDie_rdcInv (n : Nat) (f : Die → Die) : (s.modDie n f).rdcInv = s.rdcInv := rfl
@[simp] theorem State.modDie_rdcFill (n : Nat) (f : Die → Die) : (s.modDie n f).rdcFill = s.rdcFill := rfl
@[simp] theorem State.modDie_issues (n : Nat) (f : Die → Die) : (s.modDie n f).issues = s.issues := rfl
@[simp] theorem State.modDie_defer (n : Nat) (f : Die → Die) : (s.modDie n f).defer = s.defer := rfl
@[simp] theorem State.modDie_cellReqs (n : Nat) (f : Die → Die) : (s.modDie n f).cellReqs = s.cellReqs := rfl
@[simp] theorem State.modDie_ldfs (n : Nat) (f : Die → Die) : (s.modDie n f).ldfs = s.ldfs := rfl
@[simp] theorem State.modDie_cores (n : Nat) (f : Die → Die) : (s.modDie n f).cores = s.cores := rfl
@[simp] theorem State.modDie_cells (n : Nat) (f : Die → Die) : (s.modDie n f).cells = s.cells := rfl
@[simp] theorem State.modDie_dies (n : Nat) (f : Die → Die) : (s.modDie n f).dies = tset s.dies n (f (s.die n)) := rfl
@[simp] theorem State.modDie_ctxs (n : Nat) (f : Die → Die) : (s.modDie n f).ctxs = s.ctxs := rfl
@[simp] theorem State.modDie_grids (n : Nat) (f : Die → Die) : (s.modDie n f).grids = s.grids := rfl
@[simp] theorem State.modDie_groups (n : Nat) (f : Die → Die) : (s.modDie n f).groups = s.groups := rfl
@[simp] theorem State.modDie_gangs (n : Nat) (f : Die → Die) : (s.modDie n f).gangs = s.gangs := rfl
@[simp] theorem State.modDie_engines (n : Nat) (f : Die → Die) : (s.modDie n f).engines = s.engines := rfl
@[simp] theorem State.modDie_ops (n : Nat) (f : Die → Die) : (s.modDie n f).ops = s.ops := rfl
@[simp] theorem State.modDie_cancelled (n : Nat) (f : Die → Die) : (s.modDie n f).cancelled = s.cancelled := rfl
@[simp] theorem State.modDie_lastQ (n : Nat) (f : Die → Die) : (s.modDie n f).lastQ = s.lastQ := rfl
@[simp] theorem State.modDie_hostReqs (n : Nat) (f : Die → Die) : (s.modDie n f).hostReqs = s.hostReqs := rfl
@[simp] theorem State.modDie_hostData (n : Nat) (f : Die → Die) : (s.modDie n f).hostData = s.hostData := rfl
@[simp] theorem State.modDie_asker (n : Nat) (f : Die → Die) : (s.modDie n f).asker = s.asker := rfl
@[simp] theorem State.modDie_wanted (n : Nat) (f : Die → Die) : (s.modDie n f).wanted = s.wanted := rfl
@[simp] theorem State.modDie_unitReqs (n : Nat) (f : Die → Die) : (s.modDie n f).unitReqs = s.unitReqs := rfl
@[simp] theorem State.modDie_unitData (n : Nat) (f : Die → Die) : (s.modDie n f).unitData = s.unitData := rfl
@[simp] theorem State.modDie_signals (n : Nat) (f : Die → Die) : (s.modDie n f).signals = s.signals := rfl
@[simp] theorem State.modDie_invals (n : Nat) (f : Die → Die) : (s.modDie n f).invals = s.invals := rfl
@[simp] theorem State.modDie_out (n : Nat) (f : Die → Die) : (s.modDie n f).out = s.out := rfl
@[simp] theorem State.modDie_held (n : Nat) (f : Die → Die) : (s.modDie n f).held = s.held := rfl
@[simp] theorem State.modDie_recv (n : Nat) (f : Die → Die) : (s.modDie n f).recv = s.recv := rfl
@[simp] theorem State.modDie_tokens (n : Nat) (f : Die → Die) : (s.modDie n f).tokens = s.tokens := rfl
@[simp] theorem State.modDie_host (n : Nat) (f : Die → Die) : (s.modDie n f).host = s.host := rfl
@[simp] theorem State.modDie_plat (n : Nat) (f : Die → Die) : (s.modDie n f).plat = s.plat := rfl

@[simp] theorem State.modDir_turns (line : Nat) (f : Dir → Dir) : (s.modDir line f).turns = s.turns := rfl
@[simp] theorem State.modDir_cur (line : Nat) (f : Dir → Dir) : (s.modDir line f).cur = s.cur := rfl
@[simp] theorem State.modDir_guard (line : Nat) (f : Dir → Dir) : (s.modDir line f).guard = s.guard := rfl
@[simp] theorem State.modDir_mode (line : Nat) (f : Dir → Dir) : (s.modDir line f).mode = s.mode := rfl
@[simp] theorem State.modDir_input (line : Nat) (f : Dir → Dir) : (s.modDir line f).input = s.input := rfl
@[simp] theorem State.modDir_free (line : Nat) (f : Dir → Dir) : (s.modDir line f).free = s.free := rfl
@[simp] theorem State.modDir_fresh (line : Nat) (f : Dir → Dir) : (s.modDir line f).fresh = s.fresh := rfl
@[simp] theorem State.modDir_etime (line : Nat) (f : Dir → Dir) : (s.modDir line f).etime = s.etime := rfl
@[simp] theorem State.modDir_clocks (line : Nat) (f : Dir → Dir) : (s.modDir line f).clocks = s.clocks := rfl
@[simp] theorem State.modDir_mem (line : Nat) (f : Dir → Dir) : (s.modDir line f).mem = s.mem := rfl
@[simp] theorem State.modDir_poison (line : Nat) (f : Dir → Dir) : (s.modDir line f).poison = s.poison := rfl
@[simp] theorem State.modDir_l2 (line : Nat) (f : Dir → Dir) : (s.modDir line f).l2 = tset s.l2 line (f (s.dir line)) := rfl
@[simp] theorem State.modDir_rdcInv (line : Nat) (f : Dir → Dir) : (s.modDir line f).rdcInv = s.rdcInv := rfl
@[simp] theorem State.modDir_rdcFill (line : Nat) (f : Dir → Dir) : (s.modDir line f).rdcFill = s.rdcFill := rfl
@[simp] theorem State.modDir_issues (line : Nat) (f : Dir → Dir) : (s.modDir line f).issues = s.issues := rfl
@[simp] theorem State.modDir_defer (line : Nat) (f : Dir → Dir) : (s.modDir line f).defer = s.defer := rfl
@[simp] theorem State.modDir_cellReqs (line : Nat) (f : Dir → Dir) : (s.modDir line f).cellReqs = s.cellReqs := rfl
@[simp] theorem State.modDir_ldfs (line : Nat) (f : Dir → Dir) : (s.modDir line f).ldfs = s.ldfs := rfl
@[simp] theorem State.modDir_cores (line : Nat) (f : Dir → Dir) : (s.modDir line f).cores = s.cores := rfl
@[simp] theorem State.modDir_cells (line : Nat) (f : Dir → Dir) : (s.modDir line f).cells = s.cells := rfl
@[simp] theorem State.modDir_dies (line : Nat) (f : Dir → Dir) : (s.modDir line f).dies = s.dies := rfl
@[simp] theorem State.modDir_ctxs (line : Nat) (f : Dir → Dir) : (s.modDir line f).ctxs = s.ctxs := rfl
@[simp] theorem State.modDir_grids (line : Nat) (f : Dir → Dir) : (s.modDir line f).grids = s.grids := rfl
@[simp] theorem State.modDir_groups (line : Nat) (f : Dir → Dir) : (s.modDir line f).groups = s.groups := rfl
@[simp] theorem State.modDir_gangs (line : Nat) (f : Dir → Dir) : (s.modDir line f).gangs = s.gangs := rfl
@[simp] theorem State.modDir_engines (line : Nat) (f : Dir → Dir) : (s.modDir line f).engines = s.engines := rfl
@[simp] theorem State.modDir_ops (line : Nat) (f : Dir → Dir) : (s.modDir line f).ops = s.ops := rfl
@[simp] theorem State.modDir_cancelled (line : Nat) (f : Dir → Dir) : (s.modDir line f).cancelled = s.cancelled := rfl
@[simp] theorem State.modDir_lastQ (line : Nat) (f : Dir → Dir) : (s.modDir line f).lastQ = s.lastQ := rfl
@[simp] theorem State.modDir_hostReqs (line : Nat) (f : Dir → Dir) : (s.modDir line f).hostReqs = s.hostReqs := rfl
@[simp] theorem State.modDir_hostData (line : Nat) (f : Dir → Dir) : (s.modDir line f).hostData = s.hostData := rfl
@[simp] theorem State.modDir_asker (line : Nat) (f : Dir → Dir) : (s.modDir line f).asker = s.asker := rfl
@[simp] theorem State.modDir_wanted (line : Nat) (f : Dir → Dir) : (s.modDir line f).wanted = s.wanted := rfl
@[simp] theorem State.modDir_unitReqs (line : Nat) (f : Dir → Dir) : (s.modDir line f).unitReqs = s.unitReqs := rfl
@[simp] theorem State.modDir_unitData (line : Nat) (f : Dir → Dir) : (s.modDir line f).unitData = s.unitData := rfl
@[simp] theorem State.modDir_signals (line : Nat) (f : Dir → Dir) : (s.modDir line f).signals = s.signals := rfl
@[simp] theorem State.modDir_invals (line : Nat) (f : Dir → Dir) : (s.modDir line f).invals = s.invals := rfl
@[simp] theorem State.modDir_out (line : Nat) (f : Dir → Dir) : (s.modDir line f).out = s.out := rfl
@[simp] theorem State.modDir_held (line : Nat) (f : Dir → Dir) : (s.modDir line f).held = s.held := rfl
@[simp] theorem State.modDir_recv (line : Nat) (f : Dir → Dir) : (s.modDir line f).recv = s.recv := rfl
@[simp] theorem State.modDir_tokens (line : Nat) (f : Dir → Dir) : (s.modDir line f).tokens = s.tokens := rfl
@[simp] theorem State.modDir_host (line : Nat) (f : Dir → Dir) : (s.modDir line f).host = s.host := rfl
@[simp] theorem State.modDir_plat (line : Nat) (f : Dir → Dir) : (s.modDir line f).plat = s.plat := rfl

end Sys2Proof.Machine
end

