-- ==== Sys2Proof/Laws/Effect.lean ====
section
/-! SUPPORT. How a path is found after an update of its team, and what the operand forms of Machine/Operands.lean do: each of
them has the effect that Safety.lean's `Effect` describes. -/

namespace Sys2Proof.Machine

theorem State.at_some {s : State} {r : Ref} {c : Cur} :
    s.at r = some c ↔ c.r = r ∧ tget s.groups r.gid = some c.g ∧ tget c.g.teams r.role = some c.t ∧
      tget c.t.paths r.slot = some c.p := by
  unfold State.at
  cases c
  grind

theorem State.look_at {s : State} {c : Cur} (h : s.look = some c) : s.at c.r = some c := by
  unfold State.look at h
  split at h
  · cases h
  · next r _ => have := (State.at_some.1 h).1; simpa [this] using h

/-- A path after its team has changed. -/
theorem State.at_modTeam {s : State} {r : Ref} {c : Cur} (h : s.at r = some c) (f : Team → Team) {p : Path}
    (hp : tget (f c.t).paths r.slot = some p) :
    (s.modTeam r.gid r.role f).at r = some { r := r, g := c.g.modTeam r.role f, t := f c.t, p := p } := by
  obtain ⟨h1, h2, h3, h4⟩ := State.at_some.1 h
  rw [State.at_some]
  simp [h2, Group.modTeam, h3, hp]

theorem State.modTeam_modTeam (s : State) (gid role : Nat) (f g : Team → Team) :
    (s.modTeam gid role f).modTeam gid role g = s.modTeam gid role fun t => g (f t) := by
  simp only [State.modTeam, State.modGroup, tmod_tmod, Group.modTeam]

/-- A team's paths and flag counts after its path has gone on. -/
theorem Team.advance_eq {t : Team} {slot : Nat} {p : Path} (h : tget t.paths slot = some p) :
    t.advance slot = { t with
      paths := match p.clause with | none => t.paths | some _ => tset t.paths slot p.after
      outst := match p.clause with
        | none => t.outst
        | some k => if k.left ≤ 1 then closeOutst k.id (shortClass k.hdr) t.outst else t.outst } := by
  unfold Team.advance Team.leaveClause Team.path Path.after
  simp only [h]
  cases hc : p.clause with
  | none => rfl
  | some k => dsimp only; split <;> simp

theorem Team.advance_path {t : Team} {slot : Nat} {p : Path} (h : tget t.paths slot = some p) :
    tget (t.advance slot).paths slot = some p.after := by
  rw [Team.advance_eq h]
  cases hc : p.clause with
  | none => simp [h, Path.after, hc]
  | some k => simp

theorem Team.advance_other {t : Team} {slot k : Nat} (hk : k ≠ slot) : tget (t.advance slot).paths k = tget t.paths k := by
  cases h : tget t.paths slot with
  | none => simp [Team.advance, Team.path, h]
  | some p =>
    rw [Team.advance_eq h]
    cases hc : p.clause with
    | none => rfl
    | some q => simp [tget_tset_ne _ _ hk]

/-- A change of the current team that leaves the other paths, the clause and the flag counts alone, followed by the advance. -/
theorem effect_modTeam {s : State} {c : Cur} (h : s.look = some c) (F : Team → Team) {fl : Nat → Lane → Lane}
    {ft : Team → Team} {fp : Path → Path}
    (hreg : { F c.t with lanes := [], paths := [], outst := [] } = { ft c.t with lanes := [], paths := [], outst := [] })
    (hlane : ∀ l, tget (F c.t).lanes l = (tget c.t.lanes l).map fun x => if l ∈ c.act s.guard then fl l x else x)
    (hother : ∀ k, k ≠ c.r.slot → tget (F c.t).paths k = tget c.t.paths k)
    (hpath : tget (F c.t).paths c.r.slot = some (fp c.p)) (hout : (F c.t).outst = c.t.outst)
    (hclause : (fp c.p).clause = c.p.clause) :
    Effect s c fl ft fp ((s.modTeam c.r.gid c.r.role F).advance c.r) := by
  have ha := State.look_at h
  obtain ⟨-, h2, h3, h4⟩ := State.at_some.1 ha
  have hadv : (s.modTeam c.r.gid c.r.role F).advance c.r =
      s.modTeam c.r.gid c.r.role fun t => (F t).advance c.r.slot := State.modTeam_modTeam ..
  rw [hadv]
  refine ⟨rfl, fun n hn => by simp [tget_tmod, hn], ?_⟩
  refine ⟨_, State.at_modTeam ha (fun t => (F t).advance c.r.slot) (Team.advance_path hpath), rfl, ?_, ?_, ?_, ?_, rfl, ?_⟩
  · intro k hk; simp [Group.modTeam, tget_tmod, hk]
  · rw [Team.advance_eq hpath]; exact hreg
  · intro l; rw [Team.advance_eq hpath]; exact hlane l
  · intro k hk; dsimp only; rw [Team.advance_other hk, hother k hk]
  · rw [Team.advance_eq hpath, hclause]; simp only [Cur.outstAfter, hout] <;> rfl

/-- What going on to the next instruction alone does. -/
theorem effect_advance {s : State} {c : Cur} (h : s.look = some c) (fl : Nat → Lane → Lane) (hl : ∀ l, l ∉ c.act s.guard ∨ fl l = id) :
    Effect s c fl id id (s.advance c.r) := by
  have ha := State.look_at h
  have h4 := (State.at_some.1 ha).2.2.2
  refine ⟨rfl, fun n hn => by simp [State.advance, tget_tmod, hn], ?_⟩
  refine ⟨_, State.at_modTeam ha (fun t => t.advance c.r.slot) (Team.advance_path h4), rfl, ?_, ?_, ?_, ?_, rfl, ?_⟩
  · intro k hk; simp [Group.modTeam, tget_tmod, hk]
  · rw [Team.advance_eq h4]; rfl
  · intro l; rw [Team.advance_eq h4]; rcases hl l with e | e <;> simp [e]
  · intro k hk; dsimp only; rw [Team.advance_other hk]
  · rw [Team.advance_eq h4]; simp only [Cur.outstAfter] <;> rfl

/-- What `lanewise` does. -/
theorem effect_lanewise {s : State} {c : Cur} (h : s.look = some c) (f : Nat → Lane → Lane) :
    Effect s c f id id (s.lanewise c f) := by
  have h4 := (State.at_some.1 (State.look_at h)).2.2.2
  refine effect_modTeam h (fun t => t.mapLanes (c.act s.guard) f) rfl ?_ (fun _ _ => rfl) h4 rfl rfl
  intro l
  simp only [Team.mapLanes]
  exact (tget_map c.t.lanes (fun k x => if (c.act s.guard).contains k then f k x else x) l).trans (by simp)

/-- What `uniform` does: nothing to the path's file where no lane is active. -/
theorem effect_uniform {s : State} {c : Cur} (h : s.look = some c) (f : Path → Path)
    (hc : (f c.p).clause = c.p.clause) :
    Effect s c (fun _ x => x) id (if (c.act s.guard).isEmpty then id else f) (s.uniform c f) := by
  have h4 := (State.at_some.1 (State.look_at h)).2.2.2
  unfold State.uniform
  split
  · exact effect_advance h _ fun _ => .inr rfl
  · refine effect_modTeam h (fun t => { t with paths := tmod t.paths c.r.slot f }) rfl (fun l => by simp) ?_ ?_ rfl hc
    · intro k hk; simp [tget_tmod, hk]
    · simp [h4]

/-- An instruction that issues runs its effect. -/
theorem issue_of {s : State} {i : Instr} {c : Cur} (h : Issues s i c) (k : Cur → State) : s.issue i k = .next (k c) := by
  simp [State.issue, State.issueWith, h.1, h.2]

/-- An instruction that a check stops takes the illegal-instruction fault (R276, R277). -/
theorem issue_illegal {s : State} {i : Instr} {c : Cur} {d : Nat} (h : s.look = some c) (hd : s.illegal i c [] = some d)
    (k : Cur → State) : s.issue i k = .next (s.takeTrap c.r 1 d 0 0 false) := by
  simp [State.issue, State.issueWith, h, hd]

end Sys2Proof.Machine
end

