-- ==== Sys2Proof/Laws/Encode.lean ====
section
/-! SUPPORT. The fields of the words that the encoder writes (12 R263, Tables 12-4 to 12-9). -/

namespace Sys2Proof

theorem word_toNat (n : Nat) : (word n).toNat = n % 2 ^ 32 := by simp [word]

theorem fld_eq {k : Nat} (w : Word) (lo : Nat) (x : BitVec k) (h : w.toNat / 2 ^ lo % 2 ^ k = x.toNat) : fld w lo k = x := by
  apply BitVec.eq_of_toNat_eq; simpa [fld] using h

/-- What word 0 holds above the fields of its format: major and guard. -/
structure Heads (w : Word) (g : Guard) (M : Nat) : Prop where
  major : majorOf w = M
  guard : guardOf w = g

theorem heads_of {w : Word} {g : Guard} {M r : Nat} (hM : M < 128) (hr : r < 2 ^ 21)
    (h : w = word (((M * 2 + g.neg.toNat) * 8 + g.p.toNat) * 2 ^ 21 + r)) : Heads w g M := by
  have := g.neg.isLt; have := g.p.isLt
  subst h
  constructor
  · simp only [majorOf, word_toNat]; omega
  · cases g with | mk neg p =>
    simp only [guardOf, Guard.mk.injEq]
    refine ⟨fld_eq _ _ _ ?_, fld_eq _ _ _ ?_⟩ <;> simp only [word_toNat] <;> omega

theorem packG_spec (g : Guard) (M F : Nat) (o : OpG) (hM : M < 128) (hF : F < 8) :
    Heads (packG g M F o) g M ∧ fnOf (packG g M F o) = F ∧ getG (packG g M F o) = o := by
  have := g.neg.isLt; have := g.p.isLt; have := o.d.isLt; have := o.a.isLt; have := o.b.isLt
  refine ⟨heads_of (r := ((o.d.toNat * 64 + o.a.toNat) * 64 + o.b.toNat) * 8 + F) hM (by omega) ?_, ?_, ?_⟩
  · unfold packG; congr 1; omega
  · simp only [fnOf, packG, word_toNat]; omega
  · cases o with | mk d a b =>
    simp only [getG, OpG.mk.injEq]
    refine ⟨fld_eq _ _ _ ?_, fld_eq _ _ _ ?_, fld_eq _ _ _ ?_⟩ <;> simp only [packG, word_toNat] <;> omega

theorem packR_spec (g : Guard) (M v : Nat) (o : OpR) (hM : M < 128) (hv : v < 2) :
    Heads (packR g M v o) g M ∧ vOf (packR g M v o) = v ∧ getR (packR g M v o) = o := by
  have := g.neg.isLt; have := g.p.isLt; have := o.d.isLt; have := o.a.isLt; have := o.b.isLt; have := o.h.isLt
  refine ⟨heads_of (r := (((o.d.toNat * 64 + o.a.toNat) * 64 + o.b.toNat) * 2 + v) * 4 + o.h.toNat) hM (by omega) ?_, ?_, ?_⟩
  · unfold packR; congr 1; omega
  · simp only [vOf, packR, word_toNat]; omega
  · cases o with | mk d a b h =>
    simp only [getR, OpR.mk.injEq]
    refine ⟨fld_eq _ _ _ ?_, fld_eq _ _ _ ?_, fld_eq _ _ _ ?_, fld_eq _ _ _ ?_⟩ <;> simp only [packR, word_toNat] <;> omega

theorem packU_spec (g : Guard) (M F : Nat) (o : OpU) (hM : M < 128) (hF : F < 64) :
    Heads (packU g M F o) g M ∧ fnUOf (packU g M F o) = F ∧ vOf (packU g M F o) = 0 ∧ getU (packU g M F o) = o := by
  have := g.neg.isLt; have := g.p.isLt; have := o.d.isLt; have := o.a.isLt; have := o.h.isLt
  refine ⟨heads_of (r := ((o.d.toNat * 64 + o.a.toNat) * 64 + F) * 8 + o.h.toNat) hM (by omega) ?_, ?_, ?_, ?_⟩
  · unfold packU; congr 1; omega
  · simp only [fnUOf, packU, word_toNat]; omega
  · simp only [vOf, packU, word_toNat]; omega
  · cases o with | mk d a h =>
    simp only [getU, OpU.mk.injEq]
    refine ⟨fld_eq _ _ _ ?_, fld_eq _ _ _ ?_, fld_eq _ _ _ ?_⟩ <;> simp only [packU, word_toNat] <;> omega

theorem packU_bare (g : Guard) (M F : Nat) (hF : F < 64) (i : Instr) :
    okZ (packU g M F ⟨0, 0, 0⟩) i = .ok i := by
  have := g.neg.isLt; have := g.p.isLt
  unfold okZ
  rw [if_pos]
  refine ⟨fld_eq _ _ _ ?_, fld_eq _ _ _ ?_⟩ <;> simp [packU] <;> omega

theorem packI_spec (g : Guard) (M : Nat) (o : OpI) (hM : M < 128) :
    Heads (packI g M o) g M ∧ getI (packI g M o) = o ∧ fld (packI g M o) 0 9 = o.imm := by
  have := g.neg.isLt; have := g.p.isLt; have := o.d.isLt; have := o.a.isLt; have := o.imm.isLt
  have h : getI (packI g M o) = o := by
    cases o with | mk d a imm =>
    simp only [getI, OpI.mk.injEq]
    refine ⟨fld_eq _ _ _ ?_, fld_eq _ _ _ ?_, fld_eq _ _ _ ?_⟩ <;> simp only [packI, word_toNat] <;> omega
  refine ⟨heads_of (r := (o.d.toNat * 64 + o.a.toNat) * 512 + o.imm.toNat) hM (by omega) ?_, h, congrArg OpI.imm h⟩
  unfold packI; refine congrArg word ?_; omega

theorem packC_spec (g : Guard) (M : Nat) (o : OpC) (hM : M < 128) :
    Heads (packC g M o) g M ∧ getC (packC g M o) = o := by
  have := g.neg.isLt; have := g.p.isLt; have := o.d.isLt; have := o.a.isLt; have := o.b.isLt; have := o.cc.isLt
  refine ⟨heads_of (r := ((o.d.toNat * 64 + o.a.toNat) * 64 + o.b.toNat) * 8 + o.cc.toNat) hM (by omega) ?_, ?_⟩
  · unfold packC; congr 1; omega
  · cases o with | mk d a b cc =>
    simp only [getC, OpC.mk.injEq]
    refine ⟨fld_eq _ _ _ ?_, fld_eq _ _ _ ?_, fld_eq _ _ _ ?_, fld_eq _ _ _ ?_⟩ <;> simp only [packC, word_toNat] <;> omega

theorem packJ_spec (g : Guard) (M : Nat) (o : OpJ) (hM : M < 128) :
    Heads (packJ g M o) g M ∧ getJ (packJ g M o) = o := by
  have := g.neg.isLt; have := g.p.isLt; have := o.off.isLt
  refine ⟨heads_of (r := o.off.toNat) hM (by omega) ?_, ?_⟩
  · unfold packJ; congr 1
  · cases o with | mk off =>
    simp only [getJ, OpJ.mk.injEq]
    refine fld_eq _ _ _ ?_; simp only [packJ, word_toNat]; omega

theorem packB_spec (g : Guard) (o : OpB) :
    Heads (packB g o) g 97 ∧ fnOf (packB g o) = 0 ∧ getB (packB g o) o.j = o := by
  have := g.neg.isLt; have := g.p.isLt; have := o.t.isLt
  refine ⟨heads_of (r := o.t.toNat * 8) (by omega) (by omega) ?_, ?_, ?_⟩
  · unfold packB; congr 1; omega
  · simp only [fnOf, packB, word_toNat]; omega
  · cases o with | mk t j =>
    simp only [getB, OpB.mk.injEq, and_true]
    refine fld_eq _ _ _ ?_; simp only [packB, word_toNat]; omega

theorem getXMem_pack (x : XMem) : getXMem x.pack = x := by
  cases x with | mk scope ord sz ub sx off =>
  have := scope.isLt; have := ord.isLt; have := sz.isLt; have := ub.isLt; have := sx.isLt; have := off.isLt
  simp only [getXMem, XMem.mk.injEq]
  refine ⟨fld_eq _ _ _ ?_, fld_eq _ _ _ ?_, fld_eq _ _ _ ?_, fld_eq _ _ _ ?_, fld_eq _ _ _ ?_, fld_eq _ _ _ ?_⟩ <;> simp only [XMem.pack, word_toNat] <;> omega

theorem getXAtm_pack (x : XAtm) : getXAtm x.pack = x := by
  cases x with | mk scope ord aop aty ub off =>
  have := scope.isLt; have := ord.isLt; have := aop.isLt; have := aty.isLt; have := ub.isLt; have := off.isLt
  simp only [getXAtm, XAtm.mk.injEq]
  refine ⟨fld_eq _ _ _ ?_, fld_eq _ _ _ ?_, fld_eq _ _ _ ?_, fld_eq _ _ _ ?_, fld_eq _ _ _ ?_, fld_eq _ _ _ ?_⟩ <;> simp only [XAtm.pack, word_toNat] <;> omega

theorem getXMat_pack (x : XMat) : getXMat x.pack = x := by
  cases x with | mk c slc sx ix ty nr nc =>
  have := c.isLt; have := slc.isLt; have := sx.isLt; have := ix.isLt; have := ty.isLt; have := nr.isLt; have := nc.isLt
  simp only [getXMat, XMat.mk.injEq]
  refine ⟨fld_eq _ _ _ ?_, fld_eq _ _ _ ?_, fld_eq _ _ _ ?_, fld_eq _ _ _ ?_, fld_eq _ _ _ ?_, fld_eq _ _ _ ?_, fld_eq _ _ _ ?_⟩ <;> simp only [XMat.pack, word_toNat] <;> omega

theorem getMMem_pack (x : MMem) : getMMem x.pack = x := by
  cases x with | mk scope shp sx res ord ty nr nc =>
  have := scope.isLt; have := shp.isLt; have := sx.isLt; have := res.isLt; have := ord.isLt; have := ty.isLt; have := nr.isLt; have := nc.isLt
  simp only [getMMem, MMem.mk.injEq]
  refine ⟨fld_eq _ _ _ ?_, fld_eq _ _ _ ?_, fld_eq _ _ _ ?_, fld_eq _ _ _ ?_, fld_eq _ _ _ ?_, fld_eq _ _ _ ?_, fld_eq _ _ _ ?_, fld_eq _ _ _ ?_⟩ <;> simp only [MMem.pack, word_toNat] <;> omega

theorem getXAsy_pack (x : XAsy) : getXAsy x.pack = x := by
  cases x with | mk scope acq rel bos rm len =>
  have := scope.isLt; have := acq.isLt; have := rel.isLt; have := bos.isLt; have := rm.isLt; have := len.isLt
  simp only [getXAsy, XAsy.mk.injEq]
  refine ⟨fld_eq _ _ _ ?_, fld_eq _ _ _ ?_, fld_eq _ _ _ ?_, fld_eq _ _ _ ?_, fld_eq _ _ _ ?_, fld_eq _ _ _ ?_⟩ <;> simp only [XAsy.pack, word_toNat] <;> omega

theorem getXBf_pack (x : XBf) : getXBf x.pack = x := by
  cases x with | mk res pos len =>
  have := res.isLt; have := pos.isLt; have := len.isLt
  simp only [getXBf, XBf.mk.injEq]
  refine ⟨fld_eq _ _ _ ?_, fld_eq _ _ _ ?_, fld_eq _ _ _ ?_⟩ <;> simp only [XBf.pack, word_toNat] <;> omega

theorem getXSel_pack (x : XSel) : getXSel x.pack = x := by
  cases x with | mk res psel =>
  have := res.isLt; have := psel.isLt
  simp only [getXSel, XSel.mk.injEq]
  refine ⟨fld_eq _ _ _ ?_, fld_eq _ _ _ ?_⟩ <;> simp only [XSel.pack, word_toNat] <;> omega

theorem getXCvt_pack (x : XCvt) : getXCvt x.pack = x := by
  cases x with | mk res rmo sat dt st =>
  have := res.isLt; have := rmo.isLt; have := sat.isLt; have := dt.isLt; have := st.isLt
  simp only [getXCvt, XCvt.mk.injEq]
  refine ⟨fld_eq _ _ _ ?_, fld_eq _ _ _ ?_, fld_eq _ _ _ ?_, fld_eq _ _ _ ?_, fld_eq _ _ _ ?_⟩ <;> simp only [XCvt.pack, word_toNat] <;> omega

theorem getXFence_pack (x : XFence) : getXFence x.pack = x := by
  cases x with | mk scope ord res paths =>
  have := scope.isLt; have := ord.isLt; have := res.isLt; have := paths.isLt
  simp only [getXFence, XFence.mk.injEq]
  refine ⟨fld_eq _ _ _ ?_, fld_eq _ _ _ ?_, fld_eq _ _ _ ?_, fld_eq _ _ _ ?_⟩ <;> simp only [XFence.pack, word_toNat] <;> omega

theorem getXBar_pack (x : XBar) : getXBar x.pack = x := by
  cases x with | mk scope res immf value =>
  have := scope.isLt; have := res.isLt; have := immf.isLt; have := value.isLt
  simp only [getXBar, XBar.mk.injEq]
  refine ⟨fld_eq _ _ _ ?_, fld_eq _ _ _ ?_, fld_eq _ _ _ ?_, fld_eq _ _ _ ?_⟩ <;> simp only [XBar.pack, word_toNat] <;> omega

theorem getXMark_pack (x : XMark) : getXMark x.pack = x := by
  cases x with | mk scope res =>
  have := scope.isLt; have := res.isLt
  simp only [getXMark, XMark.mk.injEq]
  refine ⟨fld_eq _ _ _ ?_, fld_eq _ _ _ ?_⟩ <;> simp only [XMark.pack, word_toNat] <;> omega

theorem getXLit_pack (x : XLit) : getXLit x.pack = x := rfl

theorem getXTlb_pack (k : Nat) (x : XTlb) (hk : k < 4) : getXTlb (x.pack k) = x ∧ (fld (x.pack k) 30 2).toNat = k := by
  cases x with | mk res asid =>
  have := res.isLt; have := asid.isLt
  constructor
  · simp only [getXTlb, XTlb.mk.injEq]
    refine ⟨fld_eq _ _ _ ?_, fld_eq _ _ _ ?_⟩ <;> simp only [XTlb.pack, word_toNat] <;> omega
  · simp only [fld, XTlb.pack, BitVec.toNat_ofNat]; omega

/-- The TYPE field of XMAT, and bit 15 of XASY, which tell two forms apart. -/
theorem fld_pack_ty (x : XMat) : fld x.pack 8 8 = x.ty := congrArg XMat.ty (getXMat_pack x)

theorem fld_pack_len (x : XAsy) : fld x.pack 15 1 = 0 ↔ x.len.toNat < 32768 := by
  have h := congrArg (fun y => (XAsy.len y).toNat) (getXAsy_pack x)
  simp only [getXAsy, fld, BitVec.toNat_ofNat] at h
  have := x.len.isLt
  rw [← BitVec.toNat_inj]
  simp only [fld, BitVec.toNat_ofNat]
  simp at h ⊢
  omega

end Sys2Proof
end

