-- ==== Sys2Proof/Laws/Land.lean ====
section
/-! SUPPORT. Register writes that wait (R262): what `landOuts` adds to a team, and what the lanes hold once the writes are
done. -/

namespace Sys2Proof.Machine

/-- What a waiting register write does to one lane. -/
def Pending.onLane (w : Pending) (l : Nat) (r : Lane) : Lane :=
  match w with
  | .v n _ vals => match tget vals l with | none => r | some x => r.setV n x
  | .p n _ vals => match tget vals l with | none => r | some x => r.setP n x
  | .m n _ vals => match tget vals l with | none => r | some x => r.setM n x
  | _ => r

/-- Whether a waiting write is one of registers of lanes. -/
def Pending.ofLanes : Pending → Bool
  | .v _ _ _ | .p _ _ _ | .m _ _ _ => true
  | _ => false

theorem doLand_eq (t : Team) {w : Pending} (h : w.ofLanes = true) :
    t.doLand w = { t with lanes := tmap t.lanes w.onLane } := by
  cases w <;> first | rfl | cases h

theorem tmap_tmap {α : Type} (t : Tab α) (f g : Nat → α → α) : tmap (tmap t f) g = tmap t fun k a => g k (f k a) := by
  simp [tmap]

theorem foldl_doLand (ws : List Land) (t : Team) (h : ∀ w ∈ ws, w.what.ofLanes = true) :
    ws.foldl (fun t w => t.doLand w.what) t =
      { t with lanes := tmap t.lanes fun l r => ws.foldl (fun r w => w.what.onLane l r) r } := by
  induction ws generalizing t with
  | nil => simp [tmap]
  | cons w ws ih =>
    simp only [List.foldl_cons]
    rw [doLand_eq t (h w (by simp)), ih _ fun w hw => h w (by simp [hw])]
    simp [tmap_tmap]

theorem Group.modTeam_modTeam (g : Group) (role : Nat) (f h : Team → Team) :
    (g.modTeam role f).modTeam role h = g.modTeam role fun t => h (f t) := by
  simp only [Group.modTeam, tmod_tmod]

/-- Waiting writes added one after the other. -/
theorem foldl_land (ws : List Pending) (s : State) (gid role clause : Nat) :
    ∃ new : List Land, new.map Land.what = ws ∧ (∀ n ∈ new, n.clause = clause) ∧
      ws.foldl (fun s w => s.land gid role clause w) s =
        if ws = [] then s else
        { s.modTeam gid role fun t => { t with landing := t.landing ++ new } with fresh := s.fresh + ws.length } := by
  induction ws generalizing s with
  | nil => exact ⟨[], rfl, by simp, rfl⟩
  | cons w ws ih =>
    obtain ⟨new, h1, h2, h3⟩ := ih (s.land gid role clause w)
    refine ⟨{ id := s.fresh, clause := clause, what := w } :: new, by simp [h1], by simpa using h2, ?_⟩
    rw [if_neg (by simp), List.foldl_cons, h3]
    by_cases he : ws = []
    · subst he; simp at h1; subst h1; rfl
    · rw [if_neg he]
      have e : ∀ (k : Nat) (f h : Team → Team),
          ({ s.modTeam gid role f with fresh := k } : State).modTeam gid role h =
            { s.modTeam gid role (fun t => h (f t)) with fresh := k } := by
        intro k f h; exact congrArg (fun x : State => { x with fresh := k }) (State.modTeam_modTeam s gid role f h)
      have e2 : s.land gid role clause w = { s.modTeam gid role fun t =>
          { t with landing := t.landing ++ [{ id := s.fresh, clause := clause, what := w }] } with fresh := s.fresh + 1 } := rfl
      rw [e2, e]
      simp only [List.append_assoc, List.singleton_append, List.length_cons, State.mk.injEq, true_and, and_true]
      omega

/-- The writes of k words of a register file, one for each mask word. -/
def perWord {α : Type} (mk : Nat → List (Nat × α) → Pending) (vals : List (Nat × α)) : List Pending :=
  (wordsOf (vals.map Prod.fst)).map fun w => mk w (vals.filter fun e => e.1 / 32 = w)

/-- The waiting writes of the outcomes of some lanes. -/
def pendings (outs : List (Nat × LaneOut)) : List Pending :=
  ((outs.flatMap fun e => e.2.m.map Prod.fst).dedup.flatMap fun n =>
      perWord (Pending.m n) (outs.filterMap fun e => (tget e.2.m n).map fun x => (e.1, x))) ++
    ((outs.flatMap fun e => e.2.v.map Prod.fst).dedup.flatMap fun n =>
      perWord (Pending.v n) (outs.filterMap fun e => (tget e.2.v n).map fun x => (e.1, x))) ++
    (outs.flatMap fun e => e.2.p.map Prod.fst).dedup.flatMap fun n =>
      perWord (Pending.p n) (outs.filterMap fun e => (tget e.2.p n).map fun x => (e.1, x))

theorem foldl_flatMap {α β γ : Type} (l : List α) (g : α → List β) (f : γ → β → γ) (a : γ) :
    (l.flatMap g).foldl f a = l.foldl (fun a x => (g x).foldl f a) a := by
  induction l generalizing a with
  | nil => rfl
  | cons x l ih => simp [ih]

theorem landOuts_eq (s : State) (r : Ref) (clause : Nat) (outs : List (Nat × LaneOut)) :
    s.landOuts r clause outs = (pendings outs).foldl (fun s w => s.land r.gid r.role clause w) s := by
  simp only [pendings, List.foldl_append, foldl_flatMap, perWord, List.foldl_map]
  rfl

theorem mem_perWord {α : Type} {mk : Nat → List (Nat × α) → Pending} {vals : List (Nat × α)} {w : Pending} :
    w ∈ perWord mk vals ↔ ∃ k, w = mk k (vals.filter fun e => e.1 / 32 = k) ∧ ∃ e ∈ vals, e.1 / 32 = k := by
  simp only [perWord, wordsOf, List.mem_map, List.mem_dedup]
  grind

theorem tget_filter {α : Type} (t : Tab α) (f : Nat → Bool) (k : Nat) :
    tget (t.filter fun e => f e.1) k = if f k then tget t k else none := by
  induction t with
  | nil => simp [tget]
  | cons e t ih => simp only [List.filter_cons, tget]; grind [tget]

/-- What lane l receives of one kind of register. -/
theorem tget_outs {α : Type} (outs : List (Nat × LaneOut)) (g : LaneOut → Option α)
    (h : ∀ e ∈ outs, tget outs e.1 = some e.2) (l : Nat) :
    tget (outs.filterMap fun e => (g e.2).map fun x => (e.1, x)) l = (tget outs l).bind g := by
  have key : ∀ os : List (Nat × LaneOut), (∀ e ∈ os, e.1 = l → tget outs l = some e.2) →
      tget (os.filterMap fun e => (g e.2).map fun x => (e.1, x)) l =
        if l ∈ os.map Prod.fst then (tget outs l).bind g else none := by
    intro os hos
    induction os with
    | nil => simp [tget]
    | cons e os ih =>
      have ih := ih fun e he => hos e (by simp [he])
      rw [List.filterMap_cons]
      by_cases hl : e.1 = l
      · have h1 := hos e (by simp) hl
        cases hg : g e.2 with
        | none =>
          simp only [Option.map_none, ih, h1]
          simp [hg]
        | some x => simp [tget, hl, h1, hg]
      · cases hg : g e.2 with
        | none => refine ih.trans ?_; grind
        | some x => refine (if_neg (Ne.symm hl)).trans (ih.trans ?_); grind
  rw [key outs fun e he hl => hl ▸ h e he]
  split
  · rfl
  · next hn =>
    cases ho : tget outs l with
    | none => rfl
    | some o => exact absurd (List.mem_map.2 ⟨(l, o), tget_mem ho, rfl⟩) hn

/-- A register of a lane that a list of writes reaches: where all that reach it agree, it holds what they write. -/
theorem foldl_get {α : Type} (get : Lane → α) (ws : List Pending) (l : Nat) (r : Lane) (x : Option α)
    (hw : ∀ w ∈ ws, (∀ r, get (w.onLane l r) = get r) ∨ ∃ a, x = some a ∧ ∀ r, get (w.onLane l r) = a)
    (hx : ∀ a, x = some a → ∃ w ∈ ws, ∀ r, get (w.onLane l r) = a) :
    get (ws.foldl (fun r w => w.onLane l r) r) = x.getD (get r) := by
  have key : ∀ (ws : List Pending) (r : Lane),
      (∀ w ∈ ws, (∀ r, get (w.onLane l r) = get r) ∨ ∃ a, x = some a ∧ ∀ r, get (w.onLane l r) = a) →
      get (ws.foldl (fun r w => w.onLane l r) r) = get r ∧ (∀ w ∈ ws, ∀ r, get (w.onLane l r) = get r) ∨
      ∃ a, x = some a ∧ get (ws.foldl (fun r w => w.onLane l r) r) = a := by
    intro ws
    induction ws with
    | nil => intro r _; left; simp
    | cons w ws ih =>
      intro r hw
      rw [List.foldl_cons]
      rcases ih (w.onLane l r) fun w h => hw w (by simp [h]) with ⟨h1, h2⟩ | h
      · rcases hw w (by simp) with h3 | ⟨a, ha, h3⟩
        · left; exact ⟨by rw [h1, h3], by intro v hv; rcases List.mem_cons.1 hv with rfl | hv; exacts [h3, h2 v hv]⟩
        · right; exact ⟨a, ha, by rw [h1, h3]⟩
      · right; exact h
  rcases key ws r hw with ⟨h1, h2⟩ | ⟨a, ha, h⟩
  · cases x with
    | none => exact h1
    | some a =>
      obtain ⟨w, hw, he⟩ := hx a rfl
      have := h2 w hw r
      simp only [Option.getD_some]
      rw [h1, ← this, he]
  · rw [h, ha]; rfl

@[simp] theorem getM_setM (l : Lane) (n k : Nat) (x : MReg) : (l.setM n x).getM k = if k = n then x else l.getM k := by
  simp only [Lane.getM, Lane.setM, tget_tset]; split <;> simp
@[simp] theorem getV_setV (l : Lane) (n k : Nat) (x : Word) : (l.setV n x).getV k = if k = n then x else l.getV k := by
  simp [Lane.getV, Lane.setV, rget_tset]
@[simp] theorem getM_setV (l : Lane) (n k : Nat) (x : Word) : (l.setV n x).getM k = l.getM k := rfl
@[simp] theorem getV_setM (l : Lane) (n k : Nat) (x : MReg) : (l.setM n x).getV k = l.getV k := rfl
@[simp] theorem getP_setV (l : Lane) (n k : Nat) (x : Word) : (l.setV n x).getP k = l.getP k := rfl
@[simp] theorem getP_setM (l : Lane) (n k : Nat) (x : MReg) : (l.setM n x).getP k = l.getP k := rfl
@[simp] theorem getV_setP (l : Lane) (n k : Nat) (b : Bool) : (l.setP n b).getV k = l.getV k := by
  unfold Lane.setP; split <;> rfl
@[simp] theorem getM_setP (l : Lane) (n k : Nat) (b : Bool) : (l.setP n b).getM k = l.getM k := by
  unfold Lane.setP; split <;> rfl

/-- Predicate k after predicate n is written (R264). -/
theorem getP_setP (l : Lane) (n k : Nat) (b : Bool) (hk : k < 64) :
    (l.setP n b).getP k = if k = 7 then true else if k = n then b else l.getP k := by
  unfold Lane.setP Lane.getP
  by_cases h7 : k = 7
  · simp [h7]
  · split
    · next h => simp [h7, show k ≠ n by omega]
    · have e1 : (1#64 <<< n).getLsbD k = decide (k = n) := by
        simp only [BitVec.getLsbD_shiftLeft, BitVec.getLsbD_one]
        by_cases h : k = n <;> simp [h] <;> omega
      have e2 : ((if b then 1#64 else 0#64) <<< n).getLsbD k = (decide (k = n) && b) := by
        cases b
        · simp
        · simpa using e1
      simp only [BitVec.getLsbD_or, BitVec.getLsbD_and, BitVec.getLsbD_not, e1, e2, h7, hk]
      by_cases h : k = n <;> simp [h]

/-- The values of one register, as one mask word receives them. -/
def outVals {α : Type} (outs : List (Nat × LaneOut)) (g : LaneOut → Option α) (j : Nat) : List (Nat × α) :=
  (outs.filterMap fun e => (g e.2).map fun x => (e.1, x)).filter fun e => e.1 / 32 = j

theorem tget_outVals {α : Type} (outs : List (Nat × LaneOut)) (g : LaneOut → Option α)
    (h : ∀ e ∈ outs, tget outs e.1 = some e.2) (j l : Nat) :
    tget (outVals outs g j) l = if l / 32 = j then (tget outs l).bind g else none := by
  have := tget_filter (outs.filterMap fun e => (g e.2).map fun x => (e.1, x)) (fun i => decide (i / 32 = j)) l
  rw [tget_outs outs g h l] at this
  simpa [outVals] using this

/-- One register after waiting writes, some of which are those of its kind for it, and the rest of which leave it alone. -/
theorem get_pendings {α : Type} (outs : List (Nat × LaneOut)) (h : ∀ e ∈ outs, tget outs e.1 = some e.2) (l : Nat) (r : Lane)
    (get : Lane → α) (g : LaneOut → Option α) (mk : Nat → List (Nat × α) → Pending) (ws : List Pending)
    (hmk : ∀ j vals r, get ((mk j vals).onLane l r) = (tget vals l).getD (get r))
    (hw : ∀ w ∈ ws, (∀ r, get (w.onLane l r) = get r) ∨ ∃ j, w = mk j (outVals outs g j))
    (hin : ∀ o, tget outs l = some o → (g o).isSome → mk (l / 32) (outVals outs g (l / 32)) ∈ ws) :
    get (ws.foldl (fun r w => w.onLane l r) r) = ((tget outs l).bind g).getD (get r) := by
  refine foldl_get get ws l r _ ?_ ?_
  · intro w hm
    rcases hw w hm with h1 | ⟨j, rfl⟩
    · exact .inl h1
    · simp only [hmk, tget_outVals outs g h]
      by_cases hj : l / 32 = j
      · cases hg : (tget outs l).bind g with
        | none => left; simp
        | some a => right; exact ⟨a, rfl, by simp [hj]⟩
      · left; simp [hj]
  · intro a ha
    obtain ⟨o, ho, hg⟩ := Option.bind_eq_some_iff.1 ha
    refine ⟨_, hin o ho (by simp [hg]), fun r => ?_⟩
    rw [hmk, tget_outVals outs g h, if_pos rfl, ha]; rfl

theorem mem_outWrites {α : Type} (outs : List (Nat × LaneOut)) (g : LaneOut → Tab α) (mk : Nat → Nat → List (Nat × α) → Pending)
    (w : Pending) :
    w ∈ (outs.flatMap fun e => (g e.2).map Prod.fst).dedup.flatMap (fun n =>
      perWord (mk n) (outs.filterMap fun e => (tget (g e.2) n).map fun x => (e.1, x))) ↔
    ∃ n j, w = mk n j (outVals outs (fun o => tget (g o) n) j) ∧
      ∃ e ∈ outs, (tget (g e.2) n).isSome ∧ e.1 / 32 = j := by
  simp only [List.mem_flatMap, List.mem_dedup, mem_perWord, outVals]
  constructor
  · rintro ⟨n, -, j, hw, e, he, hj⟩
    obtain ⟨e', he', hx⟩ := List.mem_filterMap.1 he
    obtain ⟨x, hv, rfl⟩ := Option.map_eq_some_iff.1 hx
    exact ⟨n, j, hw, e', he', by rw [hv]; rfl, hj⟩
  · rintro ⟨n, j, hw, e, he, hx, hj⟩
    obtain ⟨x, hx⟩ := Option.isSome_iff_exists.1 hx
    exact ⟨n, ⟨e, he, List.mem_map.2 ⟨(n, x), tget_mem hx, rfl⟩⟩, j, hw, (e.1, x),
      List.mem_filterMap.2 ⟨e, he, by simp [hx]⟩, hj⟩

/-- What waits of the outcomes of some lanes, once it is done. -/
theorem foldl_pendings (outs : List (Nat × LaneOut)) (h : ∀ e ∈ outs, tget outs e.1 = some e.2) (l : Nat) (r : Lane) :
    match tget outs l with
    | none => (pendings outs).foldl (fun r w => w.onLane l r) r = r
    | some o => r.after o ((pendings outs).foldl (fun r w => w.onLane l r) r) := by
  have hmem : ∀ w, w ∈ pendings outs ↔
      (∃ n j, w = .m n j (outVals outs (fun o => tget o.m n) j) ∧ ∃ e ∈ outs, (tget e.2.m n).isSome ∧ e.1 / 32 = j) ∨
      (∃ n j, w = .v n j (outVals outs (fun o => tget o.v n) j) ∧ ∃ e ∈ outs, (tget e.2.v n).isSome ∧ e.1 / 32 = j) ∨
      ∃ n j, w = .p n j (outVals outs (fun o => tget o.p n) j) ∧ ∃ e ∈ outs, (tget e.2.p n).isSome ∧ e.1 / 32 = j := by
    intro w
    simp only [pendings, List.mem_append, or_assoc]
    rw [mem_outWrites outs LaneOut.m Pending.m, mem_outWrites outs LaneOut.v Pending.v, mem_outWrites outs LaneOut.p Pending.p]
  cases ho : tget outs l with
  | none =>
    have : ∀ (ws : List Pending) (r : Lane), (∀ w ∈ ws, ∀ r, w.onLane l r = r) →
        ws.foldl (fun r w => w.onLane l r) r = r := by
      intro ws
      induction ws with
      | nil => intros; rfl
      | cons w ws ih => intro r hw; rw [List.foldl_cons, hw w (by simp), ih r fun w h => hw w (by simp [h])]
    refine this _ _ fun w hw r => ?_
    rcases (hmem w).1 hw with ⟨n, j, rfl, -⟩ | ⟨n, j, rfl, -⟩ | ⟨n, j, rfl, -⟩ <;>
      simp [Pending.onLane, tget_outVals outs _ h, ho]
  | some o =>
    have hin := tget_mem ho
    refine ⟨fun n => ?_, fun n => ?_, fun n hn => ?_⟩
    · have := get_pendings outs h l r (fun r => r.getM n) (fun o => tget o.m n) (Pending.m n) (pendings outs) ?_ ?_ ?_
      · simpa [ho] using this
      · intro j vals r; simp only [Pending.onLane]; split <;> simp [*]
      · intro w hw
        rcases (hmem w).1 hw with ⟨k, j, rfl, -⟩ | ⟨k, j, rfl, -⟩ | ⟨k, j, rfl, -⟩
        · by_cases hk : k = n
          · exact .inr ⟨j, by rw [hk]⟩
          · left; intro r; simp only [Pending.onLane]; split <;> simp [Ne.symm hk]
        all_goals left; intro r; simp only [Pending.onLane]; split <;> simp
      · intro o' ho' hs; obtain rfl := Option.some.inj (ho.symm.trans ho'); exact (hmem _).2 (.inl ⟨n, _, rfl, (l, o), hin, hs, rfl⟩)
    · have := get_pendings outs h l r (fun r => r.getV n) (fun o => tget o.v n) (Pending.v n) (pendings outs) ?_ ?_ ?_
      · simpa [ho] using this
      · intro j vals r; simp only [Pending.onLane]; split <;> simp [*]
      · intro w hw
        rcases (hmem w).1 hw with ⟨k, j, rfl, -⟩ | ⟨k, j, rfl, -⟩ | ⟨k, j, rfl, -⟩
        · left; intro r; simp only [Pending.onLane]; split <;> simp
        · by_cases hk : k = n
          · exact .inr ⟨j, by rw [hk]⟩
          · left; intro r; simp only [Pending.onLane]; split <;> simp [Ne.symm hk]
        · left; intro r; simp only [Pending.onLane]; split <;> simp
      · intro o' ho' hs; obtain rfl := Option.some.inj (ho.symm.trans ho'); exact (hmem _).2 (.inr (.inl ⟨n, _, rfl, (l, o), hin, hs, rfl⟩))
    · split
      · next h7 => subst h7; rfl
      · next h7 =>
        have := get_pendings outs h l r (fun r => r.getP n) (fun o => tget o.p n) (Pending.p n) (pendings outs) ?_ ?_ ?_
        · simpa [ho] using this
        · intro j vals r; simp only [Pending.onLane]; split <;> simp [*, getP_setP]
        · intro w hw
          rcases (hmem w).1 hw with ⟨k, j, rfl, -⟩ | ⟨k, j, rfl, -⟩ | ⟨k, j, rfl, -⟩
          · left; intro r; simp only [Pending.onLane]; split <;> simp
          · left; intro r; simp only [Pending.onLane]; split <;> simp
          · by_cases hk : k = n
            · exact .inr ⟨j, by rw [hk]⟩
            · left; intro r; simp only [Pending.onLane]; split <;> simp [getP_setP, hn, h7, Ne.symm hk]
        · intro o' ho' hs; obtain rfl := Option.some.inj (ho.symm.trans ho'); exact (hmem _).2 (.inr (.inr ⟨n, _, rfl, (l, o), hin, hs, rfl⟩))

theorem pendings_ofLanes (outs : List (Nat × LaneOut)) : ∀ w ∈ pendings outs, w.ofLanes = true := by
  intro w hw
  simp only [pendings, List.mem_append, List.mem_flatMap, mem_perWord] at hw
  rcases hw with (⟨k, _, j, rfl, _⟩ | ⟨k, _, j, rfl, _⟩) | ⟨k, _, j, rfl, _⟩ <;> rfl

/-- What `landOuts` and the advance after it do: the outcomes wait as register writes, nothing else changes but the place of
the path. -/
theorem effect_landOuts {s : State} {c : Cur} (h : s.look = some c) (outs : List (Nat × LaneOut))
    (hf : ∀ e ∈ outs, tget outs e.1 = some e.2) :
    ∃ new, Waits c outs new ∧
      Effect s c (fun _ l => l) (fun u => { u with landing := u.landing ++ new }) id
        ((s.landOuts c.r c.p.clauseId outs).advance c.r) := by
  obtain ⟨new, h1, h2, h3⟩ := foldl_land (pendings outs) s c.r.gid c.r.role c.p.clauseId
  refine ⟨new, ⟨h2, fun u hu => ?_⟩, ?_⟩
  · have hl : ∀ w ∈ new, w.what.ofLanes = true := fun w hw =>
      pendings_ofLanes outs _ (h1 ▸ List.mem_map_of_mem hw)
    rw [foldl_doLand new u hl]
    refine ⟨rfl, fun l => ?_⟩
    have e : ∀ r, new.foldl (fun r w => w.what.onLane l r) r = (pendings outs).foldl (fun r w => w.onLane l r) r := by
      intro r; rw [← h1, List.foldl_map]
    simp only [tget_tmap, hu]
    cases hx : tget c.t.lanes l with
    | none => trivial
    | some x =>
      simp only [Option.map_some, e]
      have := foldl_pendings outs hf l x
      cases ho : tget outs l <;> simpa [ho] using this
  · rw [landOuts_eq, h3]
    by_cases he : pendings outs = []
    · rw [if_pos he]
      obtain rfl : new = [] := by rw [he] at h1; simpa using h1
      simp only [List.append_nil]
      exact effect_advance h _ fun _ => .inr rfl
    · rw [if_neg he]
      have h4 := (State.at_some.1 (State.look_at h)).2.2.2
      have := effect_modTeam h (fun t => { t with landing := t.landing ++ new }) (fl := fun _ l => l)
        (ft := fun u => { u with landing := u.landing ++ new }) (fp := id) rfl (by intro l; simp) (fun _ _ => rfl) h4 rfl rfl
      exact this

end Sys2Proof.Machine
end

