-- ==== Sys2Proof/Laws/Forms.lean ====
section
/-! SUPPORT. What the operand forms that can trap do: scalar floating point (R229) and matrix instructions (R313). -/

namespace Sys2Proof.Machine

/-- A scalar floating-point instruction with no enabled flag raised. -/
theorem effect_fpLanes {s : State} {c : Cur} (h : s.look = some c) (f : Lane → FpLane) (hb : c.fpBad s.guard f = []) :
    Effect s c (fun _ l => (f l).lane) (fun u => u.raise (c.fpAll s.guard f)) id (s.fpLanes c f) := by
  have h4 := (State.at_some.1 (State.look_at h)).2.2.2
  have e : s.fpLanes c f = ((s.modTeam c.r.gid c.r.role fun t =>
      (t.raise (c.fpAll s.guard f)).mapLanes (c.act s.guard) fun _ l => (f l).lane).advance c.r) := by
    simp only [State.fpLanes, State.modTeam_guard, hb, List.isEmpty_nil, ↓reduceIte, State.modTeam_modTeam]
  rw [e]
  refine effect_modTeam h _ rfl ?_ (fun _ _ => rfl) h4 rfl rfl
  intro l
  simp only [Team.mapLanes, Team.raise]
  exact (tget_map c.t.lanes (fun k x => if (c.act s.guard).contains k then (f x).lane else x) l).trans (by simp)

/-- A scalar floating-point instruction with an enabled flag raised. -/
theorem fpLanes_trap (s : State) (c : Cur) (f : Lane → FpLane) (hb : c.fpBad s.guard f ≠ []) :
    s.fpLanes c f = (s.modTeam c.r.gid c.r.role fun u => u.raise (c.fpAll s.guard f)).takeTrap c.r 0x0A 0 0
      (laneSet (c.fpBad s.guard f)) false := by
  unfold State.fpLanes
  exact if_neg (by simpa using hb)

theorem mapM_some {α β : Type} (f : α → Option β) (l : List α) (r : List β) (h : l.mapM f = some r) :
    (∀ a ∈ l, (f a).isSome) ∧ l.filterMap f = r := by
  induction l generalizing r with
  | nil => simp_all
  | cons a l ih =>
    simp only [List.mapM_cons, Option.bind_eq_bind, Option.bind_eq_some_iff, Option.pure_def, Option.some.injEq] at h
    obtain ⟨b, hb, r', hr, rfl⟩ := h
    have := ih r' hr
    constructor
    · intro x hx; rcases List.mem_cons.1 hx with rfl | hx; exacts [by simp [hb], this.1 x hx]
    · simp [hb, this.2]

/-- Outcomes that depend on the lane alone: looking one up gives that of the lane. -/
theorem tget_outcomes (ls : List Nat) (f : Nat → Option LaneOut) :
    ∀ e ∈ ls.filterMap (fun l => (f l).map fun o => (l, o)), tget (ls.filterMap fun l => (f l).map fun o => (l, o)) e.1 = some e.2 := by
  intro e he
  obtain ⟨l, hl, hx⟩ := List.mem_filterMap.1 he
  obtain ⟨o, ho, rfl⟩ := Option.map_eq_some_iff.1 hx
  clear he hx
  induction ls with
  | nil => simp at hl
  | cons k ls ih =>
    rw [List.filterMap_cons]
    by_cases hk : k = l
    · subst hk; simp [ho, tget]
    · have ih := ih (by simpa [Ne.symm hk] using hl)
      cases hf : f k with
      | none => exact ih
      | some o' => exact (if_neg (Ne.symm hk)).trans ih

/-- A matrix instruction none of whose active lanes fails. -/
theorem effect_matrix {s : State} {c : Cur} (h : s.look = some c) (f : Lane → Option LaneOut) {outs : List (Nat × LaneOut)}
    (ho : (c.act s.guard).mapM (fun l => (f (c.t.lane l)).map fun o => (l, o)) = some outs) :
    ∃ new, Waits c outs new ∧
      Effect s c (fun _ l => l) (fun u => { u with landing := u.landing ++ new }) id (s.matrix c f) := by
  obtain ⟨h1, h2⟩ := mapM_some _ _ _ ho
  have hb : ((c.act s.guard).filter fun l => (f (c.t.lane l)).isNone) = [] := by
    rw [List.filter_eq_nil_iff]; intro l hl; simpa [Option.isSome_iff_ne_none] using h1 l hl
  have e : s.matrix c f = (s.landOuts c.r c.p.clauseId outs).advance c.r := by
    simp only [State.matrix, hb, h2, List.isEmpty_nil, ↓reduceIte]
  rw [e]
  exact effect_landOuts h outs (h2 ▸ tget_outcomes (c.act s.guard) fun l => f (c.t.lane l))

/-- A matrix instruction some of whose active lanes fail. -/
theorem matrix_trap (s : State) (c : Cur) (f : Lane → Option LaneOut) (h : ∃ l ∈ c.act s.guard, f (c.t.lane l) = none) :
    s.matrix c f = s.takeTrap c.r 8 0 0 (laneSet ((c.act s.guard).filter fun l => (f (c.t.lane l)).isNone)) false := by
  obtain ⟨l, hl, hf⟩ := h
  unfold State.matrix
  rw [if_neg]
  simp only [List.isEmpty_iff, List.filter_eq_nil_iff]
  exact fun h => h l hl (by simp [hf])

end Sys2Proof.Machine
end

