-- ==== Sys2Proof/Laws/KeepsMeanings.lean ====
section
/-! SUPPORT. Every meaning keeps memory in canonical form and the counters of the cores in agreement. -/

namespace Sys2Proof.Machine
/-- An outcome whose next state, if any, keeps what a state had. -/
structure KeptR (s : State) (r : Res) : Prop where
  out : ∀ t, r = .next t → s.Keeps t


theorem keptR_next {s₀ s : State} (h : s₀.Keeps s) : KeptR s₀ (.next s) := ⟨fun t e => by cases e; exact h⟩
theorem keptR_fault {s₀ : State} {f : Fault} : KeptR s₀ (.fault f) := ⟨fun t e => by cases e⟩
theorem keptR_issueWith {s₀ s : State} {i : Instr} {m : Cur → List Nat} {k : Cur → State} (h : s₀.Keeps s)
    (hk : ∀ c, s₀.Keeps (k c)) : KeptR s₀ (s.issueWith i m k) := by
  unfold State.issueWith
  split
  · exact keptR_fault
  · split
    · exact keptR_next (kept_takeTrap _ _ _ _ _ _ _ h)
    · exact keptR_next (hk _)
theorem keptR_issue {s₀ s : State} {i : Instr} {k : Cur → State} (h : s₀.Keeps s)
    (hk : ∀ c, s₀.Keeps (k c)) : KeptR s₀ (s.issue i k) := keptR_issueWith h hk

theorem kept_execGroupDispatch {s₀ : State} (s : State) (h_s : s₀.Keeps s) :
    KeptR s₀ (execGroupDispatch s) := by
  unfold execGroupDispatch
  with_reducible
    repeat' first | assumption | apply keptR_next | apply keptR_issue | apply keptR_issueWith | exact keptR_fault
                  | apply kept_noteWait | apply kept_dispatch | refine kept_foldl ?_ ?_ | refine kept_foldl_fst ?_ ?_
                  | intro _ | split

theorem kept_execPredecessorArrival {s₀ : State} (s : State) (h_s : s₀.Keeps s) :
    KeptR s₀ (execPredecessorArrival s) := by
  unfold execPredecessorArrival
  with_reducible
    repeat' first | assumption | apply keptR_next | apply keptR_issue | apply keptR_issueWith | exact keptR_fault
                  | apply kept_deliverInv | apply kept_modGrid | intro _ | split

theorem kept_execMld {s₀ : State} (o : OpG) (x : MMem) (s : State) (h_s : s₀.Keeps s) :
    KeptR s₀ (execMld o x s) := by
  unfold execMld
  with_reducible
    repeat' first | assumption | apply keptR_next | apply keptR_issue | apply keptR_issueWith | exact keptR_fault
                   | apply kept_withCtx | apply kept_takeTrap | apply kept_shaped | apply kept_checkRows
                   | apply keeps_matLoad | intro _ | split | dsimp only

theorem kept_execMst {s₀ : State} (o : OpG) (x : MMem) (s : State) (h_s : s₀.Keeps s) :
    KeptR s₀ (execMst o x s) := by
  unfold execMst
  with_reducible
    repeat' first | assumption | apply keptR_next | apply keptR_issue | apply keptR_issueWith | exact keptR_fault
                   | apply kept_withCtx | apply kept_shaped | apply kept_checkRows | apply keeps_matStore | intro _
                   | split | dsimp only

theorem kept_execMldT {s₀ : State} (o : OpG) (x : MMem) (s : State) (h_s : s₀.Keeps s) :
    KeptR s₀ (execMldT o x s) := by
  unfold execMldT
  with_reducible
    repeat' first | assumption | apply keptR_next | apply keptR_issue | apply keptR_issueWith | exact keptR_fault
                   | apply kept_withCtx | apply kept_withTensor | apply kept_shaped | apply kept_checkMany
                   | apply kept_checkElem | apply keeps_matLoad | intro _ | split | dsimp only

theorem kept_execMstT {s₀ : State} (o : OpG) (x : MMem) (s : State) (h_s : s₀.Keeps s) :
    KeptR s₀ (execMstT o x s) := by
  unfold execMstT
  with_reducible
    repeat' first | assumption | apply keptR_next | apply keptR_issue | apply keptR_issueWith | exact keptR_fault
                   | apply kept_withCtx | apply kept_withTensor | apply kept_shaped | apply kept_checkMany
                   | apply kept_checkElem | apply keeps_matStore | intro _ | split | dsimp only

theorem kept_execMldw {s₀ : State} (o : OpG) (x : MMem) (s : State) (h_s : s₀.Keeps s) :
    KeptR s₀ (execMldw o x s) := by
  unfold execMldw
  with_reducible
    repeat' first | assumption | apply keptR_next | apply keptR_issue | apply keptR_issueWith | exact keptR_fault
                   | apply kept_withCtx | apply kept_withTensor | apply kept_shaped | apply kept_checkMany
                   | apply kept_checkWeight | intro _ | refine Restart.Keeps.mk ?_ | split | dsimp only

theorem kept_execLdG {s₀ : State} (o : OpG) (x : XMem) (s : State) (h_s : s₀.Keeps s) :
    KeptR s₀ (execLdG o x s) := by
  unfold execLdG
  with_reducible
    repeat' first | assumption | apply keptR_next | apply keptR_issue | apply keptR_issueWith | exact keptR_fault
                   | apply kept_withCtx | apply kept_restartable | apply keeps_load | apply kept_checkG | intro _ | split | dsimp only

theorem kept_execLdL {s₀ : State} (o : OpG) (x : XMem) (s : State) (h_s : s₀.Keeps s) :
    KeptR s₀ (execLdL o x s) := by
  unfold execLdL
  with_reducible
    repeat' first | assumption | apply keptR_next | apply keptR_issue | apply keptR_issueWith | exact keptR_fault
                   | apply kept_withCtx | apply kept_restartable | apply keeps_load | intro _ | split | dsimp only

theorem kept_execLdP {s₀ : State} (o : OpG) (x : XMem) (s : State) (h_s : s₀.Keeps s) :
    KeptR s₀ (execLdP o x s) := by
  unfold execLdP
  with_reducible
    repeat' first | assumption | apply keptR_next | apply keptR_issue | apply keptR_issueWith | exact keptR_fault
                   | apply kept_withCtx | apply kept_restartable | apply keeps_load | apply kept_checkP | intro _ | split | dsimp only

theorem kept_execLdC {s₀ : State} (o : OpG) (x : XMem) (s : State) (h_s : s₀.Keeps s) :
    KeptR s₀ (execLdC o x s) := by
  unfold execLdC
  with_reducible
    repeat' first | assumption | apply keptR_next | apply keptR_issue | apply keptR_issueWith | exact keptR_fault
                   | apply kept_withCtx | apply kept_restartable | apply keeps_load | apply kept_checkG | intro _ | split | dsimp only

theorem kept_execSmp {s₀ : State} (o : OpG) (x : XMem) (s : State) (h_s : s₀.Keeps s) :
    KeptR s₀ (execSmp o x s) := by
  unfold execSmp
  with_reducible
    repeat' first | assumption | apply keptR_next | apply keptR_issue | apply keptR_issueWith | exact keptR_fault
                   | apply kept_withCtx | apply kept_restartable | apply keeps_load | apply kept_checkG | intro _ | split | dsimp only

theorem kept_execLdt {s₀ : State} (o : OpG) (x : XMem) (s : State) (h_s : s₀.Keeps s) :
    KeptR s₀ (execLdt o x s) := by
  unfold execLdt
  with_reducible
    repeat' first | assumption | apply keptR_next | apply keptR_issue | apply keptR_issueWith | exact keptR_fault
                   | apply kept_withCtx | apply kept_withTensor | apply kept_restartable | apply keeps_load | apply kept_checkElem | intro _
                   | split | dsimp only

theorem kept_execStG {s₀ : State} (o : OpG) (x : XMem) (s : State) (h_s : s₀.Keeps s) :
    KeptR s₀ (execStG o x s) := by
  unfold execStG
  with_reducible
    repeat' first | assumption | apply keptR_next | apply keptR_issue | apply keptR_issueWith | exact keptR_fault
                   | apply kept_withCtx | apply kept_restartable | apply keeps_store | apply kept_checkG | intro _ | split
                   | dsimp only

theorem kept_execStL {s₀ : State} (o : OpG) (x : XMem) (s : State) (h_s : s₀.Keeps s) :
    KeptR s₀ (execStL o x s) := by
  unfold execStL
  with_reducible
    repeat' first | assumption | apply keptR_next | apply keptR_issue | apply keptR_issueWith | exact keptR_fault
                   | apply kept_withCtx | apply kept_restartable | apply keeps_store | intro _ | split | dsimp only

theorem kept_execStP {s₀ : State} (o : OpG) (x : XMem) (s : State) (h_s : s₀.Keeps s) :
    KeptR s₀ (execStP o x s) := by
  unfold execStP
  with_reducible
    repeat' first | assumption | apply keptR_next | apply keptR_issue | apply keptR_issueWith | exact keptR_fault
                   | apply kept_withCtx | apply kept_restartable | apply keeps_store | apply kept_checkP | intro _ | split
                   | dsimp only

theorem kept_execStGw {s₀ : State} (o : OpG) (x : XMem) (s : State) (h_s : s₀.Keeps s) :
    KeptR s₀ (execStGw o x s) := by
  unfold execStGw
  with_reducible
    repeat' first | assumption | apply keptR_next | apply keptR_issue | apply keptR_issueWith | exact keptR_fault
                   | apply kept_withCtx | apply kept_restartable | apply keeps_store | apply kept_checkG | intro _ | split
                   | dsimp only

theorem kept_execAtom {s₀ : State} (o : OpG) (x : XAtm) (s : State) (h_s : s₀.Keeps s) :
    KeptR s₀ (execAtom o x s) := by
  unfold execAtom
  with_reducible
    repeat' first | assumption | apply keptR_next | apply keptR_issue | apply keptR_issueWith | exact keptR_fault
                  | apply kept_withCtx | apply kept_atomic | apply kept_checkAtom | intro _

theorem kept_execRed {s₀ : State} (o : OpG) (x : XAtm) (s : State) (h_s : s₀.Keeps s) :
    KeptR s₀ (execRed o x s) := by
  unfold execRed
  with_reducible
    repeat' first | assumption | apply keptR_next | apply keptR_issue | apply keptR_issueWith | exact keptR_fault
                  | apply kept_withCtx | apply kept_atomic | apply kept_checkAtom | intro _

theorem kept_execAtomL {s₀ : State} (o : OpG) (x : XAtm) (s : State) (h_s : s₀.Keeps s) :
    KeptR s₀ (execAtomL o x s) := by
  unfold execAtomL
  with_reducible
    repeat' first | assumption | apply keptR_next | apply keptR_issue | apply keptR_issueWith | exact keptR_fault
                  | apply kept_withCtx | apply kept_atomic | intro _

theorem kept_execRedL {s₀ : State} (o : OpG) (x : XAtm) (s : State) (h_s : s₀.Keeps s) :
    KeptR s₀ (execRedL o x s) := by
  unfold execRedL
  with_reducible
    repeat' first | assumption | apply keptR_next | apply keptR_issue | apply keptR_issueWith | exact keptR_fault
                  | apply kept_withCtx | apply kept_atomic | intro _

theorem kept_execLdf {s₀ : State} (o : OpG) (x : XMem) (s : State) (h_s : s₀.Keeps s) :
    KeptR s₀ (execLdf o x s) := by
  unfold execLdf
  with_reducible
    repeat' first | assumption | apply kept_id | apply keptR_next | apply keptR_issue | apply keptR_issueWith
                   | exact keptR_fault | apply kept_withCtx | apply kept_allOrNone | apply kept_checkCell
                   | apply kept_catchUp | apply kept_landOuts | apply kept_acquire | apply kept_advance | apply kept_addOp
                   | intro _ | split | dsimp only

theorem kept_execStf {s₀ : State} (o : OpG) (x : XMem) (s : State) (h_s : s₀.Keeps s) :
    KeptR s₀ (execStf o x s) := by
  unfold execStf
  with_reducible
    repeat' first | assumption | apply kept_id | apply keptR_next | apply keptR_issue | apply keptR_issueWith
                   | exact keptR_fault | apply kept_withCtx | apply kept_checkCell | apply kept_store
                   | apply kept_allOrNone | apply kept_goAll | intro _ | refine Restart.Keeps.mk ?_ | split | dsimp only

theorem kept_execFence {s₀ : State} (o : OpG) (x : XFence) (s : State) (h_s : s₀.Keeps s) :
    KeptR s₀ (execFence o x s) := by
  unfold execFence
  with_reducible
    repeat' first | assumption | apply keptR_next | apply keptR_issue | apply keptR_issueWith | exact keptR_fault
                  | apply kept_withCtx | apply kept_fullFence | apply kept_release | apply kept_acquire | apply kept_advance
                  | intro _ | split

theorem kept_execPfence {s₀ : State} (o : OpG) (x : XFence) (s : State) (h_s : s₀.Keeps s) :
    KeptR s₀ (execPfence o x s) := by
  unfold execPfence
  with_reducible
    repeat' first | assumption | apply keptR_next | apply keptR_issue | apply keptR_issueWith | exact keptR_fault
                  | apply kept_withCtx | apply kept_release | apply kept_advance | intro _

theorem kept_execWback {s₀ : State} (o : OpG) (x : XMem) (s : State) (h_s : s₀.Keeps s) :
    KeptR s₀ (execWback o x s) := by
  unfold execWback
  with_reducible
    repeat' first | assumption | apply keptR_next | apply keptR_issue | apply keptR_issueWith | exact keptR_fault
                  | apply kept_withCtx | apply kept_eachLine | apply kept_writeBack | apply kept_advance | intro _

theorem kept_execPref {s₀ : State} (o : OpG) (x : XMem) (s : State) (h_s : s₀.Keeps s) :
    KeptR s₀ (execPref o x s) := by
  unfold execPref
  with_reducible
    repeat' first | assumption | apply keptR_next | apply keptR_issue | apply keptR_issueWith | exact keptR_fault
                  | apply kept_withCtx | apply kept_eachLine | apply kept_l1Load | apply kept_recall | apply kept_l2Use
                  | apply kept_askRdc | apply kept_advance | intro _ | split

theorem kept_execBinit {s₀ : State} (o : OpG) (x : XBar) (s : State) (h_s : s₀.Keeps s) :
    KeptR s₀ (execBinit o x s) := by
  unfold execBinit
  with_reducible
    repeat' first | assumption | apply keptR_next | apply keptR_issue | apply keptR_issueWith | exact keptR_fault
                  | apply kept_withCtx | apply kept_release | apply kept_advance | apply kept_atBar | apply kept_takeTrap
                  | apply kept_spadPut | apply kept_mapPaths | intro _ | split | dsimp only

theorem kept_execBarv {s₀ : State} (o : OpG) (x : XBar) (s : State) (h_s : s₀.Keeps s) :
    KeptR s₀ (execBarv o x s) := by
  unfold execBarv
  with_reducible
    repeat' first | assumption | apply keptR_next | apply keptR_issue | apply keptR_issueWith | exact keptR_fault
                  | apply kept_withCtx | apply kept_release | apply kept_advance | apply kept_atBar | apply kept_ifSound
                  | apply kept_barStep | intro _ | split

theorem kept_execBexp {s₀ : State} (o : OpG) (x : XBar) (s : State) (h_s : s₀.Keeps s) :
    KeptR s₀ (execBexp o x s) := by
  unfold execBexp
  with_reducible
    repeat' first | assumption | apply keptR_next | apply keptR_issue | apply keptR_issueWith | exact keptR_fault
                  | apply kept_advance | apply kept_atBar | apply kept_ifSound | apply kept_barStep | intro _ | split

theorem kept_execBarvx {s₀ : State} (o : OpG) (x : XBar) (s : State) (h_s : s₀.Keeps s) :
    KeptR s₀ (execBarvx o x s) := by
  unfold execBarvx
  with_reducible
    repeat' first | assumption | apply keptR_next | apply keptR_issue | apply keptR_issueWith | exact keptR_fault
                  | apply kept_withCtx | apply kept_release | apply kept_advance | apply kept_atBar | apply kept_ifSound
                  | apply kept_barStep | intro _ | split

theorem kept_execBwait {s₀ : State} (o : OpG) (x : XBar) (s : State) (h_s : s₀.Keeps s) :
    KeptR s₀ (execBwait o x s) := by
  unfold execBwait
  with_reducible
    repeat' first | assumption | apply keptR_next | apply keptR_issue | apply keptR_issueWith | exact keptR_fault
                  | apply kept_withCtx | apply kept_modPath | apply kept_acquire | apply kept_advance | apply kept_takeTrap
                  | apply kept_atBar | apply kept_ifSound | intro _ | split

theorem kept_execBtest {s₀ : State} (o : OpG) (x : XBar) (s : State) (h_s : s₀.Keeps s) :
    KeptR s₀ (execBtest o x s) := by
  unfold execBtest
  with_reducible
    repeat' first | assumption | apply keptR_next | apply keptR_issue | apply keptR_issueWith | exact keptR_fault
                  | apply kept_withCtx | apply kept_acquire | apply kept_advance | apply kept_atBar | apply kept_ifSound
                  | apply kept_landP | intro _ | split

theorem kept_execMark {s₀ : State} (o : OpG) (x : XMark) (s : State) (h_s : s₀.Keeps s) :
    KeptR s₀ (execMark o x s) := by
  unfold execMark
  with_reducible
    repeat' first | assumption | apply keptR_next | apply keptR_issue | apply keptR_issueWith | exact keptR_fault
                  | apply kept_setMarker | apply kept_acquire | apply kept_advance | intro _ | split

theorem kept_execUnmark {s₀ : State} (o : OpG) (x : XMark) (s : State) (h_s : s₀.Keeps s) :
    KeptR s₀ (execUnmark o x s) := by
  unfold execUnmark
  with_reducible
    repeat' first | assumption | apply keptR_next | apply keptR_issue | apply keptR_issueWith | exact keptR_fault
                  | apply kept_release | apply kept_setMarker | apply kept_advance | intro _ | split

theorem kept_execFrog {s₀ : State} (o : OpG) (x : XMark) (s : State) (h_s : s₀.Keeps s) :
    KeptR s₀ (execFrog o x s) := by
  unfold execFrog
  with_reducible
    repeat' first | assumption | apply kept_id | apply keptR_next | apply keptR_issue | apply keptR_issueWith
                  | exact keptR_fault | apply kept_withCtx | apply kept_release | apply kept_advance | apply kept_landV
                  | apply kept_modCtx | apply kept_addOp | intro _ | split | dsimp only

theorem kept_execFrogq {s₀ : State} (o : OpG) (x : XMark) (s : State) (h_s : s₀.Keeps s) :
    KeptR s₀ (execFrogq o x s) := by
  unfold execFrogq
  with_reducible
    repeat' first | assumption | apply keptR_next | apply keptR_issue | apply keptR_issueWith | exact keptR_fault
                  | apply kept_withCtx | apply kept_acquire | apply kept_advance | apply kept_landVs | apply kept_landP
                  | apply kept_modCtx | intro _ | split

theorem kept_execClauseStart {s₀ : State} (s : State) (h_s : s₀.Keeps s) :
    KeptR s₀ (execClauseStart s) := by
  unfold execClauseStart
  with_reducible
    repeat' first | assumption | apply keptR_next | apply keptR_issue | apply keptR_issueWith | exact keptR_fault
                   | apply kept_takeWatchdog | apply kept_fetchWord | apply kept_hostTaken | apply kept_takeTrap
                   | apply kept_askLeave | apply kept_fetchClause | apply kept_takeTrapW | apply kept_startClause
                   | intro _ | split | dsimp only

theorem kept_execFlagRelease {s₀ : State} (s : State) (h_s : s₀.Keeps s) :
    KeptR s₀ (execFlagRelease s) := by
  unfold execFlagRelease
  with_reducible
    repeat' first | assumption | apply kept_id | apply keptR_next | apply keptR_issue | apply keptR_issueWith
                  | exact keptR_fault | apply kept_landIf | apply kept_modTeam | intro _ | split

theorem kept_execBra {s₀ : State} (o : OpJ) (s : State) (h_s : s₀.Keeps s) :
    KeptR s₀ (execBra o s) := by
  unfold execBra
  with_reducible
    repeat' first | assumption | apply kept_id | apply keptR_next | apply keptR_issue | apply keptR_issueWith
                  | exact keptR_fault | apply kept_branch | intro _

theorem kept_execBrx {s₀ : State} (o : OpG) (s : State) (h_s : s₀.Keeps s) :
    KeptR s₀ (execBrx o s) := by
  unfold execBrx
  with_reducible
    repeat' first | assumption | apply kept_id | apply keptR_next | apply keptR_issue | apply keptR_issueWith
                  | exact keptR_fault | apply kept_branch | intro _

theorem kept_execCall {s₀ : State} (o : OpJ) (s : State) (h_s : s₀.Keeps s) :
    KeptR s₀ (execCall o s) := by
  unfold execCall
  with_reducible
    repeat' first | assumption | apply keptR_next | apply keptR_issue | apply keptR_issueWith | exact keptR_fault
                  | apply kept_branch | intro _

theorem kept_execCallx {s₀ : State} (o : OpG) (s : State) (h_s : s₀.Keeps s) :
    KeptR s₀ (execCallx o s) := by
  unfold execCallx
  with_reducible
    repeat' first | assumption | apply keptR_next | apply keptR_issue | apply keptR_issueWith | exact keptR_fault
                  | apply kept_branch | intro _

theorem kept_execRet {s₀ : State} (o : OpU) (s : State) (h_s : s₀.Keeps s) :
    KeptR s₀ (execRet o s) := by
  unfold execRet
  with_reducible
    repeat' first | assumption | apply kept_id | apply keptR_next | apply keptR_issue | apply keptR_issueWith
                  | exact keptR_fault | apply kept_branch | intro _

theorem kept_execBrd {s₀ : State} (o : OpB) (s : State) (h_s : s₀.Keeps s) :
    KeptR s₀ (execBrd o s) := by
  unfold execBrd
  with_reducible
    repeat' first | assumption | apply keptR_next | apply keptR_issue | apply keptR_issueWith | exact keptR_fault
                   | apply kept_takeTrap | apply kept_jump | apply kept_forkOwed | apply kept_modTeam | apply kept_spill
                   | intro _ | split | dsimp only

theorem kept_execJoinArrival {s₀ : State} (s : State) (h_s : s₀.Keeps s) :
    KeptR s₀ (execJoinArrival s) := by
  unfold execJoinArrival
  with_reducible
    repeat' first | assumption | apply keptR_next | apply keptR_issue | apply keptR_issueWith | exact keptR_fault
                  | apply kept_takeWatchdog | apply kept_modTeam | apply kept_modPath | apply kept_mergeOwed | intro _
                  | split

theorem kept_execExit {s₀ : State} (s : State) (h_s : s₀.Keeps s) :
    KeptR s₀ (execExit s) := by
  unfold execExit
  with_reducible
    repeat' first | assumption | apply keptR_next | apply keptR_issue | apply keptR_issueWith | exact keptR_fault
                  | apply kept_advance | apply kept_endTeam | apply kept_modPath | apply kept_jump | apply kept_modTeam
                  | apply kept_dropHandler | intro _ | split | dsimp only

theorem kept_execEndTeam {s₀ : State} (s : State) (h_s : s₀.Keeps s) :
    KeptR s₀ (execEndTeam s) := by
  unfold execEndTeam
  with_reducible
    repeat' first | assumption | apply keptR_next | apply keptR_issue | apply keptR_issueWith | exact keptR_fault
                  | apply kept_endTeam | apply kept_advance | intro _ | split

theorem kept_execNop {s₀ : State} (s : State) (h_s : s₀.Keeps s) :
    KeptR s₀ (execNop s) := by
  unfold execNop
  with_reducible
    repeat' first | assumption | apply keptR_next | apply keptR_issue | apply keptR_issueWith | exact keptR_fault
                  | apply kept_advance | intro _

theorem kept_execYield {s₀ : State} (s : State) (h_s : s₀.Keeps s) :
    KeptR s₀ (execYield s) := by
  unfold execYield
  with_reducible
    repeat' first | assumption | apply keptR_next | apply keptR_issue | apply keptR_issueWith | exact keptR_fault
                   | apply kept_advance | apply kept_swapTeams | intro _ | split | dsimp only

theorem kept_execRgive {s₀ : State} (o : OpG) (s : State) (h_s : s₀.Keeps s) :
    KeptR s₀ (execRgive o s) := by
  unfold execRgive
  with_reducible
    repeat' first | assumption | apply keptR_next | apply keptR_issue | apply keptR_issueWith | exact keptR_fault
                  | apply kept_advance | apply kept_modGroup | apply kept_modTeam | intro _ | split

theorem kept_execRclaim {s₀ : State} (o : OpG) (s : State) (h_s : s₀.Keeps s) :
    KeptR s₀ (execRclaim o s) := by
  unfold execRclaim
  with_reducible
    repeat' first | assumption | apply keptR_next | apply keptR_issue | apply keptR_issueWith | exact keptR_fault
                  | apply kept_advance | apply kept_modGroup | apply kept_modTeam | intro _ | split

theorem kept_execTeamSwap {s₀ : State} (s : State) (h_s : s₀.Keeps s) :
    KeptR s₀ (execTeamSwap s) := by
  unfold execTeamSwap
  with_reducible
    repeat' first | assumption | apply keptR_next | apply keptR_issue | apply keptR_issueWith | exact keptR_fault
                   | apply kept_swapTeams | intro _ | split | dsimp only

theorem kept_execForcedSwap {s₀ : State} (s : State) (h_s : s₀.Keeps s) :
    KeptR s₀ (execForcedSwap s) := by
  unfold execForcedSwap
  with_reducible
    repeat' first | assumption | apply keptR_next | apply keptR_issue | apply keptR_issueWith | exact keptR_fault
                   | apply kept_swapTeams | intro _ | split | dsimp only

theorem kept_execLeaveGrant {s₀ : State} (s : State) (h_s : s₀.Keeps s) :
    KeptR s₀ (execLeaveGrant s) := by
  unfold execLeaveGrant
  with_reducible
    repeat' first | assumption | apply keptR_next | apply keptR_issue | apply keptR_issueWith | exact keptR_fault
                  | apply kept_answerLeave | intro _ | split

theorem kept_execDroopStep {s₀ : State} (s : State) (h_s : s₀.Keeps s) :
    KeptR s₀ (execDroopStep s) := by
  unfold execDroopStep
  with_reducible
    repeat' first | assumption | apply keptR_next | apply keptR_issue | apply keptR_issueWith | exact keptR_fault
                   | apply kept_changed | apply kept_stretchUp | apply kept_modDie | intro _ | split | dsimp only

theorem kept_execWatchdogExpiry {s₀ : State} (s : State) (h_s : s₀.Keeps s) :
    KeptR s₀ (execWatchdogExpiry s) := by
  unfold execWatchdogExpiry
  with_reducible
    repeat' first | assumption | apply kept_id | apply keptR_next | apply keptR_issue | apply keptR_issueWith
                  | exact keptR_fault | apply kept_modGrid | intro _ | split

theorem kept_execIadd {s₀ : State} (o : OpR) (s : State) (h_s : s₀.Keeps s) :
    KeptR s₀ (execIadd o s) := by
  unfold execIadd
  with_reducible
    repeat' first | assumption | apply keptR_next | apply keptR_issue | apply keptR_issueWith | exact keptR_fault
                  | apply kept_v3 | intro _

theorem kept_execIsub {s₀ : State} (o : OpR) (s : State) (h_s : s₀.Keeps s) :
    KeptR s₀ (execIsub o s) := by
  unfold execIsub
  with_reducible
    repeat' first | assumption | apply keptR_next | apply keptR_issue | apply keptR_issueWith | exact keptR_fault
                  | apply kept_v3 | intro _

theorem kept_execImul {s₀ : State} (o : OpR) (s : State) (h_s : s₀.Keeps s) :
    KeptR s₀ (execImul o s) := by
  unfold execImul
  with_reducible
    repeat' first | assumption | apply keptR_next | apply keptR_issue | apply keptR_issueWith | exact keptR_fault
                  | apply kept_v3 | intro _

theorem kept_execImad {s₀ : State} (o : OpR) (s : State) (h_s : s₀.Keeps s) :
    KeptR s₀ (execImad o s) := by
  unfold execImad
  with_reducible
    repeat' first | assumption | apply keptR_next | apply keptR_issue | apply keptR_issueWith | exact keptR_fault
                  | apply kept_v4 | intro _

theorem kept_execImulhI32 {s₀ : State} (o : OpG) (s : State) (h_s : s₀.Keeps s) :
    KeptR s₀ (execImulhI32 o s) := by
  unfold execImulhI32
  with_reducible
    repeat' first | assumption | apply keptR_next | apply keptR_issue | apply keptR_issueWith | exact keptR_fault
                  | apply kept_v3 | intro _

theorem kept_execImulhN32 {s₀ : State} (o : OpG) (s : State) (h_s : s₀.Keeps s) :
    KeptR s₀ (execImulhN32 o s) := by
  unfold execImulhN32
  with_reducible
    repeat' first | assumption | apply keptR_next | apply keptR_issue | apply keptR_issueWith | exact keptR_fault
                  | apply kept_v3 | intro _

theorem kept_execImulwI32 {s₀ : State} (o : OpG) (s : State) (h_s : s₀.Keeps s) :
    KeptR s₀ (execImulwI32 o s) := by
  unfold execImulwI32
  with_reducible
    repeat' first | assumption | apply keptR_next | apply keptR_issue | apply keptR_issueWith | exact keptR_fault
                  | apply kept_v3w | intro _

theorem kept_execImulwN32 {s₀ : State} (o : OpG) (s : State) (h_s : s₀.Keeps s) :
    KeptR s₀ (execImulwN32 o s) := by
  unfold execImulwN32
  with_reducible
    repeat' first | assumption | apply keptR_next | apply keptR_issue | apply keptR_issueWith | exact keptR_fault
                  | apply kept_v3w | intro _

theorem kept_execIminI32 {s₀ : State} (o : OpG) (s : State) (h_s : s₀.Keeps s) :
    KeptR s₀ (execIminI32 o s) := by
  unfold execIminI32
  with_reducible
    repeat' first | assumption | apply keptR_next | apply keptR_issue | apply keptR_issueWith | exact keptR_fault
                  | apply kept_v3 | intro _

theorem kept_execImaxI32 {s₀ : State} (o : OpG) (s : State) (h_s : s₀.Keeps s) :
    KeptR s₀ (execImaxI32 o s) := by
  unfold execImaxI32
  with_reducible
    repeat' first | assumption | apply keptR_next | apply keptR_issue | apply keptR_issueWith | exact keptR_fault
                  | apply kept_v3 | intro _

theorem kept_execIminN32 {s₀ : State} (o : OpG) (s : State) (h_s : s₀.Keeps s) :
    KeptR s₀ (execIminN32 o s) := by
  unfold execIminN32
  with_reducible
    repeat' first | assumption | apply keptR_next | apply keptR_issue | apply keptR_issueWith | exact keptR_fault
                  | apply kept_v3 | intro _

theorem kept_execImaxN32 {s₀ : State} (o : OpG) (s : State) (h_s : s₀.Keeps s) :
    KeptR s₀ (execImaxN32 o s) := by
  unfold execImaxN32
  with_reducible
    repeat' first | assumption | apply keptR_next | apply keptR_issue | apply keptR_issueWith | exact keptR_fault
                  | apply kept_v3 | intro _

theorem kept_execIabs {s₀ : State} (o : OpG) (s : State) (h_s : s₀.Keeps s) :
    KeptR s₀ (execIabs o s) := by
  unfold execIabs
  with_reducible
    repeat' first | assumption | apply keptR_next | apply keptR_issue | apply keptR_issueWith | exact keptR_fault
                  | apply kept_v2 | intro _

theorem kept_execIneg {s₀ : State} (o : OpG) (s : State) (h_s : s₀.Keeps s) :
    KeptR s₀ (execIneg o s) := by
  unfold execIneg
  with_reducible
    repeat' first | assumption | apply keptR_next | apply keptR_issue | apply keptR_issueWith | exact keptR_fault
                  | apply kept_v2 | intro _

theorem kept_execIaddsI32 {s₀ : State} (o : OpG) (s : State) (h_s : s₀.Keeps s) :
    KeptR s₀ (execIaddsI32 o s) := by
  unfold execIaddsI32
  with_reducible
    repeat' first | assumption | apply keptR_next | apply keptR_issue | apply keptR_issueWith | exact keptR_fault
                  | apply kept_v3 | intro _

theorem kept_execIaddsN32 {s₀ : State} (o : OpG) (s : State) (h_s : s₀.Keeps s) :
    KeptR s₀ (execIaddsN32 o s) := by
  unfold execIaddsN32
  with_reducible
    repeat' first | assumption | apply keptR_next | apply keptR_issue | apply keptR_issueWith | exact keptR_fault
                  | apply kept_v3 | intro _

theorem kept_execIaddi {s₀ : State} (o : OpI) (s : State) (h_s : s₀.Keeps s) :
    KeptR s₀ (execIaddi o s) := by
  unfold execIaddi
  with_reducible
    repeat' first | assumption | apply keptR_next | apply keptR_issue | apply keptR_issueWith | exact keptR_fault
                  | apply kept_v2 | intro _

theorem kept_execIadd64 {s₀ : State} (o : OpR) (s : State) (h_s : s₀.Keeps s) :
    KeptR s₀ (execIadd64 o s) := by
  unfold execIadd64
  with_reducible
    repeat' first | assumption | apply keptR_next | apply keptR_issue | apply keptR_issueWith | exact keptR_fault
                  | apply kept_w3 | intro _

theorem kept_execIsub64 {s₀ : State} (o : OpR) (s : State) (h_s : s₀.Keeps s) :
    KeptR s₀ (execIsub64 o s) := by
  unfold execIsub64
  with_reducible
    repeat' first | assumption | apply keptR_next | apply keptR_issue | apply keptR_issueWith | exact keptR_fault
                  | apply kept_w3 | intro _

theorem kept_execLea {s₀ : State} (o : OpG) (sh : BitVec 3) (s : State) (h_s : s₀.Keeps s) :
    KeptR s₀ (execLea o sh s) := by
  unfold execLea
  with_reducible
    repeat' first | assumption | apply keptR_next | apply keptR_issue | apply keptR_issueWith | exact keptR_fault
                  | apply kept_w2v | intro _

theorem kept_execSrd {s₀ : State} (o : OpU) (ix : BitVec 6) (s : State) (h_s : s₀.Keeps s) :
    KeptR s₀ (execSrd o ix s) := by
  unfold execSrd
  with_reducible
    repeat' first | assumption | apply keptR_next | apply keptR_issue | apply keptR_issueWith | exact keptR_fault
                  | apply kept_latch | apply kept_modTeam | apply kept_advance | intro _

theorem kept_execSwr {s₀ : State} (o : OpU) (ix : BitVec 6) (s : State) (h_s : s₀.Keeps s) :
    KeptR s₀ (execSwr o ix s) := by
  unfold execSwr
  with_reducible
    repeat' first | assumption | apply keptR_next | apply keptR_issue | apply keptR_issueWith | exact keptR_fault
                  | apply kept_modTeam | apply kept_modPath | apply kept_modCtx | apply kept_advance
                  | refine kept_foldl ?_ ?_ | refine kept_foldl_fst ?_ ?_ | intro _ | split

theorem kept_execTrap {s₀ : State} (o : OpI) (s : State) (h_s : s₀.Keeps s) :
    KeptR s₀ (execTrap o s) := by
  unfold execTrap
  with_reducible
    repeat' first | assumption | apply keptR_next | apply keptR_issue | apply keptR_issueWith | exact keptR_fault
                  | apply kept_trapN | intro _

theorem kept_execTrapReturn {s₀ : State} (o : OpI) (s : State) (h_s : s₀.Keeps s) :
    KeptR s₀ (execTrapReturn o s) := by
  unfold execTrapReturn
  with_reducible
    repeat' first | assumption | apply keptR_next | apply keptR_issue | apply keptR_issueWith | exact keptR_fault
                  | apply kept_returnTrap | apply kept_trapN | intro _ | split

theorem kept_execTrapTerminate {s₀ : State} (o : OpI) (s : State) (h_s : s₀.Keeps s) :
    KeptR s₀ (execTrapTerminate o s) := by
  unfold execTrapTerminate
  with_reducible
    repeat' first | assumption | apply keptR_next | apply keptR_issue | apply keptR_issueWith | exact keptR_fault
                  | apply kept_terminateGrid | apply kept_trapN | intro _ | split

theorem kept_execBkpt {s₀ : State} (s : State) (h_s : s₀.Keeps s) :
    KeptR s₀ (execBkpt s) := by
  unfold execBkpt
  with_reducible
    repeat' first | assumption | apply keptR_next | apply keptR_issue | apply keptR_issueWith | exact keptR_fault
                  | apply kept_advance | apply kept_takeTrap | intro _ | split

theorem kept_execEret {s₀ : State} (s : State) (h_s : s₀.Keeps s) :
    KeptR s₀ (execEret s) := by
  unfold execEret
  with_reducible
    repeat' first | assumption | apply keptR_next | apply keptR_issue | apply keptR_issueWith | exact keptR_fault
                  | apply kept_advance | apply kept_returnTrap | intro _ | split

theorem kept_execTlbinvAll {s₀ : State} (o : OpG) (x : XTlb) (s : State) (h_s : s₀.Keeps s) :
    KeptR s₀ (execTlbinvAll o x s) := by
  unfold execTlbinvAll
  with_reducible
    repeat' first | assumption | apply keptR_next | apply keptR_issue | apply keptR_issueWith | exact keptR_fault
                  | apply kept_tlbinv | intro _

theorem kept_execTlbinvAsid {s₀ : State} (o : OpG) (x : XTlb) (s : State) (h_s : s₀.Keeps s) :
    KeptR s₀ (execTlbinvAsid o x s) := by
  unfold execTlbinvAsid
  with_reducible
    repeat' first | assumption | apply keptR_next | apply keptR_issue | apply keptR_issueWith | exact keptR_fault
                  | apply kept_tlbinv | intro _

theorem kept_execTlbinvPage {s₀ : State} (o : OpG) (x : XTlb) (s : State) (h_s : s₀.Keeps s) :
    KeptR s₀ (execTlbinvPage o x s) := by
  unfold execTlbinvPage
  with_reducible
    repeat' first | assumption | apply keptR_next | apply keptR_issue | apply keptR_issueWith | exact keptR_fault
                  | apply kept_tlbinv | intro _

theorem kept_execTlbinvGpage {s₀ : State} (o : OpG) (x : XTlb) (s : State) (h_s : s₀.Keeps s) :
    KeptR s₀ (execTlbinvGpage o x s) := by
  unfold execTlbinvGpage
  with_reducible
    repeat' first | assumption | apply keptR_next | apply keptR_issue | apply keptR_issueWith | exact keptR_fault
                  | apply kept_tlbinv | intro _

theorem kept_retired {s₀ : State} (s : State) (h_s : s₀.Keeps s) :
    KeptR s₀ (State.retired s) := by
  unfold State.retired
  with_reducible
    repeat' first | assumption | apply keptR_next | apply keptR_issue | apply keptR_issueWith | exact keptR_fault
                  | apply kept_takeTrap | intro _ | split

theorem kept_execImad24I24 {s₀ : State} (x0 : OpR) (s : State) (h_s : s₀.Keeps s) :
    KeptR s₀ (execImad24I24 x0 s) := by
  unfold execImad24I24
  with_reducible
    repeat' first | assumption | apply keptR_next | apply keptR_issue | apply keptR_issueWith | exact keptR_fault
                  | apply kept_retired

theorem kept_execImad24N24 {s₀ : State} (x0 : OpR) (s : State) (h_s : s₀.Keeps s) :
    KeptR s₀ (execImad24N24 x0 s) := by
  unfold execImad24N24
  with_reducible
    repeat' first | assumption | apply keptR_next | apply keptR_issue | apply keptR_issueWith | exact keptR_fault
                  | apply kept_retired

theorem kept_execDot4i8I8 {s₀ : State} (x0 : OpG) (s : State) (h_s : s₀.Keeps s) :
    KeptR s₀ (execDot4i8I8 x0 s) := by
  unfold execDot4i8I8
  with_reducible
    repeat' first | assumption | apply keptR_next | apply keptR_issue | apply keptR_issueWith | exact keptR_fault
                  | apply kept_retired

theorem kept_execDot4i8N8 {s₀ : State} (x0 : OpG) (s : State) (h_s : s₀.Keeps s) :
    KeptR s₀ (execDot4i8N8 x0 s) := by
  unfold execDot4i8N8
  with_reducible
    repeat' first | assumption | apply keptR_next | apply keptR_issue | apply keptR_issueWith | exact keptR_fault
                  | apply kept_retired

theorem kept_execLdro {s₀ : State} (x0 : OpG) (x1 : XMem) (s : State) (h_s : s₀.Keeps s) :
    KeptR s₀ (execLdro x0 x1 s) := by
  unfold execLdro
  with_reducible
    repeat' first | assumption | apply keptR_next | apply keptR_issue | apply keptR_issueWith | exact keptR_fault
                  | apply kept_retired

theorem kept_execRetiredOpcodeEmulation {s₀ : State} (s : State) (h_s : s₀.Keeps s) :
    KeptR s₀ (execRetiredOpcodeEmulation s) := by
  unfold execRetiredOpcodeEmulation
  with_reducible
    repeat' first | assumption | apply keptR_next | apply keptR_issue | apply keptR_issueWith | exact keptR_fault
                  | apply kept_place | apply kept_emulationFault | apply kept_takeTrap | apply kept_emulated
                  | apply kept_emulateLdro | intro _ | split | dsimp only

theorem kept_execTrapDelivery {s₀ : State} (s : State) (h_s : s₀.Keeps s) :
    KeptR s₀ (execTrapDelivery s) := by
  unfold execTrapDelivery
  with_reducible
    repeat' first | assumption | apply keptR_next | apply keptR_issue | apply keptR_issueWith | exact keptR_fault
                  | apply kept_place | apply kept_deliver | intro _ | split

theorem kept_execIllegalInstruction {s₀ : State} (s : State) (h_s : s₀.Keeps s) :
    KeptR s₀ (execIllegalInstruction s) := by
  unfold execIllegalInstruction
  with_reducible
    repeat' first | assumption | apply keptR_next | apply keptR_issue | apply keptR_issueWith | exact keptR_fault
                  | apply kept_takeTrap | intro _ | split

theorem kept_execRapp {s₀ : State} (o : OpG) (x : XAsy) (s : State) (h_s : s₀.Keeps s) :
    KeptR s₀ (execRapp o x s) := by
  unfold execRapp
  with_reducible
    repeat' first | assumption | apply keptR_next | apply keptR_issue | apply keptR_issueWith | exact keptR_fault
                  | apply kept_withCtx | apply kept_release | apply kept_advance | apply kept_takeTrap
                  | apply kept_checkRecordLane | apply kept_laneTrap | apply kept_append | apply kept_landP
                  | refine kept_foldl ?_ ?_ | refine kept_foldl_fst ?_ ?_ | intro _ | split | dsimp only

theorem kept_execWmadv {s₀ : State} (o : OpG) (x : XAsy) (s : State) (h_s : s₀.Keeps s) :
    KeptR s₀ (execWmadv o x s) := by
  unfold execWmadv
  with_reducible
    repeat' first | assumption | apply keptR_next | apply keptR_issue | apply keptR_issueWith | exact keptR_fault
                  | apply kept_wmadv | apply kept_withCtx | apply kept_sourceOp | intro _

theorem kept_execSclose {s₀ : State} (o : OpG) (x : XAsy) (s : State) (h_s : s₀.Keeps s) :
    KeptR s₀ (execSclose o x s) := by
  unfold execSclose
  with_reducible
    repeat' first | assumption | apply keptR_next | apply keptR_issue | apply keptR_issueWith | exact keptR_fault
                  | apply kept_sclose | apply kept_withCtx | apply kept_sourceOp | intro _

theorem kept_execWpub {s₀ : State} (o : OpG) (x : XAsy) (s : State) (h_s : s₀.Keeps s) :
    KeptR s₀ (execWpub o x s) := by
  unfold execWpub
  with_reducible
    repeat' first | assumption | apply keptR_next | apply keptR_issue | apply keptR_issueWith | exact keptR_fault
                  | apply kept_withCtx | apply kept_publish | intro _

theorem kept_execWpubAmend {s₀ : State} (o : OpG) (x : XAsy) (s : State) (h_s : s₀.Keeps s) :
    KeptR s₀ (execWpubAmend o x s) := by
  unfold execWpubAmend
  with_reducible
    repeat' first | assumption | apply keptR_next | apply keptR_issue | apply keptR_issueWith | exact keptR_fault
                  | apply kept_withCtx | apply kept_publish | intro _

theorem kept_execRecordPlacement {s₀ : State} (s : State) (h_s : s₀.Keeps s) :
    KeptR s₀ (execRecordPlacement s) := by
  unfold execRecordPlacement
  with_reducible
    repeat' first | assumption | apply keptR_next | apply keptR_issue | apply keptR_issueWith | exact keptR_fault
                  | apply kept_modBinding | apply kept_place | apply kept_freeRing | apply kept_srcStatus | intro _ | split
                  | dsimp only

theorem kept_execStageRecompute {s₀ : State} (s : State) (h_s : s₀.Keeps s) :
    KeptR s₀ (execStageRecompute s) := by
  unfold execStageRecompute
  with_reducible
    repeat' first | assumption | apply keptR_next | apply keptR_issue | apply keptR_issueWith | exact keptR_fault
                  | apply kept_modBinding | apply kept_bindStatus | apply kept_outAdvance | intro _ | split

theorem kept_execWindowTransit {s₀ : State} (s : State) (h_s : s₀.Keeps s) :
    KeptR s₀ (execWindowTransit s) := by
  unfold execWindowTransit
  with_reducible
    repeat' first | assumption | apply keptR_next | apply keptR_issue | apply keptR_issueWith | exact keptR_fault
                  | apply kept_launchWindow | refine kept_foldl ?_ ?_ | refine kept_foldl_fst ?_ ?_ | intro _ | split
                  | dsimp only

theorem kept_execAmendmentLaunch {s₀ : State} (s : State) (h_s : s₀.Keeps s) :
    KeptR s₀ (execAmendmentLaunch s) := by
  unfold execAmendmentLaunch
  with_reducible
    repeat' first | assumption | apply keptR_next | apply keptR_issue | apply keptR_issueWith | exact keptR_fault
                  | apply kept_launchWindow | intro _ | split

theorem kept_execLateTimerExpiry {s₀ : State} (s : State) (h_s : s₀.Keeps s) :
    KeptR s₀ (execLateTimerExpiry s) := by
  unfold execLateTimerExpiry
  with_reducible
    repeat' first | assumption | apply keptR_next | apply keptR_issue | apply keptR_issueWith | exact keptR_fault
                  | apply kept_modBinding | intro _ | split

theorem kept_execSourceIdleScan {s₀ : State} (s : State) (h_s : s₀.Keeps s) :
    KeptR s₀ (execSourceIdleScan s) := by
  unfold execSourceIdleScan
  with_reducible
    repeat' first | assumption | apply keptR_next | apply keptR_issue | apply keptR_issueWith | exact keptR_fault
                  | apply kept_modSource | apply kept_changed | refine kept_foldl ?_ ?_ | refine kept_foldl_fst ?_ ?_
                  | intro _ | split

theorem kept_execWatermarkPropagation {s₀ : State} (s : State) (h_s : s₀.Keeps s) :
    KeptR s₀ (execWatermarkPropagation s) := by
  unfold execWatermarkPropagation
  with_reducible
    repeat' first | assumption | apply keptR_next | apply keptR_issue | apply keptR_issueWith | exact keptR_fault
                  | apply kept_modCtx | apply kept_wmadv | apply kept_sclose | intro _ | split

theorem kept_execCpyGl {s₀ : State} (o : OpG) (x : XAsy) (s : State) (h_s : s₀.Keeps s) :
    KeptR s₀ (execCpyGl o x s) := by
  unfold execCpyGl
  with_reducible
    repeat' first | assumption | apply keptR_next | apply keptR_issue | apply keptR_issueWith | exact keptR_fault
                  | apply kept_withCtx | apply kept_async | apply kept_operandTrap | apply kept_globalSectors
                  | apply kept_accept | intro _ | split | dsimp only

theorem kept_execCpyLg {s₀ : State} (o : OpG) (x : XAsy) (s : State) (h_s : s₀.Keeps s) :
    KeptR s₀ (execCpyLg o x s) := by
  unfold execCpyLg
  with_reducible
    repeat' first | assumption | apply keptR_next | apply keptR_issue | apply keptR_issueWith | exact keptR_fault
                  | apply kept_withCtx | apply kept_async | apply kept_operandTrap | apply kept_globalSectors
                  | apply kept_accept | intro _ | split | dsimp only

theorem kept_execCpyg {s₀ : State} (o : OpG) (x : XAsy) (s : State) (h_s : s₀.Keeps s) :
    KeptR s₀ (execCpyg o x s) := by
  unfold execCpyg
  with_reducible
    repeat' first | assumption | apply keptR_next | apply keptR_issue | apply keptR_issueWith | exact keptR_fault
                  | apply kept_withCtx | apply kept_async | apply kept_operandTrap | apply kept_globalSectors
                  | apply kept_accept | intro _ | split | dsimp only

theorem kept_execCpyt {s₀ : State} (o : OpG) (x : XAsy) (s : State) (h_s : s₀.Keeps s) :
    KeptR s₀ (execCpyt o x s) := by
  unfold execCpyt
  with_reducible
    repeat' first | assumption | apply keptR_next | apply keptR_issue | apply keptR_issueWith | exact keptR_fault
                  | apply kept_withCtx | apply kept_copyTile | intro _

theorem kept_execCpytG {s₀ : State} (o : OpG) (x : XAsy) (s : State) (h_s : s₀.Keeps s) :
    KeptR s₀ (execCpytG o x s) := by
  unfold execCpytG
  with_reducible
    repeat' first | assumption | apply keptR_next | apply keptR_issue | apply keptR_issueWith | exact keptR_fault
                  | apply kept_withCtx | apply kept_copyTile | intro _

theorem kept_execCpym {s₀ : State} (o : OpG) (x : XAsy) (s : State) (h_s : s₀.Keeps s) :
    KeptR s₀ (execCpym o x s) := by
  unfold execCpym
  with_reducible
    repeat' first | assumption | apply keptR_next | apply keptR_issue | apply keptR_issueWith | exact keptR_fault
                  | apply kept_withCtx | apply kept_async | apply kept_takeTrap | apply kept_operandTrap
                  | apply kept_onlyFences | apply kept_globalSectors | apply kept_accept | intro _ | split | dsimp only

theorem kept_execCdrain {s₀ : State} (o : OpG) (x : XAsy) (s : State) (h_s : s₀.Keeps s) :
    KeptR s₀ (execCdrain o x s) := by
  unfold execCdrain
  with_reducible
    repeat' first | assumption | apply keptR_next | apply keptR_issue | apply keptR_issueWith | exact keptR_fault
                  | apply kept_withCtx | apply kept_async | apply kept_operandTrap | apply kept_accept | intro _ | split
                  | dsimp only

theorem kept_execQapp {s₀ : State} (o : OpG) (x : XAsy) (s : State) (h_s : s₀.Keeps s) :
    KeptR s₀ (execQapp o x s) := by
  unfold execQapp
  with_reducible
    repeat' first | assumption | apply keptR_next | apply keptR_issue | apply keptR_issueWith | exact keptR_fault
                  | apply kept_withCtx | apply kept_queueAppend | intro _

theorem kept_execLaunch {s₀ : State} (o : OpG) (x : XAsy) (s : State) (h_s : s₀.Keeps s) :
    KeptR s₀ (execLaunch o x s) := by
  unfold execLaunch
  with_reducible
    repeat' first | assumption | apply keptR_next | apply keptR_issue | apply keptR_issueWith | exact keptR_fault
                  | apply kept_withCtx | apply kept_queueAppend | intro _

theorem kept_execSucc {s₀ : State} (s : State) (h_s : s₀.Keeps s) :
    KeptR s₀ (execSucc s) := by
  unfold execSucc
  with_reducible
    repeat' first | assumption | apply keptR_next | apply keptR_issue | apply keptR_issueWith | exact keptR_fault
                  | apply kept_modGroup | apply kept_advance | intro _ | split

theorem kept_execPredw {s₀ : State} (s : State) (h_s : s₀.Keeps s) :
    KeptR s₀ (execPredw s) := by
  unfold execPredw
  with_reducible
    repeat' first | assumption | apply keptR_next | apply keptR_issue | apply keptR_issueWith | exact keptR_fault
                  | apply kept_acquire | apply kept_advance | apply kept_takeTrap | apply kept_modPath | intro _ | split

theorem kept_execAsyncCompletion {s₀ : State} (s : State) (h_s : s₀.Keeps s) :
    KeptR s₀ (execAsyncCompletion s) := by
  unfold execAsyncCompletion
  with_reducible
    repeat' first | assumption | apply kept_id | apply keptR_next | apply keptR_issue | apply keptR_issueWith
                  | exact keptR_fault | apply kept_completeOp | intro _ | split

theorem kept_execCopySectorLand {s₀ : State} (s : State) (h_s : s₀.Keeps s) :
    KeptR s₀ (execCopySectorLand s) := by
  unfold execCopySectorLand
  with_reducible
    repeat' first | assumption | apply kept_id | apply keptR_next | apply keptR_issue | apply keptR_issueWith
                   | exact keptR_fault | apply kept_copySector | intro _ | split | dsimp only

theorem kept_execCreelSlotGrant {s₀ : State} (s : State) (h_s : s₀.Keeps s) :
    KeptR s₀ (execCreelSlotGrant s) := by
  unfold execCreelSlotGrant
  with_reducible
    repeat' first | assumption | apply kept_id | apply keptR_next | apply keptR_issue | apply keptR_issueWith
                  | exact keptR_fault | apply kept_grantCreel | intro _ | split

theorem kept_execDrainSlotReady {s₀ : State} (s : State) (h_s : s₀.Keeps s) :
    KeptR s₀ (execDrainSlotReady s) := by
  unfold execDrainSlotReady
  with_reducible
    repeat' first | assumption | apply kept_id | apply keptR_next | apply keptR_issue | apply keptR_issueWith
                  | exact keptR_fault | apply kept_takeTile | intro _ | split

theorem kept_execQueueAppendRoom {s₀ : State} (s : State) (h_s : s₀.Keeps s) :
    KeptR s₀ (execQueueAppendRoom s) := by
  unfold execQueueAppendRoom
  with_reducible
    repeat' first | assumption | apply kept_id | apply keptR_next | apply keptR_issue | apply keptR_issueWith
                  | exact keptR_fault | apply kept_append | apply kept_endOp | apply kept_notify | apply kept_unitNat
                  | apply kept_writePacket | apply kept_netRetry | intro _ | split | dsimp only

theorem kept_execFrogInterval {s₀ : State} (s : State) (h_s : s₀.Keeps s) :
    KeptR s₀ (execFrogInterval s) := by
  unfold execFrogInterval
  with_reducible
    repeat' first | assumption | apply keptR_next | apply keptR_issue | apply keptR_issueWith | exact keptR_fault
                  | apply kept_modCtx | intro _ | split | dsimp only

theorem kept_execResweepPass {s₀ : State} (s : State) (h_s : s₀.Keeps s) :
    KeptR s₀ (execResweepPass s) := by
  unfold execResweepPass
  with_reducible
    repeat' first | assumption | apply keptR_next | apply keptR_issue | apply keptR_issueWith | exact keptR_fault
                  | apply kept_modCtx | intro _ | split

theorem kept_execSweep {s₀ : State} (s : State) (h_s : s₀.Keeps s) :
    KeptR s₀ (execSweep s) := by
  unfold execSweep
  with_reducible
    repeat' first | assumption | apply keptR_next | apply keptR_issue | apply keptR_issueWith | exact keptR_fault
                  | apply kept_modCtx | apply kept_frogResult | apply kept_landV | apply kept_acquire | apply kept_opDone
                  | apply kept_windowSwept | apply kept_resweepName | intro _ | split | dsimp only

theorem kept_execWindowFree {s₀ : State} (s : State) (h_s : s₀.Keeps s) :
    KeptR s₀ (execWindowFree s) := by
  unfold execWindowFree
  with_reducible
    repeat' first | assumption | apply keptR_next | apply keptR_issue | apply keptR_issueWith | exact keptR_fault
                  | apply kept_deliverInv | apply kept_modBinding | apply kept_modCtx | intro _ | split

theorem kept_execQueuePoll {s₀ : State} (s : State) (h_s : s₀.Keeps s) :
    KeptR s₀ (execQueuePoll s) := by
  unfold execQueuePoll
  with_reducible
    repeat' first | assumption | apply keptR_next | apply keptR_issue | apply keptR_issueWith | exact keptR_fault
                  | apply kept_readHeader | apply kept_modEngine | apply kept_stopQueue | apply kept_headOf | intro _ | split
                  | dsimp only

theorem kept_execPacketLaunch {s₀ : State} (s : State) (h_s : s₀.Keeps s) :
    KeptR s₀ (execPacketLaunch s) := by
  unfold execPacketLaunch
  with_reducible
    repeat' first | assumption | apply keptR_next | apply keptR_issue | apply keptR_issueWith | exact keptR_fault
                   | apply kept_nextPacket | apply kept_checkRecord | apply kept_stopQueue | apply kept_consume
                   | apply kept_startGrid | intro _ | split | dsimp only

theorem kept_execPacketCopy {s₀ : State} (s : State) (h_s : s₀.Keeps s) :
    KeptR s₀ (execPacketCopy s) := by
  unfold execPacketCopy
  with_reducible
    repeat' first | assumption | apply keptR_next | apply keptR_issue | apply keptR_issueWith | exact keptR_fault
                  | apply kept_nextPacket | apply kept_checkPacket | apply kept_stopQueue | apply kept_consume | intro _
                  | split | dsimp only

theorem kept_execPacketSignal {s₀ : State} (s : State) (h_s : s₀.Keeps s) :
    KeptR s₀ (execPacketSignal s) := by
  unfold execPacketSignal
  with_reducible
    repeat' first | assumption | apply keptR_next | apply keptR_issue | apply keptR_issueWith | exact keptR_fault
                  | apply kept_nextPacket | apply kept_checkPacket | apply kept_stopQueue | apply kept_consume
                  | apply kept_signal | intro _ | split | dsimp only

theorem kept_execPacketWaitseq {s₀ : State} (s : State) (h_s : s₀.Keeps s) :
    KeptR s₀ (execPacketWaitseq s) := by
  unfold execPacketWaitseq
  with_reducible
    repeat' first | assumption | apply keptR_next | apply keptR_issue | apply keptR_issueWith | exact keptR_fault
                  | apply kept_nextPacket | apply kept_checkPacket | apply kept_stopQueue | apply kept_consume
                  | apply kept_waitRead | intro _ | split | dsimp only

theorem kept_execWaitseqPoll {s₀ : State} (s : State) (h_s : s₀.Keeps s) :
    KeptR s₀ (execWaitseqPoll s) := by
  unfold execWaitseqPoll
  with_reducible
    repeat' first | assumption | apply keptR_next | apply keptR_issue | apply keptR_issueWith | exact keptR_fault
                  | apply kept_readHeader | apply kept_modEngine | apply kept_waitRead | intro _ | split | dsimp only

theorem kept_execPacketWmadv {s₀ : State} (s : State) (h_s : s₀.Keeps s) :
    KeptR s₀ (execPacketWmadv s) := by
  unfold execPacketWmadv
  with_reducible
    repeat' first | assumption | apply keptR_next | apply keptR_issue | apply keptR_issueWith | exact keptR_fault
                  | apply kept_nextPacket | apply kept_stopQueue | apply kept_consume | apply kept_deliverInv
                  | apply kept_wmadv | intro _ | split | dsimp only

theorem kept_execPacketRecords {s₀ : State} (s : State) (h_s : s₀.Keeps s) :
    KeptR s₀ (execPacketRecords s) := by
  unfold execPacketRecords
  with_reducible
    repeat' first | assumption | apply keptR_next | apply keptR_issue | apply keptR_issueWith | exact keptR_fault
                  | apply kept_readHeader | apply kept_nextRecord | apply kept_startRecords | intro _ | split | dsimp only

theorem kept_execPacketCompletion {s₀ : State} (s : State) (h_s : s₀.Keeps s) :
    KeptR s₀ (execPacketCompletion s) := by
  unfold execPacketCompletion
  with_reducible
    repeat' first | assumption | apply keptR_next | apply keptR_issue | apply keptR_issueWith | exact keptR_fault
                   | apply kept_readHeader | apply kept_bulkCopy | apply kept_copyRelease | apply kept_writeCompletion
                   | apply kept_modEngine | apply kept_deliverInv | apply kept_unitWrite | apply kept_missed | intro _
                   | split | dsimp only

theorem kept_execGridCompletion {s₀ : State} (s : State) (h_s : s₀.Keeps s) :
    KeptR s₀ (execGridCompletion s) := by
  unfold execGridCompletion
  with_reducible
    repeat' first | assumption | apply keptR_next | apply keptR_issue | apply keptR_issueWith | exact keptR_fault
                  | apply kept_release | apply kept_deliverInv | apply kept_modGrid | apply kept_writeCompletion
                  | apply kept_windowDone | refine kept_foldl ?_ ?_ | refine kept_foldl_fst ?_ ?_ | intro _ | split

theorem kept_execGroupPreemption {s₀ : State} (s : State) (h_s : s₀.Keeps s) :
    KeptR s₀ (execGroupPreemption s) := by
  unfold execGroupPreemption
  with_reducible
    repeat' first | assumption | apply keptR_next | apply keptR_issue | apply keptR_issueWith | exact keptR_fault
                  | apply kept_place | apply kept_preempt | intro _ | split

theorem kept_execPriorityPreemption {s₀ : State} (s : State) (h_s : s₀.Keeps s) :
    KeptR s₀ (execPriorityPreemption s) := by
  unfold execPriorityPreemption
  with_reducible
    repeat' first | assumption | apply keptR_next | apply keptR_issue | apply keptR_issueWith | exact keptR_fault
                   | apply kept_place | apply kept_clearCore | intro _ | split | dsimp only

theorem kept_execGroupResumption {s₀ : State} (s : State) (h_s : s₀.Keeps s) :
    KeptR s₀ (execGroupResumption s) := by
  unfold execGroupResumption
  with_reducible
    repeat' first | assumption | apply keptR_next | apply keptR_issue | apply keptR_issueWith | exact keptR_fault
                  | apply kept_resumeGang | intro _ | split

theorem kept_execHomeSliceRead {s₀ : State} (s : State) (h_s : s₀.Keeps s) :
    KeptR s₀ (execHomeSliceRead s) := by
  unfold execHomeSliceRead
  with_reducible
    repeat' first | assumption | apply keptR_next | apply keptR_issue | apply keptR_issueWith | exact keptR_fault
                  | apply kept_recall | apply kept_l2Use | intro _ | split

theorem kept_execHomeSliceWrite {s₀ : State} (s : State) (h_s : s₀.Keeps s) :
    KeptR s₀ (execHomeSliceWrite s) := by
  unfold execHomeSliceWrite
  with_reducible
    repeat' first | assumption | apply keptR_next | apply keptR_issue | apply keptR_issueWith | exact keptR_fault
                  | apply kept_sliceWrite | refine kept_foldl ?_ ?_ | refine kept_foldl_fst ?_ ?_ | intro _ | split

theorem kept_execFutureCellRead {s₀ : State} (s : State) (h_s : s₀.Keeps s) :
    KeptR s₀ (execFutureCellRead s) := by
  unfold execFutureCellRead
  with_reducible
    repeat' first | assumption | apply kept_id | apply keptR_next | apply keptR_issue | apply keptR_issueWith
                   | exact keptR_fault | apply kept_recall | apply kept_l2Use | apply kept_seen | apply kept_decideLdf
                   | intro _ | split | dsimp only

theorem kept_execDeferralExpiry {s₀ : State} (s : State) (h_s : s₀.Keeps s) :
    KeptR s₀ (execDeferralExpiry s) := by
  unfold execDeferralExpiry
  with_reducible
    repeat' first | assumption | apply keptR_next | apply keptR_issue | apply keptR_issueWith | exact keptR_fault
                  | apply kept_decideLdf | refine kept_foldl ?_ ?_ | refine kept_foldl_fst ?_ ?_ | intro _

theorem kept_execOwnershipRequest {s₀ : State} (s : State) (h_s : s₀.Keeps s) :
    KeptR s₀ (execOwnershipRequest s) := by
  unfold execOwnershipRequest
  with_reducible
    repeat' first | assumption | apply keptR_next | apply keptR_issue | apply keptR_issueWith | exact keptR_fault
                  | apply kept_atomic | apply kept_rmwNear | intro _ | split

theorem kept_execFarAtomic {s₀ : State} (s : State) (h_s : s₀.Keeps s) :
    KeptR s₀ (execFarAtomic s) := by
  unfold execFarAtomic
  with_reducible
    repeat' first | assumption | apply keptR_next | apply keptR_issue | apply keptR_issueWith | exact keptR_fault
                  | apply kept_atomic | apply kept_farAtomic | refine kept_foldl ?_ ?_ | refine kept_foldl_fst ?_ ?_
                  | intro _ | split

theorem kept_execContendedExpiry {s₀ : State} (s : State) (h_s : s₀.Keeps s) :
    KeptR s₀ (execContendedExpiry s) := by
  unfold execContendedExpiry
  with_reducible
    repeat' first | assumption | apply keptR_next | apply keptR_issue | apply keptR_issueWith | exact keptR_fault
                  | apply kept_modDir | intro _ | split

theorem kept_execRdcInvalidation {s₀ : State} (s : State) (h_s : s₀.Keeps s) :
    KeptR s₀ (execRdcInvalidation s) := by
  unfold execRdcInvalidation
  with_reducible
    repeat' first | assumption | apply keptR_next | apply keptR_issue | apply keptR_issueWith | exact keptR_fault
                  | apply kept_deliverIf | intro _ | split

theorem kept_execRdcFill {s₀ : State} (s : State) (h_s : s₀.Keeps s) :
    KeptR s₀ (execRdcFill s) := by
  unfold execRdcFill
  with_reducible
    repeat' first | assumption | apply keptR_next | apply keptR_issue | apply keptR_issueWith | exact keptR_fault
                  | apply kept_modDie | intro _ | split

theorem kept_execSoftError {s₀ : State} (s : State) (h_s : s₀.Keeps s) :
    KeptR s₀ (execSoftError s) := by
  unfold execSoftError
  with_reducible
    repeat' first | assumption | apply kept_id | apply keptR_next | apply keptR_issue | apply keptR_issueWith
                   | exact keptR_fault | apply kept_place | apply kept_notify | apply kept_beforeError | apply kept_spoil
                   | intro _ | split | dsimp only

theorem kept_execPatrolScrub {s₀ : State} (s : State) (h_s : s₀.Keeps s) :
    KeptR s₀ (execPatrolScrub s) := by
  unfold execPatrolScrub
  with_reducible
    repeat' first | assumption | apply kept_id | apply keptR_next | apply keptR_issue | apply keptR_issueWith
                   | exact keptR_fault | apply kept_beforeError | apply kept_notify | refine kept_foldl ?_ ?_
                   | refine kept_foldl_fst ?_ ?_ | intro _ | split | dsimp only

theorem kept_execVoteAny {s₀ : State} (o : OpG) (s : State) (h_s : s₀.Keeps s) :
    KeptR s₀ (execVoteAny o s) := by
  unfold execVoteAny
  with_reducible
    repeat' first | assumption | apply keptR_next | apply keptR_issue | apply keptR_issueWith | exact keptR_fault
                  | apply kept_lanewise | intro _

theorem kept_execVoteAll {s₀ : State} (o : OpG) (s : State) (h_s : s₀.Keeps s) :
    KeptR s₀ (execVoteAll o s) := by
  unfold execVoteAll
  with_reducible
    repeat' first | assumption | apply keptR_next | apply keptR_issue | apply keptR_issueWith | exact keptR_fault
                  | apply kept_lanewise | intro _

theorem kept_execVoteBallot {s₀ : State} (o : OpG) (s : State) (h_s : s₀.Keeps s) :
    KeptR s₀ (execVoteBallot o s) := by
  unfold execVoteBallot
  with_reducible
    repeat' first | assumption | apply keptR_next | apply keptR_issue | apply keptR_issueWith | exact keptR_fault
                  | apply kept_lanewise | refine kept_foldl ?_ ?_ | refine kept_foldl_fst ?_ ?_ | intro _

theorem kept_execVoteCount {s₀ : State} (o : OpG) (s : State) (h_s : s₀.Keeps s) :
    KeptR s₀ (execVoteCount o s) := by
  unfold execVoteCount
  with_reducible
    repeat' first | assumption | apply keptR_next | apply keptR_issue | apply keptR_issueWith | exact keptR_fault
                  | apply kept_lanewise | intro _

theorem kept_execCableAt {s₀ : State} (o : OpG) (s : State) (h_s : s₀.Keeps s) :
    KeptR s₀ (execCableAt o s) := by
  unfold execCableAt
  with_reducible
    repeat' first | assumption | apply keptR_next | apply keptR_issue | apply keptR_issueWith | exact keptR_fault
                  | apply kept_cable | intro _

theorem kept_execCableBack {s₀ : State} (o : OpG) (s : State) (h_s : s₀.Keeps s) :
    KeptR s₀ (execCableBack o s) := by
  unfold execCableBack
  with_reducible
    repeat' first | assumption | apply keptR_next | apply keptR_issue | apply keptR_issueWith | exact keptR_fault
                  | apply kept_cable | intro _

theorem kept_execCableFwd {s₀ : State} (o : OpG) (s : State) (h_s : s₀.Keeps s) :
    KeptR s₀ (execCableFwd o s) := by
  unfold execCableFwd
  with_reducible
    repeat' first | assumption | apply keptR_next | apply keptR_issue | apply keptR_issueWith | exact keptR_fault
                  | apply kept_cable | intro _

theorem kept_execCableFlip {s₀ : State} (o : OpG) (s : State) (h_s : s₀.Keeps s) :
    KeptR s₀ (execCableFlip o s) := by
  unfold execCableFlip
  with_reducible
    repeat' first | assumption | apply keptR_next | apply keptR_issue | apply keptR_issueWith | exact keptR_fault
                  | apply kept_cable | intro _

theorem kept_execQswph {s₀ : State} (o : OpU) (s : State) (h_s : s₀.Keeps s) :
    KeptR s₀ (execQswph o s) := by
  unfold execQswph
  with_reducible
    repeat' first | assumption | apply keptR_next | apply keptR_issue | apply keptR_issueWith | exact keptR_fault
                  | apply kept_quad | intro _

theorem kept_execQswpv {s₀ : State} (o : OpU) (s : State) (h_s : s₀.Keeps s) :
    KeptR s₀ (execQswpv o s) := by
  unfold execQswpv
  with_reducible
    repeat' first | assumption | apply keptR_next | apply keptR_issue | apply keptR_issueWith | exact keptR_fault
                  | apply kept_quad | intro _

theorem kept_execQswpd {s₀ : State} (o : OpU) (s : State) (h_s : s₀.Keeps s) :
    KeptR s₀ (execQswpd o s) := by
  unfold execQswpd
  with_reducible
    repeat' first | assumption | apply keptR_next | apply keptR_issue | apply keptR_issueWith | exact keptR_fault
                  | apply kept_quad | intro _

theorem kept_execQbc0 {s₀ : State} (o : OpU) (s : State) (h_s : s₀.Keeps s) :
    KeptR s₀ (execQbc0 o s) := by
  unfold execQbc0
  with_reducible
    repeat' first | assumption | apply keptR_next | apply keptR_issue | apply keptR_issueWith | exact keptR_fault
                  | apply kept_quad | intro _

theorem kept_execQbc1 {s₀ : State} (o : OpU) (s : State) (h_s : s₀.Keeps s) :
    KeptR s₀ (execQbc1 o s) := by
  unfold execQbc1
  with_reducible
    repeat' first | assumption | apply keptR_next | apply keptR_issue | apply keptR_issueWith | exact keptR_fault
                  | apply kept_quad | intro _

theorem kept_execQbc2 {s₀ : State} (o : OpU) (s : State) (h_s : s₀.Keeps s) :
    KeptR s₀ (execQbc2 o s) := by
  unfold execQbc2
  with_reducible
    repeat' first | assumption | apply keptR_next | apply keptR_issue | apply keptR_issueWith | exact keptR_fault
                  | apply kept_quad | intro _

theorem kept_execQbc3 {s₀ : State} (o : OpU) (s : State) (h_s : s₀.Keeps s) :
    KeptR s₀ (execQbc3 o s) := by
  unfold execQbc3
  with_reducible
    repeat' first | assumption | apply keptR_next | apply keptR_issue | apply keptR_issueWith | exact keptR_fault
                  | apply kept_quad | intro _

theorem kept_execFoldAddI32 {s₀ : State} (o : OpG) (s : State) (h_s : s₀.Keeps s) :
    KeptR s₀ (execFoldAddI32 o s) := by
  unfold execFoldAddI32
  with_reducible
    repeat' first | assumption | apply keptR_next | apply keptR_issue | apply keptR_issueWith | exact keptR_fault
                  | apply kept_fold | intro _

theorem kept_execFoldMinI32 {s₀ : State} (o : OpG) (s : State) (h_s : s₀.Keeps s) :
    KeptR s₀ (execFoldMinI32 o s) := by
  unfold execFoldMinI32
  with_reducible
    repeat' first | assumption | apply keptR_next | apply keptR_issue | apply keptR_issueWith | exact keptR_fault
                  | apply kept_fold | intro _

theorem kept_execFoldMaxI32 {s₀ : State} (o : OpG) (s : State) (h_s : s₀.Keeps s) :
    KeptR s₀ (execFoldMaxI32 o s) := by
  unfold execFoldMaxI32
  with_reducible
    repeat' first | assumption | apply keptR_next | apply keptR_issue | apply keptR_issueWith | exact keptR_fault
                  | apply kept_fold | intro _

theorem kept_execFoldAnd {s₀ : State} (o : OpG) (s : State) (h_s : s₀.Keeps s) :
    KeptR s₀ (execFoldAnd o s) := by
  unfold execFoldAnd
  with_reducible
    repeat' first | assumption | apply keptR_next | apply keptR_issue | apply keptR_issueWith | exact keptR_fault
                  | apply kept_fold | intro _

theorem kept_execFoldOr {s₀ : State} (o : OpG) (s : State) (h_s : s₀.Keeps s) :
    KeptR s₀ (execFoldOr o s) := by
  unfold execFoldOr
  with_reducible
    repeat' first | assumption | apply keptR_next | apply keptR_issue | apply keptR_issueWith | exact keptR_fault
                  | apply kept_fold | intro _

theorem kept_execFoldXor {s₀ : State} (o : OpG) (s : State) (h_s : s₀.Keeps s) :
    KeptR s₀ (execFoldXor o s) := by
  unfold execFoldXor
  with_reducible
    repeat' first | assumption | apply keptR_next | apply keptR_issue | apply keptR_issueWith | exact keptR_fault
                  | apply kept_fold | intro _

theorem kept_execFoldFadd {s₀ : State} (o : OpG) (s : State) (h_s : s₀.Keeps s) :
    KeptR s₀ (execFoldFadd o s) := by
  unfold execFoldFadd
  with_reducible
    repeat' first | assumption | apply keptR_next | apply keptR_issue | apply keptR_issueWith | exact keptR_fault
                  | apply kept_modTeam | apply kept_lanewise | apply kept_takeTrap | intro _ | split | dsimp only

theorem kept_execNzs {s₀ : State} (o : OpG) (s : State) (h_s : s₀.Keeps s) :
    KeptR s₀ (execNzs o s) := by
  unfold execNzs
  with_reducible
    repeat' first | assumption | apply keptR_next | apply keptR_issue | apply keptR_issueWith | exact keptR_fault
                  | apply kept_modPath | apply kept_lanewise | intro _ | split

theorem kept_execFadd {s₀ : State} (o : OpR) (s : State) (h_s : s₀.Keeps s) :
    KeptR s₀ (execFadd o s) := by
  unfold execFadd
  with_reducible
    repeat' first | assumption | apply keptR_next | apply keptR_issue | apply keptR_issueWith | exact keptR_fault
                  | apply kept_fpLanes | intro _

theorem kept_execFsub {s₀ : State} (o : OpR) (s : State) (h_s : s₀.Keeps s) :
    KeptR s₀ (execFsub o s) := by
  unfold execFsub
  with_reducible
    repeat' first | assumption | apply keptR_next | apply keptR_issue | apply keptR_issueWith | exact keptR_fault
                  | apply kept_fpLanes | intro _

theorem kept_execFmul {s₀ : State} (o : OpR) (s : State) (h_s : s₀.Keeps s) :
    KeptR s₀ (execFmul o s) := by
  unfold execFmul
  with_reducible
    repeat' first | assumption | apply keptR_next | apply keptR_issue | apply keptR_issueWith | exact keptR_fault
                  | apply kept_fpLanes | intro _

theorem kept_execFfma {s₀ : State} (o : OpR) (s : State) (h_s : s₀.Keeps s) :
    KeptR s₀ (execFfma o s) := by
  unfold execFfma
  with_reducible
    repeat' first | assumption | apply keptR_next | apply keptR_issue | apply keptR_issueWith | exact keptR_fault
                  | apply kept_fpLanes | intro _

theorem kept_execFmin {s₀ : State} (o : OpG) (s : State) (h_s : s₀.Keeps s) :
    KeptR s₀ (execFmin o s) := by
  unfold execFmin
  with_reducible
    repeat' first | assumption | apply keptR_next | apply keptR_issue | apply keptR_issueWith | exact keptR_fault
                  | apply kept_fpLanes | intro _

theorem kept_execFmax {s₀ : State} (o : OpG) (s : State) (h_s : s₀.Keeps s) :
    KeptR s₀ (execFmax o s) := by
  unfold execFmax
  with_reducible
    repeat' first | assumption | apply keptR_next | apply keptR_issue | apply keptR_issueWith | exact keptR_fault
                  | apply kept_fpLanes | intro _

theorem kept_execFminp {s₀ : State} (o : OpG) (s : State) (h_s : s₀.Keeps s) :
    KeptR s₀ (execFminp o s) := by
  unfold execFminp
  with_reducible
    repeat' first | assumption | apply keptR_next | apply keptR_issue | apply keptR_issueWith | exact keptR_fault
                  | apply kept_fpLanes | intro _

theorem kept_execFmaxp {s₀ : State} (o : OpG) (s : State) (h_s : s₀.Keeps s) :
    KeptR s₀ (execFmaxp o s) := by
  unfold execFmaxp
  with_reducible
    repeat' first | assumption | apply keptR_next | apply keptR_issue | apply keptR_issueWith | exact keptR_fault
                  | apply kept_fpLanes | intro _

theorem kept_execFabs {s₀ : State} (o : OpG) (s : State) (h_s : s₀.Keeps s) :
    KeptR s₀ (execFabs o s) := by
  unfold execFabs
  with_reducible
    repeat' first | assumption | apply keptR_next | apply keptR_issue | apply keptR_issueWith | exact keptR_fault
                  | apply kept_v2 | intro _

theorem kept_execFneg {s₀ : State} (o : OpG) (s : State) (h_s : s₀.Keeps s) :
    KeptR s₀ (execFneg o s) := by
  unfold execFneg
  with_reducible
    repeat' first | assumption | apply keptR_next | apply keptR_issue | apply keptR_issueWith | exact keptR_fault
                  | apply kept_v2 | intro _

theorem kept_execFcopys {s₀ : State} (o : OpG) (s : State) (h_s : s₀.Keeps s) :
    KeptR s₀ (execFcopys o s) := by
  unfold execFcopys
  with_reducible
    repeat' first | assumption | apply keptR_next | apply keptR_issue | apply keptR_issueWith | exact keptR_fault
                  | apply kept_v3 | intro _

theorem kept_execFcmp {s₀ : State} (o : OpC) (s : State) (h_s : s₀.Keeps s) :
    KeptR s₀ (execFcmp o s) := by
  unfold execFcmp
  with_reducible
    repeat' first | assumption | apply keptR_next | apply keptR_issue | apply keptR_issueWith | exact keptR_fault
                  | apply kept_fpLanes | intro _

theorem kept_execRcp {s₀ : State} (o : OpU) (s : State) (h_s : s₀.Keeps s) :
    KeptR s₀ (execRcp o s) := by
  unfold execRcp
  with_reducible
    repeat' first | assumption | apply keptR_next | apply keptR_issue | apply keptR_issueWith | exact keptR_fault
                  | apply kept_fpLanes | intro _

theorem kept_execRsq {s₀ : State} (o : OpU) (s : State) (h_s : s₀.Keeps s) :
    KeptR s₀ (execRsq o s) := by
  unfold execRsq
  with_reducible
    repeat' first | assumption | apply keptR_next | apply keptR_issue | apply keptR_issueWith | exact keptR_fault
                  | apply kept_fpLanes | intro _

theorem kept_execExp2 {s₀ : State} (o : OpU) (s : State) (h_s : s₀.Keeps s) :
    KeptR s₀ (execExp2 o s) := by
  unfold execExp2
  with_reducible
    repeat' first | assumption | apply keptR_next | apply keptR_issue | apply keptR_issueWith | exact keptR_fault
                  | apply kept_fpLanes | intro _

theorem kept_execLog2 {s₀ : State} (o : OpU) (s : State) (h_s : s₀.Keeps s) :
    KeptR s₀ (execLog2 o s) := by
  unfold execLog2
  with_reducible
    repeat' first | assumption | apply keptR_next | apply keptR_issue | apply keptR_issueWith | exact keptR_fault
                  | apply kept_fpLanes | intro _

theorem kept_execSinr {s₀ : State} (o : OpU) (s : State) (h_s : s₀.Keeps s) :
    KeptR s₀ (execSinr o s) := by
  unfold execSinr
  with_reducible
    repeat' first | assumption | apply keptR_next | apply keptR_issue | apply keptR_issueWith | exact keptR_fault
                  | apply kept_fpLanes | intro _

theorem kept_execCosr {s₀ : State} (o : OpU) (s : State) (h_s : s₀.Keeps s) :
    KeptR s₀ (execCosr o s) := by
  unfold execCosr
  with_reducible
    repeat' first | assumption | apply keptR_next | apply keptR_issue | apply keptR_issueWith | exact keptR_fault
                  | apply kept_fpLanes | intro _

theorem kept_execTanh {s₀ : State} (o : OpU) (s : State) (h_s : s₀.Keeps s) :
    KeptR s₀ (execTanh o s) := by
  unfold execTanh
  with_reducible
    repeat' first | assumption | apply keptR_next | apply keptR_issue | apply keptR_issueWith | exact keptR_fault
                  | apply kept_fpLanes | intro _

theorem kept_execFloor {s₀ : State} (o : OpU) (s : State) (h_s : s₀.Keeps s) :
    KeptR s₀ (execFloor o s) := by
  unfold execFloor
  with_reducible
    repeat' first | assumption | apply keptR_next | apply keptR_issue | apply keptR_issueWith | exact keptR_fault
                  | apply kept_fpLanes | intro _

theorem kept_execCeil {s₀ : State} (o : OpU) (s : State) (h_s : s₀.Keeps s) :
    KeptR s₀ (execCeil o s) := by
  unfold execCeil
  with_reducible
    repeat' first | assumption | apply keptR_next | apply keptR_issue | apply keptR_issueWith | exact keptR_fault
                  | apply kept_fpLanes | intro _

theorem kept_execTrunc {s₀ : State} (o : OpU) (s : State) (h_s : s₀.Keeps s) :
    KeptR s₀ (execTrunc o s) := by
  unfold execTrunc
  with_reducible
    repeat' first | assumption | apply keptR_next | apply keptR_issue | apply keptR_issueWith | exact keptR_fault
                  | apply kept_fpLanes | intro _

theorem kept_execRint {s₀ : State} (o : OpU) (s : State) (h_s : s₀.Keeps s) :
    KeptR s₀ (execRint o s) := by
  unfold execRint
  with_reducible
    repeat' first | assumption | apply keptR_next | apply keptR_issue | apply keptR_issueWith | exact keptR_fault
                  | apply kept_fpLanes | intro _

theorem kept_execFract {s₀ : State} (o : OpU) (s : State) (h_s : s₀.Keeps s) :
    KeptR s₀ (execFract o s) := by
  unfold execFract
  with_reducible
    repeat' first | assumption | apply keptR_next | apply keptR_issue | apply keptR_issueWith | exact keptR_fault
                  | apply kept_fpLanes | intro _

theorem kept_execFdiv {s₀ : State} (o : OpG) (s : State) (h_s : s₀.Keeps s) :
    KeptR s₀ (execFdiv o s) := by
  unfold execFdiv
  with_reducible
    repeat' first | assumption | apply keptR_next | apply keptR_issue | apply keptR_issueWith | exact keptR_fault
                  | apply kept_fpLanes | intro _

theorem kept_execFsqrt {s₀ : State} (o : OpG) (s : State) (h_s : s₀.Keeps s) :
    KeptR s₀ (execFsqrt o s) := by
  unfold execFsqrt
  with_reducible
    repeat' first | assumption | apply keptR_next | apply keptR_issue | apply keptR_issueWith | exact keptR_fault
                  | apply kept_fpLanes | intro _

theorem kept_execTransportDescriptor {s₀ : State} (s : State) (h_s : s₀.Keeps s) :
    KeptR s₀ (execTransportDescriptor s) := by
  unfold execTransportDescriptor
  with_reducible
    repeat' first | assumption | apply keptR_next | apply keptR_issue | apply keptR_issueWith | exact keptR_fault
                  | apply kept_headOf | apply kept_checkPacket | apply kept_stopQueue | apply kept_modCtx
                  | apply kept_deliverInv | apply kept_unitWrite | apply kept_reviveChannel | apply kept_unitRead
                  | apply kept_sendFrame | intro _ | split | dsimp only

theorem kept_execFrameQueueAppend {s₀ : State} (s : State) (h_s : s₀.Keeps s) :
    KeptR s₀ (execFrameQueueAppend s) := by
  unfold execFrameQueueAppend
  split
  · next h q packet _ =>
    apply keptR_next
    apply kept_receive _ _ _ h_s
    intro u x hu
    split
    · trivial
    · exact kept_netAppend _ _ _ _ _ hu
  · exact keptR_next h_s

theorem kept_execFrameRemoteWrite {s₀ : State} (s : State) (h_s : s₀.Keeps s) :
    KeptR s₀ (execFrameRemoteWrite s) := by
  unfold execFrameRemoteWrite
  split
  · next h va bytes _ =>
    apply keptR_next
    apply kept_receive _ _ _ h_s
    intro u x hu
    split
    · trivial
    · next hw => exact kept_netWrite _ _ _ _ _ hu _ hw
  · exact keptR_next h_s

theorem kept_execFrameRemoteAtomic {s₀ : State} (s : State) (h_s : s₀.Keeps s) :
    KeptR s₀ (execFrameRemoteAtomic s) := by
  unfold execFrameRemoteAtomic
  split
  · next h va op a b _ =>
    apply keptR_next
    apply kept_receive _ _ _ h_s
    intro u x hu
    have hc := kept_unitXlat u 0 h.asid x va .rmw hu
    split
    · trivial
    · generalize u.unitXlat 0 h.asid x va .rmw = r at hc
      rcases r with ⟨v, y | y⟩
      · trivial
      · dsimp only
        split
        · exact hc
        · split
          · trivial
          · exact kept_pageWrite _ _ _ _ _ (kept_pageNat _ _ _ _ hc)
  · exact keptR_next h_s

theorem kept_execFrameWatermark {s₀ : State} (s : State) (h_s : s₀.Keeps s) :
    KeptR s₀ (execFrameWatermark s) := by
  unfold execFrameWatermark
  split
  · next h src v _ =>
    apply keptR_next
    apply kept_receive _ _ _ h_s
    intro u x hu
    exact kept_wmadv _ _ _ _ (kept_deliverInv _ hu)
  · exact keptR_next h_s

theorem kept_execFrameAck {s₀ : State} (s : State) (h_s : s₀.Keeps s) :
    KeptR s₀ (execFrameAck s) := by
  unfold execFrameAck
  split
  · next asid peer seq old _ =>
    apply keptR_next
    split
    · exact h_s
    · next x _ =>
      dsimp only
      split
      · exact h_s
      · split
        · exact kept_modCtx _ _ _ h_s
        · next f _ =>
          split
          · exact kept_modCtx _ _ _ h_s
          · split
            · next hw => exact kept_netWrite _ _ _ _ _ (kept_deliverInv _ (kept_modCtx _ _ _ h_s)) _ hw
            · exact kept_modCtx _ _ _ h_s
  · exact keptR_next h_s

theorem kept_execFrameNack {s₀ : State} (s : State) (h_s : s₀.Keeps s) :
    KeptR s₀ (execFrameNack s) := by
  unfold execFrameNack
  with_reducible
    repeat' first | assumption | apply keptR_next | apply keptR_issue | apply keptR_issueWith | exact keptR_fault
                  | apply kept_retry | intro _ | split | dsimp only

theorem kept_execTransportAckTimeout {s₀ : State} (s : State) (h_s : s₀.Keeps s) :
    KeptR s₀ (execTransportAckTimeout s) := by
  unfold execTransportAckTimeout
  with_reducible
    repeat' first | assumption | apply keptR_next | apply keptR_issue | apply keptR_issueWith | exact keptR_fault
                  | apply kept_retry | intro _ | split | dsimp only

theorem kept_execCtxopCreate {s₀ : State} (s : State) (h_s : s₀.Keeps s) :
    KeptR s₀ (execCtxopCreate s) := by
  unfold execCtxopCreate
  with_reducible
    repeat' first | assumption | apply keptR_next | apply keptR_issue | apply keptR_issueWith | exact keptR_fault
                  | apply kept_serve | apply kept_createCtx | intro _ | split

theorem kept_execCtxopReloadScope {s₀ : State} (s : State) (h_s : s₀.Keeps s) :
    KeptR s₀ (execCtxopReloadScope s) := by
  unfold execCtxopReloadScope
  with_reducible
    repeat' first | assumption | apply keptR_next | apply keptR_issue | apply keptR_issueWith | exact keptR_fault
                  | apply kept_onCtx | apply kept_readScopes | apply kept_modCtx | intro _ | split | dsimp only
                  | refine kept_pair (by assumption) ?_

theorem kept_execCtxopReloadQueues {s₀ : State} (s : State) (h_s : s₀.Keeps s) :
    KeptR s₀ (execCtxopReloadQueues s) := by
  unfold execCtxopReloadQueues
  with_reducible
    repeat' first | assumption | apply keptR_next | apply keptR_issue | apply keptR_issueWith | exact keptR_fault
                  | apply kept_onCtx | apply kept_readQueues | apply kept_modCtx | intro _ | split | dsimp only
                  | refine kept_pair (by assumption) ?_

theorem kept_execCtxopReloadStream {s₀ : State} (s : State) (h_s : s₀.Keeps s) :
    KeptR s₀ (execCtxopReloadStream s) := by
  unfold execCtxopReloadStream
  with_reducible
    repeat' first | assumption | apply keptR_next | apply keptR_issue | apply keptR_issueWith | exact keptR_fault
                  | apply kept_onCtx | apply kept_loadStream | intro _ | split

theorem kept_execCtxopKill {s₀ : State} (s : State) (h_s : s₀.Keeps s) :
    KeptR s₀ (execCtxopKill s) := by
  unfold execCtxopKill
  with_reducible
    repeat' first | assumption | apply keptR_next | apply keptR_issue | apply keptR_issueWith | exact keptR_fault
                  | apply kept_onCtx | apply kept_killCtx | intro _ | split

theorem kept_execKillComplete {s₀ : State} (s : State) (h_s : s₀.Keeps s) :
    KeptR s₀ (execKillComplete s) := by
  unfold execKillComplete
  with_reducible
    repeat' first | assumption | apply keptR_next | apply keptR_issue | apply keptR_issueWith | exact keptR_fault
                  | apply kept_killDone | intro _ | split

theorem kept_execCtxopResume {s₀ : State} (s : State) (h_s : s₀.Keeps s) :
    KeptR s₀ (execCtxopResume s) := by
  unfold execCtxopResume
  with_reducible
    repeat' first | assumption | apply keptR_next | apply keptR_issue | apply keptR_issueWith | exact keptR_fault
                  | apply kept_answer | apply kept_place | apply kept_resumeTrap | apply kept_modTeam | intro _ | split

theorem kept_execCtxopDeliver {s₀ : State} (s : State) (h_s : s₀.Keeps s) :
    KeptR s₀ (execCtxopDeliver s) := by
  unfold execCtxopDeliver
  with_reducible
    repeat' first | assumption | apply keptR_next | apply keptR_issue | apply keptR_issueWith | exact keptR_fault
                  | apply kept_answer | apply kept_terminateGrid | apply kept_modTeam | apply kept_place | apply kept_deliver
                  | intro _ | split

theorem kept_execCtxopTerminate {s₀ : State} (s : State) (h_s : s₀.Keeps s) :
    KeptR s₀ (execCtxopTerminate s) := by
  unfold execCtxopTerminate
  with_reducible
    repeat' first | assumption | apply keptR_next | apply keptR_issue | apply keptR_issueWith | exact keptR_fault
                  | apply kept_answer | apply kept_terminateGrid | intro _ | split

theorem kept_execCtxopSetTransportRing {s₀ : State} (s : State) (h_s : s₀.Keeps s) :
    KeptR s₀ (execCtxopSetTransportRing s) := by
  unfold execCtxopSetTransportRing
  with_reducible
    repeat' first | assumption | apply keptR_next | apply keptR_issue | apply keptR_issueWith | exact keptR_fault
                  | apply kept_onCtx | apply kept_modCtx | intro _ | split | dsimp only

theorem kept_execCtxopInvalidate {s₀ : State} (s : State) (h_s : s₀.Keeps s) :
    KeptR s₀ (execCtxopInvalidate s) := by
  unfold execCtxopInvalidate
  with_reducible
    repeat' first | assumption | apply keptR_next | apply keptR_issue | apply keptR_issueWith | exact keptR_fault
                  | apply kept_serve | apply kept_invalidate23 | apply kept_invalsDone | intro _ | split

theorem kept_execCtxopUndefined {s₀ : State} (s : State) (h_s : s₀.Keeps s) :
    KeptR s₀ (execCtxopUndefined s) := by
  unfold execCtxopUndefined
  with_reducible
    repeat' first | assumption | apply keptR_next | apply keptR_issue | apply keptR_issueWith | exact keptR_fault
                  | apply kept_serve | intro _ | split

theorem kept_execNtfbaseWrite {s₀ : State} (s : State) (h_s : s₀.Keeps s) :
    KeptR s₀ (execNtfbaseWrite s) := by
  unfold execNtfbaseWrite
  with_reducible
    repeat' first | assumption | apply keptR_next | apply keptR_issue | apply keptR_issueWith | exact keptR_fault
                  | apply kept_flushNotes | intro _ | split

theorem kept_execNtftailWrite {s₀ : State} (s : State) (h_s : s₀.Keeps s) :
    KeptR s₀ (execNtftailWrite s) := by
  unfold execNtftailWrite
  with_reducible
    repeat' first | assumption | apply keptR_next | apply keptR_issue | apply keptR_issueWith | exact keptR_fault
                  | apply kept_flushNotes | intro _ | split

theorem kept_execPwrcapWrite {s₀ : State} (s : State) (h_s : s₀.Keeps s) :
    KeptR s₀ (execPwrcapWrite s) := by
  unfold execPwrcapWrite
  with_reducible
    repeat' first | assumption | apply keptR_next | apply keptR_issue | apply keptR_issueWith | exact keptR_fault | intro _
                  | split

theorem kept_execHwslWrite {s₀ : State} (s : State) (h_s : s₀.Keeps s) :
    KeptR s₀ (execHwslWrite s) := by
  unfold execHwslWrite
  with_reducible
    repeat' first | assumption | apply keptR_next | apply keptR_issue | apply keptR_issueWith | exact keptR_fault | intro _
                  | split

theorem kept_execRegisterWrite {s₀ : State} (s : State) (h_s : s₀.Keeps s) :
    KeptR s₀ (execRegisterWrite s) := by
  unfold execRegisterWrite
  with_reducible
    repeat' first | assumption | apply keptR_next | apply keptR_issue | apply keptR_issueWith | exact keptR_fault | intro _
                  | split

theorem kept_execHostWindowRead {s₀ : State} (s : State) (h_s : s₀.Keeps s) :
    KeptR s₀ (execHostWindowRead s) := by
  unfold execHostWindowRead
  with_reducible
    repeat' first | assumption | apply keptR_next | apply keptR_issue | apply keptR_issueWith | exact keptR_fault
                  | apply kept_homeRead | intro _ | split

theorem kept_execHostWindowWrite {s₀ : State} (s : State) (h_s : s₀.Keeps s) :
    KeptR s₀ (execHostWindowWrite s) := by
  unfold execHostWindowWrite
  with_reducible
    repeat' first | assumption | apply keptR_next | apply keptR_issue | apply keptR_issueWith | exact keptR_fault
                  | apply kept_deliverInv | apply kept_homeWrite | intro _ | split

theorem kept_execHostWindowAtomic {s₀ : State} (s : State) (h_s : s₀.Keeps s) :
    KeptR s₀ (execHostWindowAtomic s) := by
  unfold execHostWindowAtomic
  with_reducible
    repeat' first | assumption | apply keptR_next | apply keptR_issue | apply keptR_issueWith | exact keptR_fault
                  | apply kept_deliverInv | apply kept_homeNat | apply kept_homeWrite | intro _ | split | dsimp only

theorem kept_execAndV {s₀ : State} (o : OpG) (s : State) (h_s : s₀.Keeps s) :
    KeptR s₀ (execAndV o s) := by
  unfold execAndV
  with_reducible
    repeat' first | assumption | apply keptR_next | apply keptR_issue | apply keptR_issueWith | exact keptR_fault
                  | apply kept_v3 | intro _

theorem kept_execOrV {s₀ : State} (o : OpG) (s : State) (h_s : s₀.Keeps s) :
    KeptR s₀ (execOrV o s) := by
  unfold execOrV
  with_reducible
    repeat' first | assumption | apply keptR_next | apply keptR_issue | apply keptR_issueWith | exact keptR_fault
                  | apply kept_v3 | intro _

theorem kept_execXorV {s₀ : State} (o : OpG) (s : State) (h_s : s₀.Keeps s) :
    KeptR s₀ (execXorV o s) := by
  unfold execXorV
  with_reducible
    repeat' first | assumption | apply keptR_next | apply keptR_issue | apply keptR_issueWith | exact keptR_fault
                  | apply kept_v3 | intro _

theorem kept_execAndn {s₀ : State} (o : OpG) (s : State) (h_s : s₀.Keeps s) :
    KeptR s₀ (execAndn o s) := by
  unfold execAndn
  with_reducible
    repeat' first | assumption | apply keptR_next | apply keptR_issue | apply keptR_issueWith | exact keptR_fault
                  | apply kept_v3 | intro _

theorem kept_execOrn {s₀ : State} (o : OpG) (s : State) (h_s : s₀.Keeps s) :
    KeptR s₀ (execOrn o s) := by
  unfold execOrn
  with_reducible
    repeat' first | assumption | apply keptR_next | apply keptR_issue | apply keptR_issueWith | exact keptR_fault
                  | apply kept_v3 | intro _

theorem kept_execXnor {s₀ : State} (o : OpG) (s : State) (h_s : s₀.Keeps s) :
    KeptR s₀ (execXnor o s) := by
  unfold execXnor
  with_reducible
    repeat' first | assumption | apply keptR_next | apply keptR_issue | apply keptR_issueWith | exact keptR_fault
                  | apply kept_v3 | intro _

theorem kept_execShl {s₀ : State} (o : OpG) (s : State) (h_s : s₀.Keeps s) :
    KeptR s₀ (execShl o s) := by
  unfold execShl
  with_reducible
    repeat' first | assumption | apply keptR_next | apply keptR_issue | apply keptR_issueWith | exact keptR_fault
                  | apply kept_v3 | intro _

theorem kept_execShr {s₀ : State} (o : OpG) (s : State) (h_s : s₀.Keeps s) :
    KeptR s₀ (execShr o s) := by
  unfold execShr
  with_reducible
    repeat' first | assumption | apply keptR_next | apply keptR_issue | apply keptR_issueWith | exact keptR_fault
                  | apply kept_v3 | intro _

theorem kept_execSar {s₀ : State} (o : OpG) (s : State) (h_s : s₀.Keeps s) :
    KeptR s₀ (execSar o s) := by
  unfold execSar
  with_reducible
    repeat' first | assumption | apply keptR_next | apply keptR_issue | apply keptR_issueWith | exact keptR_fault
                  | apply kept_v3 | intro _

theorem kept_execRol {s₀ : State} (o : OpG) (s : State) (h_s : s₀.Keeps s) :
    KeptR s₀ (execRol o s) := by
  unfold execRol
  with_reducible
    repeat' first | assumption | apply keptR_next | apply keptR_issue | apply keptR_issueWith | exact keptR_fault
                  | apply kept_v3 | intro _

theorem kept_execRor {s₀ : State} (o : OpG) (s : State) (h_s : s₀.Keeps s) :
    KeptR s₀ (execRor o s) := by
  unfold execRor
  with_reducible
    repeat' first | assumption | apply keptR_next | apply keptR_issue | apply keptR_issueWith | exact keptR_fault
                  | apply kept_v3 | intro _

theorem kept_execShl64 {s₀ : State} (o : OpG) (s : State) (h_s : s₀.Keeps s) :
    KeptR s₀ (execShl64 o s) := by
  unfold execShl64
  with_reducible
    repeat' first | assumption | apply keptR_next | apply keptR_issue | apply keptR_issueWith | exact keptR_fault
                  | apply kept_w2v | intro _

theorem kept_execShr64 {s₀ : State} (o : OpG) (s : State) (h_s : s₀.Keeps s) :
    KeptR s₀ (execShr64 o s) := by
  unfold execShr64
  with_reducible
    repeat' first | assumption | apply keptR_next | apply keptR_issue | apply keptR_issueWith | exact keptR_fault
                  | apply kept_w2v | intro _

theorem kept_execSar64 {s₀ : State} (o : OpG) (s : State) (h_s : s₀.Keeps s) :
    KeptR s₀ (execSar64 o s) := by
  unfold execSar64
  with_reducible
    repeat' first | assumption | apply keptR_next | apply keptR_issue | apply keptR_issueWith | exact keptR_fault
                  | apply kept_w2v | intro _

theorem kept_execPopc {s₀ : State} (o : OpU) (s : State) (h_s : s₀.Keeps s) :
    KeptR s₀ (execPopc o s) := by
  unfold execPopc
  with_reducible
    repeat' first | assumption | apply keptR_next | apply keptR_issue | apply keptR_issueWith | exact keptR_fault
                  | apply kept_v2 | intro _

theorem kept_execClz {s₀ : State} (o : OpU) (s : State) (h_s : s₀.Keeps s) :
    KeptR s₀ (execClz o s) := by
  unfold execClz
  with_reducible
    repeat' first | assumption | apply keptR_next | apply keptR_issue | apply keptR_issueWith | exact keptR_fault
                  | apply kept_v2 | intro _

theorem kept_execCtz {s₀ : State} (o : OpU) (s : State) (h_s : s₀.Keeps s) :
    KeptR s₀ (execCtz o s) := by
  unfold execCtz
  with_reducible
    repeat' first | assumption | apply keptR_next | apply keptR_issue | apply keptR_issueWith | exact keptR_fault
                  | apply kept_v2 | intro _

theorem kept_execBrev {s₀ : State} (o : OpU) (s : State) (h_s : s₀.Keeps s) :
    KeptR s₀ (execBrev o s) := by
  unfold execBrev
  with_reducible
    repeat' first | assumption | apply keptR_next | apply keptR_issue | apply keptR_issueWith | exact keptR_fault
                  | apply kept_v2 | intro _

theorem kept_execBswap {s₀ : State} (o : OpU) (s : State) (h_s : s₀.Keeps s) :
    KeptR s₀ (execBswap o s) := by
  unfold execBswap
  with_reducible
    repeat' first | assumption | apply keptR_next | apply keptR_issue | apply keptR_issueWith | exact keptR_fault
                  | apply kept_v2 | intro _

theorem kept_execNotV {s₀ : State} (o : OpU) (s : State) (h_s : s₀.Keeps s) :
    KeptR s₀ (execNotV o s) := by
  unfold execNotV
  with_reducible
    repeat' first | assumption | apply keptR_next | apply keptR_issue | apply keptR_issueWith | exact keptR_fault
                  | apply kept_v2 | intro _

theorem kept_execBfeI32 {s₀ : State} (o : OpG) (x : XBf) (s : State) (h_s : s₀.Keeps s) :
    KeptR s₀ (execBfeI32 o x s) := by
  unfold execBfeI32
  with_reducible
    repeat' first | assumption | apply keptR_next | apply keptR_issue | apply keptR_issueWith | exact keptR_fault
                  | apply kept_v2 | intro _

theorem kept_execBfeN32 {s₀ : State} (o : OpG) (x : XBf) (s : State) (h_s : s₀.Keeps s) :
    KeptR s₀ (execBfeN32 o x s) := by
  unfold execBfeN32
  with_reducible
    repeat' first | assumption | apply keptR_next | apply keptR_issue | apply keptR_issueWith | exact keptR_fault
                  | apply kept_v2 | intro _

theorem kept_execBfi {s₀ : State} (o : OpG) (x : XBf) (s : State) (h_s : s₀.Keeps s) :
    KeptR s₀ (execBfi o x s) := by
  unfold execBfi
  with_reducible
    repeat' first | assumption | apply keptR_next | apply keptR_issue | apply keptR_issueWith | exact keptR_fault
                  | apply kept_v4 | intro _

theorem kept_execMov {s₀ : State} (o : OpU) (s : State) (h_s : s₀.Keeps s) :
    KeptR s₀ (execMov o s) := by
  unfold execMov
  with_reducible
    repeat' first | assumption | apply keptR_next | apply keptR_issue | apply keptR_issueWith | exact keptR_fault
                  | apply kept_v2 | intro _

theorem kept_execMovk {s₀ : State} (o : OpG) (x : XLit) (s : State) (h_s : s₀.Keeps s) :
    KeptR s₀ (execMovk o x s) := by
  unfold execMovk
  with_reducible
    repeat' first | assumption | apply keptR_next | apply keptR_issue | apply keptR_issueWith | exact keptR_fault
                  | apply kept_v2 | intro _

theorem kept_execMovkW {s₀ : State} (o : OpG) (x : XLit) (s : State) (h_s : s₀.Keeps s) :
    KeptR s₀ (execMovkW o x s) := by
  unfold execMovkW
  with_reducible
    repeat' first | assumption | apply keptR_next | apply keptR_issue | apply keptR_issueWith | exact keptR_fault
                  | apply kept_lanewise | intro _

theorem kept_execIcmpI32 {s₀ : State} (o : OpC) (s : State) (h_s : s₀.Keeps s) :
    KeptR s₀ (execIcmpI32 o s) := by
  unfold execIcmpI32
  with_reducible
    repeat' first | assumption | apply keptR_next | apply keptR_issue | apply keptR_issueWith | exact keptR_fault
                  | apply kept_toP | intro _

theorem kept_execIcmpN32 {s₀ : State} (o : OpC) (s : State) (h_s : s₀.Keeps s) :
    KeptR s₀ (execIcmpN32 o s) := by
  unfold execIcmpN32
  with_reducible
    repeat' first | assumption | apply keptR_next | apply keptR_issue | apply keptR_issueWith | exact keptR_fault
                  | apply kept_toP | intro _

theorem kept_execSel {s₀ : State} (o : OpG) (x : XSel) (s : State) (h_s : s₀.Keeps s) :
    KeptR s₀ (execSel o x s) := by
  unfold execSel
  with_reducible
    repeat' first | assumption | apply keptR_next | apply keptR_issue | apply keptR_issueWith | exact keptR_fault
                  | apply kept_lanewise | intro _

theorem kept_execMshapeImm {s₀ : State} (o : OpG) (x : XMat) (s : State) (h_s : s₀.Keeps s) :
    KeptR s₀ (execMshapeImm o x s) := by
  unfold execMshapeImm
  with_reducible
    repeat' first | assumption | apply keptR_next | apply keptR_issue | apply keptR_issueWith | exact keptR_fault
                  | apply kept_takeTrap | apply kept_matrix | intro _ | split | dsimp only

theorem kept_execMshapeLane {s₀ : State} (o : OpG) (x : XMat) (s : State) (h_s : s₀.Keeps s) :
    KeptR s₀ (execMshapeLane o x s) := by
  unfold execMshapeLane
  with_reducible
    repeat' first | assumption | apply keptR_next | apply keptR_issue | apply keptR_issueWith | exact keptR_fault
                  | apply kept_matrix | intro _

theorem kept_execMmul {s₀ : State} (o : OpG) (x : XMat) (s : State) (h_s : s₀.Keeps s) :
    KeptR s₀ (execMmul o x s) := by
  unfold execMmul
  with_reducible
    repeat' first | assumption | apply keptR_next | apply keptR_issue | apply keptR_issueWith | exact keptR_fault
                  | apply kept_multiply | intro _

theorem kept_execMma {s₀ : State} (o : OpG) (x : XMat) (s : State) (h_s : s₀.Keeps s) :
    KeptR s₀ (execMma o x s) := by
  unfold execMma
  with_reducible
    repeat' first | assumption | apply keptR_next | apply keptR_issue | apply keptR_issueWith | exact keptR_fault
                  | apply kept_multiply | intro _

theorem kept_execMmat {s₀ : State} (o : OpG) (x : XMat) (s : State) (h_s : s₀.Keeps s) :
    KeptR s₀ (execMmat o x s) := by
  unfold execMmat
  with_reducible
    repeat' first | assumption | apply keptR_next | apply keptR_issue | apply keptR_issueWith | exact keptR_fault
                  | apply kept_multiply | intro _

theorem kept_execMmab {s₀ : State} (o : OpG) (x : XMat) (s : State) (h_s : s₀.Keeps s) :
    KeptR s₀ (execMmab o x s) := by
  unfold execMmab
  with_reducible
    repeat' first | assumption | apply keptR_next | apply keptR_issue | apply keptR_issueWith | exact keptR_fault
                  | apply kept_multiply | intro _

theorem kept_execMadd {s₀ : State} (o : OpG) (x : XMat) (s : State) (h_s : s₀.Keeps s) :
    KeptR s₀ (execMadd o x s) := by
  unfold execMadd
  with_reducible
    repeat' first | assumption | apply keptR_next | apply keptR_issue | apply keptR_issueWith | exact keptR_fault
                  | apply kept_elementwise | intro _

theorem kept_execMsub {s₀ : State} (o : OpG) (x : XMat) (s : State) (h_s : s₀.Keeps s) :
    KeptR s₀ (execMsub o x s) := by
  unfold execMsub
  with_reducible
    repeat' first | assumption | apply keptR_next | apply keptR_issue | apply keptR_issueWith | exact keptR_fault
                  | apply kept_elementwise | intro _

theorem kept_execMhad {s₀ : State} (o : OpG) (x : XMat) (s : State) (h_s : s₀.Keeps s) :
    KeptR s₀ (execMhad o x s) := by
  unfold execMhad
  with_reducible
    repeat' first | assumption | apply keptR_next | apply keptR_issue | apply keptR_issueWith | exact keptR_fault
                  | apply kept_elementwise | intro _

theorem kept_execMmax {s₀ : State} (o : OpG) (x : XMat) (s : State) (h_s : s₀.Keeps s) :
    KeptR s₀ (execMmax o x s) := by
  unfold execMmax
  with_reducible
    repeat' first | assumption | apply keptR_next | apply keptR_issue | apply keptR_issueWith | exact keptR_fault
                  | apply kept_elementwise | intro _

theorem kept_execMscal {s₀ : State} (o : OpG) (x : XMat) (s : State) (h_s : s₀.Keeps s) :
    KeptR s₀ (execMscal o x s) := by
  unfold execMscal
  with_reducible
    repeat' first | assumption | apply keptR_next | apply keptR_issue | apply keptR_issueWith | exact keptR_fault
                  | apply kept_matrixTo | intro _

theorem kept_execMexp2 {s₀ : State} (o : OpG) (x : XMat) (s : State) (h_s : s₀.Keeps s) :
    KeptR s₀ (execMexp2 o x s) := by
  unfold execMexp2
  with_reducible
    repeat' first | assumption | apply keptR_next | apply keptR_issue | apply keptR_issueWith | exact keptR_fault
                  | apply kept_matrixTo | intro _

theorem kept_execMzero {s₀ : State} (o : OpG) (x : XMat) (s : State) (h_s : s₀.Keeps s) :
    KeptR s₀ (execMzero o x s) := by
  unfold execMzero
  with_reducible
    repeat' first | assumption | apply keptR_next | apply keptR_issue | apply keptR_issueWith | exact keptR_fault
                  | apply kept_matrix | intro _

theorem kept_execMcvt {s₀ : State} (o : OpG) (x : XMat) (s : State) (h_s : s₀.Keeps s) :
    KeptR s₀ (execMcvt o x s) := by
  unfold execMcvt
  with_reducible
    repeat' first | assumption | apply keptR_next | apply keptR_issue | apply keptR_issueWith | exact keptR_fault
                  | apply kept_matrixTo | intro _

theorem kept_execMtrn {s₀ : State} (o : OpG) (x : XMat) (s : State) (h_s : s₀.Keeps s) :
    KeptR s₀ (execMtrn o x s) := by
  unfold execMtrn
  with_reducible
    repeat' first | assumption | apply keptR_next | apply keptR_issue | apply keptR_issueWith | exact keptR_fault
                  | apply kept_matrixTo | intro _

theorem kept_execMmov {s₀ : State} (o : OpG) (x : XMat) (s : State) (h_s : s₀.Keeps s) :
    KeptR s₀ (execMmov o x s) := by
  unfold execMmov
  with_reducible
    repeat' first | assumption | apply keptR_next | apply keptR_issue | apply keptR_issueWith | exact keptR_fault
                  | apply kept_matrixTo | intro _

theorem kept_execMget {s₀ : State} (o : OpG) (x : XMat) (s : State) (h_s : s₀.Keeps s) :
    KeptR s₀ (execMget o x s) := by
  unfold execMget
  with_reducible
    repeat' first | assumption | apply keptR_next | apply keptR_issue | apply keptR_issueWith | exact keptR_fault
                  | apply kept_matrix | intro _

theorem kept_execMput {s₀ : State} (o : OpG) (x : XMat) (s : State) (h_s : s₀.Keeps s) :
    KeptR s₀ (execMput o x s) := by
  unfold execMput
  with_reducible
    repeat' first | assumption | apply keptR_next | apply keptR_issue | apply keptR_issueWith | exact keptR_fault
                  | apply kept_matrix | intro _

theorem kept_execMred {s₀ : State} (o : OpG) (x : XMat) (s : State) (h_s : s₀.Keeps s) :
    KeptR s₀ (execMred o x s) := by
  unfold execMred
  with_reducible
    repeat' first | assumption | apply keptR_next | apply keptR_issue | apply keptR_issueWith | exact keptR_fault
                  | apply kept_matrix | intro _

theorem kept_execMshget {s₀ : State} (o : OpG) (x : XMat) (s : State) (h_s : s₀.Keeps s) :
    KeptR s₀ (execMshget o x s) := by
  unfold execMshget
  with_reducible
    repeat' first | assumption | apply keptR_next | apply keptR_issue | apply keptR_issueWith | exact keptR_fault
                  | apply kept_matrix | intro _

theorem kept_execMinv {s₀ : State} (o : OpG) (x : XMat) (s : State) (h_s : s₀.Keeps s) :
    KeptR s₀ (execMinv o x s) := by
  unfold execMinv
  with_reducible
    repeat' first | assumption | apply keptR_next | apply keptR_issue | apply keptR_issueWith | exact keptR_fault
                  | apply kept_factor | intro _

theorem kept_execMlu {s₀ : State} (o : OpG) (x : XMat) (s : State) (h_s : s₀.Keeps s) :
    KeptR s₀ (execMlu o x s) := by
  unfold execMlu
  with_reducible
    repeat' first | assumption | apply keptR_next | apply keptR_issue | apply keptR_issueWith | exact keptR_fault
                  | apply kept_factor | intro _

theorem kept_execMchol {s₀ : State} (o : OpG) (x : XMat) (s : State) (h_s : s₀.Keeps s) :
    KeptR s₀ (execMchol o x s) := by
  unfold execMchol
  with_reducible
    repeat' first | assumption | apply keptR_next | apply keptR_issue | apply keptR_issueWith | exact keptR_fault
                  | apply kept_factor | intro _

theorem kept_execMsolvl {s₀ : State} (o : OpG) (x : XMat) (s : State) (h_s : s₀.Keeps s) :
    KeptR s₀ (execMsolvl o x s) := by
  unfold execMsolvl
  with_reducible
    repeat' first | assumption | apply keptR_next | apply keptR_issue | apply keptR_issueWith | exact keptR_fault
                  | apply kept_solve | intro _

theorem kept_execMsolvu {s₀ : State} (o : OpG) (x : XMat) (s : State) (h_s : s₀.Keeps s) :
    KeptR s₀ (execMsolvu o x s) := by
  unfold execMsolvu
  with_reducible
    repeat' first | assumption | apply keptR_next | apply keptR_issue | apply keptR_issueWith | exact keptR_fault
                  | apply kept_solve | intro _

theorem kept_execMpow {s₀ : State} (o : OpG) (x : XMat) (s : State) (h_s : s₀.Keeps s) :
    KeptR s₀ (execMpow o x s) := by
  unfold execMpow
  with_reducible
    repeat' first | assumption | apply keptR_next | apply keptR_issue | apply keptR_issueWith | exact keptR_fault
                  | apply kept_matrixTo | intro _

theorem kept_execMdet {s₀ : State} (o : OpG) (x : XMat) (s : State) (h_s : s₀.Keeps s) :
    KeptR s₀ (execMdet o x s) := by
  unfold execMdet
  with_reducible
    repeat' first | assumption | apply keptR_next | apply keptR_issue | apply keptR_issueWith | exact keptR_fault
                  | apply kept_matrix | intro _

theorem kept_execTopkIns {s₀ : State} (o : OpG) (x : XMat) (s : State) (h_s : s₀.Keeps s) :
    KeptR s₀ (execTopkIns o x s) := by
  unfold execTopkIns
  with_reducible
    repeat' first | assumption | apply keptR_next | apply keptR_issue | apply keptR_issueWith | exact keptR_fault
                  | apply kept_matrix | intro _

theorem kept_execTopkGet {s₀ : State} (o : OpG) (x : XMat) (s : State) (h_s : s₀.Keeps s) :
    KeptR s₀ (execTopkGet o x s) := by
  unfold execTopkGet
  with_reducible
    repeat' first | assumption | apply keptR_next | apply keptR_issue | apply keptR_issueWith | exact keptR_fault
                  | apply kept_matrix | intro _

theorem kept_execTopkClr {s₀ : State} (o : OpG) (x : XMat) (s : State) (h_s : s₀.Keeps s) :
    KeptR s₀ (execTopkClr o x s) := by
  unfold execTopkClr
  with_reducible
    repeat' first | assumption | apply keptR_next | apply keptR_issue | apply keptR_issueWith | exact keptR_fault
                  | apply kept_matrix | intro _

theorem kept_execHadd2 {s₀ : State} (o : OpG) (s : State) (h_s : s₀.Keeps s) :
    KeptR s₀ (execHadd2 o s) := by
  unfold execHadd2
  with_reducible
    repeat' first | assumption | apply keptR_next | apply keptR_issue | apply keptR_issueWith | exact keptR_fault
                  | apply kept_fpLanes | intro _

theorem kept_execHsub2 {s₀ : State} (o : OpG) (s : State) (h_s : s₀.Keeps s) :
    KeptR s₀ (execHsub2 o s) := by
  unfold execHsub2
  with_reducible
    repeat' first | assumption | apply keptR_next | apply keptR_issue | apply keptR_issueWith | exact keptR_fault
                  | apply kept_fpLanes | intro _

theorem kept_execHmul2 {s₀ : State} (o : OpG) (s : State) (h_s : s₀.Keeps s) :
    KeptR s₀ (execHmul2 o s) := by
  unfold execHmul2
  with_reducible
    repeat' first | assumption | apply keptR_next | apply keptR_issue | apply keptR_issueWith | exact keptR_fault
                  | apply kept_fpLanes | intro _

theorem kept_execHfma2 {s₀ : State} (o : OpG) (s : State) (h_s : s₀.Keeps s) :
    KeptR s₀ (execHfma2 o s) := by
  unfold execHfma2
  with_reducible
    repeat' first | assumption | apply keptR_next | apply keptR_issue | apply keptR_issueWith | exact keptR_fault
                  | apply kept_fpLanes | intro _

theorem kept_execHmin2 {s₀ : State} (o : OpG) (s : State) (h_s : s₀.Keeps s) :
    KeptR s₀ (execHmin2 o s) := by
  unfold execHmin2
  with_reducible
    repeat' first | assumption | apply keptR_next | apply keptR_issue | apply keptR_issueWith | exact keptR_fault
                  | apply kept_fpLanes | intro _

theorem kept_execHmax2 {s₀ : State} (o : OpG) (s : State) (h_s : s₀.Keeps s) :
    KeptR s₀ (execHmax2 o s) := by
  unfold execHmax2
  with_reducible
    repeat' first | assumption | apply keptR_next | apply keptR_issue | apply keptR_issueWith | exact keptR_fault
                  | apply kept_fpLanes | intro _

theorem kept_execBadd2 {s₀ : State} (o : OpG) (s : State) (h_s : s₀.Keeps s) :
    KeptR s₀ (execBadd2 o s) := by
  unfold execBadd2
  with_reducible
    repeat' first | assumption | apply keptR_next | apply keptR_issue | apply keptR_issueWith | exact keptR_fault
                  | apply kept_fpLanes | intro _

theorem kept_execBsub2 {s₀ : State} (o : OpG) (s : State) (h_s : s₀.Keeps s) :
    KeptR s₀ (execBsub2 o s) := by
  unfold execBsub2
  with_reducible
    repeat' first | assumption | apply keptR_next | apply keptR_issue | apply keptR_issueWith | exact keptR_fault
                  | apply kept_fpLanes | intro _

theorem kept_execBmul2 {s₀ : State} (o : OpG) (s : State) (h_s : s₀.Keeps s) :
    KeptR s₀ (execBmul2 o s) := by
  unfold execBmul2
  with_reducible
    repeat' first | assumption | apply keptR_next | apply keptR_issue | apply keptR_issueWith | exact keptR_fault
                  | apply kept_fpLanes | intro _

theorem kept_execBfma2 {s₀ : State} (o : OpG) (s : State) (h_s : s₀.Keeps s) :
    KeptR s₀ (execBfma2 o s) := by
  unfold execBfma2
  with_reducible
    repeat' first | assumption | apply keptR_next | apply keptR_issue | apply keptR_issueWith | exact keptR_fault
                  | apply kept_fpLanes | intro _

theorem kept_execBmin2 {s₀ : State} (o : OpG) (s : State) (h_s : s₀.Keeps s) :
    KeptR s₀ (execBmin2 o s) := by
  unfold execBmin2
  with_reducible
    repeat' first | assumption | apply keptR_next | apply keptR_issue | apply keptR_issueWith | exact keptR_fault
                  | apply kept_fpLanes | intro _

theorem kept_execBmax2 {s₀ : State} (o : OpG) (s : State) (h_s : s₀.Keeps s) :
    KeptR s₀ (execBmax2 o s) := by
  unfold execBmax2
  with_reducible
    repeat' first | assumption | apply keptR_next | apply keptR_issue | apply keptR_issueWith | exact keptR_fault
                  | apply kept_fpLanes | intro _

theorem kept_execDadd {s₀ : State} (o : OpG) (s : State) (h_s : s₀.Keeps s) :
    KeptR s₀ (execDadd o s) := by
  unfold execDadd
  with_reducible
    repeat' first | assumption | apply keptR_next | apply keptR_issue | apply keptR_issueWith | exact keptR_fault
                  | apply kept_fpLanes | intro _

theorem kept_execDsub {s₀ : State} (o : OpG) (s : State) (h_s : s₀.Keeps s) :
    KeptR s₀ (execDsub o s) := by
  unfold execDsub
  with_reducible
    repeat' first | assumption | apply keptR_next | apply keptR_issue | apply keptR_issueWith | exact keptR_fault
                  | apply kept_fpLanes | intro _

theorem kept_execDmul {s₀ : State} (o : OpG) (s : State) (h_s : s₀.Keeps s) :
    KeptR s₀ (execDmul o s) := by
  unfold execDmul
  with_reducible
    repeat' first | assumption | apply keptR_next | apply keptR_issue | apply keptR_issueWith | exact keptR_fault
                  | apply kept_fpLanes | intro _

theorem kept_execDdiv {s₀ : State} (o : OpG) (s : State) (h_s : s₀.Keeps s) :
    KeptR s₀ (execDdiv o s) := by
  unfold execDdiv
  with_reducible
    repeat' first | assumption | apply keptR_next | apply keptR_issue | apply keptR_issueWith | exact keptR_fault
                  | apply kept_fpLanes | intro _

theorem kept_execDfma {s₀ : State} (o : OpG) (s : State) (h_s : s₀.Keeps s) :
    KeptR s₀ (execDfma o s) := by
  unfold execDfma
  with_reducible
    repeat' first | assumption | apply keptR_next | apply keptR_issue | apply keptR_issueWith | exact keptR_fault
                  | apply kept_fpLanes | intro _

theorem kept_execDmin {s₀ : State} (o : OpG) (s : State) (h_s : s₀.Keeps s) :
    KeptR s₀ (execDmin o s) := by
  unfold execDmin
  with_reducible
    repeat' first | assumption | apply keptR_next | apply keptR_issue | apply keptR_issueWith | exact keptR_fault
                  | apply kept_fpLanes | intro _

theorem kept_execDmax {s₀ : State} (o : OpG) (s : State) (h_s : s₀.Keeps s) :
    KeptR s₀ (execDmax o s) := by
  unfold execDmax
  with_reducible
    repeat' first | assumption | apply keptR_next | apply keptR_issue | apply keptR_issueWith | exact keptR_fault
                  | apply kept_fpLanes | intro _

theorem kept_execDsqrt {s₀ : State} (o : OpG) (s : State) (h_s : s₀.Keeps s) :
    KeptR s₀ (execDsqrt o s) := by
  unfold execDsqrt
  with_reducible
    repeat' first | assumption | apply keptR_next | apply keptR_issue | apply keptR_issueWith | exact keptR_fault
                  | apply kept_fpLanes | intro _

theorem kept_execDcmp {s₀ : State} (o : OpC) (s : State) (h_s : s₀.Keeps s) :
    KeptR s₀ (execDcmp o s) := by
  unfold execDcmp
  with_reducible
    repeat' first | assumption | apply keptR_next | apply keptR_issue | apply keptR_issueWith | exact keptR_fault
                  | apply kept_fpLanes | intro _

theorem kept_execCvt {s₀ : State} (o : OpG) (x : XCvt) (s : State) (h_s : s₀.Keeps s) :
    KeptR s₀ (execCvt o x s) := by
  unfold execCvt
  with_reducible
    repeat' first | assumption | apply keptR_next | apply keptR_issue | apply keptR_issueWith | exact keptR_fault
                  | apply kept_fpLanes | intro _

theorem kept_execConfigRequest {s₀ : State} (s : State) (h_s : s₀.Keeps s) :
    KeptR s₀ (execConfigRequest s) := by
  unfold execConfigRequest
  with_reducible
    repeat' first | assumption | apply keptR_next | apply keptR_issue | apply keptR_issueWith | exact keptR_fault | intro _
                  | split

theorem kept_execPowerGood {s₀ : State} (s : State) (h_s : s₀.Keeps s) :
    KeptR s₀ (execPowerGood s) := by
  unfold execPowerGood
  split
  · apply keptR_next
    split
    · exact h_s
    · split
      · next h1 => exact kept_trySlot _ _ _ _ h_s _ h1
      · split
        · next h2 => exact kept_trySlot _ _ _ _ h_s _ h2
        · exact h_s
  · exact keptR_next h_s

theorem kept_execMctpControlMessage {s₀ : State} (s : State) (h_s : s₀.Keeps s) :
    KeptR s₀ (execMctpControlMessage s) := by
  unfold execMctpControlMessage
  with_reducible
    repeat' first | assumption | apply keptR_next | apply keptR_issue | apply keptR_issueWith | exact keptR_fault
                  | apply kept_mctp | intro _ | split

theorem kept_execReadTemperatures {s₀ : State} (s : State) (h_s : s₀.Keeps s) :
    KeptR s₀ (execReadTemperatures s) := by
  unfold execReadTemperatures
  with_reducible
    repeat' first | assumption | apply keptR_next | apply keptR_issue | apply keptR_issueWith | exact keptR_fault
                  | apply kept_mctp

theorem kept_execReadPower {s₀ : State} (s : State) (h_s : s₀.Keeps s) :
    KeptR s₀ (execReadPower s) := by
  unfold execReadPower
  with_reducible
    repeat' first | assumption | apply keptR_next | apply keptR_issue | apply keptR_issueWith | exact keptR_fault
                  | apply kept_mctp

theorem kept_execReadSoftErrorCounts {s₀ : State} (s : State) (h_s : s₀.Keeps s) :
    KeptR s₀ (execReadSoftErrorCounts s) := by
  unfold execReadSoftErrorCounts
  with_reducible
    repeat' first | assumption | apply keptR_next | apply keptR_issue | apply keptR_issueWith | exact keptR_fault
                  | apply kept_mctp

theorem kept_execReadIdent {s₀ : State} (s : State) (h_s : s₀.Keeps s) :
    KeptR s₀ (execReadIdent s) := by
  unfold execReadIdent
  with_reducible
    repeat' first | assumption | apply keptR_next | apply keptR_issue | apply keptR_issueWith | exact keptR_fault
                  | apply kept_mctp

theorem kept_execFaultReport {s₀ : State} (s : State) (h_s : s₀.Keeps s) :
    KeptR s₀ (execFaultReport s) := by
  unfold execFaultReport
  with_reducible
    repeat' first | assumption | apply keptR_next | apply keptR_issue | apply keptR_issueWith | exact keptR_fault
                  | apply kept_notify | apply kept_mctp | intro _ | split

theorem kept_execAttestationRequest {s₀ : State} (s : State) (h_s : s₀.Keeps s) :
    KeptR s₀ (execAttestationRequest s) := by
  unfold execAttestationRequest
  with_reducible
    repeat' first | assumption | apply keptR_next | apply keptR_issue | apply keptR_issueWith | exact keptR_fault
                  | apply kept_mctp | intro _ | split

theorem kept_execPcieCompletionFromHost {s₀ : State} (s : State) (h_s : s₀.Keeps s) :
    KeptR s₀ (execPcieCompletionFromHost s) := by
  unfold execPcieCompletionFromHost
  with_reducible
    repeat' first | assumption | apply kept_id | apply keptR_next | apply keptR_issue | apply keptR_issueWith
                   | exact keptR_fault | apply kept_unitCompletion | apply kept_netCompletion | apply kept_hostPiece
                   | intro _ | split | dsimp only

theorem kept_execPand {s₀ : State} (o : OpG) (s : State) (h_s : s₀.Keeps s) :
    KeptR s₀ (execPand o s) := by
  unfold execPand
  with_reducible
    repeat' first | assumption | apply keptR_next | apply keptR_issue | apply keptR_issueWith | exact keptR_fault
                  | apply kept_toP | intro _

theorem kept_execPor {s₀ : State} (o : OpG) (s : State) (h_s : s₀.Keeps s) :
    KeptR s₀ (execPor o s) := by
  unfold execPor
  with_reducible
    repeat' first | assumption | apply keptR_next | apply keptR_issue | apply keptR_issueWith | exact keptR_fault
                  | apply kept_toP | intro _

theorem kept_execPxor {s₀ : State} (o : OpG) (s : State) (h_s : s₀.Keeps s) :
    KeptR s₀ (execPxor o s) := by
  unfold execPxor
  with_reducible
    repeat' first | assumption | apply keptR_next | apply keptR_issue | apply keptR_issueWith | exact keptR_fault
                  | apply kept_toP | intro _

theorem kept_execPandn {s₀ : State} (o : OpG) (s : State) (h_s : s₀.Keeps s) :
    KeptR s₀ (execPandn o s) := by
  unfold execPandn
  with_reducible
    repeat' first | assumption | apply keptR_next | apply keptR_issue | apply keptR_issueWith | exact keptR_fault
                  | apply kept_toP | intro _

theorem kept_execPmov {s₀ : State} (o : OpG) (s : State) (h_s : s₀.Keeps s) :
    KeptR s₀ (execPmov o s) := by
  unfold execPmov
  with_reducible
    repeat' first | assumption | apply keptR_next | apply keptR_issue | apply keptR_issueWith | exact keptR_fault
                  | apply kept_toP | intro _

theorem kept_execPnot {s₀ : State} (o : OpG) (s : State) (h_s : s₀.Keeps s) :
    KeptR s₀ (execPnot o s) := by
  unfold execPnot
  with_reducible
    repeat' first | assumption | apply keptR_next | apply keptR_issue | apply keptR_issueWith | exact keptR_fault
                  | apply kept_toP | intro _

theorem kept_execPsetv {s₀ : State} (o : OpG) (s : State) (h_s : s₀.Keeps s) :
    KeptR s₀ (execPsetv o s) := by
  unfold execPsetv
  with_reducible
    repeat' first | assumption | apply keptR_next | apply keptR_issue | apply keptR_issueWith | exact keptR_fault
                  | apply kept_toP | intro _

theorem kept_execPgetv {s₀ : State} (o : OpG) (s : State) (h_s : s₀.Keeps s) :
    KeptR s₀ (execPgetv o s) := by
  unfold execPgetv
  with_reducible
    repeat' first | assumption | apply keptR_next | apply keptR_issue | apply keptR_issueWith | exact keptR_fault
                  | apply kept_lanewise | intro _

theorem kept_execSadd {s₀ : State} (o : OpG) (s : State) (h_s : s₀.Keeps s) :
    KeptR s₀ (execSadd o s) := by
  unfold execSadd
  with_reducible
    repeat' first | assumption | apply keptR_next | apply keptR_issue | apply keptR_issueWith | exact keptR_fault
                  | apply kept_s3 | intro _

theorem kept_execSsub {s₀ : State} (o : OpG) (s : State) (h_s : s₀.Keeps s) :
    KeptR s₀ (execSsub o s) := by
  unfold execSsub
  with_reducible
    repeat' first | assumption | apply keptR_next | apply keptR_issue | apply keptR_issueWith | exact keptR_fault
                  | apply kept_s3 | intro _

theorem kept_execSmul {s₀ : State} (o : OpG) (s : State) (h_s : s₀.Keeps s) :
    KeptR s₀ (execSmul o s) := by
  unfold execSmul
  with_reducible
    repeat' first | assumption | apply keptR_next | apply keptR_issue | apply keptR_issueWith | exact keptR_fault
                  | apply kept_s3 | intro _

theorem kept_execSand {s₀ : State} (o : OpG) (s : State) (h_s : s₀.Keeps s) :
    KeptR s₀ (execSand o s) := by
  unfold execSand
  with_reducible
    repeat' first | assumption | apply keptR_next | apply keptR_issue | apply keptR_issueWith | exact keptR_fault
                  | apply kept_s3 | intro _

theorem kept_execSor {s₀ : State} (o : OpG) (s : State) (h_s : s₀.Keeps s) :
    KeptR s₀ (execSor o s) := by
  unfold execSor
  with_reducible
    repeat' first | assumption | apply keptR_next | apply keptR_issue | apply keptR_issueWith | exact keptR_fault
                  | apply kept_s3 | intro _

theorem kept_execSxor {s₀ : State} (o : OpG) (s : State) (h_s : s₀.Keeps s) :
    KeptR s₀ (execSxor o s) := by
  unfold execSxor
  with_reducible
    repeat' first | assumption | apply keptR_next | apply keptR_issue | apply keptR_issueWith | exact keptR_fault
                  | apply kept_s3 | intro _

theorem kept_execSshl {s₀ : State} (o : OpG) (s : State) (h_s : s₀.Keeps s) :
    KeptR s₀ (execSshl o s) := by
  unfold execSshl
  with_reducible
    repeat' first | assumption | apply keptR_next | apply keptR_issue | apply keptR_issueWith | exact keptR_fault
                  | apply kept_s3 | intro _

theorem kept_execSshr {s₀ : State} (o : OpG) (s : State) (h_s : s₀.Keeps s) :
    KeptR s₀ (execSshr o s) := by
  unfold execSshr
  with_reducible
    repeat' first | assumption | apply keptR_next | apply keptR_issue | apply keptR_issueWith | exact keptR_fault
                  | apply kept_s3 | intro _

theorem kept_execSaddi {s₀ : State} (o : OpI) (s : State) (h_s : s₀.Keeps s) :
    KeptR s₀ (execSaddi o s) := by
  unfold execSaddi
  with_reducible
    repeat' first | assumption | apply keptR_next | apply keptR_issue | apply keptR_issueWith | exact keptR_fault
                  | apply kept_uniform | intro _

theorem kept_execSmovk {s₀ : State} (o : OpG) (x : XLit) (s : State) (h_s : s₀.Keeps s) :
    KeptR s₀ (execSmovk o x s) := by
  unfold execSmovk
  with_reducible
    repeat' first | assumption | apply keptR_next | apply keptR_issue | apply keptR_issueWith | exact keptR_fault
                  | apply kept_uniform | intro _

theorem kept_execSmovkW {s₀ : State} (o : OpG) (x : XLit) (s : State) (h_s : s₀.Keeps s) :
    KeptR s₀ (execSmovkW o x s) := by
  unfold execSmovkW
  with_reducible
    repeat' first | assumption | apply keptR_next | apply keptR_issue | apply keptR_issueWith | exact keptR_fault
                  | apply kept_uniform | intro _

theorem kept_execScmp {s₀ : State} (o : OpC) (s : State) (h_s : s₀.Keeps s) :
    KeptR s₀ (execScmp o s) := by
  unfold execScmp
  with_reducible
    repeat' first | assumption | apply keptR_next | apply keptR_issue | apply keptR_issueWith | exact keptR_fault
                  | apply kept_toP | intro _

theorem kept_execVbc {s₀ : State} (o : OpG) (s : State) (h_s : s₀.Keeps s) :
    KeptR s₀ (execVbc o s) := by
  unfold execVbc
  with_reducible
    repeat' first | assumption | apply keptR_next | apply keptR_issue | apply keptR_issueWith | exact keptR_fault
                  | apply kept_lanewise | intro _

theorem kept_execSfirst {s₀ : State} (o : OpG) (s : State) (h_s : s₀.Keeps s) :
    KeptR s₀ (execSfirst o s) := by
  unfold execSfirst
  with_reducible
    repeat' first | assumption | apply keptR_next | apply keptR_issue | apply keptR_issueWith | exact keptR_fault
                  | apply kept_advance | apply kept_uniform | intro _ | split

theorem kept_execSlane {s₀ : State} (o : OpG) (s : State) (h_s : s₀.Keeps s) :
    KeptR s₀ (execSlane o s) := by
  unfold execSlane
  with_reducible
    repeat' first | assumption | apply keptR_next | apply keptR_issue | apply keptR_issueWith | exact keptR_fault
                  | apply kept_uniform | intro _

/-- A step of a unit keeps what every meaning keeps. -/
theorem kept_attempt {s₀ : State} (s : State) (i : Instr) (x : Input) (h_exec : ∀ i t, s₀.Keeps t → KeptR s₀ (exec i t))
    (h_s : s₀.Keeps s) : KeptR s₀ (s.attempt i x) := by
  have h := h_exec i { s with input := x, asker := some (i, x), wanted := [] } h_s
  unfold State.attempt
  split
  · next t e =>
    have ht : s₀.Keeps t := h.out _ e
    split
    · exact keptR_next ht
    · refine keptR_next ?_
      unfold State.askUnit
      refine kept_foldl h_s fun u k hu => ?_
      split
      · exact hu
      · exact hu
  · exact h

/-- What time makes due keeps what every meaning keeps. -/
theorem kept_timedDue {s₀ : State} (s : State) (h_exec : ∀ i t, s₀.Keeps t → KeptR s₀ (exec i t)) (h_s : s₀.Keeps s) :
    s₀.Keeps s.timedDue := by
  have h : s₀.Keeps (s.timed.foldl (fun s e => s.happen e.1 e.2) s) := by
    refine kept_foldl h_s fun t e ht => ?_
    unfold State.happen
    split
    · exact (kept_attempt t e.1 e.2 h_exec ht).out _ ‹_›
    · exact ht
  unfold State.timedDue
  exact h

end Sys2Proof.Machine
end

