-- ==== Sys2Proof/Laws/PerInstr.lean ====
section
/-! SUPPORT. Family Parses: the words that the encoder writes for an instruction parse as that instruction, with its guard, and
there are as many as its major has. One lemma for each constructor. -/

namespace Sys2Proof.Laws.Parses

/-- The words of an instruction parse as it. -/
def Statement (i : Instr) : Prop :=
  ∀ g : Guard, match encode g i with
    | [] => True
    | w :: ws => i.formOk = true →
      parse w (ws.headD 0) = .ok i ∧ guardOf w = g ∧ ws.length = if isX (majorOf w) then 1 else 0

theorem of {i : Instr} {g : Guard} {M : Nat} {w : Word} {ws : List Word} (hw : encode g i = w :: ws) (h : Heads w g M)
    (hp : i.formOk = true → parse w (ws.headD 0) = .ok i) (hl : ws.length = if isX M then 1 else 0) :
    match encode g i with
    | [] => True
    | w :: ws => i.formOk = true →
      parse w (ws.headD 0) = .ok i ∧ guardOf w = g ∧ ws.length = if isX (majorOf w) then 1 else 0 := by
  rw [hw]; exact fun hf => ⟨hp hf, h.guard, by rw [h.major]; exact hl⟩

theorem iadd (o : OpR) : Statement (.iadd o) := by
  intro g
  obtain ⟨hh, h1, h2⟩ := packR_spec g 1 0 o (by decide) (by decide)
  refine of (i := .iadd o) (w := packR g 1 0 o) (ws := []) rfl hh (fun hf => ?_) rfl
  show parse (packR g 1 0 o) 0 = _
  unfold parse parseAlu
  rw [hh.major, h1, h2]
  rfl

theorem isub (o : OpR) : Statement (.isub o) := by
  intro g
  obtain ⟨hh, h1, h2⟩ := packR_spec g 1 1 o (by decide) (by decide)
  refine of (i := .isub o) (w := packR g 1 1 o) (ws := []) rfl hh (fun hf => ?_) rfl
  show parse (packR g 1 1 o) 0 = _
  unfold parse parseAlu
  rw [hh.major, h1, h2]
  rfl

theorem imul (o : OpR) : Statement (.imul o) := by
  intro g
  obtain ⟨hh, h1, h2⟩ := packR_spec g 2 0 o (by decide) (by decide)
  refine of (i := .imul o) (w := packR g 2 0 o) (ws := []) rfl hh (fun hf => ?_) rfl
  show parse (packR g 2 0 o) 0 = _
  unfold parse parseAlu
  rw [hh.major, h1, h2]
  rfl

theorem imad (o : OpR) : Statement (.imad o) := by
  intro g
  obtain ⟨hh, h1, h2⟩ := packR_spec g 2 1 o (by decide) (by decide)
  refine of (i := .imad o) (w := packR g 2 1 o) (ws := []) rfl hh (fun hf => ?_) rfl
  show parse (packR g 2 1 o) 0 = _
  unfold parse parseAlu
  rw [hh.major, h1, h2]
  rfl

theorem imulhI32 (o : OpG) : Statement (.imulhI32 o) := by
  intro g
  obtain ⟨hh, h1, h2⟩ := packG_spec g 3 0 o (by decide) (by decide)
  refine of (i := .imulhI32 o) (w := packG g 3 0 o) (ws := []) rfl hh (fun hf => ?_) rfl
  show parse (packG g 3 0 o) 0 = _
  unfold parse parseAlu
  rw [hh.major, h1, h2]
  rfl

theorem imulhN32 (o : OpG) : Statement (.imulhN32 o) := by
  intro g
  obtain ⟨hh, h1, h2⟩ := packG_spec g 3 1 o (by decide) (by decide)
  refine of (i := .imulhN32 o) (w := packG g 3 1 o) (ws := []) rfl hh (fun hf => ?_) rfl
  show parse (packG g 3 1 o) 0 = _
  unfold parse parseAlu
  rw [hh.major, h1, h2]
  rfl

theorem imulwI32 (o : OpG) : Statement (.imulwI32 o) := by
  intro g
  obtain ⟨hh, h1, h2⟩ := packG_spec g 3 2 o (by decide) (by decide)
  refine of (i := .imulwI32 o) (w := packG g 3 2 o) (ws := []) rfl hh (fun hf => ?_) rfl
  show parse (packG g 3 2 o) 0 = _
  unfold parse parseAlu
  rw [hh.major, h1, h2]
  rfl

theorem imulwN32 (o : OpG) : Statement (.imulwN32 o) := by
  intro g
  obtain ⟨hh, h1, h2⟩ := packG_spec g 3 3 o (by decide) (by decide)
  refine of (i := .imulwN32 o) (w := packG g 3 3 o) (ws := []) rfl hh (fun hf => ?_) rfl
  show parse (packG g 3 3 o) 0 = _
  unfold parse parseAlu
  rw [hh.major, h1, h2]
  rfl

theorem andV (o : OpG) : Statement (.andV o) := by
  intro g
  obtain ⟨hh, h1, h2⟩ := packG_spec g 4 0 o (by decide) (by decide)
  refine of (i := .andV o) (w := packG g 4 0 o) (ws := []) rfl hh (fun hf => ?_) rfl
  show parse (packG g 4 0 o) 0 = _
  unfold parse parseAlu
  rw [hh.major, h1, h2]
  rfl

theorem orV (o : OpG) : Statement (.orV o) := by
  intro g
  obtain ⟨hh, h1, h2⟩ := packG_spec g 4 1 o (by decide) (by decide)
  refine of (i := .orV o) (w := packG g 4 1 o) (ws := []) rfl hh (fun hf => ?_) rfl
  show parse (packG g 4 1 o) 0 = _
  unfold parse parseAlu
  rw [hh.major, h1, h2]
  rfl

theorem xorV (o : OpG) : Statement (.xorV o) := by
  intro g
  obtain ⟨hh, h1, h2⟩ := packG_spec g 4 2 o (by decide) (by decide)
  refine of (i := .xorV o) (w := packG g 4 2 o) (ws := []) rfl hh (fun hf => ?_) rfl
  show parse (packG g 4 2 o) 0 = _
  unfold parse parseAlu
  rw [hh.major, h1, h2]
  rfl

theorem andn (o : OpG) : Statement (.andn o) := by
  intro g
  obtain ⟨hh, h1, h2⟩ := packG_spec g 4 3 o (by decide) (by decide)
  refine of (i := .andn o) (w := packG g 4 3 o) (ws := []) rfl hh (fun hf => ?_) rfl
  show parse (packG g 4 3 o) 0 = _
  unfold parse parseAlu
  rw [hh.major, h1, h2]
  rfl

theorem orn (o : OpG) : Statement (.orn o) := by
  intro g
  obtain ⟨hh, h1, h2⟩ := packG_spec g 4 4 o (by decide) (by decide)
  refine of (i := .orn o) (w := packG g 4 4 o) (ws := []) rfl hh (fun hf => ?_) rfl
  show parse (packG g 4 4 o) 0 = _
  unfold parse parseAlu
  rw [hh.major, h1, h2]
  rfl

theorem xnor (o : OpG) : Statement (.xnor o) := by
  intro g
  obtain ⟨hh, h1, h2⟩ := packG_spec g 4 5 o (by decide) (by decide)
  refine of (i := .xnor o) (w := packG g 4 5 o) (ws := []) rfl hh (fun hf => ?_) rfl
  show parse (packG g 4 5 o) 0 = _
  unfold parse parseAlu
  rw [hh.major, h1, h2]
  rfl

theorem shl (o : OpG) : Statement (.shl o) := by
  intro g
  obtain ⟨hh, h1, h2⟩ := packG_spec g 5 0 o (by decide) (by decide)
  refine of (i := .shl o) (w := packG g 5 0 o) (ws := []) rfl hh (fun hf => ?_) rfl
  show parse (packG g 5 0 o) 0 = _
  unfold parse parseAlu
  rw [hh.major, h1, h2]
  rfl

theorem shr (o : OpG) : Statement (.shr o) := by
  intro g
  obtain ⟨hh, h1, h2⟩ := packG_spec g 5 1 o (by decide) (by decide)
  refine of (i := .shr o) (w := packG g 5 1 o) (ws := []) rfl hh (fun hf => ?_) rfl
  show parse (packG g 5 1 o) 0 = _
  unfold parse parseAlu
  rw [hh.major, h1, h2]
  rfl

theorem sar (o : OpG) : Statement (.sar o) := by
  intro g
  obtain ⟨hh, h1, h2⟩ := packG_spec g 5 2 o (by decide) (by decide)
  refine of (i := .sar o) (w := packG g 5 2 o) (ws := []) rfl hh (fun hf => ?_) rfl
  show parse (packG g 5 2 o) 0 = _
  unfold parse parseAlu
  rw [hh.major, h1, h2]
  rfl

theorem rol (o : OpG) : Statement (.rol o) := by
  intro g
  obtain ⟨hh, h1, h2⟩ := packG_spec g 5 3 o (by decide) (by decide)
  refine of (i := .rol o) (w := packG g 5 3 o) (ws := []) rfl hh (fun hf => ?_) rfl
  show parse (packG g 5 3 o) 0 = _
  unfold parse parseAlu
  rw [hh.major, h1, h2]
  rfl

theorem ror (o : OpG) : Statement (.ror o) := by
  intro g
  obtain ⟨hh, h1, h2⟩ := packG_spec g 5 4 o (by decide) (by decide)
  refine of (i := .ror o) (w := packG g 5 4 o) (ws := []) rfl hh (fun hf => ?_) rfl
  show parse (packG g 5 4 o) 0 = _
  unfold parse parseAlu
  rw [hh.major, h1, h2]
  rfl

theorem shl64 (o : OpG) : Statement (.shl64 o) := by
  intro g
  obtain ⟨hh, h1, h2⟩ := packG_spec g 5 5 o (by decide) (by decide)
  refine of (i := .shl64 o) (w := packG g 5 5 o) (ws := []) rfl hh (fun hf => ?_) rfl
  show parse (packG g 5 5 o) 0 = _
  unfold parse parseAlu
  rw [hh.major, h1, h2]
  rfl

theorem shr64 (o : OpG) : Statement (.shr64 o) := by
  intro g
  obtain ⟨hh, h1, h2⟩ := packG_spec g 5 6 o (by decide) (by decide)
  refine of (i := .shr64 o) (w := packG g 5 6 o) (ws := []) rfl hh (fun hf => ?_) rfl
  show parse (packG g 5 6 o) 0 = _
  unfold parse parseAlu
  rw [hh.major, h1, h2]
  rfl

theorem sar64 (o : OpG) : Statement (.sar64 o) := by
  intro g
  obtain ⟨hh, h1, h2⟩ := packG_spec g 5 7 o (by decide) (by decide)
  refine of (i := .sar64 o) (w := packG g 5 7 o) (ws := []) rfl hh (fun hf => ?_) rfl
  show parse (packG g 5 7 o) 0 = _
  unfold parse parseAlu
  rw [hh.major, h1, h2]
  rfl

theorem iminI32 (o : OpG) : Statement (.iminI32 o) := by
  intro g
  obtain ⟨hh, h1, h2⟩ := packG_spec g 6 0 o (by decide) (by decide)
  refine of (i := .iminI32 o) (w := packG g 6 0 o) (ws := []) rfl hh (fun hf => ?_) rfl
  show parse (packG g 6 0 o) 0 = _
  unfold parse parseAlu
  rw [hh.major, h1, h2]
  rfl

theorem imaxI32 (o : OpG) : Statement (.imaxI32 o) := by
  intro g
  obtain ⟨hh, h1, h2⟩ := packG_spec g 6 1 o (by decide) (by decide)
  refine of (i := .imaxI32 o) (w := packG g 6 1 o) (ws := []) rfl hh (fun hf => ?_) rfl
  show parse (packG g 6 1 o) 0 = _
  unfold parse parseAlu
  rw [hh.major, h1, h2]
  rfl

theorem iminN32 (o : OpG) : Statement (.iminN32 o) := by
  intro g
  obtain ⟨hh, h1, h2⟩ := packG_spec g 6 2 o (by decide) (by decide)
  refine of (i := .iminN32 o) (w := packG g 6 2 o) (ws := []) rfl hh (fun hf => ?_) rfl
  show parse (packG g 6 2 o) 0 = _
  unfold parse parseAlu
  rw [hh.major, h1, h2]
  rfl

theorem imaxN32 (o : OpG) : Statement (.imaxN32 o) := by
  intro g
  obtain ⟨hh, h1, h2⟩ := packG_spec g 6 3 o (by decide) (by decide)
  refine of (i := .imaxN32 o) (w := packG g 6 3 o) (ws := []) rfl hh (fun hf => ?_) rfl
  show parse (packG g 6 3 o) 0 = _
  unfold parse parseAlu
  rw [hh.major, h1, h2]
  rfl

theorem iabs (o : OpG) : Statement (.iabs o) := by
  intro g
  obtain ⟨hh, h1, h2⟩ := packG_spec g 6 4 o (by decide) (by decide)
  refine of (i := .iabs o) (w := packG g 6 4 o) (ws := []) rfl hh (fun hf => ?_) rfl
  show parse (packG g 6 4 o) 0 = _
  unfold parse parseAlu
  rw [hh.major, h1, h2]
  rfl

theorem ineg (o : OpG) : Statement (.ineg o) := by
  intro g
  obtain ⟨hh, h1, h2⟩ := packG_spec g 6 5 o (by decide) (by decide)
  refine of (i := .ineg o) (w := packG g 6 5 o) (ws := []) rfl hh (fun hf => ?_) rfl
  show parse (packG g 6 5 o) 0 = _
  unfold parse parseAlu
  rw [hh.major, h1, h2]
  rfl

theorem iaddsI32 (o : OpG) : Statement (.iaddsI32 o) := by
  intro g
  obtain ⟨hh, h1, h2⟩ := packG_spec g 6 6 o (by decide) (by decide)
  refine of (i := .iaddsI32 o) (w := packG g 6 6 o) (ws := []) rfl hh (fun hf => ?_) rfl
  show parse (packG g 6 6 o) 0 = _
  unfold parse parseAlu
  rw [hh.major, h1, h2]
  rfl

theorem iaddsN32 (o : OpG) : Statement (.iaddsN32 o) := by
  intro g
  obtain ⟨hh, h1, h2⟩ := packG_spec g 6 7 o (by decide) (by decide)
  refine of (i := .iaddsN32 o) (w := packG g 6 7 o) (ws := []) rfl hh (fun hf => ?_) rfl
  show parse (packG g 6 7 o) 0 = _
  unfold parse parseAlu
  rw [hh.major, h1, h2]
  rfl

theorem popc (o : OpU) : Statement (.popc o) := by
  intro g
  obtain ⟨hh, h1, h2, h3⟩ := packU_spec g 7 0 o (by decide) (by decide)
  refine of (i := .popc o) (w := packU g 7 0 o) (ws := []) rfl hh (fun hf => ?_) rfl
  show parse (packU g 7 0 o) 0 = _
  unfold parse parseAlu
  rw [hh.major, h1, h3]
  exact if_pos h2

theorem clz (o : OpU) : Statement (.clz o) := by
  intro g
  obtain ⟨hh, h1, h2, h3⟩ := packU_spec g 7 1 o (by decide) (by decide)
  refine of (i := .clz o) (w := packU g 7 1 o) (ws := []) rfl hh (fun hf => ?_) rfl
  show parse (packU g 7 1 o) 0 = _
  unfold parse parseAlu
  rw [hh.major, h1, h3]
  exact if_pos h2

theorem ctz (o : OpU) : Statement (.ctz o) := by
  intro g
  obtain ⟨hh, h1, h2, h3⟩ := packU_spec g 7 2 o (by decide) (by decide)
  refine of (i := .ctz o) (w := packU g 7 2 o) (ws := []) rfl hh (fun hf => ?_) rfl
  show parse (packU g 7 2 o) 0 = _
  unfold parse parseAlu
  rw [hh.major, h1, h3]
  exact if_pos h2

theorem brev (o : OpU) : Statement (.brev o) := by
  intro g
  obtain ⟨hh, h1, h2, h3⟩ := packU_spec g 7 3 o (by decide) (by decide)
  refine of (i := .brev o) (w := packU g 7 3 o) (ws := []) rfl hh (fun hf => ?_) rfl
  show parse (packU g 7 3 o) 0 = _
  unfold parse parseAlu
  rw [hh.major, h1, h3]
  exact if_pos h2

theorem bswap (o : OpU) : Statement (.bswap o) := by
  intro g
  obtain ⟨hh, h1, h2, h3⟩ := packU_spec g 7 4 o (by decide) (by decide)
  refine of (i := .bswap o) (w := packU g 7 4 o) (ws := []) rfl hh (fun hf => ?_) rfl
  show parse (packU g 7 4 o) 0 = _
  unfold parse parseAlu
  rw [hh.major, h1, h3]
  exact if_pos h2

theorem notV (o : OpU) : Statement (.notV o) := by
  intro g
  obtain ⟨hh, h1, h2, h3⟩ := packU_spec g 7 5 o (by decide) (by decide)
  refine of (i := .notV o) (w := packU g 7 5 o) (ws := []) rfl hh (fun hf => ?_) rfl
  show parse (packU g 7 5 o) 0 = _
  unfold parse parseAlu
  rw [hh.major, h1, h3]
  exact if_pos h2

theorem bfeI32 (o : OpG) (x : XBf) : Statement (.bfeI32 o x) := by
  intro g
  obtain ⟨hh, h1, h2⟩ := packG_spec g 8 0 o (by decide) (by decide)
  refine of (i := .bfeI32 o x) (w := packG g 8 0 o) (ws := [x.pack]) rfl hh (fun hf => ?_) rfl
  show parse (packG g 8 0 o) x.pack = _
  unfold parse parseAlu
  rw [hh.major, h1, h2, getXBf_pack]
  rfl

theorem bfeN32 (o : OpG) (x : XBf) : Statement (.bfeN32 o x) := by
  intro g
  obtain ⟨hh, h1, h2⟩ := packG_spec g 8 1 o (by decide) (by decide)
  refine of (i := .bfeN32 o x) (w := packG g 8 1 o) (ws := [x.pack]) rfl hh (fun hf => ?_) rfl
  show parse (packG g 8 1 o) x.pack = _
  unfold parse parseAlu
  rw [hh.major, h1, h2, getXBf_pack]
  rfl

theorem bfi (o : OpG) (x : XBf) : Statement (.bfi o x) := by
  intro g
  obtain ⟨hh, h1, h2⟩ := packG_spec g 8 2 o (by decide) (by decide)
  refine of (i := .bfi o x) (w := packG g 8 2 o) (ws := [x.pack]) rfl hh (fun hf => ?_) rfl
  show parse (packG g 8 2 o) x.pack = _
  unfold parse parseAlu
  rw [hh.major, h1, h2, getXBf_pack]
  rfl

theorem iaddi (o : OpI) : Statement (.iaddi o) := by
  intro g
  obtain ⟨hh, h1, h2⟩ := packI_spec g 9 o (by decide)
  refine of (i := .iaddi o) (w := packI g 9 o) (ws := []) rfl hh (fun hf => ?_) rfl
  show parse (packI g 9 o) 0 = _
  unfold parse parseAlu
  rw [hh.major, h1]
  rfl

theorem mov (o : OpU) : Statement (.mov o) := by
  intro g
  obtain ⟨hh, h1, h2, h3⟩ := packU_spec g 10 0 o (by decide) (by decide)
  refine of (i := .mov o) (w := packU g 10 0 o) (ws := []) rfl hh (fun hf => ?_) rfl
  show parse (packU g 10 0 o) 0 = _
  unfold parse parseAlu
  rw [hh.major, h1, h3]
  exact if_pos h2

theorem movk (o : OpG) (x : XLit) : Statement (.movk o x) := by
  intro g
  obtain ⟨hh, h1, h2⟩ := packG_spec g 11 0 o (by decide) (by decide)
  refine of (i := .movk o x) (w := packG g 11 0 o) (ws := [x.pack]) rfl hh (fun hf => ?_) rfl
  show parse (packG g 11 0 o) x.pack = _
  unfold parse parseAlu
  rw [hh.major, h1, h2, getXLit_pack]
  rfl

theorem movkW (o : OpG) (x : XLit) : Statement (.movkW o x) := by
  intro g
  obtain ⟨hh, h1, h2⟩ := packG_spec g 11 1 o (by decide) (by decide)
  refine of (i := .movkW o x) (w := packG g 11 1 o) (ws := [x.pack]) rfl hh (fun hf => ?_) rfl
  show parse (packG g 11 1 o) x.pack = _
  unfold parse parseAlu
  rw [hh.major, h1, h2, getXLit_pack]
  rfl

theorem icmpI32 (o : OpC) : Statement (.icmpI32 o) := by
  intro g
  obtain ⟨hh, h1⟩ := packC_spec g 12 o (by decide)
  refine of (i := .icmpI32 o) (w := packC g 12 o) (ws := []) rfl hh (fun hf => ?_) rfl
  show parse (packC g 12 o) 0 = _
  unfold parse parseAlu
  rw [hh.major, h1]
  rfl

theorem icmpN32 (o : OpC) : Statement (.icmpN32 o) := by
  intro g
  obtain ⟨hh, h1⟩ := packC_spec g 13 o (by decide)
  refine of (i := .icmpN32 o) (w := packC g 13 o) (ws := []) rfl hh (fun hf => ?_) rfl
  show parse (packC g 13 o) 0 = _
  unfold parse parseAlu
  rw [hh.major, h1]
  rfl

theorem iadd64 (o : OpR) : Statement (.iadd64 o) := by
  intro g
  obtain ⟨hh, h1, h2⟩ := packR_spec g 14 0 o (by decide) (by decide)
  refine of (i := .iadd64 o) (w := packR g 14 0 o) (ws := []) rfl hh (fun hf => ?_) rfl
  show parse (packR g 14 0 o) 0 = _
  unfold parse parseAlu
  rw [hh.major, h1, h2]
  rfl

theorem isub64 (o : OpR) : Statement (.isub64 o) := by
  intro g
  obtain ⟨hh, h1, h2⟩ := packR_spec g 14 1 o (by decide) (by decide)
  refine of (i := .isub64 o) (w := packR g 14 1 o) (ws := []) rfl hh (fun hf => ?_) rfl
  show parse (packR g 14 1 o) 0 = _
  unfold parse parseAlu
  rw [hh.major, h1, h2]
  rfl

theorem sel (o : OpG) (x : XSel) : Statement (.sel o x) := by
  intro g
  obtain ⟨hh, h1, h2⟩ := packG_spec g 15 0 o (by decide) (by decide)
  refine of (i := .sel o x) (w := packG g 15 0 o) (ws := [x.pack]) rfl hh (fun hf => ?_) rfl
  show parse (packG g 15 0 o) x.pack = _
  unfold parse parseAlu
  rw [hh.major, h1, h2, getXSel_pack]
  rfl

theorem lea (o : OpG) (sh : BitVec 3) : Statement (.lea o sh) := by
  intro g
  obtain ⟨hh, h1, h2⟩ := packG_spec g 16 sh.toNat o (by decide) (by have := sh.isLt; omega)
  refine of (i := .lea o sh) (w := packG g 16 sh.toNat o) (ws := []) rfl hh (fun hf => ?_) rfl
  show parse (packG g 16 sh.toNat o) 0 = _
  have hx : fld (packG g 16 sh.toNat o) 0 3 = sh := by
    refine fld_eq _ _ _ ?_
    have := sh.isLt
    have h := h1
    unfold fnOf at h
    omega
  unfold parse parseAlu
  rw [hh.major, h2, hx]
  rfl

theorem pand (o : OpG) : Statement (.pand o) := by
  intro g
  obtain ⟨hh, h1, h2⟩ := packG_spec g 17 0 o (by decide) (by decide)
  refine of (i := .pand o) (w := packG g 17 0 o) (ws := []) rfl hh (fun hf => ?_) rfl
  show parse (packG g 17 0 o) 0 = _
  unfold parse parseAlu
  rw [hh.major, h1, h2]
  rfl

theorem por (o : OpG) : Statement (.por o) := by
  intro g
  obtain ⟨hh, h1, h2⟩ := packG_spec g 17 1 o (by decide) (by decide)
  refine of (i := .por o) (w := packG g 17 1 o) (ws := []) rfl hh (fun hf => ?_) rfl
  show parse (packG g 17 1 o) 0 = _
  unfold parse parseAlu
  rw [hh.major, h1, h2]
  rfl

theorem pxor (o : OpG) : Statement (.pxor o) := by
  intro g
  obtain ⟨hh, h1, h2⟩ := packG_spec g 17 2 o (by decide) (by decide)
  refine of (i := .pxor o) (w := packG g 17 2 o) (ws := []) rfl hh (fun hf => ?_) rfl
  show parse (packG g 17 2 o) 0 = _
  unfold parse parseAlu
  rw [hh.major, h1, h2]
  rfl

theorem pandn (o : OpG) : Statement (.pandn o) := by
  intro g
  obtain ⟨hh, h1, h2⟩ := packG_spec g 17 3 o (by decide) (by decide)
  refine of (i := .pandn o) (w := packG g 17 3 o) (ws := []) rfl hh (fun hf => ?_) rfl
  show parse (packG g 17 3 o) 0 = _
  unfold parse parseAlu
  rw [hh.major, h1, h2]
  rfl

theorem pmov (o : OpG) : Statement (.pmov o) := by
  intro g
  obtain ⟨hh, h1, h2⟩ := packG_spec g 17 4 o (by decide) (by decide)
  refine of (i := .pmov o) (w := packG g 17 4 o) (ws := []) rfl hh (fun hf => ?_) rfl
  show parse (packG g 17 4 o) 0 = _
  unfold parse parseAlu
  rw [hh.major, h1, h2]
  rfl

theorem pnot (o : OpG) : Statement (.pnot o) := by
  intro g
  obtain ⟨hh, h1, h2⟩ := packG_spec g 17 5 o (by decide) (by decide)
  refine of (i := .pnot o) (w := packG g 17 5 o) (ws := []) rfl hh (fun hf => ?_) rfl
  show parse (packG g 17 5 o) 0 = _
  unfold parse parseAlu
  rw [hh.major, h1, h2]
  rfl

theorem psetv (o : OpG) : Statement (.psetv o) := by
  intro g
  obtain ⟨hh, h1, h2⟩ := packG_spec g 17 6 o (by decide) (by decide)
  refine of (i := .psetv o) (w := packG g 17 6 o) (ws := []) rfl hh (fun hf => ?_) rfl
  show parse (packG g 17 6 o) 0 = _
  unfold parse parseAlu
  rw [hh.major, h1, h2]
  rfl

theorem pgetv (o : OpG) : Statement (.pgetv o) := by
  intro g
  obtain ⟨hh, h1, h2⟩ := packG_spec g 17 7 o (by decide) (by decide)
  refine of (i := .pgetv o) (w := packG g 17 7 o) (ws := []) rfl hh (fun hf => ?_) rfl
  show parse (packG g 17 7 o) 0 = _
  unfold parse parseAlu
  rw [hh.major, h1, h2]
  rfl

theorem voteAny (o : OpG) : Statement (.voteAny o) := by
  intro g
  obtain ⟨hh, h1, h2⟩ := packG_spec g 18 0 o (by decide) (by decide)
  refine of (i := .voteAny o) (w := packG g 18 0 o) (ws := []) rfl hh (fun hf => ?_) rfl
  show parse (packG g 18 0 o) 0 = _
  unfold parse parseAlu
  rw [hh.major, h1, h2]
  rfl

theorem voteAll (o : OpG) : Statement (.voteAll o) := by
  intro g
  obtain ⟨hh, h1, h2⟩ := packG_spec g 18 1 o (by decide) (by decide)
  refine of (i := .voteAll o) (w := packG g 18 1 o) (ws := []) rfl hh (fun hf => ?_) rfl
  show parse (packG g 18 1 o) 0 = _
  unfold parse parseAlu
  rw [hh.major, h1, h2]
  rfl

theorem voteBallot (o : OpG) : Statement (.voteBallot o) := by
  intro g
  obtain ⟨hh, h1, h2⟩ := packG_spec g 18 2 o (by decide) (by decide)
  refine of (i := .voteBallot o) (w := packG g 18 2 o) (ws := []) rfl hh (fun hf => ?_) rfl
  show parse (packG g 18 2 o) 0 = _
  unfold parse parseAlu
  rw [hh.major, h1, h2]
  rfl

theorem voteCount (o : OpG) : Statement (.voteCount o) := by
  intro g
  obtain ⟨hh, h1, h2⟩ := packG_spec g 18 3 o (by decide) (by decide)
  refine of (i := .voteCount o) (w := packG g 18 3 o) (ws := []) rfl hh (fun hf => ?_) rfl
  show parse (packG g 18 3 o) 0 = _
  unfold parse parseAlu
  rw [hh.major, h1, h2]
  rfl

theorem cableAt (o : OpG) : Statement (.cableAt o) := by
  intro g
  obtain ⟨hh, h1, h2⟩ := packG_spec g 19 0 o (by decide) (by decide)
  refine of (i := .cableAt o) (w := packG g 19 0 o) (ws := []) rfl hh (fun hf => ?_) rfl
  show parse (packG g 19 0 o) 0 = _
  unfold parse parseAlu
  rw [hh.major, h1, h2]
  rfl

theorem cableBack (o : OpG) : Statement (.cableBack o) := by
  intro g
  obtain ⟨hh, h1, h2⟩ := packG_spec g 19 1 o (by decide) (by decide)
  refine of (i := .cableBack o) (w := packG g 19 1 o) (ws := []) rfl hh (fun hf => ?_) rfl
  show parse (packG g 19 1 o) 0 = _
  unfold parse parseAlu
  rw [hh.major, h1, h2]
  rfl

theorem cableFwd (o : OpG) : Statement (.cableFwd o) := by
  intro g
  obtain ⟨hh, h1, h2⟩ := packG_spec g 19 2 o (by decide) (by decide)
  refine of (i := .cableFwd o) (w := packG g 19 2 o) (ws := []) rfl hh (fun hf => ?_) rfl
  show parse (packG g 19 2 o) 0 = _
  unfold parse parseAlu
  rw [hh.major, h1, h2]
  rfl

theorem cableFlip (o : OpG) : Statement (.cableFlip o) := by
  intro g
  obtain ⟨hh, h1, h2⟩ := packG_spec g 19 3 o (by decide) (by decide)
  refine of (i := .cableFlip o) (w := packG g 19 3 o) (ws := []) rfl hh (fun hf => ?_) rfl
  show parse (packG g 19 3 o) 0 = _
  unfold parse parseAlu
  rw [hh.major, h1, h2]
  rfl

theorem qswph (o : OpU) : Statement (.qswph o) := by
  intro g
  obtain ⟨hh, h1, h2, h3⟩ := packU_spec g 20 0 o (by decide) (by decide)
  refine of (i := .qswph o) (w := packU g 20 0 o) (ws := []) rfl hh (fun hf => ?_) rfl
  show parse (packU g 20 0 o) 0 = _
  unfold parse parseAlu
  rw [hh.major, h1, h3]
  exact if_pos h2

theorem qswpv (o : OpU) : Statement (.qswpv o) := by
  intro g
  obtain ⟨hh, h1, h2, h3⟩ := packU_spec g 20 1 o (by decide) (by decide)
  refine of (i := .qswpv o) (w := packU g 20 1 o) (ws := []) rfl hh (fun hf => ?_) rfl
  show parse (packU g 20 1 o) 0 = _
  unfold parse parseAlu
  rw [hh.major, h1, h3]
  exact if_pos h2

theorem qswpd (o : OpU) : Statement (.qswpd o) := by
  intro g
  obtain ⟨hh, h1, h2, h3⟩ := packU_spec g 20 2 o (by decide) (by decide)
  refine of (i := .qswpd o) (w := packU g 20 2 o) (ws := []) rfl hh (fun hf => ?_) rfl
  show parse (packU g 20 2 o) 0 = _
  unfold parse parseAlu
  rw [hh.major, h1, h3]
  exact if_pos h2

theorem qbc0 (o : OpU) : Statement (.qbc0 o) := by
  intro g
  obtain ⟨hh, h1, h2, h3⟩ := packU_spec g 20 3 o (by decide) (by decide)
  refine of (i := .qbc0 o) (w := packU g 20 3 o) (ws := []) rfl hh (fun hf => ?_) rfl
  show parse (packU g 20 3 o) 0 = _
  unfold parse parseAlu
  rw [hh.major, h1, h3]
  exact if_pos h2

theorem qbc1 (o : OpU) : Statement (.qbc1 o) := by
  intro g
  obtain ⟨hh, h1, h2, h3⟩ := packU_spec g 20 4 o (by decide) (by decide)
  refine of (i := .qbc1 o) (w := packU g 20 4 o) (ws := []) rfl hh (fun hf => ?_) rfl
  show parse (packU g 20 4 o) 0 = _
  unfold parse parseAlu
  rw [hh.major, h1, h3]
  exact if_pos h2

theorem qbc2 (o : OpU) : Statement (.qbc2 o) := by
  intro g
  obtain ⟨hh, h1, h2, h3⟩ := packU_spec g 20 5 o (by decide) (by decide)
  refine of (i := .qbc2 o) (w := packU g 20 5 o) (ws := []) rfl hh (fun hf => ?_) rfl
  show parse (packU g 20 5 o) 0 = _
  unfold parse parseAlu
  rw [hh.major, h1, h3]
  exact if_pos h2

theorem qbc3 (o : OpU) : Statement (.qbc3 o) := by
  intro g
  obtain ⟨hh, h1, h2, h3⟩ := packU_spec g 20 6 o (by decide) (by decide)
  refine of (i := .qbc3 o) (w := packU g 20 6 o) (ws := []) rfl hh (fun hf => ?_) rfl
  show parse (packU g 20 6 o) 0 = _
  unfold parse parseAlu
  rw [hh.major, h1, h3]
  exact if_pos h2

theorem foldAddI32 (o : OpG) : Statement (.foldAddI32 o) := by
  intro g
  obtain ⟨hh, h1, h2⟩ := packG_spec g 21 0 o (by decide) (by decide)
  refine of (i := .foldAddI32 o) (w := packG g 21 0 o) (ws := []) rfl hh (fun hf => ?_) rfl
  show parse (packG g 21 0 o) 0 = _
  unfold parse parseAlu
  rw [hh.major, h1, h2]
  rfl

theorem foldMinI32 (o : OpG) : Statement (.foldMinI32 o) := by
  intro g
  obtain ⟨hh, h1, h2⟩ := packG_spec g 21 1 o (by decide) (by decide)
  refine of (i := .foldMinI32 o) (w := packG g 21 1 o) (ws := []) rfl hh (fun hf => ?_) rfl
  show parse (packG g 21 1 o) 0 = _
  unfold parse parseAlu
  rw [hh.major, h1, h2]
  rfl

theorem foldMaxI32 (o : OpG) : Statement (.foldMaxI32 o) := by
  intro g
  obtain ⟨hh, h1, h2⟩ := packG_spec g 21 2 o (by decide) (by decide)
  refine of (i := .foldMaxI32 o) (w := packG g 21 2 o) (ws := []) rfl hh (fun hf => ?_) rfl
  show parse (packG g 21 2 o) 0 = _
  unfold parse parseAlu
  rw [hh.major, h1, h2]
  rfl

theorem foldAnd (o : OpG) : Statement (.foldAnd o) := by
  intro g
  obtain ⟨hh, h1, h2⟩ := packG_spec g 21 3 o (by decide) (by decide)
  refine of (i := .foldAnd o) (w := packG g 21 3 o) (ws := []) rfl hh (fun hf => ?_) rfl
  show parse (packG g 21 3 o) 0 = _
  unfold parse parseAlu
  rw [hh.major, h1, h2]
  rfl

theorem foldOr (o : OpG) : Statement (.foldOr o) := by
  intro g
  obtain ⟨hh, h1, h2⟩ := packG_spec g 21 4 o (by decide) (by decide)
  refine of (i := .foldOr o) (w := packG g 21 4 o) (ws := []) rfl hh (fun hf => ?_) rfl
  show parse (packG g 21 4 o) 0 = _
  unfold parse parseAlu
  rw [hh.major, h1, h2]
  rfl

theorem foldXor (o : OpG) : Statement (.foldXor o) := by
  intro g
  obtain ⟨hh, h1, h2⟩ := packG_spec g 21 5 o (by decide) (by decide)
  refine of (i := .foldXor o) (w := packG g 21 5 o) (ws := []) rfl hh (fun hf => ?_) rfl
  show parse (packG g 21 5 o) 0 = _
  unfold parse parseAlu
  rw [hh.major, h1, h2]
  rfl

theorem foldFadd (o : OpG) : Statement (.foldFadd o) := by
  intro g
  obtain ⟨hh, h1, h2⟩ := packG_spec g 21 6 o (by decide) (by decide)
  refine of (i := .foldFadd o) (w := packG g 21 6 o) (ws := []) rfl hh (fun hf => ?_) rfl
  show parse (packG g 21 6 o) 0 = _
  unfold parse parseAlu
  rw [hh.major, h1, h2]
  rfl

theorem nzs (o : OpG) : Statement (.nzs o) := by
  intro g
  obtain ⟨hh, h1, h2⟩ := packG_spec g 22 0 o (by decide) (by decide)
  refine of (i := .nzs o) (w := packG g 22 0 o) (ws := []) rfl hh (fun hf => ?_) rfl
  show parse (packG g 22 0 o) 0 = _
  unfold parse parseAlu
  rw [hh.major, h1, h2]
  rfl

theorem sadd (o : OpG) : Statement (.sadd o) := by
  intro g
  obtain ⟨hh, h1, h2⟩ := packG_spec g 23 0 o (by decide) (by decide)
  refine of (i := .sadd o) (w := packG g 23 0 o) (ws := []) rfl hh (fun hf => ?_) rfl
  show parse (packG g 23 0 o) 0 = _
  unfold parse parseAlu
  rw [hh.major, h1, h2]
  rfl

theorem ssub (o : OpG) : Statement (.ssub o) := by
  intro g
  obtain ⟨hh, h1, h2⟩ := packG_spec g 23 1 o (by decide) (by decide)
  refine of (i := .ssub o) (w := packG g 23 1 o) (ws := []) rfl hh (fun hf => ?_) rfl
  show parse (packG g 23 1 o) 0 = _
  unfold parse parseAlu
  rw [hh.major, h1, h2]
  rfl

theorem smul (o : OpG) : Statement (.smul o) := by
  intro g
  obtain ⟨hh, h1, h2⟩ := packG_spec g 23 2 o (by decide) (by decide)
  refine of (i := .smul o) (w := packG g 23 2 o) (ws := []) rfl hh (fun hf => ?_) rfl
  show parse (packG g 23 2 o) 0 = _
  unfold parse parseAlu
  rw [hh.major, h1, h2]
  rfl

theorem sand (o : OpG) : Statement (.sand o) := by
  intro g
  obtain ⟨hh, h1, h2⟩ := packG_spec g 23 3 o (by decide) (by decide)
  refine of (i := .sand o) (w := packG g 23 3 o) (ws := []) rfl hh (fun hf => ?_) rfl
  show parse (packG g 23 3 o) 0 = _
  unfold parse parseAlu
  rw [hh.major, h1, h2]
  rfl

theorem sor (o : OpG) : Statement (.sor o) := by
  intro g
  obtain ⟨hh, h1, h2⟩ := packG_spec g 23 4 o (by decide) (by decide)
  refine of (i := .sor o) (w := packG g 23 4 o) (ws := []) rfl hh (fun hf => ?_) rfl
  show parse (packG g 23 4 o) 0 = _
  unfold parse parseAlu
  rw [hh.major, h1, h2]
  rfl

theorem sxor (o : OpG) : Statement (.sxor o) := by
  intro g
  obtain ⟨hh, h1, h2⟩ := packG_spec g 23 5 o (by decide) (by decide)
  refine of (i := .sxor o) (w := packG g 23 5 o) (ws := []) rfl hh (fun hf => ?_) rfl
  show parse (packG g 23 5 o) 0 = _
  unfold parse parseAlu
  rw [hh.major, h1, h2]
  rfl

theorem sshl (o : OpG) : Statement (.sshl o) := by
  intro g
  obtain ⟨hh, h1, h2⟩ := packG_spec g 23 6 o (by decide) (by decide)
  refine of (i := .sshl o) (w := packG g 23 6 o) (ws := []) rfl hh (fun hf => ?_) rfl
  show parse (packG g 23 6 o) 0 = _
  unfold parse parseAlu
  rw [hh.major, h1, h2]
  rfl

theorem sshr (o : OpG) : Statement (.sshr o) := by
  intro g
  obtain ⟨hh, h1, h2⟩ := packG_spec g 23 7 o (by decide) (by decide)
  refine of (i := .sshr o) (w := packG g 23 7 o) (ws := []) rfl hh (fun hf => ?_) rfl
  show parse (packG g 23 7 o) 0 = _
  unfold parse parseAlu
  rw [hh.major, h1, h2]
  rfl

theorem saddi (o : OpI) : Statement (.saddi o) := by
  intro g
  obtain ⟨hh, h1, h2⟩ := packI_spec g 24 o (by decide)
  refine of (i := .saddi o) (w := packI g 24 o) (ws := []) rfl hh (fun hf => ?_) rfl
  show parse (packI g 24 o) 0 = _
  unfold parse parseAlu
  rw [hh.major, h1]
  rfl

theorem smovk (o : OpG) (x : XLit) : Statement (.smovk o x) := by
  intro g
  obtain ⟨hh, h1, h2⟩ := packG_spec g 25 0 o (by decide) (by decide)
  refine of (i := .smovk o x) (w := packG g 25 0 o) (ws := [x.pack]) rfl hh (fun hf => ?_) rfl
  show parse (packG g 25 0 o) x.pack = _
  unfold parse parseAlu
  rw [hh.major, h1, h2, getXLit_pack]
  rfl

theorem smovkW (o : OpG) (x : XLit) : Statement (.smovkW o x) := by
  intro g
  obtain ⟨hh, h1, h2⟩ := packG_spec g 25 1 o (by decide) (by decide)
  refine of (i := .smovkW o x) (w := packG g 25 1 o) (ws := [x.pack]) rfl hh (fun hf => ?_) rfl
  show parse (packG g 25 1 o) x.pack = _
  unfold parse parseAlu
  rw [hh.major, h1, h2, getXLit_pack]
  rfl

theorem scmp (o : OpC) : Statement (.scmp o) := by
  intro g
  obtain ⟨hh, h1⟩ := packC_spec g 26 o (by decide)
  refine of (i := .scmp o) (w := packC g 26 o) (ws := []) rfl hh (fun hf => ?_) rfl
  show parse (packC g 26 o) 0 = _
  unfold parse parseAlu
  rw [hh.major, h1]
  rfl

theorem vbc (o : OpG) : Statement (.vbc o) := by
  intro g
  obtain ⟨hh, h1, h2⟩ := packG_spec g 27 0 o (by decide) (by decide)
  refine of (i := .vbc o) (w := packG g 27 0 o) (ws := []) rfl hh (fun hf => ?_) rfl
  show parse (packG g 27 0 o) 0 = _
  unfold parse parseAlu
  rw [hh.major, h1, h2]
  rfl

theorem sfirst (o : OpG) : Statement (.sfirst o) := by
  intro g
  obtain ⟨hh, h1, h2⟩ := packG_spec g 27 1 o (by decide) (by decide)
  refine of (i := .sfirst o) (w := packG g 27 1 o) (ws := []) rfl hh (fun hf => ?_) rfl
  show parse (packG g 27 1 o) 0 = _
  unfold parse parseAlu
  rw [hh.major, h1, h2]
  rfl

theorem slane (o : OpG) : Statement (.slane o) := by
  intro g
  obtain ⟨hh, h1, h2⟩ := packG_spec g 27 2 o (by decide) (by decide)
  refine of (i := .slane o) (w := packG g 27 2 o) (ws := []) rfl hh (fun hf => ?_) rfl
  show parse (packG g 27 2 o) 0 = _
  unfold parse parseAlu
  rw [hh.major, h1, h2]
  rfl

theorem fadd (o : OpR) : Statement (.fadd o) := by
  intro g
  obtain ⟨hh, h1, h2⟩ := packR_spec g 32 0 o (by decide) (by decide)
  refine of (i := .fadd o) (w := packR g 32 0 o) (ws := []) rfl hh (fun hf => ?_) rfl
  show parse (packR g 32 0 o) 0 = _
  unfold parse parseAlu
  rw [hh.major, h1, h2]
  rfl

theorem fsub (o : OpR) : Statement (.fsub o) := by
  intro g
  obtain ⟨hh, h1, h2⟩ := packR_spec g 32 1 o (by decide) (by decide)
  refine of (i := .fsub o) (w := packR g 32 1 o) (ws := []) rfl hh (fun hf => ?_) rfl
  show parse (packR g 32 1 o) 0 = _
  unfold parse parseAlu
  rw [hh.major, h1, h2]
  rfl

theorem fmul (o : OpR) : Statement (.fmul o) := by
  intro g
  obtain ⟨hh, h1, h2⟩ := packR_spec g 33 0 o (by decide) (by decide)
  refine of (i := .fmul o) (w := packR g 33 0 o) (ws := []) rfl hh (fun hf => ?_) rfl
  show parse (packR g 33 0 o) 0 = _
  unfold parse parseAlu
  rw [hh.major, h1, h2]
  rfl

theorem ffma (o : OpR) : Statement (.ffma o) := by
  intro g
  obtain ⟨hh, h1, h2⟩ := packR_spec g 33 1 o (by decide) (by decide)
  refine of (i := .ffma o) (w := packR g 33 1 o) (ws := []) rfl hh (fun hf => ?_) rfl
  show parse (packR g 33 1 o) 0 = _
  unfold parse parseAlu
  rw [hh.major, h1, h2]
  rfl

theorem fmin (o : OpG) : Statement (.fmin o) := by
  intro g
  obtain ⟨hh, h1, h2⟩ := packG_spec g 34 0 o (by decide) (by decide)
  refine of (i := .fmin o) (w := packG g 34 0 o) (ws := []) rfl hh (fun hf => ?_) rfl
  show parse (packG g 34 0 o) 0 = _
  unfold parse parseAlu
  rw [hh.major, h1, h2]
  rfl

theorem fmax (o : OpG) : Statement (.fmax o) := by
  intro g
  obtain ⟨hh, h1, h2⟩ := packG_spec g 34 1 o (by decide) (by decide)
  refine of (i := .fmax o) (w := packG g 34 1 o) (ws := []) rfl hh (fun hf => ?_) rfl
  show parse (packG g 34 1 o) 0 = _
  unfold parse parseAlu
  rw [hh.major, h1, h2]
  rfl

theorem fminp (o : OpG) : Statement (.fminp o) := by
  intro g
  obtain ⟨hh, h1, h2⟩ := packG_spec g 34 2 o (by decide) (by decide)
  refine of (i := .fminp o) (w := packG g 34 2 o) (ws := []) rfl hh (fun hf => ?_) rfl
  show parse (packG g 34 2 o) 0 = _
  unfold parse parseAlu
  rw [hh.major, h1, h2]
  rfl

theorem fmaxp (o : OpG) : Statement (.fmaxp o) := by
  intro g
  obtain ⟨hh, h1, h2⟩ := packG_spec g 34 3 o (by decide) (by decide)
  refine of (i := .fmaxp o) (w := packG g 34 3 o) (ws := []) rfl hh (fun hf => ?_) rfl
  show parse (packG g 34 3 o) 0 = _
  unfold parse parseAlu
  rw [hh.major, h1, h2]
  rfl

theorem fabs (o : OpG) : Statement (.fabs o) := by
  intro g
  obtain ⟨hh, h1, h2⟩ := packG_spec g 34 4 o (by decide) (by decide)
  refine of (i := .fabs o) (w := packG g 34 4 o) (ws := []) rfl hh (fun hf => ?_) rfl
  show parse (packG g 34 4 o) 0 = _
  unfold parse parseAlu
  rw [hh.major, h1, h2]
  rfl

theorem fneg (o : OpG) : Statement (.fneg o) := by
  intro g
  obtain ⟨hh, h1, h2⟩ := packG_spec g 34 5 o (by decide) (by decide)
  refine of (i := .fneg o) (w := packG g 34 5 o) (ws := []) rfl hh (fun hf => ?_) rfl
  show parse (packG g 34 5 o) 0 = _
  unfold parse parseAlu
  rw [hh.major, h1, h2]
  rfl

theorem fcopys (o : OpG) : Statement (.fcopys o) := by
  intro g
  obtain ⟨hh, h1, h2⟩ := packG_spec g 34 6 o (by decide) (by decide)
  refine of (i := .fcopys o) (w := packG g 34 6 o) (ws := []) rfl hh (fun hf => ?_) rfl
  show parse (packG g 34 6 o) 0 = _
  unfold parse parseAlu
  rw [hh.major, h1, h2]
  rfl

theorem fcmp (o : OpC) : Statement (.fcmp o) := by
  intro g
  obtain ⟨hh, h1⟩ := packC_spec g 35 o (by decide)
  refine of (i := .fcmp o) (w := packC g 35 o) (ws := []) rfl hh (fun hf => ?_) rfl
  show parse (packC g 35 o) 0 = _
  unfold parse parseAlu
  rw [hh.major, h1]
  rfl

theorem rcp (o : OpU) : Statement (.rcp o) := by
  intro g
  obtain ⟨hh, h1, h2, h3⟩ := packU_spec g 36 0 o (by decide) (by decide)
  refine of (i := .rcp o) (w := packU g 36 0 o) (ws := []) rfl hh (fun hf => ?_) rfl
  show parse (packU g 36 0 o) 0 = _
  unfold parse parseAlu
  rw [hh.major, h1, h3]
  exact if_pos h2

theorem rsq (o : OpU) : Statement (.rsq o) := by
  intro g
  obtain ⟨hh, h1, h2, h3⟩ := packU_spec g 36 1 o (by decide) (by decide)
  refine of (i := .rsq o) (w := packU g 36 1 o) (ws := []) rfl hh (fun hf => ?_) rfl
  show parse (packU g 36 1 o) 0 = _
  unfold parse parseAlu
  rw [hh.major, h1, h3]
  exact if_pos h2

theorem exp2 (o : OpU) : Statement (.exp2 o) := by
  intro g
  obtain ⟨hh, h1, h2, h3⟩ := packU_spec g 36 2 o (by decide) (by decide)
  refine of (i := .exp2 o) (w := packU g 36 2 o) (ws := []) rfl hh (fun hf => ?_) rfl
  show parse (packU g 36 2 o) 0 = _
  unfold parse parseAlu
  rw [hh.major, h1, h3]
  exact if_pos h2

theorem log2 (o : OpU) : Statement (.log2 o) := by
  intro g
  obtain ⟨hh, h1, h2, h3⟩ := packU_spec g 36 3 o (by decide) (by decide)
  refine of (i := .log2 o) (w := packU g 36 3 o) (ws := []) rfl hh (fun hf => ?_) rfl
  show parse (packU g 36 3 o) 0 = _
  unfold parse parseAlu
  rw [hh.major, h1, h3]
  exact if_pos h2

theorem sinr (o : OpU) : Statement (.sinr o) := by
  intro g
  obtain ⟨hh, h1, h2, h3⟩ := packU_spec g 36 4 o (by decide) (by decide)
  refine of (i := .sinr o) (w := packU g 36 4 o) (ws := []) rfl hh (fun hf => ?_) rfl
  show parse (packU g 36 4 o) 0 = _
  unfold parse parseAlu
  rw [hh.major, h1, h3]
  exact if_pos h2

theorem cosr (o : OpU) : Statement (.cosr o) := by
  intro g
  obtain ⟨hh, h1, h2, h3⟩ := packU_spec g 36 5 o (by decide) (by decide)
  refine of (i := .cosr o) (w := packU g 36 5 o) (ws := []) rfl hh (fun hf => ?_) rfl
  show parse (packU g 36 5 o) 0 = _
  unfold parse parseAlu
  rw [hh.major, h1, h3]
  exact if_pos h2

theorem tanh (o : OpU) : Statement (.tanh o) := by
  intro g
  obtain ⟨hh, h1, h2, h3⟩ := packU_spec g 36 6 o (by decide) (by decide)
  refine of (i := .tanh o) (w := packU g 36 6 o) (ws := []) rfl hh (fun hf => ?_) rfl
  show parse (packU g 36 6 o) 0 = _
  unfold parse parseAlu
  rw [hh.major, h1, h3]
  exact if_pos h2

theorem floor (o : OpU) : Statement (.floor o) := by
  intro g
  obtain ⟨hh, h1, h2, h3⟩ := packU_spec g 36 8 o (by decide) (by decide)
  refine of (i := .floor o) (w := packU g 36 8 o) (ws := []) rfl hh (fun hf => ?_) rfl
  show parse (packU g 36 8 o) 0 = _
  unfold parse parseAlu
  rw [hh.major, h1, h3]
  exact if_pos h2

theorem ceil (o : OpU) : Statement (.ceil o) := by
  intro g
  obtain ⟨hh, h1, h2, h3⟩ := packU_spec g 36 9 o (by decide) (by decide)
  refine of (i := .ceil o) (w := packU g 36 9 o) (ws := []) rfl hh (fun hf => ?_) rfl
  show parse (packU g 36 9 o) 0 = _
  unfold parse parseAlu
  rw [hh.major, h1, h3]
  exact if_pos h2

theorem trunc (o : OpU) : Statement (.trunc o) := by
  intro g
  obtain ⟨hh, h1, h2, h3⟩ := packU_spec g 36 10 o (by decide) (by decide)
  refine of (i := .trunc o) (w := packU g 36 10 o) (ws := []) rfl hh (fun hf => ?_) rfl
  show parse (packU g 36 10 o) 0 = _
  unfold parse parseAlu
  rw [hh.major, h1, h3]
  exact if_pos h2

theorem rint (o : OpU) : Statement (.rint o) := by
  intro g
  obtain ⟨hh, h1, h2, h3⟩ := packU_spec g 36 11 o (by decide) (by decide)
  refine of (i := .rint o) (w := packU g 36 11 o) (ws := []) rfl hh (fun hf => ?_) rfl
  show parse (packU g 36 11 o) 0 = _
  unfold parse parseAlu
  rw [hh.major, h1, h3]
  exact if_pos h2

theorem fract (o : OpU) : Statement (.fract o) := by
  intro g
  obtain ⟨hh, h1, h2, h3⟩ := packU_spec g 36 12 o (by decide) (by decide)
  refine of (i := .fract o) (w := packU g 36 12 o) (ws := []) rfl hh (fun hf => ?_) rfl
  show parse (packU g 36 12 o) 0 = _
  unfold parse parseAlu
  rw [hh.major, h1, h3]
  exact if_pos h2

theorem fdiv (o : OpG) : Statement (.fdiv o) := by
  intro g
  obtain ⟨hh, h1, h2⟩ := packG_spec g 37 0 o (by decide) (by decide)
  refine of (i := .fdiv o) (w := packG g 37 0 o) (ws := []) rfl hh (fun hf => ?_) rfl
  show parse (packG g 37 0 o) 0 = _
  unfold parse parseAlu
  rw [hh.major, h1, h2]
  rfl

theorem fsqrt (o : OpG) : Statement (.fsqrt o) := by
  intro g
  obtain ⟨hh, h1, h2⟩ := packG_spec g 37 1 o (by decide) (by decide)
  refine of (i := .fsqrt o) (w := packG g 37 1 o) (ws := []) rfl hh (fun hf => ?_) rfl
  show parse (packG g 37 1 o) 0 = _
  unfold parse parseAlu
  rw [hh.major, h1, h2]
  rfl

theorem hadd2 (o : OpG) : Statement (.hadd2 o) := by
  intro g
  obtain ⟨hh, h1, h2⟩ := packG_spec g 38 0 o (by decide) (by decide)
  refine of (i := .hadd2 o) (w := packG g 38 0 o) (ws := []) rfl hh (fun hf => ?_) rfl
  show parse (packG g 38 0 o) 0 = _
  unfold parse parseAlu
  rw [hh.major, h1, h2]
  rfl

theorem hsub2 (o : OpG) : Statement (.hsub2 o) := by
  intro g
  obtain ⟨hh, h1, h2⟩ := packG_spec g 38 1 o (by decide) (by decide)
  refine of (i := .hsub2 o) (w := packG g 38 1 o) (ws := []) rfl hh (fun hf => ?_) rfl
  show parse (packG g 38 1 o) 0 = _
  unfold parse parseAlu
  rw [hh.major, h1, h2]
  rfl

theorem hmul2 (o : OpG) : Statement (.hmul2 o) := by
  intro g
  obtain ⟨hh, h1, h2⟩ := packG_spec g 38 2 o (by decide) (by decide)
  refine of (i := .hmul2 o) (w := packG g 38 2 o) (ws := []) rfl hh (fun hf => ?_) rfl
  show parse (packG g 38 2 o) 0 = _
  unfold parse parseAlu
  rw [hh.major, h1, h2]
  rfl

theorem hfma2 (o : OpG) : Statement (.hfma2 o) := by
  intro g
  obtain ⟨hh, h1, h2⟩ := packG_spec g 38 3 o (by decide) (by decide)
  refine of (i := .hfma2 o) (w := packG g 38 3 o) (ws := []) rfl hh (fun hf => ?_) rfl
  show parse (packG g 38 3 o) 0 = _
  unfold parse parseAlu
  rw [hh.major, h1, h2]
  rfl

theorem hmin2 (o : OpG) : Statement (.hmin2 o) := by
  intro g
  obtain ⟨hh, h1, h2⟩ := packG_spec g 38 4 o (by decide) (by decide)
  refine of (i := .hmin2 o) (w := packG g 38 4 o) (ws := []) rfl hh (fun hf => ?_) rfl
  show parse (packG g 38 4 o) 0 = _
  unfold parse parseAlu
  rw [hh.major, h1, h2]
  rfl

theorem hmax2 (o : OpG) : Statement (.hmax2 o) := by
  intro g
  obtain ⟨hh, h1, h2⟩ := packG_spec g 38 5 o (by decide) (by decide)
  refine of (i := .hmax2 o) (w := packG g 38 5 o) (ws := []) rfl hh (fun hf => ?_) rfl
  show parse (packG g 38 5 o) 0 = _
  unfold parse parseAlu
  rw [hh.major, h1, h2]
  rfl

theorem badd2 (o : OpG) : Statement (.badd2 o) := by
  intro g
  obtain ⟨hh, h1, h2⟩ := packG_spec g 39 0 o (by decide) (by decide)
  refine of (i := .badd2 o) (w := packG g 39 0 o) (ws := []) rfl hh (fun hf => ?_) rfl
  show parse (packG g 39 0 o) 0 = _
  unfold parse parseAlu
  rw [hh.major, h1, h2]
  rfl

theorem bsub2 (o : OpG) : Statement (.bsub2 o) := by
  intro g
  obtain ⟨hh, h1, h2⟩ := packG_spec g 39 1 o (by decide) (by decide)
  refine of (i := .bsub2 o) (w := packG g 39 1 o) (ws := []) rfl hh (fun hf => ?_) rfl
  show parse (packG g 39 1 o) 0 = _
  unfold parse parseAlu
  rw [hh.major, h1, h2]
  rfl

theorem bmul2 (o : OpG) : Statement (.bmul2 o) := by
  intro g
  obtain ⟨hh, h1, h2⟩ := packG_spec g 39 2 o (by decide) (by decide)
  refine of (i := .bmul2 o) (w := packG g 39 2 o) (ws := []) rfl hh (fun hf => ?_) rfl
  show parse (packG g 39 2 o) 0 = _
  unfold parse parseAlu
  rw [hh.major, h1, h2]
  rfl

theorem bfma2 (o : OpG) : Statement (.bfma2 o) := by
  intro g
  obtain ⟨hh, h1, h2⟩ := packG_spec g 39 3 o (by decide) (by decide)
  refine of (i := .bfma2 o) (w := packG g 39 3 o) (ws := []) rfl hh (fun hf => ?_) rfl
  show parse (packG g 39 3 o) 0 = _
  unfold parse parseAlu
  rw [hh.major, h1, h2]
  rfl

theorem bmin2 (o : OpG) : Statement (.bmin2 o) := by
  intro g
  obtain ⟨hh, h1, h2⟩ := packG_spec g 39 4 o (by decide) (by decide)
  refine of (i := .bmin2 o) (w := packG g 39 4 o) (ws := []) rfl hh (fun hf => ?_) rfl
  show parse (packG g 39 4 o) 0 = _
  unfold parse parseAlu
  rw [hh.major, h1, h2]
  rfl

theorem bmax2 (o : OpG) : Statement (.bmax2 o) := by
  intro g
  obtain ⟨hh, h1, h2⟩ := packG_spec g 39 5 o (by decide) (by decide)
  refine of (i := .bmax2 o) (w := packG g 39 5 o) (ws := []) rfl hh (fun hf => ?_) rfl
  show parse (packG g 39 5 o) 0 = _
  unfold parse parseAlu
  rw [hh.major, h1, h2]
  rfl

theorem dadd (o : OpG) : Statement (.dadd o) := by
  intro g
  obtain ⟨hh, h1, h2⟩ := packG_spec g 40 0 o (by decide) (by decide)
  refine of (i := .dadd o) (w := packG g 40 0 o) (ws := []) rfl hh (fun hf => ?_) rfl
  show parse (packG g 40 0 o) 0 = _
  unfold parse parseAlu
  rw [hh.major, h1, h2]
  rfl

theorem dsub (o : OpG) : Statement (.dsub o) := by
  intro g
  obtain ⟨hh, h1, h2⟩ := packG_spec g 40 1 o (by decide) (by decide)
  refine of (i := .dsub o) (w := packG g 40 1 o) (ws := []) rfl hh (fun hf => ?_) rfl
  show parse (packG g 40 1 o) 0 = _
  unfold parse parseAlu
  rw [hh.major, h1, h2]
  rfl

theorem dmul (o : OpG) : Statement (.dmul o) := by
  intro g
  obtain ⟨hh, h1, h2⟩ := packG_spec g 40 2 o (by decide) (by decide)
  refine of (i := .dmul o) (w := packG g 40 2 o) (ws := []) rfl hh (fun hf => ?_) rfl
  show parse (packG g 40 2 o) 0 = _
  unfold parse parseAlu
  rw [hh.major, h1, h2]
  rfl

theorem dfma (o : OpG) : Statement (.dfma o) := by
  intro g
  obtain ⟨hh, h1, h2⟩ := packG_spec g 40 3 o (by decide) (by decide)
  refine of (i := .dfma o) (w := packG g 40 3 o) (ws := []) rfl hh (fun hf => ?_) rfl
  show parse (packG g 40 3 o) 0 = _
  unfold parse parseAlu
  rw [hh.major, h1, h2]
  rfl

theorem dmin (o : OpG) : Statement (.dmin o) := by
  intro g
  obtain ⟨hh, h1, h2⟩ := packG_spec g 40 4 o (by decide) (by decide)
  refine of (i := .dmin o) (w := packG g 40 4 o) (ws := []) rfl hh (fun hf => ?_) rfl
  show parse (packG g 40 4 o) 0 = _
  unfold parse parseAlu
  rw [hh.major, h1, h2]
  rfl

theorem dmax (o : OpG) : Statement (.dmax o) := by
  intro g
  obtain ⟨hh, h1, h2⟩ := packG_spec g 40 5 o (by decide) (by decide)
  refine of (i := .dmax o) (w := packG g 40 5 o) (ws := []) rfl hh (fun hf => ?_) rfl
  show parse (packG g 40 5 o) 0 = _
  unfold parse parseAlu
  rw [hh.major, h1, h2]
  rfl

theorem ddiv (o : OpG) : Statement (.ddiv o) := by
  intro g
  obtain ⟨hh, h1, h2⟩ := packG_spec g 40 6 o (by decide) (by decide)
  refine of (i := .ddiv o) (w := packG g 40 6 o) (ws := []) rfl hh (fun hf => ?_) rfl
  show parse (packG g 40 6 o) 0 = _
  unfold parse parseAlu
  rw [hh.major, h1, h2]
  rfl

theorem dsqrt (o : OpG) : Statement (.dsqrt o) := by
  intro g
  obtain ⟨hh, h1, h2⟩ := packG_spec g 40 7 o (by decide) (by decide)
  refine of (i := .dsqrt o) (w := packG g 40 7 o) (ws := []) rfl hh (fun hf => ?_) rfl
  show parse (packG g 40 7 o) 0 = _
  unfold parse parseAlu
  rw [hh.major, h1, h2]
  rfl

theorem dcmp (o : OpC) : Statement (.dcmp o) := by
  intro g
  obtain ⟨hh, h1⟩ := packC_spec g 41 o (by decide)
  refine of (i := .dcmp o) (w := packC g 41 o) (ws := []) rfl hh (fun hf => ?_) rfl
  show parse (packC g 41 o) 0 = _
  unfold parse parseAlu
  rw [hh.major, h1]
  rfl

theorem cvt (o : OpG) (x : XCvt) : Statement (.cvt o x) := by
  intro g
  obtain ⟨hh, h1, h2⟩ := packG_spec g 42 0 o (by decide) (by decide)
  refine of (i := .cvt o x) (w := packG g 42 0 o) (ws := [x.pack]) rfl hh (fun hf => ?_) rfl
  show parse (packG g 42 0 o) x.pack = _
  unfold parse parseAlu
  rw [hh.major, h1, h2, getXCvt_pack]
  rfl

theorem mshapeImm (o : OpG) (x : XMat) : Statement (.mshapeImm o x) := by
  intro g
  obtain ⟨hh, h1, h2⟩ := packG_spec g 48 0 o (by decide) (by decide)
  refine of (i := .mshapeImm o x) (w := packG g 48 0 o) (ws := [x.pack]) rfl hh (fun hf => ?_) rfl
  show parse (packG g 48 0 o) x.pack = _
  have hx := fld_pack_ty x
  simp only [Instr.formOk, decide_eq_true_eq] at hf
  unfold parse parseMat
  rw [hh.major, h1, h2, hx, getXMat_pack]
  exact if_neg hf

theorem mshapeLane (o : OpG) (x : XMat) : Statement (.mshapeLane o x) := by
  intro g
  obtain ⟨hh, h1, h2⟩ := packG_spec g 48 0 o (by decide) (by decide)
  refine of (i := .mshapeLane o x) (w := packG g 48 0 o) (ws := [x.pack]) rfl hh (fun hf => ?_) rfl
  show parse (packG g 48 0 o) x.pack = _
  have hx := fld_pack_ty x
  simp only [Instr.formOk, decide_eq_true_eq] at hf
  unfold parse parseMat
  rw [hh.major, h1, h2, hx, getXMat_pack]
  exact if_pos hf

theorem mld (o : OpG) (x : MMem) : Statement (.mld o x) := by
  intro g
  obtain ⟨hh, h1, h2⟩ := packG_spec g 49 0 o (by decide) (by decide)
  refine of (i := .mld o x) (w := packG g 49 0 o) (ws := [x.pack]) rfl hh (fun hf => ?_) rfl
  show parse (packG g 49 0 o) x.pack = _
  unfold parse parseMat
  rw [hh.major, h1, h2, getMMem_pack]
  rfl

theorem mldT (o : OpG) (x : MMem) : Statement (.mldT o x) := by
  intro g
  obtain ⟨hh, h1, h2⟩ := packG_spec g 49 1 o (by decide) (by decide)
  refine of (i := .mldT o x) (w := packG g 49 1 o) (ws := [x.pack]) rfl hh (fun hf => ?_) rfl
  show parse (packG g 49 1 o) x.pack = _
  unfold parse parseMat
  rw [hh.major, h1, h2, getMMem_pack]
  rfl

theorem mst (o : OpG) (x : MMem) : Statement (.mst o x) := by
  intro g
  obtain ⟨hh, h1, h2⟩ := packG_spec g 50 0 o (by decide) (by decide)
  refine of (i := .mst o x) (w := packG g 50 0 o) (ws := [x.pack]) rfl hh (fun hf => ?_) rfl
  show parse (packG g 50 0 o) x.pack = _
  unfold parse parseMat
  rw [hh.major, h1, h2, getMMem_pack]
  rfl

theorem mstT (o : OpG) (x : MMem) : Statement (.mstT o x) := by
  intro g
  obtain ⟨hh, h1, h2⟩ := packG_spec g 50 1 o (by decide) (by decide)
  refine of (i := .mstT o x) (w := packG g 50 1 o) (ws := [x.pack]) rfl hh (fun hf => ?_) rfl
  show parse (packG g 50 1 o) x.pack = _
  unfold parse parseMat
  rw [hh.major, h1, h2, getMMem_pack]
  rfl

theorem mldw (o : OpG) (x : MMem) : Statement (.mldw o x) := by
  intro g
  obtain ⟨hh, h1, h2⟩ := packG_spec g 51 0 o (by decide) (by decide)
  refine of (i := .mldw o x) (w := packG g 51 0 o) (ws := [x.pack]) rfl hh (fun hf => ?_) rfl
  show parse (packG g 51 0 o) x.pack = _
  unfold parse parseMat
  rw [hh.major, h1, h2, getMMem_pack]
  rfl

theorem mmul (o : OpG) (x : XMat) : Statement (.mmul o x) := by
  intro g
  obtain ⟨hh, h1, h2⟩ := packG_spec g 52 0 o (by decide) (by decide)
  refine of (i := .mmul o x) (w := packG g 52 0 o) (ws := [x.pack]) rfl hh (fun hf => ?_) rfl
  show parse (packG g 52 0 o) x.pack = _
  unfold parse parseMat
  rw [hh.major, h1, h2, getXMat_pack]
  rfl

theorem mma (o : OpG) (x : XMat) : Statement (.mma o x) := by
  intro g
  obtain ⟨hh, h1, h2⟩ := packG_spec g 52 1 o (by decide) (by decide)
  refine of (i := .mma o x) (w := packG g 52 1 o) (ws := [x.pack]) rfl hh (fun hf => ?_) rfl
  show parse (packG g 52 1 o) x.pack = _
  unfold parse parseMat
  rw [hh.major, h1, h2, getXMat_pack]
  rfl

theorem mmat (o : OpG) (x : XMat) : Statement (.mmat o x) := by
  intro g
  obtain ⟨hh, h1, h2⟩ := packG_spec g 52 2 o (by decide) (by decide)
  refine of (i := .mmat o x) (w := packG g 52 2 o) (ws := [x.pack]) rfl hh (fun hf => ?_) rfl
  show parse (packG g 52 2 o) x.pack = _
  unfold parse parseMat
  rw [hh.major, h1, h2, getXMat_pack]
  rfl

theorem mmab (o : OpG) (x : XMat) : Statement (.mmab o x) := by
  intro g
  obtain ⟨hh, h1, h2⟩ := packG_spec g 52 3 o (by decide) (by decide)
  refine of (i := .mmab o x) (w := packG g 52 3 o) (ws := [x.pack]) rfl hh (fun hf => ?_) rfl
  show parse (packG g 52 3 o) x.pack = _
  unfold parse parseMat
  rw [hh.major, h1, h2, getXMat_pack]
  rfl

theorem madd (o : OpG) (x : XMat) : Statement (.madd o x) := by
  intro g
  obtain ⟨hh, h1, h2⟩ := packG_spec g 53 0 o (by decide) (by decide)
  refine of (i := .madd o x) (w := packG g 53 0 o) (ws := [x.pack]) rfl hh (fun hf => ?_) rfl
  show parse (packG g 53 0 o) x.pack = _
  unfold parse parseMat
  rw [hh.major, h1, h2, getXMat_pack]
  rfl

theorem msub (o : OpG) (x : XMat) : Statement (.msub o x) := by
  intro g
  obtain ⟨hh, h1, h2⟩ := packG_spec g 53 1 o (by decide) (by decide)
  refine of (i := .msub o x) (w := packG g 53 1 o) (ws := [x.pack]) rfl hh (fun hf => ?_) rfl
  show parse (packG g 53 1 o) x.pack = _
  unfold parse parseMat
  rw [hh.major, h1, h2, getXMat_pack]
  rfl

theorem mhad (o : OpG) (x : XMat) : Statement (.mhad o x) := by
  intro g
  obtain ⟨hh, h1, h2⟩ := packG_spec g 53 2 o (by decide) (by decide)
  refine of (i := .mhad o x) (w := packG g 53 2 o) (ws := [x.pack]) rfl hh (fun hf => ?_) rfl
  show parse (packG g 53 2 o) x.pack = _
  unfold parse parseMat
  rw [hh.major, h1, h2, getXMat_pack]
  rfl

theorem mscal (o : OpG) (x : XMat) : Statement (.mscal o x) := by
  intro g
  obtain ⟨hh, h1, h2⟩ := packG_spec g 53 3 o (by decide) (by decide)
  refine of (i := .mscal o x) (w := packG g 53 3 o) (ws := [x.pack]) rfl hh (fun hf => ?_) rfl
  show parse (packG g 53 3 o) x.pack = _
  unfold parse parseMat
  rw [hh.major, h1, h2, getXMat_pack]
  rfl

theorem mexp2 (o : OpG) (x : XMat) : Statement (.mexp2 o x) := by
  intro g
  obtain ⟨hh, h1, h2⟩ := packG_spec g 53 4 o (by decide) (by decide)
  refine of (i := .mexp2 o x) (w := packG g 53 4 o) (ws := [x.pack]) rfl hh (fun hf => ?_) rfl
  show parse (packG g 53 4 o) x.pack = _
  unfold parse parseMat
  rw [hh.major, h1, h2, getXMat_pack]
  rfl

theorem mmax (o : OpG) (x : XMat) : Statement (.mmax o x) := by
  intro g
  obtain ⟨hh, h1, h2⟩ := packG_spec g 53 5 o (by decide) (by decide)
  refine of (i := .mmax o x) (w := packG g 53 5 o) (ws := [x.pack]) rfl hh (fun hf => ?_) rfl
  show parse (packG g 53 5 o) x.pack = _
  unfold parse parseMat
  rw [hh.major, h1, h2, getXMat_pack]
  rfl

theorem mzero (o : OpG) (x : XMat) : Statement (.mzero o x) := by
  intro g
  obtain ⟨hh, h1, h2⟩ := packG_spec g 53 6 o (by decide) (by decide)
  refine of (i := .mzero o x) (w := packG g 53 6 o) (ws := [x.pack]) rfl hh (fun hf => ?_) rfl
  show parse (packG g 53 6 o) x.pack = _
  unfold parse parseMat
  rw [hh.major, h1, h2, getXMat_pack]
  rfl

theorem mcvt (o : OpG) (x : XMat) : Statement (.mcvt o x) := by
  intro g
  obtain ⟨hh, h1, h2⟩ := packG_spec g 53 7 o (by decide) (by decide)
  refine of (i := .mcvt o x) (w := packG g 53 7 o) (ws := [x.pack]) rfl hh (fun hf => ?_) rfl
  show parse (packG g 53 7 o) x.pack = _
  unfold parse parseMat
  rw [hh.major, h1, h2, getXMat_pack]
  rfl

theorem mtrn (o : OpG) (x : XMat) : Statement (.mtrn o x) := by
  intro g
  obtain ⟨hh, h1, h2⟩ := packG_spec g 54 0 o (by decide) (by decide)
  refine of (i := .mtrn o x) (w := packG g 54 0 o) (ws := [x.pack]) rfl hh (fun hf => ?_) rfl
  show parse (packG g 54 0 o) x.pack = _
  unfold parse parseMat
  rw [hh.major, h1, h2, getXMat_pack]
  rfl

theorem mmov (o : OpG) (x : XMat) : Statement (.mmov o x) := by
  intro g
  obtain ⟨hh, h1, h2⟩ := packG_spec g 54 1 o (by decide) (by decide)
  refine of (i := .mmov o x) (w := packG g 54 1 o) (ws := [x.pack]) rfl hh (fun hf => ?_) rfl
  show parse (packG g 54 1 o) x.pack = _
  unfold parse parseMat
  rw [hh.major, h1, h2, getXMat_pack]
  rfl

theorem mget (o : OpG) (x : XMat) : Statement (.mget o x) := by
  intro g
  obtain ⟨hh, h1, h2⟩ := packG_spec g 54 2 o (by decide) (by decide)
  refine of (i := .mget o x) (w := packG g 54 2 o) (ws := [x.pack]) rfl hh (fun hf => ?_) rfl
  show parse (packG g 54 2 o) x.pack = _
  unfold parse parseMat
  rw [hh.major, h1, h2, getXMat_pack]
  rfl

theorem mput (o : OpG) (x : XMat) : Statement (.mput o x) := by
  intro g
  obtain ⟨hh, h1, h2⟩ := packG_spec g 54 3 o (by decide) (by decide)
  refine of (i := .mput o x) (w := packG g 54 3 o) (ws := [x.pack]) rfl hh (fun hf => ?_) rfl
  show parse (packG g 54 3 o) x.pack = _
  unfold parse parseMat
  rw [hh.major, h1, h2, getXMat_pack]
  rfl

theorem mred (o : OpG) (x : XMat) : Statement (.mred o x) := by
  intro g
  obtain ⟨hh, h1, h2⟩ := packG_spec g 54 4 o (by decide) (by decide)
  refine of (i := .mred o x) (w := packG g 54 4 o) (ws := [x.pack]) rfl hh (fun hf => ?_) rfl
  show parse (packG g 54 4 o) x.pack = _
  unfold parse parseMat
  rw [hh.major, h1, h2, getXMat_pack]
  rfl

theorem mshget (o : OpG) (x : XMat) : Statement (.mshget o x) := by
  intro g
  obtain ⟨hh, h1, h2⟩ := packG_spec g 54 5 o (by decide) (by decide)
  refine of (i := .mshget o x) (w := packG g 54 5 o) (ws := [x.pack]) rfl hh (fun hf => ?_) rfl
  show parse (packG g 54 5 o) x.pack = _
  unfold parse parseMat
  rw [hh.major, h1, h2, getXMat_pack]
  rfl

theorem minv (o : OpG) (x : XMat) : Statement (.minv o x) := by
  intro g
  obtain ⟨hh, h1, h2⟩ := packG_spec g 55 0 o (by decide) (by decide)
  refine of (i := .minv o x) (w := packG g 55 0 o) (ws := [x.pack]) rfl hh (fun hf => ?_) rfl
  show parse (packG g 55 0 o) x.pack = _
  unfold parse parseMat
  rw [hh.major, h1, h2, getXMat_pack]
  rfl

theorem mlu (o : OpG) (x : XMat) : Statement (.mlu o x) := by
  intro g
  obtain ⟨hh, h1, h2⟩ := packG_spec g 55 1 o (by decide) (by decide)
  refine of (i := .mlu o x) (w := packG g 55 1 o) (ws := [x.pack]) rfl hh (fun hf => ?_) rfl
  show parse (packG g 55 1 o) x.pack = _
  unfold parse parseMat
  rw [hh.major, h1, h2, getXMat_pack]
  rfl

theorem mchol (o : OpG) (x : XMat) : Statement (.mchol o x) := by
  intro g
  obtain ⟨hh, h1, h2⟩ := packG_spec g 55 2 o (by decide) (by decide)
  refine of (i := .mchol o x) (w := packG g 55 2 o) (ws := [x.pack]) rfl hh (fun hf => ?_) rfl
  show parse (packG g 55 2 o) x.pack = _
  unfold parse parseMat
  rw [hh.major, h1, h2, getXMat_pack]
  rfl

theorem msolvl (o : OpG) (x : XMat) : Statement (.msolvl o x) := by
  intro g
  obtain ⟨hh, h1, h2⟩ := packG_spec g 55 3 o (by decide) (by decide)
  refine of (i := .msolvl o x) (w := packG g 55 3 o) (ws := [x.pack]) rfl hh (fun hf => ?_) rfl
  show parse (packG g 55 3 o) x.pack = _
  unfold parse parseMat
  rw [hh.major, h1, h2, getXMat_pack]
  rfl

theorem msolvu (o : OpG) (x : XMat) : Statement (.msolvu o x) := by
  intro g
  obtain ⟨hh, h1, h2⟩ := packG_spec g 55 4 o (by decide) (by decide)
  refine of (i := .msolvu o x) (w := packG g 55 4 o) (ws := [x.pack]) rfl hh (fun hf => ?_) rfl
  show parse (packG g 55 4 o) x.pack = _
  unfold parse parseMat
  rw [hh.major, h1, h2, getXMat_pack]
  rfl

theorem mpow (o : OpG) (x : XMat) : Statement (.mpow o x) := by
  intro g
  obtain ⟨hh, h1, h2⟩ := packG_spec g 55 5 o (by decide) (by decide)
  refine of (i := .mpow o x) (w := packG g 55 5 o) (ws := [x.pack]) rfl hh (fun hf => ?_) rfl
  show parse (packG g 55 5 o) x.pack = _
  unfold parse parseMat
  rw [hh.major, h1, h2, getXMat_pack]
  rfl

theorem mdet (o : OpG) (x : XMat) : Statement (.mdet o x) := by
  intro g
  obtain ⟨hh, h1, h2⟩ := packG_spec g 55 6 o (by decide) (by decide)
  refine of (i := .mdet o x) (w := packG g 55 6 o) (ws := [x.pack]) rfl hh (fun hf => ?_) rfl
  show parse (packG g 55 6 o) x.pack = _
  unfold parse parseMat
  rw [hh.major, h1, h2, getXMat_pack]
  rfl

theorem topkIns (o : OpG) (x : XMat) : Statement (.topkIns o x) := by
  intro g
  obtain ⟨hh, h1, h2⟩ := packG_spec g 56 0 o (by decide) (by decide)
  refine of (i := .topkIns o x) (w := packG g 56 0 o) (ws := [x.pack]) rfl hh (fun hf => ?_) rfl
  show parse (packG g 56 0 o) x.pack = _
  unfold parse parseMat
  rw [hh.major, h1, h2, getXMat_pack]
  rfl

theorem topkGet (o : OpG) (x : XMat) : Statement (.topkGet o x) := by
  intro g
  obtain ⟨hh, h1, h2⟩ := packG_spec g 56 1 o (by decide) (by decide)
  refine of (i := .topkGet o x) (w := packG g 56 1 o) (ws := [x.pack]) rfl hh (fun hf => ?_) rfl
  show parse (packG g 56 1 o) x.pack = _
  unfold parse parseMat
  rw [hh.major, h1, h2, getXMat_pack]
  rfl

theorem topkClr (o : OpG) (x : XMat) : Statement (.topkClr o x) := by
  intro g
  obtain ⟨hh, h1, h2⟩ := packG_spec g 56 2 o (by decide) (by decide)
  refine of (i := .topkClr o x) (w := packG g 56 2 o) (ws := [x.pack]) rfl hh (fun hf => ?_) rfl
  show parse (packG g 56 2 o) x.pack = _
  unfold parse parseMat
  rw [hh.major, h1, h2, getXMat_pack]
  rfl

theorem ldG (o : OpG) (x : XMem) : Statement (.ldG o x) := by
  intro g
  obtain ⟨hh, h1, h2⟩ := packG_spec g 64 0 o (by decide) (by decide)
  refine of (i := .ldG o x) (w := packG g 64 0 o) (ws := [x.pack]) rfl hh (fun hf => ?_) rfl
  show parse (packG g 64 0 o) x.pack = _
  unfold parse parseMem
  rw [hh.major, h1, h2, getXMem_pack]
  rfl

theorem ldL (o : OpG) (x : XMem) : Statement (.ldL o x) := by
  intro g
  obtain ⟨hh, h1, h2⟩ := packG_spec g 64 1 o (by decide) (by decide)
  refine of (i := .ldL o x) (w := packG g 64 1 o) (ws := [x.pack]) rfl hh (fun hf => ?_) rfl
  show parse (packG g 64 1 o) x.pack = _
  unfold parse parseMem
  rw [hh.major, h1, h2, getXMem_pack]
  rfl

theorem ldP (o : OpG) (x : XMem) : Statement (.ldP o x) := by
  intro g
  obtain ⟨hh, h1, h2⟩ := packG_spec g 64 2 o (by decide) (by decide)
  refine of (i := .ldP o x) (w := packG g 64 2 o) (ws := [x.pack]) rfl hh (fun hf => ?_) rfl
  show parse (packG g 64 2 o) x.pack = _
  unfold parse parseMem
  rw [hh.major, h1, h2, getXMem_pack]
  rfl

theorem ldC (o : OpG) (x : XMem) : Statement (.ldC o x) := by
  intro g
  obtain ⟨hh, h1, h2⟩ := packG_spec g 64 3 o (by decide) (by decide)
  refine of (i := .ldC o x) (w := packG g 64 3 o) (ws := [x.pack]) rfl hh (fun hf => ?_) rfl
  show parse (packG g 64 3 o) x.pack = _
  unfold parse parseMem
  rw [hh.major, h1, h2, getXMem_pack]
  rfl

theorem stG (o : OpG) (x : XMem) : Statement (.stG o x) := by
  intro g
  obtain ⟨hh, h1, h2⟩ := packG_spec g 65 0 o (by decide) (by decide)
  refine of (i := .stG o x) (w := packG g 65 0 o) (ws := [x.pack]) rfl hh (fun hf => ?_) rfl
  show parse (packG g 65 0 o) x.pack = _
  unfold parse parseMem
  rw [hh.major, h1, h2, getXMem_pack]
  rfl

theorem stL (o : OpG) (x : XMem) : Statement (.stL o x) := by
  intro g
  obtain ⟨hh, h1, h2⟩ := packG_spec g 65 1 o (by decide) (by decide)
  refine of (i := .stL o x) (w := packG g 65 1 o) (ws := [x.pack]) rfl hh (fun hf => ?_) rfl
  show parse (packG g 65 1 o) x.pack = _
  unfold parse parseMem
  rw [hh.major, h1, h2, getXMem_pack]
  rfl

theorem stP (o : OpG) (x : XMem) : Statement (.stP o x) := by
  intro g
  obtain ⟨hh, h1, h2⟩ := packG_spec g 65 2 o (by decide) (by decide)
  refine of (i := .stP o x) (w := packG g 65 2 o) (ws := [x.pack]) rfl hh (fun hf => ?_) rfl
  show parse (packG g 65 2 o) x.pack = _
  unfold parse parseMem
  rw [hh.major, h1, h2, getXMem_pack]
  rfl

theorem stGw (o : OpG) (x : XMem) : Statement (.stGw o x) := by
  intro g
  obtain ⟨hh, h1, h2⟩ := packG_spec g 65 3 o (by decide) (by decide)
  refine of (i := .stGw o x) (w := packG g 65 3 o) (ws := [x.pack]) rfl hh (fun hf => ?_) rfl
  show parse (packG g 65 3 o) x.pack = _
  unfold parse parseMem
  rw [hh.major, h1, h2, getXMem_pack]
  rfl

theorem atom (o : OpG) (x : XAtm) : Statement (.atom o x) := by
  intro g
  obtain ⟨hh, h1, h2⟩ := packG_spec g 66 0 o (by decide) (by decide)
  refine of (i := .atom o x) (w := packG g 66 0 o) (ws := [x.pack]) rfl hh (fun hf => ?_) rfl
  show parse (packG g 66 0 o) x.pack = _
  unfold parse parseMem
  rw [hh.major, h1, h2, getXAtm_pack]
  rfl

theorem red (o : OpG) (x : XAtm) : Statement (.red o x) := by
  intro g
  obtain ⟨hh, h1, h2⟩ := packG_spec g 66 1 o (by decide) (by decide)
  refine of (i := .red o x) (w := packG g 66 1 o) (ws := [x.pack]) rfl hh (fun hf => ?_) rfl
  show parse (packG g 66 1 o) x.pack = _
  unfold parse parseMem
  rw [hh.major, h1, h2, getXAtm_pack]
  rfl

theorem atomL (o : OpG) (x : XAtm) : Statement (.atomL o x) := by
  intro g
  obtain ⟨hh, h1, h2⟩ := packG_spec g 66 2 o (by decide) (by decide)
  refine of (i := .atomL o x) (w := packG g 66 2 o) (ws := [x.pack]) rfl hh (fun hf => ?_) rfl
  show parse (packG g 66 2 o) x.pack = _
  unfold parse parseMem
  rw [hh.major, h1, h2, getXAtm_pack]
  rfl

theorem redL (o : OpG) (x : XAtm) : Statement (.redL o x) := by
  intro g
  obtain ⟨hh, h1, h2⟩ := packG_spec g 66 3 o (by decide) (by decide)
  refine of (i := .redL o x) (w := packG g 66 3 o) (ws := [x.pack]) rfl hh (fun hf => ?_) rfl
  show parse (packG g 66 3 o) x.pack = _
  unfold parse parseMem
  rw [hh.major, h1, h2, getXAtm_pack]
  rfl

theorem ldf (o : OpG) (x : XMem) : Statement (.ldf o x) := by
  intro g
  obtain ⟨hh, h1, h2⟩ := packG_spec g 67 0 o (by decide) (by decide)
  refine of (i := .ldf o x) (w := packG g 67 0 o) (ws := [x.pack]) rfl hh (fun hf => ?_) rfl
  show parse (packG g 67 0 o) x.pack = _
  unfold parse parseMem
  rw [hh.major, h1, h2, getXMem_pack]
  rfl

theorem stf (o : OpG) (x : XMem) : Statement (.stf o x) := by
  intro g
  obtain ⟨hh, h1, h2⟩ := packG_spec g 68 0 o (by decide) (by decide)
  refine of (i := .stf o x) (w := packG g 68 0 o) (ws := [x.pack]) rfl hh (fun hf => ?_) rfl
  show parse (packG g 68 0 o) x.pack = _
  unfold parse parseMem
  rw [hh.major, h1, h2, getXMem_pack]
  rfl

theorem fence (o : OpG) (x : XFence) : Statement (.fence o x) := by
  intro g
  obtain ⟨hh, h1, h2⟩ := packG_spec g 69 0 o (by decide) (by decide)
  refine of (i := .fence o x) (w := packG g 69 0 o) (ws := [x.pack]) rfl hh (fun hf => ?_) rfl
  show parse (packG g 69 0 o) x.pack = _
  unfold parse parseMem
  rw [hh.major, h1, h2, getXFence_pack]
  rfl

theorem pfence (o : OpG) (x : XFence) : Statement (.pfence o x) := by
  intro g
  obtain ⟨hh, h1, h2⟩ := packG_spec g 69 1 o (by decide) (by decide)
  refine of (i := .pfence o x) (w := packG g 69 1 o) (ws := [x.pack]) rfl hh (fun hf => ?_) rfl
  show parse (packG g 69 1 o) x.pack = _
  unfold parse parseMem
  rw [hh.major, h1, h2, getXFence_pack]
  rfl

theorem wback (o : OpG) (x : XMem) : Statement (.wback o x) := by
  intro g
  obtain ⟨hh, h1, h2⟩ := packG_spec g 69 2 o (by decide) (by decide)
  refine of (i := .wback o x) (w := packG g 69 2 o) (ws := [x.pack]) rfl hh (fun hf => ?_) rfl
  show parse (packG g 69 2 o) x.pack = _
  unfold parse parseMem
  rw [hh.major, h1, h2, getXMem_pack]
  rfl

theorem smp (o : OpG) (x : XMem) : Statement (.smp o x) := by
  intro g
  obtain ⟨hh, h1, h2⟩ := packG_spec g 70 0 o (by decide) (by decide)
  refine of (i := .smp o x) (w := packG g 70 0 o) (ws := [x.pack]) rfl hh (fun hf => ?_) rfl
  show parse (packG g 70 0 o) x.pack = _
  unfold parse parseMem
  rw [hh.major, h1, h2, getXMem_pack]
  rfl

theorem ldt (o : OpG) (x : XMem) : Statement (.ldt o x) := by
  intro g
  obtain ⟨hh, h1, h2⟩ := packG_spec g 71 0 o (by decide) (by decide)
  refine of (i := .ldt o x) (w := packG g 71 0 o) (ws := [x.pack]) rfl hh (fun hf => ?_) rfl
  show parse (packG g 71 0 o) x.pack = _
  unfold parse parseMem
  rw [hh.major, h1, h2, getXMem_pack]
  rfl

theorem binit (o : OpG) (x : XBar) : Statement (.binit o x) := by
  intro g
  obtain ⟨hh, h1, h2⟩ := packG_spec g 72 0 o (by decide) (by decide)
  refine of (i := .binit o x) (w := packG g 72 0 o) (ws := [x.pack]) rfl hh (fun hf => ?_) rfl
  show parse (packG g 72 0 o) x.pack = _
  unfold parse parseMem
  rw [hh.major, h1, h2, getXBar_pack]
  rfl

theorem barv (o : OpG) (x : XBar) : Statement (.barv o x) := by
  intro g
  obtain ⟨hh, h1, h2⟩ := packG_spec g 72 1 o (by decide) (by decide)
  refine of (i := .barv o x) (w := packG g 72 1 o) (ws := [x.pack]) rfl hh (fun hf => ?_) rfl
  show parse (packG g 72 1 o) x.pack = _
  unfold parse parseMem
  rw [hh.major, h1, h2, getXBar_pack]
  rfl

theorem bexp (o : OpG) (x : XBar) : Statement (.bexp o x) := by
  intro g
  obtain ⟨hh, h1, h2⟩ := packG_spec g 72 2 o (by decide) (by decide)
  refine of (i := .bexp o x) (w := packG g 72 2 o) (ws := [x.pack]) rfl hh (fun hf => ?_) rfl
  show parse (packG g 72 2 o) x.pack = _
  unfold parse parseMem
  rw [hh.major, h1, h2, getXBar_pack]
  rfl

theorem bwait (o : OpG) (x : XBar) : Statement (.bwait o x) := by
  intro g
  obtain ⟨hh, h1, h2⟩ := packG_spec g 72 3 o (by decide) (by decide)
  refine of (i := .bwait o x) (w := packG g 72 3 o) (ws := [x.pack]) rfl hh (fun hf => ?_) rfl
  show parse (packG g 72 3 o) x.pack = _
  unfold parse parseMem
  rw [hh.major, h1, h2, getXBar_pack]
  rfl

theorem btest (o : OpG) (x : XBar) : Statement (.btest o x) := by
  intro g
  obtain ⟨hh, h1, h2⟩ := packG_spec g 72 4 o (by decide) (by decide)
  refine of (i := .btest o x) (w := packG g 72 4 o) (ws := [x.pack]) rfl hh (fun hf => ?_) rfl
  show parse (packG g 72 4 o) x.pack = _
  unfold parse parseMem
  rw [hh.major, h1, h2, getXBar_pack]
  rfl

theorem barvx (o : OpG) (x : XBar) : Statement (.barvx o x) := by
  intro g
  obtain ⟨hh, h1, h2⟩ := packG_spec g 72 5 o (by decide) (by decide)
  refine of (i := .barvx o x) (w := packG g 72 5 o) (ws := [x.pack]) rfl hh (fun hf => ?_) rfl
  show parse (packG g 72 5 o) x.pack = _
  unfold parse parseMem
  rw [hh.major, h1, h2, getXBar_pack]
  rfl

theorem mark (o : OpG) (x : XMark) : Statement (.mark o x) := by
  intro g
  obtain ⟨hh, h1, h2⟩ := packG_spec g 73 0 o (by decide) (by decide)
  refine of (i := .mark o x) (w := packG g 73 0 o) (ws := [x.pack]) rfl hh (fun hf => ?_) rfl
  show parse (packG g 73 0 o) x.pack = _
  unfold parse parseMem
  rw [hh.major, h1, h2, getXMark_pack]
  rfl

theorem unmark (o : OpG) (x : XMark) : Statement (.unmark o x) := by
  intro g
  obtain ⟨hh, h1, h2⟩ := packG_spec g 73 1 o (by decide) (by decide)
  refine of (i := .unmark o x) (w := packG g 73 1 o) (ws := [x.pack]) rfl hh (fun hf => ?_) rfl
  show parse (packG g 73 1 o) x.pack = _
  unfold parse parseMem
  rw [hh.major, h1, h2, getXMark_pack]
  rfl

theorem frog (o : OpG) (x : XMark) : Statement (.frog o x) := by
  intro g
  obtain ⟨hh, h1, h2⟩ := packG_spec g 73 2 o (by decide) (by decide)
  refine of (i := .frog o x) (w := packG g 73 2 o) (ws := [x.pack]) rfl hh (fun hf => ?_) rfl
  show parse (packG g 73 2 o) x.pack = _
  unfold parse parseMem
  rw [hh.major, h1, h2, getXMark_pack]
  rfl

theorem frogq (o : OpG) (x : XMark) : Statement (.frogq o x) := by
  intro g
  obtain ⟨hh, h1, h2⟩ := packG_spec g 73 3 o (by decide) (by decide)
  refine of (i := .frogq o x) (w := packG g 73 3 o) (ws := [x.pack]) rfl hh (fun hf => ?_) rfl
  show parse (packG g 73 3 o) x.pack = _
  unfold parse parseMem
  rw [hh.major, h1, h2, getXMark_pack]
  rfl

theorem pref (o : OpG) (x : XMem) : Statement (.pref o x) := by
  intro g
  obtain ⟨hh, h1, h2⟩ := packG_spec g 74 0 o (by decide) (by decide)
  refine of (i := .pref o x) (w := packG g 74 0 o) (ws := [x.pack]) rfl hh (fun hf => ?_) rfl
  show parse (packG g 74 0 o) x.pack = _
  unfold parse parseMem
  rw [hh.major, h1, h2, getXMem_pack]
  rfl

theorem cpyGl (o : OpG) (x : XAsy) : Statement (.cpyGl o x) := by
  intro g
  obtain ⟨hh, h1, h2⟩ := packG_spec g 80 0 o (by decide) (by decide)
  refine of (i := .cpyGl o x) (w := packG g 80 0 o) (ws := [x.pack]) rfl hh (fun hf => ?_) rfl
  show parse (packG g 80 0 o) x.pack = _
  unfold parse parseSys
  rw [hh.major, h1, h2, getXAsy_pack]
  rfl

theorem cpyLg (o : OpG) (x : XAsy) : Statement (.cpyLg o x) := by
  intro g
  obtain ⟨hh, h1, h2⟩ := packG_spec g 80 1 o (by decide) (by decide)
  refine of (i := .cpyLg o x) (w := packG g 80 1 o) (ws := [x.pack]) rfl hh (fun hf => ?_) rfl
  show parse (packG g 80 1 o) x.pack = _
  unfold parse parseSys
  rw [hh.major, h1, h2, getXAsy_pack]
  rfl

theorem cpyt (o : OpG) (x : XAsy) : Statement (.cpyt o x) := by
  intro g
  obtain ⟨hh, h1, h2⟩ := packG_spec g 80 2 o (by decide) (by decide)
  refine of (i := .cpyt o x) (w := packG g 80 2 o) (ws := [x.pack]) rfl hh (fun hf => ?_) rfl
  show parse (packG g 80 2 o) x.pack = _
  have hx := (fld_pack_len x).2 (by simpa [Instr.formOk] using hf)
  unfold parse parseSys
  rw [hh.major, h1, h2, getXAsy_pack]
  exact if_pos hx

theorem cpytG (o : OpG) (x : XAsy) : Statement (.cpytG o x) := by
  intro g
  obtain ⟨hh, h1, h2⟩ := packG_spec g 80 2 o (by decide) (by decide)
  refine of (i := .cpytG o x) (w := packG g 80 2 o) (ws := [x.pack]) rfl hh (fun hf => ?_) rfl
  show parse (packG g 80 2 o) x.pack = _
  have hx := mt (fld_pack_len x).1 (by simpa [Instr.formOk] using hf)
  unfold parse parseSys
  rw [hh.major, h1, h2, getXAsy_pack]
  exact if_neg hx

theorem cpym (o : OpG) (x : XAsy) : Statement (.cpym o x) := by
  intro g
  obtain ⟨hh, h1, h2⟩ := packG_spec g 80 3 o (by decide) (by decide)
  refine of (i := .cpym o x) (w := packG g 80 3 o) (ws := [x.pack]) rfl hh (fun hf => ?_) rfl
  show parse (packG g 80 3 o) x.pack = _
  unfold parse parseSys
  rw [hh.major, h1, h2, getXAsy_pack]
  rfl

theorem cpyg (o : OpG) (x : XAsy) : Statement (.cpyg o x) := by
  intro g
  obtain ⟨hh, h1, h2⟩ := packG_spec g 80 4 o (by decide) (by decide)
  refine of (i := .cpyg o x) (w := packG g 80 4 o) (ws := [x.pack]) rfl hh (fun hf => ?_) rfl
  show parse (packG g 80 4 o) x.pack = _
  unfold parse parseSys
  rw [hh.major, h1, h2, getXAsy_pack]
  rfl

theorem cdrain (o : OpG) (x : XAsy) : Statement (.cdrain o x) := by
  intro g
  obtain ⟨hh, h1, h2⟩ := packG_spec g 80 5 o (by decide) (by decide)
  refine of (i := .cdrain o x) (w := packG g 80 5 o) (ws := [x.pack]) rfl hh (fun hf => ?_) rfl
  show parse (packG g 80 5 o) x.pack = _
  unfold parse parseSys
  rw [hh.major, h1, h2, getXAsy_pack]
  rfl

theorem qapp (o : OpG) (x : XAsy) : Statement (.qapp o x) := by
  intro g
  obtain ⟨hh, h1, h2⟩ := packG_spec g 81 0 o (by decide) (by decide)
  refine of (i := .qapp o x) (w := packG g 81 0 o) (ws := [x.pack]) rfl hh (fun hf => ?_) rfl
  show parse (packG g 81 0 o) x.pack = _
  unfold parse parseSys
  rw [hh.major, h1, h2, getXAsy_pack]
  rfl

theorem launch (o : OpG) (x : XAsy) : Statement (.launch o x) := by
  intro g
  obtain ⟨hh, h1, h2⟩ := packG_spec g 82 0 o (by decide) (by decide)
  refine of (i := .launch o x) (w := packG g 82 0 o) (ws := [x.pack]) rfl hh (fun hf => ?_) rfl
  show parse (packG g 82 0 o) x.pack = _
  unfold parse parseSys
  rw [hh.major, h1, h2, getXAsy_pack]
  rfl

theorem rapp (o : OpG) (x : XAsy) : Statement (.rapp o x) := by
  intro g
  obtain ⟨hh, h1, h2⟩ := packG_spec g 84 0 o (by decide) (by decide)
  refine of (i := .rapp o x) (w := packG g 84 0 o) (ws := [x.pack]) rfl hh (fun hf => ?_) rfl
  show parse (packG g 84 0 o) x.pack = _
  unfold parse parseSys
  rw [hh.major, h1, h2, getXAsy_pack]
  rfl

theorem wmadv (o : OpG) (x : XAsy) : Statement (.wmadv o x) := by
  intro g
  obtain ⟨hh, h1, h2⟩ := packG_spec g 85 0 o (by decide) (by decide)
  refine of (i := .wmadv o x) (w := packG g 85 0 o) (ws := [x.pack]) rfl hh (fun hf => ?_) rfl
  show parse (packG g 85 0 o) x.pack = _
  unfold parse parseSys
  rw [hh.major, h1, h2, getXAsy_pack]
  rfl

theorem sclose (o : OpG) (x : XAsy) : Statement (.sclose o x) := by
  intro g
  obtain ⟨hh, h1, h2⟩ := packG_spec g 85 1 o (by decide) (by decide)
  refine of (i := .sclose o x) (w := packG g 85 1 o) (ws := [x.pack]) rfl hh (fun hf => ?_) rfl
  show parse (packG g 85 1 o) x.pack = _
  unfold parse parseSys
  rw [hh.major, h1, h2, getXAsy_pack]
  rfl

theorem wpub (o : OpG) (x : XAsy) : Statement (.wpub o x) := by
  intro g
  obtain ⟨hh, h1, h2⟩ := packG_spec g 86 0 o (by decide) (by decide)
  refine of (i := .wpub o x) (w := packG g 86 0 o) (ws := [x.pack]) rfl hh (fun hf => ?_) rfl
  show parse (packG g 86 0 o) x.pack = _
  unfold parse parseSys
  rw [hh.major, h1, h2, getXAsy_pack]
  rfl

theorem wpubAmend (o : OpG) (x : XAsy) : Statement (.wpubAmend o x) := by
  intro g
  obtain ⟨hh, h1, h2⟩ := packG_spec g 86 1 o (by decide) (by decide)
  refine of (i := .wpubAmend o x) (w := packG g 86 1 o) (ws := [x.pack]) rfl hh (fun hf => ?_) rfl
  show parse (packG g 86 1 o) x.pack = _
  unfold parse parseSys
  rw [hh.major, h1, h2, getXAsy_pack]
  rfl

theorem bra (o : OpJ) : Statement (.bra o) := by
  intro g
  obtain ⟨hh, h1⟩ := packJ_spec g 96 o (by decide)
  refine of (i := .bra o) (w := packJ g 96 o) (ws := []) rfl hh (fun hf => ?_) rfl
  show parse (packJ g 96 o) 0 = _
  unfold parse parseSys
  rw [hh.major, h1]
  rfl

theorem brd (o : OpB) : Statement (.brd o) := by
  intro g
  obtain ⟨hh, h1, h2⟩ := packB_spec g o
  refine of (i := .brd o) (w := packB g o) (ws := [o.j]) rfl hh (fun hf => ?_) rfl
  show parse (packB g o) o.j = _
  unfold parse parseSys
  rw [hh.major, h1, h2]
  rfl

theorem brx (o : OpG) : Statement (.brx o) := by
  intro g
  obtain ⟨hh, h1, h2⟩ := packG_spec g 98 0 o (by decide) (by decide)
  refine of (i := .brx o) (w := packG g 98 0 o) (ws := []) rfl hh (fun hf => ?_) rfl
  show parse (packG g 98 0 o) 0 = _
  unfold parse parseSys
  rw [hh.major, h1, h2]
  rfl

theorem callx (o : OpG) : Statement (.callx o) := by
  intro g
  obtain ⟨hh, h1, h2⟩ := packG_spec g 98 1 o (by decide) (by decide)
  refine of (i := .callx o) (w := packG g 98 1 o) (ws := []) rfl hh (fun hf => ?_) rfl
  show parse (packG g 98 1 o) 0 = _
  unfold parse parseSys
  rw [hh.major, h1, h2]
  rfl

theorem call (o : OpJ) : Statement (.call o) := by
  intro g
  obtain ⟨hh, h1⟩ := packJ_spec g 99 o (by decide)
  refine of (i := .call o) (w := packJ g 99 o) (ws := []) rfl hh (fun hf => ?_) rfl
  show parse (packJ g 99 o) 0 = _
  unfold parse parseSys
  rw [hh.major, h1]
  rfl

theorem ret (o : OpU) : Statement (.ret o) := by
  intro g
  obtain ⟨hh, h1, h2, h3⟩ := packU_spec g 100 0 o (by decide) (by decide)
  refine of (i := .ret o) (w := packU g 100 0 o) (ws := []) rfl hh (fun hf => ?_) rfl
  show parse (packU g 100 0 o) 0 = _
  unfold parse parseSys
  rw [hh.major, h1, h3]
  exact if_pos h2

theorem rgive (o : OpG) : Statement (.rgive o) := by
  intro g
  obtain ⟨hh, h1, h2⟩ := packG_spec g 105 0 o (by decide) (by decide)
  refine of (i := .rgive o) (w := packG g 105 0 o) (ws := []) rfl hh (fun hf => ?_) rfl
  show parse (packG g 105 0 o) 0 = _
  unfold parse parseSys
  rw [hh.major, h1, h2]
  rfl

theorem rclaim (o : OpG) : Statement (.rclaim o) := by
  intro g
  obtain ⟨hh, h1, h2⟩ := packG_spec g 105 1 o (by decide) (by decide)
  refine of (i := .rclaim o) (w := packG g 105 1 o) (ws := []) rfl hh (fun hf => ?_) rfl
  show parse (packG g 105 1 o) 0 = _
  unfold parse parseSys
  rw [hh.major, h1, h2]
  rfl

theorem srd (o : OpU) (ix : BitVec 6) : Statement (.srd o ix) := by
  intro g
  obtain ⟨hh, h1, h2, h3⟩ := packU_spec g 112 ix.toNat o (by decide) ix.isLt
  refine of (i := .srd o ix) (w := packU g 112 ix.toNat o) (ws := []) rfl hh (fun hf => ?_) rfl
  show parse (packU g 112 ix.toNat o) 0 = _
  have hx : fld (packU g 112 ix.toNat o) 3 6 = ix := by
    have := ix.isLt
    refine fld_eq _ _ _ ?_
    have h := h1
    unfold fnUOf at h
    omega
  unfold parse parseSys
  rw [hh.major, h3, hx]
  exact if_pos h2

theorem swr (o : OpU) (ix : BitVec 6) : Statement (.swr o ix) := by
  intro g
  obtain ⟨hh, h1, h2, h3⟩ := packU_spec g 113 ix.toNat o (by decide) ix.isLt
  refine of (i := .swr o ix) (w := packU g 113 ix.toNat o) (ws := []) rfl hh (fun hf => ?_) rfl
  show parse (packU g 113 ix.toNat o) 0 = _
  have hx : fld (packU g 113 ix.toNat o) 3 6 = ix := by
    have := ix.isLt
    refine fld_eq _ _ _ ?_
    have h := h1
    unfold fnUOf at h
    omega
  unfold parse parseSys
  rw [hh.major, h3, hx]
  exact if_pos h2

theorem trap (o : OpI) : Statement (.trap o) := by
  intro g
  obtain ⟨hh, h1, h2⟩ := packI_spec g 114 o (by decide)
  refine of (i := .trap o) (w := packI g 114 o) (ws := []) rfl hh (fun hf => ?_) rfl
  show parse (packI g 114 o) 0 = _
  simp only [Instr.formOk, decide_eq_true_eq] at hf
  unfold parse parseSys
  rw [hh.major, h1, h2]
  exact (if_neg hf.2).trans (if_neg hf.1)

theorem trapReturn (o : OpI) : Statement (.trapReturn o) := by
  intro g
  obtain ⟨hh, h1, h2⟩ := packI_spec g 114 o (by decide)
  refine of (i := .trapReturn o) (w := packI g 114 o) (ws := []) rfl hh (fun hf => ?_) rfl
  show parse (packI g 114 o) 0 = _
  simp only [Instr.formOk, decide_eq_true_eq] at hf
  unfold parse parseSys
  rw [hh.major, h1, h2]
  exact if_pos hf

theorem trapTerminate (o : OpI) : Statement (.trapTerminate o) := by
  intro g
  obtain ⟨hh, h1, h2⟩ := packI_spec g 114 o (by decide)
  refine of (i := .trapTerminate o) (w := packI g 114 o) (ws := []) rfl hh (fun hf => ?_) rfl
  show parse (packI g 114 o) 0 = _
  simp only [Instr.formOk, decide_eq_true_eq] at hf
  unfold parse parseSys
  rw [hh.major, h1, h2]
  have hn : ¬ o.imm = 511 := by rw [hf]; decide
  exact (if_neg hn).trans (if_pos hf)

theorem tlbinvAll (o : OpG) (x : XTlb) : Statement (.tlbinvAll o x) := by
  intro g
  obtain ⟨hh, h1, h2⟩ := packG_spec g 117 0 o (by decide) (by decide)
  refine of (i := .tlbinvAll o x) (w := packG g 117 0 o) (ws := [x.pack 0]) rfl hh (fun hf => ?_) rfl
  show parse (packG g 117 0 o) (x.pack 0) = _
  obtain ⟨hx, hk⟩ := getXTlb_pack 0 x (by decide)
  unfold parse parseSys
  rw [hh.major, h1, h2, hk, hx]
  rfl

theorem tlbinvAsid (o : OpG) (x : XTlb) : Statement (.tlbinvAsid o x) := by
  intro g
  obtain ⟨hh, h1, h2⟩ := packG_spec g 117 0 o (by decide) (by decide)
  refine of (i := .tlbinvAsid o x) (w := packG g 117 0 o) (ws := [x.pack 1]) rfl hh (fun hf => ?_) rfl
  show parse (packG g 117 0 o) (x.pack 1) = _
  obtain ⟨hx, hk⟩ := getXTlb_pack 1 x (by decide)
  unfold parse parseSys
  rw [hh.major, h1, h2, hk, hx]
  rfl

theorem tlbinvPage (o : OpG) (x : XTlb) : Statement (.tlbinvPage o x) := by
  intro g
  obtain ⟨hh, h1, h2⟩ := packG_spec g 117 0 o (by decide) (by decide)
  refine of (i := .tlbinvPage o x) (w := packG g 117 0 o) (ws := [x.pack 2]) rfl hh (fun hf => ?_) rfl
  show parse (packG g 117 0 o) (x.pack 2) = _
  obtain ⟨hx, hk⟩ := getXTlb_pack 2 x (by decide)
  unfold parse parseSys
  rw [hh.major, h1, h2, hk, hx]
  rfl

theorem tlbinvGpage (o : OpG) (x : XTlb) : Statement (.tlbinvGpage o x) := by
  intro g
  obtain ⟨hh, h1, h2⟩ := packG_spec g 117 0 o (by decide) (by decide)
  refine of (i := .tlbinvGpage o x) (w := packG g 117 0 o) (ws := [x.pack 3]) rfl hh (fun hf => ?_) rfl
  show parse (packG g 117 0 o) (x.pack 3) = _
  obtain ⟨hx, hk⟩ := getXTlb_pack 3 x (by decide)
  unfold parse parseSys
  rw [hh.major, h1, h2, hk, hx]
  rfl

theorem imad24I24 (o : OpR) : Statement (.imad24I24 o) := by
  intro g
  obtain ⟨hh, h1, h2⟩ := packR_spec g 124 0 o (by decide) (by decide)
  refine of (i := .imad24I24 o) (w := packR g 124 0 o) (ws := []) rfl hh (fun hf => ?_) rfl
  show parse (packR g 124 0 o) 0 = _
  unfold parse parseOld
  rw [hh.major, h1, h2]
  rfl

theorem imad24N24 (o : OpR) : Statement (.imad24N24 o) := by
  intro g
  obtain ⟨hh, h1, h2⟩ := packR_spec g 124 1 o (by decide) (by decide)
  refine of (i := .imad24N24 o) (w := packR g 124 1 o) (ws := []) rfl hh (fun hf => ?_) rfl
  show parse (packR g 124 1 o) 0 = _
  unfold parse parseOld
  rw [hh.major, h1, h2]
  rfl

theorem dot4i8I8 (o : OpG) : Statement (.dot4i8I8 o) := by
  intro g
  obtain ⟨hh, h1, h2⟩ := packG_spec g 125 0 o (by decide) (by decide)
  refine of (i := .dot4i8I8 o) (w := packG g 125 0 o) (ws := []) rfl hh (fun hf => ?_) rfl
  show parse (packG g 125 0 o) 0 = _
  unfold parse parseOld
  rw [hh.major, h1, h2]
  rfl

theorem dot4i8N8 (o : OpG) : Statement (.dot4i8N8 o) := by
  intro g
  obtain ⟨hh, h1, h2⟩ := packG_spec g 125 1 o (by decide) (by decide)
  refine of (i := .dot4i8N8 o) (w := packG g 125 1 o) (ws := []) rfl hh (fun hf => ?_) rfl
  show parse (packG g 125 1 o) 0 = _
  unfold parse parseOld
  rw [hh.major, h1, h2]
  rfl

theorem ldro (o : OpG) (x : XMem) : Statement (.ldro o x) := by
  intro g
  obtain ⟨hh, h1, h2⟩ := packG_spec g 126 0 o (by decide) (by decide)
  refine of (i := .ldro o x) (w := packG g 126 0 o) (ws := [x.pack]) rfl hh (fun hf => ?_) rfl
  show parse (packG g 126 0 o) x.pack = _
  unfold parse parseOld
  rw [hh.major, h1, h2, getXMem_pack]
  rfl

theorem succ : Statement (.succ) := by
  intro g
  obtain ⟨hh, h1, h2, h3⟩ := packU_spec g 83 0 (⟨0, 0, 0⟩ : OpU) (by decide) (by decide)
  refine of (i := .succ) (w := packU g 83 0 (⟨0, 0, 0⟩ : OpU)) (ws := []) rfl hh (fun hf => ?_) rfl
  show parse (packU g 83 0 (⟨0, 0, 0⟩ : OpU)) 0 = _
  unfold parse parseSys
  rw [hh.major, h1]
  exact packU_bare g 83 0 (by decide) _

theorem predw : Statement (.predw) := by
  intro g
  obtain ⟨hh, h1, h2, h3⟩ := packU_spec g 83 1 (⟨0, 0, 0⟩ : OpU) (by decide) (by decide)
  refine of (i := .predw) (w := packU g 83 1 (⟨0, 0, 0⟩ : OpU)) (ws := []) rfl hh (fun hf => ?_) rfl
  show parse (packU g 83 1 (⟨0, 0, 0⟩ : OpU)) 0 = _
  unfold parse parseSys
  rw [hh.major, h1]
  exact packU_bare g 83 1 (by decide) _

theorem exit : Statement (.exit) := by
  intro g
  obtain ⟨hh, h1, h2, h3⟩ := packU_spec g 101 0 (⟨0, 0, 0⟩ : OpU) (by decide) (by decide)
  refine of (i := .exit) (w := packU g 101 0 (⟨0, 0, 0⟩ : OpU)) (ws := []) rfl hh (fun hf => ?_) rfl
  show parse (packU g 101 0 (⟨0, 0, 0⟩ : OpU)) 0 = _
  unfold parse parseSys
  rw [hh.major, h1]
  exact packU_bare g 101 0 (by decide) _

theorem endTeam : Statement (.endTeam) := by
  intro g
  obtain ⟨hh, h1, h2, h3⟩ := packU_spec g 102 0 (⟨0, 0, 0⟩ : OpU) (by decide) (by decide)
  refine of (i := .endTeam) (w := packU g 102 0 (⟨0, 0, 0⟩ : OpU)) (ws := []) rfl hh (fun hf => ?_) rfl
  show parse (packU g 102 0 (⟨0, 0, 0⟩ : OpU)) 0 = _
  unfold parse parseSys
  rw [hh.major, h1]
  exact packU_bare g 102 0 (by decide) _

theorem nop : Statement (.nop) := by
  intro g
  obtain ⟨hh, h1, h2, h3⟩ := packU_spec g 103 0 (⟨0, 0, 0⟩ : OpU) (by decide) (by decide)
  refine of (i := .nop) (w := packU g 103 0 (⟨0, 0, 0⟩ : OpU)) (ws := []) rfl hh (fun hf => ?_) rfl
  show parse (packU g 103 0 (⟨0, 0, 0⟩ : OpU)) 0 = _
  unfold parse parseSys
  rw [hh.major, h1]
  exact packU_bare g 103 0 (by decide) _

theorem yield : Statement (.yield) := by
  intro g
  obtain ⟨hh, h1, h2, h3⟩ := packU_spec g 104 0 (⟨0, 0, 0⟩ : OpU) (by decide) (by decide)
  refine of (i := .yield) (w := packU g 104 0 (⟨0, 0, 0⟩ : OpU)) (ws := []) rfl hh (fun hf => ?_) rfl
  show parse (packU g 104 0 (⟨0, 0, 0⟩ : OpU)) 0 = _
  unfold parse parseSys
  rw [hh.major, h1]
  exact packU_bare g 104 0 (by decide) _

theorem bkpt : Statement (.bkpt) := by
  intro g
  obtain ⟨hh, h1, h2, h3⟩ := packU_spec g 115 0 (⟨0, 0, 0⟩ : OpU) (by decide) (by decide)
  refine of (i := .bkpt) (w := packU g 115 0 (⟨0, 0, 0⟩ : OpU)) (ws := []) rfl hh (fun hf => ?_) rfl
  show parse (packU g 115 0 (⟨0, 0, 0⟩ : OpU)) 0 = _
  unfold parse parseSys
  rw [hh.major, h1]
  exact packU_bare g 115 0 (by decide) _

theorem eret : Statement (.eret) := by
  intro g
  obtain ⟨hh, h1, h2, h3⟩ := packU_spec g 116 0 (⟨0, 0, 0⟩ : OpU) (by decide) (by decide)
  refine of (i := .eret) (w := packU g 116 0 (⟨0, 0, 0⟩ : OpU)) (ws := []) rfl hh (fun hf => ?_) rfl
  show parse (packU g 116 0 (⟨0, 0, 0⟩ : OpU)) 0 = _
  unfold parse parseSys
  rw [hh.major, h1]
  exact packU_bare g 116 0 (by decide) _

theorem clauseStart : Statement (.clauseStart) := fun _ => trivial
theorem flagRelease : Statement (.flagRelease) := fun _ => trivial
theorem joinArrival : Statement (.joinArrival) := fun _ => trivial
theorem teamSwap : Statement (.teamSwap) := fun _ => trivial
theorem forcedSwap : Statement (.forcedSwap) := fun _ => trivial
theorem leaveGrant : Statement (.leaveGrant) := fun _ => trivial
theorem droopStep : Statement (.droopStep) := fun _ => trivial
theorem watchdogExpiry : Statement (.watchdogExpiry) := fun _ => trivial
theorem trapDelivery : Statement (.trapDelivery) := fun _ => trivial
theorem retiredOpcodeEmulation : Statement (.retiredOpcodeEmulation) := fun _ => trivial
theorem groupPreemption : Statement (.groupPreemption) := fun _ => trivial
theorem groupResumption : Statement (.groupResumption) := fun _ => trivial
theorem priorityPreemption : Statement (.priorityPreemption) := fun _ => trivial
theorem groupDispatch : Statement (.groupDispatch) := fun _ => trivial
theorem gridCompletion : Statement (.gridCompletion) := fun _ => trivial
theorem predecessorArrival : Statement (.predecessorArrival) := fun _ => trivial
theorem queuePoll : Statement (.queuePoll) := fun _ => trivial
theorem packetLaunch : Statement (.packetLaunch) := fun _ => trivial
theorem packetCopy : Statement (.packetCopy) := fun _ => trivial
theorem packetSignal : Statement (.packetSignal) := fun _ => trivial
theorem packetWaitseq : Statement (.packetWaitseq) := fun _ => trivial
theorem waitseqPoll : Statement (.waitseqPoll) := fun _ => trivial
theorem packetWmadv : Statement (.packetWmadv) := fun _ => trivial
theorem packetRecords : Statement (.packetRecords) := fun _ => trivial
theorem packetCompletion : Statement (.packetCompletion) := fun _ => trivial
theorem asyncCompletion : Statement (.asyncCompletion) := fun _ => trivial
theorem copySectorLand : Statement (.copySectorLand) := fun _ => trivial
theorem creelSlotGrant : Statement (.creelSlotGrant) := fun _ => trivial
theorem drainSlotReady : Statement (.drainSlotReady) := fun _ => trivial
theorem queueAppendRoom : Statement (.queueAppendRoom) := fun _ => trivial
theorem homeSliceRead : Statement (.homeSliceRead) := fun _ => trivial
theorem homeSliceWrite : Statement (.homeSliceWrite) := fun _ => trivial
theorem futureCellRead : Statement (.futureCellRead) := fun _ => trivial
theorem deferralExpiry : Statement (.deferralExpiry) := fun _ => trivial
theorem ownershipRequest : Statement (.ownershipRequest) := fun _ => trivial
theorem farAtomic : Statement (.farAtomic) := fun _ => trivial
theorem contendedExpiry : Statement (.contendedExpiry) := fun _ => trivial
theorem rdcInvalidation : Statement (.rdcInvalidation) := fun _ => trivial
theorem rdcFill : Statement (.rdcFill) := fun _ => trivial
theorem softError : Statement (.softError) := fun _ => trivial
theorem patrolScrub : Statement (.patrolScrub) := fun _ => trivial
theorem sweep : Statement (.sweep) := fun _ => trivial
theorem frogInterval : Statement (.frogInterval) := fun _ => trivial
theorem resweepPass : Statement (.resweepPass) := fun _ => trivial
theorem recordPlacement : Statement (.recordPlacement) := fun _ => trivial
theorem stageRecompute : Statement (.stageRecompute) := fun _ => trivial
theorem windowTransit : Statement (.windowTransit) := fun _ => trivial
theorem amendmentLaunch : Statement (.amendmentLaunch) := fun _ => trivial
theorem lateTimerExpiry : Statement (.lateTimerExpiry) := fun _ => trivial
theorem windowFree : Statement (.windowFree) := fun _ => trivial
theorem sourceIdleScan : Statement (.sourceIdleScan) := fun _ => trivial
theorem watermarkPropagation : Statement (.watermarkPropagation) := fun _ => trivial
theorem transportDescriptor : Statement (.transportDescriptor) := fun _ => trivial
theorem frameQueueAppend : Statement (.frameQueueAppend) := fun _ => trivial
theorem frameRemoteWrite : Statement (.frameRemoteWrite) := fun _ => trivial
theorem frameRemoteAtomic : Statement (.frameRemoteAtomic) := fun _ => trivial
theorem frameWatermark : Statement (.frameWatermark) := fun _ => trivial
theorem frameAck : Statement (.frameAck) := fun _ => trivial
theorem frameNack : Statement (.frameNack) := fun _ => trivial
theorem transportAckTimeout : Statement (.transportAckTimeout) := fun _ => trivial
theorem ctxopCreate : Statement (.ctxopCreate) := fun _ => trivial
theorem ctxopReloadScope : Statement (.ctxopReloadScope) := fun _ => trivial
theorem ctxopReloadQueues : Statement (.ctxopReloadQueues) := fun _ => trivial
theorem ctxopReloadStream : Statement (.ctxopReloadStream) := fun _ => trivial
theorem ctxopKill : Statement (.ctxopKill) := fun _ => trivial
theorem killComplete : Statement (.killComplete) := fun _ => trivial
theorem ctxopResume : Statement (.ctxopResume) := fun _ => trivial
theorem ctxopDeliver : Statement (.ctxopDeliver) := fun _ => trivial
theorem ctxopTerminate : Statement (.ctxopTerminate) := fun _ => trivial
theorem ctxopSetTransportRing : Statement (.ctxopSetTransportRing) := fun _ => trivial
theorem ctxopInvalidate : Statement (.ctxopInvalidate) := fun _ => trivial
theorem ctxopUndefined : Statement (.ctxopUndefined) := fun _ => trivial
theorem ntfbaseWrite : Statement (.ntfbaseWrite) := fun _ => trivial
theorem ntftailWrite : Statement (.ntftailWrite) := fun _ => trivial
theorem pwrcapWrite : Statement (.pwrcapWrite) := fun _ => trivial
theorem hwslWrite : Statement (.hwslWrite) := fun _ => trivial
theorem registerWrite : Statement (.registerWrite) := fun _ => trivial
theorem hostWindowRead : Statement (.hostWindowRead) := fun _ => trivial
theorem hostWindowWrite : Statement (.hostWindowWrite) := fun _ => trivial
theorem hostWindowAtomic : Statement (.hostWindowAtomic) := fun _ => trivial
theorem configRequest : Statement (.configRequest) := fun _ => trivial
theorem powerGood : Statement (.powerGood) := fun _ => trivial
theorem mctpControlMessage : Statement (.mctpControlMessage) := fun _ => trivial
theorem readTemperatures : Statement (.readTemperatures) := fun _ => trivial
theorem readPower : Statement (.readPower) := fun _ => trivial
theorem readSoftErrorCounts : Statement (.readSoftErrorCounts) := fun _ => trivial
theorem readIdent : Statement (.readIdent) := fun _ => trivial
theorem faultReport : Statement (.faultReport) := fun _ => trivial
theorem attestationRequest : Statement (.attestationRequest) := fun _ => trivial
theorem illegalInstruction : Statement (.illegalInstruction) := fun _ => trivial
theorem pcieCompletionFromHost : Statement (.pcieCompletionFromHost) := fun _ => trivial

end Sys2Proof.Laws.Parses
end

