-- ==== Sys2Proof/Tests/Slice0.lean ====
section
/-! SUPPORT. Tests: words written out from the spec's encoding tables and what they decode to; terms that the checks of R276
refuse; single steps with results worked out by hand from the spec; and, for the statements with hypotheses, states that meet
them. -/

namespace Sys2Proof.Tests

set_option Elab.async false

open Sys2Proof Sys2Proof.Machine

/-- The words of each pair decode to its instruction, with the guard p7 and nothing left. -/
def readsAs (l : List (List Word × Instr)) : Bool :=
  l.all fun e => match decode e.1 with
    | .ok d => d.guard == { neg := 0, p := 7 } && d.instr == e.2 && d.rest == []
    | .error _ => false

/-- Tables 12-4 to 12-13, 14-2 and 17-5: words written out from the encoding tables, with the guard p7. -/
theorem test_decode_integers : readsAs [
    ([0x02E41821], .iadd ⟨8, 12, 4, 1⟩),
    ([0x02E41825], .isub ⟨8, 12, 4, 1⟩),
    ([0x04E41821], .imul ⟨8, 12, 4, 1⟩),
    ([0x04E41825], .imad ⟨8, 12, 4, 1⟩),
    ([0x06E41820], .imulhI32 ⟨8, 12, 4⟩),
    ([0x06E41821], .imulhN32 ⟨8, 12, 4⟩),
    ([0x06E41822], .imulwI32 ⟨8, 12, 4⟩),
    ([0x06E41823], .imulwN32 ⟨8, 12, 4⟩),
    ([0x08E41820], .andV ⟨8, 12, 4⟩),
    ([0x08E41821], .orV ⟨8, 12, 4⟩),
    ([0x08E41822], .xorV ⟨8, 12, 4⟩),
    ([0x08E41823], .andn ⟨8, 12, 4⟩),
    ([0x08E41824], .orn ⟨8, 12, 4⟩),
    ([0x08E41825], .xnor ⟨8, 12, 4⟩),
    ([0x0AE41820], .shl ⟨8, 12, 4⟩),
    ([0x0AE41821], .shr ⟨8, 12, 4⟩),
    ([0x0AE41822], .sar ⟨8, 12, 4⟩),
    ([0x0AE41823], .rol ⟨8, 12, 4⟩),
    ([0x0AE41824], .ror ⟨8, 12, 4⟩),
    ([0x0AE41825], .shl64 ⟨8, 12, 4⟩),
    ([0x0AE41826], .shr64 ⟨8, 12, 4⟩),
    ([0x0AE41827], .sar64 ⟨8, 12, 4⟩),
    ([0x0CE41820], .iminI32 ⟨8, 12, 4⟩),
    ([0x0CE41821], .imaxI32 ⟨8, 12, 4⟩),
    ([0x0CE41822], .iminN32 ⟨8, 12, 4⟩),
    ([0x0CE41823], .imaxN32 ⟨8, 12, 4⟩),
    ([0x0CE41804], .iabs ⟨8, 12, 0⟩),
    ([0x0CE41805], .ineg ⟨8, 12, 0⟩),
    ([0x0CE41826], .iaddsI32 ⟨8, 12, 4⟩),
    ([0x0CE41827], .iaddsN32 ⟨8, 12, 4⟩),
    ([0x0EE41801], .popc ⟨8, 12, 1⟩),
    ([0x0EE41809], .clz ⟨8, 12, 1⟩),
    ([0x0EE41811], .ctz ⟨8, 12, 1⟩),
    ([0x0EE41819], .brev ⟨8, 12, 1⟩),
    ([0x0EE41821], .bswap ⟨8, 12, 1⟩),
    ([0x0EE41829], .notV ⟨8, 12, 1⟩),
    ([0x1CE41821], .iadd64 ⟨8, 12, 4, 1⟩),
    ([0x1CE41825], .isub64 ⟨8, 12, 4, 1⟩)] = true := by
  decide +kernel

/-- Tables 12-4 to 12-13, 14-2 and 17-5: words written out from the encoding tables, with the guard p7. -/
theorem test_decode_moves_and_predicates : readsAs [
    ([0x10E41800, 0x00000083], .bfeI32 ⟨8, 12, 0⟩ ⟨0, 4, 3⟩),
    ([0x10E41801, 0x00000083], .bfeN32 ⟨8, 12, 0⟩ ⟨0, 4, 3⟩),
    ([0x10E41802, 0x00000083], .bfi ⟨8, 12, 0⟩ ⟨0, 4, 3⟩),
    ([0x12E419FD], .iaddi ⟨8, 12, 509⟩),
    ([0x14E41801], .mov ⟨8, 12, 1⟩),
    ([0x16E40000, 0x12345678], .movk ⟨8, 0, 0⟩ ⟨305419896⟩),
    ([0x16E40001, 0x12345678], .movkW ⟨8, 0, 0⟩ ⟨305419896⟩),
    ([0x18E41823], .icmpI32 ⟨8, 12, 4, 3⟩),
    ([0x1AE41823], .icmpN32 ⟨8, 12, 4, 3⟩),
    ([0x1EE41820, 0x00000009], .sel ⟨8, 12, 4⟩ ⟨0, 9⟩),
    ([0x20E41823], .lea ⟨8, 12, 4⟩ 3),
    ([0x22E41820], .pand ⟨8, 12, 4⟩),
    ([0x22E41821], .por ⟨8, 12, 4⟩),
    ([0x22E41822], .pxor ⟨8, 12, 4⟩),
    ([0x22E41823], .pandn ⟨8, 12, 4⟩),
    ([0x22E41804], .pmov ⟨8, 12, 0⟩),
    ([0x22E41805], .pnot ⟨8, 12, 0⟩),
    ([0x22E41806], .psetv ⟨8, 12, 0⟩),
    ([0x22E41807], .pgetv ⟨8, 12, 0⟩)] = true := by
  decide +kernel

/-- Tables 12-4 to 12-13, 14-2 and 17-5: words written out from the encoding tables, with the guard p7. -/
theorem test_decode_cross_lane_and_uniform : readsAs [
    ([0x24E41800], .voteAny ⟨8, 12, 0⟩),
    ([0x24E41801], .voteAll ⟨8, 12, 0⟩),
    ([0x24E41822], .voteBallot ⟨8, 12, 4⟩),
    ([0x24E41803], .voteCount ⟨8, 12, 0⟩),
    ([0x26E41820], .cableAt ⟨8, 12, 4⟩),
    ([0x26E41821], .cableBack ⟨8, 12, 4⟩),
    ([0x26E41822], .cableFwd ⟨8, 12, 4⟩),
    ([0x26E41823], .cableFlip ⟨8, 12, 4⟩),
    ([0x28E41801], .qswph ⟨8, 12, 1⟩),
    ([0x28E41809], .qswpv ⟨8, 12, 1⟩),
    ([0x28E41811], .qswpd ⟨8, 12, 1⟩),
    ([0x28E41819], .qbc0 ⟨8, 12, 1⟩),
    ([0x28E41821], .qbc1 ⟨8, 12, 1⟩),
    ([0x28E41829], .qbc2 ⟨8, 12, 1⟩),
    ([0x28E41831], .qbc3 ⟨8, 12, 1⟩),
    ([0x2AE41800], .foldAddI32 ⟨8, 12, 0⟩),
    ([0x2AE41801], .foldMinI32 ⟨8, 12, 0⟩),
    ([0x2AE41802], .foldMaxI32 ⟨8, 12, 0⟩),
    ([0x2AE41803], .foldAnd ⟨8, 12, 0⟩),
    ([0x2AE41804], .foldOr ⟨8, 12, 0⟩),
    ([0x2AE41805], .foldXor ⟨8, 12, 0⟩),
    ([0x2AE41806], .foldFadd ⟨8, 12, 0⟩),
    ([0x2CE41820], .nzs ⟨8, 12, 4⟩),
    ([0x2EE41820], .sadd ⟨8, 12, 4⟩),
    ([0x2EE41821], .ssub ⟨8, 12, 4⟩),
    ([0x2EE41822], .smul ⟨8, 12, 4⟩),
    ([0x2EE41823], .sand ⟨8, 12, 4⟩),
    ([0x2EE41824], .sor ⟨8, 12, 4⟩),
    ([0x2EE41825], .sxor ⟨8, 12, 4⟩),
    ([0x2EE41826], .sshl ⟨8, 12, 4⟩),
    ([0x2EE41827], .sshr ⟨8, 12, 4⟩),
    ([0x30E419FD], .saddi ⟨8, 12, 509⟩),
    ([0x32E40000, 0x12345678], .smovk ⟨8, 0, 0⟩ ⟨305419896⟩),
    ([0x32E40001, 0x12345678], .smovkW ⟨8, 0, 0⟩ ⟨305419896⟩),
    ([0x34E41823], .scmp ⟨8, 12, 4, 3⟩),
    ([0x36E41800], .vbc ⟨8, 12, 0⟩),
    ([0x36E41801], .sfirst ⟨8, 12, 0⟩),
    ([0x36E41822], .slane ⟨8, 12, 4⟩)] = true := by
  decide +kernel

/-- Tables 12-4 to 12-13, 14-2 and 17-5: words written out from the encoding tables, with the guard p7. -/
theorem test_decode_single_precision : readsAs [
    ([0x40E41821], .fadd ⟨8, 12, 4, 1⟩),
    ([0x40E41825], .fsub ⟨8, 12, 4, 1⟩),
    ([0x42E41821], .fmul ⟨8, 12, 4, 1⟩),
    ([0x42E41825], .ffma ⟨8, 12, 4, 1⟩),
    ([0x44E41820], .fmin ⟨8, 12, 4⟩),
    ([0x44E41821], .fmax ⟨8, 12, 4⟩),
    ([0x44E41822], .fminp ⟨8, 12, 4⟩),
    ([0x44E41823], .fmaxp ⟨8, 12, 4⟩),
    ([0x44E41804], .fabs ⟨8, 12, 0⟩),
    ([0x44E41805], .fneg ⟨8, 12, 0⟩),
    ([0x44E41826], .fcopys ⟨8, 12, 4⟩),
    ([0x46E41823], .fcmp ⟨8, 12, 4, 3⟩),
    ([0x48E41801], .rcp ⟨8, 12, 1⟩),
    ([0x48E41809], .rsq ⟨8, 12, 1⟩),
    ([0x48E41811], .exp2 ⟨8, 12, 1⟩),
    ([0x48E41819], .log2 ⟨8, 12, 1⟩),
    ([0x48E41821], .sinr ⟨8, 12, 1⟩),
    ([0x48E41829], .cosr ⟨8, 12, 1⟩),
    ([0x48E41831], .tanh ⟨8, 12, 1⟩),
    ([0x48E41841], .floor ⟨8, 12, 1⟩),
    ([0x48E41849], .ceil ⟨8, 12, 1⟩),
    ([0x48E41851], .trunc ⟨8, 12, 1⟩),
    ([0x48E41859], .rint ⟨8, 12, 1⟩),
    ([0x48E41861], .fract ⟨8, 12, 1⟩),
    ([0x4AE41820], .fdiv ⟨8, 12, 4⟩),
    ([0x4AE41801], .fsqrt ⟨8, 12, 0⟩)] = true := by
  decide +kernel

/-- Tables 12-4 to 12-13, 14-2 and 17-5: words written out from the encoding tables, with the guard p7. -/
theorem test_decode_packed_and_double : readsAs [
    ([0x4CE41820], .hadd2 ⟨8, 12, 4⟩),
    ([0x4CE41821], .hsub2 ⟨8, 12, 4⟩),
    ([0x4CE41822], .hmul2 ⟨8, 12, 4⟩),
    ([0x4CE41823], .hfma2 ⟨8, 12, 4⟩),
    ([0x4CE41824], .hmin2 ⟨8, 12, 4⟩),
    ([0x4CE41825], .hmax2 ⟨8, 12, 4⟩),
    ([0x4EE41820], .badd2 ⟨8, 12, 4⟩),
    ([0x4EE41821], .bsub2 ⟨8, 12, 4⟩),
    ([0x4EE41822], .bmul2 ⟨8, 12, 4⟩),
    ([0x4EE41823], .bfma2 ⟨8, 12, 4⟩),
    ([0x4EE41824], .bmin2 ⟨8, 12, 4⟩),
    ([0x4EE41825], .bmax2 ⟨8, 12, 4⟩),
    ([0x50E41820], .dadd ⟨8, 12, 4⟩),
    ([0x50E41821], .dsub ⟨8, 12, 4⟩),
    ([0x50E41822], .dmul ⟨8, 12, 4⟩),
    ([0x50E41823], .dfma ⟨8, 12, 4⟩),
    ([0x50E41824], .dmin ⟨8, 12, 4⟩),
    ([0x50E41825], .dmax ⟨8, 12, 4⟩),
    ([0x50E41826], .ddiv ⟨8, 12, 4⟩),
    ([0x50E41807], .dsqrt ⟨8, 12, 0⟩),
    ([0x52E41823], .dcmp ⟨8, 12, 4, 3⟩),
    ([0x54E41800, 0x00050103], .cvt ⟨8, 12, 0⟩ ⟨0, 2, 1, 1, 3⟩)] = true := by
  decide +kernel

/-- Tables 12-4 to 12-13, 14-2 and 17-5: words written out from the encoding tables, with the guard p7. -/
theorem test_decode_matrix_memory_and_products : readsAs [
    ([0x60E40000, 0x00000132], .mshapeImm ⟨8, 0, 0⟩ ⟨0, 0, 0, 0, 1, 3, 2⟩),
    ([0x60E41800, 0x00000000], .mshapeLane ⟨8, 12, 0⟩ ⟨0, 0, 0, 0, 0, 0, 0⟩),
    ([0x62E41820, 0x1C010132], .mld ⟨8, 12, 4⟩ ⟨3, 1, 0, 0, 1, 1, 3, 2⟩),
    ([0x62E41821, 0x18100100], .mldT ⟨8, 12, 4⟩ ⟨3, 0, 1, 0, 0, 1, 0, 0⟩),
    ([0x64E41820, 0x18020100], .mst ⟨8, 12, 4⟩ ⟨3, 0, 0, 0, 2, 1, 0, 0⟩),
    ([0x64E41821, 0x18120100], .mstT ⟨8, 12, 4⟩ ⟨3, 0, 1, 0, 2, 1, 0, 0⟩),
    ([0x66E41820, 0x18100300], .mldw ⟨8, 12, 4⟩ ⟨3, 0, 1, 0, 0, 3, 0, 0⟩),
    ([0x68E41820, 0x00000100], .mmul ⟨8, 12, 4⟩ ⟨0, 0, 0, 0, 1, 0, 0⟩),
    ([0x68E41821, 0x50000100], .mma ⟨8, 12, 4⟩ ⟨5, 0, 0, 0, 1, 0, 0⟩),
    ([0x68E41822, 0x50000100], .mmat ⟨8, 12, 4⟩ ⟨5, 0, 0, 0, 1, 0, 0⟩),
    ([0x68E41823, 0x50000100], .mmab ⟨8, 12, 4⟩ ⟨5, 0, 0, 0, 1, 0, 0⟩)] = true := by
  decide +kernel

/-- Tables 12-4 to 12-13, 14-2 and 17-5: words written out from the encoding tables, with the guard p7. -/
theorem test_decode_matrix_operations : readsAs [
    ([0x6AE41820, 0x00000100], .madd ⟨8, 12, 4⟩ ⟨0, 0, 0, 0, 1, 0, 0⟩),
    ([0x6AE41821, 0x00000100], .msub ⟨8, 12, 4⟩ ⟨0, 0, 0, 0, 1, 0, 0⟩),
    ([0x6AE41822, 0x00000100], .mhad ⟨8, 12, 4⟩ ⟨0, 0, 0, 0, 1, 0, 0⟩),
    ([0x6AE41823, 0x04120100], .mscal ⟨8, 12, 4⟩ ⟨0, 1, 1, 2, 1, 0, 0⟩),
    ([0x6AE41804, 0x00000100], .mexp2 ⟨8, 12, 0⟩ ⟨0, 0, 0, 0, 1, 0, 0⟩),
    ([0x6AE41825, 0x00000100], .mmax ⟨8, 12, 4⟩ ⟨0, 0, 0, 0, 1, 0, 0⟩),
    ([0x6AE40006, 0x00000000], .mzero ⟨8, 0, 0⟩ ⟨0, 0, 0, 0, 0, 0, 0⟩),
    ([0x6AE41807, 0x00020100], .mcvt ⟨8, 12, 0⟩ ⟨0, 0, 0, 2, 1, 0, 0⟩),
    ([0x6CE41800, 0x00000100], .mtrn ⟨8, 12, 0⟩ ⟨0, 0, 0, 0, 1, 0, 0⟩),
    ([0x6CE41801, 0x04120100], .mmov ⟨8, 12, 0⟩ ⟨0, 1, 1, 2, 1, 0, 0⟩),
    ([0x6CE41822, 0x04120100], .mget ⟨8, 12, 4⟩ ⟨0, 1, 1, 2, 1, 0, 0⟩),
    ([0x6CE41823, 0x04120100], .mput ⟨8, 12, 4⟩ ⟨0, 1, 1, 2, 1, 0, 0⟩),
    ([0x6CE41814, 0x04120100], .mred ⟨8, 12, 2⟩ ⟨0, 1, 1, 2, 1, 0, 0⟩),
    ([0x6CE41805, 0x00000000], .mshget ⟨8, 12, 0⟩ ⟨0, 0, 0, 0, 0, 0, 0⟩),
    ([0x6EE41820, 0x00000100], .minv ⟨8, 12, 4⟩ ⟨0, 0, 0, 0, 1, 0, 0⟩),
    ([0x6EE41821, 0x00000100], .mlu ⟨8, 12, 4⟩ ⟨0, 0, 0, 0, 1, 0, 0⟩),
    ([0x6EE41822, 0x00000100], .mchol ⟨8, 12, 4⟩ ⟨0, 0, 0, 0, 1, 0, 0⟩),
    ([0x6EE41823, 0x00000100], .msolvl ⟨8, 12, 4⟩ ⟨0, 0, 0, 0, 1, 0, 0⟩),
    ([0x6EE41824, 0x00000100], .msolvu ⟨8, 12, 4⟩ ⟨0, 0, 0, 0, 1, 0, 0⟩),
    ([0x6EE41805, 0x00100100], .mpow ⟨8, 12, 0⟩ ⟨0, 0, 1, 0, 1, 0, 0⟩),
    ([0x6EE41806, 0x00000100], .mdet ⟨8, 12, 0⟩ ⟨0, 0, 0, 0, 1, 0, 0⟩),
    ([0x70E41820, 0x00000000], .topkIns ⟨8, 12, 4⟩ ⟨0, 0, 0, 0, 0, 0, 0⟩),
    ([0x70E41801, 0x00120000], .topkGet ⟨8, 12, 0⟩ ⟨0, 0, 1, 2, 0, 0, 0⟩),
    ([0x70E40002, 0x00120000], .topkClr ⟨8, 0, 0⟩ ⟨0, 0, 1, 2, 0, 0, 0⟩)] = true := by
  decide +kernel

/-- Tables 12-4 to 12-13, 14-2 and 17-5: words written out from the encoding tables, with the guard p7. -/
theorem test_decode_memory : readsAs [
    ([0x80E41800, 0x1AAFFFF8], .ldG ⟨8, 12, 0⟩ ⟨3, 1, 2, 1, 0, 1048568⟩),
    ([0x80E41801, 0x1AAFFFF8], .ldL ⟨8, 12, 0⟩ ⟨3, 1, 2, 1, 0, 1048568⟩),
    ([0x80E41802, 0x1AAFFFF8], .ldP ⟨8, 12, 0⟩ ⟨3, 1, 2, 1, 0, 1048568⟩),
    ([0x80E41803, 0x1AAFFFF8], .ldC ⟨8, 12, 0⟩ ⟨3, 1, 2, 1, 0, 1048568⟩),
    ([0x82E01820, 0x1CAFFFF8], .stG ⟨0, 12, 4⟩ ⟨3, 2, 2, 1, 0, 1048568⟩),
    ([0x82E01821, 0x1CAFFFF8], .stL ⟨0, 12, 4⟩ ⟨3, 2, 2, 1, 0, 1048568⟩),
    ([0x82E01822, 0x1CAFFFF8], .stP ⟨0, 12, 4⟩ ⟨3, 2, 2, 1, 0, 1048568⟩),
    ([0x82E01823, 0x1CAFFFF8], .stGw ⟨0, 12, 4⟩ ⟨3, 2, 2, 1, 0, 1048568⟩),
    ([0x84E41820, 0x1AABFFF8], .atom ⟨8, 12, 4⟩ ⟨3, 1, 5, 2, 1, 131064⟩),
    ([0x84E01821, 0x1CABFFF8], .red ⟨0, 12, 4⟩ ⟨3, 2, 5, 2, 1, 131064⟩),
    ([0x84E41822, 0x1AABFFF8], .atomL ⟨8, 12, 4⟩ ⟨3, 1, 5, 2, 1, 131064⟩),
    ([0x84E01823, 0x1CABFFF8], .redL ⟨0, 12, 4⟩ ⟨3, 2, 5, 2, 1, 131064⟩),
    ([0x86E41820, 0x22EFFFF8], .ldf ⟨8, 12, 4⟩ ⟨4, 1, 3, 1, 0, 1048568⟩),
    ([0x88E01820, 0x24EFFFF8], .stf ⟨0, 12, 4⟩ ⟨4, 2, 3, 1, 0, 1048568⟩)] = true := by
  decide +kernel

/-- Tables 12-4 to 12-13, 14-2 and 17-5: words written out from the encoding tables, with the guard p7. -/
theorem test_decode_synchronization : readsAs [
    ([0x8AE00000, 0x1A000000], .fence ⟨0, 0, 0⟩ ⟨3, 1, 0, 0⟩),
    ([0x8AE00001, 0x10000008], .pfence ⟨0, 0, 0⟩ ⟨2, 0, 0, 8⟩),
    ([0x8AE01802, 0x002FFFF8], .wback ⟨0, 12, 0⟩ ⟨0, 0, 0, 1, 0, 1048568⟩),
    ([0x8CE41820, 0x1AAFFFF8], .smp ⟨8, 12, 4⟩ ⟨3, 1, 2, 1, 0, 1048568⟩),
    ([0x8EE41820, 0x1A8FFFF8], .ldt ⟨8, 12, 4⟩ ⟨3, 1, 2, 0, 0, 1048568⟩),
    ([0x90E01820, 0x18000000], .binit ⟨0, 12, 4⟩ ⟨3, 0, 0, 0⟩),
    ([0x90E01801, 0x18000000], .barv ⟨0, 12, 0⟩ ⟨3, 0, 0, 0⟩),
    ([0x90E01822, 0x00000000], .bexp ⟨0, 12, 4⟩ ⟨0, 0, 0, 0⟩),
    ([0x90E01823, 0x18000000], .bwait ⟨0, 12, 4⟩ ⟨3, 0, 0, 0⟩),
    ([0x90E41824, 0x18000000], .btest ⟨8, 12, 4⟩ ⟨3, 0, 0, 0⟩),
    ([0x90E01825, 0x18001001], .barvx ⟨0, 12, 4⟩ ⟨3, 0, 1, 1⟩),
    ([0x92E11800, 0x00000000], .mark ⟨2, 12, 0⟩ ⟨0, 0⟩),
    ([0x92E10001, 0x00000000], .unmark ⟨2, 0, 0⟩ ⟨0, 0⟩),
    ([0x92E41802, 0x18000000], .frog ⟨8, 12, 0⟩ ⟨3, 0⟩),
    ([0x92E40023, 0x00000000], .frogq ⟨8, 0, 4⟩ ⟨0, 0⟩),
    ([0x94E01800, 0x006FFFF8], .pref ⟨0, 12, 0⟩ ⟨0, 0, 1, 1, 0, 1048568⟩)] = true := by
  decide +kernel

/-- Tables 12-4 to 12-13, 14-2 and 17-5: words written out from the encoding tables, with the guard p7. -/
theorem test_decode_asynchronous : readsAs [
    ([0xA0E41800, 0x1E300003], .cpyGl ⟨8, 12, 0⟩ ⟨3, 1, 1, 6, 0, 3⟩),
    ([0xA0E41801, 0x1E000003], .cpyLg ⟨8, 12, 0⟩ ⟨3, 1, 1, 0, 0, 3⟩),
    ([0xA0E41822, 0x1E300003], .cpyt ⟨8, 12, 4⟩ ⟨3, 1, 1, 6, 0, 3⟩),
    ([0xA0E01823, 0x1E000001], .cpym ⟨0, 12, 4⟩ ⟨3, 1, 1, 0, 0, 1⟩),
    ([0xA0E41804, 0x1E000003], .cpyg ⟨8, 12, 0⟩ ⟨3, 1, 1, 0, 0, 3⟩),
    ([0xA0E40005, 0x1E300000], .cdrain ⟨8, 0, 0⟩ ⟨3, 1, 1, 6, 0, 0⟩),
    ([0xA0E41822, 0x1E008000], .cpytG ⟨8, 12, 4⟩ ⟨3, 1, 1, 0, 0, 32768⟩),
    ([0xA2E41800, 0x1E000003], .qapp ⟨8, 12, 0⟩ ⟨3, 1, 1, 0, 0, 3⟩),
    ([0xA4E41800, 0x1E000000], .launch ⟨8, 12, 0⟩ ⟨3, 1, 1, 0, 0, 0⟩),
    ([0xA6E00000], .succ),
    ([0xA6E00008], .predw),
    ([0xA8E41820, 0x18000003], .rapp ⟨8, 12, 4⟩ ⟨3, 0, 0, 0, 0, 3⟩),
    ([0xAAE01800, 0x18000003], .wmadv ⟨0, 12, 0⟩ ⟨3, 0, 0, 0, 0, 3⟩),
    ([0xAAE00001, 0x18000003], .sclose ⟨0, 0, 0⟩ ⟨3, 0, 0, 0, 0, 3⟩),
    ([0xACE00000, 0x18000000], .wpub ⟨0, 0, 0⟩ ⟨3, 0, 0, 0, 0, 0⟩),
    ([0xACE00001, 0x18000000], .wpubAmend ⟨0, 0, 0⟩ ⟨3, 0, 0, 0, 0, 0⟩)] = true := by
  decide +kernel

/-- Tables 12-4 to 12-13, 14-2 and 17-5: words written out from the encoding tables, with the guard p7. -/
theorem test_decode_control : readsAs [
    ([0xC0FFFFF8], .bra ⟨2097144⟩),
    ([0xC2E00028, 0x00000009], .brd ⟨5, 9⟩),
    ([0xC4E01800], .brx ⟨0, 12, 0⟩),
    ([0xC4E01801], .callx ⟨0, 12, 0⟩),
    ([0xC6FFFFF8], .call ⟨2097144⟩),
    ([0xC8E01800], .ret ⟨0, 12, 0⟩),
    ([0xCAE00000], .exit),
    ([0xCCE00000], .endTeam),
    ([0xCEE00000], .nop),
    ([0xD0E00000], .yield),
    ([0xD2E00200], .rgive ⟨0, 1, 0⟩),
    ([0xD2E40201], .rclaim ⟨8, 1, 0⟩)] = true := by
  decide +kernel

/-- Tables 12-4 to 12-13, 14-2 and 17-5: words written out from the encoding tables, with the guard p7. -/
theorem test_decode_system_and_retired : readsAs [
    ([0xE0E40010], .srd ⟨8, 0, 0⟩ 2),
    ([0xE2E018A1], .swr ⟨0, 12, 1⟩ 20),
    ([0xE4E001FD], .trap ⟨0, 0, 509⟩),
    ([0xE4E001FF], .trapReturn ⟨0, 0, 511⟩),
    ([0xE4E001FE], .trapTerminate ⟨0, 0, 510⟩),
    ([0xE6E00000], .bkpt),
    ([0xE8E00000], .eret),
    ([0xEAE00000, 0x00000000], .tlbinvAll ⟨0, 0, 0⟩ ⟨0, 0⟩),
    ([0xEAE00000, 0x4000000C], .tlbinvAsid ⟨0, 0, 0⟩ ⟨0, 12⟩),
    ([0xEAE01800, 0x8000000C], .tlbinvPage ⟨0, 12, 0⟩ ⟨0, 12⟩),
    ([0xEAE01800, 0xC0000000], .tlbinvGpage ⟨0, 12, 0⟩ ⟨0, 0⟩),
    ([0xF8E41821], .imad24I24 ⟨8, 12, 4, 1⟩),
    ([0xF8E41825], .imad24N24 ⟨8, 12, 4, 1⟩),
    ([0xFAE41820], .dot4i8I8 ⟨8, 12, 4⟩),
    ([0xFAE41821], .dot4i8N8 ⟨8, 12, 4⟩),
    ([0xFCE41820, 0x1ABFFFF8], .ldro ⟨8, 12, 4⟩ ⟨3, 1, 2, 1, 1, 1048568⟩)] = true := by
  decide +kernel

/-- Terms that the static checks of R263, R264, R266 to R270 and R276 refuse, one for each kind of check. -/
theorem test_ill_formed_words : ([
    .popc ⟨8, 12, 2⟩, .mov ⟨8, 12, 3⟩, .qbc3 ⟨8, 12, 2⟩, .floor ⟨8, 12, 2⟩, .ret ⟨0, 12, 1⟩, .srd ⟨8, 0, 1⟩ 2,
    .iabs ⟨8, 12, 4⟩, .movk ⟨8, 12, 0⟩ ⟨7⟩, .pmov ⟨8, 12, 4⟩, .fsqrt ⟨8, 12, 4⟩, .stG ⟨8, 12, 4⟩ ⟨3, 2, 2, 0, 0, 0⟩,
    .imulwI32 ⟨9, 12, 4⟩, .iadd64 ⟨8, 13, 4, 0⟩, .lea ⟨8, 13, 4⟩ 1, .dadd ⟨8, 12, 5⟩, .brx ⟨0, 13, 0⟩,
    .ldG ⟨9, 12, 0⟩ ⟨3, 0, 3, 0, 0, 0⟩, .ldG ⟨10, 12, 0⟩ ⟨3, 0, 4, 0, 0, 0⟩, .mmul ⟨16, 12, 4⟩ ⟨0, 0, 0, 0, 0, 0, 0⟩,
    .mark ⟨4, 12, 0⟩ ⟨0, 0⟩, .icmpI32 ⟨8, 12, 4, 6⟩, .scmp ⟨8, 12, 4, 7⟩, .bfeI32 ⟨8, 12, 0⟩ ⟨0, 20, 12⟩,
    .bfi ⟨8, 12, 0⟩ ⟨1, 0, 3⟩, .sel ⟨8, 12, 4⟩ ⟨1, 9⟩, .cvt ⟨8, 12, 0⟩ ⟨1, 0, 0, 1, 3⟩, .cvt ⟨8, 12, 0⟩ ⟨0, 0, 0, 0, 3⟩] :
    List Instr).all (fun i => ! i.wf) = true := by
  decide +kernel

/-- Terms that the static checks of matrix, memory and later words refuse. -/
theorem test_ill_formed_second_words : ([
    .mshapeImm ⟨8, 0, 0⟩ ⟨0, 0, 0, 0, 1, 8, 2⟩, .mshapeImm ⟨8, 0, 0⟩ ⟨0, 0, 0, 0, 17, 3, 2⟩,
    .mmul ⟨8, 12, 4⟩ ⟨5, 0, 0, 0, 1, 0, 0⟩, .mmul ⟨8, 12, 4⟩ ⟨0, 1, 0, 0, 1, 0, 0⟩, .mred ⟨8, 12, 3⟩ ⟨0, 0, 0, 0, 1, 0, 0⟩,
    .minv ⟨8, 12, 4⟩ ⟨0, 0, 0, 0, 2, 0, 0⟩, .mld ⟨8, 12, 4⟩ ⟨3, 0, 0, 0, 2, 1, 0, 0⟩, .mst ⟨8, 12, 4⟩ ⟨3, 0, 0, 0, 1, 1, 0, 0⟩,
    .mldw ⟨8, 12, 4⟩ ⟨3, 0, 1, 0, 0, 1, 0, 0⟩, .mld ⟨8, 12, 4⟩ ⟨3, 0, 0, 1, 0, 1, 0, 0⟩,
    .ldG ⟨8, 12, 0⟩ ⟨3, 2, 2, 0, 0, 0⟩, .ldG ⟨8, 12, 0⟩ ⟨3, 0, 5, 0, 0, 0⟩, .ldG ⟨8, 12, 0⟩ ⟨3, 0, 2, 0, 1, 0⟩,
    .stG ⟨0, 12, 4⟩ ⟨3, 1, 2, 0, 0, 0⟩, .atom ⟨8, 12, 4⟩ ⟨3, 0, 13, 0, 0, 0⟩, .red ⟨0, 12, 4⟩ ⟨3, 1, 0, 0, 0, 0⟩,
    .ldf ⟨8, 12, 4⟩ ⟨4, 1, 2, 0, 0, 0⟩, .fence ⟨0, 0, 0⟩ ⟨3, 1, 0, 1⟩, .pfence ⟨0, 0, 0⟩ ⟨3, 0, 0, 0⟩,
    .pfence ⟨0, 0, 0⟩ ⟨3, 1, 0, 1⟩, .wback ⟨0, 12, 0⟩ ⟨1, 0, 0, 0, 0, 0⟩, .ldt ⟨8, 12, 4⟩ ⟨3, 0, 2, 1, 0, 0⟩,
    .binit ⟨0, 12, 4⟩ ⟨3, 0, 0, 5⟩, .bwait ⟨0, 12, 0⟩ ⟨3, 0, 1, 16⟩, .barvx ⟨0, 12, 4⟩ ⟨3, 0, 1, 0⟩, .barv ⟨0, 12, 0⟩ ⟨3, 1, 0, 0⟩,
    .mark ⟨2, 12, 0⟩ ⟨1, 0⟩, .frog ⟨8, 12, 0⟩ ⟨3, 1⟩, .pref ⟨0, 12, 0⟩ ⟨0, 0, 2, 0, 0, 0⟩] : List Instr).all (fun i => ! i.wf) = true := by
  decide +kernel

/-- Terms that the static checks of asynchronous, control and system words refuse, and forms that another row holds. -/
theorem test_ill_formed_later_words : ([
    .cpyGl ⟨8, 12, 0⟩ ⟨3, 0, 0, 0, 1, 3⟩, .cpyLg ⟨8, 12, 0⟩ ⟨3, 0, 0, 6, 0, 3⟩, .cpym ⟨0, 12, 4⟩ ⟨3, 0, 0, 0, 0, 129⟩,
    .cdrain ⟨8, 0, 0⟩ ⟨3, 0, 0, 6, 0, 1⟩, .qapp ⟨8, 12, 0⟩ ⟨3, 0, 0, 0, 0, 64⟩, .launch ⟨8, 12, 0⟩ ⟨3, 0, 0, 0, 0, 1⟩,
    .rapp ⟨8, 12, 4⟩ ⟨3, 0, 0, 0, 0, 256⟩, .rapp ⟨8, 12, 4⟩ ⟨3, 0, 1, 0, 0, 3⟩, .wpub ⟨0, 0, 0⟩ ⟨3, 0, 0, 0, 0, 1⟩,
    .rgive ⟨0, 0, 0⟩, .rclaim ⟨8, 8, 0⟩, .srd ⟨8, 0, 0⟩ 31, .swr ⟨0, 12, 2⟩ 20, .swr ⟨0, 12, 0⟩ 2,
    .tlbinvAll ⟨0, 0, 0⟩ ⟨0, 12⟩, .tlbinvPage ⟨0, 12, 0⟩ ⟨1, 12⟩, .tlbinvGpage ⟨0, 13, 0⟩ ⟨0, 0⟩,
    .mshapeImm ⟨8, 0, 0⟩ ⟨0, 0, 0, 0, 0, 3, 2⟩, .mshapeLane ⟨8, 12, 0⟩ ⟨0, 0, 0, 0, 1, 0, 0⟩,
    .cpyt ⟨8, 12, 4⟩ ⟨3, 0, 0, 6, 0, 32768⟩, .cpytG ⟨8, 12, 4⟩ ⟨3, 0, 0, 0, 0, 5⟩, .trap ⟨0, 0, 511⟩, .trapReturn ⟨0, 0, 510⟩,
    .trapTerminate ⟨0, 0, 511⟩] : List Instr).all (fun i => ! i.wf) = true := by
  decide +kernel

/-- A path that may issue: a team of one lane and three helpers on core 0, in a supervisor context whose first GiB maps onto
itself. -/
def ready : State :=
  let s := ({ State.reset with cur := some { gid := 0, role := 0, slot := 0 } }).withWords []
  { s with
    turns := []
    ctxs := [(1, { probeCtx with supv := true, root := 0x10000 })]
    mem := memPut (memPut [] 0x10000 (bytesLE 8 0x12001)) 0x12000 (bytesLE 8 0x3D) }

/-- A state with every lane of that team changed. -/
def withLanes (s : State) (f : Lane → Lane) : State := s.modTeam 0 0 fun t => { t with lanes := tmap t.lanes fun _ l => f l }

/-- A state with that team changed. -/
def withTeam (s : State) (f : Team → Team) : State := s.modTeam 0 0 f

/-- A state with that path changed. -/
def withPath (s : State) (f : Path → Path) : State := s.modPath { gid := 0, role := 0, slot := 0 } f

/-- A state with that group changed. -/
def withGroup (s : State) (f : Group → Group) : State := s.modGroup 0 f

/-- A state with its context changed. -/
def withCtx (s : State) (f : Ctx → Ctx) : State := s.modCtx 1 f

/-- A state with v registers 12 and 4 of every lane written. -/
def operands (a b : Word) : State := withLanes ready fun l => (l.setV 12 a).setV 4 b

/-- The current path, where it satisfies a test. -/
def looks (s : State) (f : Cur → Bool) : Bool := s.look.any f

/-- An instruction issues in a state. -/
def issues (s : State) (i : Instr) : Bool := looks s fun c => s.illegal i c [] == none

/-- A register of lane 0 after an instruction. -/
def lane0 (s : State) (i : Instr) (f : Lane → α) : Option α :=
  match exec i s with
  | .next t => (t.at { gid := 0, role := 0, slot := 0 }).map fun c => f (c.t.lane 0)
  | _ => none

/-- The trap of the team after an instruction: cause and detail. -/
def trapAfter (s : State) (i : Instr) : Option (Nat × Nat) :=
  match exec i s with
  | .next t => (t.at { gid := 0, role := 0, slot := 0 }).bind fun c => c.t.trap.map fun k => (k.cause, k.detail)
  | _ => none

/-- Something of the current path after an instruction. -/
def pathAfter (s : State) (i : Instr) (f : Path → α) : Option α :=
  match exec i s with
  | .next t => (t.at { gid := 0, role := 0, slot := 0 }).map fun c => f c.p
  | _ => none

/-- R284: sums wrap. -/
theorem test_iadd_wraps : lane0 (operands 0xFFFFFFFF 2) (.iadd ⟨8, 12, 4, 0⟩) (·.getV 8) = some 1 := by decide +kernel

/-- Table 12-4: IMM9 is sign-extended. -/
theorem test_iaddi_negative : lane0 (operands 5 0) (.iaddi ⟨8, 12, 0x1FD⟩) (·.getV 8) = some 2 := by decide +kernel

/-- R284: the high word of a signed product. -/
theorem test_imulh_signed : lane0 (operands 0x80000000 2) (.imulhI32 ⟨8, 12, 4⟩) (·.getV 8) = some 0xFFFFFFFF := by decide +kernel

/-- R285: IABS of the most negative number wraps to itself. -/
theorem test_iabs_wraps : lane0 (operands 0x80000000 0) (.iabs ⟨8, 12, 0⟩) (·.getV 8) = some 0x80000000 := by decide +kernel

/-- R285: a signed sum clamps. -/
theorem test_iadds_clamps : lane0 (operands 0x7FFFFFFF 1) (.iaddsI32 ⟨8, 12, 4⟩) (·.getV 8) = some 0x7FFFFFFF := by
  decide +kernel

/-- R286: a count of the full width or more. -/
theorem test_shifts_past_the_width :
    lane0 (operands 0x80000001 32) (.shl ⟨8, 12, 4⟩) (·.getV 8) = some 0 ∧
    lane0 (operands 0x80000001 33) (.sar ⟨8, 12, 4⟩) (·.getV 8) = some 0xFFFFFFFF ∧
    lane0 (operands 0x80000001 33) (.rol ⟨8, 12, 4⟩) (·.getV 8) = some 3 := by decide +kernel

/-- R286: bit counts of zero. -/
theorem test_clz_of_zero : lane0 (operands 0 0) (.clz ⟨8, 12, 0⟩) (·.getV 8) = some 32 := by decide +kernel

/-- R287: a signed field. -/
theorem test_bfe_signed : lane0 (operands 0x000000F0 0) (.bfeI32 ⟨8, 12, 0⟩ ⟨0, 4, 3⟩) (·.getV 8) = some 0xFFFFFFFF := by
  decide +kernel

/-- R264: a write to p7 is ignored. -/
theorem test_p7_stays : lane0 (operands 1 2) (.icmpI32 ⟨7, 12, 4, 0⟩) (·.getP 7) = some true := by decide +kernel

/-- R289: signed and unsigned order differ. -/
theorem test_icmp_order :
    lane0 (operands 0xFFFFFFFF 1) (.icmpI32 ⟨8, 12, 4, 2⟩) (·.getP 8) = some true ∧
    lane0 (operands 0xFFFFFFFF 1) (.icmpN32 ⟨8, 12, 4, 2⟩) (·.getP 8) = some false := by decide +kernel

/-- R292: helpers do not vote; the declared lane alone is counted. -/
theorem test_vote_counts_workers :
    lane0 (withLanes ready fun l => l.setP 3 true) (.voteCount ⟨8, 3, 0⟩) (·.getV 8) = some 1 := by decide +kernel

/-- R294: a lane takes its quad partner's register, a helper's too. -/
theorem test_quad_swap : lane0 (withTeam ready fun t => { t with lanes := tmap t.lanes fun n l => l.setV 12 (word (n + 40)) })
    (.qswpd ⟨8, 12, 0⟩) (·.getV 8) = some 43 := by decide +kernel

/-- R302 and R226: 1.0 + 1.0 and a quiet result of an overflow. -/
theorem test_fadd :
    lane0 (operands 0x3F800000 0x3F800000) (.fadd ⟨8, 12, 4, 0⟩) (·.getV 8) = some 0x40000000 ∧
    lane0 (operands 0x7F7FFFFF 0x7F7FFFFF) (.fadd ⟨8, 12, 4, 0⟩) (·.getV 8) = some 0x7F800000 := by decide +kernel

/-- R302: one rounding only. -/
theorem test_ffma_rounds_once : lane0 (withLanes (operands 0x3F800001 0x3F800001) fun l => l.setV 8 0xBF800002)
    (.ffma ⟨8, 12, 4, 0⟩) (·.getV 8) = some 0x28800000 := by decide +kernel

/-- R306: the least subnormal divided by two rounds to even, zero. -/
theorem test_fdiv_subnormal : lane0 (operands 0x00000001 0x40000000) (.fdiv ⟨8, 12, 4⟩) (·.getV 8) = some 0 := by decide +kernel

/-- R303: an unordered compare. -/
theorem test_fcmp_nan :
    lane0 (operands 0x7FC00000 0x3F800000) (.fcmp ⟨8, 12, 4, 7⟩) (·.getP 8) = some true ∧
    lane0 (operands 0x7FC00000 0x3F800000) (.fcmp ⟨8, 12, 4, 1⟩) (·.getP 8) = some true := by decide +kernel

/-- R304: EXP2 of 3.0 is 8.0 and RSQ of 4.0 is 0.5. -/
theorem test_functions :
    lane0 (operands 0x40400000 0) (.exp2 ⟨8, 12, 0⟩) (·.getV 8) = some 0x41000000 ∧
    lane0 (operands 0x40800000 0) (.rsq ⟨8, 12, 0⟩) (·.getV 8) = some 0x3F000000 := by decide +kernel

/-- R307: the halves are computed apart. -/
theorem test_hadd2 : lane0 (operands 0x3C00FBFF 0x3C00FBFF) (.hadd2 ⟨8, 12, 4⟩) (·.getV 8) = some 0x4000FC00 := by decide +kernel

/-- R309: saturation and truncation to an integer. -/
theorem test_cvt_saturates :
    lane0 (operands 0x4F800000 0) (.cvt ⟨8, 12, 0⟩ ⟨0, 2, 1, 11, 1⟩) (·.getV 8) = some 0x7FFFFFFF := by decide +kernel

/-- R278: TEAM_LANES is the declared count. -/
theorem test_srd_lanes : lane0 ready (.srd ⟨8, 0, 0⟩ 5) (·.getV 8) = some 1 := by decide +kernel

/-- R366: a branch goes to H + 4 times its offset. -/
theorem test_bra_target : pathAfter ready (.bra ⟨2097144⟩) (fun p => (p.pc, p.clause)) = some (0x1000 - 32, none) := by
  decide +kernel

/-- R366: a call writes the address of the next header to s62 and s63. -/
theorem test_call_link : pathAfter ready (.call ⟨2⟩) (fun p => (p.pc, p.getS 62, p.getS 63)) = some (0x1008, 0x1004, 0) := by
  decide +kernel

/-- R297: a uniform sum. -/
theorem test_sadd : pathAfter (withPath ready fun p => (p.setS 12 7).setS 4 9) (.sadd ⟨8, 12, 4⟩) (·.getS 8) = some 16 := by
  decide +kernel

/-- R276: a v field at the team's allocation is detail 3; a reserved field is detail 2. -/
theorem test_illegal_details :
    trapAfter (withTeam ready fun t => { t with vregs := 8 }) (.iadd ⟨8, 0, 4, 0⟩) = some (1, 3) ∧
    trapAfter ready (.iabs ⟨8, 12, 4⟩) = some (1, 2) ∧
    trapAfter (withCtx ready fun x => { x with supv := false }) (.tlbinvAll ⟨0, 0, 0⟩ ⟨0, 0⟩) = some (1, 5) := by decide +kernel

/-- R372 and R377: a trap enters the handler with cause 0x20 and its number; s60 and s61 hold the frame's address. -/
theorem test_trap_enters_the_handler :
    trapAfter ready (.trap ⟨0, 0, 37⟩) = some (0x20, 37) ∧
    pathAfter ready (.trap ⟨0, 0, 37⟩) (fun p => (p.pc, p.getS 60, p.getS 61)) = some (0x1000, 256, 0) := by decide +kernel

/-- R382: a retired form is fault 3. -/
theorem test_retired : trapAfter ready (.imad24I24 ⟨8, 12, 4, 0⟩) = some (3, 0) := by decide +kernel

/-- R332: a store's bytes reach the core's L1 and a load reads them back. -/
theorem test_store_then_load :
    (match exec (.stG ⟨0, 12, 4⟩ ⟨0, 0, 2, 0, 0, 0⟩) (operands 0x2000 0x11223344) with
      | .next t => match exec (.ldG ⟨8, 12, 0⟩ ⟨0, 0, 1, 0, 0, 2⟩) (withLanes (withPath t fun p => { p with
            mask := 1, clause := some (probeClause []) }) fun l => l.setV 12 0x2000) with
        | .next u => (match u.at { gid := 0, role := 0, slot := 0 } with
          | some c => c.t.landing.any fun l => l.what == .v 8 0 [(0, 0x00001122)]
          | none => false)
        | _ => false
      | _ => false) = true := by decide +kernel

/-- EncodeDecode: words that decode. -/
theorem witness_EncodeDecode : readsAs [([0x02E41821], .iadd ⟨8, 12, 4, 1⟩)] = true := by decide +kernel

/-- One well-formed term of each row has words and issues in `ready`: DecodeEncode, IntegerArithmetic, IntegerLimits, LogicAndShifts, FieldsMovesCompares, PredicatesAndVotes. -/
theorem witness_issues_integer_and_move : ([
    .iadd ⟨8, 12, 4, 1⟩, .isub ⟨8, 12, 4, 1⟩, .imul ⟨8, 12, 4, 1⟩, .imad ⟨8, 12, 4, 1⟩, .imulhI32 ⟨8, 12, 4⟩,
    .imulhN32 ⟨8, 12, 4⟩, .imulwI32 ⟨8, 12, 4⟩, .imulwN32 ⟨8, 12, 4⟩, .andV ⟨8, 12, 4⟩, .orV ⟨8, 12, 4⟩, .xorV ⟨8, 12, 4⟩,
    .andn ⟨8, 12, 4⟩, .orn ⟨8, 12, 4⟩, .xnor ⟨8, 12, 4⟩, .shl ⟨8, 12, 4⟩, .shr ⟨8, 12, 4⟩, .sar ⟨8, 12, 4⟩,
    .rol ⟨8, 12, 4⟩, .ror ⟨8, 12, 4⟩, .shl64 ⟨8, 12, 4⟩, .shr64 ⟨8, 12, 4⟩, .sar64 ⟨8, 12, 4⟩, .iminI32 ⟨8, 12, 4⟩,
    .imaxI32 ⟨8, 12, 4⟩, .iminN32 ⟨8, 12, 4⟩, .imaxN32 ⟨8, 12, 4⟩, .iabs ⟨8, 12, 0⟩, .ineg ⟨8, 12, 0⟩,
    .iaddsI32 ⟨8, 12, 4⟩, .iaddsN32 ⟨8, 12, 4⟩, .popc ⟨8, 12, 1⟩, .clz ⟨8, 12, 1⟩, .ctz ⟨8, 12, 1⟩, .brev ⟨8, 12, 1⟩,
    .bswap ⟨8, 12, 1⟩, .notV ⟨8, 12, 1⟩, .bfeI32 ⟨8, 12, 0⟩ ⟨0, 4, 3⟩, .bfeN32 ⟨8, 12, 0⟩ ⟨0, 4, 3⟩,
    .bfi ⟨8, 12, 0⟩ ⟨0, 4, 3⟩, .iaddi ⟨8, 12, 509⟩, .mov ⟨8, 12, 1⟩, .movk ⟨8, 0, 0⟩ ⟨305419896⟩,
    .movkW ⟨8, 0, 0⟩ ⟨305419896⟩, .icmpI32 ⟨8, 12, 4, 3⟩, .icmpN32 ⟨8, 12, 4, 3⟩, .iadd64 ⟨8, 12, 4, 1⟩,
    .isub64 ⟨8, 12, 4, 1⟩, .sel ⟨8, 12, 4⟩ ⟨0, 9⟩, .lea ⟨8, 12, 4⟩ 3, .pand ⟨8, 12, 4⟩, .por ⟨8, 12, 4⟩, .pxor ⟨8, 12, 4⟩,
    .pandn ⟨8, 12, 4⟩, .pmov ⟨8, 12, 0⟩, .pnot ⟨8, 12, 0⟩, .psetv ⟨8, 12, 0⟩, .pgetv ⟨8, 12, 0⟩] : List Instr).all (fun i => i.wf && i.hasWords && issues ready i) = true := by
  decide +kernel

/-- One well-formed term of each row has words and issues in `ready`: DecodeEncode, CrossLaneMoves, Folds, NzsCompacts, UniformFile. -/
theorem witness_issues_cross_lane_and_uniform : ([
    .voteAny ⟨8, 12, 0⟩, .voteAll ⟨8, 12, 0⟩, .voteBallot ⟨8, 12, 4⟩, .voteCount ⟨8, 12, 0⟩, .cableAt ⟨8, 12, 4⟩,
    .cableBack ⟨8, 12, 4⟩, .cableFwd ⟨8, 12, 4⟩, .cableFlip ⟨8, 12, 4⟩, .qswph ⟨8, 12, 1⟩, .qswpv ⟨8, 12, 1⟩,
    .qswpd ⟨8, 12, 1⟩, .qbc0 ⟨8, 12, 1⟩, .qbc1 ⟨8, 12, 1⟩, .qbc2 ⟨8, 12, 1⟩, .qbc3 ⟨8, 12, 1⟩, .foldAddI32 ⟨8, 12, 0⟩,
    .foldMinI32 ⟨8, 12, 0⟩, .foldMaxI32 ⟨8, 12, 0⟩, .foldAnd ⟨8, 12, 0⟩, .foldOr ⟨8, 12, 0⟩, .foldXor ⟨8, 12, 0⟩,
    .foldFadd ⟨8, 12, 0⟩, .nzs ⟨8, 12, 4⟩, .sadd ⟨8, 12, 4⟩, .ssub ⟨8, 12, 4⟩, .smul ⟨8, 12, 4⟩, .sand ⟨8, 12, 4⟩,
    .sor ⟨8, 12, 4⟩, .sxor ⟨8, 12, 4⟩, .sshl ⟨8, 12, 4⟩, .sshr ⟨8, 12, 4⟩, .saddi ⟨8, 12, 509⟩,
    .smovk ⟨8, 0, 0⟩ ⟨305419896⟩, .smovkW ⟨8, 0, 0⟩ ⟨305419896⟩, .scmp ⟨8, 12, 4, 3⟩, .vbc ⟨8, 12, 0⟩, .sfirst ⟨8, 12, 0⟩,
    .slane ⟨8, 12, 4⟩] : List Instr).all (fun i => i.wf && i.hasWords && issues ready i) = true := by
  decide +kernel

/-- One well-formed term of each row has words and issues in `ready`: DecodeEncode, SingleArithmetic, FunctionInstructions, PackedArithmetic, DoubleArithmetic, Conversions. -/
theorem witness_issues_floating_point : ([
    .fadd ⟨8, 12, 4, 1⟩, .fsub ⟨8, 12, 4, 1⟩, .fmul ⟨8, 12, 4, 1⟩, .ffma ⟨8, 12, 4, 1⟩, .fmin ⟨8, 12, 4⟩, .fmax ⟨8, 12, 4⟩,
    .fminp ⟨8, 12, 4⟩, .fmaxp ⟨8, 12, 4⟩, .fabs ⟨8, 12, 0⟩, .fneg ⟨8, 12, 0⟩, .fcopys ⟨8, 12, 4⟩, .fcmp ⟨8, 12, 4, 3⟩,
    .rcp ⟨8, 12, 1⟩, .rsq ⟨8, 12, 1⟩, .exp2 ⟨8, 12, 1⟩, .log2 ⟨8, 12, 1⟩, .sinr ⟨8, 12, 1⟩, .cosr ⟨8, 12, 1⟩,
    .tanh ⟨8, 12, 1⟩, .floor ⟨8, 12, 1⟩, .ceil ⟨8, 12, 1⟩, .trunc ⟨8, 12, 1⟩, .rint ⟨8, 12, 1⟩, .fract ⟨8, 12, 1⟩,
    .fdiv ⟨8, 12, 4⟩, .fsqrt ⟨8, 12, 0⟩, .hadd2 ⟨8, 12, 4⟩, .hsub2 ⟨8, 12, 4⟩, .hmul2 ⟨8, 12, 4⟩, .hfma2 ⟨8, 12, 4⟩,
    .hmin2 ⟨8, 12, 4⟩, .hmax2 ⟨8, 12, 4⟩, .badd2 ⟨8, 12, 4⟩, .bsub2 ⟨8, 12, 4⟩, .bmul2 ⟨8, 12, 4⟩, .bfma2 ⟨8, 12, 4⟩,
    .bmin2 ⟨8, 12, 4⟩, .bmax2 ⟨8, 12, 4⟩, .dadd ⟨8, 12, 4⟩, .dsub ⟨8, 12, 4⟩, .dmul ⟨8, 12, 4⟩, .dfma ⟨8, 12, 4⟩,
    .dmin ⟨8, 12, 4⟩, .dmax ⟨8, 12, 4⟩, .ddiv ⟨8, 12, 4⟩, .dsqrt ⟨8, 12, 0⟩, .dcmp ⟨8, 12, 4, 3⟩,
    .cvt ⟨8, 12, 0⟩ ⟨0, 2, 1, 1, 3⟩] : List Instr).all (fun i => i.wf && i.hasWords && issues ready i) = true := by
  decide +kernel

/-- One well-formed term of each row has words and issues in `ready`: DecodeEncode, MatrixMoves, MatrixArithmetic, MatrixSolvers, TopkLists, MatrixMemory. -/
theorem witness_issues_matrix : ([
    .mshapeImm ⟨8, 0, 0⟩ ⟨0, 0, 0, 0, 1, 3, 2⟩, .mshapeLane ⟨8, 12, 0⟩ ⟨0, 0, 0, 0, 0, 0, 0⟩,
    .mld ⟨8, 12, 4⟩ ⟨3, 1, 0, 0, 1, 1, 3, 2⟩, .mldT ⟨8, 12, 4⟩ ⟨3, 0, 1, 0, 0, 1, 0, 0⟩,
    .mst ⟨8, 12, 4⟩ ⟨3, 0, 0, 0, 2, 1, 0, 0⟩, .mstT ⟨8, 12, 4⟩ ⟨3, 0, 1, 0, 2, 1, 0, 0⟩,
    .mldw ⟨8, 12, 4⟩ ⟨3, 0, 1, 0, 0, 3, 0, 0⟩, .mmul ⟨8, 12, 4⟩ ⟨0, 0, 0, 0, 1, 0, 0⟩,
    .mma ⟨8, 12, 4⟩ ⟨5, 0, 0, 0, 1, 0, 0⟩, .mmat ⟨8, 12, 4⟩ ⟨5, 0, 0, 0, 1, 0, 0⟩, .mmab ⟨8, 12, 4⟩ ⟨5, 0, 0, 0, 1, 0, 0⟩,
    .madd ⟨8, 12, 4⟩ ⟨0, 0, 0, 0, 1, 0, 0⟩, .msub ⟨8, 12, 4⟩ ⟨0, 0, 0, 0, 1, 0, 0⟩, .mhad ⟨8, 12, 4⟩ ⟨0, 0, 0, 0, 1, 0, 0⟩,
    .mscal ⟨8, 12, 4⟩ ⟨0, 1, 1, 2, 1, 0, 0⟩, .mexp2 ⟨8, 12, 0⟩ ⟨0, 0, 0, 0, 1, 0, 0⟩,
    .mmax ⟨8, 12, 4⟩ ⟨0, 0, 0, 0, 1, 0, 0⟩, .mzero ⟨8, 0, 0⟩ ⟨0, 0, 0, 0, 0, 0, 0⟩, .mcvt ⟨8, 12, 0⟩ ⟨0, 0, 0, 2, 1, 0, 0⟩,
    .mtrn ⟨8, 12, 0⟩ ⟨0, 0, 0, 0, 1, 0, 0⟩, .mmov ⟨8, 12, 0⟩ ⟨0, 1, 1, 2, 1, 0, 0⟩, .mget ⟨8, 12, 4⟩ ⟨0, 1, 1, 2, 1, 0, 0⟩,
    .mput ⟨8, 12, 4⟩ ⟨0, 1, 1, 2, 1, 0, 0⟩, .mred ⟨8, 12, 2⟩ ⟨0, 1, 1, 2, 1, 0, 0⟩,
    .mshget ⟨8, 12, 0⟩ ⟨0, 0, 0, 0, 0, 0, 0⟩, .minv ⟨8, 12, 4⟩ ⟨0, 0, 0, 0, 1, 0, 0⟩,
    .mlu ⟨8, 12, 4⟩ ⟨0, 0, 0, 0, 1, 0, 0⟩, .mchol ⟨8, 12, 4⟩ ⟨0, 0, 0, 0, 1, 0, 0⟩,
    .msolvl ⟨8, 12, 4⟩ ⟨0, 0, 0, 0, 1, 0, 0⟩, .msolvu ⟨8, 12, 4⟩ ⟨0, 0, 0, 0, 1, 0, 0⟩,
    .mpow ⟨8, 12, 0⟩ ⟨0, 0, 1, 0, 1, 0, 0⟩, .mdet ⟨8, 12, 0⟩ ⟨0, 0, 0, 0, 1, 0, 0⟩,
    .topkIns ⟨8, 12, 4⟩ ⟨0, 0, 0, 0, 0, 0, 0⟩, .topkGet ⟨8, 12, 0⟩ ⟨0, 0, 1, 2, 0, 0, 0⟩,
    .topkClr ⟨8, 0, 0⟩ ⟨0, 0, 1, 2, 0, 0, 0⟩] : List Instr).all (fun i => i.wf && i.hasWords && issues ready i) = true := by
  decide +kernel

/-- One well-formed term of each row has words and issues in `ready`: DecodeEncode, LoadsAndStores, AtomicForms, FencesAndPrefetch, BarrierInstructions, Markers. -/
theorem witness_issues_memory_and_barrier : ([
    .ldG ⟨8, 12, 0⟩ ⟨3, 1, 2, 1, 0, 1048568⟩, .ldL ⟨8, 12, 0⟩ ⟨3, 1, 2, 1, 0, 1048568⟩,
    .ldP ⟨8, 12, 0⟩ ⟨3, 1, 2, 1, 0, 1048568⟩, .ldC ⟨8, 12, 0⟩ ⟨3, 1, 2, 1, 0, 1048568⟩,
    .stG ⟨0, 12, 4⟩ ⟨3, 2, 2, 1, 0, 1048568⟩, .stL ⟨0, 12, 4⟩ ⟨3, 2, 2, 1, 0, 1048568⟩,
    .stP ⟨0, 12, 4⟩ ⟨3, 2, 2, 1, 0, 1048568⟩, .stGw ⟨0, 12, 4⟩ ⟨3, 2, 2, 1, 0, 1048568⟩,
    .atom ⟨8, 12, 4⟩ ⟨3, 1, 5, 2, 1, 131064⟩, .red ⟨0, 12, 4⟩ ⟨3, 2, 5, 2, 1, 131064⟩,
    .atomL ⟨8, 12, 4⟩ ⟨3, 1, 5, 2, 1, 131064⟩, .redL ⟨0, 12, 4⟩ ⟨3, 2, 5, 2, 1, 131064⟩,
    .ldf ⟨8, 12, 4⟩ ⟨4, 1, 3, 1, 0, 1048568⟩, .stf ⟨0, 12, 4⟩ ⟨4, 2, 3, 1, 0, 1048568⟩, .fence ⟨0, 0, 0⟩ ⟨3, 1, 0, 0⟩,
    .pfence ⟨0, 0, 0⟩ ⟨2, 0, 0, 8⟩, .wback ⟨0, 12, 0⟩ ⟨0, 0, 0, 1, 0, 1048568⟩, .smp ⟨8, 12, 4⟩ ⟨3, 1, 2, 1, 0, 1048568⟩,
    .ldt ⟨8, 12, 4⟩ ⟨3, 1, 2, 0, 0, 1048568⟩, .binit ⟨0, 12, 4⟩ ⟨3, 0, 0, 0⟩, .barv ⟨0, 12, 0⟩ ⟨3, 0, 0, 0⟩,
    .bexp ⟨0, 12, 4⟩ ⟨0, 0, 0, 0⟩, .bwait ⟨0, 12, 4⟩ ⟨3, 0, 0, 0⟩, .btest ⟨8, 12, 4⟩ ⟨3, 0, 0, 0⟩,
    .barvx ⟨0, 12, 4⟩ ⟨3, 0, 1, 1⟩, .mark ⟨2, 12, 0⟩ ⟨0, 0⟩, .unmark ⟨2, 0, 0⟩ ⟨0, 0⟩, .frog ⟨8, 12, 0⟩ ⟨3, 0⟩,
    .frogq ⟨8, 0, 4⟩ ⟨0, 0⟩, .pref ⟨0, 12, 0⟩ ⟨0, 0, 1, 1, 0, 1048568⟩] : List Instr).all (fun i => i.wf && i.hasWords && issues ready i) = true := by
  decide +kernel

/-- One well-formed term of each row has words and issues in `ready`: DecodeEncode, AsyncOperations, AppendsAndChaining, StreamInstructions. -/
theorem witness_issues_asynchronous : ([
    .cpyGl ⟨8, 12, 0⟩ ⟨3, 1, 1, 6, 0, 3⟩, .cpyLg ⟨8, 12, 0⟩ ⟨3, 1, 1, 0, 0, 3⟩, .cpyt ⟨8, 12, 4⟩ ⟨3, 1, 1, 6, 0, 3⟩,
    .cpym ⟨0, 12, 4⟩ ⟨3, 1, 1, 0, 0, 1⟩, .cpyg ⟨8, 12, 0⟩ ⟨3, 1, 1, 0, 0, 3⟩, .cdrain ⟨8, 0, 0⟩ ⟨3, 1, 1, 6, 0, 0⟩,
    .cpytG ⟨8, 12, 4⟩ ⟨3, 1, 1, 0, 0, 32768⟩, .qapp ⟨8, 12, 0⟩ ⟨3, 1, 1, 0, 0, 3⟩, .launch ⟨8, 12, 0⟩ ⟨3, 1, 1, 0, 0, 0⟩,
    .succ, .predw, .rapp ⟨8, 12, 4⟩ ⟨3, 0, 0, 0, 0, 3⟩, .wmadv ⟨0, 12, 0⟩ ⟨3, 0, 0, 0, 0, 3⟩,
    .sclose ⟨0, 0, 0⟩ ⟨3, 0, 0, 0, 0, 3⟩, .wpub ⟨0, 0, 0⟩ ⟨3, 0, 0, 0, 0, 0⟩, .wpubAmend ⟨0, 0, 0⟩ ⟨3, 0, 0, 0, 0, 0⟩] : List Instr).all (fun i => i.wf && i.hasWords && issues ready i) = true := by
  decide +kernel

/-- One well-formed term of each row has words and issues in `ready`: DecodeEncode, BranchesAndCalls, DivergentBranch, EndsAndYields, SpecialRegisters, TrapInstructions, TlbInvalidation. -/
theorem witness_issues_control_and_system : ([
    .bra ⟨2097144⟩, .brd ⟨5, 9⟩, .brx ⟨0, 12, 0⟩, .callx ⟨0, 12, 0⟩, .call ⟨2097144⟩, .ret ⟨0, 12, 0⟩, .exit, .endTeam,
    .nop, .yield, .rgive ⟨0, 1, 0⟩, .rclaim ⟨8, 1, 0⟩, .srd ⟨8, 0, 0⟩ 2, .swr ⟨0, 12, 1⟩ 20, .trap ⟨0, 0, 509⟩,
    .trapReturn ⟨0, 0, 511⟩, .trapTerminate ⟨0, 0, 510⟩, .bkpt, .eret, .tlbinvAll ⟨0, 0, 0⟩ ⟨0, 0⟩,
    .tlbinvAsid ⟨0, 0, 0⟩ ⟨0, 12⟩, .tlbinvPage ⟨0, 12, 0⟩ ⟨0, 12⟩, .tlbinvGpage ⟨0, 12, 0⟩ ⟨0, 0⟩] : List Instr).all (fun i => i.wf && i.hasWords && issues ready i) = true := by
  decide +kernel

/-- What those statements ask beside an issue: a context, a done mask, and active lanes that are no helpers. -/
theorem witness_ready : looks ready (fun c => (tget ready.ctxs c.g.asid).isSome && c.doneMask == some (0, 0) &&
    c.workers ready.guard == [0] && c.act ready.guard == [0, 1, 2, 3]) = true := by
  decide +kernel

/-- The guard that never holds. -/
def never (s : State) : State := { s with guard := { neg := 1, p := 7 } }

/-- A state in which no lane is active. -/
theorem witness_no_worker : looks (never ready) (fun c => c.workers (never ready).guard == []) = true := by decide +kernel

/-- OutsideTheMap: the bounds of every range of majors, and the least FN or V value that no row lists. -/
theorem witness_OutsideTheMap :
    ([0, 0x1C, 0x1F, 0x2B, 0x2F, 0x39, 0x3F, 0x4B, 0x4F, 0x57, 0x5F, 0x6A, 0x6F, 0x76, 0x7B, 0x7F].all fun m =>
      match decodeWords (word (m * 2 ^ 25)) 0 with
      | .error (.illegal 0) => true
      | _ => false) = true ∧
    ([(0x03, 4), (0x04, 6), (0x08, 3), (0x0B, 2), (0x0F, 1), (0x12, 4), (0x13, 4), (0x15, 7), (0x16, 1), (0x19, 2), (0x1B, 3),
        (0x22, 7), (0x25, 2), (0x26, 6), (0x27, 6), (0x2A, 1), (0x30, 1), (0x31, 2), (0x32, 2), (0x33, 1), (0x34, 4), (0x36, 6),
        (0x37, 7), (0x38, 3), (0x40, 4), (0x41, 4), (0x42, 4), (0x43, 1), (0x44, 1), (0x45, 3), (0x46, 1), (0x47, 1), (0x48, 6),
        (0x49, 4), (0x4A, 1), (0x50, 6), (0x51, 1), (0x52, 1), (0x54, 1), (0x55, 2), (0x56, 2), (0x61, 1), (0x62, 2), (0x69, 2),
        (0x75, 1), (0x7D, 2), (0x7E, 1)].all fun e =>
      let w := word (e.1 * 2 ^ 25 + e.2)
      majorOf w == e.1 && fnOf w == e.2 && match decodeWords w 0 with
      | .error (.illegal 1) => true
      | _ => false) = true ∧
    ([(0x07, 6), (0x0A, 1), (0x14, 7), (0x24, 13), (0x24, 7), (0x53, 2), (0x64, 1), (0x65, 1), (0x66, 1), (0x67, 1), (0x68, 1),
        (0x73, 1), (0x74, 1)].all fun e =>
      let w := word (e.1 * 2 ^ 25 + 8 * e.2)
      majorOf w == e.1 && fnUOf w == e.2 && match decodeWords w 0 with
      | .error (.illegal 1) => true
      | _ => false) = true ∧
    majorOf 0xF8000000 = 0x7C ∧ majorOf 0xFA000001 = 0x7D ∧ fnOf 0xFA000001 < 2 ∧ majorOf 0xFC000000 = 0x7E ∧
    fnOf 0xFC000000 = 0 := by
  decide +kernel

/-- A state whose path stands before the words of IADD. -/
def atIadd : State :=
  withPath ready fun p => { p with clause := some (probeClause [0x02E41821]) }

/-- A path that stands before a store of four bytes. -/
def atStore : State :=
  withPath ready fun p => { p with clause := some (probeClause (encode { neg := 0, p := 7 } (.stG ⟨0, 12, 4⟩ ⟨0, 0, 2, 0, 0, 0⟩))) }

/-- StepRunsDecoded: a turn of each kind of a path that may run; and no turn, no exchange that is due, and that path selected. -/
theorem witness_StepRunsDecoded :
    let r : Ref := { gid := 0, role := 0, slot := 0 }
    let alw : Guard := { neg := 0, p := 7 }
    let runs (s : State) (rest : Mode) (i : Instr) : Bool :=
      let u : State := { s.before with turns := [], mode := rest }
      (u.at r).any fun c => u.mayRun c && c.p.clause.any (fun k => match decode (k.words.drop k.pos) with
          | .ok d => d.instr == i && d.guard == alw
          | .error _ => false) && (u.enter c).mustWait c alw i == false
    let st : Instr := .stG ⟨0, 12, 4⟩ ⟨0, 0, 2, 0, 0, 0⟩
    runs { atIadd with turns := [.path r] } .whole (.iadd ⟨8, 12, 4, 1⟩) = true ∧
    runs { atStore with turns := [.lanes r 1] } (.lanes 1) st = true ∧
    atIadd.before.anySwap = none ∧
    (atIadd.before.pick.any fun c => atIadd.before.mayRun c && (atIadd.before.enter c).mustWait c alw (.iadd ⟨8, 12, 4, 1⟩) == false) =
      true := by
  decide +kernel

/-- StepKeepsInv: a state with the invariant that takes a step. -/
theorem witness_StepKeepsInv : Memory.wf atIadd.mem = true ∧ atIadd.clocks = [] ∧
    (match step atIadd with
      | .next _ => true
      | _ => false) = true := by
  decide +kernel

/-- TeamStart: a record of as many lanes as a team may have, and of one. -/
theorem witness_TeamStart : ({ probeRec with lanes := 1024 } : LaunchRec).lanesUp ≤ 1024 ∧ probeRec.lanesUp ≤ 1024 := by
  decide +kernel

/-- A trap enabled for every floating-point flag, and signalling NaNs of 32, 16 and 64 bits as operands. -/
def trapping (lo hi : Word) : State :=
  withTeam (withLanes ready fun l => [4, 8, 12].foldl (fun l n => (l.setV n lo).setV (n + 1) hi) l) fun t => { t with fpc := 0x3E0 }

/-- SingleArithmetic, FunctionInstructions, PackedArithmetic, DoubleArithmetic, Conversions and Folds: each instruction both
raises an enabled flag on a signalling NaN and raises none on zeros. -/
theorem witness_floating_traps :
    ([.fadd ⟨8, 12, 4, 0⟩, .fsub ⟨8, 12, 4, 0⟩, .fmul ⟨8, 12, 4, 0⟩, .ffma ⟨8, 12, 4, 0⟩, .fmin ⟨8, 12, 4⟩, .fmax ⟨8, 12, 4⟩,
      .fminp ⟨8, 12, 4⟩, .fmaxp ⟨8, 12, 4⟩, .fdiv ⟨8, 12, 4⟩, .fsqrt ⟨8, 12, 0⟩, .fcmp ⟨8, 12, 4, 0⟩, .rcp ⟨8, 12, 0⟩,
      .rsq ⟨8, 12, 0⟩, .exp2 ⟨8, 12, 0⟩, .log2 ⟨8, 12, 0⟩, .sinr ⟨8, 12, 0⟩, .cosr ⟨8, 12, 0⟩, .tanh ⟨8, 12, 0⟩,
      .floor ⟨8, 12, 0⟩, .ceil ⟨8, 12, 0⟩, .trunc ⟨8, 12, 0⟩, .rint ⟨8, 12, 0⟩, .fract ⟨8, 12, 0⟩,
      .cvt ⟨8, 12, 0⟩ ⟨0, 0, 0, 2, 1⟩, .foldFadd ⟨8, 12, 0⟩] : List Instr).all (fun i =>
        trapAfter (trapping 0x7F800001 0) i == some (0x0A, 0)) = true ∧
    ([.fadd ⟨8, 12, 4, 0⟩, .ffma ⟨8, 12, 4, 0⟩, .fmin ⟨8, 12, 4⟩, .fsqrt ⟨8, 12, 0⟩, .fcmp ⟨8, 12, 4, 0⟩, .exp2 ⟨8, 12, 0⟩,
      .sinr ⟨8, 12, 0⟩, .cosr ⟨8, 12, 0⟩, .tanh ⟨8, 12, 0⟩, .floor ⟨8, 12, 0⟩, .fract ⟨8, 12, 0⟩,
      .cvt ⟨8, 12, 0⟩ ⟨0, 0, 0, 2, 1⟩, .foldFadd ⟨8, 12, 0⟩, .hfma2 ⟨8, 12, 4⟩, .bfma2 ⟨8, 12, 4⟩, .dfma ⟨8, 12, 4⟩] : List Instr).all
        (fun i => trapAfter (trapping 0 0) i == none) = true := by
  decide +kernel

/-- The same for packed halves and pairs. -/
theorem witness_packed_and_double_traps :
    ([.hadd2 ⟨8, 12, 4⟩, .hsub2 ⟨8, 12, 4⟩, .hmul2 ⟨8, 12, 4⟩, .hfma2 ⟨8, 12, 4⟩, .hmin2 ⟨8, 12, 4⟩, .hmax2 ⟨8, 12, 4⟩] :
      List Instr).all (fun i => trapAfter (trapping 0x7C017C01 0) i == some (0x0A, 0)) = true ∧
    ([.badd2 ⟨8, 12, 4⟩, .bsub2 ⟨8, 12, 4⟩, .bmul2 ⟨8, 12, 4⟩, .bfma2 ⟨8, 12, 4⟩, .bmin2 ⟨8, 12, 4⟩, .bmax2 ⟨8, 12, 4⟩] :
      List Instr).all (fun i => trapAfter (trapping 0x7F817F81 0) i == some (0x0A, 0)) = true ∧
    ([.dadd ⟨8, 12, 4⟩, .dsub ⟨8, 12, 4⟩, .dmul ⟨8, 12, 4⟩, .ddiv ⟨8, 12, 4⟩, .dmin ⟨8, 12, 4⟩, .dmax ⟨8, 12, 4⟩,
      .dfma ⟨8, 12, 4⟩, .dsqrt ⟨8, 12, 0⟩, .dcmp ⟨8, 12, 4, 0⟩] : List Instr).all
        (fun i => trapAfter (trapping 1 0x7FF00000) i == some (0x0A, 0)) = true := by
  decide +kernel

/-- FunctionInstructions: signalling and quiet NaNs. Conversions: integer types, and a value that fits, above and below. -/
theorem witness_FunctionInstructions_Conversions :
    f32.value false 0x7F800001 = .nan true ∧ f32.value true 0x7FC00000 = .nan false ∧ (intOf 7).isSome ∧ (intOf 14).isSome ∧
    ((intOf 7).any fun j => intMin j ≤ intOfBits j 0x7F && decide (intOfBits j 0x7F ≤ intMax j)) = true := by
  decide +kernel

/-- FormatsAndRounding: a NaN and a number of every format. -/
theorem witness_FormatsAndRounding : ([f16, bf16, f32, f64, e4m3, e5m2].all fun f =>
    (f.unpack f.canonNaN).isNaN && ! (f.unpack 1).isNaN) = true := by
  decide +kernel

/-- LaneRegisters: the greatest predicate number. -/
theorem witness_LaneRegisters : (63 : Nat) < 64 := by decide

/-- Matrix slots 4, 5, 8 and 12 of every lane hold a matrix of 2 by 2 elements f32, with the given elements. -/
def matrices (bs : List Byte) : State :=
  withLanes ready fun l => [4, 5, 8, 12].foldl (fun l n =>
    l.setM n { tag := mkTag false 2 2 1, data := setBytes 0 0 bs }) l

/-- The identity matrix of that shape. -/
def identity2 : List Byte := bytesLE 4 0x3F800000 ++ bytesLE 8 0 ++ bytesLE 4 0x3F800000

/-- MatrixMoves, MatrixArithmetic, MatrixSolvers: every lane has a result; and in `ready`, where no slot has a shape, none has. -/
theorem witness_matrix_results :
    ([.mtrn ⟨8, 12, 0⟩ ⟨0, 0, 0, 0, 1, 0, 0⟩, .mmov ⟨8, 12, 0⟩ ⟨0, 1, 1, 0, 1, 0, 0⟩, .mget ⟨8, 12, 2⟩ ⟨0, 1, 1, 0, 1, 0, 0⟩,
      .mput ⟨8, 12, 2⟩ ⟨0, 1, 1, 0, 1, 0, 0⟩, .mred ⟨8, 12, 2⟩ ⟨0, 1, 1, 0, 1, 0, 0⟩, .mmul ⟨8, 12, 4⟩ ⟨0, 0, 0, 0, 1, 0, 0⟩,
      .mma ⟨8, 12, 4⟩ ⟨5, 0, 0, 0, 1, 0, 0⟩, .mmat ⟨8, 12, 4⟩ ⟨5, 0, 0, 0, 1, 0, 0⟩, .mmab ⟨8, 12, 4⟩ ⟨5, 0, 0, 0, 1, 0, 0⟩,
      .madd ⟨8, 12, 4⟩ ⟨0, 0, 0, 0, 1, 0, 0⟩, .msub ⟨8, 12, 4⟩ ⟨0, 0, 0, 0, 1, 0, 0⟩, .mhad ⟨8, 12, 4⟩ ⟨0, 0, 0, 0, 1, 0, 0⟩,
      .mmax ⟨8, 12, 4⟩ ⟨0, 0, 0, 0, 1, 0, 0⟩, .mscal ⟨8, 12, 2⟩ ⟨0, 1, 1, 0, 1, 0, 0⟩, .mexp2 ⟨8, 12, 0⟩ ⟨0, 0, 0, 0, 1, 0, 0⟩,
      .mcvt ⟨8, 12, 0⟩ ⟨0, 0, 0, 0, 2, 0, 0⟩, .minv ⟨8, 12, 4⟩ ⟨0, 0, 0, 0, 1, 0, 0⟩, .mlu ⟨8, 12, 4⟩ ⟨0, 0, 0, 0, 1, 0, 0⟩,
      .mchol ⟨8, 12, 4⟩ ⟨0, 0, 0, 0, 1, 0, 0⟩, .msolvl ⟨8, 12, 4⟩ ⟨0, 0, 0, 0, 1, 0, 0⟩, .msolvu ⟨8, 12, 4⟩ ⟨0, 0, 0, 0, 1, 0, 0⟩,
      .mpow ⟨8, 12, 0⟩ ⟨0, 0, 1, 0, 1, 0, 0⟩, .mdet ⟨8, 12, 0⟩ ⟨0, 0, 0, 0, 1, 0, 0⟩] : List Instr).all (fun i =>
        trapAfter (matrices identity2) i == none && trapAfter ready i == some (8, 0)) = true := by
  decide +kernel

/-- MatrixMoves: a shape that fits and one that does not, a register's shape that is valid, is not, and asks for no shape.
MatrixSolvers: a factorisation that fails, with MXTRAP clear and set. -/
theorem witness_shapes_and_failures :
    looks ready (fun c => shapeFits c.t.mregs 8 8 8 1 && ! shapeFits c.t.mregs 8 8 8 4 && ! shapeFits c.t.mregs 15 8 8 1 &&
      (c.act ready.guard).all fun l => ! oddOfPair (c.t.lane l) 8) = true ∧
    trapAfter ready (.mshapeImm ⟨15, 0, 0⟩ ⟨0, 0, 0, 0, 1, 7, 7⟩) = some (8, 0) ∧
    trapAfter ready (.mshapeImm ⟨8, 0, 0⟩ ⟨0, 0, 0, 0, 1, 7, 7⟩) = none ∧
    trapAfter ready (.mshapeLane ⟨8, 12, 0⟩ ⟨0, 0, 0, 0, 0, 0, 0⟩) = none ∧
    trapAfter (operands ((mkTag false 2 2 1).setWidth 32) 0) (.mshapeLane ⟨8, 12, 0⟩ ⟨0, 0, 0, 0, 0, 0, 0⟩) = none ∧
    trapAfter (operands ((mkTag false 2 2 15).setWidth 32) 0) (.mshapeLane ⟨8, 12, 0⟩ ⟨0, 0, 0, 0, 0, 0, 0⟩) = some (8, 0) ∧
    trapAfter (matrices []) (.minv ⟨8, 12, 4⟩ ⟨0, 0, 0, 0, 1, 0, 0⟩) = none ∧
    trapAfter (withTeam (matrices []) fun t => { t with fpc := 0x400 }) (.minv ⟨8, 12, 4⟩ ⟨0, 0, 0, 0, 1, 0, 0⟩) = some (9, 0) := by
  decide +kernel

/-- TopkLists: lists of the least and the greatest capacity, a list without a tag, an entry that is and one that is not. -/
theorem witness_TopkLists :
    trapAfter ready (.topkClr ⟨8, 0, 0⟩ ⟨0, 0, 1, 1, 0, 0, 0⟩) = none ∧
    trapAfter (withPath ready fun p => p.setS 1 16) (.topkClr ⟨8, 0, 0⟩ ⟨0, 0, 1, 0, 0, 0, 0⟩) = none ∧
    trapAfter ready (.topkClr ⟨8, 0, 0⟩ ⟨0, 0, 1, 0, 0, 0, 0⟩) = some (8, 0) ∧
    trapAfter ready (.topkIns ⟨8, 12, 4⟩ ⟨0, 0, 0, 0, 0, 0, 0⟩) = some (8, 0) ∧
    (let s := withLanes ready fun l => l.setM 8 { tag := 0xBB0B, data := topkData 1 [(0x3F800000, 5)] }
     trapAfter s (.topkIns ⟨8, 12, 4⟩ ⟨0, 0, 0, 0, 0, 0, 0⟩) = none ∧ trapAfter s (.topkGet ⟨8, 8, 0⟩ ⟨0, 0, 1, 0, 0, 0, 0⟩) = none) ∧
    topkCount (topkData 1 [(0x3F800000, 5)]) = 1 ∧ topkCap (topkData 1 [(0x3F800000, 5)]) = 1 ∧
    scoreGe (topkEntry (topkData 1 [(0x3F800000, 5)]) 0).1 0 = true ∧ (f32.unpack 0x7FC00000).isNaN = true := by
  decide +kernel

/-- MatrixWriteReads: the greatest matrix, whose elements lie in two slots. -/
theorem witness_MatrixWriteReads : (Lane.start.matWrite 16 2 { r := 8, c := 8, ty := 1, el := List.replicate 64 7 }).isSome = true ∧
    1 ∈ allTypes ∧ (∀ e ∈ List.replicate 64 7, e < 2 ^ (8 * typeBytes 1)) := by
  decide +kernel

/-- A state whose team has four declared lanes, with p1 set in lane 0 alone, and a guard. -/
def guarded (g : Guard) : State :=
  { withTeam ready (fun t => { t with lanesN := 4, lanes := tmap t.lanes fun n l => l.setP 1 (n == 0) }) with guard := g }

/-- The guards that hold in every lane, in none, and in some. -/
def guards : List Guard := [{ neg := 0, p := 7 }, { neg := 1, p := 7 }, { neg := 0, p := 1 }]

/-- A state whose uniform pair 12 holds an address. -/
def target (a : Nat) : State := withPath ready fun p => p.setS2 12 (BitVec.ofNat 64 a)

/-- BranchesAndCalls: a guard that holds in every deciding lane, in none and in some; targets at the ends of the space and past them,
on a word boundary and off it. -/
theorem witness_BranchesAndCalls :
    (guards.map fun g => trapAfter (guarded g) (.bra ⟨5⟩)) = [none, none, some (0x0B, 0)] ∧
    (guards.map fun g => looks (guarded g) fun c => c.deciding.all fun l => guardHolds g (c.t.lane l)) = [true, false, false] ∧
    (guards.map fun g => looks (guarded g) fun c => c.deciding.all fun l => ! guardHolds g (c.t.lane l)) = [false, true, false] ∧
    trapAfter ready (.bra ⟨2 ^ 21 - 0x400⟩) = none ∧ trapAfter ready (.call ⟨2 ^ 21 - 0x401⟩) = some (0x0E, 0) ∧
    ([.brx ⟨0, 12, 0⟩, .callx ⟨0, 12, 0⟩] : List Instr).all (fun i =>
      trapAfter (target 0) i == none && trapAfter (target (2 ^ 57 - 4)) i == none && trapAfter (target (2 ^ 57)) i == some (0x0E, 0) &&
      trapAfter (target 2) i == some (6, 0)) = true ∧
    trapAfter (target 0) (.ret ⟨0, 12, 0⟩) = none ∧ trapAfter (target (2 ^ 57)) (.ret ⟨0, 12, 0⟩) = some (0x0E, 0) ∧
    trapAfter (target 3) (.ret ⟨0, 12, 0⟩) = some (6, 0) := by
  decide +kernel

/-- A path in slot 1, too, and some entries of the reconvergence stack. -/
def deep (n : Nat) (s : State) : State :=
  withTeam s fun t => { t with
    paths := t.paths ++ (t.paths.map fun p => (1, p.2))
    splits := (List.range n).map fun _ => .pushed 0 1 0 0 none false }

/-- DivergentBranch: no taken lane, all, some with a free slot, some with a full stack and with an empty one; a target and a join
outside the space. -/
theorem witness_DivergentBranch :
    (guards.map fun g => looks (guarded g) fun c => laneSet (c.act g) == 0) = [false, true, false] ∧
    (guards.map fun g => looks (guarded g) fun c => c.p.mask &&& ~~~ laneSet (c.act g) == 0) = [true, false, false] ∧
    (guards.map fun g => trapAfter (guarded g) (.brd ⟨5, 9⟩)) = [none, none, none] ∧
    looks (guarded { neg := 0, p := 1 }) (fun c => (tget c.t.paths 1).isNone && c.r.slot == 0) = true ∧
    looks (deep 0 (guarded { neg := 0, p := 1 })) (fun c => (tget c.t.paths 1).isSome && decide (c.t.stackLen < 4)) = true ∧
    trapAfter (deep 3 (guarded { neg := 0, p := 1 })) (.brd ⟨5, 9⟩) = none ∧
    looks (deep 31 (guarded { neg := 0, p := 1 })) (fun c => c.t.stackLen == 31 && (c.t.splits[3]?).isSome &&
      (tget (deep 31 (guarded { neg := 0, p := 1 })).ctxs c.g.asid).isSome) = true ∧
    trapAfter (deep 4 (guarded { neg := 0, p := 1 })) (.brd ⟨5, 9⟩) = none ∧
    looks (deep 32 (guarded { neg := 0, p := 1 })) (fun c => decide (32 ≤ c.t.stackLen)) = true ∧
    trapAfter (deep 32 (guarded { neg := 0, p := 1 })) (.brd ⟨5, 9⟩) = some (0x0B, 1) ∧
    trapAfter ready (.brd ⟨2 ^ 18 - 0x401, 9⟩) = some (0x0E, 0) ∧ trapAfter ready (.brd ⟨5, 2 ^ 32 - 0x401⟩) = some (0x0E, 0) := by
  decide +kernel

/-- DivergentBranch: an entry in the second slot at the end of the space, with a join register and without. -/
theorem witness_stack_entry : (1 : Nat) < 2 ∧ 2 ^ 57 - 4 < 2 ^ 57 ∧ (∀ a, some (2 ^ 57 - 4) = some a → a < 2 ^ 57) ∧
    ∀ a, (none : Option Nat) = some a → a < 2 ^ 57 := by
  refine ⟨by decide, by decide, ?_, ?_⟩
  · intro a h; cases h; decide
  · intro a h; cases h

/-- Two teams on the core: that of `ready`, and one that is ready and waits to be active. -/
def waiting : State :=
  withGroup ready fun g => { g with teams := g.teams ++ (g.teams.map fun t => (1, t.2)) }

/-- EndsAndYields: lanes that go and lanes that stay; a team that waits and none; registers to give, to claim, and too many. -/
theorem witness_EndsAndYields :
    looks (guarded { neg := 0, p := 1 }) (fun c => c.act { neg := 0, p := 1 } == [0] &&
      (List.range 4).any fun l => (c.t.alive &&& ~~~ laneSet [0]).getLsbD l) = true ∧
    looks ready (fun c => c.act ready.guard == [0, 1, 2, 3] &&
      (List.range c.t.lanesN).all fun l => ! (c.t.alive &&& ~~~ laneSet [0, 1, 2, 3]).getLsbD l) = true ∧
    waiting.longestReady 0 = some { gid := 0, role := 1 } ∧ ready.longestReady 0 = none ∧ waiting.swapFree 0 = true ∧
    (waiting.modCore 0 fun k => { k with swap := some (0, { gid := 0, role := 1 }) }).swapFree 0 = false ∧
    looks ready (fun c => c.t.paths.length == 1 && c.t.stackLen == 0 && c.t.vregs == 64) = true ∧
    trapAfter ready (.rgive ⟨0, 7, 0⟩) = none ∧
    trapAfter (withTeam ready fun t => { t with vregs := 8 }) (.rgive ⟨0, 1, 0⟩) = some (1, 8) ∧
    lane0 ready (.rclaim ⟨8, 1, 0⟩) (·.getP 8) = some false ∧
    lane0 (withGroup (withTeam ready fun t => { t with vregs := 56 }) fun g => { g with pool := 1 }) (.rclaim ⟨8, 1, 0⟩)
      (·.getP 8) = some true := by
  decide +kernel

/-- SpecialRegisters: every register that SRD names, and every one that SWR writes. -/
theorem witness_SpecialRegisters :
    (([0, 1, 2, 3, 4, 5, 6, 7, 12, 13, 14, 15, 20, 21, 22, 23, 24, 32, 35].map fun n => Instr.srd ⟨8, 0, 0⟩ (BitVec.ofNat 6 n)).all
      fun i => issues ready i) = true ∧
    (([20, 21, 22, 23, 24, 32, 35].map fun n => Instr.swr ⟨0, 12, 0⟩ (BitVec.ofNat 6 n)).all fun i => issues ready i) = true := by
  decide +kernel

/-- A trap taken at TRAP 37. -/
def aTrap : Trap :=
  { cause := 0x20, detail := 37, slot := 0, ipc := 0x1004, hdr := 0x1000, addr := 0, iwords := 0, lmask := 0, doneix := 7, opc := none
    etime := 0, skip := true, len := 1, boundary := false, phase := .handler 0 256 0x1000 (some (probeClause [])) }

/-- A state whose team has taken a trap. -/
def trapped (t : Trap) : State := withTeam ready fun k => { k with trap := some t }

/-- A team in handler state. -/
def handling : State := trapped aTrap

/-- TrapInstructions: inside handler state and outside it, in a supervisor context and in a user context. -/
theorem witness_TrapInstructions :
    looks handling (fun c => c.handles && handling.supv c && c.workers handling.guard == [0]) = true ∧
    looks ready (fun c => ! c.handles && ready.supv c) = true ∧
    looks (withCtx ready fun x => { x with supv := false }) (fun c => ! (withCtx ready fun x => { x with supv := false }).supv c) = true ∧
    ([.trap ⟨0, 0, 0⟩, .trapReturn ⟨0, 0, 511⟩, .trapTerminate ⟨0, 0, 510⟩, .bkpt, .eret] : List Instr).all (fun i =>
      issues handling i && issues (never handling) i) = true := by
  decide +kernel

/-- A request of a path to the host, for a load. -/
def aRequest : HostReq :=
  { id := 5, path := { gid := 0, role := 0, slot := 0 }, clause := 0, pa := 2 ^ 49, size := 4, lane := 0, what := .fetch, live := true }

/-- The four invalidations. -/
def tlbInvs : List Instr := [.tlbinvAll ⟨0, 0, 0⟩ ⟨0, 0⟩, .tlbinvAsid ⟨0, 0, 0⟩ ⟨0, 1⟩, .tlbinvPage ⟨0, 12, 0⟩ ⟨0, 1⟩,
  .tlbinvGpage ⟨0, 12, 0⟩ ⟨0, 0⟩]

/-- TlbInvalidation: supervisor and user contexts; translations that each kind covers and one that none but the widest does; no access
outstanding, and one; an invalidation that waits. -/
theorem witness_TlbInvalidation :
    ready.translated = [] ∧ ready.hostReqs = [] ∧ ([aRequest].all fun q => q.live) = true ∧
    (let v : Inval := { who := .clause { gid := 0, role := 0, slot := 0 } 3, ops := [], reqs := [5] }
     ({ ready with hostReqs := [aRequest], invals := [v] } : State).invalsDone.invals = [v]) ∧
    (tlbInvs.all fun i => i.wf && issues ready i && issues (never ready) i && looks ready fun c => ready.supv c &&
      c.workers ready.guard == [0]) = true ∧
    (let s := withCtx ready fun x => { x with supv := false }
     tlbInvs.all fun i => looks s (fun c => ! s.supv c) && trapAfter s i == some (1, 5)) = true ∧
    let e : TlbEntry := { asid := 1, base := 0, size := 30, leaf := 0xBD }
    let own := { e with leaf := 0x3D }
    InvKind.covers .all e = true ∧ InvKind.covers (.asid 1) own = true ∧ InvKind.covers (.asid 2) own = false ∧
    InvKind.covers (.page 1 (2 ^ 30 - 1)) own = true ∧ InvKind.covers (.page 1 (2 ^ 30)) own = false ∧
    InvKind.covers (.asid 1) e = false ∧ InvKind.covers (.gpage 0) e = true ∧ InvKind.covers (.gpage 0) own = false := by
  decide +kernel

/-- A team whose retired instruction waits for firmware. -/
def emulating (w : Word) : State :=
  { trapped { aTrap with cause := 3, detail := 0, iwords := w.setWidth 64, phase := .firmware } with
    input := .team { gid := 0, role := 0 } }

/-- RetiredAndIllegal: each retired form, a word outside the map, and each form at its firmware. -/
theorem witness_RetiredAndIllegal :
    ([.imad24I24 ⟨8, 12, 4, 0⟩, .imad24N24 ⟨8, 12, 4, 0⟩, .dot4i8I8 ⟨8, 12, 4⟩, .dot4i8N8 ⟨8, 12, 4⟩,
      .ldro ⟨8, 12, 0⟩ ⟨0, 0, 2, 0, 0, 0⟩] : List Instr).all (fun i => i.isRetired) = true ∧
    (match parse (0x00E00000 : Word) (0 : Word) with
      | .error _ => true
      | .ok _ => false) = true ∧
    ([(0xF8E41820, .imad24I24 ⟨8, 12, 4, 0⟩), (0xF8E41824, .imad24N24 ⟨8, 12, 4, 0⟩), (0xFAE41820, .dot4i8I8 ⟨8, 12, 4⟩),
      (0xFAE41821, .dot4i8N8 ⟨8, 12, 4⟩)] : List (Word × Instr)).all (fun e =>
        let s := emulating e.1
        (match parse e.1 0 with
          | .ok i => i == e.2
          | .error _ => false) &&
        looks s fun c => s.illegal e.2 c [] == none && c.g.place == .resident) = true := by
  decide +kernel

/-- Lane 0 alone, with 64 KiB of scratchpad; descriptors of a tensor of 8 by 8 f32 and of 2 by 32 weights q4 at 0x4000; the pair 12 and
uniform register 6 as given. -/
def access (a : Nat) : State :=
  let s := withPath (matrices identity2) fun p => { p with mask := 1 }
  let s := withGroup (withLanes s fun l => l.setV2 12 (BitVec.ofNat 64 a)) fun g => { g with spadKiB := 64 }
  let s := withPath s fun p => { (p.setS2 12 (BitVec.ofNat 64 a)).setS 6 0xFFFFFFFF with mask := 1 }
  let t := 0x8000 + 2 ^ 64 + 2 * 2 ^ 72 + 2 ^ 78 + 8 * 2 ^ 128 + 8 * 2 ^ 160 + 8 * 2 ^ 320
  let w := 0x8000 + 16 * 2 ^ 64 + 2 * 2 ^ 72 + 2 ^ 78 + 2 ^ 80 + 32 * 2 ^ 128 + 2 * 2 ^ 160 + 32 * 2 ^ 320 + 0x9000 * 2 ^ 448
  { withCtx s fun x => { x with tenstab := 0x4000 } with mem := memPut (memPut s.mem 0x4000 (bytesLE 64 t)) 0x4040 (bytesLE 64 w) }

/-- LoadsAndStores, MatrixMemory, AtomicForms: an access that every lane may make, and one that it may not: off its alignment, or in a
page that is not mapped. -/
theorem witness_accesses :
    ([.ldG ⟨8, 12, 0⟩ ⟨0, 0, 2, 0, 0, 0⟩, .ldC ⟨8, 12, 0⟩ ⟨0, 0, 2, 0, 0, 0⟩, .smp ⟨8, 12, 4⟩ ⟨0, 0, 2, 0, 0, 0⟩,
      .stG ⟨0, 12, 4⟩ ⟨0, 0, 2, 0, 0, 0⟩, .stGw ⟨0, 12, 4⟩ ⟨0, 0, 2, 0, 0, 0⟩, .ldL ⟨8, 12, 0⟩ ⟨0, 0, 2, 0, 0, 0⟩,
      .stL ⟨0, 12, 4⟩ ⟨0, 0, 2, 0, 0, 0⟩, .ldP ⟨8, 12, 0⟩ ⟨0, 0, 2, 0, 0, 0⟩, .stP ⟨0, 12, 4⟩ ⟨0, 0, 2, 0, 0, 0⟩,
      .atom ⟨8, 12, 4⟩ ⟨0, 0, 0, 0, 0, 0⟩, .red ⟨0, 12, 4⟩ ⟨0, 0, 0, 0, 0, 0⟩, .atomL ⟨8, 12, 4⟩ ⟨0, 0, 0, 0, 0, 0⟩,
      .redL ⟨0, 12, 4⟩ ⟨0, 0, 0, 0, 0, 0⟩, .ldf ⟨8, 12, 4⟩ ⟨4, 0, 3, 0, 0, 0⟩, .stf ⟨0, 12, 4⟩ ⟨4, 0, 3, 0, 0, 0⟩,
      .mld ⟨8, 12, 4⟩ ⟨0, 1, 0, 0, 0, 1, 0, 0⟩, .mld ⟨8, 12, 4⟩ ⟨0, 0, 0, 0, 0, 1, 0, 0⟩, .mst ⟨8, 12, 4⟩ ⟨0, 0, 0, 0, 0, 1, 0, 0⟩] :
      List Instr).all (fun i => trapAfter (access 0) i == none && trapAfter (access 2) i == some (6, 0)) = true ∧
    ([.ldG ⟨8, 12, 0⟩ ⟨0, 0, 2, 0, 0, 0⟩, .stG ⟨0, 12, 4⟩ ⟨0, 0, 2, 0, 0, 0⟩, .atom ⟨8, 12, 4⟩ ⟨0, 0, 0, 0, 0, 0⟩,
      .ldf ⟨8, 12, 4⟩ ⟨4, 0, 3, 0, 0, 0⟩, .mld ⟨8, 12, 4⟩ ⟨0, 1, 0, 0, 0, 1, 0, 0⟩] : List Instr).all (fun i =>
        trapAfter (access (2 ^ 30)) i == some (4, 0)) = true ∧
    ([.mldT ⟨8, 4, 0⟩ ⟨0, 0, 9, 0, 0, 1, 0, 0⟩, .mstT ⟨8, 4, 0⟩ ⟨0, 0, 9, 0, 0, 1, 0, 0⟩, .ldt ⟨8, 4, 9⟩ ⟨0, 0, 2, 0, 0, 0⟩] :
      List Instr).all (fun i => trapAfter (access 0) i == none &&
        trapAfter (withCtx (access 0) fun x => { x with tenstab := 0x6000 }) i == some (7, 0)) = true ∧
    trapAfter (withPath (withLanes (access 0) fun l => l.setM 8 { tag := mkTag false 2 2 3, data := 0 }) fun p => p.setS 9 1)
      (.mldw ⟨8, 4, 0⟩ ⟨0, 0, 9, 0, 0, 0, 0, 0⟩) = none := by
  decide +kernel

/-- ScratchpadAccess: an offset that fits at the end of the scratchpad and one past it; LD.l and ST.l issue there. -/
theorem witness_ScratchpadAccess :
    ((access 0).spadWhere 0 0xFFFC 4).toOption = some (0, 0xFFFC) ∧ ((access 0).spadWhere 0 0xFFFD 4).toOption = none ∧
    (access 0).spadPoisoned 0 0xFFFC 4 = false ∧
    issues (access 0xFFFC) (.ldL ⟨8, 12, 0⟩ ⟨0, 0, 2, 0, 0, 0⟩) = true ∧ issues (access 0xFFFC) (.stL ⟨0, 12, 4⟩ ⟨0, 0, 2, 0, 0, 0⟩) = true ∧
    trapAfter (access 0xFFFC) (.ldL ⟨8, 12, 0⟩ ⟨0, 0, 2, 0, 0, 0⟩) = none ∧
    trapAfter (access 0x10000) (.stL ⟨0, 12, 4⟩ ⟨0, 0, 2, 0, 0, 0⟩) = some (5, 5) := by
  decide +kernel

/-- The state after a narrow store of four bytes at 0x2000. -/
def stored : State := ready.l1StoreNarrow 0 0x2000 (bytesLE 4 0x11223344) 0 { uncached := false, nrd := false, low := false }

/-- WriteBackCache: a core with ways, a dirty line, an acquire that covers something, a line that stays. -/
theorem witness_WriteBackCache :
    ready.l1Ways 0 ≠ [] ∧ 0x2000 % 128 + 4 ≤ 128 ∧ isDeviceMem 0x2000 = true ∧ isDeviceMem (2 ^ 40 - 1) = true ∧
    isDeviceMem (2 ^ 40) = false ∧ ((stored.l1Find 0 64).any fun l => l.dirty.getLsbD 0 && l.dirty.getLsbD 3) = true ∧
    (stored.dir 64).owner = none ∧ ((stored.acquire 0 2).core 0).l1.length = 1 := by
  decide +kernel

/-- FencesAndPrefetch: every fence issues, under both guards; addresses that translate and one that does not. -/
theorem witness_FencesAndPrefetch :
    ([.fence ⟨0, 0, 0⟩ ⟨0, 3, 0, 0⟩, .pfence ⟨0, 0, 0⟩ ⟨5, 0, 0, 15⟩, .wback ⟨0, 12, 0⟩ ⟨0, 0, 0, 0, 0, 0⟩,
      .pref ⟨0, 12, 0⟩ ⟨0, 0, 0, 0, 0, 0⟩, .pref ⟨0, 12, 0⟩ ⟨0, 0, 1, 0, 0, 0⟩] : List Instr).all (fun i =>
        issues (access 0) i && issues (never (access 0)) i) = true ∧
    looks (access 0) (fun c => (tget (access 0).ctxs c.g.asid).any fun k => scopeCovers k 0 5 4095 &&
      ((access 0).translate 0 1 k 0 .read).2.toOption.isSome && ((access 0).translate 0 1 k (2 ^ 30) .read).2.toOption.isNone) = true := by
  decide +kernel

/-- Translation: both ends of the address space, entries of each kind, each level of a walk. -/
theorem witness_Translation :
    (2 ^ 57 - 1 : Nat).testBit 56 = true ∧ ¬ 2 ^ 57 ≤ 2 ^ 57 - 1 ∧ (0x3D : Nat).testBit 6 = false ∧ (0x7D : Nat).testBit 6 = true ∧
    entryFault 2 true 0x3D = none ∧ (0x3D : Nat).testBit 2 = true ∧ entryFault 3 true 0x12001 = none ∧
    (0x12001 : Nat).testBit 2 = false ∧ (entryFault 3 true 5).isSome ∧ (0 : Nat) % 2 = 0 ∧ ready.l2 = [] ∧ (ready.die 0).walk = [] ∧
    looks ready (fun c => (tget ready.ctxs c.g.asid).any fun k =>
      (ready.translate 0 1 k (2 ^ 30 - 1) .rmw).2.toOption.isSome && (ready.translate 0 1 k (2 ^ 30) .read).2.toOption.isNone) = true := by
  decide +kernel

/-- BarrierObjects: counts at the ends of their ranges, objects that are whole and in error. -/
theorem witness_BarrierObjects :
    let b : Bar := { Bar.init 4095 with phase := 15, expect := 2 ^ 32 - 1, landed := 2 ^ 32 - 1 }
    b.phase < 16 ∧ b.reload < 4096 ∧ b.pend < 4096 ∧ b.pend = 4095 ∧ b.expect < 2 ^ 32 ∧ b.ovf = false ∧ b.serr = false ∧
    b.landed = b.expect ∧ 2 ^ 32 ≤ b.expect + 1 ∧ 2 ^ 32 ≤ b.landed + 1 ∧ (tget ready.groups 0).isSome ∧
    (ready.at { gid := 0, role := 0, slot := 0 }).isSome ∧
    ((ready.barStep 0 0 fun b => b.arrive 1).at { gid := 0, role := 0, slot := 0 }).isSome := by
  decide +kernel

/-- A state whose scratchpad holds a barrier object at offset 0. -/
def barred (b : Bar) : State := (access 0).spadPut 0 0 (bytesLE 16 b.toNat)

/-- BarrierInstructions: an object without error and one in error, at the ends of the scratchpad, a phase that has changed and one
that has not, counts at and past the bounds. -/
theorem witness_BarrierInstructions :
    ([.binit ⟨0, 12, 4⟩ ⟨0, 0, 0, 0⟩, .barv ⟨0, 12, 0⟩ ⟨0, 0, 0, 0⟩, .bexp ⟨0, 12, 4⟩ ⟨0, 0, 0, 0⟩, .bwait ⟨0, 12, 0⟩ ⟨0, 0, 1, 1⟩,
      .btest ⟨8, 12, 0⟩ ⟨0, 0, 1, 0⟩, .barvx ⟨0, 12, 4⟩ ⟨0, 0, 1, 1⟩] : List Instr).all (fun i =>
        issues (barred (Bar.init 1)) i && issues (never (barred (Bar.init 1))) i) = true ∧
    ((barred (Bar.init 1)).spadWhere 0 0xFFF0 16).toOption = some (0, 0xFFF0) ∧ ((barred (Bar.init 1)).bar 0 0).error = none ∧
    ((barred (Bar.init 1)).bar 0 0).phase = 0 ∧ ((barred { Bar.init 1 with serr := true }).bar 0 0).error = some 0 ∧
    trapAfter (barred (Bar.init 1)) (.binit ⟨0, 12, 0⟩ ⟨0, 0, 1, 4095⟩) = none ∧
    trapAfter (barred (Bar.init 1)) (.binit ⟨0, 12, 0⟩ ⟨0, 0, 1, 0⟩) = some (0x0C, 2) ∧
    trapAfter (withPath (barred (Bar.init 1)) fun p => p.setS 4 4096) (.binit ⟨0, 12, 4⟩ ⟨0, 0, 0, 0⟩) = some (0x0C, 2) ∧
    trapAfter (barred (Bar.init 1)) (.barv ⟨0, 12, 0⟩ ⟨0, 0, 0, 0⟩) = none ∧
    trapAfter (barred { Bar.init 1 with serr := true }) (.barv ⟨0, 12, 0⟩ ⟨0, 0, 0, 0⟩) = some (0x0C, 0) ∧
    pathAfter (barred (Bar.init 1)) (.bwait ⟨0, 12, 0⟩ ⟨0, 0, 1, 0⟩) (·.status) = some (.asleep 0 0) ∧
    pathAfter (barred (Bar.init 1)) (.bwait ⟨0, 12, 0⟩ ⟨0, 0, 1, 1⟩) (·.status) = some .running := by
  decide +kernel

/-- Markers: an empty marker, the same name, another name; a name and 0; a notice and none. -/
theorem witness_Markers :
    ([.mark ⟨2, 12, 0⟩ ⟨0, 0⟩, .unmark ⟨2, 0, 0⟩ ⟨0, 0⟩, .frog ⟨8, 12, 0⟩ ⟨4, 0⟩, .frogq ⟨8, 0, 9⟩ ⟨0, 0⟩] : List Instr).all (fun i =>
      issues (access 0) i && issues (access 64) i && issues (never (access 0)) i) = true ∧
    looks (access 64) (fun c => c.t.marker 2 == 0 && c.p.getS2 12 == 64) = true ∧
    looks (withTeam (access 64) fun t => { t with markers := [(2, 64)] }) (fun c => c.t.marker 2 == c.p.getS2 12) = true ∧
    looks (withTeam (access 64) fun t => { t with markers := [(2, 128)] })
      (fun c => c.t.marker 2 != 0 && c.t.marker 2 != c.p.getS2 12) = true ∧
    looks (access 0) (fun c => c.p.getS2 12 == 0) = true := by
  decide +kernel

/-- AsyncOperations: each form is accepted, on operands that pass its checks. -/
theorem witness_AsyncOperations :
    (let s := withPath (access 0x2000) fun p => (p.setS2 8 (BitVec.ofNat 64 0)).setS 4 1
     ([.cpyGl ⟨8, 12, 0⟩ ⟨0, 0, 0, 6, 0, 3⟩, .cpyLg ⟨12, 8, 0⟩ ⟨0, 0, 0, 0, 0, 3⟩, .cpyg ⟨8, 12, 0⟩ ⟨0, 0, 0, 0, 0, 3⟩,
      .cpym ⟨0, 12, 4⟩ ⟨0, 0, 0, 0, 0, 1⟩, .cdrain ⟨8, 0, 0⟩ ⟨0, 0, 0, 6, 0, 0⟩, .cpyt ⟨8, 9, 16⟩ ⟨0, 0, 0, 6, 0, 7⟩,
      .cpytG ⟨8, 9, 16⟩ ⟨0, 0, 0, 0, 0, 0x8007⟩] : List Instr).all fun i => issues s i && trapAfter s i == none &&
        match exec i s with
          | .next t => t.ops.length == 1
          | _ => false) = true ∧
    (access 0).ops.length < 16 ∧
    looks (access 0x2000) (fun c => c.p.getS 4 == 0 && decide ((c.p.getS 4).toNat < 2 ^ (access 0x2000).gangSize c.g)) = true := by
  decide +kernel

/-- AsyncOperations and the rest: no worker lane, and each form that is then its fences alone. -/
theorem witness_fences_alone :
    ([.cpyGl ⟨8, 12, 0⟩ ⟨0, 1, 1, 6, 0, 3⟩, .cpyLg ⟨12, 8, 0⟩ ⟨0, 1, 1, 0, 0, 3⟩, .cpyg ⟨8, 12, 0⟩ ⟨0, 1, 1, 0, 0, 3⟩,
      .cpym ⟨0, 12, 4⟩ ⟨0, 1, 1, 0, 0, 1⟩, .cdrain ⟨8, 0, 0⟩ ⟨0, 1, 1, 6, 0, 0⟩, .qapp ⟨8, 12, 0⟩ ⟨0, 1, 1, 0, 0, 0⟩,
      .launch ⟨8, 12, 0⟩ ⟨0, 1, 1, 0, 0, 0⟩, .rapp ⟨8, 12, 4⟩ ⟨5, 0, 0, 0, 0, 3⟩, .wmadv ⟨0, 12, 0⟩ ⟨4, 0, 0, 0, 0, 3⟩,
      .sclose ⟨0, 0, 0⟩ ⟨4, 0, 0, 0, 0, 3⟩] : List Instr).all (fun i => issues (never (access 0)) i) = true := by
  decide +kernel

/-- The state in which lane 0 of an instruction is issued and not performed. -/
def issued (s : State) (i : Instr) : Option State :=
  match exec i { s with mode := .lanes 0 } with
  | .next t => if t.issues.isEmpty then none else some t
  | _ => none

/-- Performs and PerformsAll: a step that performs some lanes, a lane in host memory, a byte that is poisoned; a store, a load and an
atomic whose lane is issued, and performed by the event that ends it. -/
theorem witness_modes :
    (Mode.lanes 1).now .atom (0, []) = true ∧ (Mode.lanes 1).now .atom (1, []) = false ∧ Mode.whole.now .atom (1, []) = true ∧
    Mode.whole.now .atom (0, [.mem 0 (2 ^ 49) 4 { uncached := true, nrd := true, low := false }]) = false ∧
    (let s : State := { access 0 with poison := [3] }
     trapAfter s (.ldG ⟨8, 12, 0⟩ ⟨0, 0, 2, 0, 0, 0⟩) = some (0x10, 0) ∧ trapAfter s (.atom ⟨8, 12, 4⟩ ⟨0, 0, 0, 0, 0, 0⟩) = some (0x10, 0)) ∧
    ([.stG ⟨0, 12, 4⟩ ⟨0, 0, 2, 0, 0, 0⟩, .ldG ⟨8, 12, 0⟩ ⟨0, 0, 2, 0, 0, 0⟩, .atom ⟨8, 12, 4⟩ ⟨0, 0, 0, 0, 0, 0⟩,
      .stf ⟨0, 12, 4⟩ ⟨4, 0, 3, 0, 0, 0⟩] : List Instr).all (fun i => (issued (access 0) i).any fun t =>
        t.mem == (access 0).mem && match t.issues with
        | [e] => t.issueOf e.id == some e && match e.lanes with
          | [l] => l.grain == 1 && match l.pieces with
            | [p] => p.isOpen && ! (p.isHost && e.how.reads) && ! t.wouldPoison e.core e.how [p] &&
                (t.doEvent e.id l.lane 0).issues == []
            | _ => false
          | _ => false
        | _ => false) = true := by
  decide +kernel

/-- BarrierObjects and BarrierInstructions: a path asleep on an object whose next arrival completes the phase, overflows it, and does
neither; one that a phase change has woken, and one that an error has. -/
theorem witness_barrier_sleepers :
    let r : Ref := { gid := 0, role := 0, slot := 0 }
    let asleep (b : Bar) : State := withPath (barred b) fun p => { p with status := .asleep 0 0 }
    let after (b : Bar) (n : Nat) : Option (PathStatus × Option (Option Nat)) :=
      (((asleep b).barStep 0 0 fun b => b.arrive n).at r).map fun c => (c.p.status, c.p.wake)
    after (Bar.init 1) 1 = some (.running, some none) ∧ after (Bar.init 1) 2 = some (.running, some (some 1)) ∧
    after (Bar.init 2) 1 = some (.asleep 0 0, none) ∧
    looks (withPath (barred (Bar.init 1)) fun p => { p with wake := some none }) (fun c => c.p.wake == some none) = true ∧
    issues (withPath (barred (Bar.init 1)) fun p => { p with wake := some (some 1) }) (.bwait ⟨0, 12, 0⟩ ⟨0, 0, 1, 1⟩) = true := by
  decide +kernel
/-- A source at its start: 64-byte slots, 16 of them, its ring at 0x30000. -/
def aSource : Source :=
  { ring := 0x30000, idlet := 0, swc := false, en := true, slotLog := 6, nLog := 4, xen := false, xsrc := 0, xpeer := 0, wridx := 0
    rdidx := 0, swm := 0, lastact := 0, state := .active }

/-- A state with source 3, and a queue 0 whose header at 0x20000 holds a configuration word and whose first packet is given. -/
def queued (conf packet : Nat) : State :=
  let s := withCtx ready fun x => { x with queues := [(0, 0x20000)], sources := [(3, aSource)], strtab := 0x40000 }
  { s with
    input := .queue { asid := 1, q := 0 }
    mem := memPut (memPut s.mem 0x20000 (bytesLE 64 (1 + 2 ^ 192 * conf))) 0x20040 (bytesLE 64 packet) }

/-- A state in which a packet has been appended by software before the path runs. -/
def appending (conf : Nat) : State :=
  withGroup (withPath (queued conf 0) fun p => p.setS 12 0x40) fun g => { g with spadKiB := 64 }

/-- AppendsAndChaining: a queue that is in use, one that is not, one that is disabled, one in error; room; each phase and error of
the predecessor object. -/
theorem witness_AppendsAndChaining :
    ([.qapp ⟨8, 12, 0⟩ ⟨0, 0, 0, 0, 0, 0⟩, .launch ⟨8, 12, 0⟩ ⟨0, 0, 0, 0, 0, 0⟩] : List Instr).all (fun i =>
      issues (appending 0x106) i && trapAfter (appending 0x106) i == none && trapAfter (appending 0x006) i == some (1, 8) &&
      trapAfter (appending 0x8106) i == some (1, 8) && trapAfter ready i == some (1, 8)) = true ∧
    looks (appending 0x106) (fun c => (tget (appending 0x106).ctxs 1).any fun k =>
      match (appending 0x106).translate c.g.core c.g.asid k 0x20000 .rmw with
      | (w, .ok y) =>
        let e := w.pageNat y 0x18 8
        e.2 == 0x106 && (e.1.spadWhere 0 0x40 64).toOption == some (0, 0x40) &&
          (e.1.globalSectors c.g.core c.g.asid k 0x20000 (64 + 64 * 2 ^ bitsOf e.2 0 5) .rmw).2.toOption.isSome
      | _ => false) = true ∧ (appending 0x106).ops.length < 16 ∧
    ([.succ, .predw, .qapp ⟨8, 12, 0⟩ ⟨0, 0, 0, 0, 0, 0⟩, .launch ⟨8, 12, 0⟩ ⟨0, 0, 0, 0, 0, 0⟩] : List Instr).all (fun i =>
      match exec i (never (appending 0x106)) with
      | .next t => t.ops == [] && (trapAfter (never (appending 0x106)) i).isNone
      | _ => false) = true ∧
    ([.succ, .predw] : List Instr).all (fun i => issues ready i && issues (never ready) i) = true ∧
    looks ready (fun c => c.g.predPhase && ! c.g.predErr) = true ∧
    trapAfter (withGroup ready fun g => { g with predErr := true }) .predw = some (0x0C, 3) ∧
    pathAfter (withGroup ready fun g => { g with predPhase := false }) .predw (·.status) = some .asleepPred ∧
    pathAfter ready .predw (·.status) = some .running := by
  decide +kernel

/-- A binding of source 3 into tumbling windows of length 10, with one window open in slot 0. -/
def aBinding : Binding :=
  { inputs := 8, length := 10, slide := 10, origin := 0, lateness := 0, en := true, outen := false, dlen := false, die := 0
    outsrc := 0, dlsrc := 0, lbatch := 1, ltimer := 1, bincap := 4, bufpool := 0x50000, nbuf := 4, bslot := 6, wdesc := 0x60000
    result := 0x61000, resstr := 64, firerec := 0x62000, amendrec := 0x62040, toolate := 0, ovfcnt := 0, dldrop := 0, stagewm := 0
    outwm := 0, windows := [(0, { Window.new 0 0 with n := 1 })], bufs := [0], todo := [.record 3 0 (bytesLE 64 0) false]
    view := [(3, (0, .active))] }

/-- A state with that source and binding 2. -/
def streaming (b : Binding) : State :=
  withCtx (withPath (queued 0x106 0) fun p => p.setS2 12 5) fun x => { x with bindings := [(2, b)] }

/-- The grid of a window of that binding, current. -/
def firing (published : Bool) : State :=
  let s := streaming aBinding
  { s with grids := tmap s.grids fun _ d => { d with origin := .window 2 0 false, published := published } }

/-- StreamInstructions: a source that is enabled, one that is not there, one that is closed; a record that is longer than its slot, one
whose payload lies outside the scratchpad; a grid of a window, before and after its publication, with a header that is not mapped, and one of a
packet; no worker lane. -/
theorem witness_StreamInstructions :
    (tget ready.ctxs 1).all (fun x => ! x.hasSource 3) = true ∧ (tget (streaming aBinding).ctxs 1).any (fun x => x.hasSource 3) = true ∧
    looks (streaming aBinding) (fun c => (c.workers (streaming aBinding).guard).all fun l =>
      decide (((c.t.lane l).getV 15).toNat % 65536 ≤ 2 ^ 6 - 16)) = true ∧
    ([.rapp ⟨8, 12, 4⟩ ⟨5, 0, 0, 0, 0, 3⟩, .wmadv ⟨0, 12, 0⟩ ⟨4, 0, 0, 0, 0, 3⟩, .sclose ⟨0, 0, 0⟩ ⟨4, 0, 0, 0, 0, 3⟩] : List Instr).all
      (fun i => issues (streaming aBinding) i && trapAfter (streaming aBinding) i == none && trapAfter ready i == some (1, 8)) = true ∧
    aSource.state ≠ .closed ∧ ({ aSource with state := .closed } : Source).state = .closed ∧
    trapAfter (withLanes (streaming aBinding) fun l => l.setV 15 100) (.rapp ⟨8, 12, 4⟩ ⟨5, 0, 0, 0, 0, 3⟩) = some (1, 8) ∧
    trapAfter (withLanes (streaming aBinding) fun l => l.setV 15 8) (.rapp ⟨8, 12, 4⟩ ⟨5, 0, 0, 0, 0, 3⟩) =
      some (5, 5) ∧
    trapAfter (never (streaming aBinding)) (.rapp ⟨8, 12, 4⟩ ⟨5, 0, 0, 0, 0, 3⟩) = none ∧
    trapAfter (never (firing false)) (.wpub ⟨0, 0, 0⟩ ⟨4, 0, 0, 0, 0, 0⟩) = none ∧
    (let s := firing false
     trapAfter { s with grids := tmap s.grids fun _ d => { d with res := 2 ^ 30 } } (.wpub ⟨0, 0, 0⟩ ⟨4, 0, 0, 0, 0, 0⟩) = some (4, 0)) ∧
    trapAfter (firing false) (.wpub ⟨0, 0, 0⟩ ⟨4, 0, 0, 0, 0, 0⟩) = none ∧ trapAfter (firing true) (.wpub ⟨0, 0, 0⟩ ⟨4, 0, 0, 0, 0, 0⟩) = none ∧
    trapAfter (firing false) (.wpubAmend ⟨0, 0, 0⟩ ⟨4, 0, 0, 0, 0, 0⟩) = some (1, 8) ∧
    trapAfter ready (.wpub ⟨0, 0, 0⟩ ⟨4, 0, 0, 0, 0, 0⟩) = some (1, 8) ∧
    looks (firing false) (fun c => (tget (firing false).grids c.g.grid).any fun d =>
      d.origin == .window 2 0 false && ((firing false).binding 1 2).any fun b => (tget b.2.windows 0).isSome) = true := by
  decide +kernel

/-- TakingExceptions: no trap and one that is served; each cause's server; no handler, no free frame, a free one; a trap to return
from, with SKIP and without. -/
theorem witness_TakingExceptions :
    looks ready (fun c => c.t.trap.isNone && (tget ready.ctxs c.g.asid).any fun x =>
      x.traph != 0 && lowestFree x.nframe x.frames == some 0) = true ∧
    looks handling (fun c => c.t.trap.isSome) = true ∧
    (tget (withCtx ready fun x => { x with frames := [0] }).ctxs 1).any (fun x => lowestFree x.nframe x.frames == none) = true ∧
    (let t : Trap := { aTrap with cause := 1023, detail := 65535, slot := 1, doneix := 7, ipc := 2 ^ 64 - 1, opc := some 0 }
     t.cause < 1024 ∧ t.detail < 65536 ∧ t.slot < 2 ∧ t.doneix < 8 ∧ t.ipc < 2 ^ 64) ∧
    looks handling (fun c => (tget handling.ctxs c.g.asid).any fun x =>
      ((handling.cleanLines c.g.core c.g.asid x 256).unitNat 0 c.g.asid x 256 8).2.toOption.isSome &&
      ((handling.cleanLines c.g.core c.g.asid x 256).unitNat 0 c.g.asid x 0x128 8).2.toOption.isSome) = true ∧
    bitOf 0x400 10 = true ∧ bitOf 0 10 = false ∧ aTrap.boundary = false := by
  decide +kernel

/-- A state whose path stands before a clause header at 0x1000, which holds the given words. -/
def fetching (ws : List Word) : State :=
  let s := withPath ready fun p => { p with clause := none }
  { s with mem := memPut s.mem 0x1000 (ws.flatMap fun w => bytesLE 4 w.toNat) }

/-- The header of a clause of one word of class ALU, with no flag. -/
def oneAlu : Word := word (2 ^ 28 + 15 * 2 ^ 7 + 15 * 2 ^ 3)

/-- TakingExceptions: a trap that waits for its team, of each cause, with a handler and without one; a frame that can be written and
one that cannot; a frame to return from that can be read, one that cannot at its start, and one that cannot behind it. -/
theorem witness_trap_phases :
    ([3, 4, 5, 0x20] : List Nat).all (fun n => let s := trapped { aTrap with cause := n, phase := .drain }
      ! s.teamBusy 0 0 && (tget s.groups 0).any fun g => (tget g.teams 0).any fun t => t.trap == some { aTrap with
        cause := n, phase := .drain }) = true ∧
    (tget ready.ctxs 1).any (fun x => x.traph != 0) = true ∧
    (tget (withCtx ready fun x => { x with traph := 0 }).ctxs 1).any (fun x => x.traph == 0) = true ∧
    ([0, 2 ^ 30] : List Nat).all (fun a => let s := withCtx (trapped { aTrap with phase := .frame }) fun x => { x with trapfr := a }
      looks s fun c => (tget s.ctxs c.g.asid).any fun x => lowestFree x.nframe x.frames == some 0 &&
        ((s.cleanLines c.g.core c.g.asid x (a + 256)).unitWrite (dieOf c.g.core) c.g.asid x (a + 256) (frameBytes c aTrap)).2.isNone ==
          (a == 0)) = true ∧
    ([256, 2 ^ 30, 2 ^ 30 - 8] : List Nat).all (fun a =>
      let s := trapped { aTrap with phase := .handler 0 a 0x1000 (some (probeClause [])) }
      looks s fun c => (tget s.ctxs c.g.asid).any fun x =>
        let h := (s.cleanLines c.g.core c.g.asid x a).unitNat (dieOf c.g.core) c.g.asid x a 8
        let q := h.1.unitNat (dieOf c.g.core) c.g.asid x (a + 0x28) 8
        h.2.toOption.isSome == (a != 2 ^ 30) && q.2.toOption.isSome == (a == 256)) = true := by
  decide +kernel

/-- TakingExceptions: a team with a FROG in the sequencer, and none; a trap that waits for it. -/
theorem witness_trap_waits :
    let w : Sweep := { name := 64, scope := 4, core := 0, who := .frog { gid := 0, role := 0, slot := 0 } 0 8 1, op := 0 }
    let s := withCtx (trapped { aTrap with phase := .drain }) fun x => { x with sweeps := [w] }
    ((s.settle 0 0).teamBusy 0 0) = true ∧ ((ready.settle 0 0).teamBusy 0 0) = false ∧
    looks s (fun c => c.t.trap == some { aTrap with phase := .drain }) = true ∧
    looks (trapped { aTrap with phase := .drain }) (fun _ => ! (trapped { aTrap with phase := .drain }).teamBusy 0 0) = true ∧
    (match exec (.trap ⟨0, 0, 37⟩) (withCtx ready fun x => { x with sweeps := [w] }) with
      | .next t => (t.at { gid := 0, role := 0, slot := 0 }).any fun c => c.t.trap.any fun k => k.phase == .drain
      | _ => false) = true := by
  decide +kernel

/-- SchedulingEvents: a clause that starts, one whose flags are pending, one that asks for a leave, one that is faulty, a header that
cannot be fetched; a clause to release; the three kinds of split at a join; two teams to exchange; grants, droop steps, watchdogs. -/
theorem witness_SchedulingEvents :
    (let s := fetching [oneAlu, 0x02E41821]
     looks s (fun c => s.mayIssue c && c.p.clause.isNone && ! s.wdogDue c && ! c.joins oneAlu && c.flagsOpen oneAlu && ! hdrLeave oneAlu &&
       (tget s.ctxs c.g.asid).any fun x => (s.fetchWord c x c.p.pc).2.toOption == some oneAlu &&
         ((s.fetchWord c x c.p.pc).1.fetchClause c x (hdrCount oneAlu) (c.p.pc + 4) []).2.toOption == some [0x02E41821] &&
         (s.fetchWord c x (2 ^ 30)).2.toOption.isNone) = true) ∧
    clauseFault oneAlu (splitWords 1 [0x02E41821]) = none ∧ (clauseFault (oneAlu + 1) (splitWords 1 [0x02E41821])).isSome ∧
    hdrLeave (oneAlu + 4) = true ∧ hdrJ (oneAlu + 2) = true ∧
    (let o : Outst := { clause := 0, seta := some 0, setb := none, slots := 1, issued := true, ops := [], since := 0, asy := false }
     let s := withTeam (fetching [oneAlu]) fun t => { t with outst := [o] }
     looks s (fun c => ! c.flagsOpen (oneAlu + 2 ^ 11) && c.t.outst.find? (fun o => o.clause = 0) == some o) = true) ∧
    (let s := withPath (fetching [oneAlu + 2]) fun p => { p with jp := some 0x1000 }
     looks s (fun c => s.standsAtJoin c) = true ∧
     looks (withTeam s fun t => { t with splits := [.pushed 0 2 0x2000 0x1000 none false] }) (fun c => c.r.slot == 0) = true) ∧
    (waiting.core 0).active = [{ gid := 0, role := 0 }] ∧ waiting.pendingTeams 0 = [{ gid := 0, role := 1 }] ∧
    waiting.teamReady { gid := 0, role := 1 } = true ∧
    (let s := withPath (withTeam waiting fun t => { t with outst := [
        { clause := 9, seta := some 0, setb := none, slots := 1, issued := true, ops := [(5, 0)], since := 0, asy := false }] }) fun p =>
          { p with clause := none, status := .asleepPred }
     s.blockedLong { gid := 0, role := 0 } = true) ∧
    (ready.die 0).changed + Config.droopTicks ≤ 80 ∧ ready.etime < (ready.die 0).changed + Config.droopTicks ∧
    (tget ready.grids 0).any (fun d => ! d.done) = true ∧
    (({ ready with grids := [(0, { probeGrid with started := some 0 })] } : State).grids.all fun d =>
      d.2.started.isSome && ! d.2.done && d.2.expired.isNone) = true ∧ (tget ready.ctxs 1).any (fun x => decide (0 < x.wdogTicks)) = true := by
  decide +kernel

/-- The first GiB lies in host memory. -/
def hosted (s : State) : State := { s with mem := memPut s.mem 0x12000 (bytesLE 8 (2 ^ 49 + 0x3D)) }

/-- SchedulingEvents: a word of code that the host has still to give. -/
theorem witness_code_of_the_host :
    (let s := hosted (fetching [oneAlu])
     looks s fun c => (tget s.ctxs c.g.asid).any fun x => match (s.fetchWord c x c.p.pc).2 with
       | .error none => true
       | _ => false) = true := by
  decide +kernel

/-- A state whose path has been ready since a cycle count, with the count of the core. -/
def since (n cyc : Nat) (s : State) : State :=
  { s with
    groups := tmap s.groups fun _ g => { g with
      teams := tmap g.teams fun _ t => { t with paths := tmap t.paths fun _ p => { p with since := some n } } }
    clocks := [(0, { Clock.zero with cyc := BitVec.ofNat 64 cyc })] }

/-- SchedulingEvents: paths that may run, at a clause start of the preferred gauge and within a clause; a team that is
blocked long beside one that is ready; one that has been ready for 224 cycles, and the team whose last issue is the oldest. -/
theorem witness_selection :
    looks (since 0 5 (fetching [oneAlu])) (fun c => let s := since 0 5 (fetching [oneAlu])
      s.mayRun c && (s.cand c).any fun k => k.start && k.gauge == (s.core 0).pref) = true ∧
    (let s := since 0 5 (withPath ready fun p => { p with clause := p.clause.map fun k => { k with pos := 1 } })
     looks s (fun c => s.mayRun c && (s.cand c).any fun k => ! k.start) = true) ∧
    (let s := withPath (withTeam waiting fun t => { t with outst := [
        { clause := 9, seta := some 0, setb := none, slots := 1, issued := true, ops := [(5, 0)], since := 0, asy := false }] }) fun p =>
          { p with clause := none, status := .asleepPred }
     (s.core 0).active.contains { gid := 0, role := 0 } && s.blockedLong { gid := 0, role := 0 } &&
       s.longestReady 0 == some { gid := 0, role := 1 }) = true ∧
    (let s := since 3 300 waiting
     s.readySince { gid := 0, role := 1 } = some 3 ∧ 3 + Config.forcedCycles ≤ (s.clock 0).cyc.toNat ∧
     s.oldestIssue 0 = some { gid := 0, role := 0 } ∧ (s.pendingTeams 0).contains { gid := 0, role := 1 } = true) := by
  decide +kernel

/-- SchedulingEvents: a clause to release; a leave that is asked for, before and after its deadline; a watchdog whose grid has a team in
handler state, and one that has none. -/
theorem witness_events :
    (let o : Outst := { clause := 7, seta := some 0, setb := none, slots := 1, issued := true, ops := [], since := 0, asy := false }
     looks (withTeam ready fun t => { t with outst := [o] }) fun c => c.t.outst.find? (fun o => o.clause = 7) == some o) = true ∧
    looks (withPath ready fun p => { p with grant := .asked 0 1 }) (fun c => c.p.grant == .asked 0 1) = true ∧
    ready.etime < 0 + Config.grantTicks ∧ 0 + Config.grantTicks ≤ ({ ready with etime := 800 } : State).etime ∧
    (handling.groups.any fun g => g.2.grid == 0 && g.2.place == .resident && g.2.teams.any fun t => t.2.inHandler) = true ∧
    (ready.groups.all fun g => g.2.grid == 0 && g.2.teams.all fun t => ! t.2.inHandler) = true ∧
    (tget ready.grids 0).any (fun d => d.expired.isNone) = true := by
  decide +kernel

/-- GroupsAndGrids: a group alone in its gang, at a boundary and within a clause, with save slots and without; a saved one; a grid that
waits, one that is over, one whose predecessor has retired. -/
theorem witness_GroupsAndGrids :
    (let s := withCtx (fetching []) fun x => { x with nsave := 1 }
     (tget s.groups 0).any (fun g => g.place == .resident && g.stopped && (s.gangMembers g.gang).length == 1) = true) ∧
    (tget ready.groups 0).any (fun g => ! g.stopped) = true ∧ (tget ready.ctxs 1).any (fun x => x.nsave == 0) = true ∧
    (let s := withGroup ready fun g => { g with place := .saved 0 0 }
     (tget s.groups 0).any (fun g => (tget s.grids 0).any fun d => (tget s.gangs g.gang).any fun k =>
       s.alive g.asid && s.mayResume [(0, g)] d 5 k.size) = true) ∧
    (let d : Grid := { probeGrid with next := 0, waitSince := some 0 }
     d.waits = true ∧ d.lr.gsz = 1 ∧ ready.etime < 0 + Config.preemptTicks ∧ (ready.coreFor d).isSome = true) ∧
    (let d : Grid := { probeGrid with next := 0, waitSince := some 0, lr := { probeRec with spad := 4096 } }
     d.waits = true ∧ ready.coreFor d = none ∧ 0 + Config.preemptTicks ≤ ({ ready with etime := 400000 } : State).etime) ∧
    (tget (ready.settleGroup 0 ((tget ready.groups 0).getD (probeGroup []))).groups 0).isSome = true ∧
    ready.groupBusy 0 ((tget ready.groups 0).getD (probeGroup [])) = false ∧
    (let w : Sweep := { name := 64, scope := 4, core := 0, who := .frog { gid := 0, role := 0, slot := 0 } 0 8 1, op := 0 }
     (withCtx ready fun x => { x with sweeps := [w] }).groupBusy 0 ((tget ready.groups 0).getD (probeGroup []))) = true ∧
    (let s := withGroup { ready with grids := tmap ready.grids fun _ d => { d with endedN := 1 } } fun g => { g with place := .ended }
     (tget s.grids 0).any (fun d => s.gridOver 0 d) = true) ∧
    (let s := { ready with grids := [(0, { probeGrid with done := true }), (1, { probeGrid with pred := some 0 })] }
     (tget s.grids 1).any (fun d => d.pred == some 0 && ! d.predDone) = true ∧
     (tget s.grids 0).any (fun e => e.done && ! e.killed) = true) := by
  decide +kernel

/-- A launch packet of one group of one team of one lane. -/
def aLaunch : Nat :=
  1 + 2 ^ 32 + 2 ^ 48 + 0x1000 * 2 ^ 64 + 2 ^ 128 + 2 ^ 160 + 2 ^ 164 + 2 ^ 181

/-- QueuePackets: a queue that is disabled, in error, of a faulty header, of an unknown kind; a packet of every kind, sound, with a
reserved field set, with an odd address; a started WAITSEQ. -/
theorem witness_QueuePackets :
    let q : QRef := { asid := 1, q := 0 }
    let heads (conf packet kind : Nat) : Bool := ((queued conf packet).nextPacket q kind).2.isSome
    ([0x006, 0x106, 0x8106, 0x100, 0x146].all fun c => ((queued c 0).readHeader q).2.isSome) = true ∧
    headerError false 0x106 0 = none ∧ headerError false 0x105 0 = some 3 ∧ headerError false 0x110 0 = none ∧
    headerError false 0x111 0 = some 3 ∧ headerError false 0x146 0 = some 3 ∧ headerError false (2 ^ 24 + 0x106) 0 = some 2 ∧
    ((queued 0x106 5).headOf q).2.isSome ∧ ((queued 0x106 5).mayStart q 0x106 false).isSome ∧
    heads 0x106 aLaunch 1 = true ∧ recordError aLaunch = none ∧ (recordError (aLaunch + 2 ^ 24)).isSome ∧
    heads 0x106 (2 + 0x2000 * 2 ^ 64 + 0x3000 * 2 ^ 128 + 64 * 2 ^ 192) 2 = true ∧ heads 0x106 (3 + 0x2000 * 2 ^ 64) 3 = true ∧
    heads 0x106 (4 + 0x2000 * 2 ^ 64) 4 = true ∧ heads 0x106 (6 + 3 * 2 ^ 32) 6 = true ∧
    heads 0x106 (7 + 3 * 2 ^ 32 + 2 ^ 40 + 0x2000 * 2 ^ 64) 7 = true ∧
    (tget (queued 0x106 0).ctxs 1).any (fun x => (x.hasSource 3 && ! x.hasSource 4) && (tget x.sources 3).any fun k => k.en &&
      let h : Head := { x := x, hdr := 0x20000, die := 0, conf := 0x106, rd := 0, packet := [] }
      ((queued 0x106 0).checkPages h 1 [(0x2000, 8, .write), (0x2000, 64, .read)]).2 == none &&
      ((queued 0x106 0).checkPages h 1 [(2 ^ 30, 8, .write)]).2 == some { code := 5, fault := 4 } &&
      ((queued 0x106 0).checkPlens h 1 k 0x2000 1).2 == none) = true ∧
    bitsOf (4 + 2 ^ 9) 9 55 ≠ 0 ∧ bitsOf 4 9 55 = 0 ∧ field (4 + 0x2001 * 2 ^ 64) 8 8 % 8 ≠ 0 ∧
    (let p : Packet := { index := 0, kind := 4, bytes := bytesLE 64 4, grid := none, left := 0, since := 0, done := false }
     let s := (queued 0x106 0).modEngine q fun e => { e with packets := [p] }
     (s.engine q).packets.find? (fun p => p.kind = 4 && ! p.done) = some p ∧ s.etime < p.since + 1024 ∧
     ((s.engine q).packets.takeWhile fun p => p.done) = []) := by
  decide +kernel

/-- QueuePackets: a packet of records and a copy that the engine carries. -/
theorem witness_carried :
    let q : QRef := { asid := 1, q := 0 }
    ([2, 7] : List Nat).all (fun k =>
      let p : Packet := { index := 0, kind := k, bytes := bytesLE 64 k, grid := none, left := 1, since := 0, done := false }
      let s := (queued 0x106 k).modEngine q fun e => { e with packets := [p] }
      (s.engine q).carries == some p && (s.readHeader q).2.isSome && (s.engine q).packets.find? (fun p => p.index = 0) == some p) = true := by
  decide +kernel
/-- SchedulingEvents: a clause whose second word lies in a page that is not mapped, and in one of the host. -/
theorem witness_clause_words :
    (let p := withPath ready fun p => { p with clause := none, pc := 2 ^ 30 - 4 }
     let s : State := { p with
       grids := tmap p.grids fun _ d => { d with lr := { probeRec with code := 2 ^ 30 - 4096, csz := 2 } }
       mem := memPut p.mem (2 ^ 30 - 4) (bytesLE 4 oneAlu.toNat) }
     let t : State := { s with mem := memPut s.mem 0x12008 (bytesLE 8 (2 ^ 49 + 0x3D)) }
     let ends (s : State) : Option (Option Nat) := s.look.bind fun c => (tget s.ctxs c.g.asid).bind fun x =>
       match s.fetchWord c x c.p.pc with
       | (u, .ok w) => match (u.fetchClause c x (hdrCount w) (c.p.pc + 4) []).2 with
         | .error (f, _) => some (f.map Flt.cause)
         | .ok _ => none
       | _ => none
     ends s = some (some 4) ∧ ends t = some none) := by
  decide +kernel

/-- A team with two paths in the same clause, ready since cycle 0. -/
def paired (missed : Nat) : State :=
  (since 0 5 (withTeam ready fun t => { t with
    paths := t.paths ++ t.paths.map fun p => (1, { p.2 with missed := missed }) })).modCore 0 fun k => { k with pref := 3 }

/-- SchedulingEvents: two ready slots of a team of which both may go, and one that has been passed over for 63 passes; two ready teams. -/
theorem witness_two_ready :
    ([0, 63] : List Nat).all (fun n => let s := paired n
      ((s.readyPaths 0).map fun c => c.r.slot) == [0, 1] && ((s.readyPaths 0).map fun c => (s.mayRun c, c.p.missed)) ==
        (if n = 0 then [(true, 0), (true, 0)] else [(false, 0), (true, 63)])) = true ∧
    looks (paired 0) (fun c => c.p.clause.isSome && ((paired 0).at { c.r with slot := 1 - c.r.slot }).isSome && decide (c.r.slot < 2)) =
      true ∧
    (let s := since 0 5 (waiting.modCore 0 fun k => { k with active := [{ gid := 0, role := 0 }, { gid := 0, role := 1 }], pref := 3 })
     ((s.readyPaths 0).map fun c => (c.r.role, s.mayRun c))) = [(0, true), (1, true)] ∧
    (∀ n, Config.projectedDraw n ≤ 400 ∨ 400 < Config.projectedDraw n) := by
  refine ⟨by decide +kernel, by decide +kernel, by decide +kernel, fun n => by omega⟩

/-- SchedulingEvents: joins of a pushed split, before and after its other side has run, and of a pair, whose other path is at the join
and is not; exchanges in a cycle in which the core has made one and in another. -/
theorem witness_joins :
    ([false, true] : List Bool).all (fun b =>
      let s := withTeam (withPath (fetching [oneAlu + 2]) fun p => { p with jp := some 0x1000 }) fun t => { t with
        splits := [.pushed 0 2 0x2000 0x1000 none b] }
      looks s fun c => s.standsAtJoin c && s.mayIssue c && ! s.wdogDue c && c.p.clause.isNone &&
        c.t.splits == [.pushed c.r.slot 2 0x2000 0x1000 none b]) = true ∧
    ([.running, .atJoin] : List PathStatus).all (fun st =>
      let s := withTeam (withPath (fetching [oneAlu + 2]) fun p => { p with jp := some 0x1000 }) fun t => { t with
        splits := [.pair 0x1000 none [] 0 false], paths := t.paths ++ t.paths.map fun p => (1, { p.2 with status := st }) }
      looks s fun c => s.standsAtJoin c && s.mayIssue c && (tget c.t.paths (1 - c.r.slot)).any fun q => q.status == st) = true ∧
    (let s := waiting.modCore 0 fun k => { k with swap := some (0, { gid := 0, role := 1 }) }
     (s.core 0).swap = some ((s.clock 0).cyc.toNat, { gid := 0, role := 1 }) ∧ (waiting.core 0).swap = none) := by
  decide +kernel

/-- SchedulingEvents: an expiry that is due, and one of this tick; a droop step that the arbiter has asked for. -/
theorem witness_due :
    (let s : State := { ready with grids := tmap ready.grids fun _ d => { d with expired := some 0 } }
     (s.grids.all fun d => d.2.expired.all fun t => decide (s.etime ≤ t)) = true) ∧
    0 < (({ ready with dies := [(0, { Die.empty with goal := 2 })] } : State).die 0).goal := by
  decide +kernel

/-- GroupsAndGrids: a gang of two members in a context without save slots, with paths within a clause, with a member that is busy,
and with neither; the same gang saved, where it may resume and where it may not. -/
theorem witness_gangs :
    (let two (s : State) : State := { s with groups := s.groups ++ s.groups.map fun g => (1, { g.2 with member := 1, core := 1 }) }
     let whole (s : State) : Bool := s.groups.all fun m => tget s.groups m.1 == some m.2 && m.2.asid == 1 && m.2.gang == 0
     let saves (s : State) : State := withCtx s fun x => { x with nsave := 2 }
     let s := two (fetching [])
     let w : Sweep := { name := 64, scope := 4, core := 0, who := .frog { gid := 0, role := 0, slot := 0 } 0 8 1, op := 0 }
     let busy := withCtx (saves s) fun x => { x with sweeps := [w] }
     let after (u : State) : List Bool :=
       let v := (u.groups.filter fun m => m.2.gang = 0).foldl (fun u m => u.settleGroup m.1 m.2) u
       v.groups.map fun m => v.groupBusy m.1 m.2
     whole s = true ∧ (s.gangMembers 0).length = 2 ∧ ((two (saves ready)).gangMembers 0).all (fun m => m.2.stopped) = false ∧
     ((saves s).gangMembers 0).all (fun m => m.2.stopped) = true ∧ after (saves s) = [false, false] ∧
     (after busy).any id = true ∧
     (let t : State := { s with groups := [0, 1].map fun i => (i, { probeGroup [] with member := i, place := .saved i 0 }) }
      whole t = true ∧ t.alive 1 = true ∧ ([0, 15, 16].map fun b => t.mayResume t.groups probeGrid b 2) = [true, false, true])) := by
  decide +kernel

/-- Die 0 with one group on core 0 of each of its cells, whose scratchpads hold their cores' first L1 way. -/
def crowded : State :=
  { ready with groups := (List.range 32).map fun i => (i, { probeGroup [] with gang := i, core := 16 * i, ways := [0] }) }

/-- GroupsAndGrids: a gang that needs whole cells, of a higher priority: no cell has room, the first one has when it is cleared. -/
theorem witness_clearing :
    (let r : LaunchRec := { probeRec with dieSet := 1, prio := 1, gsz := 16, groups := 16, spad := 160 }
     let d : Grid := { probeGrid with lr := r, next := 0, waitSince := some 0 }
     let victims (core : Nat) : List (Nat × Group) := (List.range 16).flatMap fun i => crowded.groups.filter fun g =>
       g.2.core = core + i && g.2.place = .resident
     let cleared (core : Nat) : State := { crowded with
       groups := crowded.groups.filter fun g => !((victims core).any fun v => v.2.gang = g.2.gang) }
     d.waits && crowded.coreFor d == none &&
       (coreOrder r.dieSet (crowded.lastCore d.key)).find? (fun core => (cleared core).gangRoom r core) == some 0 &&
       (victims 0).length == 1 && ! crowded.gangRoom r 0 && ready.gangRoom probeRec 0) = true := by
  decide +kernel

/-- A state in which a grid of a record waits to be dispatched. -/
def awaiting (r : LaunchRec) : State :=
  withCtx { ready with grids := [(0, { probeGrid with next := 0, lr := r })] } fun x => { x with privUsed := [] }

/-- The core on which the next group is placed. -/
def picked (s : State) : Option Nat := s.served.findSome? fun d => if s.mayPlace d.2 then s.placeFor d.2 else none

/-- GroupsAndGrids: a grid whose next group is placed, and none; one that finds no room. -/
theorem witness_dispatch :
    picked (awaiting probeRec) = some 0 ∧ picked ready = none ∧ ((awaiting probeRec).headGrids.all fun d => d.1 == 0) = true ∧
    picked (awaiting { probeRec with spad := 4096 }) = none := by
  decide +kernel

/-- QueuePackets: a record that passes its checks and one that does not; a packet that is over and one whose records are not all binned;
a prefix that is complete, and none. -/
theorem witness_completions :
    let q : QRef := { asid := 1, q := 0 }
    let p (k : Nat) (done : Bool) : Packet :=
      { index := 0, kind := k, bytes := bytesLE 64 (k + 2 ^ 32 * 3), grid := none, left := 0, since := 0, done := done }
    let s (p : Packet) : State := (queued 0x106 0).modEngine q fun e => { e with packets := [p] }
    (tget (queued 0x106 aLaunch).ctxs 1).any (fun x => ((queued 0x106 aLaunch).checkRecord 0 1 x aLaunch).2 == none &&
      ((queued 0x106 aLaunch).checkRecord 0 1 x (aLaunch + 2 ^ 24)).2 == some { code := 2, fault := 0 }) = true ∧
    (s (p 3 true)).donePrefix q = [p 3 true] ∧ (s (p 3 false)).donePrefix q = [] ∧ (s (p 7 true)).packetOver 1 (p 7 true) = true ∧
    (let t := withCtx (s (p 7 true)) fun x => { x with bindings := [(2, aBinding)] }
     t.packetOver 1 (p 7 true) = false ∧ t.donePrefix q = []) := by
  decide +kernel

/-- QueuePackets: a packet of records behind none that is carried, with its source, its page and its lengths sound and not. -/
theorem witness_records :
    let q : QRef := { asid := 1, q := 0 }
    let n : Nat := 7 + 3 * 2 ^ 32 + 2 ^ 40 + 0x2000 * 2 ^ 64
    let s := queued 0x106 n
    (match s.nextPacket q 7 with
      | (u, some (h, _)) => natLE h.packet == n && bitsOf n 9 23 == 0 && field n 0x10 48 == 0 && field n 5 3 == 1 &&
          h.x.hasSource (field n 4 1) && (tget h.x.sources 3).any fun (k : Source) =>
            match u.checkPages h 1 [(0x2000, 2 ^ k.slotLog, .read)] with
            | (v, none) => (v.checkPlens h 1 k 0x2000 1).2 == none &&
                ({ v with mem := memPut v.mem 0x2000 (bytesLE 64 (2 ^ 112 - 2 ^ 96)) }.checkPlens h 1 k 0x2000 1).2.isSome
            | _ => false
      | _ => false) = true ∧ ((s.engine q).carries).isNone ∧
    field (7 + 4 * 2 ^ 32 + 2 ^ 40) 4 1 = 4 ∧ field (7 + 3 * 2 ^ 32) 5 3 = 0 ∧ bitsOf (7 + 2 ^ 9) 9 23 ≠ 0 := by
  decide +kernel
/-- An operation of the path of `ready`. -/
def anOp (kind : OpKind) (sectors : List Sector) : AsyncOp :=
  { asid := 1, core := 0, path := { gid := 0, role := 0, slot := 0 }, clause := 0, kind := kind, seq := 1, scope := 0, acq := false, rel := false
    sectors := sectors, bar := none, credits := 0 }

/-- A creel slot with a tile of one sector for member 0 of gang 0. -/
def aTile : CreelSlot :=
  { gang := 0, asid := 1, mask := 1, tile := bytesLE 32 7, poison := 0, ready := true, order := 1 }

/-- CopiesAndCells: a sector to land, operations of each kind, a free creel slot and a tile to drain, room in a queue; a cell that is
zero and one that is not; device memory at its ends; a contended line; a fill with an invalidation that waits and without. -/
theorem witness_CopiesAndCells :
    (let sec : Sector := { src := .held (bytesLE 32 5) false, dst := .spad 0 0 }
     (anOp .copy [sec]).sectors[0]? = some sec ∧ (anOp .copy [sec]).kind = .copy) ∧
    (tget ready.groups 0).any (fun g => g.place == .resident && g.member == 0) = true ∧
    lowestFree 8 (tkeys (ready.cell 0).creel) = some 0 ∧
    ((ready.modCell 0 fun c => { c with creel := [(0, aTile)] }).cell 0).creel.filter (fun t => t.2.gang = 0 && t.2.ready &&
      t.2.mask.getLsbD 0) = [(0, aTile)] ∧
    (tget (queued 0x106 0).ctxs 1).any (fun x => ((queued 0x106 0).unitNat 0 1 x 0x20008 8).2.toOption == some 0 &&
      ((queued 0x106 0).unitNat 0 1 x 0x20018 8).2.toOption == some 0x106) = true ∧
    (63 + 2 ^ 64 - 0) % 2 ^ 64 < 2 ^ bitsOf 0x106 0 5 ∧ 2 ^ bitsOf 0x106 0 5 ≤ (64 + 2 ^ 64 - 0) % 2 ^ 64 ∧
    isDeviceMem (128 * (2 ^ 33 - 1)) = true ∧ memNat ready.mem 0x10000 8 ≠ 0 ∧ memNat ready.mem 0x2000 8 = 0 ∧
    ready.sliceLoad 0x400 < 64 ∧ (ready.dir 64).owner = none ∧
    ((ready.modDir 64 fun d => { d with owner := some 0, contended := some 0 }).dir 64).contended = some 0 ∧
    ((ready.modDir 64 fun d => { d with owner := some 0 }).dir 64).owner ≠ none ∧
    ([(0, 64)] : List (Nat × Nat)).contains (0, 64) = true ∧
    (let l : CLine := { line := 64, asid := 0, valid := 1, data := 0, poison := 0 }
     [(0, l, true)].find? (fun f => f.1 = 0 && f.2.1.line = 64) = some (0, l, true)) ∧
    ready.host.ntfbase.getLsbD 0 = false := by
  decide +kernel

/-- A frog list entry, a sweep and a window of that name. -/
def aFrog : Frog := { etime := 0, core := 0, meridian := false, scope := 4, name := 64, gid := none }

/-- SweepsAndWindows: sweeps of both askers, a list without the name, with room and full; a pass that is due; items of both kinds; a
window that is due and one that is not, one to amend and one not, a late timer, one to free; a record to launch; an idle source; an
advance that was carried. -/
theorem witness_SweepsAndWindows :
    (let w : Sweep := { name := 64, scope := 4, core := 0, who := .window 2 0, op := 0 }
     let v : Sweep := { w with who := .frog { gid := 0, role := 0, slot := 0 } 0 8 1 }
     (tget (withCtx ready fun x => { x with sweeps := [w, v] }).ctxs 1).any (fun x => x.sweeps == [w, v]) = true) ∧
    ([aFrog].any fun f => f.name = 65) = false ∧ (List.replicate 4096 aFrog).length = 4096 ∧
    (tget ready.ctxs 1).any (fun x => x.frogDone == 0 && decide ((2 * Config.frogTicks) / x.frogIv = 2) &&
      ! ready.sweepFinds 1 x 64 4 0) = true ∧
    ((streaming aBinding).binding 1 2).any (fun e => e.2.free && e.2.nextOf 3 == some (.record 3 0 (bytesLE 64 0) false) &&
      (streaming aBinding).alive 1 && (((streaming aBinding).modBinding 1 2 fun k => k.taken 3).place 1 2 3 (bytesLE 64 0) false).source 1 3
        != none) = true ∧
    ({ aBinding with todo := [.change 3 5 .idle] } : Binding).nextOf 3 = some (.change 3 5 .idle) ∧
    aBinding.windows.filter (fun w => aBinding.due w.2) = [] ∧
    ({ aBinding with stagewm := 10 } : Binding).windows.filter (fun w => ({ aBinding with stagewm := 10 } : Binding).due w.2) =
      aBinding.windows ∧
    (let w : Window := { Window.new 0 0 with n := 1, transited := true }
     aBinding.amends w = true ∧ aBinding.amends { w with count := 1 } = false ∧ aBinding.ltimer ≠ 0 ∧ w.count < w.n ∧
     ({ aBinding with stagewm := 10 } : Binding).frees { w with count := 1 } = true ∧ aBinding.frees w = false) ∧
    (let s := streaming aBinding
     let t : State := { s with mem := memPut s.mem 0x62000 (bytesLE 64 aLaunch) }
     (tget t.ctxs 1).any (fun x => (t.unitNat 0 1 x 0x62000 64).2.toOption == some aLaunch && (t.checkRecord 0 1 x aLaunch).2 == none) =
      true) ∧
    (let k : Source := { aSource with idlet := 1 }
     k.en = true ∧ k.state = .active ∧ k.lastact + k.idlet * 4096 ≤ 4096 / 4096 * 4096) ∧
    [((3, some 7) : Nat × Option Int)].find? (fun e => e.1 = 3) = some (3, some 7) := by
  decide +kernel

/-- A frame header, a state with the transport ring at 0x20000, a descriptor of an advance, a frame in flight. -/
def aFrame : FrameHdr := { sender := 2, receiver := 1, src := 1, asid := 1, seq := 0, rel := false }

/-- A frame that has been sent. -/
def aSent : Sent := { path := none, seq := 0, kind := 2, remote := 1, rel := false, resVA := 0, args := [], bytes := [], tries := 1, since := 0 }

/-- TransportFrames: a descriptor that is sound and one that is not; a frame in its turn, before it and ahead of it; a live context;
an atomic's word; a frame in flight with attempts left and with none. -/
theorem witness_TransportFrames :
    (let d : Nat := 4 + 2 ^ 16 * 2 + 2 ^ 32 + 2 ^ 48 * 3
     let s := withCtx (queued 0x106 d) fun x => { x with ring := some 0x20000 }
     (s.headOf { asid := 1, q := 64 }).2.any (fun h => natLE h.packet == d && (Desc.ofNat d).kind == 4 &&
       (s.checkPacket h 1 ((Desc.ofNat d).error d) (Desc.ofNat d).pages).2 == none) = true ∧ ((Desc.ofNat 5).error 5).isSome) ∧
    (ready.recvOf aFrame).next = aFrame.seq ∧ (0 + 2 ^ 32 - 1) % 2 ^ 32 ≥ 2 ^ 31 ∧ (1 + 2 ^ 32 - 0) % 2 ^ 32 < 2 ^ 31 ∧
    (tget ready.ctxs 1).any (fun x => decide (x.kill = .live) && (ready.unitXlat 0 1 x 0x2000 .rmw).2.toOption.any fun y =>
      isDeviceMem y.pa && decide (y.pa % 8 = 0)) = true ∧
    (let c : Channel := { next := 1, sent := [aSent], failed := false }
     c.sent[0]? = some aSent ∧ c.find 0 = some 0 ∧ c.failed = false ∧ aSent.kind ≠ 3 ∧ aSent.tries < Config.frameAttempts ∧
     ({ aSent with tries := 8 } : Sent).tries ≥ Config.frameAttempts ∧
     (c.sent.findIdx? fun f => f.since + Config.frameTicks ≤ 80000) = some 0) := by
  decide +kernel

/-- HostAndPlatform: CTXSTAT busy and not; a command's context, live and killed; a fault with a token; registers at their bounds;
slices of the host window that are enabled, writable and neither; firmware that is sound and not; a request of the host region. -/
theorem witness_HostAndPlatform :
    State.reset.host.busy = true ∧ ready.host.busy = false ∧
    (let s : State := { ready with host := { ready.host with busy := false } }
     s.host.busy = false ∧ (tget s.ctxs 1).any (fun x => decide (x.kill = .live)) = true ∧ tget s.ctxs 2 = none) ∧
    (tget (withCtx ready fun x => { x with kill := .killing 0 }).ctxs 1).any (fun x => decide (x.kill = .killing 0)) = true ∧
    0 + 80000000 ≤ ({ ready with etime := 80000000 } : State).etime ∧
    ((trapped { aTrap with cause := 4, phase := .driver 5 }).faultOf 5).any (fun e => e.2 == { gid := 0, role := 0 } &&
      e.1.place == .resident) = true ∧
    (0x20000 ≤ 0x201F8 ∧ 0x201F8 < 0x20200 ∧ 0x201F8 % 8 = 0) ∧ 0x100000 + 16 * 65535 < 0x200000 ∧
    (let v : BitVec 64 := 3
     v.getLsbD 0 = true ∧ v.getLsbD 1 = true ∧ isDeviceMem (sliceTarget v) = true ∧ (sliceTarget v + 8) % 8 = 0) ∧
    (2 ^ 36 - 1 : Nat) < 2 ^ 36 ∧ State.reset.plat.ready = false ∧ State.reset.plat.slot = none ∧ ready.plat.slot ≠ none ∧ ready.plat.rollback ≤ 0 ∧
    ([aRequest].find? (fun q => q.id = 5) = some aRequest ∧ aRequest.live = true) := by
  decide +kernel

/-- CopiesAndCells: an operation that waits for frames of its path; a tile that is ready and one that is not; a fill beside a line that is
held; a line of the L2 that is dirty; a soft error below the threshold. -/
theorem witness_waits_and_fills :
    (let s := withCtx ready fun x => { x with channels := [(2, { next := 1, sent := [{ aSent with path := some { gid := 0, role := 0, slot := 0 } }], failed := false })] }
     s.opWaits { anOp .copy [] with rel := true, scope := 5 } = true ∧ s.opWaits (anOp .copy []) = false) ∧
    ((ready.modCell 0 fun c => { c with creel := [(0, aTile), (1, { aTile with ready := false, order := 0 })] }).cell 0).creel.length = 2 ∧
    (let l : CLine := { line := 64, asid := 0, valid := 1, data := 0, poison := 0 }
     let f : RdcFill := { die := 0, line := l, spoilt := false, low := false }
     let s : State := { ready with
       rdcFill := [f], rdcInv := [{ die := 0, line := 64, cores := [0] }], dies := [(0, { Die.empty with rdc := [l] })] }
     s.rdcFill.find? (fun f => f.die = 0 && f.line.line = 64) = some f ∧ (s.die 0).rdc.find? (fun l => l.line = 64) = some l ∧
     s.rdcInv.any (fun e => e.die = 0 && e.line = 64) = true) ∧
    (let s := ready.modDir 64 fun d => { d with present := true, dirty := true }
     (s.dir 64).present = true ∧ (s.dir 64).dirty = true ∧ s.host.ntfbase.getLsbD 0 = false) := by
  decide +kernel

/-- CopiesAndCells: a count of corrected errors that is not the threshold. -/
theorem witness_soft_threshold : ∃ n, n ≠ Config.softThreshold := ⟨Config.softThreshold + 1, by omega⟩

/-- SweepsAndWindows: a name that is listed; a change that is first in a binding's list, and a record that waits behind it. -/
theorem witness_sweeps :
    ([aFrog].any fun f => f.name = 64) = true ∧ [aFrog].find? (fun f => f.name = 64) = some aFrog ∧
    (let w : Sweep := { name := 64, scope := 4, core := 0, who := .pass, op := 0 }
     ([w].all fun w => w.who == .pass) = true) ∧
    ({ aBinding with todo := [.change 4 5 .idle, .record 3 0 [] false] } : Binding).changeFirst 3 = true ∧
    aBinding.changeFirst 3 = false := by
  decide +kernel

/-- TransportFrames: the queue of an append that has room and one that is full; an atomic of host memory; a peer that is valid. -/
theorem witness_frames :
    (let s := queued 0x106 0
     (tget s.ctxs 1).any fun x => (s.unitRead 0 1 x 0x20000 64).2.toOption.isSome &&
       (s.unitCheck 0 1 x 0x20040 64 .write).2 == none && (s.netWrite 1 x 0x20000 (bytesLE 8 2)).isSome) = true ∧
    2 ^ bitsOf 0x106 0 5 ≤ (64 + 2 ^ 64 - 0) % 2 ^ 64 ∧
    (tget (hosted ready).ctxs 1).any (fun x => ((hosted ready).unitXlat 0 1 x 0x2000 .rmw).2.toOption.any fun y =>
      isHostMem y.pa) = true ∧
    (BitVec.ofNat 64 (2 ^ 63)).getLsbD 63 = true := by
  decide +kernel

/-- HostAndPlatform: registers that are read; a killed context's slot; a module that is still in reset; images that no slot accepts. -/
theorem witness_reset_and_registers :
    State.reset.before.plat.slot = none ∧ ready.invals = [] ∧ ready.translated = [] ∧
    (let s : State := { ready with ops := [(3, anOp (.cpym 0 32 [] 1 none) [])] }
     s.translated = [3]) ∧
    (∀ h : FlashImage, (none : Option FlashImage) ≠ some h) := by
  refine ⟨by decide +kernel, by decide +kernel, by decide +kernel, by decide +kernel, ?_⟩
  intro h e; cases e

/-- R399: SHA-384 of "abc" (FIPS 180-4), and the base point of brainpoolP384r1 on its curve (RFC 5639). -/
theorem test_crypto :
    sha384 [0x61, 0x62, 0x63] = 0xCB00753F45A35E8BB5A03D699AC65007272C32AB0EDED1631A8B605A43FF5BED8086072BA1E7CC2358BAECA134C825A7 ∧
    curveG.any onCurve = true := by
  decide +kernel
/-- CopiesAndCells: CPYMs without a slot, the second of a gang that holds four; drains whose slot is ready, first and not; a packet that
the deferral buffer of a slice has no room for; lines of an L1 that are clean and dirty; parked and decided reads. -/
theorem witness_creels_and_cells :
    (let four := ready.modCell 0 fun c => { c with creel := (List.range 4).map fun k => (k, aTile) }
     ((four.cell 0).creel.filter fun t => t.2.gang = 0).length = 4 ∧ lowestFree 8 (tkeys (four.cell 0).creel) = some 4) ∧
    (let s : State := { ready with ops := [(1, anOp (.cpym 0 32 [] 1 none) []), (2, { anOp (.cpym 0 32 [] 1 none) [] with seq := 2 })] }
     ((s.cell 0).creel.filter fun t => t.2.gang = 0).length < 4 ∧ (s.ops.filter fun p => decide (p.2.seq < 1)) = []) ∧
    (let s : State := { ready.modCell 0 fun c => { c with creel := [(0, aTile)] } with ops := [(1, anOp (.cdrain 0 false) [])] }
     sortBy (fun t => t.2.order) ((s.cell 0).creel.filter fun t => t.2.gang = 0 && t.2.mask.getLsbD 0) = [(0, aTile)] ∧
     (s.ops.filter fun p => decide (p.2.seq < 1)) = [] ∧ ({ aTile with ready := false } : CreelSlot).ready = false) ∧
    (let e : Defer := { cell := 0x400, va := 0x2000, attr := { uncached := false, nrd := false, low := false }, asid := 1, core := 0
                        path := { gid := 0, role := 0, slot := 0 }, word := 0, lanes := 1, dst := 8, status := 9, deadline := 10
                        ldf := 0 }
     let s : State := { ready with cellReqs := [e, { e with cell := 0x2000 }] }
     s.cellReqs[0]? = some e ∧ (s.dir (e.cell / 16)).owner = none ∧ memNat s.mem (8 * e.cell) 8 = 0 ∧
     memNat s.mem (8 * 0x2000) 8 ≠ 0 ∧ ready.sliceLoad e.cell < 64) ∧
    (let s := stored.flush fun _ => true
     (s.l1Find 0 64).any (fun l => l.dirty != 0) = true ∧ s.host.ntfbase.getLsbD 0 = false ∧
     (({ s with cores := tmap s.cores fun _ k => { k with l1 := k.l1.map fun l => { l with dirty := 0 } } } : State).l1Find 0 64).any
       (fun l => l.dirty == 0 && l.amod == 0) = true) := by
  decide +kernel

/-- CopiesAndCells: a slice whose deferral buffer is full. -/
theorem witness_full_slice (e : Defer) : 64 ≤ ({ ready with defer := List.replicate 64 e } : State).sliceLoad e.cell := by
  simp [State.sliceLoad]

/-- SweepsAndWindows: a sweep of each asker at the head of the sequencer; a binding's window to launch again, with its descriptor
written and its record read. -/
theorem witness_launches :
    (let s := streaming aBinding
     let t : State := { s with mem := memPut s.mem 0x62000 (bytesLE 64 aLaunch) }
     let w : Window := { Window.new 0 0 with n := 1, count := 1, version := 0, final := true, transited := true }
     (t.binding 1 2).any fun e => (tget e.2.windows 0).isSome &&
       ((t.unitWrite 0 1 e.1 0x60000 (e.2.descriptor 0 w 0 false)).1.unitNat 0 1 e.1 0x62000 64).2.toOption == some aLaunch) = true ∧
    (let w : Sweep := { name := 64, scope := 4, core := 0, who := .pass, op := 0 }
     (tget (withCtx ready fun x => { x with sweeps := [w], frogs := [aFrog] }).ctxs 1).any fun x =>
       x.sweeps == [w] && x.frogs.find? (fun f => f.name = w.name) == some aFrog) = true ∧
    (tget (withCtx ready fun x => { x with carried := [(3, none)] }).ctxs 1).any (fun x =>
      x.carried.find? (fun e => e.1 = 3) == some (3, none)) = true := by
  decide +kernel

/-- TransportFrames: a receiving end that waits, and one that does not; a descriptor of each kind. -/
theorem witness_receiving :
    (let r : Recv := { next := 0, olds := [], wait := some (aFrame, .host 7) }
     ({ ready with recv := [(frameKey aFrame, r)] } : State).recvOf aFrame = r ∧ (ready.recvOf aFrame).wait = none) ∧
    ([1, 2, 3, 4].map fun n => (Desc.ofNat n).kind) = [1, 2, 3, 4] ∧ (ready.signals = [] ∧ ready.unitReqs = []) := by
  decide +kernel

/-- HostAndPlatform: a completion for a unit's read, for a fetch of a path, for a piece of an issued access; a context operation while
a path's accesses are translated; BAR0 reads at their bounds. -/
theorem witness_completions_of_the_host :
    (let q : UnitReq := { id := 5, who := (.queuePoll, .none), pa := 2 ^ 49, size := 8 }
     let s : State := { ready with unitReqs := [q] }
     s.hostReqs.find? (fun q => q.id = 5) = none ∧ s.unitReqs.find? (fun q => q.id = 5) = some q) ∧
    aRequest.what = .fetch ∧ ({ aRequest with live := false } : HostReq).live = false ∧
    (let q : HostReq := { aRequest with what := .piece 3 0 }
     let s : State := { ready with hostReqs := [q] }
     s.hostReqs.find? (fun q => q.id = 5) = some q ∧ q.what = .piece 3 0 ∧ s.unitReqs = []) ∧
    (∃ q ∈ ({ ready with hostReqs := [aRequest] } : State).hostReqs, q.live = true) ∧
    (0x20000 + 8 * 63 < 0x20200 ∧ 0x100000 + 16 * 65535 < 0x200000) ∧ (0 : Nat) < 2 ^ 36 ∧
    ready.turns = [] ∧ (withCtx ready fun x => { x with strtab := 0x40000 }).ctxs.all (fun e => e.2.strtab != 0) = true := by
  decide +kernel
end Sys2Proof.Tests
end

section
/-! PROOFS. The register files of a lane: what a read gives after a write (00 R12, 06 R143, 12 R264). -/

namespace Sys2Proof.Machine

/-- A pair reads back as it was written: its low word from the even register, its high word from the odd one (R284). -/
theorem getV2_setV2_same (l : Lane) (n : Nat) (y : Dbl) : (l.setV2 n y).getV2 n = y := by
  have words : y.extractLsb' 32 32 ++ y.extractLsb' 0 32 = y := by
    rw [BitVec.extractLsb'_append_extractLsb'_eq_extractLsb' (by decide), BitVec.extractLsb'_eq_self]
  simpa [Lane.getV2, Lane.setV2] using words

/-- p7 reads as true, whatever the lane holds (R12, R143). -/
@[simp] theorem getP_seven (l : Lane) : l.getP 7 = true := rfl

/-- Settles O20, by the read-after-write laws of each of a lane's three register files. -/
theorem laneRegisters : Obligations.LaneRegisters := by
  unfold Obligations.LaneRegisters
  intro l n k x b m
  exact ⟨getV_setV l n k x, getM_setV l n k x, getP_setV l n k x, getM_setM l n k m, getV_setM l n k m, getP_setM l n k m,
    getP_setP l n k b, getV_setP l n k b, getM_setP l n k b, getP_seven l, getV2_setV2_same l n⟩

end Sys2Proof.Machine
end

section
/-! PROOFS. What accesses to memory leave as it was (02 R42 to R63): the current path, contexts, the host's registers and every
translation kept; and what, beside that, writes no byte of memory. -/

namespace Sys2Proof.Machine

theorem State.core_modCore (s : State) (n k : Nat) (f : Core → Core) :
    (s.modCore n f).core k = if k = n then f (s.core n) else s.core k := by
  simp only [State.core, State.modCore_cores, tget_tset]
  split <;> rfl

theorem State.cell_modCell (s : State) (n k : Nat) (f : CellUnit → CellUnit) :
    (s.modCell n f).cell k = if k = n then f (s.cell n) else s.cell k := by
  simp only [State.cell, State.modCell_cells, tget_tset]
  split <;> rfl

theorem State.die_modDie (s : State) (n k : Nat) (f : Die → Die) :
    (s.modDie n f).die k = if k = n then f (s.die n) else s.die k := by
  simp only [State.die, State.modDie_dies, tget_tset]
  split <;> rfl

theorem State.dir_modDir (s : State) (n k : Nat) (f : Dir → Dir) :
    (s.modDir n f).dir k = if k = n then f (s.dir n) else s.dir k := by
  simp only [State.dir, State.modDir_l2, tget_tset]
  split <;> rfl

/-- What every access to memory leaves as it was: the current path with its guard and mode, the contexts, the host's registers, and the
translations that cores, cells and dies keep. -/
structure State.AccessKeeps (s t : State) : Prop where
  cur : t.cur = s.cur
  guard : t.guard = s.guard
  mode : t.mode = s.mode
  ctxs : t.ctxs = s.ctxs
  host : t.host = s.host
  coreTlb : ∀ n, (t.core n).tlb = (s.core n).tlb
  cellTlb : ∀ n, (t.cell n).tlb = (s.cell n).tlb
  walk : ∀ n, (t.die n).walk = (s.die n).walk

/-- As `AccessKeeps`, for a step that writes no byte of memory and neither gives nor ends the ownership of a line (R58, R59). -/
structure State.QuietKeeps (s t : State) : Prop extends s.AccessKeeps t where
  mem : t.mem = s.mem
  owner : ∀ line, (t.dir line).owner = (s.dir line).owner

namespace State.AccessKeeps

/-- A change of other fields alone. -/
theorem of_same {s t : State} (hcur : t.cur = s.cur) (hguard : t.guard = s.guard) (hmode : t.mode = s.mode) (hctx : t.ctxs = s.ctxs)
    (hhost : t.host = s.host) (hcores : t.cores = s.cores) (hcells : t.cells = s.cells) (hdies : t.dies = s.dies) :
    s.AccessKeeps t :=
  ⟨hcur, hguard, hmode, hctx, hhost, fun n => by simp only [State.core, hcores], fun n => by simp only [State.cell, hcells],
    fun n => by simp only [State.die, hdies]⟩

theorem refl (s : State) : s.AccessKeeps s := of_same rfl rfl rfl rfl rfl rfl rfl rfl

theorem trans {s t u : State} (h : s.AccessKeeps t) (k : t.AccessKeeps u) : s.AccessKeeps u :=
  ⟨k.cur.trans h.cur, k.guard.trans h.guard, k.mode.trans h.mode, k.ctxs.trans h.ctxs, k.host.trans h.host,
    fun n => (k.coreTlb n).trans (h.coreTlb n), fun n => (k.cellTlb n).trans (h.cellTlb n), fun n => (k.walk n).trans (h.walk n)⟩

theorem ite {s t u : State} {c : Prop} [Decidable c] (h : s.AccessKeeps t) (k : s.AccessKeeps u) :
    s.AccessKeeps (if c then t else u) := by
  split
  · exact h
  · exact k

theorem foldl {α : Type} {f : State → α → State} (h : ∀ (u : State) a, u.AccessKeeps (f u a)) (l : List α) (s : State) :
    s.AccessKeeps (l.foldl f s) := by
  induction l generalizing s with
  | nil => exact refl s
  | cons a l ih => exact (h s a).trans (ih (f s a))

end State.AccessKeeps

namespace State.QuietKeeps

theorem refl (s : State) : s.QuietKeeps s := ⟨.refl s, rfl, fun _ => rfl⟩

theorem trans {s t u : State} (h : s.QuietKeeps t) (k : t.QuietKeeps u) : s.QuietKeeps u :=
  ⟨h.toAccessKeeps.trans k.toAccessKeeps, k.mem.trans h.mem, fun l => (k.owner l).trans (h.owner l)⟩

theorem ite {s t u : State} {c : Prop} [Decidable c] (h : s.QuietKeeps t) (k : s.QuietKeeps u) :
    s.QuietKeeps (if c then t else u) := by
  split
  · exact h
  · exact k

theorem foldl {α : Type} {f : State → α → State} (h : ∀ (u : State) a, u.QuietKeeps (f u a)) (l : List α) (s : State) :
    s.QuietKeeps (l.foldl f s) := by
  induction l generalizing s with
  | nil => exact refl s
  | cons a l ih => exact (h s a).trans (ih (f s a))

end State.QuietKeeps

section Quiet

variable (s : State)

/-- A change of fields outside memory, contexts and caches. -/
theorem State.quiet_of_same {s t : State} (hkeeps : s.AccessKeeps t) (hmem : t.mem = s.mem) (hl2 : t.l2 = s.l2) : s.QuietKeeps t :=
  ⟨hkeeps, hmem, fun l => by simp only [State.dir, hl2]⟩

theorem State.quiet_free (n : Nat) : s.QuietKeeps { s with free := n } := quiet_of_same (.of_same rfl rfl rfl rfl rfl rfl rfl rfl) rfl rfl

theorem State.quiet_modCore (n : Nat) (f : Core → Core) (h : ∀ c, (f c).tlb = c.tlb := by exact fun _ => rfl) :
    s.QuietKeeps (s.modCore n f) := by
  refine quiet_of_same ⟨rfl, rfl, rfl, rfl, rfl, fun k => ?_, fun _ => rfl, fun _ => rfl⟩ rfl rfl
  rw [State.core_modCore]
  split
  · next e => rw [h, e]
  · rfl

theorem State.quiet_modCell (n : Nat) (f : CellUnit → CellUnit) (h : ∀ c, (f c).tlb = c.tlb := by exact fun _ => rfl) :
    s.QuietKeeps (s.modCell n f) := by
  refine quiet_of_same ⟨rfl, rfl, rfl, rfl, rfl, fun _ => rfl, fun k => ?_, fun _ => rfl⟩ rfl rfl
  rw [State.cell_modCell]
  split
  · next e => rw [h, e]
  · rfl

theorem State.quiet_modDie (n : Nat) (f : Die → Die) (h : ∀ d, (f d).walk = d.walk := by exact fun _ => rfl) :
    s.QuietKeeps (s.modDie n f) := by
  refine quiet_of_same ⟨rfl, rfl, rfl, rfl, rfl, fun _ => rfl, fun _ => rfl, fun k => ?_⟩ rfl rfl
  rw [State.die_modDie]
  split
  · next e => rw [h, e]
  · rfl

theorem State.quiet_modDir (n : Nat) (f : Dir → Dir) (h : ∀ d, (f d).owner = d.owner := by exact fun _ => rfl) :
    s.QuietKeeps (s.modDir n f) := by
  refine ⟨.of_same rfl rfl rfl rfl rfl rfl rfl rfl, rfl, fun k => ?_⟩
  rw [State.dir_modDir]
  split
  · next e => rw [h, e]
  · rfl

theorem State.quiet_modTeam (gid role : Nat) (f : Team → Team) : s.QuietKeeps (s.modTeam gid role f) :=
  quiet_of_same (.of_same rfl rfl rfl rfl rfl rfl rfl rfl) rfl rfl

theorem State.quiet_land (gid role clause : Nat) (w : Pending) : s.QuietKeeps (s.land gid role clause w) :=
  quiet_of_same (.of_same rfl rfl rfl rfl rfl rfl rfl rfl) rfl rfl

theorem State.quiet_landV (r : Ref) (clause n : Nat) (vals : List (Nat × Word)) : s.QuietKeeps (s.landV r clause n vals) :=
  .foldl (fun u _ => u.quiet_land ..) _ s

theorem State.quiet_landP (r : Ref) (clause n : Nat) (vals : List (Nat × Bool)) : s.QuietKeeps (s.landP r clause n vals) :=
  .foldl (fun u _ => u.quiet_land ..) _ s

theorem State.quiet_seen (core line : Nat) : s.QuietKeeps (s.seen core line) :=
  quiet_of_same (.of_same rfl rfl rfl rfl rfl rfl rfl rfl) rfl rfl

theorem State.quiet_predict (core line : Nat) (up : Bool) : s.QuietKeeps (s.predict core line up) :=
  s.quiet_modCore ..

theorem State.quiet_acquire (core rank : Nat) : s.QuietKeeps (s.acquire core rank) := by
  have counted (l : List RdcInv) : s.QuietKeeps { s with rdcInv := l } := quiet_of_same (.of_same rfl rfl rfl rfl rfl rfl rfl rfl) rfl rfl
  unfold State.acquire
  split
  · exact .refl s
  · dsimp only
    exact (counted _).trans (State.quiet_modCore ..)

theorem State.quiet_dropRdc (die line : Nat) : s.QuietKeeps (s.dropRdc die line) :=
  (s.quiet_modDie die (fun d => { d with rdc := d.rdc.filter fun l => l.line ≠ line })).trans
    (quiet_of_same (.of_same rfl rfl rfl rfl rfl rfl rfl rfl) rfl rfl)

theorem State.quiet_seeHome (core line : Nat) : s.QuietKeeps (s.seeHome core line) := by
  unfold State.seeHome
  have dropped (b : Bool) : s.QuietKeeps
      (if b then (s.seen core line).dropRdc (dieOf core) line else s.seen core line) :=
    .ite ((s.quiet_seen core line).trans (State.quiet_dropRdc ..)) (s.quiet_seen core line)
  exact .ite ((dropped _).trans (State.quiet_modCore ..)) (dropped _)

theorem State.quiet_poisonMask (line : Nat) (mask : BitVec 128) : s.QuietKeeps (s.poisonMask line mask) :=
  .ite (.refl s) (quiet_of_same (.of_same rfl rfl rfl rfl rfl rfl rfl rfl) rfl rfl)

theorem State.quiet_decideLdf (e : Defer) (value : Dbl) (ok : Bool) (code : BitVec 2) :
    s.QuietKeeps (s.decideLdf e value ok code) := by
  unfold State.decideLdf
  split
  · exact .refl s
  next l _ =>
    have saw : s.QuietKeeps (if ok then s.seeHome e.core (e.cell / 16) else s) := .ite (s.quiet_seeHome ..) (.refl s)
    have landed (v w p) : s.QuietKeeps ((((if ok then s.seeHome e.core (e.cell / 16) else s).landV e.path l.clause e.dst v).landV
        e.path l.clause (e.dst + 1) w).landP e.path l.clause e.status p) :=
      ((saw.trans (State.quiet_landV ..)).trans (State.quiet_landV ..)).trans (State.quiet_landP ..)
    have counted (t : State) (n : Tab Ldf) : t.QuietKeeps { t with ldfs := n } := quiet_of_same (.of_same rfl rfl rfl rfl rfl rfl rfl rfl) rfl rfl
    dsimp only
    refine .ite (.trans ?_ (State.quiet_modTeam ..)) ((landed _ _ _).trans (counted _ _))
    have left (v w p n) := (landed v w p).trans (counted _ n)
    split
    · exact .trans (.ite (left ..) ((left ..).trans (State.quiet_modTeam ..))) (State.quiet_acquire ..)
    · exact .ite (left ..) ((left ..).trans (State.quiet_modTeam ..))

theorem State.quiet_answerCell (cell : Nat) : s.QuietKeeps (s.answerCell cell) := by
  unfold State.answerCell
  have taken (l : List Defer) : s.QuietKeeps { s with defer := l } := quiet_of_same (.of_same rfl rfl rfl rfl rfl rfl rfl rfl) rfl rfl
  exact .ite (.refl s) ((taken _).trans (.foldl (fun u e => u.quiet_decideLdf e _ true 0) _ _))

theorem State.quiet_invalidate (line : Nat) (a : Agent) : s.QuietKeeps (s.invalidate line a) := by
  unfold State.invalidate
  split
  · exact .refl s
  next d hd =>
    refine ⟨.of_same rfl rfl rfl rfl rfl rfl rfl rfl, rfl, fun k => ?_⟩
    simp only [State.dir, tget_tset]
    split
    · next e => simp [e, hd]
    · rfl

end Quiet

end Sys2Proof.Machine
end

section
/-! PROOFS. Recalls, allocations, reads and writes at home slices (02 R47, R48, R58, R59): what each leaves as it was. -/

namespace Sys2Proof.Machine

/-- Bytes written one by one, none of them at an address, leave that byte as it was. -/
theorem memGet_writes_other (bs : List (Nat × Byte)) (m : List Host.Cell) (k a : Nat) (h : ∀ e ∈ bs, k + e.1 ≠ a) :
    memGet (bs.foldl (fun m e => memSet m (k + e.1) e.2) m) a = memGet m a := by
  induction bs generalizing m with
  | nil => rfl
  | cons e bs ih =>
    rw [List.foldl_cons, ih _ fun x hx => h x (by simp [hx]), memGet_memSet, if_neg fun he => h e (by simp) he.symm]

section
variable (s : State)

/-- A write at a home slice changes memory by the bytes that it writes, and otherwise is quiet. -/
theorem State.quiet_writeLine (a : Agent) (line : Nat) (bs : List (Nat × Byte)) :
    ({ s with mem := bs.foldl (fun m e => memSet m (128 * line + e.1) e.2) s.mem } : State).QuietKeeps (s.writeLine a line bs) := by
  unfold State.writeLine
  cases hb : bs.isEmpty with
  | true => rw [List.isEmpty_iff.1 hb]; exact .refl s
  | false =>
    have told (t : State) (cells : List Nat) :
        t.QuietKeeps (if t.defer.isEmpty then t else cells.foldl (fun s c => s.answerCell c) t) :=
      .ite (.refl t) (.foldl (fun u c => u.quiet_answerCell c) _ t)
    have allocated (m : List Host.Cell) (p : List Nat) : ({ s with mem := m } : State).QuietKeeps
        { s with mem := m, poison := p, l2 := tmod s.l2 line fun d => { d with dirty := d.present } } := by
      refine ⟨.of_same rfl rfl rfl rfl rfl rfl rfl rfl, rfl, fun k => ?_⟩
      simp only [State.dir, tget_tmod]
      split
      · next e => rw [e]; cases tget s.l2 line <;> rfl
      · rfl
    have flown (t : State) (l : List RdcFill) : t.QuietKeeps { t with rdcFill := l } :=
      State.quiet_of_same (.of_same rfl rfl rfl rfl rfl rfl rfl rfl) rfl rfl
    refine .trans ?_ (told _ _)
    have invalidated := (allocated (bs.foldl (fun m e => memSet m (128 * line + e.1) e.2) s.mem)
      (s.poison.filter fun a => ¬ bs.any fun e => 128 * line + e.1 = a)).trans (State.quiet_invalidate _ line a)
    split
    · exact invalidated
    · exact .ite ((invalidated.trans (flown ..)).trans (State.quiet_modDie ..)) (invalidated.trans (flown ..))

theorem State.writeLine_mem (a : Agent) (line : Nat) (bs : List (Nat × Byte)) :
    (s.writeLine a line bs).mem = bs.foldl (fun m e => memSet m (128 * line + e.1) e.2) s.mem :=
  (s.quiet_writeLine a line bs).mem

theorem State.keeps_writeLine (a : Agent) (line : Nat) (bs : List (Nat × Byte)) : s.AccessKeeps (s.writeLine a line bs) :=
  have put (m : List Host.Cell) : s.AccessKeeps { s with mem := m } := .of_same rfl rfl rfl rfl rfl rfl rfl rfl
  (put _).trans (s.quiet_writeLine a line bs).toAccessKeeps

/-- Atomically modified bytes go home to their own line, and all else is kept. -/
theorem State.flushAmod_spec (core line : Nat) : s.AccessKeeps (s.flushAmod core line) ∧
    ∀ a, a / 128 ≠ line → memGet (s.flushAmod core line).mem a = memGet s.mem a := by
  unfold State.flushAmod
  split
  · exact ⟨.refl s, fun _ _ => rfl⟩
  next l _ =>
    dsimp only
    refine ⟨((s.quiet_modCore ..).toAccessKeeps.trans (State.keeps_writeLine ..)).trans
      (State.quiet_poisonMask ..).toAccessKeeps, fun a ha => ?_⟩
    rw [(State.quiet_poisonMask ..).mem, State.writeLine_mem]
    refine memGet_writes_other _ _ _ _ fun e he => ?_
    have : e.1 < 128 := by
      simp only [maskBytes, bitList, List.mem_map, List.mem_filter, List.mem_range] at he
      obtain ⟨i, ⟨hi, -⟩, rfl⟩ := he
      exact hi
    omega

/-- A recall writes nothing outside its line. -/
theorem State.recall_spec (line : Nat) : s.AccessKeeps (s.recall line) ∧
    ∀ a, a / 128 ≠ line → memGet (s.recall line).mem a = memGet s.mem a := by
  unfold State.recall
  split
  · exact ⟨.refl s, fun _ _ => rfl⟩
  next c _ =>
    obtain ⟨hk, hm⟩ := s.flushAmod_spec c line
    have counted := hk.trans (State.quiet_predict _ c line true).toAccessKeeps
    have freed := counted.trans (u := ((s.flushAmod c line).predict c line true).modDir line fun d => { d with owner := none })
      (.of_same rfl rfl rfl rfl rfl rfl rfl rfl)
    exact ⟨freed.trans (State.quiet_modCore _ _ _).toAccessKeeps, hm⟩

/-- A line that no core owns is not recalled. -/
theorem State.recall_unowned {s : State} {line : Nat} (h : (s.dir line).owner = none) : s.recall line = s := by
  unfold State.recall
  rw [h]

theorem State.quiet_dropRdcs (ds : List Nat) (line : Nat) : s.QuietKeeps (ds.foldl (fun s d => s.dropRdc d line) s) :=
  .foldl (fun u d => u.quiet_dropRdc d line) ds s

/-- A line that leaves the L2 is recalled, and the rest is quiet (R47, R48). -/
theorem State.quiet_l2Drop (line : Nat) : (s.recall line).QuietKeeps (s.l2Drop line) := by
  unfold State.l2Drop
  exact (State.quiet_dropRdcs ..).trans (State.quiet_modDir ..)

/-- What an allocation may do before it enters its line: nothing, or, where a line leaves the set, the recall of that line. -/
theorem State.l2Use_cases (line : Nat) (low : Bool) : s.QuietKeeps (s.l2Use line low) ∨
    ∃ v, (({ s with free := s.free + 1 } : State).recall v).QuietKeeps (s.l2Use line low) := by
  have entered (t : State) : t.QuietKeeps (t.modDir line fun d => { d with present := true, dirty := false, low := low }) :=
    t.quiet_modDir ..
  unfold State.l2Use
  split
  · exact .inl (.refl s)
  dsimp only
  split
  · exact .inl (entered s)
  split
  · exact .inl (entered s)
  split
  · exact .inl ((s.quiet_free _).trans (entered _))
  · next v _ => exact .inr ⟨v, (State.quiet_l2Drop _ v).trans (entered _)⟩

theorem State.keeps_l2Use (line : Nat) (low : Bool) : s.AccessKeeps (s.l2Use line low) := by
  rcases s.l2Use_cases line low with h | ⟨v, h⟩
  · exact h.toAccessKeeps
  · exact (s.quiet_free _).toAccessKeeps.trans ((State.recall_spec _ v).1.trans h.toAccessKeeps)

theorem State.keeps_homeWriteIn (a : Agent) (keep low : Bool) (pa : Nat) (bs : List Byte) :
    s.AccessKeeps (s.homeWriteIn a keep low pa bs) := by
  unfold State.homeWriteIn
  have recalled := (s.recall_spec (pa / 128)).1
  exact .trans (.ite (recalled.trans (State.keeps_l2Use ..)) recalled) (State.keeps_writeLine ..)

theorem State.keeps_homePut (a : Agent) (keep low : Bool) (pa : Nat) (bs : List Byte) :
    s.AccessKeeps (s.homePut a keep low pa bs) :=
  .ite (.foldl (fun u (e : Nat × List Byte) => u.keeps_homeWriteIn a keep low e.1 e.2) _ s)
    (.ite (.of_same rfl rfl rfl rfl rfl rfl rfl rfl) (.refl s))

theorem State.keeps_hostGet (pa n : Nat) : s.AccessKeeps (s.hostGet pa n).1 := by
  unfold State.hostGet
  split
  · exact .of_same rfl rfl rfl rfl rfl rfl rfl rfl
  · dsimp only
    split <;> exact .of_same rfl rfl rfl rfl rfl rfl rfl rfl

theorem State.keeps_homeGet (keep low : Bool) (pa n : Nat) : s.AccessKeeps (s.homeGet keep low pa n).1 := by
  unfold State.homeGet
  split
  · refine .foldl (fun u l => ?_) _ s
    exact .ite ((u.recall_spec l).1.trans (State.keeps_l2Use ..)) (u.recall_spec l).1
  · split
    · exact s.keeps_hostGet pa n
    · exact .of_same rfl rfl rfl rfl rfl rfl rfl rfl

end

/-- No L1 owns a line (R58). -/
def State.Unowned (s : State) : Prop := ∀ line, (s.dir line).owner = none

theorem State.QuietKeeps.unowned {s t : State} (h : s.QuietKeeps t) (hs : s.Unowned) : t.Unowned :=
  fun line => (h.owner line).trans (hs line)

/-- Where no line is owned an allocation is quiet. -/
theorem State.quiet_l2Use {s : State} (h : s.Unowned) (line : Nat) (low : Bool) : s.QuietKeeps (s.l2Use line low) := by
  rcases s.l2Use_cases line low with h' | ⟨v, h'⟩
  · exact h'
  · have same : ({ s with free := s.free + 1 } : State).recall v = { s with free := s.free + 1 } := State.recall_unowned (h v)
    rw [same] at h'
    exact (s.quiet_free _).trans h'

/-- Where no line is owned a read of device memory is quiet, and gives what memory holds (R33, R47). -/
theorem State.homeGet_unowned {s : State} (h : s.Unowned) (keep low : Bool) {pa : Nat} (hpa : isDeviceMem pa = true) (n : Nat) :
    s.QuietKeeps (s.homeGet keep low pa n).1 ∧ (s.homeGet keep low pa n).2 = memBytes s.mem pa n := by
  have used (lines : List Nat) (u : State) (hu : u.Unowned) : u.QuietKeeps
      (lines.foldl (fun s l => let s := s.recall l; if keep then s.l2Use l low else s) u) := by
    induction lines generalizing u with
    | nil => exact .refl u
    | cons l lines ih =>
      have first : u.QuietKeeps (let s := u.recall l; if keep then s.l2Use l low else s) := by
        rw [State.recall_unowned (hu l)]
        exact .ite (State.quiet_l2Use hu l low) (.refl u)
      exact first.trans (ih _ (first.unowned hu))
  unfold State.homeGet
  rw [if_pos hpa]
  exact ⟨used _ s h, congrArg (memBytes · pa n) (used _ s h).mem⟩

theorem State.homeNat_unowned {s : State} (h : s.Unowned) {pa : Nat} (hpa : isDeviceMem pa = true) (n : Nat) :
    s.QuietKeeps (s.homeNat pa n).1 ∧ (s.homeNat pa n).2 = memNat s.mem pa n := by
  obtain ⟨hq, hb⟩ := State.homeGet_unowned h true false hpa n
  exact ⟨hq, congrArg natLE hb⟩

end Sys2Proof.Machine
end

section
/-! PROOFS. Translation (01 R14 to R19, R22, Tables 1-2 to 1-4): the checks of an address and of an entry, one level of the walk, and
what a translation leaves in TLBs and walk caches. -/

namespace Sys2Proof.Machine

/-- The form of an address: 57 bits, and bit 56 for supervisors alone (R14). -/
theorem formFault_eq (user : Bool) (va : Nat) : formFault user va =
    if 2 ^ 57 ≤ va then some { cause := 4, detail := 2 }
    else if user = true ∧ va.testBit 56 = true then some { cause := 5, detail := 4 } else none := by
  have high : va / 2 ^ 57 ≠ 0 ↔ 2 ^ 57 ≤ va := by omega
  simp only [formFault, high]
  rfl

/-- An address whose form is right lies below 2^57, and a user's below 2^56 (R14). -/
theorem lt_of_formFault {user : Bool} {va : Nat} (h : formFault user va = none) :
    va < 2 ^ 57 ∧ (user = true → va < 2 ^ 56) := by
  rw [formFault_eq] at h
  split at h
  · cases h
  next hv =>
    split at h
    · cases h
    next hu =>
      refine ⟨by omega, fun hus => ?_⟩
      have bit : va.testBit 56 = false := by simpa [hus] using hu
      rw [Nat.testBit_eq_decide_div_mod_eq, decide_eq_false_iff_not] at bit
      omega

/-- A supervisor page refuses a user's access of any kind (Table 1-4). -/
theorem permFault_supervisor (acc : Access) {leaf : Nat} (h : leaf.testBit 6 = true) :
    permFault true acc leaf = some { cause := 5, detail := 3 } := by
  simp [permFault, bitOf, h]

/-- Elsewhere the access decides which of RD, W and X the leaf must have (Table 1-4). -/
theorem permFault_eq {user : Bool} {leaf : Nat} (h : user = false ∨ leaf.testBit 6 = false) (acc : Access) :
    permFault user acc leaf = match acc with
      | .read => if leaf.testBit 3 then none else some { cause := 5, detail := 1 }
      | .write => if leaf.testBit 4 then none else some { cause := 5, detail := 0 }
      | .rmw => if ! leaf.testBit 4 then some { cause := 5, detail := 0 }
        else if leaf.testBit 3 then none else some { cause := 5, detail := 1 }
      | .fetch => if leaf.testBit 5 then none else some { cause := 5, detail := 2 } := by
  have open_ : ¬ (user = true ∧ bitOf leaf 6 = true) := by
    rcases h with h | h <;> simp [bitOf, h]
  unfold permFault
  rw [if_neg open_]
  cases acc <;> simp [bitOf] <;> rfl

theorem frameOf_eq (e : Nat) : frameOf e = e / 2 ^ 12 % 2 ^ 40 * 2 ^ 12 := rfl

/-- Whether an address lies in the populated parts of device memory (Table 1-9). -/
theorem isDeviceMem_eq (a : Nat) :
    isDeviceMem a = ((a / 2 ^ 48 = 0 && a < 2 ^ 40) || (a / 2 ^ 48 = 1 && a % 2 ^ 48 < 2 ^ 41)) := by
  simp [isDeviceMem, regionOf]

/-- A frame is aligned to 2^(12 + k) bytes where the low k bits of its page number are 0. -/
theorem frameOf_mod (e k : Nat) (hk : k ≤ 40) : frameOf e % 2 ^ (12 + k) = 0 ↔ e / 2 ^ 12 % 2 ^ k = 0 := by
  rw [frameOf_eq, Nat.pow_add, Nat.mul_comm, Nat.mul_mod_mul_left, Nat.mod_mod_of_dvd _ (Nat.pow_dvd_pow 2 hk)]
  simp

/-- Two ways to one fault, by the entry's kind, as one. -/
theorem ite_of_leaf {α : Type} (q l r t : Prop) [Decidable q] [Decidable l] [Decidable r] [Decidable t] (a b : α) :
    (if q then a else if l then (if r then a else b) else if t then a else b) = if q ∨ l ∧ r ∨ ¬ l ∧ t then a else b := by
  by_cases q <;> by_cases l <;> simp [*]

/-- The faults of one entry of a walk (R16, R17). -/
theorem entryFault_eq (level : Nat) (supv : Bool) (e : Nat) :
    entryFault level supv e =
      if e % 2 = 0 then some { cause := 4, detail := 0 }
      else if e / 2 ^ 60 % 16 ≠ 0 ∨ e.testBit 1 = true ∨ level = 3 ∧ e.testBit 2 = true ∨ level = 0 ∧ e.testBit 2 = false ∨
          e.testBit 2 = true ∧ (e / 2 ^ 10 % 4 = 3 ∨ e.testBit 8 = true ∧ level ≠ 0 ∨ level = 2 ∧ e / 2 ^ 12 % 2 ^ 18 ≠ 0 ∨
            level = 1 ∧ e / 2 ^ 12 % 2 ^ 9 ≠ 0 ∨
            isDeviceMem (frameOf e) = false ∧ frameOf e / 2 ^ 48 ≠ 2 ∧ (frameOf e / 2 ^ 48 ≠ 15 ∨ supv = false)) ∨
          e.testBit 2 = false ∧ isDeviceMem (frameOf e) = false
        then some { cause := 4, detail := 1 } else none := by
  have present : ¬ bitOf e 0 = true ↔ e % 2 = 0 := by
    rw [bitOf, Nat.testBit_zero, decide_eq_true_iff]; omega
  have aligned : frameOf e % 2 ^ (if level = 2 then 30 else if level = 1 then 21 else 12) ≠ 0 ↔
      level = 2 ∧ e / 2 ^ 12 % 2 ^ 18 ≠ 0 ∨ level = 1 ∧ e / 2 ^ 12 % 2 ^ 9 ≠ 0 := by
    by_cases h2 : level = 2
    · have := frameOf_mod e 18 (by decide)
      simpa [h2] using this.not
    · by_cases h1 : level = 1
      · have := frameOf_mod e 9 (by decide)
        simpa [h1] using this.not
      · have := frameOf_mod e 0 (by decide)
        rw [Nat.pow_zero, Nat.mod_one] at this
        simpa [h2, h1] using this
  have region : ¬ (isDeviceMem (frameOf e) = true ∨ isHostMem (frameOf e) = true ∨ supv = true ∧ regionOf (frameOf e) = 15) ↔
      isDeviceMem (frameOf e) = false ∧ frameOf e / 2 ^ 48 ≠ 2 ∧ (frameOf e / 2 ^ 48 ≠ 15 ∨ supv = false) := by
    rw [isHostMem, regionOf, decide_eq_true_iff, not_or, not_or, Bool.not_eq_true, not_and]
    refine and_congr_right fun _ => and_congr_right fun _ => ?_
    cases supv <;> simp
  refine Eq.trans (congrArg (ite _ _) (ite_of_leaf ..)) (if_congr present rfl (if_congr ?_ rfl rfl))
  rw [aligned, region]
  simp only [bitsOf, bitOf, or_assoc, Bool.not_eq_true, Nat.reducePow]

/-- With an empty walk cache and no line owned, an entry is what memory holds (R22). -/
theorem State.walkEntry_unowned {s : State} (h : s.Unowned) {die : Nat} (hw : (s.die die).walk = []) (asid : Nat) {pa : Nat}
    (hpa : isDeviceMem pa = true) :
    s.QuietKeeps (s.walkEntry die asid pa).1 ∧ (s.walkEntry die asid pa).2 = memNat s.mem pa 8 := by
  have same : s.walkEntry die asid pa = s.homeNat pa 8 := by simp [State.walkEntry, hw]
  rw [same]
  exact State.homeNat_unowned h hpa 8

/-- Two entries of a 64 KiB range alike but for their place in it (R18). -/
theorem alike_iff (a b : Nat) : a / 2 ^ 16 * 2 ^ 16 + a % 2 ^ 12 = b / 2 ^ 16 * 2 ^ 16 + b % 2 ^ 12 ↔
    a / 2 ^ 16 = b / 2 ^ 16 ∧ a % 2 ^ 12 = b % 2 ^ 12 := by
  omega

/-- The level-0 entry that a walk uses: the one of its page, or, where that has C64 and the 16 of its range differ, one of them
(R18). -/
theorem State.lastEntry_unowned {s : State} (h : s.Unowned) {die : Nat} (hw : (s.die die).walk = []) (asid base : Nat) {ix : Nat}
    (hix : ix < 512) (hmem : ∀ i < 512, isDeviceMem (base + 8 * i) = true) :
    let entry (i : Nat) : Nat := memNat s.mem (base + 8 * i) 8
    let alike (a b : Nat) : Prop := a / 2 ^ 16 = b / 2 ^ 16 ∧ a % 2 ^ 12 = b % 2 ^ 12
    let e := (s.lastEntry die asid base ix).2
    ((entry ix).testBit 8 = false → e = entry ix) ∧
      ((∀ i < 16, alike (entry (ix / 16 * 16 + i)) (entry ix)) → e = entry ix) ∧ ∃ i < 16, e = entry (ix / 16 * 16 + i) := by
  intro entry alike e
  obtain ⟨hq, hr⟩ := State.walkEntry_unowned h hw asid (hmem ix hix)
  let r := s.walkEntry die asid (base + 8 * ix)
  let es := (List.range 16).map fun i => (r.1.homeNat (base + 8 * (ix / 16 * 16 + i)) 8).2
  have all : es = (List.range 16).map fun i => entry (ix / 16 * 16 + i) := by
    refine List.map_congr_left fun i hi => ?_
    have hlt : ix / 16 * 16 + i < 512 := by rw [List.mem_range] at hi; omega
    rw [(State.homeNat_unowned (hq.unowned h) (hmem _ hlt) 8).2, hq.mem]
  have own : ∃ i < 16, entry ix = entry (ix / 16 * 16 + i) := ⟨ix % 16, by omega, by congr 1; omega⟩
  have he : e = (if bitOf r.2 8 ∧ ¬ es.all fun e => decide (e / 2 ^ 16 * 2 ^ 16 + e % 2 ^ 12 = r.2 / 2 ^ 16 * 2 ^ 16 + r.2 % 2 ^ 12)
      then (es[(Config.c64Pick r.1.free).val]?).getD 0 else r.2) := apply_ite Prod.snd ..
  have hr : r.2 = entry ix := hr
  rw [hr, all] at he
  simp only [alike_iff, List.all_map] at he
  split at he
  next hc =>
    obtain ⟨h8, hd⟩ := hc
    refine ⟨fun hn => absurd h8 (by simp [bitOf, hn]), fun ha => absurd ?_ hd, ?_⟩
    · rw [List.all_eq_true]
      intro i hi
      exact decide_eq_true (ha i (List.mem_range.1 hi))
    · refine ⟨(Config.c64Pick r.1.free).val, (Config.c64Pick r.1.free).isLt, ?_⟩
      rw [he, List.getElem?_map, List.getElem?_range (Config.c64Pick r.1.free).isLt]
      rfl
  next => exact ⟨fun _ => he, fun _ => he, he ▸ own⟩

/-- The entry that a walk reads at a level of a table (Table 1-2). -/
def State.levelEntry (s : State) (die asid va base level : Nat) : State × Nat :=
  let idx := bitsOf va (levelShift level) (if level = 3 then 18 else 9)
  if level = 0 then s.lastEntry die asid base idx else s.walkEntry die asid (base + 8 * idx)

section
variable (s : State) (die asid : Nat) (supv : Bool) (va : Nat) (used : List WalkEntry) (base level : Nat) (rest : List Nat)

/-- One level of the walk: the entry read, and then its fault, its translation, or the walk of the next table. -/
theorem State.walk_cons :
    s.walk die asid supv va used base (level :: rest) = match entryFault level supv (s.levelEntry die asid va base level).2 with
      | some f => ((s.levelEntry die asid va base level).1, .error f)
      | none => if bitOf (s.levelEntry die asid va base level).2 2 then
          ((s.levelEntry die asid va base level).1, .ok (leafXlat level va (s.levelEntry die asid va base level).2, used))
        else (s.levelEntry die asid va base level).1.walk die asid supv va
          ({ asid := asid, pa := base + 8 * bitsOf va (levelShift level) (if level = 3 then 18 else 9),
             entry := BitVec.ofNat 64 (s.levelEntry die asid va base level).2 } :: used)
          (frameOf (s.levelEntry die asid va base level).2) rest :=
  rfl

variable {s die asid supv va base level}

theorem State.walk_fault {f : Flt} (h : entryFault level supv (s.levelEntry die asid va base level).2 = some f) :
    (s.walk die asid supv va used base (level :: rest)).2 = .error f := by
  rw [State.walk_cons, h]

theorem State.walk_leaf (h : entryFault level supv (s.levelEntry die asid va base level).2 = none)
    (hl : (s.levelEntry die asid va base level).2.testBit 2 = true) :
    (s.walk die asid supv va used base (level :: rest)).2 =
      .ok (leafXlat level va (s.levelEntry die asid va base level).2, used) := by
  rw [State.walk_cons, h]
  exact congrArg Prod.snd (if_pos hl)

theorem State.walk_table (h : entryFault level supv (s.levelEntry die asid va base level).2 = none)
    (hl : (s.levelEntry die asid va base level).2.testBit 2 = false) :
    s.walk die asid supv va used base (level :: rest) = (s.levelEntry die asid va base level).1.walk die asid supv va
      ({ asid := asid, pa := base + 8 * bitsOf va (levelShift level) (if level = 3 then 18 else 9),
         entry := BitVec.ofNat 64 (s.levelEntry die asid va base level).2 } :: used)
      (frameOf (s.levelEntry die asid va base level).2) rest := by
  rw [State.walk_cons, h]
  exact if_neg (by simp [bitOf, hl])

end

/-- An entry of level 0 without a fault is a leaf (R17). -/
theorem leaf_of_entryFault_zero {supv : Bool} {e : Nat} (h : entryFault 0 supv e = none) : e.testBit 2 = true := by
  rw [entryFault_eq] at h
  split at h
  · cases h
  · split at h
    · cases h
    next hn => simpa using (not_or.1 (not_or.1 (not_or.1 (not_or.1 hn).2).2).2).1

section
variable (s : State)

theorem State.keeps_homeNat (pa n : Nat) : s.AccessKeeps (s.homeNat pa n).1 := s.keeps_homeGet true false pa n

theorem State.keeps_walkEntry (die asid pa : Nat) : s.AccessKeeps (s.walkEntry die asid pa).1 := by
  unfold State.walkEntry
  split
  · exact s.keeps_homeNat pa 8
  · dsimp only
    split
    · exact s.keeps_homeNat pa 8
    · exact (s.keeps_homeNat pa 8).trans (State.quiet_free ..).toAccessKeeps

theorem State.keeps_lastEntry (die asid base idx : Nat) : s.AccessKeeps (s.lastEntry die asid base idx).1 := by
  unfold State.lastEntry
  dsimp only
  split
  · exact (s.keeps_walkEntry ..).trans (State.quiet_free ..).toAccessKeeps
  · exact s.keeps_walkEntry ..

/-- A walk enters nothing in a TLB or a walk cache: what it used enters once it has succeeded (R22). -/
theorem State.keeps_walk (die asid : Nat) (supv : Bool) (va : Nat) (used : List WalkEntry) (base : Nat) (levels : List Nat) :
    s.AccessKeeps (s.walk die asid supv va used base levels).1 := by
  induction levels generalizing s used base with
  | nil => exact .refl s
  | cons level rest ih =>
    have read : s.AccessKeeps (s.levelEntry die asid va base level).1 := by
      unfold State.levelEntry
      dsimp only
      split
      · exact s.keeps_lastEntry ..
      · exact s.keeps_walkEntry ..
    rw [State.walk_cons]
    split
    · exact read
    · split
      · exact read
      · exact read.trans (ih ..)

/-- What a translation comes to: the fault of its form; or a fault of the walk or of a permission, with no more done than accesses at
home slices; or, with its permission, a translation that enters the walk cache and the TLBs (R14, R19, R22). -/
theorem State.translate_cases (core asid : Nat) (x : Ctx) (va : Nat) (acc : Access) :
    (∃ f, formFault (! x.supv) va = some f ∧ s.translate core asid x va acc = (s, .error f)) ∨
    formFault (! x.supv) va = none ∧ ∃ u, s.AccessKeeps u ∧ ((∃ f, s.translate core asid x va acc = (u, .error f)) ∨
      ∃ y used, permFault (! x.supv) acc y.leaf = none ∧
        s.translate core asid x va acc = ((u.walkPut (dieOf core) used).tlbPut core asid va y, .ok y)) := by
  have user : decide (¬ x.supv = true) = ! x.supv := by cases x.supv <;> rfl
  unfold State.translate
  dsimp only
  rw [user]
  cases hf : formFault (! x.supv) va with
  | some f => exact .inl ⟨f, rfl, rfl⟩
  | none =>
    refine .inr ⟨rfl, ?_⟩
    have checked (r : State × Except Flt (Xlat × List WalkEntry)) (hr : s.AccessKeeps r.1) (q : State × Except Flt Xlat)
        (hq : q = match r.2 with
          | .error f => (r.1, .error f)
          | .ok y => match permFault (! x.supv) acc y.1.leaf with
            | some f => (r.1, .error f)
            | none => ((r.1.walkPut (dieOf core) y.2).tlbPut core asid va y.1, .ok y.1)) :
        ∃ u, s.AccessKeeps u ∧ ((∃ f, q = (u, .error f)) ∨ ∃ y used, permFault (! x.supv) acc y.leaf = none ∧
          q = ((u.walkPut (dieOf core) used).tlbPut core asid va y, .ok y)) := by
      refine ⟨r.1, hr, ?_⟩
      subst hq
      split
      next f _ => exact .inl ⟨f, rfl⟩
      next y _ =>
        split
        next f _ => exact .inl ⟨f, rfl⟩
        next hp => exact .inr ⟨y.1, y.2, hp, rfl⟩
    refine checked _ ?_ _ rfl
    have walked := s.keeps_walk (dieOf core) asid x.supv va [] x.root [3, 2, 1, 0]
    have cached (t : State) (ht : s.AccessKeeps t) (n : Nat) (b old : Bool) (y z : Except Flt (Xlat × List WalkEntry)) :
        s.AccessKeeps (if b then (s, y) else if old then ({ s with free := n }, y) else ({ t with free := n }, z)).1 := by
      split
      · exact .refl s
      · split
        · exact (s.quiet_free n).toAccessKeeps
        · exact ht.trans (t.quiet_free n).toAccessKeeps
    split
    · exact walked
    · exact cached _ walked ..

/-- A translation that is entered stands first in the core's TLB (R22). -/
theorem State.tlbPut_tlb (core asid va : Nat) (y : Xlat) : ∃ rest, ((s.tlbPut core asid va y).core core).tlb =
    { asid := asid, base := va / 2 ^ y.size * 2 ^ y.size, size := y.size, leaf := BitVec.ofNat 64 y.leaf } :: rest := by
  have kept (n : Nat) (same : TlbEntry → Bool) (e : TlbEntry) (l : List TlbEntry) : ∃ rest, tlbKeep n same e l = e :: rest := by
    unfold tlbKeep
    split
    · exact ⟨_, rfl⟩
    · exact ⟨_, rfl⟩
  have cell (t : State) (n : Nat) (f : CellUnit → CellUnit) : (t.modCell n f).core core = t.core core := rfl
  unfold State.tlbPut
  rw [cell, State.core_modCore, if_pos rfl]
  exact kept ..

end

/-- Settles O46, part by part: the checks of an address, of a leaf and of an entry; the levels of the walk; what a translation leaves
in the TLBs. -/
theorem translation : Obligations.Translation := by
  unfold Obligations.Translation
  refine ⟨formFault_eq, fun user leaf => ⟨fun hu hs acc => hu ▸ permFault_supervisor acc hs, fun h =>
    ⟨permFault_eq h .read, permFault_eq h .write, permFault_eq h .rmw, permFault_eq h .fetch⟩⟩, ?_, ?_, ?_, ?_⟩
  · intro level supv e _ leaf frame memory
    have device (a : Nat) : isDeviceMem a = memory a := isDeviceMem_eq a
    refine ⟨device frame, ?_⟩
    rw [entryFault_eq]
    simp only [device]
    rfl
  · intro s die asid va base supv used rest hown hwalk hmem ix entry alike w
    obtain ⟨h8, halike, hone⟩ := State.lastEntry_unowned hown hwalk asid base (ix := ix) (Nat.mod_lt _ (by decide)) hmem
    refine ⟨(s.lastEntry die asid base ix).2, h8, halike, hone, fun f hf => State.walk_fault used rest hf, fun hf => ?_⟩
    refine (State.walk_leaf used rest hf (leaf_of_entryFault_zero hf)).trans ?_
    simp only [leafXlat, true_and]
    rfl
  · intro s die asid va base level supv used rest hown hwalk hlevel at_ e w hmem
    have hne : level ≠ 0 := by omega
    have read : s.levelEntry die asid va base level = s.walkEntry die asid at_ := if_neg hne
    obtain ⟨hq, he⟩ := State.walkEntry_unowned hown hwalk asid hmem
    have he : (s.levelEntry die asid va base level).2 = e := read ▸ he
    refine ⟨fun h0 => State.walk_fault used rest ?_, fun f hf => State.walk_fault used rest (he.symm ▸ hf), fun hf hl => ?_,
      fun hf hl => ?_⟩
    · rw [he, entryFault_eq, if_pos h0]
    · refine ⟨_, State.walk_leaf used rest (he.symm ▸ hf) (he.symm ▸ hl), ?_⟩
      simp [leafXlat, hne, he, levelShift]
    · refine ⟨(s.levelEntry die asid va base level).1, read ▸ hq.mem, ?_⟩
      have := State.walk_table used rest (he.symm ▸ hf) (he.symm ▸ hl)
      rw [he] at this
      exact this
  · intro s t core asid va x acc
    rcases s.translate_cases core asid x va acc with ⟨f, -, ht⟩ | ⟨hform, u, hu, ⟨f, ht⟩ | ⟨y, used, hperm, ht⟩⟩
    · rw [ht]
      refine ⟨fun y hy => (by cases hy), fun g hg n => ?_⟩
      cases hg
      exact ⟨rfl, rfl, rfl⟩
    · rw [ht]
      refine ⟨fun y hy => (by cases hy), fun g hg n => ?_⟩
      cases hg
      exact ⟨hu.coreTlb n, hu.cellTlb n, hu.walk n⟩
    · rw [ht]
      refine ⟨fun z hz => ?_, fun g hg => (by cases hg)⟩
      cases hz
      obtain ⟨below, user⟩ := lt_of_formFault hform
      obtain ⟨rest, htlb⟩ := (u.walkPut (dieOf core) used).tlbPut_tlb core asid va y
      exact ⟨below, fun hx => user (by simp [hx]), hperm, _, rest, htlb, rfl, rfl, rfl, rfl⟩

end Sys2Proof.Machine
end

section
/-! PROOFS. Bytes of numbers (R9) and of registers (R330), and how the lanes of an access are performed as it issues (R85). -/

namespace Sys2Proof.Machine

@[simp] theorem length_bytesLE (n x : Nat) : (bytesLE n x).length = n := by
  induction n generalizing x with
  | zero => rfl
  | succ n ih => simp [bytesLE, ih]

theorem natLE_bytesLE (n x : Nat) : natLE (bytesLE n x) = x % 2 ^ (8 * n) := by
  induction n generalizing x with
  | zero => simp [bytesLE, natLE, Nat.mod_one]
  | succ n ih =>
    have split : 2 ^ (8 * (n + 1)) = 256 * 2 ^ (8 * n) := by rw [Nat.mul_succ, Nat.pow_add, Nat.mul_comm]
    simp only [bytesLE, natLE, ih, BitVec.toNat_ofNat]
    rw [split, Nat.mod_mul]

/-- Bytes of a number in two parts, the lower ones first. -/
theorem bytesLE_add (m n x : Nat) : bytesLE (m + n) x = bytesLE m x ++ bytesLE n (x / 2 ^ (8 * m)) := by
  induction m generalizing x with
  | zero => simp [bytesLE]
  | succ m ih =>
    have split : 2 ^ (8 * (m + 1)) = 256 * 2 ^ (8 * m) := by rw [Nat.mul_succ, Nat.pow_add, Nat.mul_comm]
    rw [Nat.succ_add, bytesLE, bytesLE, ih, split, Nat.div_div_eq_div_mul, List.cons_append]

theorem bytesLE_mod (n k x : Nat) (h : 8 * n ≤ k) : bytesLE n (x % 2 ^ k) = bytesLE n x := by
  induction n generalizing k x with
  | zero => rfl
  | succ n ih =>
    obtain ⟨j, rfl⟩ : ∃ j, k = 8 + j := ⟨k - 8, by omega⟩
    have low : BitVec.ofNat 8 (x % 2 ^ (8 + j)) = BitVec.ofNat 8 x := by
      apply BitVec.eq_of_toNat_eq
      simp only [BitVec.toNat_ofNat]
      exact Nat.mod_mod_of_dvd _ (Nat.pow_dvd_pow 2 (by omega))
    rw [bytesLE, bytesLE, low, Nat.pow_add, Nat.mod_mul_right_div_self]
    exact congrArg _ (ih j (x / 256) (by omega))

/-- Words loaded from their bytes fill registers from the lowest (R330). -/
theorem loadRegs_words (d : Nat) (sx : Bool) (ws : List Word) (h : ws ≠ []) :
    loadRegs d sx (ws.flatMap fun w => bytesLE 4 w.toNat) = ws.zipIdx.map fun e => (d + e.2, e.1) := by
  have len (vs : List Word) : (vs.flatMap fun w => bytesLE 4 w.toNat).length = 4 * vs.length := by
    induction vs with
    | nil => rfl
    | cons v vs ih => simp only [List.flatMap_cons, List.length_append, length_bytesLE, ih, List.length_cons]; omega
  have word_at (vs : List Word) (i : Nat) (hi : i < vs.length) :
      ((vs.flatMap fun w => bytesLE 4 w.toNat).drop (4 * i)).take 4 = bytesLE 4 vs[i].toNat := by
    induction vs generalizing i with
    | nil => cases hi
    | cons v vs ih =>
      cases i with
      | zero => simp
      | succ i =>
        have skip : 4 * (i + 1) = (bytesLE 4 v.toNat).length + 4 * i := by rw [length_bytesLE]; omega
        rw [List.flatMap_cons, skip, List.drop_length_add_append]
        exact ih i (by simpa using hi)
  have pos : 0 < ws.length := List.length_pos_iff.2 h
  unfold loadRegs
  rw [len, if_neg (by omega), Nat.mul_div_cancel_left _ (by decide)]
  apply List.ext_getElem
  · simp
  · intro i h1 h2
    have hi : i < ws.length := by simpa using h1
    have whole : word (ws[i].toNat % 2 ^ (8 * 4)) = ws[i] := BitVec.eq_of_toNat_eq (by simpa using ws[i].isLt)
    simp only [List.getElem_map, List.getElem_range, List.getElem_zipIdx, word_at ws i hi, natLE_bytesLE, whole, Nat.zero_add]

/-- The value of an atomic's old bytes in its registers (R338). -/
theorem oldRegs_bytesLE (d : Nat) (x : XAtm) (old : Nat) :
    oldRegs (some d) (bytesLE (atomBits x.aty / 8) old) = atomRegs d x old := by
  have words (k : Nat) : bytesLE 4 (word k).toNat = bytesLE 4 k := bytesLE_mod 4 32 k (by decide)
  have taken (bs : List Byte) : oldRegs (some d) bs = loadRegs d false bs := rfl
  rw [taken]
  unfold atomRegs
  by_cases hw : atomBits x.aty = 64
  · have bytes : bytesLE 8 old = [word old, word (old / 2 ^ 32)].flatMap fun w => bytesLE 4 w.toNat := by
      simp only [List.flatMap_cons, List.flatMap_nil, List.append_nil, words]
      exact bytesLE_add 4 4 old
    rw [if_pos hw, hw, show 64 / 8 = 8 from rfl, bytes, loadRegs_words _ _ _ (by simp)]
    rfl
  · have h32 : atomBits x.aty = 32 := by unfold atomBits at hw ⊢; split <;> simp_all
    have bytes : bytesLE 4 old = [word old].flatMap fun w => bytesLE 4 w.toNat := by
      simp only [List.flatMap_cons, List.flatMap_nil, List.append_nil, words]
    rw [if_neg hw, h32, show 32 / 8 = 4 from rfl, bytes, loadRegs_words _ _ _ (by simp)]
    rfl

/-- A part of a state that no step of a fold changes. -/
theorem foldl_same {α β : Type} (g : State → β) {f : State → α → State} (h : ∀ u a, g (f u a) = g u) (l : List α) (s : State) :
    g (l.foldl f s) = g s := by
  induction l generalizing s with
  | nil => rfl
  | cons a l ih => exact (ih (f s a)).trans (h s a)

section
variable {s : State} (c : Cur)

/-- With nothing issued before, nothing is to be caught up with (R83). -/
theorem State.catchUp_of_no_issues (h : s.issues = []) (r : Ref) (ps : List Piece) : s.catchUp r ps = s := by
  simp [State.catchUp, State.flush, h]

/-- A scratchpad access writes no slot of a transport ring (R397). -/
theorem State.noteRing_spad (asid : Nat) (r : Ref) (va gid off n : Nat) : s.noteRing asid r [.spad va gid off n] = s := by
  unfold State.noteRing
  split
  · rfl
  · split <;> rfl

/-- An access of one piece. -/
theorem State.runLane_one (h : How) (a : LaneArg) (p : Piece) :
    s.runLane c h a [p] = ((s.doPiece c.g.asid c.g.core c.r c.p.clauseId h a 0 p).1,
      (s.doPiece c.g.asid c.g.core c.r c.p.clauseId h a 0 p).2) := by
  simp [State.runLane]

/-- Where a step performs every lane, none is left for later (log 1). -/
theorem goLanes_now (k : Restart) {m : Mode} (mask : Option Nat) (ends : Bool) {fit : List (Nat × List Piece)}
    (zeros : List (Nat × LaneOut)) (h : fit.all (m.now k.how) = true) :
    s.goLanes c k m mask ends fit zeros =
      (s.perform fit (k.run c)).1.landOuts c.r c.p.clauseId ((s.perform fit (k.run c)).2 ++ zeros) := by
  have all := List.all_eq_true.1 h
  have now : fit.filter (m.now k.how) = fit := List.filter_eq_self.2 all
  have later : (fit.filter fun e => ¬ m.now k.how e) = [] := List.filter_eq_nil_iff.2 fun e he => by simp [all e he]
  unfold State.goLanes
  rw [now, later]
  rfl

end

end Sys2Proof.Machine
end

section
/-! PROOFS. Accesses of cores to memory and accesses issued before keep what `State.AccessKeeps` lists: the L1 (02 R42 to R46), path
caches (R52), read-modify-writes (R57 to R60), and what a team has issued and not performed (03 R79, R83). -/

namespace Sys2Proof.Machine

theorem State.AccessKeeps.foldl_fst {α β : Type} {f : State × β → α → State × β} (h : ∀ (p : State × β) a, p.1.AccessKeeps (f p a).1) (l : List α)
    (p : State × β) : p.1.AccessKeeps (l.foldl f p).1 := by
  induction l generalizing p with
  | nil => exact .refl p.1
  | cons a l ih => exact (h p a).trans (ih (f p a))

/-- As `ite`, for a pair whose state is compared. -/
theorem State.AccessKeeps.ite_fst {β : Type} {s : State} {p q : State × β} {c : Prop} [Decidable c] (h : s.AccessKeeps p.1)
    (k : s.AccessKeeps q.1) : s.AccessKeeps (if c then p else q).1 := by
  split
  · exact h
  · exact k

section
variable (s : State)

theorem State.keeps_modGroup (gid : Nat) (f : Group → Group) : s.AccessKeeps (s.modGroup gid f) :=
  .of_same rfl rfl rfl rfl rfl rfl rfl rfl

theorem State.keeps_modCore (n : Nat) (f : Core → Core) (h : ∀ c, (f c).tlb = c.tlb := by exact fun _ => rfl) :
    s.AccessKeeps (s.modCore n f) := (s.quiet_modCore n f h).toAccessKeeps

theorem State.keeps_modCell (n : Nat) (f : CellUnit → CellUnit) (h : ∀ c, (f c).tlb = c.tlb := by exact fun _ => rfl) :
    s.AccessKeeps (s.modCell n f) := (s.quiet_modCell n f h).toAccessKeeps

theorem State.keeps_modDie (n : Nat) (f : Die → Die) (h : ∀ d, (f d).walk = d.walk := by exact fun _ => rfl) :
    s.AccessKeeps (s.modDie n f) := (s.quiet_modDie n f h).toAccessKeeps

theorem State.keeps_modDir (n : Nat) (f : Dir → Dir) : s.AccessKeeps (s.modDir n f) := .of_same rfl rfl rfl rfl rfl rfl rfl rfl

theorem State.keeps_modTeam (gid role : Nat) (f : Team → Team) : s.AccessKeeps (s.modTeam gid role f) := s.keeps_modGroup ..

theorem State.keeps_modPath (r : Ref) (f : Path → Path) : s.AccessKeeps (s.modPath r f) := s.keeps_modTeam ..

theorem State.keeps_seen (core line : Nat) : s.AccessKeeps (s.seen core line) := (s.quiet_seen ..).toAccessKeeps

theorem State.keeps_seeHome (core line : Nat) : s.AccessKeeps (s.seeHome core line) := (s.quiet_seeHome ..).toAccessKeeps

theorem State.keeps_recall (line : Nat) : s.AccessKeeps (s.recall line) := (s.recall_spec line).1

theorem State.keeps_flushAmod (core line : Nat) : s.AccessKeeps (s.flushAmod core line) := (s.flushAmod_spec core line).1

theorem State.keeps_acquire (core rank : Nat) : s.AccessKeeps (s.acquire core rank) := (s.quiet_acquire ..).toAccessKeeps

theorem State.keeps_poisonMask (line : Nat) (mask : BitVec 128) : s.AccessKeeps (s.poisonMask line mask) :=
  (s.quiet_poisonMask ..).toAccessKeeps

theorem State.keeps_predict (core line : Nat) (up : Bool) : s.AccessKeeps (s.predict core line up) :=
  (s.quiet_predict ..).toAccessKeeps

theorem State.keeps_homeWriteMask (a : Agent) (line : Nat) (mask : BitVec 128) (data : BitVec 1024) (low : Bool) :
    s.AccessKeeps (s.homeWriteMask a line mask data low) :=
  ((s.keeps_recall line).trans (State.keeps_l2Use ..)).trans (State.keeps_writeLine ..)

theorem State.keeps_fillSectors (need : BitVec 4) (low : Bool) (l : CLine) : s.AccessKeeps (s.fillSectors need low l).1 :=
  .foldl_fst (fun (p : State × CLine) i => p.1.keeps_homeGet true low (128 * l.line + 32 * i) 32) _ (s, l)

theorem State.keeps_dieRead (core pa n : Nat) (alloc low : Bool) : s.AccessKeeps (s.dieRead core pa n alloc low).1 := by
  have spoilt {t : State} (ht : s.AccessKeeps t) (l : List RdcFill) : s.AccessKeeps { t with rdcFill := l } :=
    ht.trans (.of_same rfl rfl rfl rfl rfl rfl rfl rfl)
  unfold State.dieRead
  dsimp only
  split
  · exact (s.keeps_seen ..).trans (State.keeps_homeGet ..)
  split
  · exact (s.keeps_seeHome ..).trans (State.keeps_homeGet ..)
  have filled {t : State} (ht : s.AccessKeeps t) (miss : BitVec 4) (l : CLine) (f : Die → Die) (h : ∀ d, (f d).walk = d.walk) :
      s.AccessKeeps (((t.seen core (pa / 128)).fillSectors miss low l).1.modDie (dieOf core) f) :=
    ((ht.trans (State.keeps_seen ..)).trans (State.keeps_fillSectors ..)).trans (State.keeps_modDie _ _ f h)
  split <;> dsimp only
  · exact filled (.refl s) _ _ _ fun _ => rfl
  · refine spoilt ?_ _
    exact .trans (filled (s.keeps_recall _) _ _ _ (by exact fun _ => rfl)) (State.keeps_modDir ..)

/-! ### The L1 -/

theorem State.keeps_l1Mod (core line : Nat) (f : Line → Line) : s.AccessKeeps (s.l1Mod core line f) := s.keeps_modCore ..

theorem State.keeps_writeBack (core line : Nat) : s.AccessKeeps (s.writeBack core line) := by
  unfold State.writeBack
  split
  · exact .refl s
  · exact .ite (.refl s) (((s.keeps_homeWriteMask ..).trans (State.keeps_poisonMask ..)).trans (State.keeps_l1Mod ..))

theorem State.keeps_l1Evict (core line : Nat) : s.AccessKeeps (s.l1Evict core line) := by
  have back := s.keeps_writeBack core line
  unfold State.l1Evict
  dsimp only
  exact .trans (.ite (back.trans (State.keeps_recall ..)) back) (State.keeps_modCore ..)

theorem State.keeps_l1Enter (core : Nat) (l : Line) : s.AccessKeeps (s.l1Enter core l) := by
  have picked (p : State × Option Nat) (hp : s.AccessKeeps p.1) (f : Nat → Core → Core) (h : ∀ w c, (f w c).tlb = c.tlb) :
      s.AccessKeeps (match p.2 with
        | none => p.1
        | some w => p.1.modCore core (f w)) := by
    split
    · exact hp
    · exact hp.trans (State.keeps_modCore _ _ _ (h _))
  unfold State.l1Enter
  refine picked _ ?_ (fun w c => _) fun _ _ => rfl
  split
  · exact .refl s
  · split
    · exact .refl s
    · split
      · exact .refl s
      · exact s.keeps_l1Evict ..

theorem State.keeps_l1Load (core pa n : Nat) (a : Attr) : s.AccessKeeps (s.l1Load core pa n a).1 := by
  unfold State.l1Load
  dsimp only
  refine .ite_fst ((s.keeps_seeHome ..).trans (State.keeps_homeGet ..)) (.trans ?_ (State.keeps_l1Enter ..))
  refine .trans ?_ (.foldl_fst (fun p i => ?_) _ (_, _))
  rotate_left
  · exact p.1.keeps_dieRead ..
  exact .ite (s.keeps_recall _) (.refl s)

theorem State.keeps_l1LoadAcq (core pa n : Nat) (a : Attr) : s.AccessKeeps (s.l1LoadAcq core pa n a).1 := by
  unfold State.l1LoadAcq
  refine .ite_fst ((s.keeps_seeHome ..).trans (State.keeps_homeGet ..)) ?_
  dsimp only
  split
  · exact s.keeps_dieRead ..
  · exact s.keeps_dieRead ..

theorem State.keeps_l1StoreNarrow (core pa : Nat) (bs : List Byte) (rank : Nat) (a : Attr) :
    s.AccessKeeps (s.l1StoreNarrow core pa bs rank a) := by
  unfold State.l1StoreNarrow
  exact .trans (.ite (s.keeps_flushAmod ..) (.refl s)) (State.keeps_l1Enter ..)

theorem State.keeps_storeThrough (core pa : Nat) (bs : List Byte) (a : Attr) : s.AccessKeeps (s.storeThrough core pa bs a) := by
  unfold State.storeThrough
  exact .trans (.ite (s.keeps_l1Evict ..) (s.keeps_l1Mod ..)) (State.keeps_homePut ..)

theorem State.keeps_storeOf (gid core pa : Nat) (bs : List Byte) (rank : Nat) (through : Bool) (a : Attr) :
    s.AccessKeeps (s.storeOf gid core pa bs rank through a) := by
  have stored : s.AccessKeeps (s.store core pa bs rank through a) := .ite (s.keeps_storeThrough ..) (s.keeps_l1StoreNarrow ..)
  exact .ite stored (stored.trans (State.keeps_l1Mod ..))

theorem State.keeps_pathSector (core : Nat) (k : PathKind) (asid i : Nat) (a : Attr) (l : CLine) :
    s.AccessKeeps (s.pathSector core k asid i a l).1 := by
  have read (b : Prop) [Decidable b] (pa n : Nat) (alloc low : Bool) (f : CellUnit → CellUnit) (h : ∀ c, (f c).tlb = c.tlb) :
      s.AccessKeeps (if b then (s.dieRead core pa n alloc low).1.modCell (cellOf core) f else (s.dieRead core pa n alloc low).1) :=
    .ite ((s.keeps_dieRead ..).trans (State.keeps_modCell _ _ f h)) (s.keeps_dieRead ..)
  unfold State.pathSector
  dsimp only
  split <;> dsimp only
  · exact s.keeps_modCell ..
  · exact read _ _ _ _ _ _ fun _ => rfl

theorem State.keeps_pathRead (core : Nat) (k : PathKind) (asid pa n : Nat) (a : Attr) :
    s.AccessKeeps (s.pathRead core k asid pa n a).1 := by
  unfold State.pathRead
  refine .ite_fst ((s.keeps_seen ..).trans (State.keeps_homeGet ..)) ?_
  dsimp only
  refine .trans (.foldl_fst (fun p i => p.1.keeps_pathSector core k asid i a p.2) _ (_, _)) (State.keeps_modCore _ _ _ fun c => ?_)
  cases k <;> rfl

/-! ### Read-modify-writes -/

theorem State.keeps_rmwHome (core pa : Nat) (keep low : Bool) (q : AtomReq) : s.AccessKeeps (s.rmwHome core pa keep low q).s := by
  unfold State.rmwHome
  dsimp only
  exact ((s.keeps_recall _).trans (State.keeps_seeHome ..)).trans (State.keeps_homeWriteIn ..)

theorem State.keeps_grantLine (core line : Nat) (low : Bool) : s.AccessKeeps (s.grantLine core line low) := by
  unfold State.grantLine
  dsimp only
  have granted := ((((s.keeps_writeBack core line).trans (State.keeps_seeHome _ core line)).trans (State.keeps_l2Use _ line low)).trans
    (State.quiet_invalidate _ line (.core core)).toAccessKeeps).trans (State.quiet_dropRdc _ (dieOf core) line).toAccessKeeps
  exact ((granted.trans (State.keeps_l1Enter ..)).trans (State.keeps_predict ..)).trans (State.keeps_modDir ..)

theorem State.keeps_rmwNear (core pa : Nat) (low : Bool) (q : AtomReq) : s.AccessKeeps (s.rmwNear core pa low q).s := by
  have near (t : State) : t.AccessKeeps (match t.l1Find core (pa / 128) with
      | some l => if l.holds (pa % 128) (atomBits q.ty / 8) then t.rmwOwned core pa l q else (t.writeBack core (pa / 128)).rmwHome core pa true low q
      | none => t.rmwHome core pa true low q : RmwOut).s := by
    split
    · split
      · exact State.keeps_l1Enter t core _
      · exact (t.keeps_writeBack ..).trans (State.keeps_rmwHome ..)
    · exact t.keeps_rmwHome ..
  unfold State.rmwNear
  dsimp only
  split
  · split
    · exact near s
    · have recalled := (s.keeps_writeBack core (pa / 128)).trans (State.keeps_recall _ (pa / 128))
      exact .trans (.trans (recalled.trans (State.keeps_modDir _ (pa / 128) _)) (State.keeps_predict ..)) (State.keeps_rmwHome ..)
  · refine (s.keeps_grantLine core (pa / 128) low).trans ?_
    generalize s.grantLine core (pa / 128) low = t
    exact near t

theorem State.keeps_rmwGlobal (core pa : Nat) (a : Attr) (q : AtomReq) : s.AccessKeeps (s.rmwGlobal core pa a q).s := by
  have placed (b : Prop) [Decidable b] : s.AccessKeeps (if b then (s.writeBack core (pa / 128)).rmwHome core pa (¬ a.uncached) a.low q
      else s.rmwNear core pa a.low q).s := by
    split
    · exact (s.keeps_writeBack ..).trans (State.keeps_rmwHome ..)
    · exact s.keeps_rmwNear ..
  exact placed _

/-! ### Accesses issued before -/

theorem State.keeps_land (gid role clause : Nat) (w : Pending) : s.AccessKeeps (s.land gid role clause w) :=
  (s.quiet_land ..).toAccessKeeps

theorem State.keeps_landOuts (r : Ref) (clause : Nat) (outs : List (Nat × LaneOut)) : s.AccessKeeps (s.landOuts r clause outs) := by
  rw [landOuts_eq]
  exact .foldl (fun u w => u.keeps_land ..) _ s

theorem State.keeps_readBy (core asid : Nat) (path : Option PathKind) (past : Bool) (p : Piece) :
    s.AccessKeeps (s.readBy core asid path past p).1 := by
  cases path with
  | none =>
    cases p with
    | mem va pa n a => exact .ite_fst (s.keeps_l1LoadAcq ..) (s.keeps_l1Load ..)
    | spad | pad | given => exact .refl s
  | some k =>
    cases p with
    | mem va pa n a => exact s.keeps_pathRead ..
    | spad | pad | given => exact .refl s

theorem State.keeps_writePiece (gid core rank : Nat) (through : Bool) (bs : List Byte) (p : Piece) :
    s.AccessKeeps (s.writePiece gid core rank through bs p) := by
  cases p with
  | mem va pa n a => exact s.keeps_storeOf ..
  | spad va at_ off n => exact s.keeps_modGroup ..
  | pad | given => exact .refl s

theorem State.keeps_rmwPiece (core : Nat) (r : Ref) (clause : Nat) (q : AtomReq) (p : Piece) :
    s.AccessKeeps (s.rmwPiece core r clause q p).1 := by
  have acknowledged (o : RmwOut) (ho : s.AccessKeeps o.s) (b b' : Prop) [Decidable b] [Decidable b'] (w w' : Pending) : s.AccessKeeps
      (let t := if b then o.s else o.s.land r.gid r.role clause w
       if b' then t else t.land r.gid r.role clause w') := by
    have first : s.AccessKeeps (if b then o.s else o.s.land r.gid r.role clause w) := .ite ho (ho.trans (State.keeps_land ..))
    exact .ite first (first.trans (State.keeps_land ..))
  cases p with
  | mem va pa n a => exact acknowledged _ (s.keeps_rmwGlobal ..) _ _ _ _
  | spad va gid off n => exact acknowledged (s.rmwSpad gid off q) (s.keeps_modGroup ..) _ _ _ _
  | pad | given => exact .refl s

theorem State.keeps_doPiece (asid core : Nat) (r : Ref) (clause : Nat) (h : How) (a : LaneArg) (off : Nat) (p : Piece) :
    s.AccessKeeps (s.doPiece asid core r clause h a off p).1 := by
  unfold State.doPiece
  split
  · exact s.keeps_readBy ..
  · exact s.keeps_writePiece ..
  · exact s.keeps_rmwPiece ..
  · exact .refl s

theorem State.keeps_latePiece (e : Issue) (l : LaneAcc) (off : Nat) (p : Piece) : s.AccessKeeps (s.latePiece e l off p).1 := by
  unfold State.latePiece
  split
  · exact .ite_fst (.refl s) (s.keeps_doPiece ..)
  · exact s.keeps_doPiece ..

theorem State.keeps_doPieces (e : Issue) (l : LaneAcc) (skip n off : Nat) (ps : List Piece) :
    s.AccessKeeps (s.doPieces e l skip n off ps).1 := by
  induction ps generalizing s skip n off with
  | nil => exact .refl s
  | cons p ps ih =>
    unfold State.doPieces
    split
    · exact ih ..
    · split
      · exact .refl s
      · split
        · exact (s.keeps_latePiece ..).trans (ih ..)
        · exact ih ..

theorem State.keeps_finishIssue (e : Issue) : s.AccessKeeps (s.finishIssue e) := by
  have freed (t : State) (r : Ref) (k : Nat) : t.AccessKeeps (t.freeDone r k) := (t.keeps_modTeam ..).trans (State.keeps_modPath ..)
  have ended (l : List Issue) : s.AccessKeeps { s with issues := l } := .of_same rfl rfl rfl rfl rfl rfl rfl rfl
  unfold State.finishIssue
  dsimp only
  split
  · exact ended _
  split
  · exact ended _
  refine .trans ?_ (State.keeps_modTeam ..)
  have landed (outs : List (Nat × LaneOut)) := (ended (s.issues.filter fun k => k.id ≠ e.id)).trans
    (State.keeps_landOuts _ e.path e.clause outs)
  have marked (t : State) (bits : LaneSet) : t.AccessKeeps (match e.done with
      | none => t
      | some k => if e.ends then t.freeDone e.path k else t.markDone e.path k bits) := by
    split
    · exact .refl t
    · exact .ite (freed ..) (t.keeps_modTeam ..)
  split
  · exact .ite (((landed _).trans (marked ..)).trans (State.keeps_acquire ..)) ((landed _).trans (marked ..))
  · exact (landed _).trans (marked ..)

theorem State.keeps_settleLane (id lane : Nat) : s.AccessKeeps (s.settleLane id lane) := by
  unfold State.settleLane
  split
  · exact .refl s
  split
  · exact .refl s
  next e _ _ l _ =>
    have marked : s.AccessKeeps (match e.done with
        | some k => if l.over && ¬ e.how.reads then s.markDone e.path k (laneSet [lane]) else s
        | none => s) := by
      split
      · exact .ite (s.keeps_modTeam ..) (.refl s)
      · exact .refl s
    exact .ite (marked.trans (State.keeps_finishIssue ..)) marked

theorem State.keeps_doEvent (id lane i : Nat) : s.AccessKeeps (s.doEvent id lane i) := by
  have put (t : State) (f : Issue → Issue) : t.AccessKeeps (t.modIssue id f) := .of_same rfl rfl rfl rfl rfl rfl rfl rfl
  unfold State.doEvent
  split
  · exact .refl s
  split
  · exact .refl s
  · exact ((s.keeps_doPieces ..).trans (put ..)).trans (State.keeps_settleLane ..)

theorem State.keeps_flush (sel : Issue → Bool) : s.AccessKeeps (s.flush sel) := by
  have done (u : State) (e : Issue) : u.AccessKeeps (u.doIssue e) :=
    .foldl (fun v (l : LaneAcc) => .foldl (fun w i => w.keeps_doEvent e.id l.lane i) _ v) _ u
  exact .ite (.refl s) (.foldl done _ s)

theorem State.keeps_catchUp (r : Ref) (ps : List Piece) : s.AccessKeeps (s.catchUp r ps) := s.keeps_flush _

/-! ### Checks of lanes -/

/-- A translation leaves the guard of the instruction, whatever it enters in the TLBs. -/
theorem State.translate_guard (core asid : Nat) (x : Ctx) (va : Nat) (acc : Access) :
    (s.translate core asid x va acc).1.guard = s.guard := by
  have entered (u : State) (used : List WalkEntry) (y : Xlat) :
      ((u.walkPut (dieOf core) used).tlbPut core asid va y).guard = u.guard := by
    unfold State.tlbPut State.walkPut
    split <;> rfl
  rcases s.translate_cases core asid x va acc with ⟨f, -, ht⟩ | ⟨-, u, hu, ⟨f, ht⟩ | ⟨y, used, -, ht⟩⟩
  · rw [ht]
  · rw [ht]
    exact hu.guard
  · rw [ht]
    exact (entered ..).trans hu.guard

theorem State.checkG_guard (c : Cur) (x : Ctx) (va n : Nat) (acc : Access) : (s.checkG c x va n acc).1.guard = s.guard := by
  unfold State.checkG
  dsimp only
  split
  · rfl
  · split <;> exact s.translate_guard ..

theorem State.checkAtom_guard (c : Cur) (k : Ctx) (o : OpG) (x : XAtm) (ret : Bool) (l : Nat) :
    (s.checkAtom c k o x ret l).1.guard = s.guard := by
  unfold State.checkAtom
  dsimp only
  split
  · split <;> exact s.checkG_guard ..
  · exact s.checkG_guard ..

theorem State.checkCell_guard (c : Cur) (k : Ctx) (o : OpG) (x : XMem) (acc : Access) (l : Nat) :
    (s.checkCell c k o x acc l).1.guard = s.guard := by
  unfold State.checkCell
  dsimp only
  split
  · split <;> exact s.checkG_guard ..
  · exact s.checkG_guard ..

theorem State.checkLanes_guard {chk : State → Nat → State × Checked} (h : ∀ u l, (chk u l).1.guard = u.guard) (ls : List Nat) :
    (s.checkLanes ls chk).1.guard = s.guard := by
  have folded (out : List (Nat × Checked)) : (ls.foldl (fun e l => let r := chk e.1 l; (r.1, e.2 ++ [(l, r.2)])) (s, out)).1.guard =
      s.guard := by
    induction ls generalizing s out with
    | nil => rfl
    | cons l ls ih => exact (ih _ _).trans (h s l)
  exact folded []

end

end Sys2Proof.Machine
end

section
/-! PROOFS. Atomics and future cells (01 R26, 15 R336 to R340): every lane or none, what is performed as they issue and what is left
for later, and the value that a read-modify-write leaves. -/

namespace Sys2Proof.Machine

section
variable {s : State} {c : Cur} {chk : State → Nat → State × Checked} {poison : State → List Piece → Bool}
  (k : State → List (Nat × List Piece) → State)

/-- Where every lane passes and consumes no poison, an instruction of every lane or none has its effect (R26). -/
theorem allOrNone_pass
    (h : ∀ e ∈ (s.checkLanes (c.workers s.guard) chk).2, ∃ ps, e.2 = .ok ps ∧
      poison (s.checkLanes (c.workers s.guard) chk).1 ps = false) :
    s.allOrNone c chk poison k =
      k (s.checkLanes (c.workers s.guard) chk).1 (passed (s.checkLanes (c.workers s.guard) chk).2) := by
  have fails : failed (s.checkLanes (c.workers s.guard) chk).2 = [] := by
    refine List.filterMap_eq_nil_iff.2 fun e he => ?_
    obtain ⟨ps, hps, -⟩ := h e he
    rw [hps]
  have spoilt : ((passed (s.checkLanes (c.workers s.guard) chk).2).filter fun e =>
      poison (s.checkLanes (c.workers s.guard) chk).1 e.2) = [] := by
    refine List.filter_eq_nil_iff.2 fun e he => ?_
    obtain ⟨e', he', hx⟩ := List.mem_filterMap.1 he
    obtain ⟨ps, hps, hclean⟩ := h e' he'
    rw [hps] at hx
    obtain rfl := Option.some.inj hx
    simp [hclean]
  unfold State.allOrNone
  dsimp only
  rw [fails, spoilt]
  rfl

/-- Where some lanes fail, the lowest one's fault is taken and nothing is performed (R24, R26). -/
theorem allOrNone_fault {l : Nat} {e : LaneFault} {rest : List (Nat × LaneFault)}
    (h : failed (s.checkLanes (c.workers s.guard) chk).2 = (l, e) :: rest) :
    s.allOrNone c chk poison k = (s.checkLanes (c.workers s.guard) chk).1.takeTrap c.r e.cause e.detail e.addr
      (laneSet ((((l, e) :: rest).filter fun b => b.2.cause = e.cause).map Prod.fst)) false := by
  unfold State.allOrNone
  dsimp only
  rw [h]
  rfl

/-- Where none fails and some would consume poisoned data, the lowest one's fault 0x10 is taken and nothing is performed (R68). -/
theorem allOrNone_poison (hf : failed (s.checkLanes (c.workers s.guard) chk).2 = []) {l : Nat} {ps : List Piece}
    {rest : List (Nat × List Piece)}
    (h : ((passed (s.checkLanes (c.workers s.guard) chk).2).filter fun e =>
      poison (s.checkLanes (c.workers s.guard) chk).1 e.2) = (l, ps) :: rest) :
    s.allOrNone c chk poison k = (s.checkLanes (c.workers s.guard) chk).1.takeTrap c.r 0x10 0 (pieceAddr ps)
      (laneSet (l :: rest.map Prod.fst)) false := by
  have same : ((spoiltLanes ((l, ps) :: rest)).filter fun e => e.2.cause = 0x10).map Prod.fst = l :: rest.map Prod.fst := by
    rw [List.filter_eq_self.2]
    · simp [spoiltLanes]
    · intro e he
      obtain ⟨x, -, rfl⟩ := List.mem_map.1 he
      rfl
  unfold State.allOrNone
  dsimp only
  rw [hf, h]
  exact congrArg (fun ls => State.takeTrap _ c.r 0x10 0 (pieceAddr ps) (laneSet ls) false) same

end

/-- An instruction whose meaning is `allOrNone` performs every lane or none. Its checks leave the guard, so its effect may speak of the
lanes that are active before them. -/
theorem performsAll_of {i : Instr} {check : Cur → Ctx → State → Nat → State × Checked} {poison : Cur → State → List Piece → Bool}
    {k : State → Cur → Ctx → State → List (Nat × List Piece) → State} {k' : Cur → Ctx → State → List (Nat × List Piece) → State}
    (h : ∀ s, exec i s = s.issue i fun c => s.withCtx c fun x => s.allOrNone c (check c x) (poison c) (k' c x))
    (hcheck : ∀ c x u l, (check c x u l).1.guard = u.guard)
    (hk : ∀ s c x u ps, u.guard = s.guard → k' c x u ps = k s c x u ps) :
    PerformsAll i check poison k := by
  intro s c x hi hx r
  have run : exec i s = .next (s.allOrNone c (check c x) (poison c) (k' c x)) := by
    rw [h, issue_of hi]
    simp only [State.withCtx, hx]
  rw [run]
  refine ⟨fun hp => congrArg _ ((allOrNone_pass _ hp).trans (hk s c x _ _ ?_)), fun l e rest hf => congrArg _ (allOrNone_fault _ hf),
    fun hf l ps rest hs => congrArg _ (allOrNone_poison _ hf hs)⟩
  exact s.checkLanes_guard (hcheck c x) _

section
variable (s : State) (c : Cur) (k : Restart)

/-- Lanes all performed as their instruction issues: a release, the lanes, their results, an acquire (R79, R338). -/
theorem goAll_now {ps : List (Nat × List Piece)} (zeros : List (Nat × LaneOut)) (h : ps.all (s.mode.now k.how) = true) :
    s.goAll c k ps zeros =
      ((((s.relFor c k.rel).perform ps (k.run c)).1.landOuts c.r c.p.clauseId
        (((s.relFor c k.rel).perform ps (k.run c)).2 ++ zeros)).acqFor c k.acq).advance c.r := by
  unfold State.goAll
  dsimp only
  rw [goLanes_now c k none true zeros h, if_pos h]

theorem askPieces_issues (op : Nat) (l : LaneAcc) : (s.askPieces c op l).issues = s.issues := by
  refine foldl_same State.issues (fun u e => ?_) _ s
  split
  · split <;> rfl
  · rfl

/-- Lanes left for later are one issued access, of their path and with their arguments (R79, R85). -/
theorem issueLanes_issues (mask : Option Nat) (ends : Bool) (ls : List (Nat × List Piece)) (outs : List (Nat × LaneOut)) :
    ∃ e ∈ (s.issueLanes c k mask ends ls outs).issues, e.path = c.r ∧ e.done = mask ∧ e.how = k.how ∧ e.acq = k.acq ∧
      e.lanes.map (fun l => (l.lane, l.arg)) = ls.map fun p => (p.1, k.arg p.1) := by
  unfold State.issueLanes
  dsimp only
  generalize ls.foldl (fun s e =>
    if k.how.writes then (s.catchUp c.r e.2).noteRing c.g.asid c.r e.2 else s.catchUp c.r e.2) s = u
  let e : Issue :=
    { id := u.fresh, path := c.r, slots := 1#2 <<< c.r.slot, clause := c.p.clauseId, asid := c.g.asid, core := c.g.core
      done := mask, ends := ends, acq := k.acq, how := k.how, lanes := ls.map fun e => k.later c u e, outs := outs }
  have issued : e ∈ ((({ u with fresh := u.fresh + 1, issues := u.issues ++ [e] } : State)).addOp c.r c.p.clauseId u.fresh).issues :=
    List.mem_append_right _ (List.mem_singleton_self e)
  refine ⟨e, ?_, rfl, rfl, rfl, rfl, by simp [e, Restart.later]⟩
  split
  · rw [foldl_same State.issues fun v l => askPieces_issues v c u.fresh l]
    exact issued
  · exact issued

/-- Lanes that the step does not perform are issued, and their path goes on (R79). -/
theorem goAll_later {ps : List (Nat × List Piece)} (zeros : List (Nat × LaneOut)) (h : ps.all (s.mode.now k.how) = false) :
    ∃ (w : State) (e : Issue), s.goAll c k ps zeros = w.advance c.r ∧ e ∈ w.issues ∧ e.path = c.r ∧ e.done = none ∧
      e.how = k.how ∧ e.acq = k.acq ∧
      e.lanes.map (fun l => (l.lane, l.arg)) = (ps.filter fun p => ! s.mode.now k.how p).map fun p => (p.1, k.arg p.1) := by
  have some_later : (ps.filter fun e => ¬ s.mode.now k.how e).isEmpty = false := by
    obtain ⟨e, he, hn⟩ := List.all_eq_false.1 h
    exact List.isEmpty_eq_false_iff_exists_mem.2 ⟨e, List.mem_filter.2 ⟨he, by simpa using hn⟩⟩
  obtain ⟨e, he, hpath, hdone, hhow, hacq, hlanes⟩ := issueLanes_issues
    (((s.relFor c k.rel).perform (ps.filter (s.mode.now k.how)) (k.run c)).1) c k none true
    (ps.filter fun e => ¬ s.mode.now k.how e)
    (((s.relFor c k.rel).perform (ps.filter (s.mode.now k.how)) (k.run c)).2 ++ zeros)
  refine ⟨_, e, ?_, he, hpath, hdone, hhow, hacq, ?_⟩
  · unfold State.goAll State.goLanes
    dsimp only
    rw [if_neg (by simp [h]), if_neg (by rw [some_later]; decide)]
  · rw [hlanes]
    simp

theorem rmwPiece_mem (core : Nat) (r : Ref) (clause : Nat) {q : AtomReq} (va n : Nat) {pa : Nat} {a : Attr}
    (hf : (s.rmwGlobal core pa a q).flags = 0) (hsat : (s.rmwGlobal core pa a q).sat = 0) :
    s.rmwPiece core r clause q (.mem va pa n a) =
      ((s.rmwGlobal core pa a q).s, bytesLE (atomBits q.ty / 8) (s.rmwGlobal core pa a q).old) := by
  simp only [State.rmwPiece, hf, hsat, if_true]

theorem rmwPiece_spad (core : Nat) (r : Ref) (clause : Nat) {q : AtomReq} (va n : Nat) {gid off : Nat}
    (hf : (s.rmwSpad gid off q).flags = 0) (hsat : (s.rmwSpad gid off q).sat = 0) :
    s.rmwPiece core r clause q (.spad va gid off n) =
      ((s.rmwSpad gid off q).s, bytesLE (atomBits q.ty / 8) (s.rmwSpad gid off q).old) := by
  simp only [State.rmwPiece, hf, hsat, if_true]

/-- One lane of an atomic performed as it issues, where no floating-point flag and no saturation comes with its acknowledgement. -/
theorem run_rmw {q : AtomReq} {dst : Option Nat} {l : Nat} {p : Piece} {o : RmwOut} (hs : s.issues = []) (hhow : k.how = .atom)
    (harg : k.arg l = .rmw q dst)
    (hp : (s.noteRing c.g.asid c.r [p]).rmwPiece c.g.core c.r c.p.clauseId q p = (o.s, bytesLE (atomBits q.ty / 8) o.old)) :
    k.run c s l [p] = (o.s, LaneOut.regs (oldRegs dst (bytesLE (atomBits q.ty / 8) o.old))) := by
  unfold Restart.run
  dsimp only
  rw [State.catchUp_of_no_issues hs, hhow, harg, State.runLane_one]
  have one : (s.noteRing c.g.asid c.r [p]).doPiece c.g.asid c.g.core c.r c.p.clauseId .atom (.rmw q dst) 0 p =
      (o.s, bytesLE (atomBits q.ty / 8) o.old) := hp
  simp only [How.writes, if_true, one]
  rfl

end

/-- An atomic on scratchpad reads the old value and writes the new one there, and memory stays (R30). -/
theorem rmwSpad_spec {s : State} {gid : Nat} {g : Group} (off : Nat) (q : AtomReq) (h : tget s.groups gid = some g) :
    (s.rmwSpad gid off q).old = natLE (s.spadBytes gid off (atomBits q.ty / 8)) ∧
    (s.rmwSpad gid off q).s.spadBytes gid off (atomBits q.ty / 8) =
      bytesLE (atomBits q.ty / 8) (atomStep q (s.rmwSpad gid off q).old).new ∧
    (s.rmwSpad gid off q).s.mem = s.mem := by
  refine ⟨rfl, ?_, rfl⟩
  generalize hb : bytesLE (atomBits q.ty / 8) (atomStep q (s.rmwSpad gid off q).old).new = bs
  have written : (s.rmwSpad gid off q).s = s.spadPut gid off bs := by rw [← hb]; rfl
  have len : atomBits q.ty / 8 = bs.length := by rw [← hb, length_bytesLE]
  rw [written, len]
  simp only [State.spadBytes, State.spadPut, State.modGroup_groups, tget_tmod_self, h, Option.map_some]
  exact memBytes_memPut_self ..

/-- Bytes put in a line by their offset in it are bytes put from their address upward. -/
theorem memPut_eq_writes (m : List Host.Cell) (pa : Nat) (bs : List Byte) :
    (((List.range bs.length).zip bs).map fun e => (pa % 128 + e.1, e.2)).foldl
      (fun m e => memSet m (128 * (pa / 128) + e.1) e.2) m = memPut m pa bs := by
  have from_ (k : Nat) (m : List Host.Cell) : (((List.range' k bs.length).zip bs).map fun e => (pa % 128 + e.1, e.2)).foldl
      (fun m e => memSet m (128 * (pa / 128) + e.1) e.2) m = memPut m (pa + k) bs := by
    induction bs generalizing k m with
    | nil => rfl
    | cons b bs ih =>
      have addr : 128 * (pa / 128) + (pa % 128 + k) = pa + k := by omega
      simp only [List.length_cons, List.range'_succ, List.zip_cons_cons, List.map_cons, List.foldl_cons, addr, memPut]
      exact ih (k + 1) _
  rw [List.range_eq_range']
  exact from_ 0 m

/-- An atomic at the home of a line that no core owns reads the old value there and writes the new one (R58). -/
theorem rmwHome_spec {s : State} (core : Nat) {pa : Nat} (low : Bool) (q : AtomReq) (h : (s.dir (pa / 128)).owner = none) :
    (s.rmwHome core pa true low q).old = memNat s.mem pa (atomBits q.ty / 8) ∧
    memNat (s.rmwHome core pa true low q).s.mem pa (atomBits q.ty / 8) =
      (atomStep q (s.rmwHome core pa true low q).old).new % 2 ^ (8 * (atomBits q.ty / 8)) := by
  have recalled : s.recall (pa / 128) = s := State.recall_unowned h
  have seen := s.quiet_seeHome core (pa / 128)
  have old : (s.rmwHome core pa true low q).old = memNat (s.seeHome core (pa / 128)).mem pa (atomBits q.ty / 8) := by
    unfold State.rmwHome
    rw [recalled]
  refine ⟨by rw [old, seen.mem], ?_⟩
  generalize hb : bytesLE (atomBits q.ty / 8) (atomStep q (s.rmwHome core pa true low q).old).new = bs
  have written : (s.rmwHome core pa true low q).s = (s.seeHome core (pa / 128)).homeWriteIn (.core core) true low pa bs := by
    rw [← hb, old]
    unfold State.rmwHome
    rw [recalled]
  have len : atomBits q.ty / 8 = bs.length := by rw [← hb, length_bytesLE]
  have put : ∃ m, ((s.seeHome core (pa / 128)).homeWriteIn (.core core) true low pa bs).mem = memPut m pa bs := by
    unfold State.homeWriteIn
    dsimp only
    rw [State.writeLine_mem, memPut_eq_writes]
    exact ⟨_, rfl⟩
  obtain ⟨m, hm⟩ := put
  rw [written, hm, ← natLE_bytesLE, hb, len]
  exact congrArg natLE (memBytes_memPut_self m pa bs)

/-- The atomic instructions, by what they do with the lanes that pass (R336 to R338). -/
theorem performsAll_atomic {i : Instr} (o : OpG) (x : XAtm) (ret : Bool) {check : Cur → Ctx → State → Nat → State × Checked}
    {k : State → Cur → Ctx → State → List (Nat × List Piece) → State}
    (h : ∀ s, exec i s = s.issue i fun c => s.withCtx c fun y => s.atomic c y o x ret (check c y))
    (hcheck : ∀ c x u l, (check c x u l).1.guard = u.guard)
    (hk : ∀ s c y u ps, k s c y u ps = u.goAll c (c.atomAcc o x y ret (check c y)) ps
      (((c.act s.guard).filter fun l => ret && c.t.helper l).map fun l => (l, LaneOut.regs (atomRegs o.d.toNat x 0)))) :
    PerformsAll i check (fun c u ps => ps.any (u.poisonAtom c.g.core)) k := by
  have helpers (t : Team) : (fun l => decide (ret = true ∧ t.helper l = true)) = fun l => ret && t.helper l := by
    funext l
    simp
  refine performsAll_of (k' := fun c y u ps => u.goAll c (c.atomAcc o x y ret (check c y)) ps
    (((c.act u.guard).filter fun l => ret ∧ c.t.helper l).map fun l => (l, LaneOut.regs (atomRegs o.d.toNat x 0))))
    h hcheck fun s c y u ps hg => ?_
  rw [hk, hg, helpers]

/-- Settles O43: the instructions by what `allOrNone` and `goAll` do, the values by those of the read-modify-write itself. -/
theorem atomicForms : Obligations.AtomicForms := by
  unfold Obligations.AtomicForms
  intro acts rmw
  have acts_eq (u : State) (c : Cur) (a : Restart) (ps : List (Nat × List Piece)) (zeros : List (Nat × LaneOut)) :
      acts u c a ps zeros = u.goAll c a ps zeros := by
    unfold acts
    split
    next hn => exact (goAll_now u c a zeros hn).symm
    next => rfl
  refine ⟨fun o x => performsAll_atomic o x true (fun _ => rfl) (fun _ _ u _ => u.checkAtom_guard ..) fun _ _ _ _ _ => acts_eq ..,
    fun o x => performsAll_atomic o x false (fun _ => rfl) (fun _ _ u _ => u.checkAtom_guard ..) fun _ _ _ _ _ => acts_eq ..,
    fun o x => performsAll_atomic o x true (fun _ => rfl) (fun _ _ _ _ => rfl) fun _ _ _ _ _ => acts_eq ..,
    fun o x => performsAll_atomic o x false (fun _ => rfl) (fun _ _ _ _ => rfl) fun _ _ _ _ _ => acts_eq ..,
    fun o x => performsAll_of (fun _ => rfl) (fun _ _ u _ => u.checkCell_guard ..) fun s c y u ps _ => (acts_eq ..).symm,
    fun o x => performsAll_of (fun _ => rfl) (fun _ _ u _ => u.checkCell_guard ..) fun s c y u ps hg => ?_,
    fun s c a ps zeros h => goAll_later s c a zeros h,
    ?_, fun d x old => ⟨rfl, oldRegs_bytesLE d x old⟩, fun s gid off q g h => rmwSpad_spec off q h,
    fun s core pa q _ _ h => rmwHome_spec core false q h⟩
  · dsimp only
    rw [(u.keeps_catchUp ..).guard, hg]
    simp only [List.isEmpty_iff]
    rfl
  · intro s c a q dst l va pa n y hs hhow harg out far
    refine ⟨fun hf hsat => run_rmw s c a hs hhow harg (rmwPiece_mem _ _ _ _ va n hf hsat), ?_⟩
    intro gid off own hf hsat
    refine run_rmw s c a hs hhow harg ?_
    rw [State.noteRing_spad]
    exact rmwPiece_spad s _ _ _ va n hf hsat

end Sys2Proof.Machine
end

section
/-! PROOFS. The host's side and the platform (01 R36 to R38, 08 R206, 17 R376, 18 R392 to R403): context operations, answers to
faults, registers and the window, notifications, kills, start-up and completions. -/

namespace Sys2Proof.Machine

/-- The state with the result of a context operation set (R393). -/
def State.gives (s : State) (n : Nat) : State := { s with host := { s.host with result := BitVec.ofNat 8 n } }

section
variable {s : State}

/-- A context operation while CTXSTAT is busy sets result 3 and does nothing (R393). -/
theorem serve_busy (h : s.host.busy = true) (f : State → State × Nat) : s.serve f = s.gives 3 := if_pos h

theorem serve_idle (h : s.host.busy = false) (f : State → State × Nat) : s.serve f = (f s).1.gives (f s).2 :=
  if_neg (by simp [h])

theorem onCtx_absent (h : s.host.busy = false) {cmd : CtxCmd} (hc : tget s.ctxs cmd.asid.toNat = none)
    (f : State → Nat → Ctx → State × Nat) : s.onCtx cmd f = s.gives 1 := by
  rw [State.onCtx, serve_idle h, hc]

theorem onCtx_live (h : s.host.busy = false) {cmd : CtxCmd} {x : Ctx} (hc : tget s.ctxs cmd.asid.toNat = some x)
    (hx : x.kill = .live) (f : State → Nat → Ctx → State × Nat) :
    s.onCtx cmd f = (f s cmd.asid.toNat x).1.gives (f s cmd.asid.toNat x).2 := by
  rw [State.onCtx, serve_idle h, hc]
  simp only [hx, ne_eq, not_true_eq_false, if_false]

theorem answer_of (h : s.host.busy = false) {cmd : CtxCmd} {g : Group} {t : TRef} {k : Team} {tr : Trap}
    (hf : s.faultOf cmd.index.toNat = some (g, t)) (hk : tget g.teams t.role = some k) (htr : k.trap = some tr)
    (f : State → Group → TRef → Trap → State) : s.answer cmd f = (f s g t tr).gives 0 := by
  rw [State.answer, serve_idle h, hf]
  simp only [hk, htr]

end

/-! ### Notifications (R394) -/

/-- Writing held notifications into the ring changes no context and no register of the host but NTFHEAD. -/
theorem flushNotes_spec (n : Nat) (s : State) : (State.flushNotes n s).ctxs = s.ctxs ∧
    ∃ head, (State.flushNotes n s).host = { s.host with ntfhead := head } := by
  induction n generalizing s with
  | zero => exact ⟨rfl, _, rfl⟩
  | succ n ih =>
    unfold State.flushNotes
    split
    · exact ⟨rfl, _, rfl⟩
    · split
      · next e rest _ _ =>
        dsimp only
        let u : State := { s with held := rest, host := { s.host with ntfhead := s.host.ntfhead + 1 }, out := s.out ++ [.msix 0] }
        have written := State.keeps_homePut u .outside true false
          (bitsOf s.host.ntfbase.toNat 16 36 * 2 ^ 16 + 16 * (s.host.ntfhead % 4096)) e.bytes
        obtain ⟨hc, head, hh⟩ := ih (u.homeWrite .outside (bitsOf s.host.ntfbase.toNat 16 36 * 2 ^ 16 + 16 * (s.host.ntfhead % 4096)) e.bytes)
        refine ⟨hc.trans written.ctxs, head, hh.trans ?_⟩
        exact congrArg (fun h : HostRegs => { h with ntfhead := head }) written.host
      · exact ⟨rfl, _, rfl⟩

theorem flushNotes_ntfbase (n : Nat) (s : State) : (State.flushNotes n s).host.ntfbase = s.host.ntfbase := by
  obtain ⟨-, head, hh⟩ := flushNotes_spec n s
  rw [hh]

theorem flushNotes_ntftail (n : Nat) (s : State) : (State.flushNotes n s).host.ntftail = s.host.ntftail := by
  obtain ⟨-, head, hh⟩ := flushNotes_spec n s
  rw [hh]

theorem notify_ctxs (s : State) (type detail asid token info : Nat) : (s.notify type detail asid token info).ctxs = s.ctxs :=
  (flushNotes_spec ..).1

/-! ### Kills (R206, R403) -/

theorem killDone_ctxs (s : State) (asid : Nat) : (s.killDone asid).ctxs = tdel s.ctxs asid := notify_ctxs ..

/-- A kill that began 20 ms ago is over: its context is gone. -/
theorem killsDue_gone {s : State} {asid t0 : Nat} {x : Ctx} (hx : tget s.ctxs asid = some x) (hk : x.kill = .killing t0)
    (ht : t0 + Config.killTicks ≤ s.etime) : tget s.killsDue.ctxs asid = none := by
  have deleted (l : List (Nat × Ctx)) (u : State) (h : (∃ e ∈ l, e.1 = asid) ∨ tget u.ctxs asid = none) :
      tget (l.foldl (fun s x => s.killDone x.1) u).ctxs asid = none := by
    induction l generalizing u with
    | nil => simpa using h
    | cons e l ih =>
      refine ih _ ?_
      rw [killDone_ctxs, tget_tdel]
      by_cases he : e.1 = asid
      · exact .inr (if_pos he.symm)
      · rcases h with ⟨k, hk, ha⟩ | h
        · exact .inl ⟨k, by simpa [show k ≠ e from fun h => he (h ▸ ha)] using hk, ha⟩
        · exact .inr (by simp [h])
  refine deleted _ s (.inl ⟨(asid, x), List.mem_filter.2 ⟨tget_mem hx, ?_⟩, rfl⟩)
  simpa [hk] using ht

/-- What a kill leaves: the context, being killed, and nothing of what was its own (R206). -/
theorem killCtx_spec {s : State} {asid : Nat} {x : Ctx} (hx : tget s.ctxs asid = some x) :
    (∃ y, tget (s.killCtx asid).ctxs asid = some y ∧ y.kill = .killing s.etime) ∧ (s.killCtx asid).mem = s.mem ∧
    (∀ g ∈ (s.killCtx asid).groups, g.2.asid ≠ asid) ∧ (∀ d ∈ (s.killCtx asid).grids, d.2.asid ≠ asid) ∧
    (∀ e ∈ (s.killCtx asid).defer, e.asid ≠ asid) ∧ (∀ o ∈ (s.killCtx asid).ops, o.2.asid ≠ asid) ∧
    (∀ e ∈ (s.killCtx asid).issues, e.asid ≠ asid) ∧
    ∀ k ∈ (s.killCtx asid).cores, ∀ l ∈ k.2.l1, ∀ g ∈ s.groups, g.2.asid = asid → ∀ e ∈ l.wrote, e.1 ≠ g.1 := by
  have gone {α : Type} (l : List α) (f : α → Nat) : ∀ e ∈ l.filter (fun e => f e ≠ asid), f e ≠ asid :=
    fun e he => of_decide_eq_true (List.mem_filter.1 he).2
  refine ⟨?_, rfl, gone _ _, gone _ _, gone _ _, gone _ _, gone _ _, ?_⟩
  · simp only [State.killCtx, State.modCtx, tget_tmod_self, hx, Option.map_some]
    exact ⟨_, rfl, rfl⟩
  · intro k hk l hl g hg ha e he heq
    simp only [State.killCtx, tmap, List.mem_map] at hk
    obtain ⟨c, -, rfl⟩ := hk
    simp only [Core.dropDirty, List.mem_filter, List.mem_map] at hl
    obtain ⟨⟨m, -, rfl⟩, -⟩ := hl
    simp only [Line.without, List.mem_filter] at he
    have mine : g.1 ∈ (s.groups.filter fun g => g.2.asid = asid).map Prod.fst :=
      List.mem_map.2 ⟨g, List.mem_filter.2 ⟨hg, by simpa using ha⟩, rfl⟩
    simp [heq, mine] at he

/-! ### Invalidations by the host (R23) -/

/-- The only pending invalidation is the host's: it is done where it waits for nothing, and stays else. -/
theorem invalsDone_host {u : State} {w : Inval} (h : u.invals = [w]) (who : w.who = .host)
    (ops : w.ops.filter u.translated.contains = w.ops)
    (reqs : (w.reqs.filter fun r => u.hostReqs.any fun q => q.live && q.id = r) = w.reqs) :
    u.invalsDone = if w.ops = [] ∧ w.reqs = [] then { u with invals := [], host := { u.host with busy := false, result := 0 } }
      else u := by
  obtain ⟨who', wops, wreqs⟩ := w
  dsimp only at who ops reqs ⊢
  subst who
  unfold State.invalsDone
  simp only [h, List.isEmpty_cons, Bool.false_eq_true, if_false, List.map_cons, List.map_nil, ops, reqs]
  by_cases hn : wops = [] ∧ wreqs = []
  · obtain ⟨rfl, rfl⟩ := hn
    simp
  · rw [if_neg hn]
    have stays : (wops.isEmpty && wreqs.isEmpty) = false := by simpa using hn
    simp only [List.filter_cons, List.filter_nil, stays, Bool.false_eq_true, not_false_eq_true, decide_true, if_true, if_false,
      List.foldl_nil]
    rw [← h]

/-- An invalidation by the host while no other is pending waits for the accesses that have been translated and for the live requests
to the host (R23). -/
theorem invalidate23_host {s : State} (h : s.invals = []) (kind : InvKind) :
    let v := s.invalidate23 kind .host
    let t := State.invalsDone { v with host := { v.host with busy := true } }
    t.cells = (s.invalidateTlb kind).cells ∧
      (s.translated = [] → (∀ q ∈ s.hostReqs, q.live = false) → t.host.busy = false ∧ t.host.result = 0) ∧
      (s.translated ≠ [] ∨ (∃ q ∈ s.hostReqs, q.live = true) → t.host.busy = true) := by
  intro v t
  let w : Inval := { who := .host, ops := s.translated, reqs := (s.hostReqs.filter fun q => q.live).map fun q => q.id }
  have pending : v.invals = [w] := (congrArg (· ++ [w]) h : _)
  have ops : w.ops.filter s.translated.contains = w.ops := List.filter_eq_self.2 fun a ha => by simpa using ha
  have reqs : (w.reqs.filter fun r => s.hostReqs.any fun q => q.live && q.id = r) = w.reqs := by
    refine List.filter_eq_self.2 fun a ha => ?_
    obtain ⟨q, hq, rfl⟩ := List.mem_map.1 ha
    obtain ⟨hq, hl⟩ := List.mem_filter.1 hq
    exact List.any_eq_true.2 ⟨q, hq, by simp [hl]⟩
  have noReqs : w.reqs = [] ↔ ∀ q ∈ s.hostReqs, q.live = false := by
    simp [w, List.filter_eq_nil_iff]
  have done := invalsDone_host (u := { v with host := { v.host with busy := true } }) pending rfl ops reqs
  by_cases hn : w.ops = [] ∧ w.reqs = []
  · rw [show t = _ from done, if_pos hn]
    refine ⟨rfl, fun _ _ => ⟨rfl, rfl⟩, ?_⟩
    rintro (hx | ⟨q, hq, hl⟩)
    · exact absurd hn.1 hx
    · exact absurd (noReqs.1 hn.2 q hq) (by simp [hl])
  · rw [show t = _ from done, if_neg hn]
    exact ⟨rfl, fun ho hr => absurd ⟨ho, noReqs.2 hr⟩ hn, fun _ => rfl⟩

/-! ### Context operations (R393) -/

section
variable {s : State} {cmd : CtxCmd} (hi : s.input = .command cmd)
include hi

/-- Every context operation while CTXSTAT is busy is ignored and sets result 3. -/
theorem exec_ctxop_busy (h : s.host.busy = true) :
    ∀ i ∈ [Instr.ctxopCreate, .ctxopReloadScope, .ctxopReloadQueues, .ctxopReloadStream, .ctxopKill, .ctxopResume, .ctxopDeliver,
      .ctxopTerminate, .ctxopSetTransportRing, .ctxopInvalidate, .ctxopUndefined], exec i s = .next (s.gives 3) := by
  have served (f) : s.serve f = s.gives 3 := serve_busy h f
  have onCtx (f) : s.onCtx cmd f = s.gives 3 := by rw [State.onCtx, served]
  have answer (f) : s.answer cmd f = s.gives 3 := by rw [State.answer, served]
  simp only [List.forall_mem_cons, List.not_mem_nil, false_implies, implies_true]
  refine ⟨?_, ?_, ?_, ?_, ?_, ?_, ?_, ?_, ?_, ?_, ?_, trivial⟩
  · show execCtxopCreate s = _
    simp only [execCtxopCreate, hi, served]
  · show execCtxopReloadScope s = _
    simp only [execCtxopReloadScope, hi, onCtx]
  · show execCtxopReloadQueues s = _
    simp only [execCtxopReloadQueues, hi, onCtx]
  · show execCtxopReloadStream s = _
    simp only [execCtxopReloadStream, hi, onCtx]
  · show execCtxopKill s = _
    simp only [execCtxopKill, hi, onCtx]
  · show execCtxopResume s = _
    simp only [execCtxopResume, hi, answer]
  · show execCtxopDeliver s = _
    simp only [execCtxopDeliver, hi, answer]
  · show execCtxopTerminate s = _
    simp only [execCtxopTerminate, hi, answer]
  · show execCtxopSetTransportRing s = _
    simp only [execCtxopSetTransportRing, hi, onCtx]
  · show execCtxopInvalidate s = _
    simp only [execCtxopInvalidate, hi, h, true_or, if_true, served]
  · show execCtxopUndefined s = _
    simp only [execCtxopUndefined, hi, served]

variable (h : s.host.busy = false)
include h

theorem exec_ctxopUndefined : exec .ctxopUndefined s = .next (s.gives 1) := by
  show execCtxopUndefined s = _
  simp only [execCtxopUndefined, hi, serve_idle h]

theorem exec_ctxopCreate : exec .ctxopCreate s = .next (s.createCtx.1.gives s.createCtx.2) := by
  show execCtxopCreate s = _
  simp only [execCtxopCreate, hi, serve_idle h]

theorem exec_ctxopInvalidate_above (hk : 4 ≤ cmd.index.toNat) : exec .ctxopInvalidate s = .next (s.gives 1) := by
  show execCtxopInvalidate s = _
  simp only [execCtxopInvalidate, hi, hk, or_true, if_true, serve_idle h]

theorem exec_ctxopInvalidate {k : Nat} {kind : InvKind} (hk : cmd.index.toNat = k)
    (hkind : [InvKind.all, .asid cmd.asid.toNat, .page cmd.asid.toNat s.host.ctxaddr.toNat, .gpage s.host.ctxaddr.toNat][k]? =
      some kind) :
    let v := s.invalidate23 kind .host
    exec .ctxopInvalidate s = .next (State.invalsDone { v with host := { v.host with busy := true } }) := by
  subst hk
  have below : cmd.index.toNat < 4 := (List.getElem?_eq_some_iff.1 hkind).1
  show execCtxopInvalidate s = _
  simp only [execCtxopInvalidate, hi, h, Bool.false_eq_true, false_or, Nat.not_le.2 below, if_false]
  generalize cmd.index.toNat = k at hkind below ⊢
  obtain rfl | rfl | rfl | rfl : k = 0 ∨ k = 1 ∨ k = 2 ∨ k = 3 := by omega
  all_goals cases hkind; rfl

theorem exec_ctxop_absent (hc : tget s.ctxs cmd.asid.toNat = none) :
    ∀ i ∈ [Instr.ctxopReloadScope, .ctxopReloadQueues, .ctxopReloadStream, .ctxopKill, .ctxopSetTransportRing],
      exec i s = .next (s.gives 1) := by
  have refused (f) : s.onCtx cmd f = s.gives 1 := onCtx_absent h hc f
  simp only [List.forall_mem_cons, List.not_mem_nil, false_implies, implies_true]
  refine ⟨?_, ?_, ?_, ?_, ?_, trivial⟩
  · show execCtxopReloadScope s = _
    simp only [execCtxopReloadScope, hi, refused]
  · show execCtxopReloadQueues s = _
    simp only [execCtxopReloadQueues, hi, refused]
  · show execCtxopReloadStream s = _
    simp only [execCtxopReloadStream, hi, refused]
  · show execCtxopKill s = _
    simp only [execCtxopKill, hi, refused]
  · show execCtxopSetTransportRing s = _
    simp only [execCtxopSetTransportRing, hi, refused]

section
variable {x : Ctx} (hc : tget s.ctxs cmd.asid.toNat = some x) (live : x.kill = .live)
include hc live

theorem exec_ctxopReloadScope {u : State} {t} (hr : s.readScopes cmd.asid.toNat x = (u, .ok t)) : exec .ctxopReloadScope s =
    .next ((u.modCtx cmd.asid.toNat fun x => { x with scopes := t }).gives 0) := by
  show execCtxopReloadScope s = _
  simp only [execCtxopReloadScope, hi, onCtx_live h hc live, hr]

theorem exec_ctxopReloadQueues {u : State} {t} (hr : s.readQueues cmd.asid.toNat x = (u, .ok t)) : exec .ctxopReloadQueues s =
    .next ((u.modCtx cmd.asid.toNat fun x => { x with queues := t }).gives 0) := by
  show execCtxopReloadQueues s = _
  simp only [execCtxopReloadQueues, hi, onCtx_live h hc live, hr]

theorem exec_ctxopReloadStream (ht : x.strtab ≠ 0) (hn : cmd.index.toNat < 320) : exec .ctxopReloadStream s =
    .next ((s.loadStream cmd.asid.toNat cmd.index.toNat).1.gives
      (if (s.loadStream cmd.asid.toNat cmd.index.toNat).2 then 0 else 1)) := by
  show execCtxopReloadStream s = _
  simp only [execCtxopReloadStream, hi, onCtx_live h hc live, ht, Nat.not_le.2 hn, or_self, if_false]

theorem exec_ctxopKill : exec .ctxopKill s = .next ((s.killCtx cmd.asid.toNat).gives 0) := by
  show execCtxopKill s = _
  simp only [execCtxopKill, hi, onCtx_live h hc live]

/-- A transport ring's header stands at a 64-byte aligned user address; an address that is none is refused (R396). -/
theorem exec_ctxopSetTransportRing : exec .ctxopSetTransportRing s = .next
    (if vaAt s.host.ctxaddr.toNat 64 then
        (s.modCtx cmd.asid.toNat fun x => { x with ring := some s.host.ctxaddr.toNat }).gives 0
      else s.gives 1) := by
  show execCtxopSetTransportRing s = _
  simp only [execCtxopSetTransportRing, hi, onCtx_live h hc live]
  split <;> rfl

end

section
variable {g : Group} {t : TRef} {k : Team} {tr : Trap} (hf : s.faultOf cmd.index.toNat = some (g, t))
  (hk : tget g.teams t.role = some k) (htr : k.trap = some tr)
include hf hk htr

theorem exec_ctxopResume {c : Cur} (hat : s.at { gid := t.gid, role := t.role, slot := tr.slot } = some c)
    (hg : g.place = .resident) : exec .ctxopResume s = .next ((s.resumeTrap c.r tr c.p.pc c.p.clause false).gives 0) := by
  show execCtxopResume s = _
  simp only [execCtxopResume, hi, answer_of h hf hk htr, hat, hg, if_true]

theorem exec_ctxopTerminate : exec .ctxopTerminate s =
    .next ((s.terminateGrid g.grid g.index (256 * tr.cause + tr.detail)).gives 0) := by
  show execCtxopTerminate s = _
  simp only [execCtxopTerminate, hi, answer_of h hf hk htr]

theorem exec_ctxopDeliver_no_handler {x : Ctx} (hc : tget s.ctxs g.asid = some x) (hx : x.traph = 0) : exec .ctxopDeliver s =
    .next ((s.terminateGrid g.grid g.index (256 * tr.cause + tr.detail)).gives 0) := by
  show execCtxopDeliver s = _
  simp only [execCtxopDeliver, hi, answer_of h hf hk htr, hc, hx, if_true]

theorem exec_ctxopDeliver {x : Ctx} (hc : tget s.ctxs g.asid = some x) (hx : x.traph ≠ 0) (hg : g.place = .resident) :
    exec .ctxopDeliver s = .next (((s.modTeam t.gid t.role fun t => { t with trap := some { tr with phase := .frame } }).deliver
      t.gid t.role).gives 0) := by
  show execCtxopDeliver s = _
  simp only [execCtxopDeliver, hi, answer_of h hf hk htr, hc, hx, hg, if_true, if_false]

end

end

theorem exec_killComplete {s : State} {asid t0 : Nat} {x : Ctx} (hi : s.input = .one asid) (hx : tget s.ctxs asid = some x)
    (hk : x.kill = .killing t0) :
    exec .killComplete s = .next (State.notify { s with ctxs := tdel s.ctxs asid } 4 0 asid 0 0) := by
  show execKillComplete s = _
  simp only [execKillComplete, State.killDone, hi, hx, hk]

/-! ### Registers (R36, R392, R394, R401) -/

theorem slice_mask_bits : ∀ i < 52, 30 ≤ i → (0x000FFFFFC0000003#64).getLsbD i = true := by decide

theorem not_en_bits : ∀ i < 52, 30 ≤ i → (~~~ 1#64).getLsbD i = true := by decide

theorem testBit_bitsOf (n lo k i : Nat) : (bitsOf n lo k).testBit i = (decide (i < k) && n.testBit (lo + i)) := by
  rw [bitsOf, Nat.testBit_mod_two_pow, Nat.testBit_div_two_pow, Nat.add_comm]

/-- The target of a slice is its bits 51:30 alone (Table 1-10). -/
theorem sliceTarget_congr {v w : BitVec 64} (h : ∀ i < 52, 30 ≤ i → v.getLsbD i = w.getLsbD i) :
    sliceTarget v = sliceTarget w := by
  have same : bitsOf v.toNat 30 22 = bitsOf w.toNat 30 22 := by
    refine Nat.eq_of_testBit_eq fun i => ?_
    rw [testBit_bitsOf, testBit_bitsOf]
    by_cases hi : i < 22
    · rw [BitVec.testBit_toNat, BitVec.testBit_toNat, h (30 + i) (by omega) (by omega)]
    · simp [hi]
  rw [sliceTarget, sliceTarget, same]

/-- What a slice register keeps of a written value (R36): TARGET and WE, and EN where TARGET is device memory. -/
theorem exec_hwslWrite {s : State} {off : Nat} {v : BitVec 64} (hi : s.input = .reg off v) (lo : 0x20000 ≤ off)
    (up : off < 0x20200) (aligned : off % 8 = 0) : ∃ t w, exec .hwslWrite s = .next t ∧
      tget t.host.hwsl ((off - 0x20000) / 8) = some w ∧ w.getLsbD 1 = v.getLsbD 1 ∧ sliceTarget w = sliceTarget v ∧
      w.getLsbD 0 = (v.getLsbD 0 && isDeviceMem (sliceTarget v)) := by
  let m := v &&& 0x000FFFFFC0000003#64
  let w := if isDeviceMem (sliceTarget m) then m else m &&& ~~~ 1#64
  have target : sliceTarget m = sliceTarget v := sliceTarget_congr fun i hi lo => by
    rw [BitVec.getLsbD_and, slice_mask_bits i hi lo, Bool.and_true]
  have ran : exec .hwslWrite s = .next { s with host := { s.host with hwsl := tset s.host.hwsl ((off - 0x20000) / 8) w } } := by
    show execHwslWrite s = _
    simp only [execHwslWrite, hi, Nat.not_lt.2 lo, Nat.not_le.2 up, aligned, ne_eq, not_true_eq_false, or_self, if_false]
    rfl
  refine ⟨_, w, ran, tget_tset_self .., ?_⟩
  simp only [w]
  rw [target]
  by_cases device : isDeviceMem (sliceTarget v) = true
  · rw [if_pos device]
    refine ⟨?_, target, ?_⟩
    · simp [m]
    · simp [m, device]
  · rw [if_neg device]
    refine ⟨?_, (sliceTarget_congr fun i hi lo => ?_).trans target, ?_⟩
    · simp [m]
    · rw [BitVec.getLsbD_and, not_en_bits i hi lo, Bool.and_true]
    · simp [m, device]

theorem exec_ntfbaseWrite {s : State} {v : BitVec 64} (hi : s.input = .reg 0x200 v) : exec .ntfbaseWrite s =
    .next (State.flushNotes s.held.length { s with host := { s.host with ntfbase := v &&& 0x000FFFFFFFFF0001#64 } }) := by
  show execNtfbaseWrite s = _
  simp only [execNtfbaseWrite, hi, ne_eq, not_true_eq_false, if_false]

theorem exec_ntftailWrite {s : State} {v : BitVec 64} (hi : s.input = .reg 0x210 v) : exec .ntftailWrite s =
    .next (State.flushNotes s.held.length { s with host := { s.host with ntftail := v.toNat } }) := by
  show execNtftailWrite s = _
  simp only [execNtftailWrite, hi, ne_eq, not_true_eq_false, if_false]

/-- The power cap written: 0, or the value held between 1,000 and 4,000 (R401). -/
theorem exec_pwrcapWrite {s : State} {v : BitVec 64} (hi : s.input = .reg 0x300 v) :
    exec .pwrcapWrite s = .next { s with host := { s.host with
      pwrcap := if v = 0 then 0 else if v < 1000 then 1000 else if 4000 < v then 4000 else v } } := by
  have clamp : BitVec.ofNat 64 (min 4000 (max 1000 v.toNat)) = if v < 1000 then 1000 else if 4000 < v then 4000 else v := by
    simp only [BitVec.lt_def, BitVec.reduceToNat]
    split
    · rw [show min 4000 (max 1000 v.toNat) = 1000 by omega]; rfl
    · split
      · rw [show min 4000 (max 1000 v.toNat) = 4000 by omega]; rfl
      · rw [show min 4000 (max 1000 v.toNat) = v.toNat by omega, BitVec.ofNat_toNat, BitVec.setWidth_eq]
  show execPwrcapWrite s = _
  simp only [execPwrcapWrite, hi, ne_eq, not_true_eq_false, if_false, clamp]

theorem exec_registerRead {s : State} {off : Nat} (hi : s.input = .regRead off) : exec .registerWrite s =
    .next { s with out := s.out ++ [.completion (bytesLE 8 (s.readRegister off).toNat)] } := by
  show execRegisterWrite s = _
  simp only [execRegisterWrite, hi]

/-- The registers of Table 18-1 that are read, at their offsets. -/
theorem readRegister_eq {s : State} {off : Nat} {v : BitVec 64}
    (h : off = 0 ∧ v = 0x4B390000000003A0 ∨
      off = 0x110 ∧ v = (if s.host.busy then 1 else 0) + 256 * s.host.result.setWidth 64 ∨ off = 0x200 ∧ v = s.host.ntfbase ∨
      off = 0x208 ∧ v = BitVec.ofNat 64 s.host.ntfhead ∨ off = 0x210 ∧ v = BitVec.ofNat 64 s.host.ntftail ∨
      off = 0x300 ∧ v = s.host.pwrcap ∨ off = 0x20200 ∧ v = s.host.hwdrop ∨
      (∃ n < 64, off = 0x20000 + 8 * n ∧ v = (tget s.host.hwsl n).getD 0) ∨
      (∃ n < 65536, off = 0x100000 + 16 * n ∧ v = (tget s.host.peers n).getD 0)) : s.readRegister off = v := by
  unfold State.readRegister
  dsimp only
  obtain ⟨rfl, rfl⟩ | ⟨rfl, rfl⟩ | ⟨rfl, rfl⟩ | ⟨rfl, rfl⟩ | ⟨rfl, rfl⟩ | ⟨rfl, rfl⟩ | ⟨rfl, rfl⟩ | ⟨n, hn, rfl, rfl⟩ |
    ⟨n, hn, rfl, rfl⟩ := h
  · rfl
  · rw [if_neg (by decide), if_pos rfl]
    refine BitVec.eq_of_toNat_eq ?_
    cases s.host.busy <;> simp
  · rfl
  · rfl
  · rfl
  · rfl
  · rfl
  · rw [if_neg (by omega), if_neg (by omega), if_neg (by omega), if_neg (by omega), if_neg (by omega), if_neg (by omega),
      if_pos (by omega), show (0x20000 + 8 * n - 0x20000) / 8 = n by omega]
  · rw [if_neg (by omega), if_neg (by omega), if_neg (by omega), if_neg (by omega), if_neg (by omega), if_neg (by omega),
      if_neg (by omega), if_neg (by omega), if_pos (by omega), show (0x100000 + 16 * n - 0x100000) / 16 = n by omega]

/-! ### The host window (R36 to R38, R392) -/

theorem windowAt_of_lt (s : State) {off : Nat} (h : off < 2 ^ 36) :
    s.windowAt off = some ((tget s.host.hwsl (off / 2 ^ 30)).getD 0,
      sliceTarget ((tget s.host.hwsl (off / 2 ^ 30)).getD 0) + off % 2 ^ 30) := if_pos h

section
variable {s : State} {off pa : Nat} {v : BitVec 64} (hw : s.windowAt off = some (v, pa))
include hw

theorem exec_hostWindowRead {n : Nat} (hi : s.input = .two off n) :
    (v.getLsbD 0 = false → exec .hostWindowRead s = .next { s with out := s.out ++ [.unsupported] }) ∧
    (v.getLsbD 0 = true → ∃ t, exec .hostWindowRead s = .next t ∧
      t.out.getLast? = some (.completion (s.homeRead pa n).2)) := by
  have ran : exec .hostWindowRead s = execHostWindowRead s := rfl
  simp only [ran, execHostWindowRead, hi, hw]
  refine ⟨fun h => ?_, fun h => ⟨_, by rw [if_pos h], List.getLast?_concat⟩⟩
  rw [if_neg (ne_true_of_eq_false h)]

theorem exec_hostWindowWrite {bs : List Byte} (hi : s.input = .hostWrite off bs) :
    (v.getLsbD 0 = false ∨ v.getLsbD 1 = false →
      exec .hostWindowWrite s = .next { s with host := { s.host with hwdrop := s.host.hwdrop + 1 } }) ∧
    (v.getLsbD 0 = true → v.getLsbD 1 = true → exec .hostWindowWrite s = .next (s.deliverInv.homeWrite .outside pa bs)) := by
  have ran : exec .hostWindowWrite s = execHostWindowWrite s := rfl
  simp only [ran, execHostWindowWrite, hi, hw]
  refine ⟨fun h => ?_, fun en we => ?_⟩
  · rw [if_neg fun on => h.elim (ne_true_of_eq_false · on.1) (ne_true_of_eq_false · on.2)]
  · rw [if_pos ⟨en, we⟩]

theorem exec_hostWindowAtomic {op wide a b} (hi : s.input = .hostAtomic off op wide a b) :
    let n := if wide then 8 else 4
    (v.getLsbD 0 = false ∨ v.getLsbD 1 = false ∨ pa % n ≠ 0 →
      exec .hostWindowAtomic s = .next { s with out := s.out ++ [.unsupported] }) ∧
    (v.getLsbD 0 = true → v.getLsbD 1 = true → pa % n = 0 → ∃ t, exec .hostWindowAtomic s = .next t ∧
      t.out.getLast? = some (.completion (bytesLE n (s.deliverInv.homeNat pa n).2))) := by
  intro n
  have ran : exec .hostWindowAtomic s = execHostWindowAtomic s := rfl
  simp only [ran, execHostWindowAtomic, hi, hw]
  refine ⟨fun h => ?_, fun en we aligned => ⟨_, by
    rw [if_neg (not_or.2 ⟨not_not.2 en, not_or.2 ⟨not_not.2 we, not_not.2 aligned⟩⟩)], List.getLast?_concat⟩⟩
  rw [if_pos (h.imp ne_true_of_eq_false (·.imp_left ne_true_of_eq_false))]

end

/-! ### Start-up (R399, R400) -/

theorem slotOk_iff (rollback : Nat) (g : FlashImage) : slotOk rollback (some g) = true ↔
    ecdsaVerify g.key (slotBytes g) g.sig = true ∧ sha384 (keyBytes g.key) = Config.fusedKeyHash.toNat ∧ rollback ≤ g.version := by
  rw [slotOk, Bool.and_eq_true, Bool.and_eq_true, decide_eq_true_iff, decide_eq_true_iff, and_assoc]

theorem trySlot_good {s : State} {g : FlashImage} (h : slotOk s.plat.rollback (some g) = true) (n : Nat)
    (certificate : List Byte) : s.trySlot n (some g) certificate = some (s.bootFrom n g certificate) := if_pos h

theorem trySlot_bad {s : State} {a : Option FlashImage} (h : ∀ g, a = some g → ¬ slotOk s.plat.rollback (some g) = true) (n : Nat)
    (certificate : List Byte) : s.trySlot n a certificate = none := by
  cases a with
  | none => rfl
  | some g => exact if_neg (h g rfl)

/-- A module in reset takes no step but power good and configuration requests: the turn lets only time pass (R399). -/
theorem step_in_reset {s : State} {i : Instr} {x : Input} {rest : List Turn} (ht : s.turns = .event i x :: rest)
    (hs : s.before.plat.slot = none) (hp : i ≠ .powerGood) (hc : i ≠ .configRequest) :
    step s = .next { s.before with turns := rest } := by
  have notReset : inReset i = false := by
    unfold inReset
    split
    · exact absurd rfl hp
    · exact absurd rfl hc
    · rfl
  rw [step, ht]
  exact if_neg (by simp [hs, notReset])

/-! ### Messages and completions (R35, R398, R399, R403) -/

theorem exec_mctpControlMessage {s : State} {bs : List Byte} (hi : s.input = .msg bs) :
    exec .mctpControlMessage s = .next (s.mctp (Config.mctpAnswer bs)) := by
  show execMctpControlMessage s = _
  simp only [execMctpControlMessage, hi]

theorem exec_faultReport {s : State} {n : Nat} (hi : s.input = .one n) :
    exec .faultReport s = .next ((s.notify 0x0A n 0 0 0).mctp (bytesLE 4 n)) := by
  show execFaultReport s = _
  simp only [execFaultReport, hi]

theorem exec_attestationRequest {s : State} {c : BitVec 256} (hi : s.input = .nonce c) : exec .attestationRequest s =
    .next (if s.plat.slot.isNone then s else ({ s with free := s.free + 1 } : State).mctp (s.attestation c ++ s.plat.certificate)) := by
  show execAttestationRequest s = _
  simp only [execAttestationRequest, hi]

/-- The state when a live request of an access to the host is answered. -/
def State.hostAnswer (s : State) (q : HostReq) (v : BitVec 64) : HostWait → State
  | .fetch => { s with hostData := s.hostData ++ [{ path := q.path, lane := q.lane, pa := q.pa, bytes := bytesLE q.size v.toNat }] }
  | .piece op index => s.hostPiece q op index v

/-- The answer to a request of an access: dropped where its group is gone, and taken by what asked for it else. -/
theorem exec_pcieCompletionFromHost {s : State} {id : Nat} {v : BitVec 64} {q : HostReq} (hi : s.input = .data id v)
    (hq : s.hostReqs.find? (fun q => q.id = id) = some q) :
    let u : State := { s with hostReqs := s.hostReqs.filter fun q => q.id ≠ id }
    exec .pcieCompletionFromHost s = .next (if q.live then u.hostAnswer q v q.what else u) := by
  intro u
  show execPcieCompletionFromHost s = _
  simp only [execPcieCompletionFromHost, hi, hq]
  cases q.live with
  | false => simp [u, hi]
  | true =>
    simp only [not_true_eq_false, if_false, if_true]
    cases q.what <;> simp only [State.hostAnswer, u, hi]

/-- Settles O60: each context operation through `serve_idle`, each register by its offset, the rest by what its step does. -/
theorem hostAndPlatform : Obligations.HostAndPlatform := by
  unfold Obligations.HostAndPlatform
  refine ⟨fun s cmd hi busy => exec_ctxop_busy hi busy, ?operations, ?answers, ?kills, ?writes, ?reads, ?window, ?messages, ?boot,
    fun s i x rest => step_in_reset, ?units, ?pieces⟩
  case operations =>
    intro s cmd x hi idle asid gives
    refine ⟨exec_ctxopUndefined hi idle, exec_ctxopCreate hi idle, exec_ctxopInvalidate_above hi idle, ?_,
      exec_ctxop_absent hi idle, ?_⟩
    · intro k kind hk hkind v
      exact ⟨exec_ctxopInvalidate hi idle hk hkind,
        fun none => ⟨_, exec_ctxopInvalidate hi idle hk hkind, invalidate23_host none kind⟩⟩
    · intro hx live
      refine ⟨fun u t => exec_ctxopReloadScope hi idle hx live, fun u t => exec_ctxopReloadQueues hi idle hx live,
        exec_ctxopReloadStream hi idle hx live, ?_, ?_⟩
      · obtain ⟨⟨y, hy, killing⟩, left⟩ := killCtx_spec hx
        exact ⟨_, y, exec_ctxopKill hi idle hx live, hy, killing, left⟩
      · intro va
        have ring := exec_ctxopSetTransportRing hi idle hx live
        have isAt : vaAt va 64 = true ↔ va < 2 ^ 56 ∧ va % 64 = 0 := by simp [vaAt, userVA]
        refine ⟨fun user aligned => ?_, fun bad => ?_⟩
        · exact ring.trans (congrArg Host.Outcome.next (if_pos (isAt.2 ⟨user, aligned⟩)))
        · exact ring.trans (congrArg Host.Outcome.next (if_neg fun h =>
            bad.elim (Nat.not_le.2 (isAt.1 h).1) fun unaligned => unaligned (isAt.1 h).2))
  case answers =>
    intro s cmd g t k tr c x hi idle hf hk htr hat hx gives ends
    exact ⟨exec_ctxopResume hi idle hf hk htr hat, exec_ctxopTerminate hi idle hf hk htr,
      exec_ctxopDeliver_no_handler hi idle hf hk htr hx, exec_ctxopDeliver hi idle hf hk htr hx⟩
  case kills =>
    intro s asid t0 x hx killing
    exact ⟨fun hi => exec_killComplete hi hx killing, killsDue_gone hx killing⟩
  case writes =>
    intro s off v hi
    refine ⟨?_, ?_, ?_, exec_hwslWrite hi, ?_, ?_, ?_⟩
    · rintro rfl
      exact ⟨_, exec_ntfbaseWrite hi, flushNotes_ntfbase ..⟩
    · rintro rfl
      exact ⟨_, exec_ntftailWrite hi, flushNotes_ntftail ..⟩
    · rintro rfl
      exact exec_pwrcapWrite hi
    · rintro rfl
      show execRegisterWrite s = _
      simp only [execRegisterWrite, hi, if_true]
    · rintro n hn rfl
      refine ⟨_, _, by
        show execRegisterWrite s = _
        simp only [execRegisterWrite, hi]
        rw [if_neg (by omega), if_pos (by omega)], ?_, rfl⟩
      rw [show (0x100000 + 16 * n - 0x100000) / 16 = n by omega]
      exact tget_tset_self ..
    · intro notAddr notPeer
      show execRegisterWrite s = _
      simp only [execRegisterWrite, hi]
      rw [if_neg notAddr, if_neg (by omega)]
  case reads =>
    intro s off v hi read
    rw [exec_registerRead hi, readRegister_eq read]
  case window =>
    intro s off hoff v pa
    have hw := windowAt_of_lt s hoff
    exact ⟨fun n => exec_hostWindowRead hw, fun bs => exec_hostWindowWrite hw, fun op wide a b => exec_hostWindowAtomic hw⟩
  case messages =>
    intro s n bs c
    refine ⟨?_, ?_, ?_, rfl, rfl, ?_, ?_⟩
    · intro hi
      show execConfigRequest s = _
      simp only [execConfigRequest, hi]
    · exact exec_mctpControlMessage
    · simp only [List.forall_mem_cons, List.not_mem_nil, false_implies, implies_true, and_true]
      exact ⟨rfl, rfl⟩
    · intro hi
      exact ⟨_, exec_faultReport hi, List.getLast?_concat⟩
    · intro hi
      have asked := exec_attestationRequest hi
      exact ⟨fun off => by rw [asked, if_pos (by rw [off]; rfl)],
        fun on => asked.trans (congrArg Host.Outcome.next (if_neg (mt Option.isNone_iff_eq_none.1 on)))⟩
  case boot =>
    intro s a b certificate hi
    refine ⟨fun ready => ?_, fun reset => ?_⟩
    · show execPowerGood s = _
      simp only [execPowerGood, hi, ready, if_true]
    · intro good up
      have bad {a : Option FlashImage} (h : ∀ g, a = some g → ¬ good g) (n : Nat) : s.trySlot n a certificate = none :=
        trySlot_bad (fun g hg ok => h g hg ((slotOk_iff _ g).1 ok)) n certificate
      refine ⟨fun g ha hg => ?_, fun g ha hb hg => ?_, fun ha hb => ?_⟩
      · subst ha
        refine ⟨s.bootFrom 0 g certificate, ?_, rfl, rfl, rfl, rfl, rfl⟩
        show execPowerGood s = _
        simp only [execPowerGood, hi, reset, Bool.false_eq_true, if_false, trySlot_good ((slotOk_iff _ g).2 hg)]
      · subst hb
        refine ⟨s.bootFrom 1 g certificate, ?_, rfl, rfl, rfl, rfl, rfl⟩
        show execPowerGood s = _
        simp only [execPowerGood, hi, reset, Bool.false_eq_true, if_false, bad ha, trySlot_good ((slotOk_iff _ g).2 hg)]
      · show execPowerGood s = _
        simp only [execPowerGood, hi, reset, Bool.false_eq_true, if_false, bad ha, bad hb]
  case units =>
    intro s id v hi notHost
    refine ⟨fun notUnit => ?_, fun q unit => ?_⟩
    · show execPcieCompletionFromHost s = _
      simp only [execPcieCompletionFromHost, hi, notHost, State.unitCompletion, notUnit]
    · show execPcieCompletionFromHost s = _
      simp only [execPcieCompletionFromHost, hi, notHost, State.unitCompletion, unit]
  case pieces =>
    intro s id v q hi hq u bytes
    have answered := exec_pcieCompletionFromHost hi hq
    refine ⟨fun dead => ?_, fun live fetch => ?_, fun op index live piece => ?_⟩
    · rw [answered, if_neg (ne_true_of_eq_false dead)]
    · rw [answered, if_pos live, fetch]
      rfl
    · rw [answered, if_pos live, piece]
      rfl

end Sys2Proof.Machine
end

section
/-! PROOFS. Scratchpad accesses (01 R29, 15 R330, R332): the bytes of registers, the lanes of an access performed in any order, what
a load's results wait as and what a store leaves. -/

namespace Sys2Proof.Machine

/-! ### The bytes of registers (R330) -/

/-- A loaded value of at most two bytes is extended to 32 bits, by its sign with SX. -/
theorem word_extended {w : Nat} (hw : w ≤ 32) (x : BitVec w) (sx : Bool) :
    word (if sx ∧ 2 ^ (w - 1) ≤ x.toNat then 2 ^ 32 + x.toNat - 2 ^ w else x.toNat) =
      if sx then x.signExtend 32 else x.setWidth 32 := by
  have small : 2 ^ w ≤ 2 ^ 32 := Nat.pow_le_pow_right (by decide) hw
  have below := x.isLt
  cases sx with
  | false => simp [word]
  | true =>
    refine BitVec.eq_of_toNat_eq ?_
    have ext := BitVec.toNat_signExtend x (v := 32)
    simp only [BitVec.msb_eq_decide, decide_eq_true_eq, BitVec.toNat_setWidth, Nat.mod_eq_of_lt (Nat.lt_of_lt_of_le below small)] at ext
    simp only [true_and, if_true, word, BitVec.toNat_ofNat, ext]
    split
    · rw [Nat.mod_eq_of_lt (by omega)]
      omega
    · rw [Nat.mod_eq_of_lt (by omega), Nat.add_zero]

theorem natLE_append (b b1 : Byte) : natLE [b, b1] = (b1 ++ b : BitVec 16).toNat := by
  have low := b.isLt
  rw [BitVec.toNat_append, ← Nat.shiftLeft_add_eq_or_of_lt low, Nat.shiftLeft_eq]
  simp only [natLE]
  omega

theorem loadRegs_byte (d : Nat) (sx : Bool) (b : Byte) :
    loadRegs d sx [b] = [(d, if sx then b.signExtend 32 else b.setWidth 32)] := by
  have value : natLE [b] = b.toNat := by simp [natLE]
  rw [← word_extended (by decide), ← value]
  rfl

theorem loadRegs_half (d : Nat) (sx : Bool) (b b1 : Byte) : loadRegs d sx [b, b1] =
    [(d, if sx then (b1 ++ b : BitVec 16).signExtend 32 else (b1 ++ b : BitVec 16).setWidth 32)] := by
  rw [← word_extended (by decide), ← natLE_append]
  rfl

theorem storeBytes_words (l : Lane) (b n : Nat) (hn : 0 < n) :
    storeBytes l b (4 * n) = (List.range n).flatMap fun i => bytesLE 4 (l.getV (b + i)).toNat := by
  unfold storeBytes
  split
  · obtain rfl : n = 1 := by omega
    simp
  · rw [Nat.mul_div_cancel_left n (by decide)]

theorem byte_of_word (v : Word) (lo : Nat) : BitVec.ofNat 8 (v.toNat / 2 ^ lo) = v.extractLsb' lo 8 := by
  refine BitVec.eq_of_toNat_eq ?_
  rw [BitVec.extractLsb'_toNat, Nat.shiftRight_eq_div_pow, BitVec.toNat_ofNat]

theorem storeBytes_byte (l : Lane) (b : Nat) : storeBytes l b 1 = [(l.getV b).extractLsb' 0 8] := by
  rw [← byte_of_word, Nat.pow_zero, Nat.div_one]
  rfl

theorem storeBytes_half (l : Lane) (b : Nat) :
    storeBytes l b 2 = [(l.getV b).extractLsb' 0 8, (l.getV b).extractLsb' 8 8] := by
  rw [← byte_of_word, ← byte_of_word, Nat.pow_zero, Nat.div_one]
  rfl

/-- The registers of a pair give the bytes of its 64 bits. -/
theorem storeBytes_setV2 (l : Lane) (b : Nat) (x : Dbl) : storeBytes (l.setV2 b x) b 8 = bytesLE 8 x.toNat := by
  have high : (x.extractLsb' 32 32).toNat = x.toNat / 2 ^ 32 % 2 ^ 32 := by
    rw [BitVec.extractLsb'_toNat, Nat.shiftRight_eq_div_pow]
  have low : (x.extractLsb' 0 32).toNat = x.toNat % 2 ^ 32 := by
    rw [BitVec.extractLsb'_toNat, Nat.shiftRight_zero]
  calc storeBytes (l.setV2 b x) b 8
      = bytesLE 4 (x.extractLsb' 0 32).toNat ++ bytesLE 4 (x.extractLsb' 32 32).toNat := by
        rw [storeBytes_words _ _ 2 (by decide)]
        simp [List.range_succ, Lane.setV2]
    _ = bytesLE 8 x.toNat := by
        rw [low, high, bytesLE_mod 4 32 _ (by decide), bytesLE_mod 4 32 _ (by decide)]
        exact (bytesLE_add 4 4 x.toNat).symm

@[simp] theorem length_storeBytes (l : Lane) (b sz : Nat) : (storeBytes l b (2 ^ sz)).length = 2 ^ sz := by
  unfold storeBytes
  split
  · exact length_bytesLE ..
  · next wide =>
    have wider : 2 < sz := by
      by_contra h
      exact wide (Nat.pow_le_pow_right (by decide) (Nat.not_lt.1 h) : 2 ^ sz ≤ 2 ^ 2)
    obtain ⟨k, rfl⟩ : ∃ k, sz = 2 + k := ⟨sz - 2, by omega⟩
    rw [Nat.pow_add, show 2 ^ 2 * 2 ^ k / 4 = 2 ^ k from Nat.mul_div_cancel_left _ (by decide)]
    simp [Nat.mul_comm]

/-! ### Lanes performed in any order (R85) -/

theorem mem_insertBy {α : Type} {key : α → Nat} {a b : α} {l : List α} : b ∈ insertBy key a l ↔ b = a ∨ b ∈ l := by
  induction l with
  | nil => simp [insertBy]
  | cons c l ih =>
    unfold insertBy
    split
    · simp
    · rw [List.mem_cons, ih, List.mem_cons]
      exact or_left_comm

theorem mem_sortBy {α : Type} {key : α → Nat} {b : α} {l : List α} : b ∈ sortBy key l ↔ b ∈ l := by
  induction l with
  | nil => rfl
  | cons a l ih => rw [sortBy, mem_insertBy, ih, List.mem_cons]

/-- Lanes performed where each does `g` to the state and gives `o`, from every state that `inv` holds of. -/
theorem perform_eq {s : State} {ls : List (Nat × List Piece)} {f : State → Nat → List Piece → State × LaneOut}
    (inv : State → Prop) (g : State → Nat → State) (o : Nat → LaneOut)
    (hf : ∀ u, inv u → ∀ e ∈ ls, f u e.1 e.2 = (g u e.1, o e.1)) (hg : ∀ u l, inv u → inv (g u l))
    (h : inv { s with free := s.free + 1 }) :
    ∃ order : List Nat, (∀ l, l ∈ order ↔ l ∈ ls.map Prod.fst) ∧
      s.perform ls f = (order.foldl g { s with free := s.free + 1 }, order.map fun l => (l, o l)) := by
  have run (L : List (Nat × List Piece)) (hL : ∀ e ∈ L, e ∈ ls) (u : State) (hu : inv u) (acc : List (Nat × LaneOut)) :
      L.foldl (fun e p => let r := f e.1 p.1 p.2; (r.1, e.2 ++ [(p.1, r.2)])) (u, acc) =
        ((L.map Prod.fst).foldl g u, acc ++ (L.map Prod.fst).map fun l => (l, o l)) := by
    induction L generalizing u acc with
    | nil => simp
    | cons p L ih =>
      simp only [List.foldl_cons, List.map_cons, hf u hu p (hL p (by simp))]
      rw [ih (fun e he => hL e (by simp [he])) (g u p.1) (hg u p.1 hu)]
      simp
  refine ⟨(sortBy (fun e => Config.laneRank s.free e.1) ls).map Prod.fst, fun l => ?_, ?_⟩
  · simp only [List.mem_map, mem_sortBy]
  · exact run _ (fun e he => mem_sortBy.1 he) _ h []

/-- The entries of a list of lanes with what each has. -/
theorem tget_graph {α : Type} (o : Nat → α) (ls : List Nat) (l : Nat) :
    tget (ls.map fun l => (l, o l)) l = if l ∈ ls then some (o l) else none := by
  induction ls with
  | nil => rfl
  | cons k ls ih =>
    simp only [List.map_cons, tget, ih, List.mem_cons]
    by_cases h : l = k <;> simp [h]

section
variable {s : State} {c : Cur}

/-- Lanes whose checks pass and leave the state. -/
theorem checkLanes_ok {ls : List Nat} {chk : State → Nat → State × Checked} {ps : Nat → List Piece}
    (h : ∀ l ∈ ls, chk s l = (s, .ok (ps l))) : s.checkLanes ls chk = (s, ls.map fun l => (l, .ok (ps l))) := by
  have run (acc : List (Nat × Checked)) :
      ls.foldl (fun e l => let r := chk e.1 l; (r.1, e.2 ++ [(l, r.2)])) (s, acc) =
        (s, acc ++ ls.map fun l => (l, .ok (ps l))) := by
    induction ls generalizing acc with
    | nil => simp
    | cons l ls ih =>
      simp only [List.foldl_cons, h l (by simp), List.map_cons]
      rw [ih fun l hl => h l (by simp [hl])]
      simp
  exact run []

theorem passed_ok (ls : List Nat) (ps : Nat → List Piece) : passed (ls.map fun l => (l, .ok (ps l))) = ls.map fun l => (l, ps l) := by
  simp [passed, List.filterMap_map]

theorem failed_ok (ls : List Nat) (ps : Nat → List Piece) : failed (ls.map fun l => (l, .ok (ps l))) = [] := by
  simp [failed]

/-- The lanes of a restartable access that are still to be performed (R25, R349). -/
def Restart.todo (k : Restart) (s : State) (c : Cur) (done : LaneSet) : List Nat :=
  (c.act s.guard).filter fun l => ¬ done.getLsbD l ∧ ¬ (k.suppress ∧ c.t.helper l)

/-- A restartable access that releases nothing, in a step that performs every lane, where every lane passes checks that leave the
state, would consume no poison and waits for no host (R349). -/
theorem restartable_now {k : Restart} {n : Nat} {done : LaneSet} {ps : Nat → List Piece} (hd : c.doneMask = some (n, done))
    (whole : s.mode = .whole) (rel : k.rel = none) (checks : ∀ l ∈ k.todo s c done, k.check s l = (s, .ok (ps l)))
    (clean : ∀ l ∈ k.todo s c done, s.wouldPoison c.g.core k.how (ps l) = false)
    (device : ∀ l ∈ k.todo s c done, hostPieces (ps l) = false) :
    let p := s.perform ((k.todo s c done).map fun l => (l, ps l)) (k.run c)
    s.restartable c k = (((p.1.landOuts c.r c.p.clauseId p.2).acqFor c k.acq).freeDone c.r n).advance c.r := by
  intro p
  have spoilt : ((k.todo s c done).map fun l => (l, ps l)).filter (fun e => s.wouldPoison c.g.core k.how e.2) = [] := by
    simpa [List.filter_eq_nil_iff] using clean
  have fit : ((k.todo s c done).map fun l => (l, ps l)).filter (fun e => ¬ s.wouldPoison c.g.core k.how e.2) =
      (k.todo s c done).map fun l => (l, ps l) := by
    simpa [List.filter_eq_self] using clean
  have now : ((k.todo s c done).map fun l => (l, ps l)).all (s.mode.now k.how) = true := by
    simpa [whole, Mode.now] using fun l hl => .inr (device l hl)
  have noRelease : s.relFor c k.rel = s := by rw [rel]; rfl
  have checked := checkLanes_ok checks
  have todo : ((c.act s.guard).filter fun l => ¬ done.getLsbD l ∧ ¬ (k.suppress ∧ c.t.helper l)) = k.todo s c done := rfl
  unfold State.restartable
  rw [hd]
  dsimp only
  rw [noRelease, todo, checked]
  dsimp only
  rw [passed_ok, failed_ok, spoilt, fit]
  simp only [List.filter_nil, List.isEmpty_nil, not_true_eq_false, and_false, if_false, if_true, List.map_nil]
  rw [now, goLanes_now c k _ _ _ now, List.append_nil]
  rfl

/-- One lane of a scratchpad access that is performed while its team has nothing issued before. -/
theorem run_spad (k : Restart) (h : s.issues = []) (l va gid off n : Nat) :
    let r := s.doPiece c.g.asid c.g.core c.r c.p.clauseId k.how (k.arg l) 0 (.spad va gid off n)
    k.run c s l [.spad va gid off n] = (r.1, (k.arg l).out c.t.mregs (c.t.lane l) r.2) := by
  intro r
  unfold Restart.run
  dsimp only
  rw [State.catchUp_of_no_issues h, State.noteRing_spad, ite_self, State.runLane_one]

end

/-! ### What a load leaves (R262, R349) -/

/-- An acquire touches no group, so it may come before the writes that wait. -/
theorem acquire_landOuts (s : State) (core rank : Nat) (r : Ref) (clause : Nat) (outs : List (Nat × LaneOut)) :
    (s.landOuts r clause outs).acquire core rank = (s.acquire core rank).landOuts r clause outs := by
  have land (s : State) (w : Pending) :
      (s.land r.gid r.role clause w).acquire core rank = (s.acquire core rank).land r.gid r.role clause w := by
    unfold State.acquire
    split <;> rfl
  rw [landOuts_eq, landOuts_eq]
  induction pendings outs generalizing s with
  | nil => rfl
  | cons w ws ih => rw [List.foldl_cons, List.foldl_cons, ih, land]

/-- A path that holds the done mask no longer. -/
def Path.freed (n : Nat) (p : Path) : Path := { p with heldDone := if p.heldDone = some n then none else p.heldDone }

/-- A team without a done mask, which the path in a slot holds no longer (R349). -/
def Team.freed (n slot : Nat) (t : Team) : Team :=
  { t with done := tdel t.done n, paths := tmod t.paths slot (Path.freed n) }

theorem freeDone_eq (s : State) (r : Ref) (n : Nat) : s.freeDone r n = s.modTeam r.gid r.role (Team.freed n r.slot) :=
  State.modTeam_modTeam ..

theorem Path.after_freed (n : Nat) (p : Path) : (p.freed n).after = p.after.freed n := by
  cases h : p.clause with
  | none => simp only [Path.after, Path.freed, h]
  | some k =>
    simp only [Path.after, Path.freed, h]
    split <;> rfl

theorem Team.freed_path {t : Team} {n slot : Nat} {p : Path} (h : tget t.paths slot = some p) :
    tget (t.freed n slot).paths slot = some (p.freed n) := by
  simp [Team.freed, h]

/-- A mask may be freed before the path goes on. -/
theorem Team.advance_freed (t : Team) (n slot : Nat) : (t.freed n slot).advance slot = (t.advance slot).freed n slot := by
  cases h : tget t.paths slot with
  | none => simp [Team.advance, Team.path, Team.freed, tmod, h]
  | some p =>
    rw [Team.advance_eq h, Team.advance_eq (Team.freed_path h), Path.after_freed]
    cases hc : p.clause with
    | none => simp [Team.freed, Path.freed, hc]
    | some k => simp [Team.freed, Path.freed, hc, tmod, h, tset_tset]

theorem freeDone_advance (s : State) (r : Ref) (n : Nat) : (s.freeDone r n).advance r = (s.advance r).freeDone r n := by
  rw [freeDone_eq, freeDone_eq]
  unfold State.advance
  rw [State.modTeam_modTeam, State.modTeam_modTeam]
  exact congrArg _ (funext fun t => t.advance_freed n r.slot)

/-- What an instruction does to its team, and then its done mask freed. -/
theorem Effect.freeDone {s t : State} {c : Cur} {fl : Nat → Lane → Lane} {ft : Team → Team} {fp : Path → Path} (n : Nat)
    (h : Effect s c fl ft fp t) : Effect s c fl (fun u => { ft u with done := tdel (ft u).done n }) (fun p => (fp p).freed n)
      (t.freeDone c.r n) := by
  obtain ⟨rest, groups, d, at_, group, teams, regs, lanes, paths, path, outst⟩ := h
  have slot := (State.at_some.1 at_).2.2.2
  rw [freeDone_eq]
  refine ⟨rest, fun k hk => ?_, _, State.at_modTeam at_ _ (Team.freed_path slot), group, fun k hk => ?_, ?_, lanes, fun k hk => ?_, ?_,
    outst⟩
  · rw [← groups k hk]
    simp [tget_tmod, hk]
  · rw [← teams k hk]
    simp [Group.modTeam, tget_tmod, hk]
  · exact congrArg (fun u : Team => { u with done := tdel u.done n }) regs
  · rw [← paths k hk]
    simp [Team.freed, tget_tmod, hk]
  · rw [Path.after_freed, ← path]

theorem Waits.congr {c : Cur} {outs outs' : List (Nat × LaneOut)} {new : List Land} (h : ∀ l, tget outs l = tget outs' l)
    (hw : Waits c outs new) : Waits c outs' new := by
  obtain ⟨clause, after⟩ := hw
  refine ⟨clause, fun u hu => ?_⟩
  obtain ⟨same, lane⟩ := after u hu
  exact ⟨same, fun l => by simpa only [h] using lane l⟩

/-- A load's end: its results wait, its acquire is done, its done mask is free and its path goes on. The lanes may stand in any
order. -/
theorem load_effect {s : State} {c : Cur} (h : s.look = some c) (o : Nat → LaneOut) {order lanes : List Nat}
    (perm : ∀ l, l ∈ order ↔ l ∈ lanes) (acq : Option Nat) (n : Nat) : ∃ new, Waits c (lanes.map fun l => (l, o l)) new ∧
      Effect (s.acqFor c acq) c (fun _ r => r) (fun w => { w with landing := w.landing ++ new, done := tdel w.done n })
        (fun p => { p with heldDone := if p.heldDone = some n then none else p.heldDone })
        ((((s.landOuts c.r c.p.clauseId (order.map fun l => (l, o l))).acqFor c acq).freeDone c.r n).advance c.r) := by
  have look : (s.acqFor c acq).look = some c := by
    unfold State.acqFor
    split
    · exact h
    · unfold State.acquire
      split <;> exact h
  have first : (s.landOuts c.r c.p.clauseId (order.map fun l => (l, o l))).acqFor c acq =
      (s.acqFor c acq).landOuts c.r c.p.clauseId (order.map fun l => (l, o l)) := by
    cases acq with
    | none => rfl
    | some rank => exact acquire_landOuts ..
  obtain ⟨new, waits, effect⟩ := effect_landOuts look (order.map fun l => (l, o l)) fun e he => by
    obtain ⟨l, hl, rfl⟩ := List.mem_map.1 he
    rw [tget_graph, if_pos hl]
  refine ⟨new, waits.congr fun l => ?_, ?_⟩
  · rw [tget_graph, tget_graph]
    simp only [perm]
  · rw [first, freeDone_advance]
    exact effect.freeDone n

/-- The checks of n bytes at an aligned scratchpad offset inside the space (R24, R29). -/
theorem checkL_ok {s : State} {c : Cur} {off n : Nat} {w : Nat × Nat} (aligned : off % n = 0)
    (inside : s.spadWhere c.r.gid off n = .ok w) : s.checkL c off n = .ok [.spad off w.1 w.2 n] := by
  simp only [State.checkL, aligned, ne_eq, not_true_eq_false, if_false, inside]

/-- LD.l in a step that performs every lane, with nothing issued before (R330, R332). -/
theorem exec_ldL {s : State} {c : Cur} {o : OpG} {x : XMem} {k : Ctx} {n : Nat} {done : LaneSet} {place : Nat → Nat × Nat}
    (hk : tget s.ctxs c.g.asid = some k) (hd : c.doneMask = some (n, done)) (whole : s.mode = .whole) (none : s.issues = [])
    (hi : Issues s (.ldL o x) c) :
    let size := 2 ^ x.sz.toNat
    let off (l : Nat) : Nat := lOff c o x.ub x.off.toInt l
    let lanes := (c.act s.guard).filter fun l => ! done.getLsbD l
    (∀ l ∈ lanes, (off l % size = 0 ∧ s.spadWhere c.r.gid (off l) size = .ok (place l)) ∧
      s.spadPoisoned (place l).1 (place l).2 size = false) →
    let u : State := if ordAcq x.ord then s.acquire c.g.core (scopeRank k c.g.core x.scope.toNat) else s
    ∃ t new, exec (.ldL o x) s = .next t ∧
      Waits c (lanes.map fun l =>
        (l, LaneOut.regs (loadRegs o.d.toNat (x.sx = 1) (s.spadBytes (place l).1 (place l).2 size)))) new ∧
      Effect { u with free := u.free + 1 } c (fun _ r => r)
        (fun w => { w with landing := w.landing ++ new, done := tdel w.done n })
        (fun p => { p with heldDone := if p.heldDone = some n then .none else p.heldDone }) t := by
  intro size off lanes fits u
  let access : Restart := c.load o x k (c.plain x k) 1 fun s l => (s, s.checkL c (lOff c o x.ub x.off.toInt l) (szBytes x.sz))
  let ps (l : Nat) : List Piece := [.spad (off l) (place l).1 (place l).2 size]
  let out (l : Nat) : LaneOut := LaneOut.regs (loadRegs o.d.toNat (x.sx = 1) (s.spadBytes (place l).1 (place l).2 size))
  have todo : access.todo s c done = lanes := by
    refine List.filter_congr fun l _ => ?_
    simp [access, Cur.load]
  have ran : exec (.ldL o x) s = .next (s.restartable c access) := by
    refine (issue_of hi _).trans (congrArg Host.Outcome.next ?_)
    simp only [State.withCtx, hk]
    rfl
  have performed := restartable_now (k := access) (ps := ps) hd whole rfl
    (by
      rw [todo]
      intro l hl
      obtain ⟨⟨aligned, inside⟩, -⟩ := fits l hl
      exact congrArg (Prod.mk s) (checkL_ok aligned inside))
    (by
      rw [todo]
      intro l hl
      exact (Bool.or_false _).trans (fits l hl).2)
    (fun l _ => rfl)
  rw [todo] at performed
  let w : State := { s with free := s.free + 1 }
  obtain ⟨order, perm, eq⟩ := perform_eq (ls := lanes.map fun l => (l, ps l)) (f := access.run c) (fun v => v = w) (fun v _ => v) out
    (by
      rintro v rfl e he
      obtain ⟨l, -, rfl⟩ := List.mem_map.1 he
      exact run_spad access (s := w) none l (off l) (place l).1 (place l).2 size)
    (fun _ _ h => h) rfl
  have unmoved : order.foldl (fun v _ => v) w = w := List.foldl_fixed _
  rw [unmoved] at eq
  dsimp only at performed
  rw [eq] at performed
  obtain ⟨new, waits, effect⟩ := load_effect (s := w) hi.1 out (order := order) (lanes := lanes) (by simpa using perm) access.acq n
  refine ⟨_, new, ran.trans (congrArg _ performed), waits, ?_⟩
  have acquired : w.acqFor c access.acq = { u with free := u.free + 1 } := by
    by_cases acq : ordAcq x.ord = true
    · rw [show access.acq = some (scopeRank k c.g.core x.scope.toNat) from if_pos acq, show u = _ from if_pos acq]
      show w.acquire _ _ = _
      unfold State.acquire
      split <;> rfl
    · rw [show access.acq = .none from if_neg acq, show u = s from if_neg acq]
      rfl
  rw [← acquired]
  exact effect

/-! ### What a store leaves (R29, R332) -/

/-- Bytes put into a group's scratchpad: of its bytes those, and no other, change. -/
theorem spadPut_byte {s : State} {gid : Nat} {g : Group} (hg : tget s.groups gid = some g) (dst off : Nat) (bs : List Byte) :
    ∃ h, tget (s.spadPut dst off bs).groups gid = some h ∧ ∀ a,
      (memGet h.spad a = memGet g.spad a ∧ ¬ (dst = gid ∧ off ≤ a ∧ a < off + bs.length)) ∨
      ((dst = gid ∧ off ≤ a ∧ a < off + bs.length) ∧ some (memGet h.spad a) = bs[a - off]?) := by
  unfold State.spadPut State.modGroup
  by_cases same : dst = gid
  · subst same
    rw [tget_tmod_self, hg]
    refine ⟨_, rfl, fun a => ?_⟩
    dsimp only
    rw [memGet_memPut]
    by_cases inside : off ≤ a ∧ a - off < bs.length
    · rw [dif_pos inside]
      exact .inr ⟨⟨rfl, inside.1, by omega⟩, (List.getElem?_eq_getElem inside.2).symm⟩
    · rw [dif_neg inside]
      exact .inl ⟨rfl, fun h => inside ⟨h.2.1, by omega⟩⟩
  · refine ⟨g, ?_, fun a => .inl ⟨rfl, fun h => same h.1⟩⟩
    rw [tget_tmod, if_neg (Ne.symm same), hg]

section
variable {gidOf off : Nat → Nat} {bs : Nat → List Byte}

/-- Bytes put by some lanes one after the other: each byte that one of them puts is one of theirs, the others are as they were. -/
theorem foldl_spadPut_byte (order : List Nat) {s : State} {gid : Nat} {g : Group} (hg : tget s.groups gid = some g) :
    ∃ h, tget (order.foldl (fun u l => u.spadPut (gidOf l) (off l) (bs l)) s).groups gid = some h ∧ ∀ a,
      (memGet h.spad a = memGet g.spad a ∧ ∀ l ∈ order, ¬ (gidOf l = gid ∧ off l ≤ a ∧ a < off l + (bs l).length)) ∨
      ∃ l ∈ order, (gidOf l = gid ∧ off l ≤ a ∧ a < off l + (bs l).length) ∧ some (memGet h.spad a) = (bs l)[a - off l]? := by
  induction order generalizing s g with
  | nil => exact ⟨g, hg, fun a => .inl ⟨rfl, by simp⟩⟩
  | cons l order ih =>
    obtain ⟨g1, hg1, first⟩ := spadPut_byte hg (gidOf l) (off l) (bs l)
    obtain ⟨h, hh, rest⟩ := ih hg1
    refine ⟨h, hh, fun a => ?_⟩
    rcases rest a with ⟨kept, untouched⟩ | ⟨k, hk, at_, value⟩
    · rcases first a with ⟨same, out⟩ | ⟨at_, value⟩
      · exact .inl ⟨kept.trans same, List.forall_mem_cons.2 ⟨out, untouched⟩⟩
      · exact .inr ⟨l, by simp, at_, by rw [kept, value]⟩
    · exact .inr ⟨k, by simp [hk], at_, value⟩

end

theorem State.SameRegs.refl (s : State) : s.SameRegs s := fun _ c hc => ⟨c, hc, rfl⟩

theorem State.SameRegs.trans {s t u : State} (h : s.SameRegs t) (h' : t.SameRegs u) : s.SameRegs u := fun r c hc => by
  obtain ⟨d, hd, same⟩ := h r c hc
  obtain ⟨e, he, same'⟩ := h' r d hd
  exact ⟨e, he, same'.trans same⟩

/-- A change of a group that leaves its teams leaves the registers of every path. -/
theorem sameRegs_modGroup (s : State) (gid : Nat) {f : Group → Group} (hf : ∀ g, (f g).teams = g.teams) :
    s.SameRegs (s.modGroup gid f) := by
  intro r c hc
  obtain ⟨hr, hg, ht, hp⟩ := State.at_some.1 hc
  by_cases same : r.gid = gid
  · refine ⟨{ c with g := f c.g }, State.at_some.2 ⟨hr, ?_, ?_, hp⟩, rfl⟩
    · simp [State.modGroup, ← same, hg]
    · rw [hf, ht]
  · refine ⟨c, State.at_some.2 ⟨hr, ?_, ht, hp⟩, rfl⟩
    simp [State.modGroup, tget_tmod, same, hg]

theorem sameRegs_foldl_spadPut (gidOf off : Nat → Nat) (bs : Nat → List Byte) (order : List Nat) (s : State) :
    s.SameRegs (order.foldl (fun u l => u.spadPut (gidOf l) (off l) (bs l)) s) := by
  induction order generalizing s with
  | nil => exact .refl s
  | cons l order ih =>
    have put : s.SameRegs (s.spadPut (gidOf l) (off l) (bs l)) := sameRegs_modGroup s (gidOf l) fun _ => rfl
    exact put.trans (ih _)

theorem onlyGroups_foldl_spadPut (gidOf off : Nat → Nat) (bs : Nat → List Byte) (order : List Nat) (s : State) :
    s.OnlyGroups (order.foldl (fun u l => u.spadPut (gidOf l) (off l) (bs l)) s) :=
  foldl_same (f := fun u l => u.spadPut (gidOf l) (off l) (bs l)) (fun u => ({ u with groups := [], free := 0, fresh := 0 } : State))
    (fun _ _ => rfl) order s

/-- Two teams with the same registers, and with the same of each path. -/
structure Team.SameRegs (t u : Team) : Prop where
  lanes : u.lanes = t.lanes
  fpc : u.fpc = t.fpc
  fsr : u.fsr = t.fsr
  mxstat : u.mxstat = t.mxstat
  markers : u.markers = t.markers
  paths : ∀ slot p, tget t.paths slot = some p → ∃ q, tget u.paths slot = some q ∧ q.s = p.s ∧ q.futstat = p.futstat

/-- A change of a team that leaves its registers leaves those of every path. -/
theorem sameRegs_modTeam (s : State) (gid role : Nat) {f : Team → Team} (hf : ∀ t : Team, t.SameRegs (f t)) :
    s.SameRegs (s.modTeam gid role f) := by
  intro r c hc
  obtain ⟨hr, hg, ht, hp⟩ := State.at_some.1 hc
  by_cases group : r.gid = gid
  · by_cases team : r.role = role
    · subst group team
      obtain ⟨q, hq, file, futstat⟩ := (hf c.t).paths r.slot c.p hp
      refine ⟨_, State.at_modTeam hc f hq, ?_⟩
      obtain ⟨lanes, fpc, fsr, mxstat, markers, -⟩ := hf c.t
      simp only [Cur.regs, lanes, fpc, fsr, mxstat, markers, file, futstat]
    · refine ⟨{ c with g := c.g.modTeam role f }, State.at_some.2 ⟨hr, ?_, ?_, hp⟩, rfl⟩
      · simp [State.modTeam, State.modGroup, ← group, hg]
      · simp [Group.modTeam, tget_tmod, team, ht]
  · refine ⟨c, State.at_some.2 ⟨hr, ?_, ht, hp⟩, rfl⟩
    simp [State.modTeam, State.modGroup, tget_tmod, group, hg]

/-- A team in which one path has changed, its uniform file and FUTSTAT not. -/
theorem paths_after {t u : Team} {slot : Nat} {f : Path → Path} (hs : ∀ p, (f p).s = p.s) (hf : ∀ p, (f p).futstat = p.futstat)
    (self : ∀ p, tget t.paths slot = some p → tget u.paths slot = some (f p))
    (others : ∀ k, k ≠ slot → tget u.paths k = tget t.paths k) (k : Nat) (p : Path) (hp : tget t.paths k = some p) :
    ∃ q, tget u.paths k = some q ∧ q.s = p.s ∧ q.futstat = p.futstat := by
  by_cases same : k = slot
  · subst same
    exact ⟨f p, self p hp, hs p, hf p⟩
  · exact ⟨p, (others k same).trans hp, rfl, rfl⟩

theorem Team.sameRegs_freed (t : Team) (n slot : Nat) : t.SameRegs (t.freed n slot) :=
  { lanes := rfl, fpc := rfl, fsr := rfl, mxstat := rfl, markers := rfl
    paths := paths_after (f := Path.freed n) (fun _ => rfl) (fun _ => rfl) (fun _ => Team.freed_path)
      fun k hk => by simp [Team.freed, tget_tmod, hk] }

theorem Path.after_s (p : Path) : p.after.s = p.s := by
  unfold Path.after
  split
  · rfl
  · split <;> rfl

theorem Path.after_futstat (p : Path) : p.after.futstat = p.futstat := by
  unfold Path.after
  split
  · rfl
  · split <;> rfl

theorem Team.sameRegs_advance (t : Team) (slot : Nat) : t.SameRegs (t.advance slot) := by
  cases h : tget t.paths slot with
  | none =>
    have stays : t.advance slot = t := by simp [Team.advance, Team.path, h]
    rw [stays]
    exact ⟨rfl, rfl, rfl, rfl, rfl, fun _ p hp => ⟨p, hp, rfl, rfl⟩⟩
  | some p =>
    refine ⟨?_, ?_, ?_, ?_, ?_, paths_after Path.after_s Path.after_futstat (fun _ => Team.advance_path) fun _ => Team.advance_other⟩
    all_goals rw [Team.advance_eq h]

/-- A change of a team leaves every scratchpad. -/
theorem modTeam_spad {s : State} {k : Nat} {g : Group} (hg : tget s.groups k = some g) (gid role : Nat) (f : Team → Team) :
    ∃ h, tget (s.modTeam gid role f).groups k = some h ∧ h.spad = g.spad := by
  by_cases same : k = gid
  · exact ⟨g.modTeam role f, by simp [State.modTeam, State.modGroup, ← same, hg], rfl⟩
  · exact ⟨g, by simp [State.modTeam, State.modGroup, tget_tmod, same, hg], rfl⟩

/-- A done mask freed and the path going on: registers and scratchpads are as they were. -/
theorem freeDone_advance_leaves (s : State) (r : Ref) (n : Nat) :
    s.OnlyGroups ((s.freeDone r n).advance r) ∧ s.SameRegs ((s.freeDone r n).advance r) ∧
    ∀ k g, tget s.groups k = some g → ∃ h, tget ((s.freeDone r n).advance r).groups k = some h ∧ h.spad = g.spad := by
  rw [freeDone_eq]
  refine ⟨rfl, (sameRegs_modTeam s _ _ fun t => t.sameRegs_freed n r.slot).trans (sameRegs_modTeam _ _ _ fun t =>
    t.sameRegs_advance r.slot), fun k g hg => ?_⟩
  obtain ⟨g1, hg1, same⟩ := modTeam_spad hg r.gid r.role (Team.freed n r.slot)
  obtain ⟨g2, hg2, same'⟩ := modTeam_spad hg1 r.gid r.role fun t => t.advance r.slot
  exact ⟨g2, hg2, same'.trans same⟩

theorem landOuts_nothing (s : State) (r : Ref) (clause : Nat) (ls : List Nat) :
    s.landOuts r clause (ls.map fun l => (l, LaneOut.regs [])) = s := by
  have writes : (ls.flatMap fun _ => ([] : List Nat)) = [] := List.flatMap_eq_nil_iff.2 fun _ _ => rfl
  simp [State.landOuts, LaneOut.regs, List.flatMap_map, writes]

/-- ST.l without a release, in a step that performs every lane, with nothing issued before (R330, R332). -/
theorem exec_stL {s : State} {c : Cur} {o : OpG} {x : XMem} {k : Ctx} {n : Nat} {done : LaneSet} {place : Nat → Nat × Nat}
    (hk : tget s.ctxs c.g.asid = some k) (hd : c.doneMask = some (n, done)) (whole : s.mode = .whole) (none : s.issues = [])
    (hi : Issues s (.stL o x) c) (noRel : ordRel x.ord = false) :
    let size := 2 ^ x.sz.toNat
    let off (l : Nat) : Nat := lOff c o x.ub x.off.toInt l
    let lanes := (c.act s.guard).filter fun l => ! done.getLsbD l && ! c.t.helper l
    (∀ l ∈ lanes, off l % size = 0 ∧ s.spadWhere c.r.gid (off l) size = .ok (place l)) →
    ∃ order : List Nat, (∀ l, l ∈ order ↔ l ∈ lanes) ∧ exec (.stL o x) s = .next (State.advance (State.freeDone (order.foldl
      (fun u l => u.spadPut (place l).1 (place l).2 (storeBytes (c.t.lane l) o.b.toNat size)) { s with free := s.free + 1 }) c.r n)
      c.r) := by
  intro size off lanes fits
  let access : Restart := c.store o x k false 1 fun s l => (s, s.checkL c (lOff c o x.ub x.off.toInt l) (szBytes x.sz))
  let ps (l : Nat) : List Piece := [.spad (off l) (place l).1 (place l).2 size]
  let put (u : State) (l : Nat) : State := u.spadPut (place l).1 (place l).2 (storeBytes (c.t.lane l) o.b.toNat size)
  have todo : access.todo s c done = lanes := by
    refine List.filter_congr fun l _ => ?_
    simp [access, Cur.store]
  have ran : exec (.stL o x) s = .next (s.restartable c access) := by
    refine (issue_of hi _).trans (congrArg Host.Outcome.next ?_)
    simp only [State.withCtx, hk]
    rfl
  have noRelease : access.rel = .none := if_neg (ne_true_of_eq_false noRel)
  have performed := restartable_now (k := access) (ps := ps) hd whole noRelease
    (by
      rw [todo]
      intro l hl
      obtain ⟨aligned, inside⟩ := fits l hl
      exact congrArg (Prod.mk s) (checkL_ok aligned inside))
    (fun _ _ => rfl) (fun _ _ => rfl)
  rw [todo] at performed
  obtain ⟨order, perm, eq⟩ := perform_eq (ls := lanes.map fun l => (l, ps l)) (f := access.run c) (fun u => u.issues = []) put
    (fun _ => LaneOut.regs [])
    (by
      intro u hu e he
      obtain ⟨l, -, rfl⟩ := List.mem_map.1 he
      refine (run_spad access hu l (off l) (place l).1 (place l).2 size).trans ?_
      have whole : (((storeBytes (c.t.lane l) o.b.toNat size).drop 0).take size).take size =
          storeBytes (c.t.lane l) o.b.toNat size := by
        have len : (storeBytes (c.t.lane l) o.b.toNat size).length = size := length_storeBytes ..
        rw [List.drop_zero, List.take_take, Nat.min_self, List.take_of_length_le (Nat.le_of_eq len)]
      exact congrArg (fun b => (u.spadPut (place l).1 (place l).2 b, LaneOut.regs [])) whole)
    (fun _ _ h => h) none
  dsimp only at performed
  rw [eq] at performed
  refine ⟨order, by simpa using perm, ran.trans (congrArg _ (performed.trans ?_))⟩
  dsimp only
  rw [landOuts_nothing]
  rfl

/-- Settles O40: what each lane of a step of every lane does, and the order of the lanes, which a load does not see and a store's
bytes do. -/
theorem scratchpadAccess : Obligations.ScratchpadAccess := by
  unfold Obligations.ScratchpadAccess
  refine ⟨?accesses, ?loaded, ?halves, loadRegs_words, ?stored⟩
  case accesses =>
    intro s c o x k n done place hk hd whole none size off fits
    refine ⟨exec_ldL (place := place) hk hd whole none, fun hi noRel => ?_⟩
    intro lanes fit at_
    obtain ⟨order, perm, ran⟩ := exec_stL hk hd whole none hi noRel fit
    let bs (l : Nat) : List Byte := storeBytes (c.t.lane l) o.b.toNat size
    let w : State := { s with free := s.free + 1 }
    let u : State := order.foldl (fun u l => u.spadPut (place l).1 (place l).2 (bs l)) w
    have len (l : Nat) : (bs l).length = size := length_storeBytes ..
    have only : s.OnlyGroups u := onlyGroups_foldl_spadPut (fun l => (place l).1) (fun l => (place l).2) bs order w
    have regs : s.SameRegs u := sameRegs_foldl_spadPut (fun l => (place l).1) (fun l => (place l).2) bs order w
    obtain ⟨only', regs', spad⟩ := freeDone_advance_leaves u c.r n
    refine ⟨_, ran, only'.trans only, regs.trans regs', fun gid g hg => ?_⟩
    obtain ⟨g1, hg1, bytes⟩ := foldl_spadPut_byte (gidOf := fun l => (place l).1) (off := fun l => (place l).2) (bs := bs) order
      (s := w) hg
    obtain ⟨h, hh, same⟩ := spad gid g1 hg1
    refine ⟨h, hh, fun a => ?_⟩
    rw [same]
    simp only [len, perm] at bytes
    rcases bytes a with ⟨kept, untouched⟩ | ⟨l, hl, touched, value⟩
    · exact ⟨fun _ => kept, fun ⟨l, hl, touched⟩ => absurd touched (untouched l hl)⟩
    · exact ⟨fun untouched => absurd touched (untouched l hl), fun _ => ⟨l, hl, touched, value⟩⟩
  case loaded =>
    exact fun d b => ⟨loadRegs_byte d false b, loadRegs_byte d true b⟩
  case halves =>
    exact fun d b b1 => ⟨loadRegs_half d false b b1, loadRegs_half d true b b1⟩
  case stored =>
    exact fun l b => ⟨storeBytes_byte l b, storeBytes_half l b, fun n _ pos => storeBytes_words l b n pos, storeBytes_setV2 l b⟩

end Sys2Proof.Machine
end

section
/-! PROOFS. Fences, write-back of lines and prefetch (02 R54, 03 R82, 15 R341 to R344). -/

namespace Sys2Proof.Machine

/-- An instruction that needs the context of its path has its effect in every issue whose context is live. -/
theorem exec_issued {s : State} {c : Cur} {k : Ctx} {i : Instr} {f : Cur → Ctx → State}
    (he : exec i s = s.issue i fun c => s.withCtx c (f c)) (hi : Issues s i c) (hk : tget s.ctxs c.g.asid = some k) :
    exec i s = .next (f c k) := by
  rw [he, issue_of hi, State.withCtx, hk]

/-- The caches of read paths that PFENCE empties (R54): those of the cores in its scope, and the instruction cache of each cell with
such a core. -/
def State.clearPaths (s : State) (covers : Nat → Bool) (paths : BitVec 4) : State :=
  { s with
    cores := tmap s.cores fun n e => if covers n then e.clearPaths paths else e
    cells := tmap s.cells fun n e =>
      if paths.getLsbD 3 && (List.range 16).any (fun i => covers (16 * n + i)) then { e with instC := [] } else e }

section
variable (s : State) {covers : Nat → Bool} (paths : BitVec 4) {n : Nat}

/-- A core in the scope holds what it held but for the named paths' caches. -/
theorem State.clearPaths_core (h : covers n = true) : ((s.clearPaths covers paths).core n) = (s.core n).clearPaths paths := by
  unfold State.core State.clearPaths
  rw [tget_tmap]
  cases tget s.cores n with
  | some e => simp [h]
  | none => simp [Core.clearPaths, Core.empty]

theorem State.clearPaths_cell (hp : paths.getLsbD 3 = true) (h : covers n = true) :
    ((s.clearPaths covers paths).cell (n / 16)).instC = [] := by
  have hit : (List.range 16).any (fun i => covers (16 * (n / 16) + i)) = true := by
    refine List.any_eq_true.2 ⟨n % 16, List.mem_range.2 (Nat.mod_lt n (by decide)), ?_⟩
    rw [Nat.div_add_mod, h]
  unfold State.cell State.clearPaths
  rw [tget_tmap, hp, hit]
  cases tget s.cells (n / 16) <;> rfl

end

/-- Lanes whose addresses translate are acted on in turn; the others are dropped (R343, R344). -/
theorem State.eachLine_eq {s : State} {c : Cur} {k : Ctx} {o : OpG} {x : XMem} {ls : List Nat} {f : State → Nat → Attr → State}
    {g : State → Xlat → State} (h : ∀ v y, f v y.pa y.attr = g v y) :
    s.eachLine c k o x ls f = ls.foldl (fun u l => match u.translate c.g.core c.g.asid k (gAddr c o x.ub x.off.toInt l) .read with
      | (v, .error _) => v
      | (v, .ok y) => g v y) s := by
  unfold State.eachLine
  congr 1
  funext u l
  dsimp only
  rcases u.translate c.g.core c.g.asid k (gAddr c o x.ub x.off.toInt l) .read with ⟨v, e | y⟩
  · rfl
  · exact h v y

/-- Settles O45: each instruction by its meaning in an issue, PFENCE by the caches that it empties. -/
theorem fencesAndPrefetch : Obligations.FencesAndPrefetch := by
  unfold Obligations.FencesAndPrefetch
  intro s c k hk rank
  refine ⟨fun o x hi => exec_issued rfl hi hk, fun o x hi => ?_, fun o x hi => ?_, fun o x hi => ?_⟩
  case refine_1 =>
    let u := s.release c.g.core (rank x.scope)
    let cleared := u.clearPaths (fun n => scopeCovers k c.g.core x.scope.toNat n) x.paths
    refine ⟨cleared.advance c.r, exec_issued rfl hi hk, rfl, ?_, fun n hn => ?_⟩
    · have same : u.SameRegs cleared := State.SameRegs.refl u
      exact same.trans (sameRegs_modTeam cleared _ _ fun t => t.sameRegs_advance c.r.slot)
    · have core : (cleared.advance c.r).core n = (u.core n).clearPaths x.paths := u.clearPaths_core x.paths hn
      have cell (h : x.paths.getLsbD 3 = true) : ((cleared.advance c.r).cell (n / 16)).instC = [] := u.clearPaths_cell x.paths h hn
      rw [core]
      exact ⟨fun h => if_pos h, fun h => if_pos h, fun h => ⟨if_pos h, if_pos h⟩, fun h => ⟨if_pos h, cell h⟩⟩
  case refine_2 =>
    refine (exec_issued rfl hi hk).trans (congrArg (fun u => Host.Outcome.next (State.advance u c.r)) ?_)
    exact State.eachLine_eq fun _ _ => rfl
  case refine_3 =>
    refine (exec_issued rfl hi hk).trans (congrArg (fun u => Host.Outcome.next (State.advance u c.r)) ?_)
    exact State.eachLine_eq fun _ _ => rfl

end Sys2Proof.Machine
end

section
/-! PROOFS. What an access to memory may change at all (02 R42 to R63): memory, caches, the requests that it answers and the register
writes that it lets wait. Everything else of the machine is as it was. -/

namespace Sys2Proof.Machine

/-- A state without what accesses change of it: memory with its poison, the L2 and its messages, the caches of cores, cells and dies,
issued accesses and parked requests, what groups hold, the counters of free values and names, and what is asked of the host. -/
def State.bare (s : State) : State :=
  { s with
    mem := [], poison := [], l2 := [], rdcInv := [], rdcFill := [], issues := [], defer := [], ldfs := [], cores := [], cells := []
    dies := [], groups := [], free := 0, fresh := 0, out := [], wanted := [] }

/-- All that differs between two states is what accesses change, and of groups neither their cores nor the L1 ways that their
scratchpads hold. -/
structure State.OnlyMemory (s t : State) : Prop where
  rest : t.bare = s.bare
  ways : ∀ core, t.l1Ways core = s.l1Ways core

namespace State.OnlyMemory

variable {s t u : State}

/-- A change of other fields than the groups. -/
theorem of_same (h : t.bare = s.bare) (hg : t.groups = s.groups) : s.OnlyMemory t := ⟨h, fun _ => by simp only [State.l1Ways, hg]⟩

theorem refl (s : State) : s.OnlyMemory s := of_same rfl rfl

theorem trans (h : s.OnlyMemory t) (k : t.OnlyMemory u) : s.OnlyMemory u :=
  ⟨k.rest.trans h.rest, fun n => (k.ways n).trans (h.ways n)⟩

theorem ite {c : Prop} [Decidable c] (h : s.OnlyMemory t) (k : s.OnlyMemory u) : s.OnlyMemory (if c then t else u) := by
  split
  · exact h
  · exact k

/-- As `ite`, for a pair whose state is compared. -/
theorem ite_fst {β : Type} {p q : State × β} {c : Prop} [Decidable c] (h : s.OnlyMemory p.1) (k : s.OnlyMemory q.1) :
    s.OnlyMemory (if c then p else q).1 := by
  split
  · exact h
  · exact k

theorem foldl {α : Type} {f : State → α → State} (h : ∀ (u : State) a, u.OnlyMemory (f u a)) (l : List α) (s : State) :
    s.OnlyMemory (l.foldl f s) := by
  induction l generalizing s with
  | nil => exact refl s
  | cons a l ih => exact (h s a).trans (ih (f s a))

theorem foldl_fst {α β : Type} {f : State × β → α → State × β} (h : ∀ (p : State × β) a, p.1.OnlyMemory (f p a).1) (l : List α)
    (p : State × β) : p.1.OnlyMemory (l.foldl f p).1 := by
  induction l generalizing p with
  | nil => exact refl p.1
  | cons a l ih => exact (h p a).trans (ih (f p a))

/-- The platform with its counts of errors is no part of what accesses change. -/
theorem plat (h : s.OnlyMemory t) : t.plat = s.plat := by
  have same : t.bare.plat = s.bare.plat := by rw [h.rest]
  exact same

end State.OnlyMemory

/-- What a table held before a value was set is still in it, but for the value that the key had. -/
theorem mem_tset_of_mem {α : Type} {t : Tab α} (k : Nat) (a : α) {e : Nat × α} (h : e ∈ t) :
    e ∈ tset t k a ∨ ∃ b, tget t k = some b ∧ e = (k, b) := by
  induction t with
  | nil => cases h
  | cons d t ih => grind [tset, tget]

section
variable (s : State)

/-- A change of a group that leaves its core and its ways. -/
theorem State.only_modGroup (gid : Nat) {f : Group → Group} (hf : ∀ g, (f g).core = g.core ∧ (f g).ways = g.ways) :
    s.OnlyMemory (s.modGroup gid f) := by
  refine ⟨rfl, fun core => ?_⟩
  cases hg : tget s.groups gid with
  | none => simp only [State.l1Ways, State.modGroup_groups, tmod, hg]
  | some g =>
    obtain ⟨hcore, hways⟩ := hf g
    have set : (s.modGroup gid f).groups = tset s.groups gid (f g) := by simp only [State.modGroup_groups, tmod, hg]
    have same (w : Nat) : (∃ e ∈ tset s.groups gid (f g), e.2.core = core ∧ w ∈ e.2.ways) ↔
        ∃ e ∈ s.groups, e.2.core = core ∧ w ∈ e.2.ways := by
      constructor
      · rintro ⟨e, he, at_, hw⟩
        rcases mem_tset he with rfl | he
        · exact ⟨(gid, g), tget_mem hg, hcore ▸ at_, hways ▸ hw⟩
        · exact ⟨e, he, at_, hw⟩
      · rintro ⟨e, he, at_, hw⟩
        rcases mem_tset_of_mem gid (f g) he with he | ⟨b, hb, rfl⟩
        · exact ⟨e, he, at_, hw⟩
        · cases hg.symm.trans hb
          have entered : (gid, f g) ∈ tset s.groups gid (f g) := tget_mem (tget_tset_self ..)
          exact ⟨_, entered, hcore.trans at_, hways ▸ hw⟩
    unfold State.l1Ways
    simp only [set]
    refine List.filter_congr fun w _ => decide_eq_decide.2 (not_congr ?_)
    simpa [and_assoc] using same w

theorem State.only_modTeam (gid role : Nat) (f : Team → Team) : s.OnlyMemory (s.modTeam gid role f) :=
  s.only_modGroup gid fun _ => ⟨rfl, rfl⟩

theorem State.only_modPath (r : Ref) (f : Path → Path) : s.OnlyMemory (s.modPath r f) := s.only_modTeam ..

theorem State.only_modCore (n : Nat) (f : Core → Core) : s.OnlyMemory (s.modCore n f) := .of_same rfl rfl

theorem State.only_modCell (n : Nat) (f : CellUnit → CellUnit) : s.OnlyMemory (s.modCell n f) := .of_same rfl rfl

theorem State.only_modDir (line : Nat) (f : Dir → Dir) : s.OnlyMemory (s.modDir line f) := .of_same rfl rfl

end

end Sys2Proof.Machine
end

section
/-! PROOFS. What home slices do leaves the dirty bytes of every L1 in place (02 R42, R45, R59): lines that leave an L1 are clean. -/

namespace Sys2Proof.Machine

/-- Lines may have left a core's L1, and lines in it may have changed; but none that left was dirty, and each that stays has the dirty
bytes and the data that it had. -/
def Core.KeepsDirty (c d : Core) : Prop :=
  ∃ f : Line → Option Line, d.l1 = c.l1.filterMap f ∧
    ∀ k, (f k = none → k.dirty = 0) ∧ ∀ j, f k = some j → j.line = k.line ∧ j.dirty = k.dirty ∧ j.data = k.data

namespace Core.KeepsDirty

variable {c d e : Core}

theorem of_map (g : Line → Line) (h : d.l1 = c.l1.map g)
    (hg : ∀ k, (g k).line = k.line ∧ (g k).dirty = k.dirty ∧ (g k).data = k.data) : c.KeepsDirty d :=
  ⟨fun k => some (g k), h.trans (congrFun List.filterMap_eq_map' _).symm, fun k => ⟨nofun, fun _ hj => Option.some.inj hj ▸ hg k⟩⟩

theorem of_filter (p : Line → Bool) (h : d.l1 = c.l1.filter p) (hp : ∀ k, p k = false → k.dirty = 0) : c.KeepsDirty d := by
  refine ⟨Option.guard p, by rw [h, List.filterMap_eq_filter], fun k => ⟨fun hk => hp k ?_, fun j hj => ?_⟩⟩
  · simpa [Option.guard] using hk
  · obtain ⟨rfl, -⟩ := Option.guard_eq_some_iff.1 hj
    exact ⟨rfl, rfl, rfl⟩

theorem of_same (h : d.l1 = c.l1) : c.KeepsDirty d := of_map id (by rw [h, List.map_id]) fun _ => ⟨rfl, rfl, rfl⟩

theorem trans (h : c.KeepsDirty d) (h' : d.KeepsDirty e) : c.KeepsDirty e := by
  obtain ⟨f, hf, keeps⟩ := h
  obtain ⟨g, hg, keeps'⟩ := h'
  refine ⟨fun k => (f k).bind g, by rw [hg, hf, List.filterMap_filterMap], fun k => ?_⟩
  dsimp only
  cases hk : f k with
  | none => exact ⟨fun _ => (keeps k).1 hk, fun j hj => (by cases hj)⟩
  | some j =>
    rw [Option.bind_some]
    obtain ⟨line, dirty, data⟩ := (keeps k).2 j hk
    refine ⟨fun hj => dirty ▸ (keeps' j).1 hj, fun i hi => ?_⟩
    obtain ⟨line', dirty', data'⟩ := (keeps' j).2 i hi
    exact ⟨line'.trans line, dirty'.trans dirty, data'.trans data⟩

/-- A dirty line is found as before. -/
theorem find (h : c.KeepsDirty d) {line : Nat} {l : Line} (hl : c.l1.find? (fun l => l.line = line) = some l) (hd : l.dirty ≠ 0) :
    ∃ j, d.l1.find? (fun l => l.line = line) = some j ∧ j.dirty = l.dirty ∧ j.data = l.data := by
  obtain ⟨f, hf, keeps⟩ := h
  rw [hf]
  generalize c.l1 = ls at hl
  induction ls with
  | nil => cases hl
  | cons k ls ih =>
    by_cases at_ : k.line = line
    · have first : k = l := by simpa [List.find?_cons, at_] using hl
      subst first
      cases hk : f k with
      | none => exact absurd ((keeps k).1 hk) hd
      | some j =>
        obtain ⟨line', dirty, data⟩ := (keeps k).2 j hk
        exact ⟨j, by simp [hk, line', at_], dirty, data⟩
    · have later : ls.find? (fun l => l.line = line) = some l := by simpa [List.find?_cons, at_] using hl
      cases hk : f k with
      | none => simpa [hk] using ih later
      | some j =>
        have other : ¬ j.line = line := by rw [((keeps k).2 j hk).1]; exact at_
        simpa [hk, other] using ih later

/-- A line that is nowhere dirty is dirty nowhere after. -/
theorem clean (h : c.KeepsDirty d) {line : Nat} (hc : ∀ k ∈ c.l1, k.line = line → k.dirty = 0) :
    ∀ k ∈ d.l1, k.line = line → k.dirty = 0 := by
  obtain ⟨f, hf, keeps⟩ := h
  rw [hf]
  intro j hj at_
  obtain ⟨k, hk, hkj⟩ := List.mem_filterMap.1 hj
  obtain ⟨line', dirty, -⟩ := (keeps k).2 j hkj
  exact dirty.trans (hc k hk (line'.symm.trans at_))

end Core.KeepsDirty

/-- As `OnlyMemory`, for a step that leaves the dirty bytes of every L1. -/
structure State.KeepsDirty (s t : State) : Prop extends s.OnlyMemory t where
  l1 : ∀ n, (s.core n).KeepsDirty (t.core n)

namespace State.KeepsDirty

variable {s t u : State}

/-- A change of other fields than groups and cores. -/
theorem of_same (h : t.bare = s.bare) (hg : t.groups = s.groups) (hc : t.cores = s.cores) : s.KeepsDirty t :=
  ⟨.of_same h hg, fun n => .of_same (by simp only [State.core, hc])⟩

theorem refl (s : State) : s.KeepsDirty s := of_same rfl rfl rfl

theorem trans (h : s.KeepsDirty t) (k : t.KeepsDirty u) : s.KeepsDirty u :=
  ⟨h.toOnlyMemory.trans k.toOnlyMemory, fun n => (h.l1 n).trans (k.l1 n)⟩

theorem ite {c : Prop} [Decidable c] (h : s.KeepsDirty t) (k : s.KeepsDirty u) : s.KeepsDirty (if c then t else u) := by
  split
  · exact h
  · exact k

/-- As `ite`, for a pair whose state is compared. -/
theorem ite_fst {β : Type} {p q : State × β} {c : Prop} [Decidable c] (h : s.KeepsDirty p.1) (k : s.KeepsDirty q.1) :
    s.KeepsDirty (if c then p else q).1 := by
  split
  · exact h
  · exact k

theorem foldl {α : Type} {f : State → α → State} (h : ∀ (u : State) a, u.KeepsDirty (f u a)) (l : List α) (s : State) :
    s.KeepsDirty (l.foldl f s) := by
  induction l generalizing s with
  | nil => exact refl s
  | cons a l ih => exact (h s a).trans (ih (f s a))

theorem foldl_fst {α β : Type} {f : State × β → α → State × β} (h : ∀ (p : State × β) a, p.1.KeepsDirty (f p a).1) (l : List α)
    (p : State × β) : p.1.KeepsDirty (l.foldl f p).1 := by
  induction l generalizing p with
  | nil => exact refl p.1
  | cons a l ih => exact (h p a).trans (ih (f p a))

end State.KeepsDirty

section
variable (s : State)

theorem State.dirty_modCore (n : Nat) {f : Core → Core} (h : ∀ c : Core, c.KeepsDirty (f c)) : s.KeepsDirty (s.modCore n f) := by
  refine ⟨s.only_modCore n f, fun k => ?_⟩
  rw [State.core_modCore]
  split
  next e => rw [e]; exact h _
  next => exact .of_same rfl

theorem State.dirty_modTeam (gid role : Nat) (f : Team → Team) : s.KeepsDirty (s.modTeam gid role f) :=
  ⟨s.only_modTeam gid role f, fun _ => .of_same rfl⟩

theorem State.dirty_modPath (r : Ref) (f : Path → Path) : s.KeepsDirty (s.modPath r f) := s.dirty_modTeam ..

theorem State.dirty_land (gid role clause : Nat) (w : Pending) : s.KeepsDirty (s.land gid role clause w) :=
  have named : s.KeepsDirty { s with fresh := s.fresh + 1 } := .of_same rfl rfl rfl
  named.trans (State.dirty_modTeam _ gid role fun t => { t with landing := t.landing ++ [{ id := s.fresh, clause := clause, what := w }] })

theorem State.dirty_landV (r : Ref) (clause n : Nat) (vals : List (Nat × Word)) : s.KeepsDirty (s.landV r clause n vals) :=
  .foldl (fun u _ => u.dirty_land ..) _ s

theorem State.dirty_landP (r : Ref) (clause n : Nat) (vals : List (Nat × Bool)) : s.KeepsDirty (s.landP r clause n vals) :=
  .foldl (fun u _ => u.dirty_land ..) _ s

theorem State.dirty_landOuts (r : Ref) (clause : Nat) (outs : List (Nat × LaneOut)) : s.KeepsDirty (s.landOuts r clause outs) := by
  rw [landOuts_eq]
  exact .foldl (fun u _ => u.dirty_land ..) _ s

/-! ### Home slices -/

theorem State.dirty_modDie (n : Nat) (f : Die → Die) : s.KeepsDirty (s.modDie n f) := .of_same rfl rfl rfl

theorem State.dirty_modDir (line : Nat) (f : Dir → Dir) : s.KeepsDirty (s.modDir line f) := .of_same rfl rfl rfl

theorem State.dirty_seen (core line : Nat) : s.KeepsDirty (s.seen core line) := .of_same rfl rfl rfl

theorem State.dirty_dropRdc (die line : Nat) : s.KeepsDirty (s.dropRdc die line) := .of_same rfl rfl rfl

/-- A core's L1 after clean lines have left it and the bytes that are not dirty of others have become invalid. -/
theorem Core.KeepsDirty.of_purge {c d : Core} (p : Line → Bool) (q : Line → Prop) [DecidablePred q]
    (h : d.l1 = (c.l1.filter p).map fun l => if q l then l else { l with valid := 0 }) (hp : ∀ k, p k = false → k.dirty = 0) :
    c.KeepsDirty d := by
  have left : c.KeepsDirty { c with l1 := c.l1.filter p } := .of_filter p rfl hp
  refine left.trans (.of_map _ h fun k => ?_)
  split <;> exact ⟨rfl, rfl, rfl⟩

theorem State.dirty_acquire (core rank : Nat) : s.KeepsDirty (s.acquire core rank) := by
  have counted (l : List RdcInv) : s.KeepsDirty { s with rdcInv := l } := .of_same rfl rfl rfl
  unfold State.acquire
  refine .ite (.refl s) ((counted _).trans (State.dirty_modCore _ core fun c => ?_))
  refine .of_purge (fun l => l.dirty ≠ 0 || l.owned) (fun l => l.owned = true) rfl fun k hk => ?_
  simp only [Bool.or_eq_false_iff, decide_eq_false_iff_not, not_not] at hk
  exact hk.1

theorem State.dirty_seeHome (core line : Nat) : s.KeepsDirty (s.seeHome core line) := by
  have dropped (b : Bool) : s.KeepsDirty (if b then (s.seen core line).dropRdc (dieOf core) line else s.seen core line) :=
    .ite (.of_same rfl rfl rfl) (s.dirty_seen ..)
  unfold State.seeHome
  refine .ite ((dropped _).trans (State.dirty_modCore _ core fun c => ?_)) (dropped _)
  refine .of_purge (fun l => l.line ≠ line || l.dirty ≠ 0 || l.owned) (fun l => ¬ (l.line = line ∧ ¬ l.owned))
    (List.map_congr_left fun l _ => (ite_not ..).symm) fun k hk => ?_
  simp only [Bool.or_eq_false_iff, decide_eq_false_iff_not, not_not] at hk
  exact hk.1.2

theorem State.dirty_poisonMask (line : Nat) (mask : BitVec 128) : s.KeepsDirty (s.poisonMask line mask) := .ite (.refl s) (.of_same rfl rfl rfl)

theorem State.dirty_decideLdf (e : Defer) (value : Dbl) (ok : Bool) (code : BitVec 2) : s.KeepsDirty (s.decideLdf e value ok code) := by
  unfold State.decideLdf
  split
  · exact .refl s
  next l _ =>
    have saw : s.KeepsDirty (if ok then s.seeHome e.core (e.cell / 16) else s) := .ite (s.dirty_seeHome ..) (.refl s)
    have landed (v w p) : s.KeepsDirty ((((if ok then s.seeHome e.core (e.cell / 16) else s).landV e.path l.clause e.dst v).landV
        e.path l.clause (e.dst + 1) w).landP e.path l.clause e.status p) :=
      ((saw.trans (State.dirty_landV ..)).trans (State.dirty_landV ..)).trans (State.dirty_landP ..)
    have counted (t : State) (n : Tab Ldf) : t.KeepsDirty { t with ldfs := n } := .of_same rfl rfl rfl
    have left (v w p n) := (landed v w p).trans (counted _ n)
    dsimp only
    refine .ite (.trans ?_ (State.dirty_modTeam ..)) (left ..)
    split
    · exact .trans (.ite (left ..) ((left ..).trans (State.dirty_modPath ..))) (State.dirty_acquire ..)
    · exact .ite (left ..) ((left ..).trans (State.dirty_modPath ..))

theorem State.dirty_answerCell (cell : Nat) : s.KeepsDirty (s.answerCell cell) := by
  have taken (l : List Defer) : s.KeepsDirty { s with defer := l } := .of_same rfl rfl rfl
  unfold State.answerCell
  exact .ite (.refl s) ((taken _).trans (.foldl (fun u e => u.dirty_decideLdf e _ true 0) _ _))

theorem State.dirty_invalidate (line : Nat) (a : Agent) : s.KeepsDirty (s.invalidate line a) := by
  unfold State.invalidate
  split
  · exact .refl s
  · exact .of_same rfl rfl rfl

theorem State.dirty_writeLine (a : Agent) (line : Nat) (bs : List (Nat × Byte)) : s.KeepsDirty (s.writeLine a line bs) := by
  have told (t : State) (cells : List Nat) :
      t.KeepsDirty (if t.defer.isEmpty then t else cells.foldl (fun s c => s.answerCell c) t) :=
    .ite (.refl t) (.foldl (fun u c => u.dirty_answerCell c) _ t)
  have put (m : List Host.Cell) (p : List Nat) (d : Tab Dir) : s.KeepsDirty { s with mem := m, poison := p, l2 := d } := .of_same rfl rfl rfl
  have flown (t : State) (l : List RdcFill) : t.KeepsDirty { t with rdcFill := l } := .of_same rfl rfl rfl
  have invalidated (m p d) := (put m p d).trans (State.dirty_invalidate _ line a)
  unfold State.writeLine
  refine .ite (.refl s) ?_
  dsimp only
  refine .trans ?_ (told ..)
  split
  · exact invalidated ..
  · exact .ite (((invalidated ..).trans (flown ..)).trans (State.dirty_modDie ..)) ((invalidated ..).trans (flown ..))

theorem State.dirty_flushAmod (core line : Nat) : s.KeepsDirty (s.flushAmod core line) := by
  unfold State.flushAmod
  split
  · exact .refl s
  · refine ((s.dirty_modCore core fun c => ?_).trans (State.dirty_writeLine ..)).trans (State.dirty_poisonMask ..)
    refine .of_map _ rfl fun k => ?_
    split <;> exact ⟨rfl, rfl, rfl⟩

theorem State.dirty_predict (core line : Nat) (up : Bool) : s.KeepsDirty (s.predict core line up) :=
  s.dirty_modCore core fun _ => .of_same rfl

/-- A core that loses a line keeps the line's dirty bytes (R59). -/
theorem Core.keepsDirty_disown (c : Core) (line : Nat) : c.KeepsDirty (c.disown line) := by
  let lose (k : Line) : Line := if k.line = line then { k with owned := false, valid := 0 } else k
  have lost : c.KeepsDirty { c with l1 := c.l1.map lose } := by
    refine .of_map lose rfl fun k => ?_
    unfold lose
    split <;> exact ⟨rfl, rfl, rfl⟩
  refine lost.trans (.of_filter (fun k => k.line ≠ line || k.dirty ≠ 0) rfl fun k hk => ?_)
  simp only [Bool.or_eq_false_iff, decide_eq_false_iff_not, not_not] at hk
  exact hk.2

theorem State.dirty_recall (line : Nat) : s.KeepsDirty (s.recall line) := by
  unfold State.recall
  split
  · exact .refl s
  next c _ =>
    exact (((s.dirty_flushAmod c line).trans (State.dirty_predict ..)).trans (State.dirty_modDir _ line _)).trans
      (State.dirty_modCore _ c fun k => k.keepsDirty_disown line)

theorem State.dirty_l2Drop (line : Nat) : s.KeepsDirty (s.l2Drop line) := by
  unfold State.l2Drop
  exact ((s.dirty_recall line).trans (.foldl (fun u d => u.dirty_dropRdc d line) _ _)).trans (State.dirty_modDir ..)

theorem State.dirty_l2Use (line : Nat) (low : Bool) : s.KeepsDirty (s.l2Use line low) := by
  have next : s.KeepsDirty { s with free := s.free + 1 } := .of_same rfl rfl rfl
  unfold State.l2Use
  refine .ite (.refl s) (.trans ?_ (State.dirty_modDir ..))
  dsimp only
  refine .ite (.refl s) (.ite (.refl s) ?_)
  split
  · exact next
  · exact next.trans (State.dirty_l2Drop ..)

theorem State.dirty_homeWriteIn (a : Agent) (keep low : Bool) (pa : Nat) (bs : List Byte) :
    s.KeepsDirty (s.homeWriteIn a keep low pa bs) :=
  .trans (.ite ((s.dirty_recall _).trans (State.dirty_l2Use ..)) (s.dirty_recall _)) (State.dirty_writeLine ..)

theorem State.dirty_homePut (a : Agent) (keep low : Bool) (pa : Nat) (bs : List Byte) : s.KeepsDirty (s.homePut a keep low pa bs) :=
  .ite (.foldl (fun u (e : Nat × List Byte) => u.dirty_homeWriteIn a keep low e.1 e.2) _ s) (.ite (.of_same rfl rfl rfl) (.refl s))

theorem State.dirty_homeWriteMask (a : Agent) (line : Nat) (mask : BitVec 128) (data : BitVec 1024) (low : Bool) :
    s.KeepsDirty (s.homeWriteMask a line mask data low) :=
  ((s.dirty_recall line).trans (State.dirty_l2Use ..)).trans (State.dirty_writeLine ..)

theorem State.dirty_hostGet (pa n : Nat) : s.KeepsDirty (s.hostGet pa n).1 := by
  unfold State.hostGet
  split
  · exact .of_same rfl rfl rfl
  · exact .ite_fst (.refl s) (.of_same rfl rfl rfl)

theorem State.dirty_homeGet (keep low : Bool) (pa n : Nat) : s.KeepsDirty (s.homeGet keep low pa n).1 := by
  have used (u : State) (l : Nat) : u.KeepsDirty (let s := u.recall l; if keep then s.l2Use l low else s) :=
    .ite ((u.dirty_recall l).trans (State.dirty_l2Use ..)) (u.dirty_recall l)
  exact .ite_fst (.foldl used _ s) (.ite_fst (s.dirty_hostGet ..) (.of_same rfl rfl rfl))

theorem State.dirty_fillSectors (need : BitVec 4) (low : Bool) (l : CLine) : s.KeepsDirty (s.fillSectors need low l).1 :=
  .foldl_fst (fun (p : State × CLine) i => p.1.dirty_homeGet true low (128 * l.line + 32 * i) 32) _ (s, l)

theorem State.dirty_dieRead (core pa n : Nat) (alloc low : Bool) : s.KeepsDirty (s.dieRead core pa n alloc low).1 := by
  have spoilt (t : State) (l : List RdcFill) : t.KeepsDirty { t with rdcFill := l } := .of_same rfl rfl rfl
  have filled (t : State) (miss : BitVec 4) (l : CLine) (f : Die → Die) :
      t.KeepsDirty (((t.seen core (pa / 128)).fillSectors miss low l).1.modDie (dieOf core) f) :=
    ((t.dirty_seen ..).trans (State.dirty_fillSectors ..)).trans (State.dirty_modDie ..)
  unfold State.dieRead
  refine .ite_fst ((s.dirty_seen ..).trans (State.dirty_homeGet ..)) (.ite_fst ((s.dirty_seeHome ..).trans (State.dirty_homeGet ..)) ?_)
  dsimp only
  split
  · exact filled ..
  · exact (((s.dirty_recall _).trans (filled ..)).trans (State.dirty_modDir ..)).trans (spoilt ..)

end

end Sys2Proof.Machine
end

section
/-! PROOFS. Accesses of cores, and those issued before, change what `State.OnlyMemory` lists alone (02 R42 to R63, 03 R79). -/

namespace Sys2Proof.Machine

section
variable (s : State)

theorem State.only_land (gid role clause : Nat) (w : Pending) : s.OnlyMemory (s.land gid role clause w) :=
  (s.dirty_land ..).toOnlyMemory

theorem State.only_seen (core line : Nat) : s.OnlyMemory (s.seen core line) := (s.dirty_seen ..).toOnlyMemory

theorem State.only_seeHome (core line : Nat) : s.OnlyMemory (s.seeHome core line) := (s.dirty_seeHome ..).toOnlyMemory

theorem State.only_acquire (core rank : Nat) : s.OnlyMemory (s.acquire core rank) := (s.dirty_acquire ..).toOnlyMemory

theorem State.only_recall (line : Nat) : s.OnlyMemory (s.recall line) := (s.dirty_recall line).toOnlyMemory

theorem State.only_homeWriteIn (a : Agent) (keep low : Bool) (pa : Nat) (bs : List Byte) :
    s.OnlyMemory (s.homeWriteIn a keep low pa bs) := (s.dirty_homeWriteIn ..).toOnlyMemory

theorem State.only_homeGet (keep low : Bool) (pa n : Nat) : s.OnlyMemory (s.homeGet keep low pa n).1 :=
  (s.dirty_homeGet ..).toOnlyMemory

theorem State.only_dieRead (core pa n : Nat) (alloc low : Bool) : s.OnlyMemory (s.dieRead core pa n alloc low).1 :=
  (s.dirty_dieRead ..).toOnlyMemory

/-! ### The L1 and the caches of read paths -/

theorem State.only_writeBack (core line : Nat) : s.OnlyMemory (s.writeBack core line) := by
  unfold State.writeBack
  split
  · exact .refl s
  · exact .ite (.refl s) (((s.dirty_homeWriteMask ..).toOnlyMemory.trans (State.dirty_poisonMask ..).toOnlyMemory).trans (State.only_modCore ..))

theorem State.only_l1Evict (core line : Nat) : s.OnlyMemory (s.l1Evict core line) := by
  have back := s.only_writeBack core line
  unfold State.l1Evict
  exact .trans (.ite (back.trans (State.only_recall ..)) back) (State.only_modCore ..)

theorem State.only_l1Enter (core : Nat) (l : Line) : s.OnlyMemory (s.l1Enter core l) := by
  have picked (p : State × Option Nat) (hp : s.OnlyMemory p.1) (f : Nat → Core → Core) :
      s.OnlyMemory (match p.2 with
        | none => p.1
        | some w => p.1.modCore core (f w)) := by
    split
    · exact hp
    · exact hp.trans (State.only_modCore ..)
  unfold State.l1Enter
  refine picked _ ?_ fun w c => _
  split
  · exact .refl s
  · split
    · exact .refl s
    · split
      · exact .refl s
      · exact s.only_l1Evict ..

theorem State.only_l1Load (core pa n : Nat) (a : Attr) : s.OnlyMemory (s.l1Load core pa n a).1 := by
  unfold State.l1Load
  refine .ite_fst ((s.only_seeHome ..).trans (State.only_homeGet ..)) (.trans ?_ (State.only_l1Enter ..))
  refine .trans ?_ (.foldl_fst (fun p i => ?_) _ (_, _))
  · exact .ite (s.only_recall _) (.refl s)
  · exact p.1.only_dieRead ..

theorem State.only_l1LoadAcq (core pa n : Nat) (a : Attr) : s.OnlyMemory (s.l1LoadAcq core pa n a).1 := by
  unfold State.l1LoadAcq
  refine .ite_fst ((s.only_seeHome ..).trans (State.only_homeGet ..)) ?_
  dsimp only
  split
  · exact s.only_dieRead ..
  · exact s.only_dieRead ..

theorem State.only_storeOf (gid core pa : Nat) (bs : List Byte) (rank : Nat) (through : Bool) (a : Attr) :
    s.OnlyMemory (s.storeOf gid core pa bs rank through a) := by
  have passed : s.OnlyMemory (s.storeThrough core pa bs a) :=
    .trans (.ite (s.only_l1Evict ..) (s.only_modCore ..)) (State.dirty_homePut ..).toOnlyMemory
  have narrow : s.OnlyMemory (s.l1StoreNarrow core pa bs rank a) := .trans (.ite (s.dirty_flushAmod ..).toOnlyMemory (.refl s)) (State.only_l1Enter ..)
  have stored : s.OnlyMemory (s.store core pa bs rank through a) := .ite passed narrow
  exact .ite stored (stored.trans (State.only_modCore ..))

theorem State.only_pathRead (core : Nat) (k : PathKind) (asid pa n : Nat) (a : Attr) : s.OnlyMemory (s.pathRead core k asid pa n a).1 := by
  have sector (u : State) (i : Nat) (l : CLine) : u.OnlyMemory (u.pathSector core k asid i a l).1 := by
    unfold State.pathSector
    dsimp only
    split <;> dsimp only
    · exact u.only_modCell ..
    · exact .ite ((u.only_dieRead ..).trans (State.only_modCell ..)) (u.only_dieRead ..)
  unfold State.pathRead
  refine .ite_fst ((s.only_seen ..).trans (State.only_homeGet ..)) ?_
  dsimp only
  exact .trans (.foldl_fst (fun p i => sector p.1 i p.2) _ (_, _)) (State.only_modCore ..)

/-! ### Read-modify-writes -/

theorem State.only_rmwHome (core pa : Nat) (keep low : Bool) (q : AtomReq) : s.OnlyMemory (s.rmwHome core pa keep low q).s := by
  unfold State.rmwHome
  dsimp only
  exact ((s.only_recall _).trans (State.only_seeHome ..)).trans (State.only_homeWriteIn ..)

theorem State.only_grantLine (core line : Nat) (low : Bool) : s.OnlyMemory (s.grantLine core line low) := by
  unfold State.grantLine
  dsimp only
  have granted := ((((s.only_writeBack core line).trans (State.only_seeHome _ core line)).trans (State.dirty_l2Use _ line low).toOnlyMemory).trans
    (State.dirty_invalidate _ line (.core core)).toOnlyMemory).trans (State.dirty_dropRdc _ (dieOf core) line).toOnlyMemory
  exact ((granted.trans (State.only_l1Enter ..)).trans (State.only_modCore ..)).trans (State.only_modDir ..)

theorem State.only_rmwNear (core pa : Nat) (low : Bool) (q : AtomReq) : s.OnlyMemory (s.rmwNear core pa low q).s := by
  have near (t : State) : t.OnlyMemory (match t.l1Find core (pa / 128) with
      | some l => if l.holds (pa % 128) (atomBits q.ty / 8) then t.rmwOwned core pa l q else (t.writeBack core (pa / 128)).rmwHome core pa true low q
      | none => t.rmwHome core pa true low q : RmwOut).s := by
    split
    · split
      · exact State.only_l1Enter t core _
      · exact (t.only_writeBack ..).trans (State.only_rmwHome ..)
    · exact t.only_rmwHome ..
  unfold State.rmwNear
  dsimp only
  split
  · split
    · exact near s
    · have recalled := (s.only_writeBack core (pa / 128)).trans (State.only_recall _ (pa / 128))
      exact .trans (.trans (recalled.trans (State.only_modDir _ (pa / 128) _)) (State.only_modCore ..)) (State.only_rmwHome ..)
  · refine (s.only_grantLine core (pa / 128) low).trans ?_
    generalize s.grantLine core (pa / 128) low = t
    exact near t

theorem State.only_rmwGlobal (core pa : Nat) (a : Attr) (q : AtomReq) : s.OnlyMemory (s.rmwGlobal core pa a q).s := by
  have placed (b : Prop) [Decidable b] : s.OnlyMemory (if b then (s.writeBack core (pa / 128)).rmwHome core pa (¬ a.uncached) a.low q
      else s.rmwNear core pa a.low q).s := by
    split
    · exact (s.only_writeBack ..).trans (State.only_rmwHome ..)
    · exact s.only_rmwNear ..
  exact placed _

/-! ### Accesses issued before -/

theorem State.only_spadPut (gid off : Nat) (bs : List Byte) : s.OnlyMemory (s.spadPut gid off bs) := s.only_modGroup gid fun _ => ⟨rfl, rfl⟩

theorem State.only_rmwPiece (core : Nat) (r : Ref) (clause : Nat) (q : AtomReq) (p : Piece) :
    s.OnlyMemory (s.rmwPiece core r clause q p).1 := by
  have acknowledged (o : RmwOut) (ho : s.OnlyMemory o.s) (b b' : Prop) [Decidable b] [Decidable b'] (w w' : Pending) : s.OnlyMemory
      (let t := if b then o.s else o.s.land r.gid r.role clause w
       if b' then t else t.land r.gid r.role clause w') := by
    have first : s.OnlyMemory (if b then o.s else o.s.land r.gid r.role clause w) := .ite ho (ho.trans (State.only_land ..))
    exact .ite first (first.trans (State.only_land ..))
  cases p with
  | mem va pa n a => exact acknowledged _ (s.only_rmwGlobal ..) _ _ _ _
  | spad va gid off n => exact acknowledged (s.rmwSpad gid off q) (s.only_spadPut ..) _ _ _ _
  | pad | given => exact .refl s

theorem State.only_doPiece (asid core : Nat) (r : Ref) (clause : Nat) (h : How) (a : LaneArg) (off : Nat) (p : Piece) :
    s.OnlyMemory (s.doPiece asid core r clause h a off p).1 := by
  unfold State.doPiece
  split
  case h_1 path past =>
    match path, p with
    | none, .mem va pa n a => exact .ite_fst (s.only_l1LoadAcq ..) (s.only_l1Load ..)
    | some k, .mem va pa n a => exact s.only_pathRead ..
    | none, .spad .. | none, .pad _ | none, .given _ | some _, .spad .. | some _, .pad _ | some _, .given _ => exact .refl s
  case h_2 =>
    cases p with
    | mem va pa n a => exact s.only_storeOf ..
    | spad va at_ off n => exact s.only_spadPut ..
    | pad | given => exact .refl s
  case h_3 => exact s.only_rmwPiece ..
  case h_4 => exact .refl s

theorem State.only_latePiece (e : Issue) (l : LaneAcc) (off : Nat) (p : Piece) : s.OnlyMemory (s.latePiece e l off p).1 := by
  unfold State.latePiece
  split
  · exact .ite_fst (.refl s) (s.only_doPiece ..)
  · exact s.only_doPiece ..

theorem State.only_doPieces (e : Issue) (l : LaneAcc) (skip n off : Nat) (ps : List Piece) :
    s.OnlyMemory (s.doPieces e l skip n off ps).1 := by
  induction ps generalizing s skip n off with
  | nil => exact .refl s
  | cons p ps ih =>
    unfold State.doPieces
    refine .ite_fst (ih ..) (.ite_fst (.refl s) (.ite_fst ?_ (ih ..)))
    exact (s.only_latePiece ..).trans (ih ..)

theorem State.only_finishIssue (e : Issue) : s.OnlyMemory (s.finishIssue e) := by
  have freed (t : State) (r : Ref) (k : Nat) : t.OnlyMemory (t.freeDone r k) := (t.only_modTeam ..).trans (State.only_modPath ..)
  have ended (l : List Issue) : s.OnlyMemory { s with issues := l } := .of_same rfl rfl
  have marked (t : State) (bits : LaneSet) : t.OnlyMemory (match e.done with
      | none => t
      | some k => if e.ends then t.freeDone e.path k else t.markDone e.path k bits) := by
    split
    · exact .refl t
    · exact .ite (freed ..) (t.only_modTeam ..)
  have acquired (t : State) : t.OnlyMemory (match e.acq with
      | some rank => if e.ends then t.acquire e.core rank else t
      | none => t) := by
    split
    · exact .ite (t.only_acquire ..) (.refl t)
    · exact .refl t
  unfold State.finishIssue
  dsimp only
  split
  · exact ended _
  split
  · exact ended _
  exact ((((ended _).trans (State.dirty_landOuts ..).toOnlyMemory).trans (marked ..)).trans (acquired _)).trans (State.only_modTeam ..)

theorem State.only_settleLane (id lane : Nat) : s.OnlyMemory (s.settleLane id lane) := by
  unfold State.settleLane
  split
  · exact .refl s
  split
  · exact .refl s
  next e _ _ l _ =>
    have marked : s.OnlyMemory (match e.done with
        | some k => if l.over && ¬ e.how.reads then s.markDone e.path k (laneSet [lane]) else s
        | none => s) := by
      split
      · exact .ite (s.only_modTeam ..) (.refl s)
      · exact .refl s
    exact .ite (marked.trans (State.only_finishIssue ..)) marked

theorem State.only_doEvent (id lane i : Nat) : s.OnlyMemory (s.doEvent id lane i) := by
  have put (t : State) (f : Issue → Issue) : t.OnlyMemory (t.modIssue id f) := .of_same rfl rfl
  unfold State.doEvent
  split
  · exact .refl s
  split
  · exact .refl s
  · exact ((s.only_doPieces ..).trans (put ..)).trans (State.only_settleLane ..)

/-- Accesses issued before, when they are performed, change no more than accesses do. -/
theorem State.only_flush (sel : Issue → Bool) : s.OnlyMemory (s.flush sel) := by
  have done (u : State) (e : Issue) : u.OnlyMemory (u.doIssue e) :=
    .foldl (fun v (l : LaneAcc) => .foldl (fun w i => w.only_doEvent e.id l.lane i) _ v) _ u
  exact .ite (.refl s) (.foldl done _ s)

end

end Sys2Proof.Machine
end

section
/-! PROOFS. Home slices and lines that no core owns (02 R47, R58, R59): what recalls, allocations and writes to other lines leave of
such a line, and what a write by byte mask puts in memory. -/

namespace Sys2Proof.Machine

/-- A line that no core owns stays as it was: no core owns it then, and memory holds the bytes of it that it held. -/
structure State.Spares (s t : State) (line : Nat) : Prop where
  unowned : (s.dir line).owner = none → (t.dir line).owner = none
  mem : (s.dir line).owner = none → ∀ a, a / 128 = line → memGet t.mem a = memGet s.mem a

namespace State.Spares

variable {s t u : State} {line : Nat}

theorem refl (s : State) (line : Nat) : s.Spares s line := ⟨id, fun _ _ _ => rfl⟩

theorem trans (h : s.Spares t line) (k : t.Spares u line) : s.Spares u line :=
  ⟨fun hs => k.unowned (h.unowned hs), fun hs a ha => (k.mem (h.unowned hs) a ha).trans (h.mem hs a ha)⟩

theorem ite {c : Prop} [Decidable c] (h : s.Spares t line) (k : s.Spares u line) : s.Spares (if c then t else u) line := by
  split
  · exact h
  · exact k

theorem of_quiet (h : s.QuietKeeps t) (line : Nat) : s.Spares t line :=
  ⟨fun hs => (h.owner line).trans hs, fun _ a _ => by rw [h.mem]⟩

end State.Spares

section
variable (s : State)

theorem State.flushAmod_owner (core line k : Nat) : ((s.flushAmod core line).dir k).owner = (s.dir k).owner := by
  unfold State.flushAmod
  split
  · rfl
  · dsimp only
    rw [(State.quiet_poisonMask ..).owner, (State.quiet_writeLine ..).owner]
    rfl

/-- A recall ends the ownership of its line and of no other (R59). -/
theorem State.recall_owner (line k : Nat) : ((s.recall line).dir k).owner = if k = line then none else (s.dir k).owner := by
  unfold State.recall
  split
  next h =>
    split
    next e => rw [e, h]
    next => rfl
  next c _ =>
    dsimp only
    rw [((State.quiet_modCore ..).owner k), State.dir_modDir]
    split
    next => rfl
    next => exact ((State.quiet_predict ..).owner k).trans (s.flushAmod_owner c line k)

theorem State.recall_unowns (line : Nat) : ((s.recall line).dir line).owner = none := by
  rw [State.recall_owner, if_pos rfl]

/-- A recall of any line spares a line that no core owns. -/
theorem State.spares_recall (v line : Nat) : s.Spares (s.recall v) line := by
  refine ⟨fun h => by rw [State.recall_owner, h, ite_self], fun h a ha => ?_⟩
  by_cases e : line = v
  · rw [State.recall_unowned (e ▸ h)]
  · exact (s.recall_spec v).2 a (ha ▸ e)

theorem State.spares_l2Use (v line : Nat) (low : Bool) : s.Spares (s.l2Use v low) line := by
  rcases s.l2Use_cases v low with h | ⟨w, h⟩
  · exact .of_quiet h line
  · have free := State.Spares.of_quiet (s.quiet_free (s.free + 1)) line
    exact free.trans ((State.spares_recall _ w line).trans (.of_quiet h line))

/-- A write to another line spares a line. -/
theorem State.spares_writeLine (a : Agent) {v line : Nat} (h : line ≠ v) (bs : List (Nat × Byte)) (hb : ∀ e ∈ bs, e.1 < 128) :
    s.Spares (s.writeLine a v bs) line := by
  refine ⟨fun hs => ((s.quiet_writeLine a v bs).owner line).trans hs, fun _ b hl => ?_⟩
  rw [State.writeLine_mem]
  exact memGet_writes_other _ _ _ _ fun e he => by have := hb e he; omega

theorem mem_maskBytes {mask : BitVec 128} {data : BitVec 1024} {e : Nat × Byte} (h : e ∈ maskBytes mask data) : e.1 < 128 := by
  simp only [maskBytes, bitList, List.mem_map, List.mem_filter, List.mem_range] at h
  obtain ⟨i, ⟨hi, -⟩, rfl⟩ := h
  exact hi

/-- Bytes at listed offsets, each of its own value: written ones read back, the others are as they were. -/
theorem memGet_writes_map (is : List Nat) (g : Nat → Byte) (m : List Host.Cell) (k i : Nat) :
    memGet ((is.map fun i => (i, g i)).foldl (fun m e => memSet m (k + e.1) e.2) m) (k + i) =
      if i ∈ is then g i else memGet m (k + i) := by
  induction is generalizing m with
  | nil => rfl
  | cons j is ih =>
    rw [List.map_cons, List.foldl_cons, ih, memGet_memSet]
    by_cases later : i ∈ is
    · simp [later]
    · by_cases now : i = j
      · simp [now]
      · simp [later, now]

/-- What a write by byte mask leaves (R42): no core owns the line, and the bytes of the mask are in memory. -/
theorem State.homeWriteMask_spec (a : Agent) (line : Nat) (mask : BitVec 128) (data : BitVec 1024) (low : Bool) :
    let t := s.homeWriteMask a line mask data low
    (t.dir line).owner = none ∧ ∀ i, mask.getLsbD i = true → memGet t.mem (128 * line + i) = getByte data i := by
  dsimp only
  have used := (State.spares_l2Use (s.recall line) line line low).unowned (s.recall_unowns line)
  have written := State.quiet_writeLine ((s.recall line).l2Use line low) a line (maskBytes mask data)
  refine ⟨(written.owner line).trans used, fun i hi => ?_⟩
  have below : i < 128 := BitVec.lt_of_getLsbD hi
  have listed : i ∈ bitList mask 128 := by simp [bitList, hi, below]
  refine (congrArg (memGet · (128 * line + i)) written.mem).trans ?_
  exact (memGet_writes_map _ _ _ _ i).trans (if_pos listed)

theorem State.spares_homeWriteMask (a : Agent) {v line : Nat} (h : line ≠ v) (mask : BitVec 128) (data : BitVec 1024) (low : Bool) :
    s.Spares (s.homeWriteMask a v mask data low) line :=
  ((s.spares_recall v line).trans (State.spares_l2Use ..)).trans (State.spares_writeLine _ a h _ fun _ => mem_maskBytes)

/-- The write-back of another line spares a line. -/
theorem State.spares_writeBack (core : Nat) {v line : Nat} (h : line ≠ v) : s.Spares (s.writeBack core v) line := by
  unfold State.writeBack
  split
  · exact .refl s line
  · refine .ite (.refl s line) ?_
    exact ((s.spares_homeWriteMask _ h ..).trans (.of_quiet (State.quiet_poisonMask ..) line)).trans (.of_quiet (State.quiet_modCore ..) line)

theorem State.spares_l1Evict (core : Nat) {v line : Nat} (h : line ≠ v) : s.Spares (s.l1Evict core v) line := by
  have back := s.spares_writeBack core h
  unfold State.l1Evict
  exact .trans (.ite (back.trans (State.spares_recall ..)) back) (.of_quiet (State.quiet_modCore ..) line)

/-! ### Bytes written at a home slice -/

/-- The state in which a home slice writes bytes of a line: its owner is recalled and the L2 has allocated it where the page keeps it. -/
def State.readied (s : State) (line : Nat) (keep low : Bool) : State :=
  if keep then (s.recall line).l2Use line low else s.recall line

theorem State.homeWriteIn_mem (a : Agent) (keep low : Bool) (pa : Nat) (bs : List Byte) :
    (s.homeWriteIn a keep low pa bs).mem = memPut (s.readied (pa / 128) keep low).mem pa bs :=
  (State.writeLine_mem ..).trans (memPut_eq_writes ..)

theorem State.spares_readied (v line : Nat) (keep low : Bool) : s.Spares (s.readied v keep low) line :=
  .ite ((s.spares_recall v line).trans (State.spares_l2Use ..)) (s.spares_recall v line)

theorem State.readied_unowned (line : Nat) (keep low : Bool) : ((s.readied line keep low).dir line).owner = none := by
  unfold State.readied
  split
  · exact (State.spares_l2Use _ line line low).unowned (s.recall_unowns line)
  · exact s.recall_unowns line

/-- Bytes of one line written at its home are in memory (R47). -/
theorem State.homeWriteIn_bytes (a : Agent) (keep low : Bool) (pa : Nat) (bs : List Byte) :
    memBytes (s.homeWriteIn a keep low pa bs).mem pa bs.length = bs := by
  rw [State.homeWriteIn_mem]
  exact memBytes_memPut_self ..

/-- They end the ownership of the line. -/
theorem State.homeWriteIn_unowned (a : Agent) (keep low : Bool) (pa : Nat) (bs : List Byte) :
    ((s.homeWriteIn a keep low pa bs).dir (pa / 128)).owner = none :=
  ((State.quiet_writeLine ..).owner _).trans (s.readied_unowned (pa / 128) keep low)

/-- They spare every other line. -/
theorem State.spares_homeWriteIn (a : Agent) (keep low : Bool) {pa line : Nat} {bs : List Byte} (hp : pa % 128 + bs.length ≤ 128)
    (h : line ≠ pa / 128) : s.Spares (s.homeWriteIn a keep low pa bs) line := by
  refine (s.spares_readied (pa / 128) line keep low).trans (State.spares_writeLine _ a h _ fun e he => ?_)
  simp only [List.mem_map] at he
  obtain ⟨x, hx, rfl⟩ := he
  have := List.mem_range.1 (List.of_mem_zip hx).1
  dsimp only
  omega

/-- Of a line that no core owned they change no other byte. -/
theorem State.homeWriteIn_outside (a : Agent) (keep low : Bool) {pa : Nat} {bs : List Byte} (h : (s.dir (pa / 128)).owner = none)
    {b : Nat} (hl : b / 128 = pa / 128) (hb : b < pa ∨ pa + bs.length ≤ b) :
    memGet (s.homeWriteIn a keep low pa bs).mem b = memGet s.mem b := by
  rw [State.homeWriteIn_mem, memGet_memPut, dif_neg (by omega)]
  exact (s.spares_readied (pa / 128) (pa / 128) keep low).mem h b hl

/-- Bytes of one line are cut nowhere. -/
theorem cutLines_one {pa : Nat} {bs : List Byte} (hp : pa % 128 + bs.length ≤ 128) (hb : bs ≠ []) : cutLines pa bs = [(pa, bs)] := by
  have pos : bs.length ≠ 0 := by simpa using hb
  have lines : ((List.range bs.length).map fun i => (pa + i) / 128) = List.replicate bs.length (pa / 128) := by
    refine List.eq_replicate_iff.2 ⟨by simp, fun l hl => ?_⟩
    obtain ⟨i, hi, rfl⟩ := List.mem_map.1 hl
    rw [List.mem_range] at hi
    omega
  have start : max pa (128 * (pa / 128)) = pa := by omega
  unfold cutLines
  rw [lines, List.replicate_dedup pos]
  simp only [List.map_cons, List.map_nil, start, Nat.sub_self, List.drop_zero]
  rw [List.take_of_length_le (by omega)]

/-- A write of device memory within one line is a write at the home of that line. -/
theorem State.homePut_one (a : Agent) (keep low : Bool) {pa : Nat} {bs : List Byte} (hd : isDeviceMem pa = true)
    (hp : pa % 128 + bs.length ≤ 128) (hb : bs ≠ []) : s.homePut a keep low pa bs = s.homeWriteIn a keep low pa bs := by
  unfold State.homePut
  rw [if_pos hd, cutLines_one hp hb]
  rfl

end

end Sys2Proof.Machine
end

section
/-! PROOFS. The lines of an L1 (02 R39, R42): what is found after a line has been changed or entered, and the bytes that it holds. -/

namespace Sys2Proof.Machine

section
variable (s : State)

/-- A change of a line in place is what is found of it. -/
theorem State.l1Find_l1Mod (core v line : Nat) {f : Line → Line} (hf : ∀ k, (f k).line = k.line) :
    (s.l1Mod core v f).l1Find core line = (s.l1Find core line).map fun l => if line = v then f l else l := by
  have same (k : Line) : (if k.line = v then f k else k).line = k.line := by
    split
    · exact hf k
    · rfl
  have named : (fun l : Line => decide (l.line = line)) ∘ (fun k => if k.line = v then f k else k) = fun l => decide (l.line = line) := by
    funext k
    simp only [Function.comp, same]
  unfold State.l1Find State.l1Mod
  rw [State.core_modCore, if_pos rfl, List.find?_map, named]
  refine Option.map_congr fun k hk => ?_
  have at_ : k.line = line := by simpa using List.find?_some hk
  rw [at_]

theorem State.l1Find_line {core line : Nat} {l : Line} (h : s.l1Find core line = some l) : l.line = line := by
  simpa using List.find?_some h

/-- A line entered into an L1 that has a way for it is found there (R39, R417). -/
theorem State.l1Find_l1Enter {core : Nat} (h : s.l1Ways core ≠ []) (l : Line) :
    ∃ w, (s.l1Enter core l).l1Find core l.line = some { l with way := w } := by
  have entered (u : State) (w : Nat) : (u.modCore core fun c =>
      let rest := c.l1.filter fun k => k.line ≠ l.line
      { c with l1 := if l.low then rest ++ [{ l with way := w }] else { l with way := w } :: rest }).l1Find core l.line =
        some { l with way := w } := by
    have none_left : ((u.core core).l1.filter fun k => k.line ≠ l.line).find? (fun k => k.line = l.line) = none := by
      rw [List.find?_eq_none]
      intro k hk
      simpa using (List.mem_filter.1 hk).2
    unfold State.l1Find
    rw [State.core_modCore, if_pos rfl]
    dsimp only
    split
    · rw [List.find?_append, none_left]
      simp
    · simp
  unfold State.l1Enter
  cases old : s.l1Find core l.line with
  | some k => exact ⟨k.way, entered s k.way⟩
  | none =>
    simp only [Option.map_none]
    generalize hset : (s.core core).l1.filter (fun k => cacheSet 64 k.line = cacheSet 64 l.line && k.line ≠ l.line) = set
    cases free : (s.l1Ways core).find? fun w => ¬ set.any fun k => k.way = w with
    | some w => exact ⟨w, entered s w⟩
    | none =>
      cases last : set.getLast? with
      | some v => exact ⟨v.way, entered (s.l1Evict core v.line) v.way⟩
      | none =>
        obtain ⟨w, rest, ways⟩ := List.exists_cons_of_ne_nil h
        rw [List.getLast?_eq_none_iff.1 last, ways] at free
        simp at free

/-! ### The bytes of a line -/

theorem getLsbD_setByte (d : BitVec 1024) (i : Nat) (b : Byte) {k : Nat} (hk : k < 1024) :
    (setByte d i b).getLsbD k = if 8 * i ≤ k ∧ k < 8 * i + 8 then b.getLsbD (k - 8 * i) else d.getLsbD k := by
  have ones (j : Nat) : (255#1024).getLsbD j = (decide (j < 1024) && decide (j < 8)) := by
    rw [BitVec.getLsbD_ofNat, ← Nat.testBit_two_pow_sub_one 8 j]
  unfold setByte
  simp only [BitVec.getLsbD_or, BitVec.getLsbD_and, BitVec.getLsbD_not, BitVec.getLsbD_shiftLeft, BitVec.getLsbD_setWidth, ones, hk]
  split
  next h =>
    have low : ¬ k < 8 * i := by omega
    have in_ : k - 8 * i < 8 := by omega
    have wide : k - 8 * i < 1024 := by omega
    simp [low, in_, wide]
  next h =>
    by_cases low : k < 8 * i
    · simp [low]
    · have out : ¬ k - 8 * i < 8 := by omega
      have zero : b.getLsbD (k - 8 * i) = false := BitVec.getLsbD_of_ge _ _ (by omega)
      simp [out, zero]

theorem getLsbD_getByte (d : BitVec 1024) (i k : Nat) : (getByte d i).getLsbD k = (decide (k < 8) && d.getLsbD (8 * i + k)) :=
  BitVec.getLsbD_extractLsb' ..

/-- A byte set is read back, and the others are as they were. -/
theorem getByte_setByte (d : BitVec 1024) {i j : Nat} (b : Byte) (hj : j < 128) :
    getByte (setByte d i b) j = if j = i then b else getByte d j := by
  refine BitVec.eq_of_getLsbD_eq fun k hk => ?_
  rw [getLsbD_getByte, getLsbD_setByte d i b (by omega)]
  split
  next h =>
    have at_ : j = i := by omega
    have rest : 8 * j + k - 8 * i = k := by omega
    rw [if_pos at_, rest, decide_eq_true hk, Bool.true_and]
  next h =>
    have at_ : j ≠ i := by omega
    rw [if_neg at_, getLsbD_getByte]

theorem getByte_setBytes (d : BitVec 1024) (i : Nat) (bs : List Byte) {j : Nat} (hj : j < 128) :
    getByte (setBytes d i bs) j = if h : i ≤ j ∧ j - i < bs.length then bs[j - i] else getByte d j := by
  induction bs generalizing d i with
  | nil => simp [setBytes]
  | cons b bs ih =>
    rw [setBytes, ih, getByte_setByte d b hj]
    by_cases first : j = i
    · subst first
      simp
    · by_cases later : i + 1 ≤ j
      · have step : j - i = j - (i + 1) + 1 := by omega
        have above : i ≤ j := by omega
        simp [first, later, above, step]
      · have below : ¬ i ≤ j := by omega
        simp [first, later, below]

/-- Bytes set are read back (R42). -/
theorem getBytes_setBytes (d : BitVec 1024) (i : Nat) (bs : List Byte) (h : i + bs.length ≤ 128) :
    getBytes (setBytes d i bs) i bs.length = bs := by
  refine List.ext_getElem (by simp [getBytes]) fun j hj hj' => ?_
  simp only [getBytes, List.getElem_map, List.getElem_range]
  rw [getByte_setBytes d i bs (by omega), dif_pos ⟨by omega, by omega⟩]
  simp only [Nat.add_sub_cancel_left]

theorem getLsbD_maskBits {w i n k : Nat} : (maskBits w i n).getLsbD k = (decide (k < w) && decide (i ≤ k ∧ k < i + n)) := by
  unfold maskBits
  rw [BitVec.getLsbD_ofNat, Nat.testBit_mul_two_pow, Nat.testBit_two_pow_sub_one, ← Bool.decide_and]
  exact congrArg (decide (k < w) && ·) (decide_eq_decide.2 (by omega))

/-- Where every byte of an access is dirty, no sector is missing (R42). -/
theorem missingSectors_dirty {l : Line} {off n : Nat} (h : ∀ i < n, l.dirty.getLsbD (off + i) = true) : missingSectors l off n = 0 := by
  have from_ (is : List Nat) (m : BitVec 4) (hi : ∀ i ∈ is, i < n) : is.foldl (fun m i =>
      if l.valid.getLsbD ((off + i) / 32) || l.dirty.getLsbD (off + i) then m else m ||| (1#4 <<< ((off + i) / 32))) m = m := by
    induction is generalizing m with
    | nil => rfl
    | cons i is ih =>
      rw [List.foldl_cons, h i (hi i (by simp)), Bool.or_true, if_pos rfl]
      exact ih m fun j hj => hi j (by simp [hj])
  exact from_ _ 0 fun i => List.mem_range.1

/-- A line with the bytes of a narrow store, dirty under its rank (Table 2-1). -/
def Line.stored (l : Line) (off : Nat) (bs : List Byte) (rank : Nat) (low : Bool) : Line :=
  { l with
    data := setBytes l.data off bs, dirty := l.dirty ||| maskBits 128 off bs.length, group := rank = 1
    poison := l.poison &&& ~~~ maskBits 128 off bs.length, low := low }

theorem Line.stored_dirty (l : Line) {off : Nat} {bs : List Byte} (rank : Nat) (low : Bool) (h : off + bs.length ≤ 128) :
    ∀ i < bs.length, (l.stored off bs rank low).dirty.getLsbD (off + i) = true := by
  intro i hi
  simp only [Line.stored, BitVec.getLsbD_or, getLsbD_maskBits]
  rw [decide_eq_true (by omega), decide_eq_true (by omega), Bool.and_self, Bool.or_true]

/-- A narrow store enters its line with its bytes (Table 2-1). -/
theorem State.l1StoreNarrow_find {core pa : Nat} (bs : List Byte) (rank : Nat) (a : Attr) (h : s.l1Ways core ≠ []) :
    ∃ k l : Line, (s.l1StoreNarrow core pa bs rank a).l1Find core (pa / 128) = some k ∧
      k.data = (l.stored (pa % 128) bs rank a.low).data ∧ k.dirty = (l.stored (pa % 128) bs rank a.low).dirty := by
  have entered (u : State) (hu : u.l1Ways core ≠ []) : ∃ k l : Line,
      (u.l1Enter core (((u.l1Find core (pa / 128)).getD (Line.fresh (pa / 128))).stored (pa % 128) bs rank a.low)).l1Find core
        (pa / 128) = some k ∧
      k.data = (l.stored (pa % 128) bs rank a.low).data ∧ k.dirty = (l.stored (pa % 128) bs rank a.low).dirty := by
    have named : ((u.l1Find core (pa / 128)).getD (Line.fresh (pa / 128))).line = pa / 128 := by
      cases hl : u.l1Find core (pa / 128) with
      | none => rfl
      | some l => exact State.l1Find_line u hl
    generalize (u.l1Find core (pa / 128)).getD (Line.fresh (pa / 128)) = l at named
    obtain ⟨w, hw⟩ := u.l1Find_l1Enter hu (l.stored (pa % 128) bs rank a.low)
    have same : (l.stored (pa % 128) bs rank a.low).line = pa / 128 := named
    rw [same] at hw
    exact ⟨_, l, hw, rfl, rfl⟩
  have kept (b : Bool) : (if b then s.flushAmod core (pa / 128) else s).l1Ways core ≠ [] := by
    split
    · rw [(s.dirty_flushAmod core (pa / 128)).ways]
      exact h
    · exact h
  unfold State.l1StoreNarrow
  exact entered _ (kept _)

/-- A load of bytes that the L1 holds, with no sector missing, gives the bytes of its line (R42). -/
theorem State.l1Load_held {core pa n : Nat} {a : Attr} {l : Line} (hu : a.uncached = false)
    (hf : s.l1Find core (pa / 128) = some l) (hm : missingSectors l (pa % 128) n = 0) :
    (s.l1Load core pa n a).2 = getBytes l.data (pa % 128) n := by
  have low : missingSectors { l with low := a.low } (pa % 128) n = 0 := hm
  have none_ : bitList (0 : BitVec 4) 4 = [] := rfl
  unfold State.l1Load
  simp only [hu, hf, hm, low, none_, Option.getD_some, ne_eq, not_true_eq_false, false_and, if_false, List.foldl_nil, Bool.false_eq_true]

/-- A core reads its own narrow stores (R42, Table 2-1). -/
theorem State.l1Load_storeOf (gid : Nat) {core pa rank : Nat} {bs : List Byte} {a : Attr} (hu : a.uncached = false) (hr : rank < 2)
    (hp : pa % 128 + bs.length ≤ 128) (h : s.l1Ways core ≠ []) :
    ((s.storeOf gid core pa bs rank false a).l1Load core pa bs.length a).2 = bs := by
  have narrow : ¬ (a.uncached = true ∨ false = true ∨ 2 ≤ rank) := by simp [hu]; omega
  obtain ⟨k, l, hk, data, dirty⟩ := s.l1StoreNarrow_find (pa := pa) bs rank a h
  have stored : s.storeOf gid core pa bs rank false a = (s.l1StoreNarrow core pa bs rank a).l1Mod core (pa / 128)
      fun l => l.writtenBy gid (maskBits 128 (pa % 128) bs.length) := by
    unfold State.storeOf State.store
    simp only [if_neg narrow]
  have found := State.l1Find_l1Mod (s.l1StoreNarrow core pa bs rank a) core (pa / 128) (pa / 128)
    (f := fun l => l.writtenBy gid (maskBits 128 (pa % 128) bs.length)) fun _ => rfl
  rw [hk, ← stored] at found
  simp only [if_true, Option.map_some] at found
  have all (i : Nat) (hi : i < bs.length) : k.dirty.getLsbD (pa % 128 + i) = true := dirty ▸ l.stored_dirty rank a.low hp i hi
  rw [State.l1Load_held _ hu found (missingSectors_dirty all)]
  have data : k.data = setBytes l.data (pa % 128) bs := data
  exact data ▸ getBytes_setBytes l.data _ bs hp

/-! ### Write-back and release -/

/-- A core's L1 holds a line with a mask of dirty bytes. -/
def State.DirtyAt (core line : Nat) (mask : BitVec 128) (data : BitVec 1024) : Prop :=
  ∃ l, s.l1Find core line = some l ∧ l.dirty = mask ∧ l.data = data

/-- A byte of a line has gone home from a core: the core has no dirty byte of the line, no core owns it, and memory holds the byte. -/
structure State.HomeAt (core line i : Nat) (b : Byte) : Prop where
  clean : ∀ k ∈ (s.core core).l1, k.line = line → k.dirty = 0
  owner : (s.dir line).owner = none
  byte : memGet s.mem (128 * line + i) = b

variable {s} {core line : Nat} {mask : BitVec 128} {data : BitVec 1024}

/-- A write-back is nothing where the core has no dirty byte of the line; else the bytes go home by their mask, and the line is clean
in the L1 (R42, R46). -/
theorem State.writeBack_cases (s : State) (core v : Nat) : (∀ l, s.l1Find core v = some l → l.dirty = 0) ∧ s.writeBack core v = s ∨
    ∃ l, s.l1Find core v = some l ∧ l.dirty ≠ 0 ∧ s.writeBack core v =
      ((s.homeWriteMask (.core core) v l.dirty l.data l.low).poisonMask v (l.dirty &&& l.poison)).l1Mod core v
        fun k => { k with valid := coveredSectors k, dirty := 0 } := by
  unfold State.writeBack
  cases hl : s.l1Find core v with
  | none => exact .inl ⟨fun _ hk => (by cases hk), rfl⟩
  | some l =>
    by_cases hd : l.dirty = 0
    · exact .inl ⟨fun k hk => Option.some.inj hk ▸ hd, if_pos hd⟩
    · exact .inr ⟨l, rfl, hd, if_neg hd⟩

theorem State.dirty_homeWritten (s : State) (core v : Nat) (l : Line) : s.KeepsDirty
    ((s.homeWriteMask (.core core) v l.dirty l.data l.low).poisonMask v (l.dirty &&& l.poison)) :=
  (s.dirty_homeWriteMask ..).trans (State.dirty_poisonMask ..)

/-- The write-back of another line leaves a line dirty. -/
theorem State.DirtyAt.writeBack {v : Nat} (h : s.DirtyAt core line mask data) (hm : mask ≠ 0) (hv : line ≠ v) :
    (s.writeBack core v).DirtyAt core line mask data := by
  rcases s.writeBack_cases core v with ⟨clean, same⟩ | ⟨k, -, -, back⟩
  · rwa [same]
  · obtain ⟨l, hl, rfl, rfl⟩ := h
    obtain ⟨j, hj, dirty, held⟩ := ((s.dirty_homeWritten core v k).l1 core).find hl hm
    rw [back]
    refine ⟨j, ?_, dirty, held⟩
    have found := State.l1Find_l1Mod ((s.homeWriteMask (.core core) v k.dirty k.data k.low).poisonMask v (k.dirty &&& k.poison))
      core v line (f := fun k => { k with valid := coveredSectors k, dirty := 0 }) fun _ => rfl
    have found' := found.trans (congrArg (Option.map _) (show State.l1Find _ core line = some j from hj))
    simpa [hv] using found'

theorem State.l1Mod_clean (s : State) (core v line : Nat)
    (h : line = v ∨ ∀ k ∈ (s.core core).l1, k.line = line → k.dirty = 0) :
    ∀ k ∈ ((s.l1Mod core v fun k => { k with valid := coveredSectors k, dirty := 0 }).core core).l1, k.line = line → k.dirty = 0 := by
  intro k hk at_
  rw [State.l1Mod, State.core_modCore, if_pos rfl] at hk
  obtain ⟨j, hj, rfl⟩ := List.mem_map.1 hk
  split at at_
  next e => rw [if_pos e]
  next e =>
    rw [if_neg e]
    rcases h with rfl | h
    · exact absurd at_ e
    · exact h j hj at_

/-- What has gone home stays there while lines of the core are written back. -/
theorem State.HomeAt.writeBack {i : Nat} {b : Byte} (v : Nat) (hi : i < 128) (h : s.HomeAt core line i b) :
    (s.writeBack core v).HomeAt core line i b := by
  rcases s.writeBack_cases core v with ⟨clean, same⟩ | ⟨k, hk, dirty, back⟩
  · rwa [same]
  · have other : line ≠ v := by
      rintro rfl
      exact dirty (h.clean k (List.mem_of_find?_eq_some hk) (State.l1Find_line s hk))
    have spared := s.spares_writeBack core other
    refine ⟨?_, spared.unowned h.owner, (spared.mem h.owner _ (by omega)).trans h.byte⟩
    rw [back]
    exact State.l1Mod_clean _ core v line (.inr (((s.dirty_homeWritten core v k).l1 core).clean h.clean))

/-- The write-back of a line takes its dirty bytes home. -/
theorem State.DirtyAt.home {i : Nat} (h : s.DirtyAt core line mask data) (hi : mask.getLsbD i = true) :
    (s.writeBack core line).HomeAt core line i (getByte data i) := by
  obtain ⟨l, hl, rfl, rfl⟩ := h
  have dirty : l.dirty ≠ 0 := by
    rintro e
    simp [e] at hi
  rcases s.writeBack_cases core line with ⟨clean, same⟩ | ⟨k, hk, -, back⟩
  · exact absurd (clean l hl) dirty
  · cases hl.symm.trans hk
    obtain ⟨owner, bytes⟩ := s.homeWriteMask_spec (.core core) line l.dirty l.data l.low
    have poisoned := State.quiet_poisonMask (s.homeWriteMask (.core core) line l.dirty l.data l.low) line (l.dirty &&& l.poison)
    rw [back]
    refine ⟨State.l1Mod_clean _ core line line (.inl rfl), (poisoned.owner line).trans owner, ?_⟩
    exact (congrArg (memGet · (128 * line + i)) poisoned.mem).trans (bytes i hi)

/-- Bytes that a release covers go home and stay there (R44). -/
theorem State.DirtyAt.foldl_writeBack {i : Nat} (h : s.DirtyAt core line mask data) (hi : mask.getLsbD i = true) {ls : List Nat}
    (hl : line ∈ ls) : (ls.foldl (fun s v => s.writeBack core v) s).HomeAt core line i (getByte data i) := by
  have nonzero : mask ≠ 0 := by
    rintro rfl
    simp at hi
  have stays (ls : List Nat) (u : State) (hu : u.HomeAt core line i (getByte data i)) :
      (ls.foldl (fun s v => s.writeBack core v) u).HomeAt core line i (getByte data i) := by
    induction ls generalizing u with
    | nil => exact hu
    | cons v ls ih => exact ih _ (hu.writeBack v (BitVec.lt_of_getLsbD hi))
  induction ls generalizing s with
  | nil => cases hl
  | cons v ls ih =>
    by_cases e : line = v
    · subst e
      exact stays ls _ (h.home hi)
    · exact ih (h.writeBack nonzero e) (by simpa [e] using hl)

end

/-! ### Pending invalidations (R44, R48, R82) -/

section
variable (s : State)

theorem State.dropRdcs_mem (es : List RdcInv) : (es.foldl (fun s e => s.dropRdc e.die e.line) s).mem = s.mem :=
  foldl_same (f := fun s e => s.dropRdc e.die e.line) State.mem (fun _ _ => rfl) es s

/-- Delivered invalidations are gone, and no others. -/
theorem State.dropRdcs_rdcInv (es : List RdcInv) : (es.foldl (fun s e => s.dropRdc e.die e.line) s).rdcInv =
    s.rdcInv.filter fun e => ¬ ∃ d ∈ es, e.die = d.die ∧ e.line = d.line := by
  induction es generalizing s with
  | nil => simp
  | cons d es ih =>
    rw [List.foldl_cons, ih]
    have dropped : (s.dropRdc d.die d.line).rdcInv = s.rdcInv.filter fun e => ¬ (e.die = d.die ∧ e.line = d.line) := rfl
    rw [dropped, List.filter_filter]
    refine List.filter_congr fun e _ => ?_
    simp only [List.mem_cons, exists_eq_or_imp, not_or, ← Bool.decide_and]
    exact decide_eq_decide.2 and_comm

/-- No invalidation that a test selects is left pending after their delivery. -/
theorem State.deliverIf_rdcInv (sel : RdcInv → Bool) : ∀ e ∈ (s.deliverIf sel).rdcInv, e ∈ s.rdcInv ∧ sel e = false := by
  intro e he
  rw [State.deliverIf, State.dropRdcs_rdcInv, List.mem_filter] at he
  obtain ⟨held, other⟩ := he
  refine ⟨held, Bool.eq_false_iff.2 fun hs => ?_⟩
  exact of_decide_eq_true other ⟨e, List.mem_filter.2 ⟨held, hs⟩, rfl, rfl⟩

/-- A release puts in memory every byte that it covers (R44). -/
theorem State.release_byte {core rank line i : Nat} {l : Line} (hl : s.l1Find core line = some l) (hi : l.dirty.getLsbD i = true)
    (hr : 2 ≤ rank ∨ rank = 1 ∧ l.group = false) : memGet (s.release core rank).mem (128 * line + i) = getByte l.data i := by
  have dirty : l.dirty ≠ 0 := by
    intro e
    simp [e] at hi
  have covered : line ∈ ((s.core core).l1.filter fun l => l.dirty ≠ 0 && (if l.group then 1 < rank else 0 < rank)).map Line.line := by
    refine List.mem_map.2 ⟨l, List.mem_filter.2 ⟨List.mem_of_find?_eq_some hl, ?_⟩, State.l1Find_line s hl⟩
    rcases hr with hr | ⟨rfl, hg⟩
    · have group : 1 < rank := by omega
      have team : 0 < rank := by omega
      simpa [group, team] using dirty
    · simpa [hg] using dirty
  have home := State.DirtyAt.foldl_writeBack ⟨l, hl, rfl, rfl⟩ hi covered
  unfold State.release
  dsimp only
  split
  · rw [State.deliverIf, State.dropRdcs_mem]
    exact home.byte
  · exact home.byte

/-- At module rank or wider it leaves no invalidation pending that the core answers for (R44, R83). -/
theorem State.release_rdcInv (core : Nat) {rank : Nat} (hr : 4 ≤ rank) : ∀ e ∈ (s.release core rank).rdcInv, core ∉ e.cores := by
  intro e he
  unfold State.release at he
  dsimp only at he
  rw [if_pos hr] at he
  simpa using (State.deliverIf_rdcInv _ _ e he).2

/-- An acquire at cell rank or wider leaves no clean line but those under atomic ownership (R45, R59). -/
theorem State.acquire_l1 (core : Nat) {rank : Nat} (hr : 2 ≤ rank) :
    ∀ l ∈ ((s.acquire core rank).core core).l1, l.owned = true ∨ l.valid = 0 ∧ l.dirty ≠ 0 := by
  intro l hl
  rw [State.acquire, if_neg (by omega)] at hl
  dsimp only at hl
  rw [State.core_modCore, if_pos rfl] at hl
  obtain ⟨k, hk, rfl⟩ := List.mem_map.1 hl
  have stays := (List.mem_filter.1 hk).2
  by_cases ho : k.owned = true
  · exact .inl (by rw [if_pos ho]; exact ho)
  · refine .inr ?_
    rw [if_neg ho]
    exact ⟨rfl, by simpa [ho] using stays⟩

/-- A full fence at module rank or wider leaves no invalidation pending (R82). -/
theorem State.fullFence_rdcInv (core : Nat) {rank : Nat} (hr : 4 ≤ rank) : (s.fullFence core rank).rdcInv = [] := by
  have delivered (u : State) : u.deliverInv.rdcInv = [] :=
    List.eq_nil_iff_forall_not_mem.2 fun e he => by simpa using (State.deliverIf_rdcInv u _ e he).2
  unfold State.fullFence
  dsimp only
  rw [if_pos hr]
  unfold State.acquire
  split
  · exact delivered _
  · dsimp only
    rw [State.modCore_rdcInv, delivered]
    rfl

/-! ### Stores that pass the L1 -/

/-- The state in which a store that passes the L1 is written at the line's home: the line has left the L1 where the page is uncached,
else the L1 has taken the bytes and holds them clean (Table 2-1). -/
def State.passed (s : State) (core pa : Nat) (bs : List Byte) (a : Attr) : State :=
  if a.uncached then s.l1Evict core (pa / 128) else s.l1Mod core (pa / 128) fun l => { l with
    data := setBytes l.data (pa % 128) bs
    dirty := l.dirty &&& ~~~ maskBits 128 (pa % 128) bs.length
    poison := l.poison &&& ~~~ maskBits 128 (pa % 128) bs.length }

theorem State.storeOf_through (gid core : Nat) {pa rank : Nat} {bs : List Byte} {through : Bool} (a : Attr)
    (hd : isDeviceMem pa = true) (hp : pa % 128 + bs.length ≤ 128) (hb : bs ≠ []) (hr : through = true ∨ 2 ≤ rank) :
    s.storeOf gid core pa bs rank through a = (s.passed core pa bs a).homeWriteIn (.core core) (¬ a.uncached) a.low pa bs := by
  have passes : a.uncached = true ∨ through = true ∨ 2 ≤ rank := .inr hr
  unfold State.storeOf State.store
  simp only [if_pos passes]
  exact State.homePut_one _ _ _ _ hd hp hb

theorem State.spares_passed (core : Nat) {pa line : Nat} (bs : List Byte) (a : Attr) (h : line ≠ pa / 128) :
    s.Spares (s.passed core pa bs a) line :=
  .ite (s.spares_l1Evict core h) (.of_quiet (State.quiet_modCore ..) line)

theorem State.quiet_passed (core pa : Nat) (bs : List Byte) {a : Attr} (h : a.uncached = false) :
    s.QuietKeeps (s.passed core pa bs a) := by
  unfold State.passed
  rw [if_neg (by simp [h])]
  exact s.quiet_modCore ..

/-- A store that passes the L1, where no L1 owns a line: it writes no byte of another line, and on a page that is cached no other byte
at all (R42). -/
theorem State.storeOf_frame (gid core : Nat) {pa rank : Nat} {bs : List Byte} {through : Bool} (a : Attr)
    (hd : isDeviceMem pa = true) (hp : pa % 128 + bs.length ≤ 128) (hb : bs ≠ []) (hr : through = true ∨ 2 ≤ rank)
    (hs : s.Unowned) (b : Nat) (h : b / 128 ≠ pa / 128 ∨ a.uncached = false ∧ (b < pa ∨ pa + bs.length ≤ b)) :
    memGet (s.storeOf gid core pa bs rank through a).mem b = memGet s.mem b := by
  rw [s.storeOf_through gid core a hd hp hb hr]
  by_cases line : b / 128 = pa / 128
  · obtain ⟨cached, outside⟩ := h.resolve_left (not_not.2 line)
    have quiet := s.quiet_passed core pa bs cached
    rw [State.homeWriteIn_outside _ _ _ _ (quiet.unowned hs _) line outside, quiet.mem]
  · exact ((s.spares_passed core bs a line).trans (State.spares_homeWriteIn _ _ _ _ hp line)).mem (hs _) b rfl

end

/-- Settles O41, clause by clause. -/
theorem writeBackCache : Obligations.WriteBackCache := by
  unfold Obligations.WriteBackCache
  refine ⟨fun s gid core pa rank bs a hu hr hp hw => s.l1Load_storeOf gid hu hr hp hw, ?_,
    fun s core rank line l i hl hi hr => s.release_byte hl hi hr, fun s core rank hr => s.release_rdcInv core hr,
    fun s core rank hr => if_pos hr, fun s core rank hr => s.acquire_l1 core hr, fun s core rank hr => s.fullFence_rdcInv core hr⟩
  intro s gid core pa rank bs through a hp hb hd hr t
  refine ⟨?_, fun hs => ⟨fun b h => ?_, fun hu b h => ?_⟩⟩
  · have passed : t = (s.passed core pa bs a).homeWriteIn (.core core) (¬ a.uncached) a.low pa bs :=
      s.storeOf_through gid core a hd hp hb hr
    rw [passed]
    exact State.homeWriteIn_bytes ..
  · exact s.storeOf_frame gid core a hd hp hb hr hs b (.inl h)
  · exact s.storeOf_frame gid core a hd hp hb hr hs b (.inr ⟨hu, h⟩)

end Sys2Proof.Machine
end

section
/-! PROOFS. Copy units (05 R119, 16 R354 to R360): sectors that land, operations that complete, creel slots granted and drained (02 R66,
R67), and appends that find room. -/

namespace Sys2Proof.Machine

section
variable (s : State)

/-! ### Sectors and completion (R119, R354, R356) -/

theorem State.barStep_mem (gid off : Nat) (f : Bar → Bar) : (s.barStep gid off f).mem = s.mem := by
  unfold State.barStep
  dsimp only
  split
  · rfl
  · split <;> rfl

theorem State.barStep_ops (gid off : Nat) (f : Bar → Bar) : (s.barStep gid off f).ops = s.ops := by
  unfold State.barStep
  dsimp only
  split
  · rfl
  · split <;> rfl

theorem State.credit_mem (bar : Option (Nat × Nat)) (n : Nat) : (s.credit bar n).mem = s.mem := by
  unfold State.credit
  split
  · rfl
  · split
    · rfl
    · exact s.barStep_mem ..

theorem State.credit_ops (bar : Option (Nat × Nat)) (n : Nat) : (s.credit bar n).ops = s.ops := by
  unfold State.credit
  split
  · rfl
  · split
    · rfl
    · exact s.barStep_ops ..

theorem State.freeGang_ops (gang : Nat) : (s.freeGang gang).ops = s.ops := by
  unfold State.freeGang
  dsimp only
  split <;> rfl

theorem State.freeGang_mem (gang : Nat) : (s.freeGang gang).mem = s.mem := by
  unfold State.freeGang
  dsimp only
  split <;> rfl

/-- An operation that has ended is gone. -/
theorem State.endOp_gone (id : Nat) : tget (s.endOp id).ops id = none := by
  unfold State.endOp
  split
  next h => exact h
  next o _ =>
    have gone : tget (tdel s.ops id) id = none := by rw [tget_tdel, if_pos rfl]
    dsimp only
    split
    · exact gone
    · rw [State.freeGang_ops]
      exact gone

theorem State.endOp_mem (id : Nat) : (s.endOp id).mem = s.mem := by
  unfold State.endOp
  split
  · rfl
  · dsimp only
    split
    · rfl
    · rw [State.freeGang_mem]
      rfl

/-- How many landings a sector is credited for: one in scratchpad, none in global memory (R119). -/
def SecDst.landings : SecDst → Nat
  | .spad _ _ => 1
  | .mem _ _ _ => 0

/-- A sector copied: read, written, taken from the operation, and credited (R119). -/
theorem State.copySector_eq {id i : Nat} {o : AsyncOp} {sec : Sector} (ho : tget s.ops id = some o)
    (hs : o.sectors[i]? = some sec) :
    let r := s.sectorRead o.core sec.src
    let u := r.1.sectorWrite o.path.gid o.core (s.writeRank o) sec.dst r.2.1 r.2.2
    let v : State := { u with ops := tset u.ops id { o with
      sectors := o.sectors.eraseIdx i, credits := if o.rel then o.credits + sec.dst.landings else o.credits } }
    s.copySector id i = if o.rel then v else v.credit o.bar sec.dst.landings := by
  unfold State.copySector
  rw [ho]
  simp only [hs]
  rfl

/-- An operation that copies bytes it holds into scratchpads, without REL. -/
def AsyncOp.Local (o : AsyncOp) : Prop :=
  o.rel = false ∧ ∀ x ∈ o.sectors, (∃ gid off, x.dst = .spad gid off) ∧ ∃ bs b, x.src = .held bs b

/-- A sector of such an operation leaves memory as it was, and the operation as one of its kind. -/
theorem State.copySector_local {id : Nat} (h : ∀ o, tget s.ops id = some o → o.Local) (i : Nat) :
    (s.copySector id i).mem = s.mem ∧ ∀ o, tget (s.copySector id i).ops id = some o → o.Local := by
  cases ho : tget s.ops id with
  | none =>
    have same : s.copySector id i = s := by
      unfold State.copySector
      rw [ho]
    exact ⟨by rw [same], by rwa [same]⟩
  | some o =>
    obtain ⟨rel, held⟩ := h o ho
    cases hs : o.sectors[i]? with
    | none =>
      have same : s.copySector id i = s := by
        unfold State.copySector
        rw [ho]
        simp only [hs]
      exact ⟨by rw [same], by rwa [same]⟩
    | some sec =>
      obtain ⟨⟨gid, off, dst⟩, bs, b, src⟩ := held sec (List.mem_of_getElem? hs)
      have written (u : State) : (u.sectorWrite o.path.gid o.core (s.writeRank o) (.spad gid off) bs b).mem = u.mem := by
        unfold State.sectorWrite
        dsimp only
        split <;> rfl
      rw [s.copySector_eq ho hs]
      simp only [rel, src, dst, Bool.false_eq_true, if_false, State.credit_mem, State.credit_ops, State.sectorRead, tget_tset_self]
      refine ⟨written s, fun p hp => ?_⟩
      cases hp
      exact ⟨rfl, fun x hx => held x (List.mem_of_mem_eraseIdx hx)⟩

theorem State.copyAll_local {id : Nat} (h : ∀ o, tget s.ops id = some o → o.Local) :
    (s.copyAll id).mem = s.mem ∧ ∀ o, tget (s.copyAll id).ops id = some o → o.Local := by
  have each (is : List Nat) (u : State) (hu : ∀ o, tget u.ops id = some o → o.Local) :
      (is.foldl (fun s _ => s.copySector id 0) u).mem = u.mem ∧
        ∀ o, tget (is.foldl (fun s _ => s.copySector id 0) u).ops id = some o → o.Local := by
    induction is generalizing u with
    | nil => exact ⟨rfl, hu⟩
    | cons i is ih =>
      obtain ⟨mem, ops⟩ := u.copySector_local hu 0
      obtain ⟨mem', ops'⟩ := ih _ ops
      exact ⟨mem'.trans mem, ops'⟩
  unfold State.copyAll
  split
  · exact ⟨rfl, h⟩
  · exact each _ s h

section
variable {s} {id : Nat} {o : AsyncOp} (ho : tget s.ops id = some o) (hk : o.kind = .copy) (hw : s.opWaits o = false)
include ho hk hw

/-- A copy completes with all its sectors copied, its release and its signal (R354, Table 16-2). -/
theorem State.completeOp_copy {p : AsyncOp} (hp : tget (s.copyAll id).ops id = some p) : s.completeOp id =
    (((s.copyAll id).opRelease p).credit p.bar (if p.rel then p.credits else 0)).endOp id := by
  unfold State.completeOp
  rw [ho]
  simp only [hw, hk, hp, Bool.false_eq_true, if_false]

/-- A copy that is no more once its sectors are copied needs no more. -/
theorem State.completeOp_copied (hp : tget (s.copyAll id).ops id = none) : s.completeOp id = s.copyAll id := by
  unfold State.completeOp
  rw [ho]
  simp only [hw, hk, hp, Bool.false_eq_true, if_false]

theorem State.completeOp_copy_gone : tget (s.completeOp id).ops id = none := by
  cases hp : tget (s.copyAll id).ops id with
  | none => rwa [State.completeOp_copied ho hk hw hp]
  | some p =>
    rw [State.completeOp_copy ho hk hw hp]
    exact State.endOp_gone ..

/-- A copy within scratchpads leaves memory as it was. -/
theorem State.completeOp_copy_mem (hl : o.Local) : (s.completeOp id).mem = s.mem := by
  obtain ⟨mem, ops⟩ := s.copyAll_local fun p hp => Option.some.inj (ho.symm.trans hp) ▸ hl
  cases hp : tget (s.copyAll id).ops id with
  | none => rw [State.completeOp_copied ho hk hw hp, mem]
  | some p =>
    have free : (s.copyAll id).opRelease p = s.copyAll id := by
      unfold State.opRelease
      rw [(ops p hp).1]
      rfl
    rw [State.completeOp_copy ho hk hw hp, State.endOp_mem, State.credit_mem, free, mem]

end

/-! ### The creel (R66, R67, R358, R359) -/

/-- The creel slots that a gang holds in the cell of a core. -/
def State.creelHeld (core gang : Nat) : Nat := ((s.cell (cellOf core)).creel.filter fun t => t.2.gang = gang).length

/-- A CPYM that may be granted a slot of its cell's creel waits before an operation. -/
def State.CreelClaim (o : AsyncOp) (p : Nat × AsyncOp) : Prop :=
  cellOf p.2.core = cellOf o.core ∧ p.2.seq < o.seq ∧ (∃ va len src mask, p.2.kind = .cpym va len src mask none) ∧
    ∃ h, tget s.groups p.2.path.gid = some h ∧ s.creelHeld o.core h.gang < 4

section
variable {s} {id : Nat} {o : AsyncOp} {va len : Nat} {src : List SecSrc} {mask : BitVec 12} {g : Group}

/-- A CPYM waits while its gang holds four slots (R66). -/
theorem State.grantCreel_full (ho : tget s.ops id = some o) (hk : o.kind = .cpym va len src mask none)
    (hg : tget s.groups o.path.gid = some g) (h4 : 4 ≤ s.creelHeld o.core g.gang) : s.grantCreel id = s := by
  have full : decide (4 ≤ ((s.cell (cellOf o.core)).creel.filter fun t => t.2.gang = g.gang).length) = true := decide_eq_true h4
  unfold State.grantCreel
  rw [ho]
  simp only [hk, hg, full, Bool.or_true, if_true]
  split <;> rfl

theorem State.modCell_creel (s : State) (n : Nat) (f : Tab CreelSlot → Tab CreelSlot) :
    ((s.modCell n fun c => { c with creel := f c.creel }).cell n).creel = f (s.cell n).creel :=
  congrArg CellUnit.creel ((s.cell_modCell ..).trans (if_pos rfl))

/-- The slot of the creel that a CPYM is granted: awaited by the live members of its mask, and not filled (R358). -/
def State.slotFor (s : State) (o : AsyncOp) (g : Group) (mask : BitVec 12) : CreelSlot :=
  { gang := g.gang, asid := o.asid, mask := mask &&& s.liveMembers g.gang, tile := [], poison := 0, ready := false, order := s.fresh }

/-- Else it takes the lowest free slot, where no claim comes before it (R358). -/
theorem State.grantCreel_granted (ho : tget s.ops id = some o) (hk : o.kind = .cpym va len src mask none)
    (hg : tget s.groups o.path.gid = some g) {k : Nat} (hfree : lowestFree 8 (tkeys (s.cell (cellOf o.core)).creel) = some k)
    (h4 : s.creelHeld o.core g.gang < 4) (hfirst : ∀ p ∈ s.ops, ¬ s.CreelClaim o p) :
    let u := s.modCell (cellOf o.core) fun c => { c with creel := tset c.creel k (s.slotFor o g mask) }
    s.grantCreel id = { u with fresh := u.fresh + 1, ops := tset u.ops id { o with kind := .cpym va len src mask (some k) } } := by
  have room : decide (4 ≤ ((s.cell (cellOf o.core)).creel.filter fun t => t.2.gang = g.gang).length) = false :=
    decide_eq_false (Nat.not_le.2 h4)
  unfold State.grantCreel
  rw [ho]
  simp only [hk, hg, hfree, room, Bool.or_false]
  rw [if_neg]
  · rfl
  · rw [Bool.not_eq_true, List.any_eq_false]
    intro p hp hc
    simp only [Bool.and_eq_true, decide_eq_true_eq] at hc
    obtain ⟨⟨cell, seq⟩, waits⟩ := hc
    split at waits
    next kind group => exact hfirst p hp ⟨cell, seq, ⟨_, _, _, _, kind⟩, _, group, of_decide_eq_true waits⟩
    next => cases waits

/-- The slots from which a member of a gang may drain a tile, the oldest first. -/
def State.tilesFor (s : State) (core : Nat) (g : Group) : List (Nat × CreelSlot) :=
  sortBy (fun t => t.2.order) ((s.cell (cellOf core)).creel.filter fun t => t.2.gang = g.gang && t.2.mask.getLsbD g.member)

/-- No drain of the same group comes before a drain (R199). -/
def State.FirstDrain (s : State) (o : AsyncOp) : Prop :=
  ∀ p ∈ s.ops, p.2.path.gid = o.path.gid → p.2.seq < o.seq → ∀ off, p.2.kind ≠ .cdrain off false

/-- A drain waits for its tile, and behind the drains of its group that were issued before it (R199, R359). -/
theorem State.takeTile_waits {off : Nat} (ho : tget s.ops id = some o) (hk : o.kind = .cdrain off false)
    (hg : tget s.groups o.path.gid = some g) {k : Nat} {c : CreelSlot} {rest : List (Nat × CreelSlot)}
    (ht : s.tilesFor o.core g = (k, c) :: rest) (h : c.ready = false ∨ ¬ s.FirstDrain o) : s.takeTile id = s := by
  unfold State.tilesFor at ht
  unfold State.takeTile
  rw [ho]
  simp only [hk, hg, ht]
  rw [if_pos]
  rw [Bool.or_eq_true]
  rcases h with ready | behind
  · exact .inr (by simp [ready])
  · refine .inl (List.any_eq_true.2 ?_)
    unfold State.FirstDrain at behind
    push Not at behind
    obtain ⟨p, hp, gid, seq, off', kind⟩ := behind
    exact ⟨p, hp, by simp [gid, seq, kind]⟩

/-- Else it takes the tile, as far as the group's scratchpad reaches (R359, log 48). -/
theorem State.takeTile_taken {off : Nat} (ho : tget s.ops id = some o) (hk : o.kind = .cdrain off false)
    (hg : tget s.groups o.path.gid = some g) {k : Nat} {c : CreelSlot} {rest : List (Nat × CreelSlot)}
    (ht : s.tilesFor o.core g = (k, c) :: rest) (hready : c.ready = true) (hfirst : s.FirstDrain o) :
    ∃ secs : List Sector, secs.length = min ((1024 * g.spadKiB - off) / 32) (c.tile.length / 32) ∧
      let u := s.modCell (cellOf o.core) fun c => { c with creel := creelDrop g.gang g.member (some k) c.creel }
      s.takeTile id = { u with ops := tset u.ops id { o with kind := .cdrain off true, sectors := secs } } := by
  unfold State.tilesFor at ht
  unfold State.takeTile
  rw [ho]
  simp only [hk, hg, ht]
  rw [if_neg]
  · exact ⟨_, by simp, rfl⟩
  · rw [Bool.not_eq_true, Bool.or_eq_false_iff]
    refine ⟨List.any_eq_false.2 fun p hp hc => ?_, by simp [hready]⟩
    simp only [Bool.and_eq_true, decide_eq_true_eq] at hc
    obtain ⟨⟨gid, seq⟩, drains⟩ := hc
    split at drains
    next kind => exact hfirst p hp gid seq _ kind
    next => cases drains

/-- A member that has drained a slot is no longer awaited there (R67). -/
theorem creelDrop_mask {gang member k : Nat} {creel : Tab CreelSlot} :
    ∀ e ∈ creelDrop gang member (some k) creel, e.1 = k → e.2.gang = gang → e.2.mask.getLsbD member = false := by
  intro e he hkey hgang
  obtain ⟨⟨j, t⟩, -, rfl⟩ := List.mem_map.1 (List.mem_filter.1 he).1
  have hkey : j = k := hkey
  dsimp only at hgang ⊢
  subst hkey
  by_cases ht : t.gang = gang
  · by_cases hm : member < 12 <;> simp [ht, hm]
  · simp only [ht] at hgang
    simp_all

/-! ### Appends (R183, R360) -/

section
variable {hdr index : Nat} {packet : List Byte} {bad : List Nat} {x : Ctx}

theorem exec_queueAppendRoom_waits (hi : s.input = .one id) (ho : tget s.ops id = some o) (hk : o.kind = .append hdr index packet bad)
    (hx : tget s.ctxs o.asid = some x) (hw : s.opWaits o = true) : exec .queueAppendRoom s = .next s := by
  have room : exec .queueAppendRoom s = execQueueAppendRoom s := rfl
  rw [room, execQueueAppendRoom, hi]
  simp only [ho, hk, hx, hw, if_true]

/-- An append whose header is read looks for room between the index that it has claimed and the one that the queue has read. -/
theorem exec_queueAppendRoom_read (hi : s.input = .one id) (ho : tget s.ops id = some o) (hk : o.kind = .append hdr index packet bad)
    (hx : tget s.ctxs o.asid = some x) (hw : s.opWaits o = false) {rd w : Nat} {u v : State}
    (hr : s.unitNat (dieOf o.core) o.asid x (hdr + 8) 8 = (u, .ok rd))
    (hq : u.unitNat (dieOf o.core) o.asid x (hdr + 0x18) 8 = (v, .ok w)) :
    (2 ^ bitsOf w 0 5 ≤ (index + 2 ^ 64 - rd) % 2 ^ 64 → exec .queueAppendRoom s = .next v) ∧
    ((index + 2 ^ 64 - rd) % 2 ^ 64 < 2 ^ bitsOf w 0 5 → (v.writePacket o x hdr (bitsOf w 0 5) index packet bad).2 = none →
      exec .queueAppendRoom s = .next ((v.writePacket o x hdr (bitsOf w 0 5) index packet bad).1.endOp id)) := by
  have room : exec .queueAppendRoom s = execQueueAppendRoom s := rfl
  rw [room, execQueueAppendRoom, hi]
  simp only [ho, hk, hx, hw, hr, hq, Bool.false_eq_true, if_false]
  refine ⟨fun full => by rw [if_pos full], fun free put => ?_⟩
  rw [if_neg (Nat.not_le.2 free)]
  simp only [put]

end

end

end

end Sys2Proof.Machine
end

section
/-! PROOFS. Home slices and deferral buffers by themselves (02 R47, R58 to R64): reads, writes of any length, requests of one cycle in
their order, future cells and their deadlines, atomics near and far. -/

namespace Sys2Proof.Machine

/-! ### Writes over several lines (R47) -/

/-- A part of a byte range that lies in one line, with every byte of the range that the line has. -/
structure CutOf (pa : Nat) (bs : List Byte) (e : Nat × List Byte) : Prop where
  within : e.1 % 128 + e.2.length ≤ 128
  bytes : ∀ i b, bs[i]? = some b → (pa + i) / 128 = e.1 / 128 → e.1 ≤ pa + i ∧ e.2[pa + i - e.1]? = some b

theorem cutOf_of_mem_cutLines {pa : Nat} {bs : List Byte} {e : Nat × List Byte} (he : e ∈ cutLines pa bs) : CutOf pa bs e := by
  unfold cutLines at he
  obtain ⟨line, hl, rfl⟩ := List.mem_map.1 he
  rw [List.mem_dedup, List.mem_map] at hl
  obtain ⟨j, -, rfl⟩ := hl
  constructor
  · simp only [List.length_take, List.length_drop]
    omega
  · intro i b hb hl
    dsimp only at hl ⊢
    have start : max pa (128 * ((pa + j) / 128)) ≤ pa + i := by omega
    have below : pa + i - max pa (128 * ((pa + j) / 128)) < 128 * ((pa + j) / 128 + 1) - max pa (128 * ((pa + j) / 128)) := by omega
    have place : max pa (128 * ((pa + j) / 128)) - pa + (pa + i - max pa (128 * ((pa + j) / 128))) = i := by omega
    refine ⟨start, ?_⟩
    rw [List.getElem?_take_of_lt below, List.getElem?_drop, place, hb]

theorem exists_mem_cutLines (pa : Nat) (bs : List Byte) {i : Nat} (hi : i < bs.length) :
    ∃ e ∈ cutLines pa bs, (pa + i) / 128 = e.1 / 128 := by
  unfold cutLines
  refine ⟨_, List.mem_map.2 ⟨(pa + i) / 128, ?_, rfl⟩, ?_⟩
  · rw [List.mem_dedup]
    exact List.mem_map.2 ⟨i, List.mem_range.2 hi, rfl⟩
  · dsimp only
    omega

section
variable (s : State)

/-- A byte is at its home: no core owns its line, and memory holds it. -/
structure State.ByteAt (a : Nat) (b : Byte) : Prop where
  owner : (s.dir (a / 128)).owner = none
  byte : memGet s.mem a = b

variable {s}

theorem State.Spares.byteAt {t : State} {a : Nat} {b : Byte} (h : s.Spares t (a / 128)) (hs : s.ByteAt a b) : t.ByteAt a b :=
  ⟨h.unowned hs.owner, (h.mem hs.owner a rfl).trans hs.byte⟩

/-- A part of a range written at its home puts its bytes there, and leaves those of other parts. -/
theorem State.homeWriteIn_byteAt {pa : Nat} {bs : List Byte} {e : Nat × List Byte} (he : CutOf pa bs e) (a : Agent)
    (keep low : Bool) {i : Nat} {b : Byte} (hb : bs[i]? = some b)
    (h : (pa + i) / 128 = e.1 / 128 ∨ s.ByteAt (pa + i) b) : (s.homeWriteIn a keep low e.1 e.2).ByteAt (pa + i) b := by
  by_cases line : (pa + i) / 128 = e.1 / 128
  · obtain ⟨start, held⟩ := he.bytes i b hb line
    obtain ⟨inside, value⟩ := List.getElem?_eq_some_iff.1 held
    refine ⟨line ▸ State.homeWriteIn_unowned .., ?_⟩
    rw [State.homeWriteIn_mem, memGet_memPut, dif_pos ⟨start, inside⟩, value]
  · exact (s.spares_homeWriteIn a keep low he.within line).byteAt (h.resolve_left line)

/-- A write of device memory is in memory, over however many lines (R47). -/
theorem State.homePut_bytes (s : State) (a : Agent) (keep low : Bool) {pa : Nat} (bs : List Byte) (hd : isDeviceMem pa = true) :
    memBytes (s.homePut a keep low pa bs).mem pa bs.length = bs := by
  have each (es : List (Nat × List Byte)) (hes : ∀ e ∈ es, CutOf pa bs e) (u : State) (i : Nat) (b : Byte) (hb : bs[i]? = some b)
      (h : (∃ e ∈ es, (pa + i) / 128 = e.1 / 128) ∨ u.ByteAt (pa + i) b) :
      (es.foldl (fun u e => u.homeWriteIn a keep low e.1 e.2) u).ByteAt (pa + i) b := by
    induction es generalizing u with
    | nil => exact h.resolve_left (by simp)
    | cons e es ih =>
      have cut := hes e (by simp)
      refine ih (fun d hd => hes d (by simp [hd])) _ ?_
      rcases h with ⟨d, hd, line⟩ | held
      · rcases List.mem_cons.1 hd with rfl | later
        · exact .inr (State.homeWriteIn_byteAt cut a keep low hb (.inl line))
        · exact .inl ⟨d, later, line⟩
      · exact .inr (State.homeWriteIn_byteAt cut a keep low hb (.inr held))
  unfold State.homePut
  rw [if_pos hd]
  refine List.ext_getElem (length_memBytes ..) fun i hi hi' => ?_
  rw [getElem_memBytes]
  exact (each _ (fun _ => cutOf_of_mem_cutLines) s i _ (List.getElem?_eq_getElem hi') (.inl (exists_mem_cutLines pa bs hi'))).byte

variable (s)

theorem exec_homeSliceWrite_write {die pa : Nat} {bs : List Byte} (hi : s.input = .write die pa bs) :
    exec .homeSliceWrite s = .next (s.sliceWrite die pa bs) := by
  have slice : exec .homeSliceWrite s = execHomeSliceWrite s := rfl
  rw [slice, execHomeSliceWrite, hi]

/-- Requests of one uncore cycle in the order of R61. -/
theorem State.rotated_eq {α : Type} (die : α → Nat) (rs : List α) :
    s.rotated die rs = (List.range 8).flatMap fun i => rs.filter fun r => die r = (s.etime / 2 + i) % 8 := by
  unfold State.rotated dieOrder
  rw [List.flatMap_map]
  rfl

theorem exec_homeSliceWrite_writes {rs : List (Nat × Nat × List Byte)} (hi : s.input = .writes rs) : exec .homeSliceWrite s =
    .next ((((List.range 8).flatMap fun i => rs.filter fun r => r.1 = (s.etime / 2 + i) % 8)).foldl
      (fun u r => u.sliceWrite r.1 r.2.1 r.2.2) s) := by
  have slice : exec .homeSliceWrite s = execHomeSliceWrite s := rfl
  have order := s.rotated_eq (fun r : Nat × Nat × List Byte => r.1) rs
  rw [slice, execHomeSliceWrite, hi, ← order]

theorem exec_farAtomic_atomics {rs : List (Nat × Nat × AtomReq)} (hi : s.input = .atomics rs) : exec .farAtomic s =
    .next ((((List.range 8).flatMap fun i => rs.filter fun r => dieOf r.1 = (s.etime / 2 + i) % 8)).foldl
      (fun u r => u.farAtomic r.1 r.2.1 r.2.2) s) := by
  have slice : exec .farAtomic s = execFarAtomic s := rfl
  have order := s.rotated_eq (fun r : Nat × Nat × AtomReq => dieOf r.1) rs
  rw [slice, execFarAtomic, hi, ← order]

/-- An allocated line is present (R47). -/
theorem State.l2Use_present (line : Nat) (low : Bool) : ((s.l2Use line low).dir line).present = true := by
  unfold State.l2Use
  split
  next h => exact h
  next =>
    dsimp only
    rw [State.dir_modDir, if_pos rfl]

/-- A read at a home slice ends the ownership of its line and allocates it (R47, R59). -/
theorem exec_homeSliceRead {core line : Nat} (hi : s.input = .two core line) (hd : isDeviceMem (128 * line) = true) :
    exec .homeSliceRead s = .next ((s.recall line).l2Use line false) := by
  have slice : exec .homeSliceRead s = execHomeSliceRead s := rfl
  rw [slice, execHomeSliceRead, hi]
  simp only [hd, if_true]

/-! ### Future cells (R62 to R64) -/

/-- The state in which a request reads its future cell: taken from those that travel, an owner recalled, the line allocated, and the
core having seen it (R62, R83). -/
def State.reading (s : State) (i : Nat) (e : Defer) : State :=
  let w := ({ s with cellReqs := s.cellReqs.eraseIdx i } : State).recall (e.cell / 16)
  (if e.attr.uncached then w else w.l2Use (e.cell / 16) e.attr.low).seen e.core (e.cell / 16)

/-- Where no core owns the cell's line, the request reads what memory holds. -/
theorem State.reading_memNat {i : Nat} {e : Defer} (h : (s.dir (e.cell / 16)).owner = none) :
    memNat (s.reading i e).mem (8 * e.cell) 8 = memNat s.mem (8 * e.cell) 8 := by
  let u : State := { s with cellReqs := s.cellReqs.eraseIdx i }
  have used : u.Spares (s.reading i e) (e.cell / 16) :=
    .trans (.ite (u.spares_recall ..) ((u.spares_recall _ _).trans (State.spares_l2Use ..))) (.of_quiet (State.quiet_seen ..) _)
  unfold memNat
  refine congrArg natLE (List.ext_getElem (by simp only [length_memBytes]) fun j hj hj' => ?_)
  rw [length_memBytes] at hj
  rw [getElem_memBytes, getElem_memBytes]
  exact used.mem h _ (by omega)

/-- A request that has read its cell is answered, refused for want of an entry, or parked with its deadline (R62, R64). -/
def State.settleRead (v : State) (e : Defer) : State :=
  let n := memNat v.mem (8 * e.cell) 8
  if n ≠ 0 then v.decideLdf e (BitVec.ofNat 64 n) true 0
  else if 64 ≤ v.sliceLoad e.cell then v.decideLdf e 0 false 2
  else
    let limit : Nat := match tget v.ctxs e.asid with
      | none => Config.deferTicks
      | some x => x.deferLimit
    { v with defer := v.defer ++ [{ e with deadline := v.etime + limit }] }

section
variable {v : State} {e : Defer}

theorem State.settleRead_held (hn : memNat v.mem (8 * e.cell) 8 ≠ 0) :
    v.settleRead e = v.decideLdf e (BitVec.ofNat 64 (memNat v.mem (8 * e.cell) 8)) true 0 := by
  unfold State.settleRead
  dsimp only
  rw [if_pos hn]

theorem State.settleRead_refused (hn : memNat v.mem (8 * e.cell) 8 = 0) (hl : 64 ≤ v.sliceLoad e.cell) :
    v.settleRead e = v.decideLdf e 0 false 2 := by
  unfold State.settleRead
  dsimp only
  rw [if_neg (not_not.2 hn), if_pos hl]

theorem State.settleRead_parked (hn : memNat v.mem (8 * e.cell) 8 = 0) (hl : v.sliceLoad e.cell < 64) :
    ∃ d, v.settleRead e = { v with defer := v.defer ++ [{ e with deadline := d }] } := by
  unfold State.settleRead
  dsimp only
  rw [if_neg (not_not.2 hn), if_neg (Nat.not_le.2 hl)]
  exact ⟨_, rfl⟩

end

theorem exec_futureCellRead {i : Nat} {e : Defer} (hi : s.input = .one i) (he : s.cellReqs[i]? = some e) :
    exec .futureCellRead s = .next ((s.reading i e).settleRead e) := by
  have slice : exec .futureCellRead s = execFutureCellRead s := rfl
  rw [slice, execFutureCellRead]
  split
  next j hj =>
    cases hi.symm.trans hj
    rw [he]
    rfl
  next other => exact absurd hi (other i)

theorem State.acquire_defer (core rank : Nat) : (s.acquire core rank).defer = s.defer := by
  unfold State.acquire
  split <;> rfl

theorem State.seeHome_defer (core line : Nat) : (s.seeHome core line).defer = s.defer := by
  unfold State.seeHome
  dsimp only
  split
  · split <;> rfl
  · split <;> rfl

theorem State.landV_defer (r : Ref) (clause n : Nat) (vals : List (Nat × Word)) : (s.landV r clause n vals).defer = s.defer :=
  foldl_same State.defer (by intros; rfl) _ s

theorem State.landP_defer (r : Ref) (clause n : Nat) (vals : List (Nat × Bool)) : (s.landP r clause n vals).defer = s.defer :=
  foldl_same State.defer (by intros; rfl) _ s

/-- Deciding a request parks none and takes none from the deferral buffers. -/
theorem State.decideLdf_defer (e : Defer) (value : Dbl) (ok : Bool) (code : BitVec 2) : (s.decideLdf e value ok code).defer = s.defer := by
  unfold State.decideLdf
  split
  · rfl
  next l _ =>
    have saw : (if ok then s.seeHome e.core (e.cell / 16) else s).defer = s.defer := by
      split
      · exact s.seeHome_defer ..
      · rfl
    have landed (v w p) : ((((if ok then s.seeHome e.core (e.cell / 16) else s).landV e.path l.clause e.dst v).landV
        e.path l.clause (e.dst + 1) w).landP e.path l.clause e.status p).defer = s.defer := by
      rw [State.landP_defer, State.landV_defer, State.landV_defer, saw]
    have coded (n : Tab Ldf) (b : Prop) [Decidable b] (f : Path → Path) (v w p) :
        (let t : State := { ((((if ok then s.seeHome e.core (e.cell / 16) else s).landV e.path l.clause e.dst v).landV
          e.path l.clause (e.dst + 1) w).landP e.path l.clause e.status p) with ldfs := n }
         if b then t else t.modPath e.path f).defer = s.defer := by
      dsimp only
      split
      · exact landed ..
      · exact landed ..
    dsimp only
    split
    · split
      · exact (State.acquire_defer ..).trans (coded ..)
      · exact coded ..
    · exact landed ..

/-- The entries of the deferral buffers that expire at the latest multiple of 4,096 ticks are decided without success, and leave (R64). -/
theorem exec_deferralExpiry :
    let now := s.etime / 4096 * 4096
    exec .deferralExpiry s = .next ((s.defer.filter fun e => e.deadline ≤ now).foldl (fun u e => u.decideLdf e 0 false 1)
      { s with defer := s.defer.filter fun e => ¬ e.deadline ≤ now }) := rfl

/-- While a request is parked, the deferral buffers are looked at in time (R64). -/
theorem State.deferralExpiry_timed (parked : s.defer ≠ []) : (Instr.deferralExpiry, Input.none) ∈ s.timed := by
  have due : (Instr.deferralExpiry, Input.none) ∈ (if s.defer.isEmpty then [] else [(Instr.deferralExpiry, Input.none)]) := by
    simp [parked]
  unfold State.timed
  iterate 7 apply List.mem_append_left
  exact List.mem_append_right _ due

theorem foldl_decideLdf (es : List Defer) (u : State) :
    u.QuietKeeps (es.foldl (fun u e => u.decideLdf e 0 false 1) u) ∧ (es.foldl (fun u e => u.decideLdf e 0 false 1) u).defer = u.defer :=
  ⟨.foldl (fun v e => v.quiet_decideLdf e 0 false 1) es u,
    foldl_same (f := fun u e => u.decideLdf e 0 false 1) State.defer (fun v e => v.decideLdf_defer e 0 false 1) es u⟩

/-! ### Atomics at home slices (R58, R59) -/

/-- A recall of the line before it changes nothing of an atomic at the line's home, which begins with one. -/
theorem State.rmwHome_recall (core pa : Nat) (keep low : Bool) (q : AtomReq) :
    (s.recall (pa / 128)).rmwHome core pa keep low q = s.rmwHome core pa keep low q := by
  unfold State.rmwHome
  rw [State.recall_unowned (s.recall_unowns (pa / 128))]

/-- A far atomic leaves the new value that it has from what memory holds once the core's dirty bytes and those of an owner are home. -/
theorem State.farAtomic_value {core pa : Nat} (q : AtomReq) (hd : isDeviceMem pa = true) :
    memNat (s.farAtomic core pa q).mem pa (atomBits q.ty / 8) =
      (atomStep q (memNat ((s.writeBack core (pa / 128)).recall (pa / 128)).mem pa (atomBits q.ty / 8))).new %
        2 ^ (8 * (atomBits q.ty / 8)) := by
  obtain ⟨old, new⟩ := rmwHome_spec core false q ((s.writeBack core (pa / 128)).recall_unowns (pa / 128))
  unfold State.farAtomic
  rw [if_pos hd, ← State.rmwHome_recall, new, old]

theorem exec_farAtomic_one {core pa : Nat} {q : AtomReq} (hi : s.input = .atomic core pa q) :
    exec .farAtomic s = .next (s.farAtomic core pa q) := by
  have slice : exec .farAtomic s = execFarAtomic s := rfl
  rw [slice, execFarAtomic, hi]

theorem exec_ownershipRequest {core pa : Nat} {q : AtomReq} (hi : s.input = .atomic core pa q) (hd : isDeviceMem pa = true) :
    exec .ownershipRequest s = .next (s.rmwNear core pa false q).s := by
  have slice : exec .ownershipRequest s = execOwnershipRequest s := rfl
  rw [slice, execOwnershipRequest, hi]
  simp only [hd, if_true]

/-- A line stays contended until its time is over (R58). -/
theorem exec_contendedExpiry {line t0 : Nat} (hi : s.input = .one line) (hc : (s.dir line).contended = some t0) :
    exec .contendedExpiry s = .next (if t0 ≤ s.etime then s.modDir line fun d => { d with contended := none } else s) := by
  have slice : exec .contendedExpiry s = execContendedExpiry s := rfl
  rw [slice, execContendedExpiry, hi]
  simp only [hc]

end

end Sys2Proof.Machine
end

section
/-! PROOFS. Remote-data caches by themselves (02 R48, R51), soft errors and patrol (02 R68, 18 R402). -/

namespace Sys2Proof.Machine

section
variable (s : State)

/-! ### Remote-data caches (R48, R51) -/

/-- No copy of a line is in a die's RDC. -/
def State.RdcLacks (s : State) (die line : Nat) : Prop := ∀ l ∈ (s.die die).rdc, l.line ≠ line

theorem State.dropRdc_lacks (d v die line : Nat) (h : d = die ∧ v = line ∨ s.RdcLacks die line) : (s.dropRdc d v).RdcLacks die line := by
  have left : (s.dropRdc d v).die die = (s.modDie d fun x => { x with rdc := x.rdc.filter fun l => l.line ≠ v }).die die := rfl
  unfold State.RdcLacks
  rw [left, State.die_modDie]
  intro l hl
  split at hl
  next same =>
    obtain ⟨held, other⟩ := List.mem_filter.1 hl
    rcases h with ⟨-, rfl⟩ | lacks
    · exact of_decide_eq_true other
    · exact lacks l (same ▸ held)
  next other =>
    rcases h with ⟨rfl, -⟩ | lacks
    · exact absurd rfl other
    · exact lacks l hl

/-- An invalidation that is delivered leaves no copy of its line in its die's RDC (R48). -/
theorem State.deliverIf_lacks {sel : RdcInv → Bool} {e : RdcInv} (he : e ∈ s.rdcInv) (hs : sel e = true) :
    (s.deliverIf sel).RdcLacks e.die e.line := by
  have each (es : List RdcInv) (u : State) (h : e ∈ es ∨ u.RdcLacks e.die e.line) :
      (es.foldl (fun u d => u.dropRdc d.die d.line) u).RdcLacks e.die e.line := by
    induction es generalizing u with
    | nil => exact h.resolve_left (by simp)
    | cons d es ih =>
      refine ih _ ?_
      rcases h with now | lacks
      · rcases List.mem_cons.1 now with rfl | later
        · exact .inr (u.dropRdc_lacks _ _ _ _ (.inl ⟨rfl, rfl⟩))
        · exact .inl later
      · exact .inr (u.dropRdc_lacks _ _ _ _ (.inr lacks))
  exact each _ s (.inl (List.mem_filter.2 ⟨he, hs⟩))

theorem exec_rdcInvalidation {die line : Nat} (hi : s.input = .two die line) :
    exec .rdcInvalidation s = .next (s.deliverIf fun e => e.die = die ∧ e.line = line) := by
  have event : exec .rdcInvalidation s = execRdcInvalidation s := rfl
  rw [event, execRdcInvalidation, hi]

/-- A line that enters a cache is in it (R417). -/
theorem mem_cachePut (sets ways : Nat) (c : List CLine) (l : CLine) (low : Bool) : l ∈ cachePut sets ways c l low := by
  unfold cachePut
  dsimp only
  split
  · exact List.mem_append_right _ (List.mem_singleton_self l)
  · exact List.mem_cons_self

theorem State.modDie_rdc (n : Nat) (f : Die → List CLine) :
    ((s.modDie n fun d => { d with rdc := f d }).die n).rdc = f (s.die n) :=
  congrArg Die.rdc ((s.die_modDie ..).trans (if_pos rfl))

/-- What a fill brings, laid under what a die's RDC holds of the line (R51). -/
def Die.laid (d : Die) (line : Nat) (fill : CLine) : CLine :=
  match d.rdc.find? fun l => l.line = line with
  | none => fill
  | some held => held.under fill

theorem Die.laid_absent {d : Die} {line : Nat} {fill : CLine} (h : (d.rdc.find? fun l => l.line = line) = none) :
    d.laid line fill = fill := by
  unfold Die.laid
  rw [h]

theorem Die.laid_held {d : Die} {line : Nat} {fill held : CLine} (h : (d.rdc.find? fun l => l.line = line) = some held) :
    d.laid line fill = held.under fill := by
  unfold Die.laid
  rw [h]

/-- A line that is filled is in its die's RDC, under what the RDC held of it (R51). -/
theorem State.mem_rdc_filled (die line : Nat) (fill : CLine) (low : Bool) : (s.die die).laid line fill ∈
    ((s.modDie die fun d => { d with rdc := cachePut 16384 16 d.rdc (d.laid line fill) low }).die die).rdc := by
  rw [s.modDie_rdc die fun d => cachePut 16384 16 d.rdc (d.laid line fill) low]
  exact mem_cachePut ..

/-- The state once a fill has been taken from those on their way. -/
def State.fillTaken (s : State) (die line : Nat) : State :=
  { s with rdcFill := s.rdcFill.eraseP fun f => f.die = die && f.line.line = line }

/-- A fill that arrives enters the RDC, unless its line was invalidated meanwhile (R51). -/
theorem exec_rdcFill {die line : Nat} (hi : s.input = .two die line) {f : RdcFill}
    (hf : s.rdcFill.find? (fun f => f.die = die && f.line.line = line) = some f) : exec .rdcFill s = .next
      (if f.spoilt then s.fillTaken die line
        else (s.fillTaken die line).modDie die fun d => { d with rdc := cachePut 16384 16 d.rdc (d.laid line f.line) f.low }) := by
  have event : exec .rdcFill s = execRdcFill s := rfl
  rw [event, execRdcFill]
  split
  next d v hj =>
    cases hi.symm.trans hj
    rw [hf]
    rfl
  next other => exact absurd hi (other die line)

/-! ### Notifications while the ring is off (R394) -/

theorem flushNotes_plat (n : Nat) : (State.flushNotes n s).plat = s.plat := by
  induction n generalizing s with
  | zero => rfl
  | succ n ih =>
    unfold State.flushNotes
    split
    · rfl
    · split
      · exact (ih _).trans (State.dirty_homePut ..).plat
      · rfl

/-- A notification changes no count of errors. -/
theorem State.notify_plat (type detail asid token info : Nat) : (s.notify type detail asid token info).plat = s.plat :=
  flushNotes_plat ..

/-- While the host has not set the ring up, a notification is held. -/
theorem State.notify_off (h : s.host.ntfbase.getLsbD 0 = false) (type detail asid token info : Nat) :
    s.notify type detail asid token info = { s with held := s.held ++
      [{ info := BitVec.ofNat 64 info, token := token, detail := detail, asid := asid, type := type }] } := by
  have off (n : Nat) (u : State) (hu : u.host.ntfbase.getLsbD 0 = false) : State.flushNotes n u = u := by
    cases n with
    | zero => rfl
    | succ n =>
      unfold State.flushNotes
      split
      · rfl
      · rw [if_neg fun on => Bool.false_ne_true (hu.symm.trans on.1)]
  exact off _ _ h

/-! ### Soft errors (R68, R402) -/

/-- The state in which an uncorrectable error strikes: what is issued has been performed, and the error is counted (log 83). -/
def State.struck (s : State) : State :=
  let u := s.flush fun _ => true
  { u with plat := { u.plat with uncorrected := u.plat.uncorrected + 1 } }

theorem State.struck_uncorrected : s.struck.plat.uncorrected = s.plat.uncorrected + 1 :=
  congrArg (fun p : Platform => p.uncorrected + 1) (s.only_flush fun _ => true).plat

theorem exec_softError_uncorrectable {place : SoftPlace} (hi : s.input = .soft place false) :
    exec .softError s = .next (s.struck.spoil place) := by
  have event : exec .softError s = execSoftError s := rfl
  rw [event, execSoftError, hi]
  rfl

theorem exec_softError_corrected {place : SoftPlace} (hi : s.input = .soft place true) (hn : s.plat.corrected ≠ Config.softThreshold) :
    exec .softError s = .next { s with plat := { s.plat with corrected := s.plat.corrected + 1 } } := by
  have below : ¬ s.plat.corrected + 1 = Config.softThreshold + 1 := fun h => hn (Nat.succ.inj h)
  have event : exec .softError s = execSoftError s := rfl
  rw [event, execSoftError, hi]
  simp only [if_true, if_neg below]

/-- An error in a line of the L2 changes no count. -/
theorem State.l2Spoil_plat (line : Nat) : (s.l2Spoil line).plat = s.plat := by
  unfold State.l2Spoil
  dsimp only
  split
  · rfl
  · split
    · exact (s.dirty_l2Drop line).plat
    · exact (State.notify_plat ..).trans (s.dirty_poisonMask ..).plat

/-- A clean line of the L2 with an error is dropped (R68). -/
theorem State.l2Spoil_clean {line : Nat} (hp : (s.dir line).present = true) (hd : (s.dir line).dirty = false) :
    ((s.l2Spoil line).dir line).present = false := by
  unfold State.l2Spoil
  dsimp only
  rw [if_neg (by simp [hp]), if_pos (by simp [hd]), State.l2Drop, State.dir_modDir, if_pos rfl]

/-- A dirty one is poisoned (R68). -/
theorem State.l2Spoil_dirty {line : Nat} (hp : (s.dir line).present = true) (hd : (s.dir line).dirty = true)
    (hn : s.host.ntfbase.getLsbD 0 = false) : ∀ i < 128, 128 * line + i ∈ (s.l2Spoil line).poison := by
  intro i hi
  have all : ¬ BitVec.allOnes 128 = 0 := by decide
  have off : (s.poisonMask line (BitVec.allOnes 128)).host.ntfbase.getLsbD 0 = false := by rwa [(s.quiet_poisonMask ..).host]
  unfold State.l2Spoil
  dsimp only
  rw [if_neg (by simp [hp]), if_neg (by simp [hd]), State.notify_off _ off, State.poisonMask, if_neg all]
  refine List.mem_append_right _ (List.mem_map.2 ⟨i, ?_, rfl⟩)
  simp only [bitList, List.mem_filter, List.mem_range, BitVec.getLsbD_allOnes, hi, decide_true, and_self]

theorem State.l1Find_l1Evict (core line : Nat) : (s.l1Evict core line).l1Find core line = none := by
  unfold State.l1Evict State.l1Find
  dsimp only
  rw [State.core_modCore, if_pos rfl, List.find?_eq_none]
  intro k hk
  simpa using (List.mem_filter.1 hk).2

/-- A clean line of an L1 with an error is dropped (R68). -/
theorem State.l1Spoil_clean {core line : Nat} {l : Line} (hl : s.l1Find core line = some l) (hd : l.dirty = 0) (ha : l.amod = 0) :
    (s.l1Spoil core line).l1Find core line = none := by
  unfold State.l1Spoil
  rw [hl]
  dsimp only
  rw [if_pos ⟨hd, ha⟩]
  exact s.l1Find_l1Evict core line

/-- A line of an L1 with the only copy of bytes: those are poisoned where they are, and the host is told (R68, R402). -/
theorem State.l1Spoil_dirty {core line : Nat} {l : Line} (hl : s.l1Find core line = some l) (hd : l.dirty ≠ 0 ∨ l.amod ≠ 0)
    (hn : s.host.ntfbase.getLsbD 0 = false) :
    (s.l1Spoil core line).mem = s.mem ∧
    (s.l1Spoil core line).l1Find core line = some { l with valid := 0, poison := l.poison ||| l.dirty ||| l.amod } ∧
    (s.l1Spoil core line).held = s.held ++ [{ info := BitVec.ofNat 64 (128 * line), token := 0, detail := 0, asid := 0, type := 8 }] := by
  let spoilt (l : Line) : Line := { l with valid := 0, poison := l.poison ||| l.dirty ||| l.amod }
  have lost : ¬ (l.dirty = 0 ∧ l.amod = 0) := fun ⟨d, a⟩ => hd.elim (· d) (· a)
  have off : (s.l1Mod core line spoilt).host.ntfbase.getLsbD 0 = false := hn
  have eq : s.l1Spoil core line = { s.l1Mod core line spoilt with held := s.held ++
      [{ info := BitVec.ofNat 64 (128 * line), token := 0, detail := 0, asid := 0, type := 8 }] } := by
    unfold State.l1Spoil
    rw [hl]
    dsimp only
    rw [if_neg lost]
    exact State.notify_off _ off ..
  have found := s.l1Find_l1Mod core line line (f := spoilt) fun _ => rfl
  rw [hl, Option.map_some, if_pos rfl] at found
  rw [eq]
  exact ⟨rfl, found, rfl⟩

/-- A sector of memory that the patrol finds beyond correction: poisoned, counted, and told (R402). -/
def State.scrubbed (s : State) (a : Nat) : State :=
  ({ s with
    poison := s.poison ++ sectorAt a
    plat := { s.plat with uncorrected := s.plat.uncorrected + 1 } } : State).notify 8 0 0 0 (a / 32 * 32)

theorem State.scrubbed_plat (a : Nat) : (s.scrubbed a).plat = { s.plat with uncorrected := s.plat.uncorrected + 1 } :=
  State.notify_plat ..

theorem State.foldl_scrubbed_plat (as : List Nat) :
    (as.foldl State.scrubbed s).plat = { s.plat with uncorrected := s.plat.uncorrected + as.length } := by
  induction as generalizing s with
  | nil => rfl
  | cons a as ih =>
    have count : s.plat.uncorrected + 1 + as.length = s.plat.uncorrected + (as.length + 1) := by omega
    rw [List.foldl_cons, ih, State.scrubbed_plat]
    simp only [count, List.length_cons]

/-- A pass of the patrol counts itself and each place of device memory that it finds beyond correction (R402). -/
theorem exec_patrolScrub {bad : List Nat} (hi : s.input = .scrub bad) : ∃ t, exec .patrolScrub s = .next t ∧
    t.plat = { s.plat with patrols := s.plat.patrols + 1, uncorrected := s.plat.uncorrected + (bad.filter isDeviceMem).length } := by
  let u := if bad.isEmpty then s else s.beforeError
  have before : u.plat = s.plat := by
    unfold u
    split
    · rfl
    · exact (s.only_flush _).plat
  have event : exec .patrolScrub s = execPatrolScrub s := rfl
  rw [event, execPatrolScrub, hi]
  refine ⟨_, rfl, (State.foldl_scrubbed_plat { u with plat := { u.plat with patrols := u.plat.patrols + 1 } }
    (bad.filter fun a => isDeviceMem a)).trans ?_⟩
  simp only [before]

end

end Sys2Proof.Machine
end

section
/-! PROOFS. What copy units, home slices and caches do by themselves (02 R47 to R51, R58 to R68, 05 R119, 16 R354 to R360, 18 R402). -/

namespace Sys2Proof.Machine

section
variable {s : State} {id : Nat} {o : AsyncOp}

theorem exec_copySectorLand {i : Nat} (hi : s.input = .two id i) : exec .copySectorLand s = .next (s.copySector id i) := by
  have event : exec .copySectorLand s = execCopySectorLand s := rfl
  rw [event, execCopySectorLand, hi]

theorem exec_asyncCompletion (hi : s.input = .one id) : exec .asyncCompletion s = .next (s.completeOp id) := by
  have event : exec .asyncCompletion s = execAsyncCompletion s := rfl
  rw [event, execAsyncCompletion, hi]

theorem exec_creelSlotGrant (hi : s.input = .one id) : exec .creelSlotGrant s = .next (s.grantCreel id) := by
  have event : exec .creelSlotGrant s = execCreelSlotGrant s := rfl
  rw [event, execCreelSlotGrant, hi]

theorem exec_drainSlotReady (hi : s.input = .one id) : exec .drainSlotReady s = .next (s.takeTile id) := by
  have event : exec .drainSlotReady s = execDrainSlotReady s := rfl
  rw [event, execDrainSlotReady, hi]

end

/-- A landing is credited where the operation names an object and has no REL (R119). -/
theorem State.credit_landings (v : State) (rel : Bool) (bar : Option (Nat × Nat)) (d : SecDst) :
    (if rel then v else v.credit bar d.landings) = match bar with
      | none => v
      | some (gid, off) => if rel = true ∨ d.landings = 0 then v else v.barStep gid off fun b => b.land 1 := by
  cases rel with
  | true => cases bar <;> simp
  | false =>
    cases bar with
    | none => rfl
    | some p => cases d <;> rfl

/-- Settles O57, event by event. -/
theorem copiesAndCells : Obligations.CopiesAndCells := by
  unfold Obligations.CopiesAndCells
  refine ⟨?sector, ?operations, ?sliceRead, ?sliceWrite, fun s rs hi => exec_homeSliceWrite_writes s hi,
    fun s rs hi => exec_farAtomic_atomics s hi, ?cells, ?expiry, ?atomics, ?contended, ?rdc, ?errors, ?patrol⟩
  case sector =>
    intro s id i k o sec ho hs
    refine ⟨fun hi => ?_, fun hi => ?_⟩
    · rw [exec_copySectorLand hi, s.copySector_eq ho hs]
      exact congrArg Host.Outcome.next (State.credit_landings ..)
    · have event : exec .copySectorLand s = execCopySectorLand s := rfl
      rw [event, execCopySectorLand, hi]
  case operations =>
    intro s id o hi ho
    refine ⟨fun hw => ?_, fun hk hw => ?_, fun off hk => ?_, fun va len src mask g k hk hg hfree h4 hfirst => ?_,
      fun va len src mask g hk hg h4 => ?_, fun off g hk hg k c rest ht => ⟨fun h => ?_, fun hready hfirst => ?_⟩,
      fun hdr index packet bad x hk hx => ⟨fun hw => exec_queueAppendRoom_waits hi ho hk hx hw, fun hw rd u w v hr hq =>
        exec_queueAppendRoom_read hi ho hk hx hw hr hq⟩⟩
    case refine_1 => rw [exec_asyncCompletion hi, State.completeOp, ho]; simp only [hw, if_true]
    case refine_2 =>
      refine ⟨_, exec_asyncCompletion hi, State.completeOp_copy_gone ho hk hw, fun hdst hrel hsrc => ?_⟩
      exact State.completeOp_copy_mem ho hk hw ⟨hrel, fun x hx => ⟨hdst x hx, hsrc x hx⟩⟩
    case refine_3 =>
      rw [exec_asyncCompletion hi, State.completeOp, ho]
      simp only [hk, ite_self]
    case refine_4 =>
      have unclaimed (p : Nat × AsyncOp) (hp : p ∈ s.ops) : ¬ s.CreelClaim o p := by
        rintro ⟨cell, seq, ⟨va', len', src', mask', kind⟩, h, group, below⟩
        exact absurd (hfirst p hp seq cell va' len' src' mask' kind h group) (Nat.not_le.2 below)
      have granted := State.grantCreel_granted ho hk hg hfree h4 unclaimed
      refine ⟨_, _, s.slotFor o g mask, (exec_creelSlotGrant hi).trans (congrArg Host.Outcome.next granted), tget_tset_self ..,
        rfl, ?_, rfl, rfl, rfl⟩
      have slot := congrArg (tget · k) (s.modCell_creel (cellOf o.core) fun t => tset t k (s.slotFor o g mask))
      exact slot.trans (tget_tset_self ..)
    case refine_5 => rw [exec_creelSlotGrant hi, State.grantCreel_full ho hk hg h4]
    case refine_6 => rw [exec_drainSlotReady hi, State.takeTile_waits ho hk hg ht h]
    case refine_7 =>
      obtain ⟨secs, count, taken⟩ := State.takeTile_taken ho hk hg ht hready hfirst
      refine ⟨_, _, (exec_drainSlotReady hi).trans (congrArg Host.Outcome.next taken), tget_tset_self .., rfl, count, fun e he => ?_⟩
      have creel := s.modCell_creel (cellOf o.core) fun t => creelDrop g.gang g.member (some k) t
      exact creelDrop_mask e (Eq.mp (congrArg (e ∈ ·) creel) he)
  case sliceRead =>
    intro s core line hi hd
    exact ⟨_, exec_homeSliceRead s hi hd, (State.spares_l2Use _ line line false).unowned (s.recall_unowns line), State.l2Use_present ..⟩
  case sliceWrite =>
    intro s die pa bs hi hd hd'
    refine ⟨_, exec_homeSliceWrite_write s hi, ?_⟩
    rw [State.sliceWrite, if_pos ⟨hd, hd'⟩]
    exact s.homePut_bytes _ true false bs hd
  case cells =>
    intro s i e hi he u w v n
    have event := exec_futureCellRead s hi he
    refine ⟨fun ho => s.reading_memNat ho, fun hn => ?_, fun hn hfull => ?_, fun hn hroom => ?_⟩
    · exact event.trans (congrArg Host.Outcome.next (State.settleRead_held hn))
    · exact event.trans (congrArg Host.Outcome.next (State.settleRead_refused hn hfull))
    · obtain ⟨d, parked⟩ := State.settleRead_parked hn hroom
      exact ⟨_, d, event.trans (congrArg Host.Outcome.next parked), rfl, rfl, State.SameRegs.refl v⟩
  case expiry =>
    intro s now
    obtain ⟨quiet, defer⟩ := foldl_decideLdf (s.defer.filter fun e => e.deadline ≤ now)
      { s with defer := s.defer.filter fun e => ¬ e.deadline ≤ now }
    refine ⟨_, exec_deferralExpiry s, quiet.mem, fun e he => ?_, fun hall => ?_, fun parked => ?_⟩
    · rw [defer] at he
      simpa using (List.mem_filter.1 he).2
    · have stay (e : Defer) (he : e ∈ s.defer) : ¬ e.deadline ≤ now := Nat.not_le.2 (hall e he)
      have none_ : (s.defer.filter fun e => e.deadline ≤ now) = [] := List.filter_eq_nil_iff.2 fun e he => by simp [stay e he]
      have all : (s.defer.filter fun e => ¬ e.deadline ≤ now) = s.defer := List.filter_eq_self.2 fun e he => by simp [stay e he]
      rw [none_, all]
      rfl
    · exact s.deferralExpiry_timed parked
  case atomics =>
    intro s core pa q hi hd
    exact ⟨exec_ownershipRequest s hi hd, _, exec_farAtomic_one s hi, s.farAtomic_value q hd⟩
  case contended =>
    intro s line t0 hi hc
    have event := exec_contendedExpiry s hi hc
    refine ⟨fun due => ⟨_, event.trans (congrArg Host.Outcome.next (if_pos due)), ?_, rfl⟩, fun early => ?_⟩
    · rw [State.dir_modDir, if_pos rfl]
    · rw [event, if_neg (Nat.not_le.2 early)]
  case rdc =>
    intro s die line hi
    refine ⟨⟨_, exec_rdcInvalidation s hi, fun e he => ?_, State.dropRdcs_mem .., ?_⟩, fun f hf => ?_⟩
    · simpa using (State.deliverIf_rdcInv s _ e he).2
    · rintro ⟨e, he, rfl, rfl⟩
      exact s.deliverIf_lacks he (by simp)
    · have event := exec_rdcFill s hi hf
      cases hs : f.spoilt with
      | true =>
        rw [hs, if_pos rfl] at event
        exact ⟨_, event, rfl, fun _ => rfl, fun h => (by cases h)⟩
      | false =>
        rw [hs, if_neg Bool.false_ne_true] at event
        have filled := (s.fillTaken die line).mem_rdc_filled die line f.line f.low
        refine ⟨_, event, rfl, fun h => (by cases h), fun _ => ⟨fun none_ => ?_, fun held found => ?_⟩⟩
        · rw [Die.laid_absent (d := (s.fillTaken die line).die die) none_] at filled
          exact filled
        · rw [Die.laid_held (d := (s.fillTaken die line).die die) found] at filled
          exact filled
  case errors =>
    intro s place
    refine ⟨fun hi hn => exec_softError_corrected s hi hn, ?_⟩
    intro u
    refine ⟨fun line hi => ?_, fun core line l hi hl => ?_, fun die line hi => ?_⟩
    · refine ⟨_, exec_softError_uncorrectable s hi, ?_, s.struck.l2Spoil_clean, s.struck.l2Spoil_dirty⟩
      exact congrArg Platform.uncorrected (s.struck.l2Spoil_plat line) |>.trans s.struck_uncorrected
    · exact ⟨_, exec_softError_uncorrectable s hi, s.struck.l1Spoil_clean hl, s.struck.l1Spoil_dirty hl⟩
    · refine ⟨_, exec_softError_uncorrectable s hi, fun l hl => ?_⟩
      have rdc := s.struck.modDie_rdc die fun d => d.rdc.filter fun l => l.line ≠ line
      exact of_decide_eq_true (List.mem_filter.1 (Eq.mp (congrArg (l ∈ ·) rdc) hl)).2
  case patrol =>
    intro s bad hi
    obtain ⟨t, ht, plat⟩ := exec_patrolScrub s hi
    exact ⟨t, ht, by rw [plat], by rw [plat]⟩

end Sys2Proof.Machine
end

section
/-! PROOFS. Barrier objects (05 R117 to R123, Table 5-2): their 128 bits, what each step does to their counts, and the paths asleep on
them. -/

namespace Sys2Proof.Machine

/-! ### The bits of an object (Table 5-1) -/

/-- Counts that fit the fields of Table 5-1. -/
def Bar.InRange (b : Bar) : Prop := b.phase < 16 ∧ b.reload < 4096 ∧ b.pend < 4096 ∧ b.expect < 2 ^ 32 ∧ b.landed < 2 ^ 32

theorem Bar.toNat_lt {b : Bar} (h : b.InRange) : b.toNat < 2 ^ 128 := by
  obtain ⟨phase, reload, pend, expect, landed⟩ := h
  unfold Bar.toNat
  split <;> split <;> omega

/-- Bit `i` of a number that holds a flag there, below it less than its weight. -/
theorem bitOf_flag {low i : Nat} (f : Bool) (high : Nat) (hl : low < 2 ^ i) :
    bitOf (low + (if f then 2 ^ i else 0) + 2 ^ (i + 1) * high) i = f := by
  have quotient : (low + (if f then 2 ^ i else 0) + 2 ^ (i + 1) * high) / 2 ^ i = (if f then 1 else 0) + 2 * high := by
    have split : low + (if f then 2 ^ i else 0) + 2 ^ (i + 1) * high = low + 2 ^ i * ((if f then 1 else 0) + 2 * high) := by
      rw [Nat.pow_succ]
      cases f <;> simp <;> ring
    rw [split, Nat.add_mul_div_left _ _ (Nat.two_pow_pos i), Nat.div_eq_of_lt hl, Nat.zero_add]
  rw [bitOf, Nat.testBit_eq_decide_div_mod_eq, quotient]
  cases f <;> simp

theorem Bar.ofNat_toNat {b : Bar} (h : b.InRange) : Bar.ofNat b.toNat = b := by
  obtain ⟨phase, reload, pend, expect, landed⟩ := h
  have ovf : bitOf b.toNat 28 = b.ovf := by
    rw [← bitOf_flag b.ovf ((if b.serr then 1 else 0) + 2 ^ 3 * b.expect + 2 ^ 35 * b.landed)
      (show b.phase + 2 ^ 4 * b.reload + 2 ^ 16 * b.pend < 2 ^ 28 by omega)]
    congr 1
    unfold Bar.toNat
    cases b.serr <;> simp <;> omega
  have serr : bitOf b.toNat 29 = b.serr := by
    rw [← bitOf_flag b.serr (2 ^ 2 * b.expect + 2 ^ 34 * b.landed)
      (show b.phase + 2 ^ 4 * b.reload + 2 ^ 16 * b.pend + (if b.ovf then 2 ^ 28 else 0) < 2 ^ 29 by split <;> omega)]
    congr 1
    unfold Bar.toNat
    omega
  have fields : bitsOf b.toNat 0 4 = b.phase ∧ bitsOf b.toNat 4 12 = b.reload ∧ bitsOf b.toNat 16 12 = b.pend ∧
      bitsOf b.toNat 32 32 = b.expect ∧ bitsOf b.toNat 64 32 = b.landed := by
    unfold bitsOf Bar.toNat
    refine ⟨?_, ?_, ?_, ?_, ?_⟩ <;> split <;> split <;> omega
  obtain ⟨phaseBits, reloadBits, pendBits, expectBits, landedBits⟩ := fields
  unfold Bar.ofNat
  rw [ovf, serr, phaseBits, reloadBits, pendBits, expectBits, landedBits]

/-- An object written into a scratchpad is read back. -/
theorem State.bar_spadPut {s : State} {gid : Nat} (off : Nat) {b : Bar} (h : b.InRange) (hg : (tget s.groups gid).isSome) :
    (s.spadPut gid off (bytesLE 16 b.toNat)).bar gid off = b := by
  obtain ⟨g, hg⟩ := Option.isSome_iff_exists.1 hg
  have read : (s.spadPut gid off (bytesLE 16 b.toNat)).spadBytes gid off 16 = bytesLE 16 b.toNat := by
    have put : tget (s.spadPut gid off (bytesLE 16 b.toNat)).groups gid = some _ := (tget_tmod_self ..).trans (congrArg _ hg)
    simp only [State.spadBytes, put]
    have len : (bytesLE 16 b.toNat).length = 16 := length_bytesLE ..
    calc _ = memBytes (memPut g.spad off (bytesLE 16 b.toNat)) off (bytesLE 16 b.toNat).length := by rw [len]
      _ = _ := memBytes_memPut_self ..
  rw [State.bar, read, natLE_bytesLE, Nat.mod_eq_of_lt (Bar.toNat_lt h), Bar.ofNat_toNat h]

/-! ### The steps of Table 5-2 with their completion checks (R118) -/

/-- An object in error does not complete. -/
theorem Bar.check_error {b : Bar} (h : b.ovf = true ∨ b.serr = true) : b.check = b := if_pos (by simpa using h)

/-- The phase advances and the counts reload. -/
def Bar.complete (b : Bar) : Bar := { b with phase := (b.phase + 1) % 16, pend := b.reload, expect := 0, landed := 0 }

section
variable {b : Bar} (hovf : b.ovf = false) (hserr : b.serr = false)
include hovf hserr

theorem Bar.check_pending (h : b.pend ≠ 0) : b.check = b := by
  simp [Bar.check, hovf, hserr, h]

theorem Bar.check_complete (h : b.pend = 0) (he : b.landed = b.expect) : b.check = b.complete := by
  simp [Bar.check, Bar.complete, hovf, hserr, h, he]

theorem Bar.check_awaits (h : b.pend = 0) (he : b.landed < b.expect) : b.check = b := by
  simp [Bar.check, hovf, hserr, h, Nat.ne_of_lt he, Nat.not_lt.2 (Nat.le_of_lt he)]

theorem Bar.check_overrun (h : b.pend = 0) (he : b.expect < b.landed) : b.check = { b with serr := true } := by
  simp [Bar.check, hovf, hserr, h, Nat.ne_of_gt he, he]

end

theorem Bar.arrive_few {b : Bar} {n : Nat} (h : n ≤ b.pend) : b.arrive n = { b with pend := b.pend - n } := if_neg (Nat.not_lt.2 h)

theorem Bar.arrive_many {b : Bar} {n : Nat} (h : b.pend < n) : b.arrive n = { b with pend := 0, ovf := true } := if_pos h

theorem Bar.expects_fits {b : Bar} {n : Nat} (h : b.expect + n < 2 ^ 32) : b.expects n = { b with expect := b.expect + n } :=
  if_neg (by omega)

theorem Bar.expects_over {b : Bar} {n : Nat} (h : 2 ^ 32 ≤ b.expect + n) : b.expects n = { b with ovf := true } := if_pos (by omega)

theorem Bar.land_fits {b : Bar} {n : Nat} (h : b.landed + n < 2 ^ 32) : b.land n = { b with landed := b.landed + n } :=
  if_neg (by omega)

theorem Bar.land_over {b : Bar} {n : Nat} (h : 2 ^ 32 ≤ b.landed + n) : b.land n = { b with landed := 2 ^ 32 - 1, ovf := true } :=
  if_pos (by omega)

/-! ### Paths asleep on an object (R121 to R123) -/

/-- A change of a group that leaves its teams leaves every path. -/
theorem State.at_modGroup {s : State} {r : Ref} {c : Cur} (gid : Nat) {f : Group → Group} (hf : ∀ g, (f g).teams = g.teams)
    (h : s.at r = some c) : ∃ d, (s.modGroup gid f).at r = some d ∧ d.t = c.t ∧ d.p = c.p := by
  obtain ⟨hr, hg, ht, hp⟩ := State.at_some.1 h
  by_cases same : r.gid = gid
  · refine ⟨{ c with g := f c.g }, State.at_some.2 ⟨hr, ?_, (hf c.g).symm ▸ ht, hp⟩, rfl, rfl⟩
    rw [State.modGroup_groups, ← same, tget_tmod_self, hg]
    rfl
  · refine ⟨c, State.at_some.2 ⟨hr, ?_, ht, hp⟩, rfl, rfl⟩
    rw [State.modGroup_groups, tget_tmod, if_neg same, hg]

theorem State.at_mapPaths {s : State} {r : Ref} {c : Cur} (f : Path → Path) (h : s.at r = some c) :
    ∃ d, (s.mapPaths f).at r = some d ∧ d.p = f c.p := by
  obtain ⟨hr, hg, ht, hp⟩ := State.at_some.1 h
  let t : Team := { c.t with paths := tmap c.t.paths fun _ p => f p }
  let g : Group := { c.g with teams := tmap c.g.teams fun _ t => { t with paths := tmap t.paths fun _ p => f p } }
  refine ⟨{ r := c.r, g := g, t := t, p := f c.p }, State.at_some.2 ⟨hr, ?_, ?_, ?_⟩, rfl⟩
  · simp [State.mapPaths, hg, g]
  · simp [g, ht, t]
  · simp [t, hp]

theorem Path.wakeOn_asleep {p : Path} {gid off : Nat} (h : p.status = .asleep gid off) (err : Option Nat) :
    p.wakeOn gid off err = { p with status := .running, wake := some err } := if_pos h

theorem Path.wakeOn_other {p : Path} {gid off : Nat} (h : p.status ≠ .asleep gid off) (err : Option Nat) : p.wakeOn gid off err = p :=
  if_neg h

/-- What a step on an object tells its sleepers, where it tells them something (R121, R122): that the phase has changed, or the error
that it leaves. -/
def Bar.wakes (old new : Bar) : Option (Option Nat) :=
  if new.phase ≠ old.phase then some none else if new.error ≠ old.error ∧ new.error.isSome then some new.error else none

/-- A path after a step on an object. -/
theorem State.at_barStep {s : State} {gid off : Nat} {f : Bar → Bar} {r : Ref} {c d : Cur} (hc : s.at r = some c)
    (hd : (s.barStep gid off f).at r = some d) :
    d.p = match (s.bar gid off).wakes (f (s.bar gid off)).check with
      | none => c.p
      | some err => c.p.wakeOn gid off err := by
  obtain ⟨e, he, -, path⟩ : ∃ e, (s.spadPut gid off (bytesLE 16 (f (s.bar gid off)).check.toNat)).at r = some e ∧ e.t = c.t ∧ e.p = c.p :=
    State.at_modGroup gid (fun _ => rfl) hc
  have woken (err : Option Nat) (hd : ((s.spadPut gid off (bytesLE 16 (f (s.bar gid off)).check.toNat)).mapPaths
      (Path.wakeOn gid off err)).at r = some d) : d.p = c.p.wakeOn gid off err := by
    obtain ⟨e', he', path'⟩ := State.at_mapPaths (Path.wakeOn gid off err) he
    rw [← Option.some.inj (he'.symm.trans hd), path', path]
  unfold State.barStep at hd
  unfold Bar.wakes
  dsimp only at hd
  split at hd
  · next h => rw [if_pos h]; exact woken none hd
  · next h =>
    rw [if_neg h]
    split at hd
    · next h' => rw [if_pos h']; exact woken _ hd
    · next h' => rw [if_neg h', ← Option.some.inj (he.symm.trans hd), path]

/-- Settles O47: the bits of an object, the check after each step of Table 5-2, and what a step tells the object's sleepers. -/
theorem barrierObjects : Obligations.BarrierObjects := by
  unfold Obligations.BarrierObjects
  refine ⟨fun b h => ⟨Bar.toNat_lt h, Bar.ofNat_toNat h, fun s gid off => State.bar_spadPut off h⟩, ?steps, fun b => Bar.check_error,
    ?sleepers⟩
  case steps =>
    intro b hovf hserr done
    have all : b.arrive b.pend = { b with pend := 0 } := by rw [Bar.arrive_few (Nat.le_refl _), Nat.sub_self]
    refine ⟨fun n h => ?_, fun h => ?_, fun h => ?_, fun h => ?_, fun n h => ?_, fun n h => ?_, fun n h hp => ?_, fun n h => ?_,
      fun n h hp => ?_, fun n h hp he => ?_⟩
    · rw [Bar.arrive_few (Nat.le_of_lt h)]
      exact Bar.check_pending hovf hserr (Nat.sub_ne_zero_of_lt h)
    · rw [all]
      exact Bar.check_complete hovf hserr rfl h
    · rw [all]
      exact Bar.check_awaits hovf hserr rfl h
    · rw [all]
      exact Bar.check_overrun hovf hserr rfl h
    · rw [Bar.arrive_many h]
      exact Bar.check_error (.inl rfl)
    · rw [Bar.expects_over h]
      exact Bar.check_error (.inl rfl)
    · rw [Bar.expects_fits h]
      exact Bar.check_pending hovf hserr hp
    · rw [Bar.land_over h]
      exact Bar.check_error (.inl rfl)
    · rw [Bar.land_fits h]
      exact Bar.check_pending hovf hserr hp
    · rw [Bar.land_fits h]
      exact Bar.check_complete hovf hserr hp he
  case sleepers =>
    intro s gid off f r c d hc hd b changed fails
    have after := State.at_barStep hc hd
    refine ⟨fun h => ?_, fun asleep h => ?_, fun asleep h hf => ?_⟩
    · rcases h with awake | ⟨same, sound⟩
      · rw [after]
        split
        · rfl
        · exact Path.wakeOn_other awake _
      · rw [after, show (s.bar gid off).wakes b = none from (if_neg same).trans (if_neg sound)]
    · rw [after, show (s.bar gid off).wakes b = some none from if_pos h]
      exact Path.wakeOn_asleep asleep none
    · rw [after, show (s.bar gid off).wakes b = some b.error from (if_neg h).trans (if_pos hf)]
      exact Path.wakeOn_asleep asleep _

end Sys2Proof.Machine
end

section
/-! PROOFS. What accesses and releases of a core leave of groups (02 R42 to R63, R44, 15 R339): scratchpads, and of every path that there
is the registers of its team's lanes and its team's markers. Register writes only wait, and an LDF that is decided writes FUTSTAT. -/

namespace Sys2Proof.Machine

/-- Every group there was is there with its scratchpad, and every path with the lanes and the markers of its team. -/
structure State.KeepsLanes (s t : State) : Prop where
  spad : ∀ n g, tget s.groups n = some g → ∃ h, tget t.groups n = some h ∧ h.spad = g.spad
  path : ∀ r c, s.at r = some c → ∃ d, t.at r = some d ∧ d.t.lanes = c.t.lanes ∧ d.t.markers = c.t.markers

namespace State.KeepsLanes

variable {s t u : State}

theorem of_groups (h : t.groups = s.groups) : s.KeepsLanes t :=
  ⟨fun n g hg => ⟨g, by rw [h, hg], rfl⟩, fun r c hc => ⟨c, by rw [← hc]; simp only [State.at, h], rfl, rfl⟩⟩

theorem refl (s : State) : s.KeepsLanes s := of_groups rfl

theorem trans (h : s.KeepsLanes t) (k : t.KeepsLanes u) : s.KeepsLanes u := by
  refine ⟨fun n g hg => ?_, fun r c hc => ?_⟩
  · obtain ⟨g1, hg1, same⟩ := h.spad n g hg
    obtain ⟨g2, hg2, same'⟩ := k.spad n g1 hg1
    exact ⟨g2, hg2, same'.trans same⟩
  · obtain ⟨d, hd, lanes, markers⟩ := h.path r c hc
    obtain ⟨e, he, lanes', markers'⟩ := k.path r d hd
    exact ⟨e, he, lanes'.trans lanes, markers'.trans markers⟩

theorem ite {c : Prop} [Decidable c] (h : s.KeepsLanes t) (k : s.KeepsLanes u) : s.KeepsLanes (if c then t else u) := by
  split
  · exact h
  · exact k

theorem foldl {α : Type} {f : State → α → State} (h : ∀ (u : State) a, u.KeepsLanes (f u a)) (l : List α) (s : State) :
    s.KeepsLanes (l.foldl f s) := by
  induction l generalizing s with
  | nil => exact refl s
  | cons a l ih => exact (h s a).trans (ih (f s a))

/-- A barrier object is as its group's scratchpad holds it. -/
theorem bar (h : s.KeepsLanes t) {gid : Nat} (hg : (tget s.groups gid).isSome) (off : Nat) : t.bar gid off = s.bar gid off := by
  obtain ⟨g, hg⟩ := Option.isSome_iff_exists.1 hg
  obtain ⟨g', hg', spad⟩ := h.spad gid g hg
  simp only [State.bar, State.spadBytes, hg, hg', spad]

end State.KeepsLanes

section
variable (s : State)

/-- A change of a team that leaves its lanes, its markers and the slots of its paths. -/
theorem State.lanes_modTeam (gid role : Nat) {f : Team → Team} (hl : ∀ t : Team, (f t).lanes = t.lanes)
    (hm : ∀ t : Team, (f t).markers = t.markers)
    (hp : ∀ (t : Team) slot p, tget t.paths slot = some p → ∃ q, tget (f t).paths slot = some q) :
    s.KeepsLanes (s.modTeam gid role f) := by
  refine ⟨fun n g hg => modTeam_spad hg gid role f, fun r c hc => ?_⟩
  obtain ⟨hr, hg, ht, hp'⟩ := State.at_some.1 hc
  by_cases group : r.gid = gid
  · by_cases team : r.role = role
    · subst group team
      obtain ⟨q, hq⟩ := hp c.t r.slot c.p hp'
      exact ⟨_, State.at_modTeam hc f hq, hl c.t, hm c.t⟩
    · refine ⟨{ c with g := c.g.modTeam role f }, State.at_some.2 ⟨hr, ?_, ?_, hp'⟩, rfl, rfl⟩
      · simp [State.modTeam, State.modGroup, ← group, hg]
      · simp [Group.modTeam, tget_tmod, team, ht]
  · refine ⟨c, State.at_some.2 ⟨hr, ?_, ht, hp'⟩, rfl, rfl⟩
    simp [State.modTeam, State.modGroup, tget_tmod, group, hg]

theorem State.lanes_land (gid role clause : Nat) (w : Pending) : s.KeepsLanes (s.land gid role clause w) := by
  have named : s.KeepsLanes { s with fresh := s.fresh + 1 } := .of_groups rfl
  refine named.trans (State.lanes_modTeam _ gid role
    (f := fun t => { t with landing := t.landing ++ [{ id := s.fresh, clause := clause, what := w }] }) (fun _ => rfl) (fun _ => rfl) ?_)
  exact fun _ _ p hp => ⟨p, hp⟩

theorem State.lanes_landV (r : Ref) (clause n : Nat) (vals : List (Nat × Word)) : s.KeepsLanes (s.landV r clause n vals) :=
  .foldl (fun u _ => u.lanes_land ..) _ s

theorem State.lanes_landP (r : Ref) (clause n : Nat) (vals : List (Nat × Bool)) : s.KeepsLanes (s.landP r clause n vals) :=
  .foldl (fun u _ => u.lanes_land ..) _ s

theorem State.lanes_modPath (r : Ref) (f : Path → Path) : s.KeepsLanes (s.modPath r f) := by
  refine s.lanes_modTeam _ _ (fun _ => rfl) (fun _ => rfl) fun t slot p hp => ?_
  dsimp only
  rw [tget_tmod]
  split
  · next h => exact ⟨f p, by rw [← h, hp]; rfl⟩
  · exact ⟨p, hp⟩

theorem State.lanes_opDone (gid role op : Nat) : s.KeepsLanes (s.opDone gid role op) :=
  s.lanes_modTeam _ _ (fun _ => rfl) (fun _ => rfl) fun _ _ p hp => ⟨p, hp⟩

theorem State.lanes_advance (r : Ref) : s.KeepsLanes (s.advance r) := by
  refine s.lanes_modTeam _ _ (fun t => (t.sameRegs_advance r.slot).lanes) (fun t => (t.sameRegs_advance r.slot).markers)
    fun t slot p hp => ?_
  obtain ⟨q, hq, -⟩ := (t.sameRegs_advance r.slot).paths slot p hp
  exact ⟨q, hq⟩

theorem State.acquire_groups (core rank : Nat) : (s.acquire core rank).groups = s.groups := by
  unfold State.acquire
  split <;> rfl

theorem State.lanes_seeHome (core line : Nat) : s.KeepsLanes (s.seeHome core line) := by
  have dropped (b : Bool) : s.KeepsLanes (if b then (s.seen core line).dropRdc (dieOf core) line else s.seen core line) :=
    .ite (.of_groups rfl) (.of_groups rfl)
  have purged (t : State) (f : Core → Core) : t.KeepsLanes (t.modCore core f) := .of_groups rfl
  unfold State.seeHome
  exact .ite ((dropped _).trans (purged ..)) (dropped _)

theorem State.lanes_decideLdf (e : Defer) (value : Dbl) (ok : Bool) (code : BitVec 2) : s.KeepsLanes (s.decideLdf e value ok code) := by
  unfold State.decideLdf
  split
  · exact .refl s
  next l _ =>
    have saw : s.KeepsLanes (if ok then s.seeHome e.core (e.cell / 16) else s) := .ite (s.lanes_seeHome ..) (.refl s)
    have counted (t : State) (n : Tab Ldf) : t.KeepsLanes { t with ldfs := n } := .of_groups rfl
    have acquired (t : State) : t.KeepsLanes (match l.acq, tget t.ctxs e.asid with
        | some scope, some x => t.acquire e.core (scopeRank x e.core scope)
        | _, _ => t) := by
      split
      · exact .of_groups (t.acquire_groups ..)
      · exact .refl t
    have left (v w p n) := (((saw.trans (State.lanes_landV _ e.path l.clause e.dst v)).trans
      (State.lanes_landV _ e.path l.clause (e.dst + 1) w)).trans (State.lanes_landP _ e.path l.clause e.status p)).trans (counted _ n)
    dsimp only
    refine .ite (.trans (.trans (.ite (left ..) ((left ..).trans (State.lanes_modPath ..))) (acquired _)) (State.lanes_opDone ..)) (left ..)

theorem State.lanes_answerCell (cell : Nat) : s.KeepsLanes (s.answerCell cell) := by
  have taken (l : List Defer) : s.KeepsLanes { s with defer := l } := .of_groups rfl
  unfold State.answerCell
  exact .ite (.refl s) ((taken _).trans (.foldl (fun u e => u.lanes_decideLdf e _ true 0) _ _))

theorem State.invalidate_groups (line : Nat) (a : Agent) : (s.invalidate line a).groups = s.groups := by
  unfold State.invalidate
  split <;> rfl

/-- A write at a home slice changes of groups no more than the futures that it answers do. -/
theorem State.lanes_writeLine (a : Agent) (line : Nat) (bs : List (Nat × Byte)) : s.KeepsLanes (s.writeLine a line bs) := by
  have told (t : State) (cells : List Nat) : t.KeepsLanes (if t.defer.isEmpty then t else cells.foldl (fun s c => s.answerCell c) t) :=
    .ite (.refl t) (.foldl (fun u c => u.lanes_answerCell c) _ t)
  have put (m : List Host.Cell) (p : List Nat) (d : Tab Dir) :
      s.KeepsLanes (({ s with mem := m, poison := p, l2 := d } : State).invalidate line a) := .of_groups (State.invalidate_groups ..)
  have passed (t : State) (l : List RdcFill) (d : Nat) (c : Prop) [Decidable c] (f : Die → Die) : t.KeepsLanes
      (if c then ({ t with rdcFill := l } : State).modDie d f else { t with rdcFill := l }) := .ite (.of_groups rfl) (.of_groups rfl)
  unfold State.writeLine
  refine .ite (.refl s) ?_
  dsimp only
  refine .trans ?_ (told ..)
  split
  · exact put ..
  · exact (put ..).trans (passed ..)

theorem State.lanes_flushAmod (core line : Nat) : s.KeepsLanes (s.flushAmod core line) := by
  have poisoned (t : State) (mask : BitVec 128) : t.KeepsLanes (t.poisonMask line mask) := .ite (.refl t) (.of_groups rfl)
  have cleared (f : Core → Core) : s.KeepsLanes (s.modCore core f) := .of_groups rfl
  unfold State.flushAmod
  split
  · exact .refl s
  · exact ((cleared _).trans (State.lanes_writeLine ..)).trans (poisoned ..)

theorem State.lanes_recall (line : Nat) : s.KeepsLanes (s.recall line) := by
  unfold State.recall
  split
  · exact .refl s
  · exact (s.lanes_flushAmod ..).trans (.of_groups rfl)

theorem State.dropRdcs_groups {α : Type} (die line : α → Nat) (ds : List α) :
    (ds.foldl (fun s d => s.dropRdc (die d) (line d)) s).groups = s.groups :=
  foldl_same (f := fun s d => s.dropRdc (die d) (line d)) State.groups (fun _ _ => rfl) ds s

theorem State.lanes_l2Use (line : Nat) (low : Bool) : s.KeepsLanes (s.l2Use line low) := by
  have entered (t : State) (f : Dir → Dir) : t.KeepsLanes (t.modDir line f) := .of_groups rfl
  have counted : s.KeepsLanes { s with free := s.free + 1 } := .of_groups rfl
  have dropped (t : State) (v : Nat) : t.KeepsLanes (t.l2Drop v) :=
    ((t.lanes_recall v).trans (.of_groups (State.dropRdcs_groups _ id (fun _ => v) _))).trans (.of_groups rfl)
  unfold State.l2Use
  refine .ite (.refl s) (.trans ?_ (entered ..))
  dsimp only
  refine .ite (.refl s) (.ite (.refl s) ?_)
  split
  · exact counted
  · exact counted.trans (dropped ..)

theorem State.lanes_writeBack (core line : Nat) : s.KeepsLanes (s.writeBack core line) := by
  have poisoned (t : State) (mask : BitVec 128) : t.KeepsLanes (t.poisonMask line mask) := .ite (.refl t) (.of_groups rfl)
  have cleaned (t : State) (mask : BitVec 128) (f : Line → Line) : t.KeepsLanes ((t.poisonMask line mask).l1Mod core line f) :=
    (poisoned t mask).trans (.of_groups rfl)
  unfold State.writeBack
  split
  · exact .refl s
  · exact .ite (.refl s) ((((s.lanes_recall line).trans (State.lanes_l2Use ..)).trans (State.lanes_writeLine ..)).trans (cleaned ..))

theorem State.deliverIf_groups (sel : RdcInv → Bool) : (s.deliverIf sel).groups = s.groups :=
  State.dropRdcs_groups s RdcInv.die RdcInv.line _

theorem State.only_deliverIf (sel : RdcInv → Bool) : s.OnlyMemory (s.deliverIf sel) :=
  .foldl (fun u (e : RdcInv) => (u.dirty_dropRdc e.die e.line).toOnlyMemory) _ s

/-- A release leaves scratchpads, lanes and markers (R44). -/
theorem State.lanes_release (core rank : Nat) : s.KeepsLanes (s.release core rank) := by
  have back (ls : List Nat) : s.KeepsLanes (ls.foldl (fun u l => u.writeBack core l) s) := .foldl (fun u l => u.lanes_writeBack core l) ls s
  unfold State.release
  exact .ite ((back _).trans (.of_groups (State.deliverIf_groups ..))) (back _)

theorem State.only_release (core rank : Nat) : s.OnlyMemory (s.release core rank) := by
  have back (ls : List Nat) : s.OnlyMemory (ls.foldl (fun u l => u.writeBack core l) s) := .foldl (fun u l => u.only_writeBack core l) ls s
  unfold State.release
  exact .ite ((back _).trans (State.only_deliverIf ..)) (back _)

end

namespace State.OnlyMemory

variable {s t : State}

/-- Accesses change no context. -/
theorem ctxs (h : s.OnlyMemory t) : t.ctxs = s.ctxs := by
  have same : t.bare.ctxs = s.bare.ctxs := by rw [h.rest]
  exact same

/-- No time passes in an access. -/
theorem etime (h : s.OnlyMemory t) : t.etime = s.etime := by
  have same : t.bare.etime = s.bare.etime := by rw [h.rest]
  exact same

end State.OnlyMemory

end Sys2Proof.Machine
end

section
/-! PROOFS. Barrier instructions (05 R117 to R123, 15 R345, R346): the checks that they share, what BINIT writes, and each instruction by
the cases of its object. -/

namespace Sys2Proof.Machine

/-! ### The object that A names (R117, R346) -/

section
variable {s : State} {c : Cur} {o : OpG} {gid a : Nat}

theorem State.atBar_ok (aligned : (c.p.getS o.a.toNat).toNat % 16 = 0)
    (inside : s.spadWhere c.r.gid (c.p.getS o.a.toNat).toNat 16 = .ok (gid, a)) (f : Nat → Nat → State) : s.atBar c o f = f gid a := by
  simp only [State.atBar, checkL_ok aligned inside]

theorem State.ifSound_none (h : (s.bar gid a).error = none) (t : State) : s.ifSound c gid a t = t := by
  simp only [State.ifSound, h]

theorem State.ifSound_some {d : Nat} (h : (s.bar gid a).error = some d) (t : State) :
    s.ifSound c gid a t = s.takeTrap c.r 0x0C d 0 0 false := by
  simp only [State.ifSound, h]

end

theorem tget_isSome_of_mem {α : Type} {t : Tab α} {e : Nat × α} (h : e ∈ t) : (tget t e.1).isSome := by
  induction t with
  | nil => cases h
  | cons d t ih =>
    unfold tget
    split
    · rfl
    next other => exact ih ((List.mem_cons.1 h).resolve_left fun first => other (by rw [first]))

/-- Bytes that lie in a scratchpad lie in that of a group (R29). -/
theorem State.spadWhere_group {s : State} {gid off n k a : Nat} (h : s.spadWhere gid off n = .ok (k, a)) : (tget s.groups k).isSome := by
  have member (gang m : Nat) (hm : s.memberOf gang m = some k) : (tget s.groups k).isSome := by
    obtain ⟨e, he, rfl⟩ := Option.map_eq_some_iff.1 hm
    exact tget_isSome_of_mem (List.mem_of_find?_eq_some he)
  unfold State.spadWhere at h
  split at h
  · cases h
  next g hg =>
    dsimp only at h
    split at h
    · split at h
      · cases h
        rw [hg]
        rfl
      · cases h
    · split at h
      · cases h
      split at h
      · cases h
      split at h
      · cases h
      split at h
      · cases h
      next hm =>
        cases h
        exact member _ _ hm

/-! ### What BINIT writes (R118, R346) -/

/-- A scratchpad with a new object, and the sleepers awake whose object the new one's phase changes. -/
def State.newBar (s : State) (gid off n : Nat) : State :=
  let t := s.spadPut gid off (bytesLE 16 (Bar.init n).toNat)
  if (s.bar gid off).phase ≠ 0 then t.mapPaths (Path.wakeOn gid off none) else t

theorem Path.wakeOn_regs (gid off : Nat) (err : Option Nat) (p : Path) :
    (p.wakeOn gid off err).s = p.s ∧ (p.wakeOn gid off err).futstat = p.futstat := by
  unfold Path.wakeOn
  split <;> exact ⟨rfl, rfl⟩

section
variable (s : State)

theorem State.mapPaths_spad (f : Path → Path) {n : Nat} {g : Group} (hg : tget s.groups n = some g) :
    ∃ h, tget (s.mapPaths f).groups n = some h ∧ h.spad = g.spad := by
  simp only [State.mapPaths, tget_tmap, hg, Option.map_some]
  exact ⟨_, rfl, rfl⟩

theorem State.mapPaths_bar (f : Path → Path) (gid off : Nat) : (s.mapPaths f).bar gid off = s.bar gid off := by
  simp only [State.bar, State.spadBytes, State.mapPaths, tget_tmap]
  cases tget s.groups gid <;> rfl

/-- A change of every path that leaves their files and FUTSTAT. -/
theorem sameRegs_mapPaths {f : Path → Path} (hf : ∀ p, (f p).s = p.s ∧ (f p).futstat = p.futstat) : s.SameRegs (s.mapPaths f) := by
  intro r c hc
  obtain ⟨hr, hg, ht, hp⟩ := State.at_some.1 hc
  let t : Team := { c.t with paths := tmap c.t.paths fun _ p => f p }
  let g : Group := { c.g with teams := tmap c.g.teams fun _ t => { t with paths := tmap t.paths fun _ p => f p } }
  refine ⟨{ r := c.r, g := g, t := t, p := f c.p }, State.at_some.2 ⟨hr, ?_, ?_, ?_⟩, ?_⟩
  · simp [State.mapPaths, hg, g]
  · simp [g, ht, t]
  · simp [t, hp]
  · simp only [Cur.regs, t, hf]

variable {gid off n : Nat}

theorem Bar.init_inRange (h : n < 4096) : (Bar.init n).InRange := ⟨Nat.zero_lt_succ _, h, h, Nat.two_pow_pos 32, Nat.two_pow_pos 32⟩

theorem State.newBar_bar (hn : n < 4096) (hg : (tget s.groups gid).isSome) : (s.newBar gid off n).bar gid off = Bar.init n := by
  have put := State.bar_spadPut off (Bar.init_inRange hn) hg
  unfold State.newBar
  dsimp only
  split
  · rw [State.mapPaths_bar, put]
  · exact put

theorem State.newBar_onlyGroups : s.OnlyGroups (s.newBar gid off n) := by
  unfold State.newBar
  dsimp only
  split <;> rfl

theorem State.newBar_sameRegs : s.SameRegs (s.newBar gid off n) := by
  have put : s.SameRegs (s.spadPut gid off (bytesLE 16 (Bar.init n).toNat)) := sameRegs_modGroup s gid fun _ => rfl
  unfold State.newBar
  dsimp only
  split
  · exact put.trans (sameRegs_mapPaths _ (Path.wakeOn_regs gid off none))
  · exact put

/-- Of all scratchpads the 16 bytes of the object alone change. -/
theorem State.newBar_spad {k : Nat} {g : Group} (hg : tget s.groups k = some g) : ∃ h, tget (s.newBar gid off n).groups k = some h ∧
    ∀ b, k ≠ gid ∨ b < off ∨ off + 16 ≤ b → memGet h.spad b = memGet g.spad b := by
  obtain ⟨g1, hg1, bytes⟩ := spadPut_byte hg gid off (bytesLE 16 (Bar.init n).toNat)
  have kept (b : Nat) (hb : k ≠ gid ∨ b < off ∨ off + 16 ≤ b) : memGet g1.spad b = memGet g.spad b := by
    rcases bytes b with ⟨same, -⟩ | ⟨⟨rfl, low, high⟩, -⟩
    · exact same
    · rw [length_bytesLE] at high
      omega
  unfold State.newBar
  dsimp only
  split
  · obtain ⟨g2, hg2, spad⟩ := State.mapPaths_spad _ (Path.wakeOn gid off none) hg1
    exact ⟨g2, hg2, fun b hb => by rw [spad, kept b hb]⟩
  · exact ⟨g1, hg1, kept⟩

end

theorem State.isSome_newBar {s : State} {gid off n k : Nat} (h : (tget s.groups k).isSome) : (tget (s.newBar gid off n).groups k).isSome := by
  obtain ⟨g, hg⟩ := Option.isSome_iff_exists.1 h
  obtain ⟨g', hg', -⟩ := s.newBar_spad (gid := gid) (off := off) (n := n) hg
  rw [hg']
  rfl

/-! ### BTEST (R122) -/

/-- A predicate that waits for some lanes, as their outcomes. -/
theorem landOuts_predicate (s : State) (r : Ref) (clause d : Nat) (b : Bool) {ls : List Nat} (h : ls ≠ []) :
    s.landOuts r clause (ls.map fun l => (l, { m := [], v := [], p := [(d, b)], fail := false })) =
      s.landP r clause d (ls.map fun l => (l, b)) := by
  have written : (ls.flatMap fun _ => [d]).dedup = [d] := by
    rw [show (ls.flatMap fun _ => [d]) = List.replicate ls.length d by
      simp [← List.map_eq_flatMap], List.replicate_dedup]
    simpa using h
  have nothing : (ls.flatMap fun _ => ([] : List Nat)) = [] := List.flatMap_eq_nil_iff.2 fun _ _ => rfl
  simp [State.landOuts, List.flatMap_map, written, nothing, List.filterMap_map, tget, Function.comp_def]

theorem State.look_acquire {s : State} {c : Cur} (h : s.look = some c) (core rank : Nat) : (s.acquire core rank).look = some c := by
  unfold State.acquire
  split <;> exact h

/-- An acquire is done or not before the writes of BTEST are added: they are the same. -/
theorem State.landed_acquire (s : State) (core rank : Nat) (r : Ref) (clause : Nat) (outs : List (Nat × LaneOut)) (b : Bool) :
    (if b then (s.landOuts r clause outs).acquire core rank else s.landOuts r clause outs) =
      (if b then s.acquire core rank else s).landOuts r clause outs := by
  cases b with
  | true => exact acquire_landOuts ..
  | false => rfl

/-! ### Each instruction -/

section
variable {s : State} {c : Cur} {k : Ctx} {o : OpG} {x : XBar} (hk : tget s.ctxs c.g.asid = some k)
include hk

theorem exec_bwait_woken (hi : Issues s (.bwait o x) c) (hw : c.p.wake = some none) : exec (.bwait o x) s =
    .next (((s.modPath c.r fun p => { p with wake := none }).acquire c.g.core (c.rank k x.scope)).advance c.r) := by
  refine (exec_issued rfl hi hk).trans ?_
  simp only [hw]

theorem exec_bwait_failed (hi : Issues s (.bwait o x) c) {d : Nat} (hw : c.p.wake = some (some d)) : exec (.bwait o x) s =
    .next ((s.modPath c.r fun p => { p with wake := none }).takeTrap c.r 0x0C d 0 0 false) := by
  refine (exec_issued rfl hi hk).trans ?_
  simp only [hw]

section
variable (idle : c.workers s.guard = [])
include idle

/-- Without a worker lane BINIT, BARV and BARVX are their releases. -/
theorem exec_releasing_idle : ∀ i ∈ [Instr.binit o x, .barv o x, .barvx o x], Issues s i c →
    exec i s = .next ((s.release c.g.core (c.rank k x.scope)).advance c.r) := by
  have none : (c.workers s.guard).isEmpty = true := by rw [idle]; rfl
  simp only [List.forall_mem_cons, List.not_mem_nil, false_implies, implies_true, and_true]
  refine ⟨fun hi => ?_, fun hi => ?_, fun hi => ?_⟩ <;>
    exact (exec_issued rfl hi hk).trans (congrArg Host.Outcome.next (if_pos none))

/-- Without a worker lane a BWAIT that nothing has woken, and BTEST, are their acquires. -/
theorem exec_acquiring_idle : ∀ i ∈ [Instr.bwait o x, .btest o x], Issues s i c → c.p.wake = none →
    exec i s = .next ((s.acquire c.g.core (c.rank k x.scope)).advance c.r) := by
  have none : (c.workers s.guard).isEmpty = true := by rw [idle]; rfl
  simp only [List.forall_mem_cons, List.not_mem_nil, false_implies, implies_true, and_true]
  refine ⟨fun hi hw => ?_, fun hi _ => ?_⟩
  · refine (exec_issued rfl hi hk).trans ?_
    simp only [hw]
    rw [if_pos none]
  · exact (exec_issued rfl hi hk).trans (congrArg Host.Outcome.next (if_pos none))

omit hk in
theorem exec_bexp_idle (hi : Issues s (.bexp o x) c) : exec (.bexp o x) s = .next (s.advance c.r) := by
  have none : (c.workers s.guard).isEmpty = true := by rw [idle]; rfl
  exact (issue_of hi _).trans (congrArg Host.Outcome.next (if_pos none))

end

section
variable {gid a : Nat} (hw : c.workers s.guard ≠ []) (aligned : (c.p.getS o.a.toNat).toNat % 16 = 0)
  (inside : s.spadWhere c.r.gid (c.p.getS o.a.toNat).toNat 16 = .ok (gid, a))
include hw aligned inside

theorem exec_binit_range (hi : Issues s (.binit o x) c) (hn : c.barOperand o x = 0 ∨ 4096 ≤ c.barOperand o x) :
    exec (.binit o x) s = .next (s.takeTrap c.r 0x0C 2 0 0 false) := by
  have some : ¬ (c.workers s.guard).isEmpty = true := by simpa using hw
  refine (exec_issued rfl hi hk).trans (congrArg Host.Outcome.next ?_)
  dsimp only
  rw [if_neg some, State.atBar_ok aligned inside, if_pos (hn.imp_right fun h => by omega)]

theorem exec_binit (hi : Issues s (.binit o x) c) (pos : 0 < c.barOperand o x) (hn : c.barOperand o x < 4096) :
    exec (.binit o x) s = .next (((s.newBar gid a (c.barOperand o x)).release c.g.core (c.rank k x.scope)).advance c.r) := by
  have some : ¬ (c.workers s.guard).isEmpty = true := by simpa using hw
  refine (exec_issued rfl hi hk).trans (congrArg Host.Outcome.next ?_)
  dsimp only
  rw [if_neg some, State.atBar_ok aligned inside, if_neg (by omega)]
  rfl

theorem exec_barv (hi : Issues s (.barv o x) c) : exec (.barv o x) s = .next
    (let u := s.release c.g.core (c.rank k x.scope)
     u.ifSound c gid a ((u.barStep gid a fun b => b.arrive 1).advance c.r)) := by
  have some : ¬ (c.workers s.guard).isEmpty = true := by simpa using hw
  refine (exec_issued rfl hi hk).trans (congrArg Host.Outcome.next ?_)
  exact (if_neg some).trans (State.atBar_ok aligned inside _)

theorem exec_barvx (hi : Issues s (.barvx o x) c) : exec (.barvx o x) s = .next
    (let u := s.release c.g.core (c.rank k x.scope)
     u.ifSound c gid a ((u.barStep gid a fun b =>
       (b.expects (c.p.getS o.b.toNat).toNat).arrive x.value.toNat).advance c.r)) := by
  have some : ¬ (c.workers s.guard).isEmpty = true := by simpa using hw
  refine (exec_issued rfl hi hk).trans (congrArg Host.Outcome.next ?_)
  exact (if_neg some).trans (State.atBar_ok aligned inside _)

omit hk in
theorem exec_bexp (hi : Issues s (.bexp o x) c) : exec (.bexp o x) s = .next
    (s.ifSound c gid a ((s.barStep gid a fun b => b.expects (c.barOperand o x)).advance c.r)) := by
  have some : ¬ (c.workers s.guard).isEmpty = true := by simpa using hw
  exact (issue_of hi _).trans (congrArg Host.Outcome.next ((if_neg some).trans (State.atBar_ok aligned inside _)))

theorem exec_bwait (hi : Issues s (.bwait o x) c) (wake : c.p.wake = none) : exec (.bwait o x) s = .next
    (s.ifSound c gid a (if (s.bar gid a).phase ≠ c.barOperand o x % 16 then (s.acquire c.g.core (c.rank k x.scope)).advance c.r
      else s.modPath c.r fun p => { p with status := .asleep gid a })) := by
  have some : ¬ (c.workers s.guard).isEmpty = true := by simpa using hw
  refine (exec_issued rfl hi hk).trans (congrArg Host.Outcome.next ?_)
  simp only [wake]
  exact (if_neg some).trans (State.atBar_ok aligned inside _)

theorem exec_btest (hi : Issues s (.btest o x) c) : exec (.btest o x) s = .next
    (let changed : Bool := (s.bar gid a).phase ≠ c.barOperand o x % 16
     let u := s.landP c.r c.p.clauseId o.d.toNat ((c.act s.guard).map fun l => (l, changed))
     s.ifSound c gid a ((if changed then u.acquire c.g.core (c.rank k x.scope) else u).advance c.r)) := by
  have some : ¬ (c.workers s.guard).isEmpty = true := by simpa using hw
  refine (exec_issued rfl hi hk).trans (congrArg Host.Outcome.next ?_)
  exact (if_neg some).trans (State.atBar_ok aligned inside _)

/-- BTEST of a sound object: its predicate waits in every active lane, after an acquire where the phase has changed. -/
theorem btest_effect (hi : Issues s (.btest o x) c) (sound : (s.bar gid a).error = none) :
    let changed : Bool := (s.bar gid a).phase ≠ c.barOperand o x % 16
    ∃ t new, exec (.btest o x) s = .next t ∧
      Waits c ((c.act s.guard).map fun l => (l, { m := [], v := [], p := [(o.d.toNat, changed)], fail := false })) new ∧
      Effect (if changed then s.acquire c.g.core (c.rank k x.scope) else s) c (fun _ r => r)
        (fun u => { u with landing := u.landing ++ new }) id t := by
  intro changed
  have active : c.act s.guard ≠ [] := fun none => hw (by rw [Cur.workers, none]; rfl)
  let outs : List (Nat × LaneOut) := (c.act s.guard).map fun l => (l, { m := [], v := [], p := [(o.d.toNat, changed)], fail := false })
  have look : (if changed then s.acquire c.g.core (c.rank k x.scope) else s).look = some c := by
    split
    · exact State.look_acquire hi.1 ..
    · exact hi.1
  obtain ⟨new, waits, effect⟩ := effect_landOuts look outs fun e he => by
    obtain ⟨l, hl, rfl⟩ := List.mem_map.1 he
    exact (tget_graph (fun _ => ({ m := [], v := [], p := [(o.d.toNat, changed)], fail := false } : LaneOut)) _ l).trans (if_pos hl)
  refine ⟨_, new, (exec_btest hk hw aligned inside hi).trans ?_, waits, effect⟩
  dsimp only
  rw [State.ifSound_none sound, ← State.landed_acquire, landOuts_predicate _ _ _ _ _ active]

end

end

/-- Settles O48: each instruction by its meaning in an issue; what BINIT leaves by `State.newBar`, its release by what releases keep. -/
theorem barrierInstructions : Obligations.BarrierInstructions := by
  unfold Obligations.BarrierInstructions
  intro s c k o x hk rank off operand released acquired
  refine ⟨fun idle => ⟨exec_releasing_idle hk idle, exec_acquiring_idle hk idle, exec_bexp_idle idle⟩, fun hi =>
    ⟨exec_bwait_woken hk hi, fun d => exec_bwait_failed hk hi⟩, ?_⟩
  intro gid a hw aligned inside
  refine ⟨fun hi => ⟨fun pos small => ?_, exec_binit_range hk hw aligned inside hi⟩, fun hi sound => ?_, fun hi sound => ?_,
    fun hi sound => ?_, fun hi wake sound => ?_, btest_effect hk hw aligned inside, fun d => ⟨fun hi bad => ?_, fun hi bad => ?_, ?_⟩⟩
  · let u := s.newBar gid a operand
    have group : (tget u.groups gid).isSome := State.isSome_newBar (State.spadWhere_group inside)
    have new : u.bar gid a = Bar.init operand := s.newBar_bar small (State.spadWhere_group inside)
    have kept : u.KeepsLanes ((u.release c.g.core rank).advance c.r) := (u.lanes_release ..).trans (State.lanes_advance ..)
    exact ⟨u, _, exec_binit hk hw aligned inside hi pos small, rfl, new, (kept.bar group a).trans new, s.newBar_onlyGroups,
      s.newBar_sameRegs, fun n g hg => s.newBar_spad hg⟩
  · exact (exec_barv hk hw aligned inside hi).trans (congrArg Host.Outcome.next (State.ifSound_none sound _))
  · exact (exec_bexp hw aligned inside hi).trans (congrArg Host.Outcome.next (State.ifSound_none sound _))
  · exact (exec_barvx hk hw aligned inside hi).trans (congrArg Host.Outcome.next (State.ifSound_none sound _))
  · have ran := (exec_bwait hk hw aligned inside hi wake).trans (congrArg Host.Outcome.next (State.ifSound_none sound _))
    exact ⟨fun changed => ran.trans (congrArg Host.Outcome.next (if_pos changed)),
      fun same => ran.trans (congrArg Host.Outcome.next (if_neg (not_not.2 same)))⟩
  · exact (exec_barv hk hw aligned inside hi).trans (congrArg Host.Outcome.next (State.ifSound_some bad _))
  · exact (exec_barvx hk hw aligned inside hi).trans (congrArg Host.Outcome.next (State.ifSound_some bad _))
  · simp only [List.forall_mem_cons, List.not_mem_nil, false_implies, implies_true, and_true]
    refine ⟨fun hi _ bad => ?_, fun hi wake bad => ?_, fun hi _ bad => ?_⟩
    · exact (exec_bexp hw aligned inside hi).trans (congrArg Host.Outcome.next (State.ifSound_some bad _))
    · exact (exec_bwait hk hw aligned inside hi wake).trans (congrArg Host.Outcome.next (State.ifSound_some bad _))
    · exact (exec_btest hk hw aligned inside hi).trans (congrArg Host.Outcome.next (State.ifSound_some bad _))

end Sys2Proof.Machine
end

section
/-! PROOFS. Markers, FROG and FROGQ (05 R129 to R134, 15 R347, 03 R92, R93): what setting a marker changes, and each instruction. -/

namespace Sys2Proof.Machine

/-! ### A marker set (R129, Table 5-7) -/

/-- A team with a marker set; name 0 is none. -/
def Team.withMarker (t : Team) (k : Nat) (name : BitVec 64) : Team :=
  { t with markers := if name = 0 then tdel t.markers k else tset t.markers k name }

theorem Team.withMarker_marker (t : Team) (k j : Nat) (name : BitVec 64) :
    (t.withMarker k name).marker j = if j = k then name else t.marker j := by
  unfold Team.marker Team.withMarker
  by_cases zero : name = 0
  · simp only [zero, if_true, tget_tdel]
    split <;> rfl
  · simp only [zero, if_false, tget_tset]
    split <;> rfl

/-- The path's team holds a name in a marker, in its other markers and its lanes' registers what it held. -/
def State.HoldsMarker (t : State) (c : Cur) (k : Nat) (name : BitVec 64) : Prop :=
  ∃ d, t.at c.r = some d ∧ d.t.marker k = name ∧ (∀ j, j ≠ k → d.t.marker j = c.t.marker j) ∧ d.t.lanes = c.t.lanes

theorem State.HoldsMarker.keeps {t u : State} {c : Cur} {k : Nat} {name : BitVec 64} (h : t.HoldsMarker c k name) (kept : t.KeepsLanes u) :
    u.HoldsMarker c k name := by
  obtain ⟨d, hd, held, others, lanes⟩ := h
  obtain ⟨e, he, lanes', markers⟩ := kept.path _ _ hd
  have same (j : Nat) : e.t.marker j = d.t.marker j := by rw [Team.marker, markers, Team.marker]
  exact ⟨e, he, (same k).trans held, fun j hj => (same j).trans (others j hj), lanes'.trans lanes⟩

section
variable {s : State} {c : Cur} {k : Nat} {name : BitVec 64}

theorem State.holdsMarker_self (h : s.look = some c) (held : c.t.marker k = name) : s.HoldsMarker c k name :=
  ⟨c, State.look_at h, held, fun _ _ => rfl, rfl⟩

/-- A marker set in the path's team, wherever what came before has kept markers and lanes. -/
theorem State.holdsMarker_modTeam {u : State} (h : s.look = some c) (kept : s.KeepsLanes u) (k : Nat) (name : BitVec 64) :
    (u.modTeam c.r.gid c.r.role fun t => t.withMarker k name).HoldsMarker c k name := by
  obtain ⟨d, hd, lanes, markers⟩ := kept.path _ _ (State.look_at h)
  have slot := (State.at_some.1 hd).2.2.2
  refine ⟨_, State.at_modTeam hd (fun t => t.withMarker k name) slot, ?_, fun j hj => ?_, lanes⟩
  · exact (Team.withMarker_marker ..).trans (if_pos rfl)
  · refine (Team.withMarker_marker ..).trans ((if_neg hj).trans ?_)
    rw [Team.marker, markers, Team.marker]

theorem State.setMarker_same (h : c.t.marker k = name) : s.setMarker c k name = s := if_pos h

theorem State.setMarker_empty (h : c.t.marker k = 0) (hn : c.t.marker k ≠ name) :
    s.setMarker c k name = s.modTeam c.r.gid c.r.role fun t => t.withMarker k name := (if_neg hn).trans (if_pos h)

/-- A name that another replaces is cleared first (R92, R133). -/
theorem State.setMarker_replaces (h : c.t.marker k ≠ 0) (hn : c.t.marker k ≠ name) : s.setMarker c k name =
    ((s.release c.g.core 5).modCtx c.g.asid fun x => { x with resweep := true }).modTeam c.r.gid c.r.role
      fun t => t.withMarker k name := (if_neg hn).trans (if_neg h)

theorem State.setMarker_holds (h : s.look = some c) : (s.setMarker c k name).HoldsMarker c k name := by
  by_cases same : c.t.marker k = name
  · rw [State.setMarker_same same]
    exact State.holdsMarker_self h same
  by_cases empty : c.t.marker k = 0
  · rw [State.setMarker_empty empty same]
    exact State.holdsMarker_modTeam h (.refl s) k name
  · rw [State.setMarker_replaces empty same]
    exact State.holdsMarker_modTeam h ((s.lanes_release ..).trans (.of_groups rfl)) k name

/-- Where no name is cleared, memory and contexts are as they were. -/
theorem State.setMarker_quiet (h : c.t.marker k = 0 ∨ c.t.marker k = name) :
    (s.setMarker c k name).mem = s.mem ∧ (s.setMarker c k name).ctxs = s.ctxs := by
  by_cases same : c.t.marker k = name
  · rw [State.setMarker_same same]
    exact ⟨rfl, rfl⟩
  · rw [State.setMarker_empty (h.resolve_right same) same]
    exact ⟨rfl, rfl⟩

/-- A name that is cleared: a release at system scope, and a re-sweep pass that is due (R92, R133). -/
theorem State.setMarker_clears {x : Ctx} (hx : tget s.ctxs c.g.asid = some x) (h : c.t.marker k ≠ 0) (hn : c.t.marker k ≠ name) :
    (s.setMarker c k name).mem = (s.release c.g.core 5).mem ∧
      tget (s.setMarker c k name).ctxs c.g.asid = some { x with resweep := true } := by
  rw [State.setMarker_replaces h hn]
  refine ⟨rfl, ?_⟩
  have live : tget (s.release c.g.core 5).ctxs c.g.asid = some x := by rw [(s.only_release ..).ctxs, hx]
  exact (tget_tmod_self ..).trans (congrArg _ live)

end

/-! ### Each instruction (R347) -/

section
variable {s : State} {c : Cur} {k : Ctx} {o : OpG} {x : XMark}

theorem exec_mark (hi : Issues s (.mark o x) c) : exec (.mark o x) s = .next
    ((if (c.workers s.guard).isEmpty then s else (s.setMarker c o.d.toNat (c.p.getS2 o.a.toNat)).acquire c.g.core 5).advance c.r) :=
  issue_of hi _

theorem exec_unmark (hi : Issues s (.unmark o x) c) : exec (.unmark o x) s = .next
    ((if (c.workers s.guard).isEmpty || c.t.marker o.d.toNat = 0 then s.release c.g.core 5 else s.setMarker c o.d.toNat 0).advance c.r) :=
  issue_of hi _

theorem exec_unmark_none (hi : Issues s (.unmark o x) c) (empty : c.t.marker o.d.toNat = 0) :
    exec (.unmark o x) s = .next ((s.release c.g.core 5).advance c.r) := by
  rw [exec_unmark hi, if_pos (by simp [empty])]

section
variable (works : c.workers s.guard ≠ [])
include works

theorem exec_mark_works (hi : Issues s (.mark o x) c) : exec (.mark o x) s =
    .next (((s.setMarker c o.d.toNat (c.p.getS2 o.a.toNat)).acquire c.g.core 5).advance c.r) := by
  rw [exec_mark hi, if_neg (by simpa using works)]

theorem exec_unmark_clears (hi : Issues s (.unmark o x) c) (held : c.t.marker o.d.toNat ≠ 0) :
    exec (.unmark o x) s = .next ((s.setMarker c o.d.toNat 0).advance c.r) := by
  rw [exec_unmark hi, if_neg (by simpa [works] using held)]

/-- UNMARK, whether it clears a name or not: the marker is empty and the release at system scope is done. -/
theorem unmark_effect (hk : tget s.ctxs c.g.asid = some k) (hi : Issues s (.unmark o x) c) : ∃ t, exec (.unmark o x) s = .next t ∧
    t.HoldsMarker c o.d.toNat 0 ∧ t.mem = (s.release c.g.core 5).mem ∧
    (c.t.marker o.d.toNat ≠ 0 → tget t.ctxs c.g.asid = some { k with resweep := true }) ∧
    (c.t.marker o.d.toNat = 0 → t = (s.release c.g.core 5).advance c.r) := by
  by_cases empty : c.t.marker o.d.toNat = 0
  · have kept : s.KeepsLanes ((s.release c.g.core 5).advance c.r) := (s.lanes_release ..).trans (State.lanes_advance ..)
    exact ⟨_, exec_unmark_none hi empty, (State.holdsMarker_self hi.1 empty).keeps kept, rfl, fun h => absurd empty h, fun _ => rfl⟩
  · obtain ⟨mem, ctx⟩ := State.setMarker_clears hk empty empty
    exact ⟨_, exec_unmark_clears works hi empty, (State.setMarker_holds hi.1).keeps (State.lanes_advance ..), mem, fun _ => ctx,
      fun h => absurd h empty⟩

end

/-- A FROG's sweep at the end of its context's sequencer; the clause waits for it (R131). -/
def State.askSweep (s : State) (c : Cur) (name : BitVec 64) (scope d : Nat) (lanes : List Nat) : State :=
  let w : Sweep := { name := name, scope := scope, core := c.g.core, who := .frog c.r c.p.clauseId d (laneSet lanes), op := s.fresh }
  (({ s with fresh := s.fresh + 1 } : State).modCtx c.g.asid fun x => { x with sweeps := x.sweeps ++ [w] }).addOp c.r c.p.clauseId s.fresh

theorem exec_frog (hk : tget s.ctxs c.g.asid = some k) (hi : Issues s (.frog o x) c) : exec (.frog o x) s = .next
    (let u := s.release c.g.core (c.rank k x.scope)
     if (c.workers s.guard).isEmpty then u.advance c.r
     else if c.p.getS2 o.a.toNat = 0 then (u.landV c.r c.p.clauseId o.d.toNat ((c.act s.guard).map fun l => (l, 0))).advance c.r
     else (u.askSweep c (c.p.getS2 o.a.toNat) x.scope.toNat o.d.toNat (c.act s.guard)).advance c.r) :=
  exec_issued rfl hi hk

/-- What FROGQ writes in its active lanes: the pair with the name, and the predicate. -/
def State.giveNotice (s : State) (c : Cur) (g : Guard) (o : OpG) (name : BitVec 64) (ok : Bool) : State :=
  (s.landVs c.r c.p.clauseId o.d.toNat 2 ((c.act g).map fun l => (l, [name.extractLsb' 0 32, name.extractLsb' 32 32]))).landP
    c.r c.p.clauseId o.b.toNat ((c.act g).map fun l => (l, ok))

theorem exec_frogq_idle (hk : tget s.ctxs c.g.asid = some k) (hi : Issues s (.frogq o x) c) (idle : c.workers s.guard = []) :
    exec (.frogq o x) s = .next ((s.acquire c.g.core 5).advance c.r) :=
  (exec_issued rfl hi hk).trans (congrArg Host.Outcome.next (if_pos (by rw [idle]; rfl)))

theorem exec_frogq_none (hk : tget s.ctxs c.g.asid = some k) (hi : Issues s (.frogq o x) c) (works : c.workers s.guard ≠ [])
    (none : k.notices = []) : exec (.frogq o x) s = .next ((s.giveNotice c s.guard o 0 false).advance c.r) := by
  refine (exec_issued rfl hi hk).trans (congrArg Host.Outcome.next ?_)
  refine (if_neg (by simpa using works)).trans ?_
  simp only [none]
  rfl

theorem exec_frogq_pops (hk : tget s.ctxs c.g.asid = some k) (hi : Issues s (.frogq o x) c) (works : c.workers s.guard ≠ [])
    {n : Notice} {rest : List Notice} (some : k.notices = n :: rest) : exec (.frogq o x) s = .next
      ((((s.modCtx c.g.asid fun y => { y with notices := rest }).giveNotice c s.guard o n.name true).acquire c.g.core
        (scopeRank k c.g.core n.scope)).advance c.r) := by
  refine (exec_issued rfl hi hk).trans (congrArg Host.Outcome.next ?_)
  refine (if_neg (by simpa using works)).trans ?_
  simp only [some]
  rfl

end

/-- Settles O49: MARK and UNMARK by what setting a marker changes, FROG and FROGQ by their meanings in an issue. -/
theorem markers : Obligations.Markers := by
  unfold Obligations.Markers
  intro s c k o x hk name works marked
  refine ⟨fun hi => ⟨fun hw => ?_, fun idle => ?_⟩, fun hi => ⟨fun hw => unmark_effect hw hk hi, fun idle => ?_⟩, fun hi => ?_, fun hi => ?_⟩
  · let v := s.setMarker c o.d.toNat name
    have kept : v.KeepsLanes ((v.acquire c.g.core 5).advance c.r) :=
      (State.KeepsLanes.of_groups (v.acquire_groups ..)).trans (State.lanes_advance ..)
    have memory : ((v.acquire c.g.core 5).advance c.r).mem = v.mem := (v.quiet_acquire ..).mem
    have contexts : ((v.acquire c.g.core 5).advance c.r).ctxs = v.ctxs := (v.quiet_acquire ..).ctxs
    refine ⟨_, exec_mark_works hw hi, (State.setMarker_holds hi.1).keeps kept, v.acquire_l1 c.g.core (by decide), fun quiet => ?_,
      fun held other => ?_⟩
    · obtain ⟨mem, ctxs⟩ := State.setMarker_quiet (s := s) quiet
      exact ⟨memory.trans mem, contexts.trans ctxs⟩
    · obtain ⟨mem, ctx⟩ := State.setMarker_clears hk held other
      exact ⟨memory.trans mem, by rw [contexts, ctx]⟩
  · rw [exec_mark hi, if_pos (by simpa using not_not.1 idle)]
  · rw [exec_unmark hi, if_pos (by simp [not_not.1 idle])]
  · intro u
    have ran := exec_frog hk hi
    refine ⟨fun idle => ran.trans (congrArg Host.Outcome.next (if_pos (by rw [not_not.1 idle]; rfl))), fun hw zero => ?_,
      fun hw named => ⟨_, ran.trans (congrArg Host.Outcome.next
        ((if_neg (by simpa using hw)).trans (if_neg named))), rfl, ?_⟩⟩
    · exact ran.trans (congrArg Host.Outcome.next ((if_neg (by simpa using hw)).trans (if_pos zero)))
    · have live : tget u.ctxs c.g.asid = some k := by rw [(s.only_release ..).ctxs, hk]
      exact (tget_tmod_self ..).trans (congrArg _ live)
  · intro pair
    exact ⟨fun idle => exec_frogq_idle hk hi (not_not.1 idle), exec_frogq_none hk hi, fun n rest hw => exec_frogq_pops hk hi hw⟩

end Sys2Proof.Machine
end

section
/-! PROOFS. What units read and write for a context (01 R22, 09 R209): translations and accesses at home slices change no more than
accesses do; the sources and bindings that a change of one of them leaves (09 R214 to R222). -/

namespace Sys2Proof.Machine

section
variable (s : State)

theorem State.only_free (n : Nat) : s.OnlyMemory { s with free := n } := .of_same rfl rfl

theorem State.only_walkEntry (die asid pa : Nat) : s.OnlyMemory (s.walkEntry die asid pa).1 := by
  have read : s.OnlyMemory (s.homeNat pa 8).1 := s.only_homeGet true false pa 8
  unfold State.walkEntry
  split
  · exact read
  · exact .ite_fst read (read.trans (State.only_free ..))

theorem State.only_lastEntry (die asid base idx : Nat) : s.OnlyMemory (s.lastEntry die asid base idx).1 :=
  .ite_fst ((s.only_walkEntry ..).trans (State.only_free ..)) (s.only_walkEntry ..)

theorem State.only_walk (die asid : Nat) (supv : Bool) (va : Nat) (used : List WalkEntry) (base : Nat) (levels : List Nat) :
    s.OnlyMemory (s.walk die asid supv va used base levels).1 := by
  induction levels generalizing s used base with
  | nil => exact .refl s
  | cons level rest ih =>
    have read : s.OnlyMemory (s.levelEntry die asid va base level).1 := .ite_fst (s.only_lastEntry ..) (s.only_walkEntry ..)
    rw [State.walk_cons]
    split
    · exact read
    · exact .ite_fst read (read.trans (ih ..))

theorem State.only_unitXlat (die asid : Nat) (x : Ctx) (va : Nat) (acc : Access) : s.OnlyMemory (s.unitXlat die asid x va acc).1 := by
  have walked := s.only_walk die asid x.supv va [] x.root [3, 2, 1, 0]
  have entered (t : State) (ws : List WalkEntry) : t.OnlyMemory (t.walkPut die ws) := .ite (.refl t) (t.dirty_modDie ..).toOnlyMemory
  unfold State.unitXlat
  dsimp only
  split
  · exact .refl s
  · split
    · exact walked
    · split
      · exact walked
      · exact walked.trans (entered ..)

theorem State.only_unitWrite (die asid : Nat) (x : Ctx) (va : Nat) (bs : List Byte) : s.OnlyMemory (s.unitWrite die asid x va bs).1 := by
  refine .foldl_fst (fun p e => ?_) _ (s, none)
  have xlat := p.1.only_unitXlat die asid x e.1 .write
  dsimp only
  split
  · exact xlat
  · exact xlat.trans (State.dirty_homePut ..).toOnlyMemory

theorem State.only_put (asid va : Nat) (bs : List Byte) : s.OnlyMemory (s.put asid va bs) := by
  unfold State.put
  split
  · exact .refl s
  · exact s.only_unitWrite ..

theorem State.only_putField (asid va old new : Nat) : s.OnlyMemory (s.putField asid va old new) := .ite (.refl s) (s.only_put ..)

theorem State.only_srcStatus (asid src : Nat) (old : Source) : s.OnlyMemory (s.srcStatus asid src old) := by
  unfold State.srcStatus
  split
  · exact .refl s
  · exact (((State.OnlyMemory.ite (s.only_putField ..) ((s.only_putField ..).trans (State.only_putField ..))).trans
      (State.only_putField ..)).trans (State.only_putField ..)).trans (State.only_putField ..)

theorem State.only_bindStatus (asid b : Nat) (old : Binding) : s.OnlyMemory (s.bindStatus asid b old) := by
  unfold State.bindStatus
  split
  · exact .refl s
  · exact ((((s.only_putField ..).trans (State.only_putField ..)).trans (State.only_putField ..)).trans (State.only_putField ..)).trans
      (State.only_putField ..)

theorem State.deliverInv_ctxs : s.deliverInv.ctxs = s.ctxs := (s.only_deliverIf _).ctxs

end

/-! ### A context's sources and bindings -/

section
variable {s : State} {asid b src : Nat} {x : Ctx} {k : Binding} {q : Source}

theorem State.binding_some : s.binding asid b = some (x, k) ↔ tget s.ctxs asid = some x ∧ tget x.bindings b = some k := by
  unfold State.binding
  cases tget s.ctxs asid with
  | none => simp
  | some y => simp only [Option.map_eq_some_iff, Prod.mk.injEq, Option.some.injEq]; grind

theorem State.source_some : s.source asid src = some (x, q) ↔ tget s.ctxs asid = some x ∧ tget x.sources src = some q := by
  unfold State.source
  cases tget s.ctxs asid with
  | none => simp
  | some y => simp only [Option.map_eq_some_iff, Prod.mk.injEq, Option.some.injEq]; grind

theorem State.ctx_modCtx (hx : tget s.ctxs asid = some x) (f : Ctx → Ctx) : tget (s.modCtx asid f).ctxs asid = some (f x) :=
  (tget_tmod_self ..).trans (congrArg _ hx)

theorem State.binding_modBinding (h : s.binding asid b = some (x, k)) (f : Binding → Binding) :
    (s.modBinding asid b f).binding asid b = some ({ x with bindings := tmod x.bindings b f }, f k) := by
  obtain ⟨hx, hb⟩ := State.binding_some.1 h
  exact State.binding_some.2 ⟨State.ctx_modCtx hx _, (tget_tmod_self ..).trans (congrArg _ hb)⟩

theorem State.source_modSource (h : s.source asid src = some (x, q)) (f : Source → Source) :
    (s.modSource asid src f).source asid src = some ({ x with sources := tmod x.sources src f }, f q) := by
  obtain ⟨hx, hq⟩ := State.source_some.1 h
  exact State.source_some.2 ⟨State.ctx_modCtx hx _, (tget_tmod_self ..).trans (congrArg _ hq)⟩

end

/-! ### What an advance leaves of a binding's stage (R215, R222) -/

/-- What a stage is computed from, and the windows that it is to move. -/
def Binding.staged (k : Binding) : Tab (Int × SrcState) × Int × Tab Window := (k.view, k.stagewm, k.windows)

/-- A binding is there, with its view of its inputs, its stage watermark and its windows. -/
structure State.KeepsStage (asid b : Nat) (s t : State) : Prop where
  kept : ∀ x k, s.binding asid b = some (x, k) → ∃ y h, t.binding asid b = some (y, h) ∧ h.staged = k.staged

namespace State.KeepsStage

variable {asid b : Nat} {s t u : State}

theorem of_ctxs (h : t.ctxs = s.ctxs) : KeepsStage asid b s t :=
  ⟨fun x k hk => ⟨x, k, by rw [State.binding_some, h, ← State.binding_some, hk], rfl⟩⟩

theorem refl (s : State) : KeepsStage asid b s s := of_ctxs rfl

theorem trans (h : KeepsStage asid b s t) (h' : KeepsStage asid b t u) : KeepsStage asid b s u := by
  refine ⟨fun x k hk => ?_⟩
  obtain ⟨y, i, hi, same⟩ := h.kept x k hk
  obtain ⟨z, j, hj, same'⟩ := h'.kept y i hi
  exact ⟨z, j, hj, same'.trans same⟩

theorem ite {c : Prop} [Decidable c] (h : KeepsStage asid b s t) (h' : KeepsStage asid b s u) :
    KeepsStage asid b s (if c then t else u) := by
  split
  · exact h
  · exact h'

/-- A change of a context that leaves the stages of its bindings. -/
theorem modCtx (s : State) (n : Nat) {f : Ctx → Ctx}
    (hf : ∀ x k, tget x.bindings b = some k → ∃ h, tget (f x).bindings b = some h ∧ h.staged = k.staged) :
    KeepsStage asid b s (s.modCtx n f) := by
  refine ⟨fun x k hk => ?_⟩
  obtain ⟨hx, hb⟩ := State.binding_some.1 hk
  by_cases same : asid = n
  · subst same
    obtain ⟨h, hh, staged⟩ := hf x k hb
    exact ⟨f x, h, State.binding_some.2 ⟨State.ctx_modCtx hx f, hh⟩, staged⟩
  · exact ⟨x, k, State.binding_some.2 ⟨by rw [State.modCtx, tget_tmod, if_neg same, hx], hb⟩, rfl⟩

end State.KeepsStage

section
variable {asid b : Nat} (s : State)

theorem State.stage_modSource (n src : Nat) (f : Source → Source) : KeepsStage asid b s (s.modSource n src f) :=
  .modCtx s n fun _ k hk => ⟨k, hk, rfl⟩

theorem State.stage_tell (n src : Nat) (i : Item) : KeepsStage asid b s (s.tell n src i) := by
  refine .modCtx s n fun x k hk => ?_
  simp only [tget_tmap, hk, Option.map_some]
  refine ⟨_, rfl, ?_⟩
  split <;> rfl

theorem State.emitFrame_ctxs (peer src : Nat) (f : Sent) : (s.emitFrame peer src f).ctxs = s.ctxs := by
  unfold State.emitFrame
  dsimp only
  split <;> rfl

theorem State.stage_sendFrame (n peer : Nat) (f : Sent) : KeepsStage asid b s (s.sendFrame n peer f) := by
  unfold State.sendFrame
  split
  · exact .refl s
  · refine .ite (.refl s) ?_
    dsimp only
    refine .trans ?_ (.of_ctxs (State.emitFrame_ctxs ..))
    exact .modCtx s n fun _ k hk => ⟨k, hk, rfl⟩

theorem State.stage_changed (n src : Nat) (old : Source) : KeepsStage asid b s (s.changed n src old) := by
  unfold State.changed
  split
  · exact .refl s
  next q _ =>
    have told : KeepsStage asid b s ((s.tell n src (.change src q.swm q.state)).srcStatus n src old) :=
      (s.stage_tell n src _).trans (.of_ctxs (State.only_srcStatus ..).ctxs)
    exact .ite (told.trans (.trans (.of_ctxs (State.deliverInv_ctxs _)) (State.stage_sendFrame ..))) told

theorem State.stage_wmadv (n src : Nat) (w : Int) : KeepsStage asid b s (s.wmadv n src w) := by
  unfold State.wmadv
  split
  · exact .refl s
  · exact .ite (.refl s) ((s.stage_modSource ..).trans (State.stage_changed ..))

theorem State.stage_sclose (n src : Nat) : KeepsStage asid b s (s.sclose n src) := by
  unfold State.sclose
  split
  · exact .refl s
  · exact .ite (.refl s) ((s.stage_modSource ..).trans (State.stage_changed ..))

theorem State.stage_outSend (n : Nat) (k : Binding) (w : Option Int) : KeepsStage asid b s (s.outSend n k w) := by
  have delivered : KeepsStage asid b s s.deliverInv := .of_ctxs s.deliverInv_ctxs
  unfold State.outSend
  dsimp only
  split
  · exact delivered
  · refine .ite (delivered.trans (.modCtx _ n fun _ k hk => ⟨k, hk, rfl⟩)) (delivered.trans ?_)
    split
    · exact State.stage_wmadv ..
    · exact State.stage_sclose ..

/-- An advance of a binding's output changes no binding's stage. -/
theorem State.stage_outAdvance (n m : Nat) : KeepsStage asid b s (s.outAdvance n m) := by
  unfold State.outAdvance
  split
  · exact .refl s
  next k _ =>
    have raised (e : Int) : KeepsStage asid b s (s.modBinding n m fun k => { k with outwm := e }) := by
      refine .modCtx s n fun x k hk => ?_
      by_cases same : b = m
      · subst same
        exact ⟨{ k with outwm := e }, (tget_tmod_self ..).trans (congrArg _ hk), rfl⟩
      · exact ⟨k, (tget_tmod ..).trans ((if_neg same).trans hk), rfl⟩
    have sent (e : Int) : KeepsStage asid b s (((s.modBinding n m fun k => { k with outwm := e }).outSend n k (some e)).bindStatus n m k) :=
      ((raised e).trans (State.stage_outSend ..)).trans (.of_ctxs (State.only_bindStatus ..).ctxs)
    dsimp only
    refine .ite (.refl s) (.ite (.trans ?_ (State.stage_outSend ..)) ?_)
    · exact .ite (sent _) (.refl s)
    · exact .ite (sent _) (.refl s)

end

/-- A change of a source told to its readers leaves the source, where nothing is exported (R214). -/
theorem State.changed_source {s : State} {asid src : Nat} {x : Ctx} {q old : Source} (h : s.source asid src = some (x, q))
    (same : q.swm = old.swm) : ∃ y, (s.changed asid src old).source asid src = some (y, q) := by
  obtain ⟨hx, hq⟩ := State.source_some.1 h
  unfold State.changed
  rw [h]
  dsimp only
  rw [if_neg fun exported => exported.2 same]
  have told := State.ctx_modCtx hx fun x =>
    { x with bindings := tmap x.bindings fun _ b =>
        if b.en && b.inputs.getLsbD src then { b with todo := b.todo ++ [.change src q.swm q.state] } else b }
  exact ⟨_, State.source_some.2 ⟨(congrArg (tget · asid) (State.only_srcStatus ..).ctxs).trans told, hq⟩⟩

end Sys2Proof.Machine
end

section
/-! PROOFS. The sweep sequencer and the meridian unit (05 R130 to R135, 09 R214 to R223, 03 R95): each step by its meaning. -/

namespace Sys2Proof.Machine

/-! ### Sweeps and the frog list (R131 to R135) -/

section
variable {s : State} {asid : Nat} {x : Ctx}

theorem State.sweepCore_frog {w : Sweep} {p : Ref} {g : Group} {clause d : Nat} {lanes : LaneSet}
    (who : w.who = .frog p clause d lanes) (hg : tget s.groups p.gid = some g) : s.sweepCore w = g.core := by
  simp only [State.sweepCore, who, hg]

theorem State.frogResult_listed {w : Sweep} (listed : (x.frogs.any fun f => f.name = w.name) = true) (found : Bool) :
    (s.frogResult asid x w found).2 = 1 := by
  unfold State.frogResult
  dsimp only
  rw [if_pos listed]

theorem State.frogResult_full {w : Sweep} (new : (x.frogs.any fun f => f.name = w.name) = false) (full : 4096 ≤ x.frogs.length)
    (found : Bool) : s.frogResult asid x w found = (s, 2) := by
  unfold State.frogResult
  dsimp only
  rw [if_neg (ne_true_of_eq_false new), if_pos full]

theorem State.frogResult_room {w : Sweep} (new : (x.frogs.any fun f => f.name = w.name) = false) (room : x.frogs.length < 4096)
    (found : Bool) : (s.frogResult asid x w found).2 = if found then 1 else 0 := by
  unfold State.frogResult
  dsimp only
  rw [if_neg (ne_true_of_eq_false new), if_neg (Nat.not_le.2 room)]
  cases found <;> rfl

theorem State.setFrogs_only (hx : tget s.ctxs asid = some x) (fs : List Frog) :
    (s.modCtx asid fun x => { x with frogs := fs }).OnlyMemory (s.setFrogs asid fs) := by
  unfold State.setFrogs
  rw [hx]
  exact State.only_put ..

theorem State.resweepName_stays (hx : tget s.ctxs asid = some x) {f : Frog}
    (h : s.sweepFinds asid x f.name f.scope f.core = true ∨ 4096 ≤ x.notices.length) : s.resweepName asid f = s := by
  unfold State.resweepName
  rw [hx]
  exact if_pos h

/-- A name swept again without a match leaves the list, and its notice is the newest in the ring (R133). -/
theorem State.resweepName_leaves (hx : tget s.ctxs asid = some x) {f : Frog} (room : x.notices.length < 4096)
    (gone : s.sweepFinds asid x f.name f.scope f.core = false) : ∃ y, tget (s.resweepName asid f).ctxs asid = some y ∧
      y.frogs = x.frogs.filter (fun g => g.name ≠ f.name) ∧ y.notices = x.notices ++ [{
        etime := BitVec.ofNat 32 (s.etime / 4096), meridian := f.meridian, scope := f.scope, name := f.name }] := by
  have left := State.setFrogs_only hx (x.frogs.filter fun g => g.name ≠ f.name)
  have listed := State.ctx_modCtx hx fun y => { y with frogs := x.frogs.filter fun g => g.name ≠ f.name }
  rw [← left.ctxs] at listed
  have time : (s.setFrogs asid (x.frogs.filter fun g => g.name ≠ f.name)).etime = s.etime := left.etime
  unfold State.resweepName
  rw [hx]
  dsimp only
  rw [if_neg (by simp [gone, room])]
  refine ⟨_, State.ctx_modCtx ((congrArg (tget · asid) (State.only_put ..).ctxs).trans (State.ctx_modCtx listed _)) _, rfl, ?_⟩
  dsimp only [State.etimeField]
  rw [time]

theorem exec_frogInterval (hi : s.input = .one asid) (hx : tget s.ctxs asid = some x) :
    (x.frogDone < s.etime / x.frogIv → ∃ t y, exec .frogInterval s = .next t ∧ tget t.ctxs asid = some y ∧ y.resweep = true ∧
      y.frogDone = s.etime / x.frogIv ∧ t.mem = s.mem) ∧
    (s.etime / x.frogIv ≤ x.frogDone → exec .frogInterval s = .next s) := by
  have ran : exec .frogInterval s = execFrogInterval s := rfl
  simp only [ran, execFrogInterval, hi, hx]
  refine ⟨fun due => ?_, fun done => congrArg Host.Outcome.next (if_pos done)⟩
  exact ⟨_, _, congrArg Host.Outcome.next (if_neg (Nat.not_le.2 due)), State.ctx_modCtx hx _, rfl, rfl, rfl⟩

theorem exec_resweepPass (hi : s.input = .one asid) (hx : tget s.ctxs asid = some x) :
    (x.resweep = false ∨ (∃ w ∈ x.sweeps, w.who = .pass) → exec .resweepPass s = .next s) ∧
    (x.resweep = true → (∀ w ∈ x.sweeps, w.who ≠ .pass) → ∃ t y, exec .resweepPass s = .next t ∧ tget t.ctxs asid = some y ∧
      y.resweep = false ∧ t.mem = s.mem ∧ y.sweeps = x.sweeps ++ x.frogs.map fun f =>
        { name := f.name, scope := f.scope, core := f.core, who := .pass, op := 0 }) := by
  have ran : exec .resweepPass s = execResweepPass s := rfl
  simp only [ran, execResweepPass, hi, hx]
  refine ⟨fun stays => congrArg Host.Outcome.next (if_pos (by simpa using stays)), fun due passed => ?_⟩
  exact ⟨_, _, congrArg Host.Outcome.next (if_neg (by simpa [due] using passed)), State.ctx_modCtx hx _, rfl, rfl, rfl⟩

end

/-! ### Bindings (R215 to R220) -/

section
variable {s : State} {asid b slot src : Nat} {x : Ctx} {k : Binding} {w : Window}

theorem Binding.stagewm_le_stage (k : Binding) : k.stagewm ≤ k.stage := le_max_left ..

/-- A binding that has taken up a change of a source: its stage is computed with it (R215). -/
def Binding.recomputed (k : Binding) (src : Nat) (swm : Int) (st : SrcState) : Binding :=
  let k : Binding := { k.taken src with view := tset k.view src (swm, st) }
  { k with stagewm := k.stage }

theorem exec_stageRecompute (hi : s.input = .three asid b src) (hb : s.binding asid b = some (x, k)) {i : Nat} {swm : Int} {st : SrcState}
    (next : k.nextOf src = some (.change i swm st)) (free : k.free = true) (alive : s.alive asid = true) : exec .stageRecompute s =
      .next (((s.modBinding asid b fun _ => k.recomputed src swm st).bindStatus asid b k).outAdvance asid b) := by
  have ran : exec .stageRecompute s = execStageRecompute s := rfl
  simp only [ran, execStageRecompute, hi, hb, next]
  exact congrArg Host.Outcome.next (if_neg (by simp [free, alive]))

theorem stageRecompute_spec (hi : s.input = .three asid b src) (hb : s.binding asid b = some (x, k)) {i : Nat} {swm : Int} {st : SrcState}
    (next : k.nextOf src = some (.change i swm st)) (free : k.free = true) (alive : s.alive asid = true) :
    ∃ t y h, exec .stageRecompute s = .next t ∧ t.binding asid b = some (y, h) ∧ tget h.view src = some (swm, st) ∧
      k.stagewm ≤ h.stagewm ∧ h.windows = k.windows := by
  have set := State.binding_modBinding hb fun _ => k.recomputed src swm st
  have kept : State.KeepsStage asid b (s.modBinding asid b fun _ => k.recomputed src swm st)
      (((s.modBinding asid b fun _ => k.recomputed src swm st).bindStatus asid b k).outAdvance asid b) :=
    .trans (.of_ctxs (State.only_bindStatus ..).ctxs) (State.stage_outAdvance ..)
  obtain ⟨y, h, bound, staged⟩ := kept.kept _ _ set
  obtain ⟨view, stage, windows⟩ : h.view = (k.recomputed src swm st).view ∧ h.stagewm = (k.recomputed src swm st).stagewm ∧
      h.windows = (k.recomputed src swm st).windows := by simpa [Binding.staged] using staged
  refine ⟨_, y, h, exec_stageRecompute hi hb next free alive, bound, ?_, ?_, windows⟩
  · rw [view]
    exact tget_tset_self ..
  · rw [stage]
    exact Binding.stagewm_le_stage { k.taken src with view := tset k.view src (swm, st) }

theorem exec_recordPlacement_waits (hi : s.input = .three asid b src) (hb : s.binding asid b = some (x, k)) {i idx : Nat}
    {bytes : List Byte} {bad : Bool} (next : k.nextOf src = some (.record i idx bytes bad)) (first : k.changeFirst src = true) :
    exec .recordPlacement s = .next s := by
  have ran : exec .recordPlacement s = execRecordPlacement s := rfl
  simp only [ran, execRecordPlacement, hi, hb, next]
  exact congrArg Host.Outcome.next (if_pos (.inr (.inl first)))

theorem exec_recordPlacement (hi : s.input = .three asid b src) (hb : s.binding asid b = some (x, k)) {i idx : Nat}
    {bytes : List Byte} {bad : Bool} (next : k.nextOf src = some (.record i idx bytes bad)) (free : k.free = true)
    (alive : s.alive asid = true) (first : k.changeFirst src = false) {y : Ctx} {q : Source}
    (hq : ((s.modBinding asid b fun k => k.taken src).place asid b src bytes bad).source asid src = some (y, q)) :
    exec .recordPlacement s = .next ((((s.modBinding asid b fun k => k.taken src).place asid b src bytes bad).freeRing
      asid src).srcStatus asid src q) := by
  have ran : exec .recordPlacement s = execRecordPlacement s := rfl
  simp only [ran, execRecordPlacement, hi, hb, next]
  rw [if_neg (by simp [free, alive, first]), hq]

theorem exec_windowTransit_none (hi : s.input = .two asid b) (hb : s.binding asid b = some (x, k))
    (none : k.windows.filter (fun w => k.due w.2) = []) : exec .windowTransit s = .next s := by
  have ran : exec .windowTransit s = execWindowTransit s := rfl
  simp only [ran, execWindowTransit, hi, hb, none, ite_self]

theorem exec_windowTransit_one (hi : s.input = .two asid b) (hb : s.binding asid b = some (x, k)) (en : k.en = true)
    (alive : s.alive asid = true) (one : k.windows.filter (fun w => k.due w.2) = [(slot, w)]) :
    exec .windowTransit s = .next (s.launchWindow asid b slot false false) := by
  have ran : exec .windowTransit s = execWindowTransit s := rfl
  simp only [ran, execWindowTransit, hi, hb, one]
  exact congrArg Host.Outcome.next (if_neg (by simp [en, alive]))

section
variable (hi : s.input = .three asid b slot) (hb : s.binding asid b = some (x, k)) (hw : tget k.windows slot = some w)
include hi hb hw

theorem exec_amendmentLaunch : exec .amendmentLaunch s = .next (if k.en && s.alive asid && k.amends w then
    s.launchWindow asid b slot true (k.winEnd w.k + k.lateness ≤ k.stagewm) else s) := by
  have ran : exec .amendmentLaunch s = execAmendmentLaunch s := rfl
  simp only [ran, execAmendmentLaunch, hi, hb, hw]

theorem exec_lateTimerExpiry (en : k.en = true) (timed : k.ltimer ≠ 0) (transited : w.transited = true) (late : w.count < w.n)
    (past : w.oldest + k.ltimer * 4096 ≤ s.etime) : ∃ t y h v, exec .lateTimerExpiry s = .next t ∧ t.binding asid b = some (y, h) ∧
      tget h.windows slot = some v ∧ v = { w with timer := true } ∧ t.mem = s.mem := by
  have ran : exec .lateTimerExpiry s = execLateTimerExpiry s := rfl
  simp only [ran, execLateTimerExpiry, hi, hb, hw]
  rw [if_pos ⟨en, timed, transited, late, past⟩]
  exact ⟨_, _, _, _, rfl, State.binding_modBinding hb _, (tget_tmod_self ..).trans (congrArg _ hw), rfl, rfl⟩

theorem exec_windowFree (en : k.en = true) (alive : s.alive asid = true) (frees : k.frees w = true) : ∃ t y h v,
    exec .windowFree s = .next t ∧ t.binding asid b = some (y, h) ∧ tget h.windows slot = some v ∧ v = { w with freeing := .asked } ∧
      t.mem = s.mem ∧ y.sweeps = x.sweeps ++ [{ name := BitVec.ofNat 64 (k.bufpool + w.buf * (k.bincap * 2 ^ k.bslot)), scope := 4
                                                core := 0, who := .window b slot, op := 0 }] := by
  have ran : exec .windowFree s = execWindowFree s := rfl
  have delivered : s.deliverInv.binding asid b = some (x, k) := by
    rw [State.binding_some, s.deliverInv_ctxs, ← State.binding_some, hb]
  obtain ⟨hx, bound⟩ := State.binding_some.1 (State.binding_modBinding delivered fun k =>
    { k with windows := tmod k.windows slot fun w => { w with freeing := .asked } })
  simp only [ran, execWindowFree, hi, hb, hw]
  rw [if_neg (by simp [en, alive, frees])]
  exact ⟨_, _, _, _, rfl, State.binding_some.2 ⟨State.ctx_modCtx hx _, bound⟩, (tget_tmod_self ..).trans (congrArg _ hw), rfl,
    s.dropRdcs_mem _, rfl⟩

end

theorem State.deliverInv_fresh (s : State) : s.deliverInv.fresh = s.fresh :=
  foldl_same (f := fun s (e : RdcInv) => s.dropRdc e.die e.line) State.fresh (fun _ _ => rfl) _ s

/-- A window as its grid is launched: the grid sees every record placed so far (R218, R220). -/
def Window.launched (w : Window) (amend final : Bool) : Window :=
  { w with count := w.n, version := if amend then w.published else 0, final := final, timer := false, transited := true }

/-- The grid that a launch starts, once its record is read and passes its checks (R218, R219). -/
theorem State.launchWindow_grid {final n : Nat} {amend fin : Bool} {u v : State} (hb : s.binding asid b = some (x, k))
    (hw : tget k.windows slot = some w)
    (read : (s.unitWrite k.die asid x (k.wdesc + 64 * slot) (k.descriptor slot (w.launched amend fin) (if amend then w.count else 0)
      amend)).1.unitNat k.die asid x (if amend then k.amendrec else k.firerec) 64 = (u, .ok n))
    (checked : u.checkRecord k.die asid x n = (v, none)) (id : final = v.fresh) :
    ∃ d, tget (s.launchWindow asid b slot amend fin).grids final = some d ∧ d.lr = LaunchRec.ofNat n ∧
      d.origin = .window b slot amend ∧ d.next = 0 ∧ d.asid = asid ∧ d.desc = k.wdesc + 64 * slot ∧
      d.head = k.header (w.launched amend fin) ∧ d.res = k.result + k.resstr * slot := by
  subst id
  unfold Window.launched at read
  unfold State.launchWindow
  simp only [hb, hw, read, checked]
  have named (f : Binding → Binding) : (v.deliverInv.modBinding asid b f).fresh = v.fresh := v.deliverInv_fresh
  unfold State.startGrid State.modGrid
  dsimp only
  rw [named, tget_tmod_self, tget_tset_self]
  exact ⟨_, rfl, rfl, rfl, rfl, rfl, rfl, rfl, rfl⟩

end

/-! ### Sources (R95, R214, R222) -/

section
variable {s : State} {asid src : Nat} {x : Ctx}

/-- Whether a source goes idle at a scan (R214). -/
def Source.tires (k : Source) (now : Nat) : Bool :=
  k.en && k.state = .active && decide (k.idlet ≠ 0) && decide (k.lastact + k.idlet * Config.scanTicks ≤ now)

theorem exec_sourceIdleScan (hi : s.input = .one asid) (hx : tget s.ctxs asid = some x) : exec .sourceIdleScan s = .next
    ((x.sources.filter fun k => k.2.tires (s.etime / Config.scanTicks * Config.scanTicks)).foldl (fun s k =>
      (s.modSource asid k.1 fun k => { k with state := .idle }).changed asid k.1 k.2) s) := by
  have ran : exec .sourceIdleScan s = execSourceIdleScan s := rfl
  simp only [ran, execSourceIdleScan, hi, hx, Source.tires]

/-- An advance carried to a source is applied: a watermark, or a close (R222). -/
def State.applyCarried (s : State) (asid src : Nat) : Option Int → State
  | some w => s.wmadv asid src w
  | none => s.sclose asid src

theorem exec_watermarkPropagation (hi : s.input = .two asid src) (hx : tget s.ctxs asid = some x) {w : Option Int}
    (hc : x.carried.find? (fun e => e.1 = src) = some (src, w)) : exec .watermarkPropagation s = .next
      ((s.modCtx asid fun x => { x with carried := x.carried.eraseP fun e => e.1 = src }).applyCarried asid src w) := by
  have ran : exec .watermarkPropagation s = execWatermarkPropagation s := rfl
  simp only [ran, execWatermarkPropagation, hi, hx, hc]
  cases w <;> rfl

end

/-- Settles O58: each step of the sequencer and of the meridian unit by its meaning; what its writes to descriptors and its advances leave
by `State.OnlyMemory` and `State.KeepsStage`. -/
theorem sweepsAndWindows : Obligations.SweepsAndWindows := by
  unfold Obligations.SweepsAndWindows
  refine ⟨?sweep, ?results, ?passes, ?placement, ?stages, ?transits, ?windows, ?launches, ?idle, ?carried⟩
  case sweep =>
    rintro s asid x ⟨name, scope, core, who, op⟩ rest hi hx hs u v r
    have ran : exec .sweep s = execSweep s := rfl
    simp only [ran, execSweep, hi, hx, hs]
    refine ⟨fun p clause d lanes frog => ?_, fun b slot window => ?_, fun pass => ⟨fun unlisted => ?_, fun f listed => ?_⟩,
      fun p clause d lanes g frog hg => ?_⟩
    · obtain rfl : who = _ := frog
      rfl
    · obtain rfl : who = _ := window
      rfl
    · obtain rfl : who = _ := pass
      simp only [unlisted]
      rfl
    · obtain rfl : who = _ := pass
      simp only [listed]
      rfl
    · exact State.sweepCore_frog frog hg
  case results =>
    exact fun s asid x w found => ⟨fun listed => State.frogResult_listed listed found, fun new =>
      ⟨fun full => State.frogResult_full new full found, fun room => State.frogResult_room new room found⟩⟩
  case passes =>
    intro s asid x f hi hx
    obtain ⟨due, early⟩ := exec_frogInterval hi hx
    obtain ⟨stays, passes⟩ := exec_resweepPass hi hx
    exact ⟨due, early, stays, passes, State.resweepName_stays hx, State.resweepName_leaves hx⟩
  case placement =>
    intro s asid b src idx x k bytes bad i hi hb next free alive
    exact ⟨exec_recordPlacement_waits hi hb next, fun y q first => exec_recordPlacement hi hb next free alive first⟩
  case stages =>
    exact fun s asid b src i x k swm st hi hb => stageRecompute_spec hi hb
  case transits =>
    exact fun s asid b x k hi hb en alive => ⟨exec_windowTransit_none hi hb, fun slot w => exec_windowTransit_one hi hb en alive⟩
  case windows =>
    intro s asid b slot x k w hi hb hw en
    have ran := exec_amendmentLaunch hi hb hw
    refine ⟨fun alive due => ?_, fun early => ?_, exec_lateTimerExpiry hi hb hw en, exec_windowFree hi hb hw en⟩
    · exact ran.trans (congrArg Host.Outcome.next (if_pos (by simp [en, alive, due])))
    · exact ran.trans (congrArg Host.Outcome.next (if_neg (by simp [early])))
  case launches =>
    exact fun s asid b slot final amend fin x k w u v n hb hw => State.launchWindow_grid hb hw
  case idle =>
    intro s asid src x hi hx
    refine ⟨_, exec_sourceIdleScan hi hx, fun k one => ?_⟩
    intro now
    have tires : k.tires now = true ↔ k.en = true ∧ k.state = .active ∧ k.idlet ≠ 0 ∧ k.lastact + k.idlet * 4096 ≤ now := by
      simp only [Source.tires, Bool.and_eq_true, decide_eq_true_eq, and_assoc]
      rfl
    have scanned : x.sources.filter (fun k => k.2.tires (s.etime / Config.scanTicks * Config.scanTicks)) =
        if k.tires now then [(src, k)] else [] := by
      rw [one, List.filter_cons, List.filter_nil]
      rfl
    rw [scanned]
    split
    · next due =>
      rw [if_pos (tires.2 due)]
      have held : s.source asid src = some (x, k) := State.source_some.2 ⟨hx, by rw [one]; simp [tget]⟩
      obtain ⟨y, source⟩ := State.changed_source (old := k) (State.source_modSource held fun k => { k with state := .idle }) rfl
      exact ⟨y, _, source, rfl⟩
    · next early =>
      rw [if_neg (mt tires.1 early)]
      rfl
  case carried =>
    intro s asid src x w hi hx hc u
    rw [exec_watermarkPropagation hi hx hc]
    cases w <;> rfl

end Sys2Proof.Machine
end

section
/-! PROOFS. Matrix registers (06 R161, R162, 14 R314): the fields of a shape tag, elements in the bytes of a slot and its partner, and
what the slots hold after a write. -/

namespace Sys2Proof.Machine

/-! ### The fields of a tag (Table 6-5) -/

section
variable {p : Bool} {r c ty : Nat} (hr : r ≤ 8) (hc : c ≤ 8) (hty : ty < 256)
include hr hc hty

theorem toNat_mkTag :
    (mkTag p r c ty).toNat = 2 ^ 15 + (if p then 2 ^ 14 else 0) + 2 ^ 11 * (r - 1) + 2 ^ 8 * (c - 1) + ty := by
  unfold mkTag
  rw [BitVec.toNat_ofNat, Nat.mod_eq_of_lt]
  split <;> omega

theorem tagV_mkTag : tagV (mkTag p r c ty) = true := by
  rw [tagV, BitVec.getLsbD, toNat_mkTag hr hc hty, Nat.testBit_eq_decide_div_mod_eq, decide_eq_true_eq]
  split <;> omega

theorem tagP_mkTag : tagP (mkTag p r c ty) = p := by
  rw [tagP, BitVec.getLsbD, toNat_mkTag hr hc hty, Nat.testBit_eq_decide_div_mod_eq]
  cases p
  · exact decide_eq_false (by simp only [Bool.false_eq_true, if_false]; omega)
  · exact decide_eq_true (by simp only [if_true]; omega)

theorem tagTy_mkTag : tagTy (mkTag p r c ty) = ty := by
  rw [tagTy, toNat_mkTag hr hc hty]
  split <;> omega

theorem tagR_mkTag (positive : 1 ≤ r) : tagR (mkTag p r c ty) = r := by
  rw [tagR, bitsOf, toNat_mkTag hr hc hty]
  split <;> omega

theorem tagC_mkTag (positive : 1 ≤ c) : tagC (mkTag p r c ty) = c := by
  rw [tagC, bitsOf, toNat_mkTag hr hc hty]
  split <;> omega

end

/-- No type code of a matrix is zero, and each fits the tag's byte. -/
theorem allTypes_bounds {ty : Nat} (h : ty ∈ allTypes) : 1 ≤ ty ∧ ty < 256 := by
  have bounds : ∀ ty ∈ allTypes, 1 ≤ ty ∧ ty < 256 := by decide
  exact bounds ty h

/-! ### Elements in bytes -/

/-- An element depends on its own bits alone. -/
theorem elemOf_congr {d e : BitVec 2048} {size k : Nat}
    (h : ∀ b, 8 * size * k ≤ b → b < 8 * size * k + 8 * size → d.getLsbD b = e.getLsbD b) : elemOf d size k = elemOf e size k := by
  refine congrArg BitVec.toNat (BitVec.eq_of_getLsbD_eq fun i hi => ?_)
  rw [BitVec.getLsbD_extractLsb', BitVec.getLsbD_extractLsb', h _ (by omega) (by omega)]

/-- The bits after one element is put: its own from the element, the others as they were. -/
theorem getLsbD_putElem (d : BitVec 2048) (size i v : Nat) {b : Nat} (hb : b < 2048) :
    (putElems d size [(i, v)]).getLsbD b =
      if 8 * size * i ≤ b ∧ b < 8 * size * i + 8 * size then v.testBit (b - 8 * size * i) else d.getLsbD b := by
  have cleared : BitVec.ofNat 2048 ((2 ^ (8 * size) - 1) * 2 ^ (8 * size * i)) = maskBits 2048 (8 * size * i) (8 * size) := rfl
  simp only [putElems, List.foldl_cons, List.foldl_nil, cleared, BitVec.getLsbD_or, BitVec.getLsbD_and, BitVec.getLsbD_not,
    getLsbD_maskBits, BitVec.getLsbD_ofNat, Nat.testBit_mul_two_pow, Nat.testBit_mod_two_pow, hb]
  split
  next h =>
    have inside : b - 8 * size * i < 8 * size := by omega
    simp [h, inside]
  next h =>
    by_cases low : 8 * size * i ≤ b
    · have outside : ¬ b - 8 * size * i < 8 * size := by omega
      simp [h, outside]
    · simp [low]

section
variable {size k : Nat} (fits : size * (k + 1) ≤ 256)
include fits

/-- An element put is read back. -/
theorem elemOf_putElem_same (d : BitVec 2048) {v : Nat} (hv : v < 2 ^ (8 * size)) : elemOf (putElems d size [(k, v)]) size k = v := by
  have bits : (putElems d size [(k, v)]).extractLsb' (8 * size * k) (8 * size) = BitVec.ofNat (8 * size) v := by
    refine BitVec.eq_of_getLsbD_eq fun i hi => ?_
    have below : 8 * size * k + i < 2048 := by linarith
    have inside : 8 * size * k ≤ 8 * size * k + i ∧ 8 * size * k + i < 8 * size * k + 8 * size := by omega
    rw [BitVec.getLsbD_extractLsb', getLsbD_putElem d size k v below, if_pos inside, BitVec.getLsbD_ofNat, Nat.add_sub_cancel_left]
  rw [elemOf, bits, BitVec.toNat_ofNat, Nat.mod_eq_of_lt hv]

/-- An element is as it was after another is put. -/
theorem elemOf_putElem_other (d : BitVec 2048) {i : Nat} (v : Nat) (other : k ≠ i) :
    elemOf (putElems d size [(i, v)]) size k = elemOf d size k := by
  refine elemOf_congr fun b from_ to_ => ?_
  have below : b < 2048 := by linarith
  have apart : ¬ (8 * size * i ≤ b ∧ b < 8 * size * i + 8 * size) := by
    rcases Nat.lt_or_gt_of_ne other with before | after
    · have := Nat.mul_le_mul_left (8 * size) (Nat.succ_le_of_lt before)
      rw [Nat.mul_succ] at this
      omega
    · have := Nat.mul_le_mul_left (8 * size) (Nat.succ_le_of_lt after)
      rw [Nat.mul_succ] at this
      omega
  rw [getLsbD_putElem d size i v below, if_neg apart]

theorem elemOf_putElems_other (els : List (Nat × Nat)) (d : BitVec 2048) (h : k ∉ els.map Prod.fst) :
    elemOf (putElems d size els) size k = elemOf d size k := by
  induction els generalizing d with
  | nil => rfl
  | cons e es ih =>
    rw [List.map_cons, List.mem_cons, not_or] at h
    obtain ⟨first, rest⟩ := h
    exact (ih (putElems d size [e]) rest).trans (elemOf_putElem_other fits d e.2 first)

/-- Of elements put at places that differ, each is read back. -/
theorem elemOf_putElems_mem {els : List (Nat × Nat)} (d : BitVec 2048) (places : (els.map Prod.fst).Nodup) {v : Nat}
    (hv : v < 2 ^ (8 * size)) (h : (k, v) ∈ els) : elemOf (putElems d size els) size k = v := by
  induction els generalizing d with
  | nil => simp at h
  | cons e es ih =>
    rw [List.map_cons, List.nodup_cons] at places
    obtain ⟨first, rest⟩ := places
    rcases List.mem_cons.1 h with rfl | later
    · exact (elemOf_putElems_other fits es _ first).trans (elemOf_putElem_same fits d hv)
    · exact ih (putElems d size [e]) rest later

end

/-- Elements put in row-major order are read back in that order. -/
theorem elemOf_putElems_zip {el : List Nat} {size k : Nat} (d : BitVec 2048) (hk : k < el.length) (fits : size * el.length ≤ 256)
    (hv : el[k] < 2 ^ (8 * size)) : elemOf (putElems d size ((List.range el.length).zip el)) size k = el[k] := by
  have places : (((List.range el.length).zip el).map Prod.fst).Nodup := by
    rw [List.map_fst_zip (by simp)]
    exact List.nodup_range
  refine elemOf_putElems_mem ((Nat.mul_le_mul_left size hk).trans fits) d places hv (List.mem_iff_getElem.2 ⟨k, by simpa using hk, ?_⟩)
  simp

/-! ### A slot and its partner after a write -/

/-- A lane with slots written, in their order. -/
def Lane.setSlots (l : Lane) (w : List (Nat × MReg)) : Lane := w.foldl (fun l e => l.setM e.1 e.2) l

/-- What a write of a matrix to slot n leaves in a lane: a legal tag of its shape, and its bytes in the slot and, where they do not fit
one slot, its partner. -/
structure Lane.Holds (l : Lane) (n : Nat) (m : Mat) (d : BitVec 2048) : Prop where
  tag : (l.getM n).tag = mkTag (decide (128 < m.r * m.c * typeBytes m.ty)) m.r m.c m.ty
  low : ∀ b < 1024, (l.pairData n).getLsbD b = d.getLsbD b
  high : 128 < m.r * m.c * typeBytes m.ty → l.pairData n = d

theorem Lane.getLsbD_pairData_low (l : Lane) (n : Nat) {b : Nat} (hb : b < 1024) :
    (l.pairData n).getLsbD b = (l.getM n).data.getLsbD b := by
  rw [Lane.pairData, BitVec.getLsbD_append, if_pos (by simpa using hb)]

theorem halves_append (d : BitVec 2048) : d.extractLsb' 1024 1024 ++ d.extractLsb' 0 1024 = d := by
  rw [BitVec.extractLsb'_append_extractLsb'_eq_extractLsb' (by decide), BitVec.extractLsb'_eq_self]

/-- The low half of a pair whose slot n holds the low half of d. -/
theorem Lane.pairData_low_of_data {l : Lane} {n : Nat} {d : BitVec 2048} (h : (l.getM n).data = d.extractLsb' 0 1024) :
    ∀ b < 1024, (l.pairData n).getLsbD b = d.getLsbD b := by
  intro b hb
  rw [l.getLsbD_pairData_low n hb, h, BitVec.getLsbD_extractLsb', decide_eq_true hb, Bool.true_and, Nat.zero_add]

section
variable (l : Lane) (n : Nat) (m : Mat) (d : BitVec 2048)

/-- A matrix that fits one slot leaves its tag and its bytes in the slot, whatever becomes of an old partner (R314). -/
theorem Lane.getM_setSlots_narrow (narrow : ¬ 128 < m.r * m.c * typeBytes m.ty) :
    (l.setSlots (withBytes (l.retag n m.r m.c m.ty) n d false)).getM n =
      { tag := mkTag false m.r m.c m.ty, data := d.extractLsb' 0 1024 } := by
  unfold Lane.retag
  rw [if_neg narrow]
  split <;> simp [Lane.setSlots, withBytes]

/-- A wider matrix leaves its tag in the slot and half of its bytes in each of the two. -/
theorem Lane.getM_setSlots_wide (wide : 128 < m.r * m.c * typeBytes m.ty) :
    (l.setSlots (withBytes (l.retag n m.r m.c m.ty) n d true)).getM n =
      { tag := mkTag true m.r m.c m.ty, data := d.extractLsb' 0 1024 } ∧
    ((l.setSlots (withBytes (l.retag n m.r m.c m.ty) n d true)).getM (n + 1)).data = d.extractLsb' 1024 1024 := by
  unfold Lane.retag
  rw [if_pos wide]
  simp [Lane.setSlots, withBytes]

theorem Lane.holds_setSlots :
    (l.setSlots (withBytes (l.retag n m.r m.c m.ty) n d (128 < m.r * m.c * typeBytes m.ty))).Holds n m d := by
  by_cases wide : 128 < m.r * m.c * typeBytes m.ty
  · obtain ⟨slot, partner⟩ := l.getM_setSlots_wide n m d wide
    rw [decide_eq_true wide]
    refine ⟨?_, Lane.pairData_low_of_data (by rw [slot]), fun _ => ?_⟩
    · rw [slot, decide_eq_true wide]
    · rw [Lane.pairData, slot, partner, halves_append]
  · have slot := l.getM_setSlots_narrow n m d wide
    rw [decide_eq_false wide]
    refine ⟨?_, Lane.pairData_low_of_data (by rw [slot]), fun h => absurd h wide⟩
    rw [slot, decide_eq_false wide]

end

/-- The bytes of slot n and its partner with the elements of a matrix put from byte 0 on. -/
def Lane.matBytes (l : Lane) (n : Nat) (m : Mat) : BitVec 2048 :=
  putElems (l.pairData n) (typeBytes m.ty) ((List.range m.el.length).zip m.el)

/-- The elements of a matrix that fits are those in the bytes it is put in. -/
theorem Lane.map_elemOf_matBytes (l : Lane) (n : Nat) {m : Mat} (len : m.el.length = m.r * m.c)
    (most : m.r * m.c * typeBytes m.ty ≤ 256) (small : ∀ e ∈ m.el, e < 2 ^ (8 * typeBytes m.ty)) :
    ((List.range (m.r * m.c)).map fun k => elemOf (l.matBytes n m) (typeBytes m.ty) k) = m.el := by
  have fits : typeBytes m.ty * m.el.length ≤ 256 := by rwa [len, Nat.mul_comm]
  refine List.ext_getElem (by simp [len]) fun k _ hk => ?_
  rw [List.getElem_map, List.getElem_range]
  exact elemOf_putElems_zip _ hk fits (small _ (List.getElem_mem hk))

/-- A result that is written fits its slot, and the lane then holds it (R314). -/
theorem Lane.matWrite_some {l : Lane} {mregs n : Nat} {m : Mat} {w : List (Nat × MReg)} (h : l.matWrite mregs n m = some w) :
    shapeFits mregs n m.r m.c m.ty = true ∧ (l.setSlots w).Holds n m (l.matBytes n m) := by
  unfold Lane.matWrite at h
  split at h
  · cases h
  next fits =>
    rw [not_or, not_not] at fits
    cases h
    exact ⟨fits.1, l.holds_setSlots n m _⟩

/-- An operand with a legal tag that is not the odd register of a pair, read as of its own type (R162, R312). -/
theorem Lane.matAny_of_legal {l : Lane} {mregs n : Nat} (legal : tagLegal mregs n (l.getM n).tag = true) (single : oddOfPair l n = false)
    (named : 1 ≤ tagTy (l.getM n).tag) :
    l.matAny mregs n = some
      { r := tagR (l.getM n).tag, c := tagC (l.getM n).tag, ty := tagTy (l.getM n).tag
        el := (List.range (tagR (l.getM n).tag * tagC (l.getM n).tag)).map fun k =>
          elemOf (l.pairData n) (typeBytes (tagTy (l.getM n).tag)) k } := by
  have byte : tagTy (l.getM n).tag < 256 := Nat.mod_lt _ (by decide)
  have code : (BitVec.ofNat 8 (tagTy (l.getM n).tag)).toNat = tagTy (l.getM n).tag := by
    rw [BitVec.toNat_ofNat, Nat.mod_eq_of_lt byte]
  have nonzero : BitVec.ofNat 8 (tagTy (l.getM n).tag) ≠ 0 := fun zero => by
    rw [zero] at code
    exact absurd code.symm (Nat.ne_of_gt named)
  unfold Lane.matAny Lane.mat
  rw [if_neg (by simp [legal, single]), if_neg (by simp only [if_neg nonzero, code, ne_eq, not_true, not_false_eq_true])]

theorem shapeFits_iff {mregs n r c ty : Nat} : shapeFits mregs n r c ty = true ↔
    r * c * typeBytes ty ≤ 128 ∨ r * c * typeBytes ty ≤ 256 ∧ n % 2 = 0 ∧ n + 1 < mregs := by
  simp [shapeFits, and_assoc]

theorem shapeFits_size {mregs n r c ty : Nat} (h : shapeFits mregs n r c ty = true) : r * c * typeBytes ty ≤ 256 := by
  rcases shapeFits_iff.1 h with narrow | ⟨most, -⟩
  · omega
  · exact most

section
variable {l : Lane} {mregs n : Nat} {m : Mat} {d : BitVec 2048} (held : l.Holds n m d) (fits : shapeFits mregs n m.r m.c m.ty = true)
  (ht : m.ty ∈ allTypes) (hr : 1 ≤ m.r) (hr' : m.r ≤ 8) (hc : 1 ≤ m.c) (hc' : m.c ≤ 8)
include held fits ht hr' hc'

theorem Lane.Holds.not_oddOfPair : oddOfPair l n = false := by
  rw [oddOfPair, held.tag, tagP_mkTag hr' hc' (allTypes_bounds ht).2]
  rcases shapeFits_iff.1 fits with narrow | ⟨-, even, -⟩
  · simp [narrow]
  · simp [even]

include hr hc

theorem Lane.Holds.legal : tagLegal mregs n (l.getM n).tag = true := by
  have hty := (allTypes_bounds ht).2
  rw [tagLegal, held.tag, tagV_mkTag hr' hc' hty, tagP_mkTag hr' hc' hty, tagTy_mkTag hr' hc' hty,
    tagR_mkTag hr' hc' hty hr, tagC_mkTag hr' hc' hty hc]
  by_cases wide : 128 < m.r * m.c * typeBytes m.ty
  · obtain narrow | ⟨most, even, partner⟩ := shapeFits_iff.1 fits
    · omega
    · simp [ht, wide, most, even, partner]
  · simp [ht, wide, Nat.not_lt.1 wide]

/-- A lane that holds a matrix reads as the matrix whose elements are in its bytes. -/
theorem Lane.Holds.matAny : l.matAny mregs n = some
    { m with el := (List.range (m.r * m.c)).map fun k => elemOf d (typeBytes m.ty) k } := by
  obtain ⟨named, hty⟩ := allTypes_bounds ht
  have ty : tagTy (l.getM n).tag = m.ty := by rw [held.tag, tagTy_mkTag hr' hc' hty]
  have rows : tagR (l.getM n).tag = m.r := by rw [held.tag, tagR_mkTag hr' hc' hty hr]
  have cols : tagC (l.getM n).tag = m.c := by rw [held.tag, tagC_mkTag hr' hc' hty hc]
  have elems : ∀ k < m.r * m.c, elemOf (l.pairData n) (typeBytes m.ty) k = elemOf d (typeBytes m.ty) k := by
    intro k hk
    by_cases wide : 128 < m.r * m.c * typeBytes m.ty
    · rw [held.high wide]
    · have inside : typeBytes m.ty * (k + 1) ≤ 128 :=
        (Nat.mul_le_mul_left _ hk).trans ((Nat.mul_comm ..).le.trans (Nat.not_lt.1 wide))
      exact elemOf_congr fun b _ upto => held.low b (by linarith)
  rw [Lane.matAny_of_legal (held.legal fits ht hr hr' hc hc') (held.not_oddOfPair fits ht hr' hc') (ty ▸ named), ty, rows, cols]
  simp only [Option.some.injEq, Mat.mk.injEq, true_and]
  exact List.map_congr_left fun k hk => elems k (List.mem_range.1 hk)

end

/-- Settles O31: the write leaves a tag of the matrix's shape, by which the operand is read, and its elements in the bytes. -/
theorem matrixWriteReads : Obligations.MatrixWriteReads := by
  unfold Obligations.MatrixWriteReads
  intro l mregs n m w ht hr hr' hc hc' len small written
  obtain ⟨fits, held⟩ := Lane.matWrite_some written
  exact (held.matAny fits ht hr hr' hc hc').trans (by rw [l.map_elemOf_matBytes n len (shapeFits_size fits) small])

end Sys2Proof.Machine
end

section
/-! PROOFS. A team at its start (06 R143, R149, R151): its lanes, its one path, and its parameter. -/

namespace Sys2Proof.Machine

theorem tget_range_map {α : Type} (f : Nat → α) (n k : Nat) :
    tget ((List.range n).map fun i => (i, f i)) k = if k < n then some (f k) else none := by
  have from_ (m : Nat) : tget ((List.range' m n).map fun i => (i, f i)) k = if m ≤ k ∧ k < m + n then some (f k) else none := by
    induction n generalizing m with
    | zero => simp [tget]
    | succ n ih =>
      rw [List.range'_succ, List.map_cons, tget, ih]
      by_cases first : k = m
      · simp [first]
      · rw [if_neg first]
        exact if_congr (by omega) rfl rfl
  simpa [List.range_eq_range'] using from_ 0

section
variable (n : Nat)

/-- Registers are zero at the start of a team but for p7 (R143). -/
@[simp] theorem getV_start : Lane.start.getV n = 0 := rfl

@[simp] theorem getP_start : Lane.start.getP n = decide (n = 7) := by
  simp [Lane.getP, Lane.start]

@[simp] theorem getM_start : Lane.start.getM n = { tag := 0, data := 0 } := rfl

end

section
variable (slot : Nat) (r : LaunchRec)

theorem Team.start_lane {l : Nat} (h : l < r.lanesUp) : tget (Team.start slot r).lanes l = some Lane.start := by
  rw [Team.start, tget_range_map, if_pos h]

theorem getLsbD_start_mask (h : r.lanesUp ≤ 1024) (l : Nat) :
    (maskBits 1024 0 r.lanesUp).getLsbD l = decide (l < r.lanesUp) := by
  rw [getLsbD_maskBits, ← Bool.decide_and]
  exact decide_eq_decide.2 (by omega)

end

/-- PARAMLO and PARAMHI read the parameter of the record of the path's grid (Table 12-17). -/
theorem State.special_param {s : State} {c : Cur} {d : Grid} (h : tget s.grids c.g.grid = some d) (l : Nat) :
    s.special c 25 l = d.lr.param.toNat % 2 ^ 32 ∧ s.special c 26 l = d.lr.param.toNat / 2 ^ 32 := by
  have high : d.lr.param.toNat / 2 ^ 32 < 2 ^ 32 := by omega
  simp only [State.special, h, half]
  exact ⟨rfl, Nat.mod_eq_of_lt high⟩

/-- Settles O10: a lane of the team is the lane at its start, its path's mask those lanes, its tables empty. -/
theorem teamStart : Obligations.TeamStart := by
  unfold Obligations.TeamStart
  intro slot r few t
  refine ⟨fun l hl => ⟨Lane.start, Team.start_lane slot r hl, fun n => ⟨getV_start n, getP_start n, getM_start n, ?_⟩⟩,
    ⟨_, rfl, rfl, rfl, rfl, fun _ => rfl, rfl, getLsbD_start_mask r few⟩,
    fun _ => rfl, fun _ => rfl, rfl, rfl, rfl, rfl, rfl, ?_⟩
  · rw [getM_start]
    rfl
  · rintro s c d l hd rfl
    exact State.special_param hd l

end Sys2Proof.Machine
end

section
/-! PROOFS. The invariant (07 R169, 18 R400): whatever a step does, in every unit and in every path, keeps memory in canonical
form and the counters of the cores in agreement, so that a step keeps both; and the state after reset has them. -/

namespace Sys2Proof.Machine

/-- What every meaning keeps, `exec` keeps, which has one arm per instruction and step of a unit. -/
theorem kept_exec {s₀ : State} (i : Instr) (s : State) (h : s₀.Keeps s) : KeptR s₀ (exec i s) :=
  match i with
  | .iadd o => kept_execIadd o s h
  | .isub o => kept_execIsub o s h
  | .imul o => kept_execImul o s h
  | .imad o => kept_execImad o s h
  | .imulhI32 o => kept_execImulhI32 o s h
  | .imulhN32 o => kept_execImulhN32 o s h
  | .imulwI32 o => kept_execImulwI32 o s h
  | .imulwN32 o => kept_execImulwN32 o s h
  | .andV o => kept_execAndV o s h
  | .orV o => kept_execOrV o s h
  | .xorV o => kept_execXorV o s h
  | .andn o => kept_execAndn o s h
  | .orn o => kept_execOrn o s h
  | .xnor o => kept_execXnor o s h
  | .shl o => kept_execShl o s h
  | .shr o => kept_execShr o s h
  | .sar o => kept_execSar o s h
  | .rol o => kept_execRol o s h
  | .ror o => kept_execRor o s h
  | .shl64 o => kept_execShl64 o s h
  | .shr64 o => kept_execShr64 o s h
  | .sar64 o => kept_execSar64 o s h
  | .iminI32 o => kept_execIminI32 o s h
  | .imaxI32 o => kept_execImaxI32 o s h
  | .iminN32 o => kept_execIminN32 o s h
  | .imaxN32 o => kept_execImaxN32 o s h
  | .iabs o => kept_execIabs o s h
  | .ineg o => kept_execIneg o s h
  | .iaddsI32 o => kept_execIaddsI32 o s h
  | .iaddsN32 o => kept_execIaddsN32 o s h
  | .popc o => kept_execPopc o s h
  | .clz o => kept_execClz o s h
  | .ctz o => kept_execCtz o s h
  | .brev o => kept_execBrev o s h
  | .bswap o => kept_execBswap o s h
  | .notV o => kept_execNotV o s h
  | .bfeI32 o x => kept_execBfeI32 o x s h
  | .bfeN32 o x => kept_execBfeN32 o x s h
  | .bfi o x => kept_execBfi o x s h
  | .iaddi o => kept_execIaddi o s h
  | .mov o => kept_execMov o s h
  | .movk o x => kept_execMovk o x s h
  | .movkW o x => kept_execMovkW o x s h
  | .icmpI32 o => kept_execIcmpI32 o s h
  | .icmpN32 o => kept_execIcmpN32 o s h
  | .iadd64 o => kept_execIadd64 o s h
  | .isub64 o => kept_execIsub64 o s h
  | .sel o x => kept_execSel o x s h
  | .lea o sh => kept_execLea o sh s h
  | .pand o => kept_execPand o s h
  | .por o => kept_execPor o s h
  | .pxor o => kept_execPxor o s h
  | .pandn o => kept_execPandn o s h
  | .pmov o => kept_execPmov o s h
  | .pnot o => kept_execPnot o s h
  | .psetv o => kept_execPsetv o s h
  | .pgetv o => kept_execPgetv o s h
  | .voteAny o => kept_execVoteAny o s h
  | .voteAll o => kept_execVoteAll o s h
  | .voteBallot o => kept_execVoteBallot o s h
  | .voteCount o => kept_execVoteCount o s h
  | .cableAt o => kept_execCableAt o s h
  | .cableBack o => kept_execCableBack o s h
  | .cableFwd o => kept_execCableFwd o s h
  | .cableFlip o => kept_execCableFlip o s h
  | .qswph o => kept_execQswph o s h
  | .qswpv o => kept_execQswpv o s h
  | .qswpd o => kept_execQswpd o s h
  | .qbc0 o => kept_execQbc0 o s h
  | .qbc1 o => kept_execQbc1 o s h
  | .qbc2 o => kept_execQbc2 o s h
  | .qbc3 o => kept_execQbc3 o s h
  | .foldAddI32 o => kept_execFoldAddI32 o s h
  | .foldMinI32 o => kept_execFoldMinI32 o s h
  | .foldMaxI32 o => kept_execFoldMaxI32 o s h
  | .foldAnd o => kept_execFoldAnd o s h
  | .foldOr o => kept_execFoldOr o s h
  | .foldXor o => kept_execFoldXor o s h
  | .foldFadd o => kept_execFoldFadd o s h
  | .nzs o => kept_execNzs o s h
  | .sadd o => kept_execSadd o s h
  | .ssub o => kept_execSsub o s h
  | .smul o => kept_execSmul o s h
  | .sand o => kept_execSand o s h
  | .sor o => kept_execSor o s h
  | .sxor o => kept_execSxor o s h
  | .sshl o => kept_execSshl o s h
  | .sshr o => kept_execSshr o s h
  | .saddi o => kept_execSaddi o s h
  | .smovk o x => kept_execSmovk o x s h
  | .smovkW o x => kept_execSmovkW o x s h
  | .scmp o => kept_execScmp o s h
  | .vbc o => kept_execVbc o s h
  | .sfirst o => kept_execSfirst o s h
  | .slane o => kept_execSlane o s h
  | .fadd o => kept_execFadd o s h
  | .fsub o => kept_execFsub o s h
  | .fmul o => kept_execFmul o s h
  | .ffma o => kept_execFfma o s h
  | .fmin o => kept_execFmin o s h
  | .fmax o => kept_execFmax o s h
  | .fminp o => kept_execFminp o s h
  | .fmaxp o => kept_execFmaxp o s h
  | .fabs o => kept_execFabs o s h
  | .fneg o => kept_execFneg o s h
  | .fcopys o => kept_execFcopys o s h
  | .fcmp o => kept_execFcmp o s h
  | .rcp o => kept_execRcp o s h
  | .rsq o => kept_execRsq o s h
  | .exp2 o => kept_execExp2 o s h
  | .log2 o => kept_execLog2 o s h
  | .sinr o => kept_execSinr o s h
  | .cosr o => kept_execCosr o s h
  | .tanh o => kept_execTanh o s h
  | .floor o => kept_execFloor o s h
  | .ceil o => kept_execCeil o s h
  | .trunc o => kept_execTrunc o s h
  | .rint o => kept_execRint o s h
  | .fract o => kept_execFract o s h
  | .fdiv o => kept_execFdiv o s h
  | .fsqrt o => kept_execFsqrt o s h
  | .hadd2 o => kept_execHadd2 o s h
  | .hsub2 o => kept_execHsub2 o s h
  | .hmul2 o => kept_execHmul2 o s h
  | .hfma2 o => kept_execHfma2 o s h
  | .hmin2 o => kept_execHmin2 o s h
  | .hmax2 o => kept_execHmax2 o s h
  | .badd2 o => kept_execBadd2 o s h
  | .bsub2 o => kept_execBsub2 o s h
  | .bmul2 o => kept_execBmul2 o s h
  | .bfma2 o => kept_execBfma2 o s h
  | .bmin2 o => kept_execBmin2 o s h
  | .bmax2 o => kept_execBmax2 o s h
  | .dadd o => kept_execDadd o s h
  | .dsub o => kept_execDsub o s h
  | .dmul o => kept_execDmul o s h
  | .dfma o => kept_execDfma o s h
  | .dmin o => kept_execDmin o s h
  | .dmax o => kept_execDmax o s h
  | .ddiv o => kept_execDdiv o s h
  | .dsqrt o => kept_execDsqrt o s h
  | .dcmp o => kept_execDcmp o s h
  | .cvt o x => kept_execCvt o x s h
  | .mshapeImm o x => kept_execMshapeImm o x s h
  | .mshapeLane o x => kept_execMshapeLane o x s h
  | .mld o x => kept_execMld o x s h
  | .mldT o x => kept_execMldT o x s h
  | .mst o x => kept_execMst o x s h
  | .mstT o x => kept_execMstT o x s h
  | .mldw o x => kept_execMldw o x s h
  | .mmul o x => kept_execMmul o x s h
  | .mma o x => kept_execMma o x s h
  | .mmat o x => kept_execMmat o x s h
  | .mmab o x => kept_execMmab o x s h
  | .madd o x => kept_execMadd o x s h
  | .msub o x => kept_execMsub o x s h
  | .mhad o x => kept_execMhad o x s h
  | .mscal o x => kept_execMscal o x s h
  | .mexp2 o x => kept_execMexp2 o x s h
  | .mmax o x => kept_execMmax o x s h
  | .mzero o x => kept_execMzero o x s h
  | .mcvt o x => kept_execMcvt o x s h
  | .mtrn o x => kept_execMtrn o x s h
  | .mmov o x => kept_execMmov o x s h
  | .mget o x => kept_execMget o x s h
  | .mput o x => kept_execMput o x s h
  | .mred o x => kept_execMred o x s h
  | .mshget o x => kept_execMshget o x s h
  | .minv o x => kept_execMinv o x s h
  | .mlu o x => kept_execMlu o x s h
  | .mchol o x => kept_execMchol o x s h
  | .msolvl o x => kept_execMsolvl o x s h
  | .msolvu o x => kept_execMsolvu o x s h
  | .mpow o x => kept_execMpow o x s h
  | .mdet o x => kept_execMdet o x s h
  | .topkIns o x => kept_execTopkIns o x s h
  | .topkGet o x => kept_execTopkGet o x s h
  | .topkClr o x => kept_execTopkClr o x s h
  | .ldG o x => kept_execLdG o x s h
  | .ldL o x => kept_execLdL o x s h
  | .ldP o x => kept_execLdP o x s h
  | .ldC o x => kept_execLdC o x s h
  | .stG o x => kept_execStG o x s h
  | .stL o x => kept_execStL o x s h
  | .stP o x => kept_execStP o x s h
  | .stGw o x => kept_execStGw o x s h
  | .atom o x => kept_execAtom o x s h
  | .red o x => kept_execRed o x s h
  | .atomL o x => kept_execAtomL o x s h
  | .redL o x => kept_execRedL o x s h
  | .ldf o x => kept_execLdf o x s h
  | .stf o x => kept_execStf o x s h
  | .fence o x => kept_execFence o x s h
  | .pfence o x => kept_execPfence o x s h
  | .wback o x => kept_execWback o x s h
  | .smp o x => kept_execSmp o x s h
  | .ldt o x => kept_execLdt o x s h
  | .binit o x => kept_execBinit o x s h
  | .barv o x => kept_execBarv o x s h
  | .bexp o x => kept_execBexp o x s h
  | .bwait o x => kept_execBwait o x s h
  | .btest o x => kept_execBtest o x s h
  | .barvx o x => kept_execBarvx o x s h
  | .mark o x => kept_execMark o x s h
  | .unmark o x => kept_execUnmark o x s h
  | .frog o x => kept_execFrog o x s h
  | .frogq o x => kept_execFrogq o x s h
  | .pref o x => kept_execPref o x s h
  | .cpyGl o x => kept_execCpyGl o x s h
  | .cpyLg o x => kept_execCpyLg o x s h
  | .cpyt o x => kept_execCpyt o x s h
  | .cpytG o x => kept_execCpytG o x s h
  | .cpym o x => kept_execCpym o x s h
  | .cpyg o x => kept_execCpyg o x s h
  | .cdrain o x => kept_execCdrain o x s h
  | .qapp o x => kept_execQapp o x s h
  | .launch o x => kept_execLaunch o x s h
  | .rapp o x => kept_execRapp o x s h
  | .wmadv o x => kept_execWmadv o x s h
  | .sclose o x => kept_execSclose o x s h
  | .wpub o x => kept_execWpub o x s h
  | .wpubAmend o x => kept_execWpubAmend o x s h
  | .bra o => kept_execBra o s h
  | .brd o => kept_execBrd o s h
  | .brx o => kept_execBrx o s h
  | .callx o => kept_execCallx o s h
  | .call o => kept_execCall o s h
  | .ret o => kept_execRet o s h
  | .rgive o => kept_execRgive o s h
  | .rclaim o => kept_execRclaim o s h
  | .srd o ix => kept_execSrd o ix s h
  | .swr o ix => kept_execSwr o ix s h
  | .trap o => kept_execTrap o s h
  | .trapReturn o => kept_execTrapReturn o s h
  | .trapTerminate o => kept_execTrapTerminate o s h
  | .tlbinvAll o x => kept_execTlbinvAll o x s h
  | .tlbinvAsid o x => kept_execTlbinvAsid o x s h
  | .tlbinvPage o x => kept_execTlbinvPage o x s h
  | .tlbinvGpage o x => kept_execTlbinvGpage o x s h
  | .imad24I24 o => kept_execImad24I24 o s h
  | .imad24N24 o => kept_execImad24N24 o s h
  | .dot4i8I8 o => kept_execDot4i8I8 o s h
  | .dot4i8N8 o => kept_execDot4i8N8 o s h
  | .ldro o x => kept_execLdro o x s h
  | .succ => kept_execSucc s h
  | .predw => kept_execPredw s h
  | .exit => kept_execExit s h
  | .endTeam => kept_execEndTeam s h
  | .nop => kept_execNop s h
  | .yield => kept_execYield s h
  | .bkpt => kept_execBkpt s h
  | .eret => kept_execEret s h
  | .clauseStart => kept_execClauseStart s h
  | .flagRelease => kept_execFlagRelease s h
  | .joinArrival => kept_execJoinArrival s h
  | .teamSwap => kept_execTeamSwap s h
  | .forcedSwap => kept_execForcedSwap s h
  | .leaveGrant => kept_execLeaveGrant s h
  | .droopStep => kept_execDroopStep s h
  | .watchdogExpiry => kept_execWatchdogExpiry s h
  | .trapDelivery => kept_execTrapDelivery s h
  | .retiredOpcodeEmulation => kept_execRetiredOpcodeEmulation s h
  | .groupPreemption => kept_execGroupPreemption s h
  | .groupResumption => kept_execGroupResumption s h
  | .priorityPreemption => kept_execPriorityPreemption s h
  | .groupDispatch => kept_execGroupDispatch s h
  | .gridCompletion => kept_execGridCompletion s h
  | .predecessorArrival => kept_execPredecessorArrival s h
  | .queuePoll => kept_execQueuePoll s h
  | .packetLaunch => kept_execPacketLaunch s h
  | .packetCopy => kept_execPacketCopy s h
  | .packetSignal => kept_execPacketSignal s h
  | .packetWaitseq => kept_execPacketWaitseq s h
  | .waitseqPoll => kept_execWaitseqPoll s h
  | .packetWmadv => kept_execPacketWmadv s h
  | .packetRecords => kept_execPacketRecords s h
  | .packetCompletion => kept_execPacketCompletion s h
  | .asyncCompletion => kept_execAsyncCompletion s h
  | .copySectorLand => kept_execCopySectorLand s h
  | .creelSlotGrant => kept_execCreelSlotGrant s h
  | .drainSlotReady => kept_execDrainSlotReady s h
  | .queueAppendRoom => kept_execQueueAppendRoom s h
  | .homeSliceRead => kept_execHomeSliceRead s h
  | .homeSliceWrite => kept_execHomeSliceWrite s h
  | .futureCellRead => kept_execFutureCellRead s h
  | .deferralExpiry => kept_execDeferralExpiry s h
  | .ownershipRequest => kept_execOwnershipRequest s h
  | .farAtomic => kept_execFarAtomic s h
  | .contendedExpiry => kept_execContendedExpiry s h
  | .rdcInvalidation => kept_execRdcInvalidation s h
  | .rdcFill => kept_execRdcFill s h
  | .softError => kept_execSoftError s h
  | .patrolScrub => kept_execPatrolScrub s h
  | .sweep => kept_execSweep s h
  | .frogInterval => kept_execFrogInterval s h
  | .resweepPass => kept_execResweepPass s h
  | .recordPlacement => kept_execRecordPlacement s h
  | .stageRecompute => kept_execStageRecompute s h
  | .windowTransit => kept_execWindowTransit s h
  | .amendmentLaunch => kept_execAmendmentLaunch s h
  | .lateTimerExpiry => kept_execLateTimerExpiry s h
  | .windowFree => kept_execWindowFree s h
  | .sourceIdleScan => kept_execSourceIdleScan s h
  | .watermarkPropagation => kept_execWatermarkPropagation s h
  | .transportDescriptor => kept_execTransportDescriptor s h
  | .frameQueueAppend => kept_execFrameQueueAppend s h
  | .frameRemoteWrite => kept_execFrameRemoteWrite s h
  | .frameRemoteAtomic => kept_execFrameRemoteAtomic s h
  | .frameWatermark => kept_execFrameWatermark s h
  | .frameAck => kept_execFrameAck s h
  | .frameNack => kept_execFrameNack s h
  | .transportAckTimeout => kept_execTransportAckTimeout s h
  | .ctxopCreate => kept_execCtxopCreate s h
  | .ctxopReloadScope => kept_execCtxopReloadScope s h
  | .ctxopReloadQueues => kept_execCtxopReloadQueues s h
  | .ctxopReloadStream => kept_execCtxopReloadStream s h
  | .ctxopKill => kept_execCtxopKill s h
  | .killComplete => kept_execKillComplete s h
  | .ctxopResume => kept_execCtxopResume s h
  | .ctxopDeliver => kept_execCtxopDeliver s h
  | .ctxopTerminate => kept_execCtxopTerminate s h
  | .ctxopSetTransportRing => kept_execCtxopSetTransportRing s h
  | .ctxopInvalidate => kept_execCtxopInvalidate s h
  | .ctxopUndefined => kept_execCtxopUndefined s h
  | .ntfbaseWrite => kept_execNtfbaseWrite s h
  | .ntftailWrite => kept_execNtftailWrite s h
  | .pwrcapWrite => kept_execPwrcapWrite s h
  | .hwslWrite => kept_execHwslWrite s h
  | .registerWrite => kept_execRegisterWrite s h
  | .hostWindowRead => kept_execHostWindowRead s h
  | .hostWindowWrite => kept_execHostWindowWrite s h
  | .hostWindowAtomic => kept_execHostWindowAtomic s h
  | .configRequest => kept_execConfigRequest s h
  | .powerGood => kept_execPowerGood s h
  | .mctpControlMessage => kept_execMctpControlMessage s h
  | .readTemperatures => kept_execReadTemperatures s h
  | .readPower => kept_execReadPower s h
  | .readSoftErrorCounts => kept_execReadSoftErrorCounts s h
  | .readIdent => kept_execReadIdent s h
  | .faultReport => kept_execFaultReport s h
  | .attestationRequest => kept_execAttestationRequest s h
  | .illegalInstruction => kept_execIllegalInstruction s h
  | .pcieCompletionFromHost => kept_execPcieCompletionFromHost s h

section
variable {s₀ : State} (s : State)

/-! ### Before the turn (R167 to R178) -/

/-- What passes before the machine acts: each part, in the order in which it is done. -/
theorem kept_before (h : s₀.Keeps s) : s₀.Keeps s.before := by
  have units : s₀.Keeps
      ({ s.tick with mode := .whole } : State).expireDue.watchdogs.grantsDue.droopDue.killsDue.timedDue.resumesDue :=
    kept_resumesDue _ <| kept_timedDue _ kept_exec <| kept_killsDue _ <| kept_droopDue _ <| kept_grantsDue _ <|
      kept_watchdogs _ <| kept_expireDue _ (kept_tick s h)
  have paths := kept_landSome _ <| kept_invalsDone _ <| kept_retries _ <| kept_trapsDue _ units
  exact kept_foldl (kept_forPaths _ _ paths fun u c hu => kept_notePath u c hu) fun u n hu => kept_prefer u n hu

/-! ### A path's turn -/

/-- A path that acts is current first; then it arrives at its join, starts a clause, traps on words that are no instruction, waits,
or executes its next instruction. -/
theorem kept_runPath (c : Cur) (h : s₀.Keeps s) : KeptR s₀ (s.runPath c) := by
  have entered := kept_enter s c h
  unfold State.runPath
  dsimp only
  split
  · split
    · exact kept_exec _ _ (kept_modPath _ _ _ entered)
    · exact kept_exec _ _ entered
  · split
    · exact kept_exec _ _ entered
    · next i _ =>
      split
      · refine keptR_next ?_
        split
        · exact kept_release _ _ _ (kept_flushFor _ _ _ entered)
        · exact entered
      · exact kept_exec i _ (kept_flushFor _ c.r (flushOf i) entered)

theorem kept_runTurn (r : Ref) (h : s₀.Keeps s) : KeptR s₀ (s.runTurn r) := by
  unfold State.runTurn
  split
  · exact keptR_next h
  · split
    · exact kept_runPath s _ h
    · exact keptR_next h

/-! ### Units, and no turn given -/

theorem kept_runEvent (i : Instr) (x : Input) (h : s₀.Keeps s) : KeptR s₀ (s.runEvent i x) := by
  unfold State.runEvent
  split
  · exact kept_attempt s i x kept_exec h
  · exact keptR_next h

/-- Where no turn is given: a swap, a path, a flag, an issued access, or time alone. -/
theorem kept_runAny (h : s₀.Keeps s) : KeptR s₀ s.runAny := by
  unfold State.runAny
  split
  · exact kept_exec _ _ h
  · split
    · exact kept_runPath s _ h
    · split
      · exact kept_exec _ _ h
      · split
        · exact keptR_next h
        · exact keptR_next (kept_doIssue s _ h)

/-! ### The step -/

/-- A step keeps what its state had: time passes first, then a path, some of its lanes, an issued access or a unit has its turn, or what
is ready acts. -/
theorem kept_step : KeptR s (step s) := by
  have passed : s.Keeps s.before := kept_before s ⟨id, id⟩
  unfold step
  generalize s.before = u at passed
  split
  · exact kept_runAny _ passed
  · exact kept_runTurn _ _ passed
  · exact kept_runTurn _ _ passed
  · exact keptR_next (kept_doEvent _ _ _ _ passed)
  · exact kept_runEvent _ _ _ passed

end

/-- An operation that keeps memory's form and the counters keeps the invariant. -/
theorem State.Keeps.inv {s t : State} (h : s.Keeps t) (inv : s.Inv) : t.Inv := by
  obtain ⟨keepsForm, keepsCounters⟩ := h
  obtain ⟨form, counters⟩ := inv
  exact ⟨keepsForm form, keepsCounters counters⟩

/-- Settles O6: whatever the turn, the next state keeps what the state had. -/
theorem stepKeepsInv : Obligations.StepKeepsInv := by
  unfold Obligations.StepKeepsInv
  intro s t inv next
  exact ((kept_step s).out t next).inv inv

/-- Settles O7: after reset memory lists no byte, and no core has a clock yet. -/
theorem resetInv : Obligations.ResetInv := by
  unfold Obligations.ResetInv
  exact ⟨rfl, List.forall_mem_nil _⟩

end Sys2Proof.Machine
end

section
/-! PROOFS. Queue engines and their packets (08 R181 to R191, R200): headers, the packets of each kind, WAITSEQ polls, completions. -/

namespace Sys2Proof.Machine

/-! ### What an engine carries, and the copy of ERRIDX (R188, R200) -/

/-- Accesses change no engine. -/
theorem State.OnlyMemory.engines {s t : State} (h : s.OnlyMemory t) : t.engines = s.engines := by
  have same : t.bare.engines = s.bare.engines := by rw [h.rest]
  exact same

/-- Writing held notifications into the ring changes no engine. -/
theorem flushNotes_engines (n : Nat) (s : State) : (State.flushNotes n s).engines = s.engines := by
  have written (u : State) (pa : Nat) (bs : List Byte) : (u.homeWrite .outside pa bs).engines = u.engines :=
    (u.dirty_homePut .outside true false pa bs).toOnlyMemory.engines
  induction n generalizing s with
  | zero => rfl
  | succ n ih =>
    unfold State.flushNotes
    split
    · rfl
    · split
      · exact (ih _).trans (written ..)
      · rfl

theorem State.engine_modEngine (s : State) (q : QRef) (f : Engine → Engine) : (s.modEngine q f).engine q = f (s.engine q) := by
  unfold State.engine State.modEngine
  rw [tget_tset_self]
  rfl

theorem State.stopQueue_errCopy (s : State) (q : QRef) (h : Head) (e : QErr) :
    ((s.stopQueue q h e).engine q).errCopy = BitVec.ofNat 64 (2 ^ 56 * e.fault + h.rd % 2 ^ 56) := by
  have noted (u : State) (info : Nat) : (u.notify 1 (256 * e.fault + e.code) q.asid 0 info).engine q = u.engine q := by
    unfold State.engine
    rw [show (u.notify 1 (256 * e.fault + e.code) q.asid 0 info).engines = u.engines from flushNotes_engines ..]
  unfold State.stopQueue
  rw [noted, State.engine_modEngine]

/-- The packet that an engine carries is one of its packets, a COPY or RECORDS packet, and not done. -/
theorem Engine.carries_spec {e : Engine} {p : Packet} (h : e.carries = some p) :
    p ∈ e.packets ∧ (p.kind = 2 ∨ p.kind = 7) ∧ p.done = false := by
  have sel := List.find?_some h
  simp only [Bool.and_eq_true, Bool.or_eq_true, decide_eq_true_eq, Bool.not_eq_true] at sel
  exact ⟨List.mem_of_find?_eq_some h, sel⟩

theorem State.packetOver_iff {s : State} {asid : Nat} {x : Ctx} (hx : tget s.ctxs asid = some x) (p : Packet) :
    s.packetOver asid p = true ↔ p.done = true ∧ (p.kind = 7 → x.waiting (field (natLE p.bytes) 4 1) = []) := by
  unfold State.packetOver
  rw [hx]
  by_cases kind : p.kind = 7 <;> simp [kind]

/-! ### Polls (R181, R182, R185) -/

section
variable {s u : State} {q : QRef} {h : Head} {rest : Nat} (hi : s.input = .queue q) (hr : s.readHeader q = (u, some (h, rest)))
include hi hr

/-- The state in which an engine has read its queue's header: it has polled now. -/
def State.polled (u : State) (q : QRef) : State := u.modEngine q fun e => { e with polled := u.etime }

theorem exec_queuePoll_off (off : bitOf h.conf 8 = false ∨ bitOf h.conf 15 = true) : exec .queuePoll s = .next (u.polled q) := by
  have stands : ¬ bitOf h.conf 8 = true ∨ bitOf h.conf 15 = true := off.imp_left Bool.eq_false_iff.1
  have ran : exec .queuePoll s = execQueuePoll s := rfl
  rw [ran, execQueuePoll, hi]
  simp only [hr, if_pos stands]
  rfl

variable (on : bitOf h.conf 8 = true) (sound : bitOf h.conf 15 = false)
include on sound

theorem exec_queuePoll_faulty {code : Nat} (bad : headerError (q.q = 64) h.conf rest = some code) :
    exec .queuePoll s = .next ((u.polled q).stopQueue q h { code := code, fault := 0 }) := by
  have ran : exec .queuePoll s = execQueuePoll s := rfl
  rw [ran, execQueuePoll, hi]
  simp only [hr, on, sound, bad, not_true_eq_false, Bool.false_eq_true, or_self, if_false]
  rfl

/-- A sound header leaves the packet at the head: one of a known kind, or that may not start yet, is left for its own step. -/
theorem exec_queuePoll_head (good : headerError (q.q = 64) h.conf rest = none) (queue : q.q ≠ 64) {v : State} {k : Head}
    (hv : (u.polled q).headOf q = (v, some k)) : exec .queuePoll s = .next
      (if natLE k.packet % 256 ∈ [1, 2, 3, 4, 6, 7] ∨ (v.mayStart q k.conf false).isNone = true then v
        else v.stopQueue q k { code := 1, fault := 0 }) := by
  have ran : exec .queuePoll s = execQueuePoll s := rfl
  have header : headerError (decide False) h.conf rest = none := by simpa [queue] using good
  unfold State.polled at hv
  rw [ran, execQueuePoll, hi]
  simp only [hr, on, sound, header, queue, hv, not_true_eq_false, Bool.false_eq_true, or_self, if_false]
  refine congrArg Host.Outcome.next (if_congr ?_ rfl rfl)
  simp [or_assoc]

end

/-! ### Packets (R186 to R189) -/

theorem i64_toInt (n : Nat) : i64 n = (BitVec.ofNat 64 n).toInt := by
  unfold i64
  rw [BitVec.toInt_eq_toNat_cond, BitVec.toNat_ofNat]
  refine if_congr (by omega) rfl rfl

/-- What becomes of a packet that has been checked: a fault stops its queue (R187), else it is acted on. -/
def State.judge (q : QRef) (h : Head) (c : State × Option QErr) (act : State → State) : State :=
  match c with
  | (v, some e) => v.stopQueue q h e
  | (v, none) => act v

/-- The step of a packet whose checks have come to `c`. -/
def State.judged (q : QRef) (h : Head) (act : State → State) (c : State × Option QErr) : Res := .next (State.judge q h c act)

theorem State.checkPacket_none (s : State) (h : Head) (asid : Nat) (pages : List (Nat × Nat × Access)) :
    s.checkPacket h asid none pages = s.checkPages h asid pages := rfl

/-- Reserved fields that hold 0 are no fault. -/
theorem ite_reserved {α : Type} {a b : Nat} (ha : a = 0) (hb : b = 0) (x y : α) : (if a ≠ 0 ∨ b ≠ 0 then x else y) = y :=
  if_neg (not_or.2 ⟨not_not.2 ha, not_not.2 hb⟩)

/-- A packet that names a word: its reserved fields and then the word's alignment are checked, and then its page. -/
theorem State.judged_word (q : QRef) (h : Head) (u : State) (act : State → State) (a b va asid : Nat) (acc : Access) :
    let r := State.judged q h act
      (u.checkPacket h asid (if a ≠ 0 ∨ b ≠ 0 then some 2 else if va % 8 ≠ 0 then some 3 else none) [(va, 8, acc)])
    (a ≠ 0 ∨ b ≠ 0 → r = .next (u.stopQueue q h { code := 2, fault := 0 })) ∧
    (a = 0 → b = 0 → va % 8 ≠ 0 → r = .next (u.stopQueue q h { code := 3, fault := 0 })) ∧
    (a = 0 → b = 0 → va % 8 = 0 → ∀ v, u.checkPages h asid [(va, 8, acc)] = (v, none) → r = .next (act v)) := by
  dsimp only
  refine ⟨fun bad => by rw [if_pos bad]; rfl, fun zero zero' odd => ?_, fun zero zero' aligned v good => ?_⟩
  · rw [ite_reserved zero zero', if_pos odd]
    rfl
  · rw [ite_reserved zero zero', if_neg (not_not.2 aligned), State.checkPacket_none, good]
    rfl

/-- The packet of a head as it starts. -/
def Head.begun (h : Head) (done : Bool) (v : State) : Packet := { h.start v.etime with done := done }

section
variable {s u : State} {q : QRef} {h : Head} {early : Option Nat} (hi : s.input = .queue q)
include hi

/-- The grid that a LAUNCH starts, a packet of its queue's grid before it being terminated or not (R124, R186, R196). -/
def Head.launches (h : Head) (q : QRef) (early : Option Nat) (failed : Bool) : Grid :=
  { asid := q.asid, lr := LaunchRec.ofNat (natLE h.packet), origin := .packet q h.rd, next := 0, endedN := 0, started := none
    waitSince := none, early := early.isSome, pred := early, predDone := false, predFail := failed, desc := 0, head := [], res := 0
    published := false, killed := false, done := false, expired := none }

theorem exec_packetLaunch (hn : s.nextPacket q 1 = (u, some (h, early))) : exec .packetLaunch s = .next
    (State.judge q h (u.checkRecord h.die q.asid h.x (natLE h.packet)) fun v =>
      State.consume { v with fresh := v.fresh + 1, grids := tset v.grids v.fresh (h.launches q early (v.prevKilled q)) } q h
        { h.begun false v with grid := some v.fresh }) := by
  have ran : exec .packetLaunch s = execPacketLaunch s := rfl
  rw [ran, execPacketLaunch, hi]
  simp only [hn]
  rcases u.checkRecord h.die q.asid h.x (natLE h.packet) with ⟨v, _ | e⟩ <;> rfl

theorem exec_packetCopy (hn : s.nextPacket q 2 = (u, some (h, early))) : exec .packetCopy s = .next
    (let n := natLE h.packet
     State.judge q h (u.checkPacket h q.asid
       (if bitsOf n 16 48 ≠ 0 ∨ field n 0x30 16 ≠ 0 then some 2 else if 2 ^ 40 < field n 0x18 8 then some 6 else none)
       ([(field n 8 8, field n 0x18 8, .read), (field n 0x10 8, field n 0x18 8, .write)] ++ completionPage (field n 0x20 8)))
       fun v => v.consume q h (h.begun false v)) := by
  have ran : exec .packetCopy s = execPacketCopy s := rfl
  rw [ran, execPacketCopy, hi]
  simp only [hn]
  generalize u.checkPacket .. = c
  rcases c with ⟨v, _ | e⟩ <;> rfl

theorem exec_packetSignal (hn : s.nextPacket q 3 = (u, some (h, early))) : exec .packetSignal s = .next
    (let n := natLE h.packet
     State.judge q h (u.checkPacket h q.asid
       (if bitsOf n 10 54 ≠ 0 ∨ field n 0x18 40 ≠ 0 then some 2 else if field n 8 8 % 8 ≠ 0 then some 3 else none)
       [(field n 8 8, 8, if bitOf n 9 then .rmw else .write)])
       fun v => (v.consume q h (h.begun true v)).signal h q.asid (field n 8 8) (field n 0x10 8) (bitOf n 9)) := by
  have ran : exec .packetSignal s = execPacketSignal s := rfl
  rw [ran, execPacketSignal, hi]
  simp only [hn]
  generalize u.checkPacket .. = c
  rcases c with ⟨v, _ | e⟩ <;> rfl

theorem exec_packetWaitseq (hn : s.nextPacket q 4 = (u, some (h, early))) : exec .packetWaitseq s = .next
    (let n := natLE h.packet
     State.judge q h (u.checkPacket h q.asid
       (if bitsOf n 9 55 ≠ 0 ∨ field n 0x18 40 ≠ 0 then some 2 else if field n 8 8 % 8 ≠ 0 then some 3 else none)
       [(field n 8 8, 8, .read)])
       fun v => (v.consume q h (h.begun false v)).waitRead h q h.rd (field n 8 8) (field n 0x10 8)) := by
  have ran : exec .packetWaitseq s = execPacketWaitseq s := rfl
  rw [ran, execPacketWaitseq, hi]
  simp only [hn]
  generalize u.checkPacket .. = c
  rcases c with ⟨v, _ | e⟩ <;> rfl

/-- A WMADV packet names no page: its fields are all that is checked. -/
theorem exec_packetWmadv (hn : s.nextPacket q 6 = (u, some (h, early))) : exec .packetWmadv s = .next
    (let n := natLE h.packet
     State.judge q h (u.checkPacket h q.asid
       (if bitsOf n 9 23 ≠ 0 ∨ field n 5 3 ≠ 0 ∨ field n 0x10 48 ≠ 0 then some 2
         else if ¬ h.x.hasSource (field n 4 1) then some 3 else none) [])
       fun v => (v.consume q h (h.begun true v)).deliverInv.wmadv q.asid (field n 4 1) (BitVec.ofNat 64 (field n 8 8)).toInt) := by
  have ran : exec .packetWmadv s = execPacketWmadv s := rfl
  rw [ran, execPacketWmadv, hi]
  simp only [hn]
  split
  next e he => rw [he]; rfl
  next he => rw [he, i64_toInt]; rfl

end

/-! ### RECORDS packets (R189, R200) -/

section
variable {s u : State} {q : QRef} {h : Head}

/-- The fault of a RECORDS packet's fields: a reserved field, else a count of 0 or a source not in use. -/
def Head.recordsFault (h : Head) : Option Nat :=
  let n := natLE h.packet
  if bitsOf n 9 23 ≠ 0 ∨ field n 0x10 48 ≠ 0 then some 2
  else if field n 5 3 = 0 ∨ ¬ h.x.hasSource (field n 4 1) then some 3 else none

section
variable {early : Option Nat} (hn : s.nextPacket q 7 = (u, some (h, early)))
include hn

theorem State.startRecords_faulty {e : Nat} (hf : h.recordsFault = some e) :
    s.startRecords q = u.stopQueue q h { code := e, fault := 0 } := by
  unfold Head.recordsFault at hf
  unfold State.startRecords
  simp only [hn]
  simp only at hf
  rw [hf]

theorem State.startRecords_sound (hf : h.recordsFault = none) {k : Source} (hk : tget h.x.sources (field (natLE h.packet) 4 1) = some k) :
    s.startRecords q = State.judge q h
      (u.checkPages h q.asid [(field (natLE h.packet) 8 8, field (natLE h.packet) 5 3 * 2 ^ k.slotLog, .read)]) fun v =>
      State.judge q h (v.checkPlens h q.asid k (field (natLE h.packet) 8 8) (field (natLE h.packet) 5 3)) fun w =>
        w.consume q h { h.begun false w with left := field (natLE h.packet) 5 3 } := by
  unfold Head.recordsFault at hf
  unfold State.startRecords
  simp only [hn]
  simp only at hf
  rw [hf, hk]
  dsimp only
  rcases u.checkPages .. with ⟨v, _ | e⟩
  · dsimp only [State.judge]
    rcases v.checkPlens .. with ⟨w, _ | e⟩ <;> rfl
  · rfl

end

/-- A queue whose engine carries no RECORDS packet has its next one started. -/
theorem exec_packetRecords_starts
    (hi : (s.input = .queue q ∧ ∀ p, (s.engine q).carries = some p → p.kind ≠ 7) ∨ ∃ i, s.input = .packet q i) :
    exec .packetRecords s = .next (s.startRecords q) := by
  have ran : exec .packetRecords s = execPacketRecords s := rfl
  rw [ran, execPacketRecords]
  rcases hi with ⟨hi, idle⟩ | ⟨i, hi⟩
  · rw [hi]
    cases hc : (s.engine q).carries with
    | none => simp only [hc]
    | some p => simp only [hc, if_neg (idle p hc)]
  · rw [hi]

theorem exec_packetRecords_next (hi : s.input = .queue q) {p : Packet} (hp : (s.engine q).carries = some p) (kind : p.kind = 7)
    {rest : Nat} (hr : s.readHeader q = (u, some (h, rest))) : exec .packetRecords s = .next (u.nextRecord h q p) := by
  have ran : exec .packetRecords s = execPacketRecords s := rfl
  rw [ran, execPacketRecords, hi]
  simp only [hp, kind, if_true, hr]

end

/-! ### WAITSEQ polls and completions (R189, R191) -/

section
variable {s u : State} {q : QRef} {h : Head} {rest : Nat} {p : Packet} (hr : s.readHeader q = (u, some (h, rest)))
include hr

theorem exec_waitseqPoll (hi : s.input = .queue q) (hp : (u.engine q).packets.find? (fun p => p.kind = 4 && ! p.done) = some p) :
    exec .waitseqPoll s = .next (if u.etime < p.since + 1024 then u else
      (u.modEngine q fun e => { e with packets := e.packets.map fun k =>
        if k.index = p.index then { k with since := p.since + (u.etime - p.since) / 1024 * 1024 } else k }).waitRead h q p.index
          (field (natLE p.bytes) 8 8) (field (natLE p.bytes) 0x10 8)) := by
  have ran : exec .waitseqPoll s = execWaitseqPoll s := rfl
  have hp : (u.engine q).packets.find? (fun p => p.kind = 4 && decide ¬ p.done = true) = some p := by simpa using hp
  rw [ran, execWaitseqPoll, hi]
  simp only [hr, hp]

section
variable {i : Nat} (hi : s.input = .packet q i) (hp : (s.engine q).packets.find? (fun p => p.index = i) = some p)
include hi hp

/-- The state after the COPY of a packet is moved and its completion written, where its engine carries it (R191, R200). -/
def State.moved (u : State) (q : QRef) (h : Head) (i : Nat) (p : Packet) : State :=
  let n := natLE p.bytes
  if p.kind = 2 ∧ p.done = false ∧ (u.engine q).carries = some p then
    (((u.bulkCopy h q.asid (field n 8 8) (field n 0x10 8) (field n 0x18 8)).copyRelease h n).writeCompletion h.die q.asid h.x
      (field n 0x20 8) (field n 0x28 8)).modEngine q fun e => { e with packets := e.packets.map fun k =>
        if k.index = i then { k with done := true } else k }
  else u

/-- The write of CSEQ over the packets that are over, `l` being the last of them (R191). -/
def State.raiseSeq (v : State) (q : QRef) (h : Head) (l : Packet) : State × Option Flt :=
  State.unitWrite (State.deliverInv (v.modEngine q fun e => { e with packets := e.packets.dropWhile (v.packetOver q.asid) }))
    h.die q.asid h.x (h.hdr + 0x10) (bytesLE 8 (l.index + 1))

theorem exec_packetCompletion_waits (last : ((u.moved q h i p).donePrefix q).getLast? = none) :
    exec .packetCompletion s = .next (u.moved q h i p) := by
  have ran : exec .packetCompletion s = execPacketCompletion s := rfl
  have carried : (p.kind = 2 ∧ ¬ p.done = true ∧ (u.engine q).carries = some p) ↔
      (p.kind = 2 ∧ p.done = false ∧ (u.engine q).carries = some p) := by rw [Bool.not_eq_true]
  unfold State.moved at last ⊢
  rw [ran, execPacketCompletion, hi]
  simp only [hp, hr, carried, last]

theorem exec_packetCompletion_raises {l : Packet} (last : ((u.moved q h i p).donePrefix q).getLast? = some l) :
    (((u.moved q h i p).raiseSeq q h l).2 = none → exec .packetCompletion s = .next ((u.moved q h i p).raiseSeq q h l).1) ∧
    ∀ f, ((u.moved q h i p).raiseSeq q h l).2 = some f →
      exec .packetCompletion s = .next (((u.moved q h i p).raiseSeq q h l).1.missed q.asid f (h.hdr + 0x10)) := by
  have ran : exec .packetCompletion s = execPacketCompletion s := rfl
  have carried : (p.kind = 2 ∧ ¬ p.done = true ∧ (u.engine q).carries = some p) ↔
      (p.kind = 2 ∧ p.done = false ∧ (u.engine q).carries = some p) := by rw [Bool.not_eq_true]
  unfold State.moved State.raiseSeq at *
  rw [ran, execPacketCompletion, hi]
  simp only [hp, hr, carried, last]
  exact ⟨fun put => by simp only [put], fun f put => by simp only [put]⟩

end

end

/-- Settles O56: each step of an engine by its meaning, a packet by what its checks come to. -/
theorem queuePackets : Obligations.QueuePackets := by
  unfold Obligations.QueuePackets
  refine ⟨State.stopQueue_errCopy, fun e p => Engine.carries_spec, ?_, ?_, ?_, fun s asid p x hx => s.packetOver_iff hx p, ?_, ?_⟩
  · intro s q u h rest hi hr p
    refine ⟨exec_queuePoll_off hi hr, fun on sound => ⟨fun code => exec_queuePoll_faulty hi hr on sound,
      fun good queue v k hv => ?_⟩⟩
    have ran := exec_queuePoll_head hi hr on sound good queue hv
    refine ⟨fun known => ran.trans (congrArg _ (if_pos (.inl known))), fun unknown starts => ran.trans (congrArg _ (if_neg ?_))⟩
    exact not_or.2 ⟨unknown, fun waits => by simp [Option.isNone_iff_eq_none.1 waits] at starts⟩
  · intro s q u h early x hi n va src starts stops
    refine ⟨fun hn => ?_, fun hn => ?_, fun hn => ?_, fun hn => ?_, fun hn => ?_,
      fun p v k hp kind hr => exec_packetRecords_next hi hp kind hr⟩
    · rw [exec_packetLaunch hi hn]
      exact ⟨fun v bad => by rw [bad]; rfl, fun v good => by rw [good]; rfl⟩
    · rw [exec_packetCopy hi hn]
      dsimp only
      refine ⟨fun bad => by rw [if_pos bad]; rfl, fun zero zero' long => ?_, fun zero zero' short => ?_⟩
      · rw [ite_reserved zero zero', if_pos long]
        rfl
      · rw [ite_reserved zero zero', if_neg (Nat.not_lt.2 short), State.checkPacket_none]
        exact ⟨fun v bad => congrArg (State.judged q h _) bad, fun v good => congrArg (State.judged q h _) good⟩
    · rw [exec_packetSignal hi hn]
      exact State.judged_word q h ..
    · rw [exec_packetWaitseq hi hn]
      exact State.judged_word q h ..
    · rw [exec_packetWmadv hi hn]
      dsimp only
      refine ⟨fun bad => by rw [if_pos bad]; rfl, fun zero zero' zero'' => ?_⟩
      rw [if_neg (by rintro (h | h | h) <;> contradiction)]
      exact ⟨fun absent => by rw [if_pos (Bool.eq_false_iff.1 absent)]; rfl, fun used => by rw [if_neg (not_not.2 used)]; rfl⟩
  · intro s q u h early x hi n va src stops hn
    rw [exec_packetRecords_starts hi]
    refine ⟨fun bad => congrArg _ (State.startRecords_faulty hn (if_pos bad)), fun zero zero' bad => ?_,
      fun zero zero' count used k v hk => ?_⟩
    · refine congrArg _ (State.startRecords_faulty hn ((ite_reserved zero zero' ..).trans (if_pos ?_)))
      exact bad.imp_right Bool.eq_false_iff.1
    · have sound : h.recordsFault = none := (ite_reserved zero zero' ..).trans (if_neg (not_or.2 ⟨count, not_not.2 used⟩))
      rw [State.startRecords_sound hn sound hk]
      refine ⟨fun bad => congrArg (State.judged q h _) bad, fun good w => ?_⟩
      rw [good]
      exact ⟨fun bad => congrArg (State.judged q h _) bad, fun fits => congrArg (State.judged q h _) fits⟩
  · intro s q u h rest p hi hr hp
    have ran := exec_waitseqPoll hr hi hp
    exact ⟨fun early => ran.trans (congrArg _ (if_pos early)), fun due => ran.trans (congrArg _ (if_neg (Nat.not_lt.2 due)))⟩
  · intro s q i u h rest p hi hp hr n v
    have same : u.moved q h i p = v := rfl
    refine ⟨fun none => exec_packetCompletion_waits hr hi hp (by rw [same, none]; rfl), fun l last => ⟨rfl, ?_⟩⟩
    exact exec_packetCompletion_raises hr hi hp last

end Sys2Proof.Machine
end

section
/-! PROOFS. What home slices, translations and units leave of groups (02 R42 to R63, 01 R14 to R22, 15 R339): everything but the register
writes that wait, FUTSTAT and the operations that clauses wait for, which answers to parked requests change. -/

namespace Sys2Proof.Machine

/-- A path without FUTSTAT. -/
def Path.still (p : Path) : Path := { p with futstat := 0 }

/-- A team without what an answer changes of it: its register writes that wait, the operations of its flag counts, FUTSTAT. Its paths are
seen by slot. -/
def Team.view (t : Team) : Team × (Nat → Option Path) :=
  ({ t with landing := [], outst := t.outst.map fun o => { o with ops := [] }, paths := [] },
    fun slot => (tget t.paths slot).map Path.still)

/-- A group without what an answer changes of it. Its teams are seen by ROLE. -/
def Group.view (g : Group) : Group × (Nat → Option (Team × (Nat → Option Path))) :=
  ({ g with teams := [] }, fun role => (tget g.teams role).map Team.view)

/-- What groups that look alike agree in beside their teams. -/
theorem Group.view_field {β : Type} {g k : Group} (h : g.view = k.view) (f : Group → β) : f { g with teams := [] } = f { k with teams := [] } :=
  congrArg (fun v => f v.1) h

/-- Every group there was is there, alike in what `F` sees of it, and no other is. -/
def State.Alike {β : Type} (F : Group → β) (s t : State) : Prop := ∀ n, (tget t.groups n).map F = (tget s.groups n).map F

section
variable {β γ : Type} {F : Group → β} {G : Group → γ} {s t u : State}

theorem State.Alike.of_groups (h : t.groups = s.groups) : State.Alike F s t := fun n => by rw [h]

theorem State.Alike.trans (h : State.Alike F s t) (k : State.Alike F t u) : State.Alike F s u := fun n => (k n).trans (h n)

theorem State.Alike.coarser (f : β → γ) (h : State.Alike F s t) (hf : ∀ g, G g = f (F g)) : State.Alike G s t := by
  intro n
  have same := congrArg (Option.map f) (h n)
  rw [Option.map_map, Option.map_map] at same
  rwa [show G = f ∘ F from funext hf]

theorem State.Alike.get (h : State.Alike F s t) {n : Nat} {g : Group} (hg : tget s.groups n = some g) :
    ∃ k, tget t.groups n = some k ∧ F k = F g := by
  have same := h n
  rw [hg] at same
  exact Option.map_eq_some_iff.1 same

theorem State.alike_modGroup (s : State) (gid : Nat) {f : Group → Group} (hf : ∀ g, F (f g) = F g) :
    State.Alike F s (s.modGroup gid f) := by
  intro n
  rw [State.modGroup_groups, tget_tmod]
  split
  next e => rw [e, Option.map_map, show F ∘ f = F from funext hf]
  next => rfl

end

theorem Team.view_modPath (t : Team) (slot : Nat) {f : Path → Path} (hf : ∀ p : Path, (f p).still = p.still) :
    ({ t with paths := tmod t.paths slot f } : Team).view = t.view := by
  refine Prod.ext rfl (funext fun k => ?_)
  simp only [Team.view, tget_tmod]
  split
  next e => rw [e, Option.map_map, show Path.still ∘ f = Path.still from funext hf]
  next => rfl

theorem Group.view_modTeam (g : Group) (role : Nat) {f : Team → Team} (hf : ∀ t : Team, (f t).view = t.view) :
    (g.modTeam role f).view = g.view := by
  refine Prod.ext rfl (funext fun k => ?_)
  simp only [Group.view, Group.modTeam, tget_tmod]
  split
  next e => rw [e, Option.map_map, show Team.view ∘ f = Team.view from funext hf]
  next => rfl

/-- Groups are alike but for what answers to parked requests change, and no name is given twice. -/
structure State.KeepsGroups (s t : State) : Prop where
  alike : State.Alike Group.view s t
  fresh : s.fresh ≤ t.fresh

/-- As `KeepsGroups`, for a step that answers parked requests and no others: where none is parked groups are as they were. -/
structure State.AnswersOnly (s t : State) : Prop extends s.KeepsGroups t where
  idle : s.defer = [] → t.groups = s.groups ∧ t.defer = []

namespace State.KeepsGroups

variable {s t u : State}

theorem refl (s : State) : s.KeepsGroups s := ⟨fun _ => rfl, Nat.le_refl _⟩

theorem trans (h : s.KeepsGroups t) (k : t.KeepsGroups u) : s.KeepsGroups u := ⟨h.alike.trans k.alike, h.fresh.trans k.fresh⟩

theorem ite {c : Prop} [Decidable c] (h : s.KeepsGroups t) (k : s.KeepsGroups u) : s.KeepsGroups (if c then t else u) := by
  split
  · exact h
  · exact k

theorem foldl {α : Type} {f : State → α → State} (h : ∀ (u : State) a, u.KeepsGroups (f u a)) (l : List α) (s : State) :
    s.KeepsGroups (l.foldl f s) := by
  induction l generalizing s with
  | nil => exact refl s
  | cons a l ih => exact (h s a).trans (ih (f s a))

theorem modTeam (s : State) (gid role : Nat) {f : Team → Team} (hf : ∀ t : Team, (f t).view = t.view) :
    s.KeepsGroups (s.modTeam gid role f) :=
  ⟨s.alike_modGroup gid fun g => g.view_modTeam role hf, Nat.le_refl _⟩

end State.KeepsGroups

namespace State.AnswersOnly

variable {s t u : State}

/-- A change of other fields. -/
theorem of_same (hg : t.groups = s.groups) (hd : t.defer = s.defer) (hf : s.fresh ≤ t.fresh) : s.AnswersOnly t :=
  ⟨⟨.of_groups hg, hf⟩, fun h => ⟨hg, hd.trans h⟩⟩

theorem refl (s : State) : s.AnswersOnly s := of_same rfl rfl (Nat.le_refl _)

theorem trans (h : s.AnswersOnly t) (k : t.AnswersOnly u) : s.AnswersOnly u := by
  refine ⟨h.toKeepsGroups.trans k.toKeepsGroups, fun none => ?_⟩
  obtain ⟨groups, defer⟩ := h.idle none
  obtain ⟨groups', defer'⟩ := k.idle defer
  exact ⟨groups'.trans groups, defer'⟩

theorem ite {c : Prop} [Decidable c] (h : s.AnswersOnly t) (k : s.AnswersOnly u) : s.AnswersOnly (if c then t else u) := by
  split
  · exact h
  · exact k

/-- As `ite`, for a pair whose state is compared. -/
theorem ite_fst {β : Type} {p q : State × β} {c : Prop} [Decidable c] (h : s.AnswersOnly p.1) (k : s.AnswersOnly q.1) :
    s.AnswersOnly (if c then p else q).1 := by
  split
  · exact h
  · exact k

theorem foldl {α : Type} {f : State → α → State} (h : ∀ (u : State) a, u.AnswersOnly (f u a)) (l : List α) (s : State) :
    s.AnswersOnly (l.foldl f s) := by
  induction l generalizing s with
  | nil => exact refl s
  | cons a l ih => exact (h s a).trans (ih (f s a))

theorem foldl_fst {α β : Type} {f : State × β → α → State × β} (h : ∀ (p : State × β) a, p.1.AnswersOnly (f p a).1) (l : List α)
    (p : State × β) : p.1.AnswersOnly (l.foldl f p).1 := by
  induction l generalizing p with
  | nil => exact refl p.1
  | cons a l ih => exact (h p a).trans (ih (f p a))

end State.AnswersOnly

section
variable (s : State)

/-! ### Answers to parked requests (R63, R339) -/

theorem State.groups_land (gid role clause : Nat) (w : Pending) : s.KeepsGroups (s.land gid role clause w) :=
  ⟨s.alike_modGroup gid fun g => g.view_modTeam role fun _ => rfl, Nat.le_succ _⟩

theorem State.groups_landV (r : Ref) (clause n : Nat) (vals : List (Nat × Word)) : s.KeepsGroups (s.landV r clause n vals) :=
  .foldl (fun u _ => u.groups_land ..) _ s

theorem State.groups_landP (r : Ref) (clause n : Nat) (vals : List (Nat × Bool)) : s.KeepsGroups (s.landP r clause n vals) :=
  .foldl (fun u _ => u.groups_land ..) _ s

theorem State.groups_opDone (gid role op : Nat) : s.KeepsGroups (s.opDone gid role op) :=
  .modTeam s gid role fun t => Prod.ext (congrArg (fun o => { t with landing := [], outst := o, paths := [] }) (by simp)) rfl

theorem State.answers_acquire (core rank : Nat) : s.AnswersOnly (s.acquire core rank) :=
  .ite (.refl s) (.of_same rfl rfl (Nat.le_refl _))

theorem State.answers_dropRdc (die line : Nat) : s.AnswersOnly (s.dropRdc die line) := .of_same rfl rfl (Nat.le_refl _)

theorem State.answers_deliverIf (sel : RdcInv → Bool) : s.AnswersOnly (s.deliverIf sel) := .foldl (fun u _ => u.answers_dropRdc ..) _ s

theorem State.answers_seeHome (core line : Nat) : s.AnswersOnly (s.seeHome core line) := by
  have dropped (b : Bool) : s.AnswersOnly (if b then (s.seen core line).dropRdc (dieOf core) line else s.seen core line) :=
    .ite (.of_same rfl rfl (Nat.le_refl _)) (.of_same rfl rfl (Nat.le_refl _))
  unfold State.seeHome
  exact .ite ((dropped _).trans (.of_same rfl rfl (Nat.le_refl _))) (dropped _)

theorem State.groups_decideLdf (e : Defer) (value : Dbl) (ok : Bool) (code : BitVec 2) : s.KeepsGroups (s.decideLdf e value ok code) := by
  unfold State.decideLdf
  split
  · exact .refl s
  next l _ =>
    have saw : s.KeepsGroups (if ok then s.seeHome e.core (e.cell / 16) else s) := .ite (s.answers_seeHome ..).toKeepsGroups (.refl s)
    have counted (t : State) (n : Tab Ldf) : t.KeepsGroups { t with ldfs := n } := ⟨.of_groups rfl, Nat.le_refl _⟩
    have acquired (t : State) : t.KeepsGroups (match l.acq, tget t.ctxs e.asid with
        | some scope, some x => t.acquire e.core (scopeRank x e.core scope)
        | _, _ => t) := by
      split
      · exact (t.answers_acquire ..).toKeepsGroups
      · exact .refl t
    have noted (t : State) (f : BitVec 32) : t.KeepsGroups (t.modPath e.path fun p => { p with futstat := f }) :=
      .modTeam t _ _ fun k => k.view_modPath _ fun _ => rfl
    have left (v w p n) := (((saw.trans (State.groups_landV _ e.path l.clause e.dst v)).trans
      (State.groups_landV _ e.path l.clause (e.dst + 1) w)).trans (State.groups_landP _ e.path l.clause e.status p)).trans (counted _ n)
    dsimp only
    refine .ite (.trans (.trans (.ite (left ..) ((left ..).trans (noted ..))) (acquired _)) (State.groups_opDone ..)) (left ..)

theorem State.answers_answerCell (cell : Nat) : s.AnswersOnly (s.answerCell cell) := by
  unfold State.answerCell
  refine .ite (.refl s) ⟨?_, fun none => ?_⟩
  · have taken (l : List Defer) : s.KeepsGroups { s with defer := l } := ⟨.of_groups rfl, Nat.le_refl _⟩
    exact (taken _).trans (.foldl (fun u e => u.groups_decideLdf e _ true 0) _ _)
  · rw [none]
    exact ⟨rfl, rfl⟩

/-! ### Home slices (R47, R48, R58, R59) -/

theorem State.answers_invalidate (line : Nat) (a : Agent) : s.AnswersOnly (s.invalidate line a) := by
  unfold State.invalidate
  split <;> exact .of_same rfl rfl (Nat.le_refl _)

theorem State.answers_writeLine (a : Agent) (line : Nat) (bs : List (Nat × Byte)) : s.AnswersOnly (s.writeLine a line bs) := by
  have told (t : State) (cells : List Nat) : t.AnswersOnly (if t.defer.isEmpty then t else cells.foldl (fun s c => s.answerCell c) t) :=
    .ite (.refl t) (.foldl (fun u c => u.answers_answerCell c) _ t)
  have put (m : List Host.Cell) (p : List Nat) (d : Tab Dir) : s.AnswersOnly { s with mem := m, poison := p, l2 := d } :=
    .of_same rfl rfl (Nat.le_refl _)
  have passed (t : State) (l : List RdcFill) (d : Nat) (c : Prop) [Decidable c] (f : Die → Die) : t.AnswersOnly
      (if c then ({ t with rdcFill := l } : State).modDie d f else { t with rdcFill := l }) :=
    .ite (.of_same rfl rfl (Nat.le_refl _)) (.of_same rfl rfl (Nat.le_refl _))
  unfold State.writeLine
  refine .ite (.refl s) ?_
  dsimp only
  refine .trans ?_ (told ..)
  split
  · exact (put ..).trans (State.answers_invalidate ..)
  · exact ((put ..).trans (State.answers_invalidate ..)).trans (passed ..)

theorem State.answers_poisonMask (line : Nat) (mask : BitVec 128) : s.AnswersOnly (s.poisonMask line mask) :=
  .ite (.refl s) (.of_same rfl rfl (Nat.le_refl _))

theorem State.answers_modCore (n : Nat) (f : Core → Core) : s.AnswersOnly (s.modCore n f) := .of_same rfl rfl (Nat.le_refl _)

theorem State.answers_flushAmod (core line : Nat) : s.AnswersOnly (s.flushAmod core line) := by
  unfold State.flushAmod
  split
  · exact .refl s
  · exact ((s.answers_modCore ..).trans (State.answers_writeLine ..)).trans (State.answers_poisonMask ..)

theorem State.answers_recall (line : Nat) : s.AnswersOnly (s.recall line) := by
  unfold State.recall
  split
  · exact .refl s
  · exact (s.answers_flushAmod ..).trans (.of_same rfl rfl (Nat.le_refl _))

theorem State.answers_l2Use (line : Nat) (low : Bool) : s.AnswersOnly (s.l2Use line low) := by
  have entered (t : State) (n : Nat) (f : Dir → Dir) : t.AnswersOnly (t.modDir n f) := .of_same rfl rfl (Nat.le_refl _)
  have counted : s.AnswersOnly { s with free := s.free + 1 } := .of_same rfl rfl (Nat.le_refl _)
  have dropped (t : State) (v : Nat) : t.AnswersOnly (t.l2Drop v) := by
    unfold State.l2Drop
    exact ((t.answers_recall v).trans (.foldl (fun u d => u.answers_dropRdc d v) _ _)).trans (entered ..)
  unfold State.l2Use
  refine .ite (.refl s) (.trans ?_ (entered ..))
  dsimp only
  refine .ite (.refl s) (.ite (.refl s) ?_)
  split
  · exact counted
  · exact counted.trans (dropped ..)

theorem State.answers_homeWriteIn (a : Agent) (keep low : Bool) (pa : Nat) (bs : List Byte) :
    s.AnswersOnly (s.homeWriteIn a keep low pa bs) :=
  .trans (.ite ((s.answers_recall _).trans (State.answers_l2Use ..)) (s.answers_recall _)) (State.answers_writeLine ..)

theorem State.answers_homePut (a : Agent) (keep low : Bool) (pa : Nat) (bs : List Byte) : s.AnswersOnly (s.homePut a keep low pa bs) :=
  .ite (.foldl (fun u (e : Nat × List Byte) => u.answers_homeWriteIn a keep low e.1 e.2) _ s)
    (.ite (.of_same rfl rfl (Nat.le_refl _)) (.refl s))

theorem State.answers_hostGet (pa n : Nat) : s.AnswersOnly (s.hostGet pa n).1 := by
  unfold State.hostGet
  split
  · exact .of_same rfl rfl (Nat.le_succ _)
  · exact .ite_fst (.refl s) (.of_same rfl rfl (Nat.le_refl _))

theorem State.answers_homeGet (keep low : Bool) (pa n : Nat) : s.AnswersOnly (s.homeGet keep low pa n).1 := by
  have used (u : State) (l : Nat) : u.AnswersOnly (let s := u.recall l; if keep then s.l2Use l low else s) :=
    .ite ((u.answers_recall l).trans (State.answers_l2Use ..)) (u.answers_recall l)
  exact .ite_fst (.foldl used _ s) (.ite_fst (s.answers_hostGet ..) (.of_same rfl rfl (Nat.le_refl _)))

/-! ### The L1 (R42 to R46) and the ways of scratchpads (R40) -/

theorem State.answers_writeBack (core line : Nat) : s.AnswersOnly (s.writeBack core line) := by
  unfold State.writeBack
  split
  · exact .refl s
  · exact .ite (.refl s) (((((s.answers_recall line).trans (State.answers_l2Use ..)).trans (State.answers_writeLine ..)).trans
      (State.answers_poisonMask ..)).trans (State.answers_modCore ..))

theorem State.answers_l1Evict (core line : Nat) : s.AnswersOnly (s.l1Evict core line) := by
  have back := s.answers_writeBack core line
  unfold State.l1Evict
  exact .trans (.ite (back.trans (State.answers_recall ..)) back) (State.answers_modCore ..)

theorem State.answers_release (core rank : Nat) : s.AnswersOnly (s.release core rank) := by
  have back (ls : List Nat) : s.AnswersOnly (ls.foldl (fun u l => u.writeBack core l) s) := .foldl (fun u l => u.answers_writeBack core l) ls s
  unfold State.release
  exact .ite ((back _).trans (State.answers_deliverIf ..)) (back _)

theorem State.answers_takeWays (core n : Nat) : s.AnswersOnly (s.takeWays core n).1 := .foldl (fun u l => u.answers_l1Evict core l) _ s

/-! ### Translations, and what units read and write -/

theorem State.answers_walkEntry (die asid pa : Nat) : s.AnswersOnly (s.walkEntry die asid pa).1 := by
  have read : s.AnswersOnly (s.homeNat pa 8).1 := s.answers_homeGet true false pa 8
  unfold State.walkEntry
  split
  · exact read
  · exact .ite_fst read (read.trans (.of_same rfl rfl (Nat.le_refl _)))

theorem State.answers_lastEntry (die asid base idx : Nat) : s.AnswersOnly (s.lastEntry die asid base idx).1 :=
  .ite_fst ((s.answers_walkEntry ..).trans (.of_same rfl rfl (Nat.le_refl _))) (s.answers_walkEntry ..)

theorem State.answers_walk (die asid : Nat) (supv : Bool) (va : Nat) (used : List WalkEntry) (base : Nat) (levels : List Nat) :
    s.AnswersOnly (s.walk die asid supv va used base levels).1 := by
  induction levels generalizing s used base with
  | nil => exact .refl s
  | cons level rest ih =>
    have read : s.AnswersOnly (s.levelEntry die asid va base level).1 := .ite_fst (s.answers_lastEntry ..) (s.answers_walkEntry ..)
    rw [State.walk_cons]
    split
    · exact read
    · exact .ite_fst read (read.trans (ih ..))

theorem State.answers_walkPut (die : Nat) (ws : List WalkEntry) : s.AnswersOnly (s.walkPut die ws) :=
  .ite (.refl s) (.of_same rfl rfl (Nat.le_refl _))

theorem State.answers_unitXlat (die asid : Nat) (x : Ctx) (va : Nat) (acc : Access) : s.AnswersOnly (s.unitXlat die asid x va acc).1 := by
  have walked := s.answers_walk die asid x.supv va [] x.root [3, 2, 1, 0]
  unfold State.unitXlat
  dsimp only
  split
  · exact .refl s
  · split
    · exact walked
    · split
      · exact walked
      · exact walked.trans (State.answers_walkPut ..)

theorem State.answers_unitWrite (die asid : Nat) (x : Ctx) (va : Nat) (bs : List Byte) : s.AnswersOnly (s.unitWrite die asid x va bs).1 := by
  refine .foldl_fst (fun p e => ?_) _ (s, none)
  have xlat := p.1.answers_unitXlat die asid x e.1 .write
  dsimp only
  split
  · exact xlat
  · exact xlat.trans (State.answers_homePut ..)

theorem State.answers_put (asid va : Nat) (bs : List Byte) : s.AnswersOnly (s.put asid va bs) := by
  unfold State.put
  split
  · exact .refl s
  · exact s.answers_unitWrite ..

theorem State.answers_unpark (asid : Nat) (sel : Parked → Bool) : s.AnswersOnly (s.unpark asid sel) := by
  unfold State.unpark
  split
  · exact .refl s
  · exact (AnswersOnly.foldl (fun u (p : Parked) => u.answers_put ..) _ s).trans (.of_same rfl rfl (Nat.le_refl _))

theorem State.answers_translate (core asid : Nat) (x : Ctx) (va : Nat) (acc : Access) : s.AnswersOnly (s.translate core asid x va acc).1 := by
  have walked := s.answers_walk (dieOf core) asid x.supv va [] x.root [3, 2, 1, 0]
  have cached (t : State) (ht : s.AnswersOnly t) (n : Nat) (b old : Bool) (y z : Except Flt (Xlat × List WalkEntry)) :
      s.AnswersOnly (if b then (s, y) else if old then ({ s with free := n }, y) else ({ t with free := n }, z)).1 :=
    .ite_fst (.refl s) (.ite_fst (.of_same rfl rfl (Nat.le_refl _)) (ht.trans (.of_same rfl rfl (Nat.le_refl _))))
  have checked (r : State × Except Flt (Xlat × List WalkEntry)) (hr : s.AnswersOnly r.1) : s.AnswersOnly (match r.2 with
      | .error f => (r.1, (.error f : Except Flt Xlat))
      | .ok y => match permFault (¬ x.supv) acc y.1.leaf with
        | some f => (r.1, .error f)
        | none => ((r.1.walkPut (dieOf core) y.2).tlbPut core asid va y.1, .ok y.1)).1 := by
    split
    · exact hr
    · split
      · exact hr
      · exact (hr.trans (State.answers_walkPut ..)).trans (.of_same rfl rfl (Nat.le_refl _))
  unfold State.translate
  dsimp only
  split
  · exact .refl s
  · refine checked _ ?_
    split
    · exact walked
    · exact cached _ walked ..

/-- Held notifications are written into the ring (R394). -/
theorem State.answers_flushNotes (n : Nat) : s.AnswersOnly (State.flushNotes n s) := by
  have taken (u : State) (l : List Notify) (h : HostRegs) (o : List Out) : u.AnswersOnly { u with held := l, host := h, out := o } :=
    .of_same rfl rfl (Nat.le_refl _)
  have written (u : State) (pa : Nat) (bs : List Byte) : u.AnswersOnly (u.homeWrite .outside pa bs) := u.answers_homePut ..
  induction n generalizing s with
  | zero => exact .refl s
  | succ n ih =>
    unfold State.flushNotes
    split
    · exact .refl s
    · exact .ite (((taken ..).trans (written ..)).trans (ih _)) (.refl s)

theorem State.answers_notify (type detail asid token info : Nat) : s.AnswersOnly (s.notify type detail asid token info) := by
  have noted (l : List Notify) : s.AnswersOnly { s with held := l } := .of_same rfl rfl (Nat.le_refl _)
  exact (noted _).trans (State.answers_flushNotes ..)

end

end Sys2Proof.Machine
end

section
/-! PROOFS. Queue appends, launches, SUCC and PREDW (05 R124, 08 R195 to R197, 16 R360, R361). -/

namespace Sys2Proof.Machine

/-! ### Paths while parked requests are answered -/

/-- A path is where it was after answers to parked requests, with its group, team and uniform file as far as answers leave them. -/
theorem State.Alike.at {s t : State} (h : State.Alike Group.view s t) {r : Ref} {c : Cur} (hc : s.at r = some c) :
    ∃ d, t.at r = some d ∧ d.g.view = c.g.view ∧ d.t.view = c.t.view ∧ d.p.still = c.p.still := by
  obtain ⟨-, group, team, path⟩ := State.at_some.1 hc
  obtain ⟨g, hg, gview⟩ := h.get group
  have teams := congrFun (congrArg Prod.snd gview) r.role
  obtain ⟨k, hk, kview⟩ := Option.map_eq_some_iff.1 (teams.trans (congrArg (Option.map Team.view) team))
  have paths := congrFun (congrArg Prod.snd kview) r.slot
  obtain ⟨p, hp, pview⟩ := Option.map_eq_some_iff.1 (paths.trans (congrArg (Option.map Path.still) path))
  exact ⟨{ r := r, g := g, t := k, p := p }, State.at_some.2 ⟨rfl, hg, hk, hp⟩, gview, kview, pview⟩

theorem Path.still_s {p q : Path} (h : p.still = q.still) : p.s = q.s := by
  have same : p.still.s = q.still.s := by rw [h]
  exact same

theorem Team.view_lanes {t k : Team} (h : t.view = k.view) : t.lanes = k.lanes := congrArg (fun v => v.1.lanes) h

/-- A group's scratchpad is as it was after answers to parked requests, and so is its poison. -/
theorem State.Alike.spad {s t : State} (h : State.Alike Group.view s t) (gid off n : Nat) :
    t.spadBytes gid off n = s.spadBytes gid off n ∧ t.spadPoisoned gid off n = s.spadPoisoned gid off n := by
  unfold State.spadBytes State.spadPoisoned
  cases hs : tget s.groups gid with
  | none =>
    have gone : tget t.groups gid = none := Option.map_eq_none_iff.1 ((h gid).trans (congrArg (Option.map Group.view) hs))
    rw [gone]
    exact ⟨rfl, rfl⟩
  | some g =>
    obtain ⟨k, hk, view⟩ := h.get hs
    have bytes : k.spad = g.spad := Group.view_field view Group.spad
    have bad : k.spadPoison = g.spadPoison := Group.view_field view Group.spadPoison
    rw [hk]
    exact ⟨congrArg (memBytes · off n) bytes, congrArg (fun l : List Nat => l.any fun a => off ≤ a && a < off + n) bad⟩

section
variable (s : State)

theorem State.answers_globalSectors (core asid : Nat) (k : Ctx) (va n : Nat) (acc : Access) :
    s.AnswersOnly (s.globalSectors core asid k va n acc).1 := by
  refine .foldl_fst (fun e p => ?_) _ (s, Except.ok [])
  have page := e.1.answers_translate core asid k p.1 acc
  split
  · exact .refl e.1
  · dsimp only
    split
    · exact page
    · exact page

/-! ### The index that an append claims -/

theorem State.answers_rmwHome (core pa : Nat) (keep low : Bool) (q : AtomReq) : s.AnswersOnly (s.rmwHome core pa keep low q).s := by
  unfold State.rmwHome
  dsimp only
  exact ((s.answers_recall _).trans (State.answers_seeHome ..)).trans (State.answers_homeWriteIn ..)

/-- A read-modify-write at a home slice takes the value that memory has once the owner's bytes are home, and leaves the new one. -/
theorem State.rmwHome_memory (core pa : Nat) (keep low : Bool) (q : AtomReq) :
    (s.rmwHome core pa keep low q).old = memNat (s.recall (pa / 128)).mem pa (atomBits q.ty / 8) ∧
    memNat (s.rmwHome core pa keep low q).s.mem pa (atomBits q.ty / 8) =
      (atomStep q (s.rmwHome core pa keep low q).old).new % 2 ^ (8 * (atomBits q.ty / 8)) := by
  constructor
  · exact congrArg (fun m => memNat m pa (atomBits q.ty / 8)) ((s.recall (pa / 128)).quiet_seeHome core (pa / 128)).mem
  · have put := State.homeWriteIn_bytes ((s.recall (pa / 128)).seeHome core (pa / 128)) (.core core) keep low pa
      (bytesLE (atomBits q.ty / 8) (atomStep q (s.rmwHome core pa keep low q).old).new)
    rw [length_bytesLE] at put
    exact (congrArg natLE put).trans (natLE_bytesLE ..)

end

/-- The atomic by which an append claims its index. -/
def claimOne : AtomReq := { op := 0, ty := 3, b := 1, c := 0 }

/-- The state in which the header's home slice has counted one up for a core. -/
def State.claim (s : State) (core : Nat) (y : Xlat) : RmwOut :=
  (s.writeBack core (y.pa / 128)).rmwHome core y.pa (¬ y.attr.uncached) y.attr.low claimOne

section
variable (s : State) (core : Nat) (y : Xlat)

theorem State.claim_old : (s.claim core y).old = memNat ((s.writeBack core (y.pa / 128)).recall (y.pa / 128)).mem y.pa 8 :=
  (State.rmwHome_memory ..).1

theorem State.claim_counts : memNat (s.claim core y).s.mem y.pa 8 = ((s.claim core y).old + 1) % 2 ^ 64 := by
  have new := (State.rmwHome_memory (s.writeBack core (y.pa / 128)) core y.pa (¬ y.attr.uncached) y.attr.low claimOne).2
  exact new.trans (Nat.mod_mod _ _)

theorem State.only_claim : s.OnlyMemory (s.claim core y).s := (s.only_writeBack ..).trans (State.only_rmwHome ..)

theorem State.answers_claim : s.AnswersOnly (s.claim core y).s := (s.answers_writeBack ..).trans (State.answers_rmwHome ..)

end

/-- The state after an index is given in an s pair, its two words waiting. -/
def State.landIndex (s : State) (c : Cur) (d n : Nat) : State :=
  (s.land c.r.gid c.r.role c.p.clauseId (.s c.r.slot d (word n))).land c.r.gid c.r.role c.p.clauseId
    (.s c.r.slot (d + 1) (word (n / 2 ^ 32)))

theorem State.groups_landIndex (s : State) (c : Cur) (d n : Nat) : s.KeepsGroups (s.landIndex c d n) :=
  (s.groups_land ..).trans (State.groups_land ..)

/-- The operation that an accepted append becomes (R353, R360). -/
def appendOp (c : Cur) (x : XAsy) (hdr n : Nat) (packet : List Byte) (bad : List Nat) (id : Nat) : AsyncOp :=
  { asid := c.g.asid, core := c.g.core, path := c.r, clause := c.p.clauseId, kind := .append hdr n packet bad
    seq := id, scope := x.scope.toNat, acq := x.acq = 1, rel := x.rel = 1, sectors := [], bar := none, credits := 0 }

/-- The state after an operation has taken its place and its path has gone on. -/
def State.accepted (s : State) (c : Cur) (e : AsyncOp) : State :=
  (({ s with fresh := s.fresh + 1, ops := tset s.ops s.fresh e } : State).addOp c.r c.p.clauseId s.fresh).advance c.r

theorem State.accepted_ops (s : State) (c : Cur) (e : AsyncOp) : (s.accepted c e).ops = tset s.ops s.fresh e := rfl

theorem State.accepted_mem (s : State) (c : Cur) (e : AsyncOp) : (s.accepted c e).mem = s.mem := rfl

theorem State.landIndex_ops (s : State) (c : Cur) (d n : Nat) : (s.landIndex c d n).ops = s.ops := rfl

theorem State.landIndex_mem (s : State) (c : Cur) (d n : Nat) : (s.landIndex c d n).mem = s.mem := rfl

theorem Team.advance_landing (t : Team) (slot : Nat) : (t.advance slot).landing = t.landing := by
  cases h : tget t.paths slot with
  | none => simp [Team.advance, Team.path, h]
  | some p => rw [Team.advance_eq h]

/-- A team with two register writes more that wait, and an operation its flags wait for, whose path has gone on. -/
theorem State.at_accepted {s : State} {c d : Cur} (hd : s.at c.r = some d) (dst n : Nat) (o : AsyncOp) :
    ∃ e a b, ((s.landIndex c dst n).accepted c o).at c.r = some e ∧ e.t.lanes = d.t.lanes ∧ e.p.s = d.p.s ∧
      e.t.landing = d.t.landing ++ [a, b] ∧ a.what = .s c.r.slot dst (word n) ∧ b.what = .s c.r.slot (dst + 1) (word (n / 2 ^ 32)) := by
  let u := s.landIndex c dst n
  obtain ⟨-, -, -, path⟩ := State.at_some.1 hd
  let low : Land := { id := s.fresh, clause := c.p.clauseId, what := .s c.r.slot dst (word n) }
  let high : Land := { id := s.fresh + 1, clause := c.p.clauseId, what := .s c.r.slot (dst + 1) (word (n / 2 ^ 32)) }
  let taken : State := { u with fresh := u.fresh + 1, ops := tset u.ops u.fresh o }
  have one : u.at c.r = (s.modTeam c.r.gid c.r.role fun t => { t with landing := t.landing ++ [low, high] }).at c.r := by
    have two : u.groups = ((s.modTeam c.r.gid c.r.role fun t => { t with landing := t.landing ++ [low] }).modTeam c.r.gid c.r.role
        fun t => { t with landing := t.landing ++ [high] }).groups := rfl
    unfold State.at
    rw [two, State.modTeam_modTeam]
    simp only [List.append_assoc, List.cons_append, List.nil_append]
  have landed : u.at c.r = some _ := one.trans (State.at_modTeam hd _ path)
  have counted : (taken.addOp c.r c.p.clauseId u.fresh).at c.r = some _ :=
    State.at_modTeam (s := taken) landed (fun t => { t with outst := t.outst.map fun x =>
      if x.clause = c.p.clauseId then { x with ops := x.ops ++ [(u.fresh, taken.cycOf c.r.gid)] } else x }) path
  have moved := State.at_modTeam counted (fun t => t.advance c.r.slot) (Team.advance_path path)
  refine ⟨_, low, high, moved, ?_, ?_, ?_, rfl, rfl⟩
  · exact (Team.sameRegs_advance _ c.r.slot).lanes
  · unfold Path.after
    split
    · rfl
    · split <;> rfl
  · exact Team.advance_landing _ c.r.slot

/-! ### QAPP and LAUNCH -/

section
variable {s : State} {c : Cur} {k : Ctx} {o : OpG} {x : XAsy} {q : Nat}

theorem State.queueAppend_none (hw : c.workers s.guard ≠ []) (hq : tget k.queues q = none) :
    s.queueAppend c k o x q = s.takeTrap c.r 1 8 0 0 false := by
  unfold State.queueAppend State.async
  rw [if_neg (by simpa using hw), hq]

variable {hdr conf : Nat} {y : Xlat} {u w : State}

theorem State.queueAppend_refused (hw : c.workers s.guard ≠ []) (hq : tget k.queues q = some hdr)
    (ht : s.translate c.g.core c.g.asid k hdr .rmw = (w, .ok y)) (hp : w.pageNat y 0x18 8 = (u, conf))
    (bad : bitOf conf 8 = false ∨ bitOf conf 15 = true) : s.queueAppend c k o x q = u.takeTrap c.r 1 8 0 0 false := by
  unfold State.queueAppend State.async
  rw [if_neg (by simpa using hw)]
  simp only [hq, ht, hp]
  rw [if_pos (by simpa using bad)]

variable {p : Nat × Nat} {l : List (Nat × Attr)} {v : State}

/-- An append that is accepted claims its index, and its packet becomes an operation. -/
theorem State.queueAppend_claims (hw : c.workers s.guard ≠ []) (hq : tget k.queues q = some hdr)
    (ht : s.translate c.g.core c.g.asid k hdr .rmw = (w, .ok y)) (hp : w.pageNat y 0x18 8 = (u, conf))
    (on : bitOf conf 8 = true) (ok : bitOf conf 15 = false) (ha : (c.p.getS o.a.toNat).toNat % 64 = 0)
    (hs : u.spadWhere c.r.gid (c.p.getS o.a.toNat).toNat 64 = .ok p)
    (hg : u.globalSectors c.g.core c.g.asid k hdr (64 + 64 * 2 ^ bitsOf conf 0 5) .rmw = (v, .ok l))
    (room : (v.ops.filter fun e => e.2.core = c.g.core).length < 16) :
    s.queueAppend c k o x q =
      let a : State := if x.acq = 1 then v.acquire c.g.core (scopeRank k c.g.core x.scope.toNat) else v
      let r := a.claim c.g.core y
      let t := r.s.landIndex c o.d.toNat r.old
      t.accepted c (appendOp c x hdr r.old (t.spadBytes p.1 p.2 64) ((List.range 64).filter fun i => t.spadPoisoned p.1 (p.2 + i) 1)
        t.fresh) := by
  have aligned : alignedTo 64 (c.p.getS o.a.toNat).toNat = .ok () := if_pos ha
  have range : u.spadRange c (c.p.getS o.a.toNat).toNat 64 true = .ok p := by simp [State.spadRange, hs]
  unfold State.queueAppend State.async
  rw [if_neg (by simpa using hw)]
  simp only [hq, ht, hp]
  rw [if_neg (by simp [on, ok])]
  simp only [aligned, range, hg]
  unfold State.accept
  rw [if_neg (by omega)]
  rfl

end

theorem State.answers_pageNat (s : State) (y : Xlat) (off n : Nat) : s.AnswersOnly (s.pageNat y off n).1 := s.answers_homeGet ..

/-- What an accepted append leaves: the operation with its packet, the index counted and given, its path gone on. -/
theorem State.queueAppend_accepted {s u v w : State} {c : Cur} {k : Ctx} {o : OpG} {x : XAsy} {q hdr conf : Nat} {y : Xlat} {p : Nat × Nat}
    {l : List (Nat × Attr)} (hc : s.at c.r = some c) (hw : c.workers s.guard ≠ []) (hq : tget k.queues q = some hdr)
    (ht : s.translate c.g.core c.g.asid k hdr .rmw = (w, .ok y)) (hp : w.pageNat y 0x18 8 = (u, conf))
    (on : bitOf conf 8 = true) (ok : bitOf conf 15 = false) (ha : (c.p.getS o.a.toNat).toNat % 64 = 0)
    (hs : u.spadWhere c.r.gid (c.p.getS o.a.toNat).toNat 64 = .ok p)
    (hg : u.globalSectors c.g.core c.g.asid k hdr (64 + 64 * 2 ^ bitsOf conf 0 5) .rmw = (v, .ok l))
    (room : (v.ops.filter fun e => e.2.core = c.g.core).length < 16) :
    let acquired : State := if x.acq = 1 then v.acquire c.g.core (scopeRank k c.g.core x.scope.toNat) else v
    let home := (acquired.writeBack c.g.core (y.pa / 128)).recall (y.pa / 128)
    let old := memNat home.mem y.pa 8
    ∃ t id d a b, s.queueAppend c k o x q = t ∧ tget t.ops id =
        some (appendOp c x hdr old (v.spadBytes p.1 p.2 64) ((List.range 64).filter fun i => v.spadPoisoned p.1 (p.2 + i) 1) id) ∧
      (∀ j, j ≠ id → tget t.ops j = tget v.ops j) ∧ memNat t.mem y.pa 8 = (old + 1) % 2 ^ 64 ∧
      t.at c.r = some d ∧ d.t.lanes = c.t.lanes ∧ d.p.s = c.p.s ∧ d.t.landing.drop (d.t.landing.length - 2) = [a, b] ∧
      a.what = .s c.r.slot o.d.toNat (word old) ∧ b.what = .s c.r.slot (o.d.toNat + 1) (word (old / 2 ^ 32)) := by
  intro acquired home old
  have checks : s.AnswersOnly v := by
    have first := s.answers_translate c.g.core c.g.asid k hdr .rmw
    have second := w.answers_pageNat y 0x18 8
    have third := u.answers_globalSectors c.g.core c.g.asid k hdr (64 + 64 * 2 ^ bitsOf conf 0 5) .rmw
    rw [ht] at first
    rw [hp] at second
    rw [hg] at third
    exact (first.trans second).trans third
  have acq : v.AnswersOnly acquired := .ite (v.answers_acquire ..) (.refl v)
  have claimed := acq.trans (acquired.answers_claim c.g.core y)
  have value : (acquired.claim c.g.core y).old = old := acquired.claim_old c.g.core y
  have counted := acquired.claim_counts c.g.core y
  rw [value] at counted
  have ops : (acquired.claim c.g.core y).s.ops = v.ops := by
    have kept : v.OnlyMemory acquired := .ite (v.only_acquire ..) (.refl v)
    have same : (acquired.claim c.g.core y).s.bare.ops = v.bare.ops := by rw [(kept.trans (acquired.only_claim c.g.core y)).rest]
    exact same
  have spad := (claimed.toKeepsGroups.trans (State.groups_landIndex _ c o.d.toNat old)).alike.spad
  obtain ⟨d, hd, -, team, path⟩ := (checks.trans claimed).alike.at hc
  have step := State.queueAppend_claims (x := x) hw hq ht hp on ok ha hs hg room
  dsimp only at step
  rw [show (if x.acq = 1 then v.acquire c.g.core (scopeRank k c.g.core x.scope.toNat) else v) = acquired from rfl, value,
    (spad p.1 p.2 64).1, funext fun i => (spad p.1 (p.2 + i) 1).2] at step
  obtain ⟨e, a, b, at_, lanes, regs, landing, first, second⟩ := State.at_accepted hd o.d.toNat old _
  refine ⟨_, ((acquired.claim c.g.core y).s.landIndex c o.d.toNat old).fresh, e, a, b, step, ?_, fun j hj => ?_, ?_, at_,
    lanes.trans (Team.view_lanes team), regs.trans (Path.still_s path), ?_, first, second⟩
  · rw [State.accepted_ops, tget_tset_self]
  · rw [State.accepted_ops, tget_tset_ne _ _ hj, State.landIndex_ops, ops]
  · rw [State.accepted_mem, State.landIndex_mem, counted]
  · rw [landing]
    simp

/-! ### SUCC and PREDW -/

section
variable {s : State} {c : Cur}

/-- SUCC of a worker lane marks its group (R361). -/
theorem exec_succ_marks (hi : Issues s .succ c) (hw : c.workers s.guard ≠ []) :
    exec .succ s = .next ((s.modGroup c.r.gid fun g => { g with succ := true }).advance c.r) := by
  have ran : exec .succ s = execSucc s := rfl
  rw [ran, execSucc, issue_of hi, if_neg (by simpa using hw)]

theorem State.at_succ (hc : s.at c.r = some c) :
    ∃ d, ((s.modGroup c.r.gid fun g => { g with succ := true }).advance c.r).at c.r = some d ∧ d.g.succ = true := by
  obtain ⟨-, group, team, path⟩ := State.at_some.1 hc
  have marked : (s.modGroup c.r.gid fun g => { g with succ := true }).at c.r =
      some { r := c.r, g := { c.g with succ := true }, t := c.t, p := c.p } :=
    State.at_some.2 ⟨rfl, by rw [State.modGroup_groups, tget_tmod_self, group, Option.map_some], team, path⟩
  exact ⟨_, State.at_modTeam marked (fun t => t.advance c.r.slot) (Team.advance_path path), rfl⟩

/-- PREDW, by the guard and the predecessor object (R124, R361). -/
theorem exec_predw (hi : Issues s .predw c) : exec .predw s = .next (
    if (c.workers s.guard).isEmpty then (s.acquire c.g.core 4).advance c.r
    else if c.g.predErr then s.takeTrap c.r 0x0C 3 0 0 false
    else if c.g.predPhase then (s.acquire c.g.core 4).advance c.r
    else s.modPath c.r fun p => { p with status := .asleepPred }) := by
  have ran : exec .predw s = execPredw s := rfl
  rw [ran, execPredw, issue_of hi]

end

/-- Settles O51: an append by its checks and the claim at the header's home slice, through what answers to parked requests leave of groups;
SUCC and PREDW by their meanings in an issue. -/
theorem appendsAndChaining : Obligations.AppendsAndChaining := by
  unfold Obligations.AppendsAndChaining
  refine ⟨fun s c k o x i q hk hw which hi => ?_, fun s c => ⟨fun hi hw => ?_, fun hi hw => ?_, fun hi hw => ?_, ?_, ?_⟩⟩
  case refine_1 =>
    have ran : exec i s = .next (s.queueAppend c k o x q) := by
      rcases which with ⟨rfl, rfl⟩ | ⟨rfl, rfl⟩
      · exact exec_issued (f := fun c k => s.queueAppend c k o x (x.len.toNat % 64)) rfl hi hk
      · exact exec_issued (f := fun c k => s.queueAppend c k o x k.dlq) rfl hi hk
    have found : s.at c.r = some c := State.look_at hi.1
    rw [ran]
    refine ⟨fun hq => congrArg _ (State.queueAppend_none hw hq), fun hdr y w u conf p l hq ht hp => ⟨fun bad => ?_, ?_⟩⟩
    · exact congrArg _ (State.queueAppend_refused hw hq ht hp bad)
    · intro off on ok ha hs v hg room acquired home old
      obtain ⟨t, id, d, a, b, step, left⟩ := State.queueAppend_accepted found hw hq ht hp on ok ha hs hg room
      exact ⟨t, id, d, a, b, congrArg _ step, left⟩
  case refine_2 =>
    obtain ⟨d, at_, marked⟩ := State.at_succ (State.look_at hi.1)
    have same := sameRegs_modGroup s c.r.gid (f := fun g => { g with succ := true }) fun _ => rfl
    exact ⟨_, d, exec_succ_marks hi hw, at_, marked, rfl, same.trans (sameRegs_modTeam _ _ _ fun t => t.sameRegs_advance c.r.slot)⟩
  case refine_3 =>
    have ran : exec .succ s = execSucc s := rfl
    rw [ran, execSucc, issue_of hi, hw]
    rfl
  case refine_4 => rw [exec_predw hi, hw]; rfl
  case refine_5 =>
    intro hi hw sound
    have busy : (c.workers s.guard).isEmpty = false := by simpa using hw
    exact ⟨fun one => by simp [exec_predw hi, busy, sound, one], fun zero => by simp [exec_predw hi, busy, sound, zero]⟩
  case refine_6 =>
    intro hi hw failed
    have busy : (c.workers s.guard).isEmpty = false := by simpa using hw
    simp [exec_predw hi, busy, failed]

end Sys2Proof.Machine
end

section
/-! PROOFS. Grids in the order of their lives (05 R124, 08 R191 to R193): the room that is made for one of higher priority, the arrival of
its predecessor, its completion. -/

namespace Sys2Proof.Machine

/-! ### Traps, and the core that is cleared (R193, R377) -/

theorem exec_trapDelivery {s : State} {t : TRef} {g : Group} (hi : s.input = .team t) (hg : tget s.groups t.gid = some g)
    (hp : g.place = .resident) : exec .trapDelivery s = .next (s.deliver t.gid t.role) := by
  have ran : exec .trapDelivery s = execTrapDelivery s := rfl
  rw [ran, execTrapDelivery, hi]
  simp only [hg, hp, if_true]

/-- The priority of a group's grid; the highest number for a group without one. -/
def State.prio (s : State) (g : Group) : Nat := match tget s.grids g.grid with | none => 3 | some e => e.lr.prio

/-- The residents of lower priority on the cores that a gang would take (R193). -/
def State.victims (s : State) (r : LaunchRec) (core : Nat) : List (Nat × Group) :=
  (List.range r.gsz).flatMap fun i =>
    s.groups.filter fun g => g.2.core = core + i && g.2.place = .resident && decide (s.prio g.2 < r.prio)

/-- Whether a gang has room on a core once the gangs of some groups are gone. -/
def State.fitsWithout (s : State) (r : LaunchRec) (vs : List (Nat × Group)) (core : Nat) : Bool :=
  State.gangRoom { s with groups := s.groups.filter fun g => !(vs.any fun v => v.2.gang = g.2.gang) } r core

section
variable {s : State} {n t0 : Nat} {d : Grid} (hi : s.input = .one n) (hd : tget s.grids n = some d) (hw : d.waitSince = some t0)
include hi hd hw

theorem exec_priorityPreemption_early (h : s.etime < t0 + Config.preemptTicks ∨ (s.coreFor d).isSome = true) :
    exec .priorityPreemption s = .next s := by
  have ran : exec .priorityPreemption s = execPriorityPreemption s := rfl
  rw [ran, execPriorityPreemption, hi]
  simp only [hd, hw]
  rw [if_pos (.inr (.inr h))]

/-- A grid whose wait is over clears the first core that a gang of it would fit on once those of lower priority have left. -/
theorem exec_priorityPreemption (alive : s.alive d.asid = true) (waits : d.waits = true) (due : t0 + Config.preemptTicks ≤ s.etime)
    (full : s.coreFor d = none) : exec .priorityPreemption s = .next
      (match (coreOrder d.lr.dieSet (s.lastCore d.key)).find? fun core => s.fitsWithout d.lr (s.victims d.lr core) core with
      | none => s
      | some core => s.clearCore d.lr core (sortBy (fun v => s.prio v.2) (s.victims d.lr core))) := by
  have ran : exec .priorityPreemption s = execPriorityPreemption s := rfl
  have now : ¬ (¬ s.alive d.asid = true ∨ ¬ d.waits = true ∨ s.etime < t0 + Config.preemptTicks ∨ (s.coreFor d).isSome = true) := by
    simp [alive, waits, full, Nat.not_lt.2 due]
  rw [ran, execPriorityPreemption]
  split
  next m hm =>
    cases hi.symm.trans hm
    simp only [hd, hw]
    rw [if_neg now]
    simp only [State.fitsWithout, State.victims, State.prio, Bool.not_eq_true, Bool.decide_eq_false]
    generalize coreOrder d.lr.dieSet (s.lastCore d.key) = order
    rfl
  next other => exact absurd hi (other n)

end

theorem State.clearCore_cons (s : State) (r : LaunchRec) (core : Nat) (v : Nat × Group) (vs : List (Nat × Group)) :
    s.clearCore r core (v :: vs) = if s.gangRoom r core then s else
      if (s.preempt v.2.gang).gangMembers v.2.gang = [] then (s.preempt v.2.gang).clearCore r core vs else s.preempt v.2.gang := by
  simp only [State.clearCore, List.isEmpty_iff]

/-! ### The arrival of a predecessor (R124) -/

/-- A path that slept for the predecessor runs. -/
def Path.predWoken (p : Path) : Path := if p.status = .asleepPred then { p with status := .running } else p

theorem Path.predWoken_status (p : Path) : p.predWoken.status ≠ .asleepPred := by
  unfold Path.predWoken
  split
  · exact nofun
  · assumption

/-- A group whose predecessor has retired. -/
def Group.predOver (g : Group) : Group :=
  { g with
    predPhase := true
    teams := tmap g.teams fun _ t => { t with paths := tmap t.paths fun _ p => p.predWoken } }

theorem Group.predOver_awake (g : Group) {role slot : Nat} {u : Team} {p : Path} (hu : tget g.predOver.teams role = some u)
    (hp : tget u.paths slot = some p) : p.status ≠ .asleepPred := by
  rw [Group.predOver, tget_tmap] at hu
  obtain ⟨t, -, rfl⟩ := Option.map_eq_some_iff.1 hu
  rw [tget_tmap] at hp
  obtain ⟨q, -, rfl⟩ := Option.map_eq_some_iff.1 hp
  exact q.predWoken_status

/-- PREDECESSOR_ARRIVAL once the predecessor is done and its grid does not know yet. -/
theorem exec_predecessorArrival {s : State} {n a : Nat} {d e : Grid} (hi : s.input = .one n) (hd : tget s.grids n = some d)
    (ha : d.pred = some a) (he : tget s.grids a = some e) (done : e.done = true) (alive : e.killed = false) (first : d.predDone = false) :
    exec .predecessorArrival s = .next (
      let t := s.deliverInv.modGrid n fun d => { d with predDone := true }
      { t with groups := tmap t.groups fun _ g => if g.grid ≠ n then g else g.predOver }) := by
  have ran : exec .predecessorArrival s = execPredecessorArrival s := rfl
  rw [ran, execPredecessorArrival, hi]
  simp only [hd, ha, he]
  rw [if_neg (by simp [done, alive, first])]
  rfl

end Sys2Proof.Machine
end

section
/-! PROOFS. The completion of a grid (02 R89, 08 R191, 09 R219 to R222): what its writes, its completion value and its window's header leave
of grids and engines. -/

namespace Sys2Proof.Machine

/-- Grids and engines are as they were. -/
structure State.KeepsDeeds (s t : State) : Prop where
  grids : t.grids = s.grids
  engines : t.engines = s.engines

namespace State.KeepsDeeds

variable {s t u : State}

theorem refl (s : State) : s.KeepsDeeds s := ⟨rfl, rfl⟩

theorem trans (h : s.KeepsDeeds t) (k : t.KeepsDeeds u) : s.KeepsDeeds u := ⟨k.grids.trans h.grids, k.engines.trans h.engines⟩

theorem ite {c : Prop} [Decidable c] (h : s.KeepsDeeds t) (k : s.KeepsDeeds u) : s.KeepsDeeds (if c then t else u) := by
  split
  · exact h
  · exact k

end State.KeepsDeeds

/-- Accesses change neither. -/
theorem State.OnlyMemory.deeds {s t : State} (h : s.OnlyMemory t) : s.KeepsDeeds t := by
  have grids : t.bare.grids = s.bare.grids := by rw [h.rest]
  exact ⟨grids, h.engines⟩

section
variable (s : State)

theorem State.deeds_modCtx (asid : Nat) (f : Ctx → Ctx) : s.KeepsDeeds (s.modCtx asid f) := ⟨rfl, rfl⟩

theorem State.deeds_modSource (asid src : Nat) (f : Source → Source) : s.KeepsDeeds (s.modSource asid src f) := ⟨rfl, rfl⟩

theorem State.deeds_modBinding (asid b : Nat) (f : Binding → Binding) : s.KeepsDeeds (s.modBinding asid b f) := ⟨rfl, rfl⟩

theorem State.deeds_tell (asid src : Nat) (i : Item) : s.KeepsDeeds (s.tell asid src i) := ⟨rfl, rfl⟩

theorem State.deeds_deliverInv : s.KeepsDeeds s.deliverInv := (s.only_deliverIf _).deeds

theorem State.deeds_flushNotes (n : Nat) : s.KeepsDeeds (State.flushNotes n s) := by
  have written (u : State) (pa : Nat) (bs : List Byte) : u.KeepsDeeds (u.homeWrite .outside pa bs) :=
    (u.dirty_homePut .outside true false pa bs).toOnlyMemory.deeds
  have taken (u : State) (l : List Notify) (h : HostRegs) (o : List Out) : u.KeepsDeeds { u with held := l, host := h, out := o } :=
    ⟨rfl, rfl⟩
  induction n generalizing s with
  | zero => exact .refl s
  | succ n ih =>
    unfold State.flushNotes
    split
    · exact .refl s
    · exact .ite (((taken ..).trans (written ..)).trans (ih _)) (.refl s)

theorem State.deeds_notify (type detail asid token info : Nat) : s.KeepsDeeds (s.notify type detail asid token info) := by
  have noted (l : List Notify) : s.KeepsDeeds { s with held := l } := ⟨rfl, rfl⟩
  exact (noted _).trans (State.deeds_flushNotes ..)

theorem State.deeds_writeCompletion (die asid : Nat) (x : Ctx) (va val : Nat) : s.KeepsDeeds (s.writeCompletion die asid x va val) := by
  have written : s.KeepsDeeds (s.deliverInv.unitWrite die asid x va (bytesLE 8 val)).1 :=
    s.deeds_deliverInv.trans (State.only_unitWrite ..).deeds
  unfold State.writeCompletion
  refine .ite (.refl s) ?_
  dsimp only
  split
  · exact written.trans (State.deeds_notify ..)
  · exact written

/-! ### Streams: an output that goes on (R214, R222) -/

theorem State.deeds_sendFrame (asid peer : Nat) (f : Sent) : s.KeepsDeeds (s.sendFrame asid peer f) := by
  have emitted (u : State) (src : Nat) (f : Sent) : u.KeepsDeeds (u.emitFrame peer src f) := .ite ⟨rfl, rfl⟩ (.refl u)
  unfold State.sendFrame
  split
  · exact .refl s
  · exact .ite (.refl s) ((s.deeds_modCtx ..).trans (emitted ..))

theorem State.deeds_changed (asid src : Nat) (old : Source) : s.KeepsDeeds (s.changed asid src old) := by
  unfold State.changed
  split
  · exact .refl s
  next k _ =>
    have told : s.KeepsDeeds ((s.tell asid src (.change src k.swm k.state)).srcStatus asid src old) :=
      (s.deeds_tell ..).trans (State.only_srcStatus ..).deeds
    exact .ite (told.trans ((State.deeds_deliverInv _).trans (State.deeds_sendFrame ..))) told

theorem State.deeds_wmadv (asid src : Nat) (w : Int) : s.KeepsDeeds (s.wmadv asid src w) := by
  unfold State.wmadv
  split
  · exact .refl s
  · exact .ite (.refl s) ((s.deeds_modSource ..).trans (State.deeds_changed ..))

theorem State.deeds_sclose (asid src : Nat) : s.KeepsDeeds (s.sclose asid src) := by
  unfold State.sclose
  split
  · exact .refl s
  · exact .ite (.refl s) ((s.deeds_modSource ..).trans (State.deeds_changed ..))

theorem State.deeds_outSend (asid : Nat) (k : Binding) (w : Option Int) : s.KeepsDeeds (s.outSend asid k w) := by
  have delivered := s.deeds_deliverInv
  unfold State.outSend
  dsimp only
  split
  · exact delivered
  · refine delivered.trans (.ite (State.deeds_modCtx ..) ?_)
    split
    · exact State.deeds_wmadv ..
    · exact State.deeds_sclose ..

theorem State.deeds_outAdvance (asid b : Nat) : s.KeepsDeeds (s.outAdvance asid b) := by
  unfold State.outAdvance
  split
  · exact .refl s
  next k _ =>
    have sent (e : Int) : s.KeepsDeeds (((s.modBinding asid b fun k => { k with outwm := e }).outSend asid k (some e)).bindStatus asid b k) :=
      ((s.deeds_modBinding ..).trans (State.deeds_outSend ..)).trans (State.only_bindStatus ..).deeds
    have raised (e : Int) : s.KeepsDeeds (if k.outwm < e then
        ((s.modBinding asid b fun k => { k with outwm := e }).outSend asid k (some e)).bindStatus asid b k else s) := .ite (sent e) (.refl s)
    exact .ite (.refl s) (.ite ((raised _).trans (State.deeds_outSend ..)) (raised _))

/-- The publication of a window's header changes of engines nothing, and of grids that its own has published. -/
theorem State.notePublished_deeds (n asid b slot : Nat) :
    State.KeepsDeeds (s.modGrid n fun d => { d with published := true }) (s.notePublished n asid b slot) := by
  unfold State.notePublished
  dsimp only
  split
  · exact .refl _
  · split
    · exact .refl _
    · exact .ite (.refl _) (.trans (State.deeds_modBinding ..) (.ite (State.deeds_outAdvance ..) (.refl _)))

end

/-! ### GRID_COMPLETION (R89, R191) -/

/-- The state in which a grid is done: its groups' cores have released at system scope and its completion value is written. -/
def State.gridWritten (s : State) (n : Nat) (d : Grid) (x : Ctx) : State :=
  (((((s.groups.filter fun g => g.2.grid = n).map fun g => g.2.core).dedup.foldl (fun u k => u.release k 5) s).deliverInv).modGrid n
    fun d => { d with done := true }).writeCompletion 0 d.asid x d.lr.caddr d.lr.cval.toNat

/-- A packet that a grid came from counts as complete. -/
def Packet.doneBy (n : Nat) (p : Packet) : Packet := if p.grid = some n then { p with done := true } else p

/-- The packets of a grid count as complete. -/
def State.markPackets (s : State) (n : Nat) : State :=
  { s with engines := tmap s.engines fun _ e => { e with packets := e.packets.map (Packet.doneBy n) } }

theorem exec_gridCompletion {s : State} {n : Nat} {d : Grid} {x : Ctx} (hi : s.input = .one n) (hd : tget s.grids n = some d)
    (hx : tget s.ctxs d.asid = some x) (ended : s.gridOver n d = true) (live : x.kill = .live) :
    exec .gridCompletion s = .next (match d.origin with
      | .packet _ _ => (s.gridWritten n d x).markPackets n
      | .window b slot _ => ((s.gridWritten n d x).markPackets n).windowDone n d x b slot) := by
  have ran : exec .gridCompletion s = execGridCompletion s := rfl
  rw [ran, execGridCompletion, hi]
  simp only [hd, hx]
  rw [if_neg (by simp [ended, live])]
  rfl

theorem State.gridWritten_grids {s : State} {n : Nat} {d : Grid} (hd : tget s.grids n = some d) (x : Ctx) :
    tget (s.gridWritten n d x).grids n = some { d with done := true } := by
  have released : s.OnlyMemory ((((s.groups.filter fun g => g.2.grid = n).map fun g => g.2.core).dedup.foldl
      (fun u k => u.release k 5) s).deliverInv) :=
    (State.OnlyMemory.foldl (fun u k => u.only_release k 5) _ s).trans (State.only_deliverIf ..)
  unfold State.gridWritten
  rw [(State.deeds_writeCompletion ..).grids, State.modGrid_grids, released.deeds.grids, tget_tmod_self, hd, Option.map_some]

theorem Packet.doneBy_done {n : Nat} {p : Packet} (h : (p.doneBy n).grid = some n) : (p.doneBy n).done = true := by
  unfold Packet.doneBy at h ⊢
  split
  · rfl
  next other => exact absurd (by rwa [if_neg other] at h) other

theorem State.markPackets_done {s : State} {n key : Nat} {e : Engine} (he : tget (s.markPackets n).engines key = some e) :
    ∀ p ∈ e.packets, p.grid = some n → p.done = true := by
  intro p hp of
  rw [State.markPackets, tget_tmap] at he
  obtain ⟨f, -, rfl⟩ := Option.map_eq_some_iff.1 he
  obtain ⟨q, -, rfl⟩ := List.mem_map.1 hp
  exact Packet.doneBy_done of

/-- What follows the end of a window's grid changes no engine, and no grid is less done. -/
theorem State.windowDone_deeds (s : State) {n : Nat} {e : Grid} (hd : tget s.grids n = some e) (d : Grid) (x : Ctx) (b slot : Nat) :
    (s.windowDone n d x b slot).engines = s.engines ∧ ∃ f, tget (s.windowDone n d x b slot).grids n = some f ∧ f.done = e.done := by
  unfold State.windowDone
  dsimp only
  split
  · exact ⟨rfl, e, hd, rfl⟩
  · have written (die : Nat) : s.KeepsDeeds (s.deliverInv.unitWrite die d.asid x d.res d.head).1 :=
      s.deeds_deliverInv.trans (State.only_unitWrite ..).deeds
    have told (die : Nat) := (s.deliverInv.unitWrite die d.asid x d.res d.head).1.notePublished_deeds n d.asid b slot
    refine ⟨(told _).engines.trans (written _).engines, { e with published := true }, ?_, rfl⟩
    refine (congrArg (tget · n) (told _).grids).trans ?_
    rw [State.modGrid_grids, (written _).grids, tget_tmod_self, hd, Option.map_some]

/-- The grid is done, and its packets count as complete. -/
theorem gridCompletion_completes {s : State} {n : Nat} {d : Grid} {x : Ctx} (hi : s.input = .one n) (hd : tget s.grids n = some d)
    (hx : tget s.ctxs d.asid = some x) (ended : s.gridOver n d = true) (live : x.kill = .live) :
    ∃ t e, exec .gridCompletion s = .next t ∧ tget t.grids n = some e ∧ e.done = true ∧
      (∀ key g, tget t.engines key = some g → ∀ p ∈ g.packets, p.grid = some n → p.done = true) ∧
      ∀ q i, d.origin = .packet q i → t.mem = (s.gridWritten n d x).mem := by
  have done : tget ((s.gridWritten n d x).markPackets n).grids n = some { d with done := true } := State.gridWritten_grids hd x
  have step := exec_gridCompletion hi hd hx ended live
  cases origin : d.origin with
  | packet q i =>
    rw [origin] at step
    exact ⟨_, _, step, done, rfl, fun key g hg => State.markPackets_done hg, fun _ _ _ => rfl⟩
  | window b slot r =>
    rw [origin] at step
    obtain ⟨engines, e, he, same⟩ := State.windowDone_deeds _ done d x b slot
    exact ⟨_, e, step, he, same, fun key g hg => State.markPackets_done (engines ▸ hg), nofun⟩

end Sys2Proof.Machine
end

section
/-! PROOFS. The dispatch of groups (05 R124, 07 R178, 08 R192 to R194): a gang placed whole, its teams at their start; the wait of
those that find no room. -/

namespace Sys2Proof.Machine

/-! ### The choice of a grid, and the wait of the others (R192, R193) -/

/-- The first grid in the order of service whose next group has room, with its core. -/
def State.nextPlace (s : State) : Option ((Nat × Grid) × Nat) :=
  s.served.findSome? fun d => if s.mayPlace d.2 then (s.placeFor d.2).map fun c => (d, c) else none

theorem exec_groupDispatch_some {s : State} {d : Nat × Grid} {core : Nat} (h : s.nextPlace = some (d, core)) : exec .groupDispatch s =
    .next ((s.headGrids.filter fun e => e.1 ≠ d.1).foldl (fun u e => u.noteWait e.1 e.2) (s.dispatch d.1 d.2 core)) := by
  have ran : exec .groupDispatch s = execGroupDispatch s := rfl
  have others : (s.headGrids.filter fun e => (some d.1 : Option Nat) ≠ some e.1) = s.headGrids.filter fun e => e.1 ≠ d.1 :=
    List.filter_congr fun e _ => by simp [eq_comm]
  rw [ran, execGroupDispatch]
  unfold State.nextPlace at h
  simp only [h, Option.map_some]
  rw [others]

theorem exec_groupDispatch_none {s : State} (h : s.nextPlace = none) : exec .groupDispatch s =
    .next (s.headGrids.foldl (fun u e => u.noteWait e.1 e.2) s) := by
  have ran : exec .groupDispatch s = execGroupDispatch s := rfl
  rw [ran, execGroupDispatch]
  unfold State.nextPlace at h
  simp [h]

section
variable {s : State} {n : Nat} {d : Grid} (hd : tget s.grids n = some d)
include hd

theorem State.noteWait_full (full : s.coreFor d = none) (first : d.waitSince = none) :
    ∃ e, tget (s.noteWait n d).grids n = some e ∧ e.waitSince = some s.etime := by
  unfold State.noteWait
  rw [if_neg (by simp [full]), if_pos (by simp [first]), State.modGrid_grids, tget_tmod_self, hd]
  exact ⟨_, rfl, rfl⟩

theorem State.noteWait_room (room : (s.coreFor d).isSome = true) :
    ∃ e, tget (s.noteWait n d).grids n = some e ∧ e.waitSince = none := by
  unfold State.noteWait
  rw [if_pos room, State.modGrid_grids, tget_tmod_self, hd]
  exact ⟨_, rfl, rfl⟩

end

/-! ### What a placement leaves of the groups there were -/

/-- Groups with a name given before are as answers to parked requests leave them, and grids and the time are as they were. -/
structure State.Beyond (s t : State) : Prop where
  fresh : s.fresh ≤ t.fresh
  alike : ∀ n, n < s.fresh → (tget t.groups n).map Group.view = (tget s.groups n).map Group.view
  idle : s.defer = [] → t.defer = [] ∧ ∀ n, n < s.fresh → tget t.groups n = tget s.groups n
  grids : t.grids = s.grids
  etime : t.etime = s.etime

namespace State.Beyond

variable {s t u : State}

/-- A change of other fields. -/
theorem of_same (hg : t.groups = s.groups) (hd : t.defer = s.defer) (hf : s.fresh ≤ t.fresh) (hk : t.grids = s.grids)
    (he : t.etime = s.etime) : s.Beyond t :=
  ⟨hf, fun _ _ => by rw [hg], fun none => ⟨hd.trans none, fun _ _ => by rw [hg]⟩, hk, he⟩

theorem refl (s : State) : s.Beyond s := of_same rfl rfl (Nat.le_refl _) rfl rfl

theorem trans (h : s.Beyond t) (k : t.Beyond u) : s.Beyond u := by
  refine ⟨h.fresh.trans k.fresh, fun n old => ?_, fun none => ?_, k.grids.trans h.grids, k.etime.trans h.etime⟩
  · exact (k.alike n (Nat.lt_of_lt_of_le old h.fresh)).trans (h.alike n old)
  · obtain ⟨defer, same⟩ := h.idle none
    obtain ⟨defer', same'⟩ := k.idle defer
    exact ⟨defer', fun n old => (same' n (Nat.lt_of_lt_of_le old h.fresh)).trans (same n old)⟩

theorem foldl {α : Type} {f : State → α → State} (h : ∀ (u : State) a, u.Beyond (f u a)) (l : List α) (s : State) :
    s.Beyond (l.foldl f s) := by
  induction l generalizing s with
  | nil => exact refl s
  | cons a l ih => exact (h s a).trans (ih (f s a))

/-- An access. -/
theorem of_access (h : s.AnswersOnly t) (k : s.OnlyMemory t) : s.Beyond t := by
  refine ⟨h.fresh, fun n _ => h.alike n, fun none => ?_, k.deeds.grids, k.etime⟩
  obtain ⟨groups, defer⟩ := h.idle none
  exact ⟨defer, fun n _ => by rw [groups]⟩

/-- A group with a new name. -/
theorem named (s : State) (g : Group) : s.Beyond { s with fresh := s.fresh + 1, groups := tset s.groups s.fresh g } := by
  have old (n : Nat) (h : n < s.fresh) : tget (tset s.groups s.fresh g) n = tget s.groups n := tget_tset_ne _ _ (Nat.ne_of_lt h)
  exact ⟨Nat.le_succ _, fun n h => by rw [old n h], fun none => ⟨none, old⟩, rfl, rfl⟩

end State.Beyond

theorem State.beyond_modCtx (s : State) (asid : Nat) (f : Ctx → Ctx) : s.Beyond (s.modCtx asid f) :=
  .of_same rfl rfl (Nat.le_refl _) rfl rfl

theorem State.beyond_activate (s : State) (core : Nat) (t : TRef) : s.Beyond (s.activate core t) :=
  .of_same rfl rfl (Nat.le_refl _) rfl rfl

theorem State.only_takeWays (s : State) (core n : Nat) : s.OnlyMemory (s.takeWays core n).1 :=
  .foldl (fun u l => u.only_l1Evict core l) _ s

/-- A group at its start (R124, R142, R143). -/
def Grid.member (d : Grid) (n gang i core : Nat) (ended : Bool) (ways slots : List Nat) (priv : Nat) : Group :=
  { asid := d.asid, grid := n, index := d.next + i, gang := gang, member := i, core := core, firstCore := core
    ways := ways, spadKiB := d.lr.spad, spad := [], spadPoison := [], privSlot := priv, pool := 0, succ := false
    predPhase := ¬ (d.early && ¬ ended), predErr := d.predFail
    teams := slots.zipIdx.map fun e => (e.2, Team.start e.1 d.lr)
    place := .resident, tiles := [] }

theorem State.predOver_congr {s t : State} (h : t.grids = s.grids) (d : Grid) : t.predOver d = s.predOver d := by
  unfold State.predOver
  rw [h]

/-- A group placed stands at its start under a new name. -/
theorem State.placeGroup_spec (s : State) (n : Nat) (d : Grid) (i gang core : Nat) :
    let t := s.placeGroup n d (d.next + i) gang i core
    s.Beyond t ∧ ∃ gid ways slots priv, gid < t.fresh ∧
      tget t.groups gid = some (d.member n gang i core (s.predOver d) ways slots priv) := by
  intro t
  have readied : s.Beyond ((s.takeWays core (waysOf d.lr.spad)).1.acquire core 5) :=
    .of_access ((s.answers_takeWays ..).trans (State.answers_acquire ..)) ((s.only_takeWays ..).trans (State.only_acquire ..))
  let u := (s.takeWays core (waysOf d.lr.spad)).1.acquire core 5
  have retired : u.predOver d = s.predOver d := State.predOver_congr readied.grids d
  let slots := freeSlots (u.teamSlots core) d.lr.teams
  let priv : Nat := match tget u.ctxs d.asid with | none => 0 | some x => (lowestFree x.nslot x.privUsed).getD 0
  let g := d.member n gang i core (u.predOver d) (s.takeWays core (waysOf d.lr.spad)).2 slots priv
  let entered : State := { u with fresh := u.fresh + 1, groups := tset u.groups u.fresh g }
  let begun (v : State) : State := (List.range d.lr.teams).foldl (fun v role => v.activate core { gid := u.fresh, role := role }) v
  have ran : t = begun (entered.modCtx d.asid fun x => { x with privUsed := x.privUsed ++ [priv] }) := rfl
  have groups (v : State) : (begun v).groups = v.groups :=
    foldl_same (f := fun v role => v.activate core { gid := u.fresh, role := role }) State.groups (fun _ _ => rfl) _ v
  have fresh (v : State) : (begun v).fresh = v.fresh :=
    foldl_same (f := fun v role => v.activate core { gid := u.fresh, role := role }) State.fresh (fun _ _ => rfl) _ v
  refine ⟨?_, u.fresh, (s.takeWays core (waysOf d.lr.spad)).2, slots, priv, ?_, ?_⟩
  · exact (readied.trans (.named u g)).trans ((State.beyond_modCtx ..).trans (.foldl (fun v _ => v.beyond_activate ..) _ _))
  · rw [ran, fresh]
    exact Nat.lt_succ_self _
  · rw [ran, groups, ← retired]
    exact tget_tset_self ..

/-- A member of a gang that is placed: its group was at its start then, and is what answers to parked requests leave of it. -/
def Placed (s t : State) (n : Nat) (d : Grid) (gang i core : Nat) (same : Prop) : Prop :=
  ∃ gid ways slots priv g, tget t.groups gid = some g ∧
    g.view = (d.member n gang i core (s.predOver d) ways slots priv).view ∧
    (same → g = d.member n gang i core (s.predOver d) ways slots priv)

/-- The members of a gang placed one after the other. -/
theorem State.placeGroup_foldl (n : Nat) (d : Grid) (gang core : Nat) (l : List Nat) (s : State) :
    let t := l.foldl (fun u m => u.placeGroup n d (d.next + m) gang m (core + m)) s
    s.Beyond t ∧ ∀ m ∈ l, Placed s t n d gang m (core + m) (l.length = 1 ∨ s.defer = []) := by
  induction l generalizing s with
  | nil => exact ⟨.refl s, nofun⟩
  | cons a l ih =>
    obtain ⟨first, gid, ways, slots, priv, named, at_⟩ := s.placeGroup_spec n d a gang (core + a)
    obtain ⟨rest, placed⟩ := ih (s.placeGroup n d (d.next + a) gang a (core + a))
    have retired := State.predOver_congr first.grids d
    refine ⟨first.trans rest, fun m hm => ?_⟩
    rcases List.mem_cons.1 hm with rfl | later
    case inl =>
      obtain ⟨g, hg, view⟩ := Option.map_eq_some_iff.1 ((rest.alike gid named).trans (congrArg (Option.map Group.view) at_))
      refine ⟨gid, ways, slots, priv, g, hg, view, fun alone => ?_⟩
      have kept : tget (l.foldl (fun u m => u.placeGroup n d (d.next + m) gang m (core + m))
          (s.placeGroup n d (d.next + m) gang m (core + m))).groups gid =
            some (d.member n gang m (core + m) (s.predOver d) ways slots priv) := by
        rcases alone with one | none
        · rw [List.length_eq_zero_iff.1 (Nat.succ.inj one)]
          exact at_
        · exact ((rest.idle (first.idle none).1).2 gid named).trans at_
      exact Option.some.inj (hg.symm.trans kept)
    case inr =>
      obtain ⟨gid, ways, slots, priv, g, hg, view, same⟩ := placed m later
      rw [retired] at view same
      refine ⟨gid, ways, slots, priv, g, hg, view, fun alone => same (.inr ?_)⟩
      rcases alone with one | none
      · exact absurd (List.length_eq_zero_iff.1 (Nat.succ.inj one) ▸ later) List.not_mem_nil
      · exact (first.idle none).1

/-! ### A group at its start, after answers to parked requests -/

theorem Team.view_start {k : Team} {slot : Nat} {r : LaunchRec} (h : k.view = (Team.start slot r).view) :
    { k with landing := [], paths := (Team.start slot r).paths } = Team.start slot r := by
  have rest : { k with landing := [], outst := k.outst.map fun o => { o with ops := [] }, paths := [] } =
      { Team.start slot r with landing := [], outst := [], paths := [] } := congrArg Prod.fst h
  have outst : k.outst = [] := List.map_eq_nil_iff.1 (congrArg Team.outst rest)
  calc { k with landing := [], paths := (Team.start slot r).paths }
      = { ({ k with landing := [], outst := k.outst.map fun o => { o with ops := [] }, paths := [] } : Team) with
            paths := (Team.start slot r).paths } := by rw [outst]; rfl
    _ = Team.start slot r := by rw [rest]; rfl

theorem Grid.member_team {d : Grid} {n gang i core : Nat} {ended : Bool} {ways slots : List Nat} {priv role : Nat} {k : Team}
    (h : tget (d.member n gang i core ended ways slots priv).teams role = some k) : ∃ slot, k = Team.start slot d.lr := by
  obtain ⟨e, -, same⟩ := List.mem_map.1 (tget_mem h)
  exact ⟨e.1, (congrArg Prod.snd same).symm⟩

/-- A member's teams stand at their start but for the answers. -/
theorem Placed.teams {d : Grid} {n gang i core : Nat} {ended : Bool} {ways slots : List Nat} {priv : Nat} {g : Group} {same : Prop}
    (view : g.view = (d.member n gang i core ended ways slots priv).view)
    (eq : same → g = d.member n gang i core ended ways slots priv) {role : Nat} {k : Team} (hk : tget g.teams role = some k) :
    ∃ slot, { k with landing := [], paths := (Team.start slot d.lr).paths } = Team.start slot d.lr ∧ (same → k = Team.start slot d.lr) := by
  have seen := congrFun (congrArg Prod.snd view) role
  obtain ⟨t, ht, tview⟩ := Option.map_eq_some_iff.1 (seen.symm.trans (congrArg (Option.map Team.view) hk))
  obtain ⟨slot, rfl⟩ := Grid.member_team ht
  refine ⟨slot, Team.view_start tview.symm, fun unchanged => ?_⟩
  rw [eq unchanged] at hk
  exact Option.some.inj (hk.symm.trans ht)

/-! ### DISPATCH -/

/-- The state in which a gang of a grid has been placed. -/
def State.placed (s : State) (n : Nat) (d : Grid) (core : Nat) : State :=
  (List.range d.lr.gsz).foldl (fun u m => u.placeGroup n d (d.next + m) s.fresh m (core + m))
    { s with fresh := s.fresh + 1, gangs := tset s.gangs s.fresh { size := d.lr.gsz } }

theorem State.placed_spec (s : State) (n : Nat) (d : Grid) (core : Nat) :
    s.Beyond (s.placed n d core) ∧
      ∀ m, m < d.lr.gsz → Placed s (s.placed n d core) n d s.fresh m (core + m) (d.lr.gsz = 1 ∨ s.defer = []) := by
  have begun : s.Beyond { s with fresh := s.fresh + 1, gangs := tset s.gangs s.fresh { size := d.lr.gsz } } :=
    .of_same rfl rfl (Nat.le_succ _) rfl rfl
  obtain ⟨beyond, members⟩ := State.placeGroup_foldl n d s.fresh core (List.range d.lr.gsz)
    { s with fresh := s.fresh + 1, gangs := tset s.gangs s.fresh { size := d.lr.gsz } }
  rw [List.length_range] at members
  exact ⟨begun.trans beyond, fun m hm => members m (List.mem_range.2 hm)⟩

/-- The members of a gang that is dispatched. -/
theorem State.dispatch_members (s : State) (n : Nat) (d : Grid) (core : Nat) {i : Nat} (hi : i < d.lr.gsz) :
    ∃ gid g, tget (s.dispatch n d core).groups gid = some g ∧ g.grid = n ∧ g.asid = d.asid ∧ g.index = d.next + i ∧
      g.gang = s.fresh ∧ g.member = i ∧ g.core = core + i ∧ g.firstCore = core + i ∧
      g.place = .resident ∧ g.spad = [] ∧ g.spadKiB = d.lr.spad ∧ g.predPhase = !(d.early && !s.predOver d) ∧
      g.predErr = d.predFail ∧ ∀ role k, tget g.teams role = some k → ∃ slot,
        { k with landing := [], paths := (Team.start slot d.lr).paths } = Team.start slot d.lr ∧
        (d.lr.gsz = 1 ∨ s.defer = [] → k = Team.start slot d.lr) := by
  obtain ⟨gid, ways, slots, priv, g, hg, view, eq⟩ := (s.placed_spec n d core).2 i hi
  have field {β : Type} (f : Group → β) := Group.view_field view f
  refine ⟨gid, g, hg, field Group.grid, field Group.asid, field Group.index, field Group.gang, field Group.member, field Group.core,
    field Group.firstCore, field Group.place, field Group.spad, field Group.spadKiB, ?_, field Group.predErr, fun role k hk =>
      Placed.teams view eq hk⟩
  exact (field Group.predPhase).trans (by simp [Grid.member])

theorem State.dispatch_grid {s : State} {n : Nat} {d : Grid} (hd : tget s.grids n = some d) (core : Nat) :
    ∃ e, tget (s.dispatch n d core).grids n = some e ∧ e.next = d.next + d.lr.gsz ∧ e.waitSince = none ∧
      e.started = if d.started.isNone then some s.etime else d.started := by
  have beyond := (s.placed_spec n d core).1
  let counted (d' : Grid) : Grid :=
    { d' with
      next := d'.next + d'.lr.gsz
      started := if d'.started.isNone then some (s.placed n d core).etime else d'.started
      waitSince := none }
  have ran : (s.dispatch n d core).grids = tmod (s.placed n d core).grids n counted := rfl
  refine ⟨counted d, ?_, rfl, rfl, ?_⟩
  · rw [ran, beyond.grids, tget_tmod_self, hd, Option.map_some]
  · rw [← beyond.etime]

end Sys2Proof.Machine
end

section
/-! PROOFS. Resumption (02 R55, R65, R67, 05 R130, 17 R387): a gang comes back whole, each member on its core with the scratchpad it
left with. -/

namespace Sys2Proof.Machine

/-- Where a group stands, and what a resumption brings back of it. -/
def Group.seat (g : Group) : Nat × List Host.Cell × Nat × Nat × Place := (g.core, g.spad, g.index, g.gang, g.place)

theorem Group.seat_inj {g h : Group} (e : g.seat = h.seat) :
    g.core = h.core ∧ g.spad = h.spad ∧ g.index = h.index ∧ g.gang = h.gang ∧ g.place = h.place := by
  simpa only [Group.seat, Prod.mk.injEq] using e

/-- Every group keeps its seat. -/
abbrev State.KeepsSeats (s t : State) : Prop := State.Alike Group.seat s t

theorem State.KeepsGroups.seats {s t : State} (h : s.KeepsGroups t) : s.KeepsSeats t :=
  h.alike.coarser (fun v => v.1.seat) fun _ => rfl

theorem State.Alike.refl {β : Type} {F : Group → β} (s : State) : State.Alike F s s := fun _ => rfl

theorem State.Alike.ite {β : Type} {F : Group → β} {s t u : State} {c : Prop} [Decidable c] (h : State.Alike F s t)
    (k : State.Alike F s u) : State.Alike F s (if c then t else u) := by
  split
  · exact h
  · exact k

theorem State.Alike.foldl {α β : Type} {F : Group → β} {f : State → α → State} (h : ∀ (u : State) a, State.Alike F u (f u a)) (l : List α)
    (s : State) : State.Alike F s (l.foldl f s) := by
  induction l generalizing s with
  | nil => exact .refl s
  | cons a l ih => exact (h s a).trans (ih (f s a))

section
variable (s : State)

/-! ### Requests issued again (R65) -/

theorem State.groups_askAgain (core : Nat) (e : Defer) : s.KeepsGroups (s.askAgain core e) := by
  have refused (e : Defer) (u : State) (type detail asid token info : Nat) :
      u.KeepsGroups ((u.decideLdf e 0 false 2).notify type detail asid token info) :=
    (u.groups_decideLdf ..).trans (State.answers_notify ..).toKeepsGroups
  have asked (u : State) (l : List Defer) : u.KeepsGroups { u with cellReqs := l } := ⟨.of_groups rfl, Nat.le_refl _⟩
  unfold State.askAgain
  dsimp only
  split
  · exact .refl s
  next x _ =>
    have xlat := (s.answers_translate core e.asid x e.va .read).toKeepsGroups
    split
    · exact xlat.trans (refused ..)
    · exact .ite (xlat.trans (asked ..)) (xlat.trans (refused ..))

theorem State.groups_reissueLdfs (gid role core : Nat) : s.KeepsGroups (s.reissueLdfs gid role core) := by
  have counted (n : Tab Ldf) : s.KeepsGroups { s with ldfs := n } := ⟨.of_groups rfl, Nat.le_refl _⟩
  exact (counted _).trans (.foldl (fun u e => u.groups_askAgain core e) _ _)

/-! ### What a resumption restores (R130, R387) -/

theorem State.seats_modTeam (gid role : Nat) (f : Team → Team) : s.KeepsSeats (s.modTeam gid role f) := s.alike_modGroup gid fun _ => rfl

theorem State.seats_restoreMarks (asid gid : Nat) : s.KeepsSeats (s.restoreMarks asid gid) := by
  unfold State.restoreMarks
  split
  · exact .refl s
  · exact State.Alike.trans (.foldl (fun u (p : Parked) => u.seats_modTeam gid p.role _) _ s) (State.answers_unpark ..).toKeepsGroups.seats

theorem State.answers_setFrogs (asid : Nat) (fs : List Frog) : s.AnswersOnly (s.setFrogs asid fs) := by
  have listed (f : Ctx → Ctx) : s.AnswersOnly (s.modCtx asid f) := .of_same rfl rfl (Nat.le_refl _)
  unfold State.setFrogs
  split
  · exact .refl s
  · exact (listed _).trans (State.answers_put ..)

theorem State.seats_restoreTiles (cell : Nat) (ts : List CreelSlot) : s.KeepsSeats (s.restoreTiles cell ts) := by
  refine .foldl (fun u t => ?_) ts s
  split
  · exact .refl u
  · exact .of_groups rfl

end

/-- A group back on a core: a saved one is resident again. -/
def Group.backSeat (g : Group) (core : Nat) : Nat × List Host.Cell × Nat × Nat × Place :=
  (core, g.spad, g.index, g.gang, match g.place with | .saved _ _ => .resident | p => p)

/-- The seats after a group has come back: its own is the core's, the others' are what they were. -/
def State.Seated (s : State) (gid core : Nat) (g : Group) (t : State) : Prop :=
  (tget t.groups gid).map Group.seat = some (g.backSeat core) ∧
    ∀ n, n ≠ gid → (tget t.groups n).map Group.seat = (tget s.groups n).map Group.seat

theorem State.Seated.then {s t u : State} {gid core : Nat} {g : Group} (h : s.Seated gid core g t) (k : t.KeepsSeats u) :
    s.Seated gid core g u :=
  ⟨(k gid).trans h.1, fun n hn => (k n).trans (h.2 n hn)⟩

theorem State.seated_modGroup {s t : State} {gid core : Nat} {g : Group} (hg : tget s.groups gid = some g) (before : s.KeepsSeats t)
    {f : Group → Group} (hf : ∀ k, k.seat = g.seat → (f k).seat = g.backSeat core) : s.Seated gid core g (t.modGroup gid f) := by
  refine ⟨?_, fun n hn => ?_⟩
  · obtain ⟨k, hk, seat⟩ := before.get hg
    rw [State.modGroup_groups, tget_tmod_self, hk, Option.map_some, Option.map_some, hf k seat]
  · rw [State.modGroup_groups, tget_tmod, if_neg hn]
    exact before n

/-- A member of a gang comes back (R387). -/
theorem State.restoreGroup_seated {s : State} {gid : Nat} {g : Group} (hg : tget s.groups gid = some g) (core : Nat) :
    s.Seated gid core g (s.restoreGroup gid core) := by
  have moved (l : Tab AsyncOp) : s.KeepsSeats { (s.takeWays core (waysOf g.spadKiB)).1 with ops := l } :=
    State.Alike.trans (s.answers_takeWays core (waysOf g.spadKiB)).toKeepsGroups.seats (.of_groups rfl)
  unfold State.restoreGroup
  simp only [hg]
  split
  next slot since place =>
    have dropped (u : State) : u.KeepsSeats (if core = g.core then u else u.dropPaths core g.asid) := .ite (.refl u) (.of_groups rfl)
    have seen (u : State) : u.KeepsSeats (if dieOf core = dieOf g.core then u else u.deliverIf fun e => e.die = dieOf core) :=
      .ite (.refl u) (u.answers_deliverIf _).toKeepsGroups.seats
    have frogs (u : State) (l : Ctx → List Frog) : u.KeepsSeats (match tget u.ctxs g.asid with
        | none => u
        | some x => u.setFrogs g.asid (l x)) := by
      split
      · exact .refl u
      · exact (u.answers_setFrogs ..).toKeepsGroups.seats
    have entered (u : State) (t : TRef) : u.KeepsSeats (u.activate core t) := .of_groups rfl
    have goes (u : State) (a b : Nat → Bool) (l : List Nat) : u.KeepsSeats (l.foldl (fun u role =>
        if a role then u else (if b role then u else u.reissueLdfs gid role core).activate core { gid := gid, role := role }) u) :=
      .foldl (fun u role => .ite (.refl u) ((State.Alike.ite (.refl u) (u.groups_reissueLdfs gid role core).seats).trans (entered _ _))) l u
    refine State.Seated.then ?_ (goes _ _ _ _)
    refine State.Seated.then ?_ (frogs _ _)
    refine State.Seated.then (t := State.modCtx _ _ _) ?_ (.of_groups rfl)
    refine State.Seated.then ?_ (State.seats_restoreMarks _ _ _)
    refine State.seated_modGroup hg (((moved _).trans (dropped _)).trans ((seen _).trans (State.answers_acquire ..).toKeepsGroups.seats)) ?_
    intro k seat
    obtain ⟨-, spad, index, gang, -⟩ := Group.seat_inj seat
    simp only [Group.seat, Group.backSeat, place, spad, index, gang]
  next other =>
    refine State.seated_modGroup hg (moved _) fun k seat => ?_
    obtain ⟨-, spad, index, gang, stands⟩ := Group.seat_inj seat
    simp only [Group.seat, Group.backSeat, spad, index, gang, stands]

/-- The return of another member changes no seat of a group. -/
theorem State.restoreGroup_other (s : State) {gid n : Nat} (core : Nat) (h : n ≠ gid) :
    (tget (s.restoreGroup gid core).groups n).map Group.seat = (tget s.groups n).map Group.seat := by
  cases hg : tget s.groups gid with
  | none =>
    unfold State.restoreGroup
    rw [hg]
  | some g => exact (State.restoreGroup_seated hg core).2 n h

/-- What a member holds while its gang comes back: its scratchpad, its grid index and its gang; whether it has ended. -/
def Group.Same (g h : Group) : Prop :=
  h.spad = g.spad ∧ h.index = g.index ∧ h.gang = g.gang ∧ (g.place = .ended → h.place = .ended) ∧
    ∀ k since, g.place = .saved k since → h.place = .saved k since ∨ h.place = .resident

/-- A member that has come back on its core. -/
def Group.Back (g : Group) (base : Nat) (h : Group) : Prop :=
  g.Same h ∧ h.core = base + g.member ∧ ∀ k since, g.place = .saved k since → h.place = .resident

theorem Group.Same.of_seat {g h k : Group} (same : g.Same h) (seat : k.seat = h.seat) : g.Same k := by
  obtain ⟨-, spad, index, gang, place⟩ := Group.seat_inj seat
  unfold Group.Same
  rwa [spad, index, gang, place]

theorem Group.Back.of_seat {g h k : Group} {base : Nat} (back : g.Back base h) (seat : k.seat = h.seat) : g.Back base k := by
  obtain ⟨same, core, up⟩ := back
  obtain ⟨score, -, -, -, splace⟩ := Group.seat_inj seat
  refine ⟨same.of_seat seat, ?_⟩
  rw [score, splace]
  exact ⟨core, up⟩

/-- A member's own return. -/
theorem Group.Same.back {g h k : Group} {base : Nat} (same : g.Same h) (seat : k.seat = h.backSeat (base + g.member)) : g.Back base k := by
  obtain ⟨spad, index, gang, ended, saved⟩ := same
  simp only [Group.seat, Group.backSeat, Prod.mk.injEq] at seat
  obtain ⟨kcore, kspad, kindex, kgang, kplace⟩ := seat
  have up (n t : Nat) (hp : g.place = .saved n t) : k.place = .resident := by
    rcases saved n t hp with e | e <;> rw [kplace, e]
  refine ⟨⟨kspad.trans spad, kindex.trans index, kgang.trans gang, fun hp => ?_, fun n t hp => .inr (up n t hp)⟩, kcore, up⟩
  rw [kplace, ended hp]

/-- A gang whose members come back one after the other: a member is the same throughout, and is back once it was its turn. -/
theorem State.restoreGroup_foldl {gid base : Nat} {g : Group} (ms : List (Nat × Group)) (own : ∀ m ∈ ms, m.1 = gid → m.2 = g) (s : State)
    {h : Group} (hg : tget s.groups gid = some h) (same : g.Same h) :
    ∃ k, tget (ms.foldl (fun u m => u.restoreGroup m.1 (m.2.coreAt base)) s).groups gid = some k ∧ g.Same k ∧
      (g.Back base h ∨ (∃ m ∈ ms, m.1 = gid) → g.Back base k) := by
  induction ms generalizing s h with
  | nil => exact ⟨h, hg, same, fun now => now.resolve_right (by simp)⟩
  | cons m ms ih =>
    have own' : ∀ m ∈ ms, m.1 = gid → m.2 = g := fun m hm => own m (List.mem_cons_of_mem _ hm)
    by_cases mine : m.1 = gid
    case pos =>
      have its := own m List.mem_cons_self mine
      have seated := (State.restoreGroup_seated hg (m.2.coreAt base)).1
      obtain ⟨k, hk, seat⟩ := Option.map_eq_some_iff.1 seated
      rw [its] at seat
      have back : g.Back base k := same.back seat
      obtain ⟨f, hf, fsame, fback⟩ := ih own' _ hk back.1
      rw [List.foldl_cons, mine]
      exact ⟨f, hf, fsame, fun _ => fback (.inl back)⟩
    case neg =>
      have kept := State.restoreGroup_other s (gid := m.1) (m.2.coreAt base) (Ne.symm mine)
      obtain ⟨k, hk, seat⟩ := Option.map_eq_some_iff.1 (kept.trans (congrArg (Option.map Group.seat) hg))
      obtain ⟨f, hf, fsame, fback⟩ := ih own' _ hk (same.of_seat seat)
      refine ⟨f, hf, fsame, fun now => fback ?_⟩
      rcases now with back | ⟨e, he, its⟩
      · exact .inl (back.of_seat seat)
      · rcases List.mem_cons.1 he with rfl | later
        · exact absurd its mine
        · exact .inr ⟨e, later, its⟩

/-! ### GROUP_RESUMPTION -/

theorem exec_groupResumption {s : State} {gid base slot since : Nat} {g : Group} {d : Grid} {k : Gang} (hi : s.input = .two gid base)
    (hg : tget s.groups gid = some g) (away : g.place = .saved slot since) (hd : tget s.grids g.grid = some d)
    (hk : tget s.gangs g.gang = some k) (live : s.alive g.asid = true) :
    let ms := s.groups.filter fun m => m.2.gang = g.gang
    exec .groupResumption s = .next (if s.mayResume ms d base k.size then
      let t := (ms.foldl (fun u m => u.restoreGroup m.1 (m.2.coreAt base)) s).restoreTiles (cellOf base) (ms.flatMap fun m => m.2.tiles)
      { t with groups := tmap t.groups fun _ m => if m.gang = g.gang then { m with tiles := [] } else m }
    else s) := by
  intro ms
  have ran : exec .groupResumption s = execGroupResumption s := rfl
  have saved : g.away = true := by rw [Group.away, away]
  rw [ran, execGroupResumption, hi]
  simp only [hg, saved, if_true]
  unfold State.resumeGang
  simp only [hd, hk, live, not_true_eq_false, false_or]
  by_cases may : s.mayResume ms d base k.size = true
  · rw [if_pos may, if_neg (not_not_intro may)]
  · rw [if_neg may, if_pos may]

/-- What a gang that resumes leaves of its members. -/
theorem resumption_members {s : State} {gang base : Nat} (ts : List CreelSlot)
    (own : ∀ m ∈ s.groups, m.2.gang = gang → tget s.groups m.1 = some m.2) :
    let ms := s.groups.filter fun m => m.2.gang = gang
    let t := (ms.foldl (fun u m => u.restoreGroup m.1 (m.2.coreAt base)) s).restoreTiles (cellOf base) ts
    ∀ m ∈ ms, ∃ h, tget (tmap t.groups fun _ m => if m.gang = gang then { m with tiles := [] } else m) m.1 = some h ∧
      h.core = base + m.2.member ∧ h.spad = m.2.spad ∧ h.index = m.2.index ∧ h.tiles = [] ∧
      (m.2.place = .ended → h.place = .ended) ∧ ∀ k since, m.2.place = .saved k since → h.place = .resident := by
  intro ms t m hm
  have of {e : Nat × Group} (he : e ∈ ms) : e ∈ s.groups ∧ e.2.gang = gang := by simpa [ms] using he
  have found (e : Nat × Group) (he : e ∈ ms) : tget s.groups e.1 = some e.2 := own e (of he).1 (of he).2
  have at_ := found m hm
  have only (e : Nat × Group) (he : e ∈ ms) (same : e.1 = m.1) : e.2 = m.2 :=
    Option.some.inj ((found e he).symm.trans (same ▸ at_))
  have start : m.2.Same m.2 := ⟨rfl, rfl, rfl, id, fun _ _ hp => .inl hp⟩
  obtain ⟨k, hk, -, back⟩ := State.restoreGroup_foldl (base := base) ms only s at_ start
  obtain ⟨f, hf, seat⟩ := (State.seats_restoreTiles _ (cellOf base) ts).get hk
  obtain ⟨⟨spad, index, its, ended, -⟩, core, up⟩ := (back (.inr ⟨m, hm, rfl⟩)).of_seat seat
  have cleared : (if f.gang = gang then { f with tiles := [] } else f) = { f with tiles := [] } := if_pos (its.trans (of hm).2)
  refine ⟨{ f with tiles := [] }, ?_, core, spad, index, rfl, ended, up⟩
  rw [tget_tmap, hf, Option.map_some, cleared]

end Sys2Proof.Machine
end

section
/-! PROOFS. What the L1, the caches of read paths and atomics leave of groups (02 R42 to R60): all but what answers to parked requests
change. -/

namespace Sys2Proof.Machine

section
variable (s : State)

theorem State.answers_seen (core line : Nat) : s.AnswersOnly (s.seen core line) := .of_same rfl rfl (Nat.le_refl _)

theorem State.answers_modCell (n : Nat) (f : CellUnit → CellUnit) : s.AnswersOnly (s.modCell n f) := .of_same rfl rfl (Nat.le_refl _)

theorem State.answers_modDir (line : Nat) (f : Dir → Dir) : s.AnswersOnly (s.modDir line f) := .of_same rfl rfl (Nat.le_refl _)

theorem State.answers_l1Mod (core line : Nat) (f : Line → Line) : s.AnswersOnly (s.l1Mod core line f) := s.answers_modCore ..

theorem State.answers_fillSectors (need : BitVec 4) (low : Bool) (l : CLine) : s.AnswersOnly (s.fillSectors need low l).1 :=
  .foldl_fst (fun (p : State × CLine) i => p.1.answers_homeGet true low (128 * l.line + 32 * i) 32) _ (s, l)

theorem State.answers_dieRead (core pa n : Nat) (alloc low : Bool) : s.AnswersOnly (s.dieRead core pa n alloc low).1 := by
  have spoilt (t : State) (l : List RdcFill) : t.AnswersOnly { t with rdcFill := l } := .of_same rfl rfl (Nat.le_refl _)
  have entered (t : State) (n : Nat) (f : Die → Die) : t.AnswersOnly (t.modDie n f) := .of_same rfl rfl (Nat.le_refl _)
  have filled (t : State) (miss : BitVec 4) (l : CLine) (f : Die → Die) :
      t.AnswersOnly (((t.seen core (pa / 128)).fillSectors miss low l).1.modDie (dieOf core) f) :=
    ((t.answers_seen ..).trans (State.answers_fillSectors ..)).trans (entered ..)
  unfold State.dieRead
  refine .ite_fst ((s.answers_seen ..).trans (State.answers_homeGet ..)) (.ite_fst ((s.answers_seeHome ..).trans (State.answers_homeGet ..)) ?_)
  dsimp only
  split
  · exact filled ..
  · exact (((s.answers_recall _).trans (filled ..)).trans (State.answers_modDir ..)).trans (spoilt ..)

/-- A line enters the L1 in place of another, or not at all. -/
theorem State.answers_l1Enter (core : Nat) (l : Line) : s.AnswersOnly (s.l1Enter core l) := by
  have picked (p : State × Option Nat) (hp : s.AnswersOnly p.1) (f : Nat → Core → Core) :
      s.AnswersOnly (match p.2 with
        | none => p.1
        | some w => p.1.modCore core (f w)) := by
    split
    · exact hp
    · exact hp.trans (State.answers_modCore ..)
  unfold State.l1Enter
  refine picked _ ?_ fun w c => _
  split
  · exact .refl s
  · split
    · exact .refl s
    · split
      · exact .refl s
      · exact s.answers_l1Evict ..

theorem State.answers_l1Load (core pa n : Nat) (a : Attr) : s.AnswersOnly (s.l1Load core pa n a).1 := by
  unfold State.l1Load
  refine .ite_fst ((s.answers_seeHome ..).trans (State.answers_homeGet ..)) (.trans ?_ (State.answers_l1Enter ..))
  refine .trans ?_ (.foldl_fst (fun p i => ?_) _ (_, _))
  · exact .ite (s.answers_recall _) (.refl s)
  · exact p.1.answers_dieRead ..

theorem State.answers_l1LoadAcq (core pa n : Nat) (a : Attr) : s.AnswersOnly (s.l1LoadAcq core pa n a).1 := by
  unfold State.l1LoadAcq
  refine .ite_fst ((s.answers_seeHome ..).trans (State.answers_homeGet ..)) ?_
  dsimp only
  split <;> exact s.answers_dieRead ..

theorem State.answers_storeOf (gid core pa : Nat) (bs : List Byte) (rank : Nat) (through : Bool) (a : Attr) :
    s.AnswersOnly (s.storeOf gid core pa bs rank through a) := by
  have passed : s.AnswersOnly (s.storeThrough core pa bs a) :=
    .trans (.ite (s.answers_l1Evict ..) (s.answers_l1Mod ..)) (State.answers_homePut ..)
  have narrow : s.AnswersOnly (s.l1StoreNarrow core pa bs rank a) :=
    .trans (.ite (s.answers_flushAmod ..) (.refl s)) (State.answers_l1Enter ..)
  have stored : s.AnswersOnly (s.store core pa bs rank through a) := .ite passed narrow
  exact .ite stored (stored.trans (State.answers_l1Mod ..))

theorem State.answers_pathRead (core : Nat) (k : PathKind) (asid pa n : Nat) (a : Attr) : s.AnswersOnly (s.pathRead core k asid pa n a).1 := by
  have sector (u : State) (i : Nat) (l : CLine) : u.AnswersOnly (u.pathSector core k asid i a l).1 := by
    unfold State.pathSector
    dsimp only
    split <;> dsimp only
    · exact u.answers_modCell ..
    · exact .ite ((u.answers_dieRead ..).trans (State.answers_modCell ..)) (u.answers_dieRead ..)
  unfold State.pathRead
  refine .ite_fst ((s.answers_seen ..).trans (State.answers_homeGet ..)) ?_
  dsimp only
  exact .trans (.foldl_fst (fun p i => sector p.1 i p.2) _ (_, _)) (State.answers_modCore ..)

theorem State.answers_grantLine (core line : Nat) (low : Bool) : s.AnswersOnly (s.grantLine core line low) := by
  unfold State.grantLine
  dsimp only
  have granted := ((((s.answers_writeBack core line).trans (State.answers_seeHome _ core line)).trans (State.answers_l2Use _ line low)).trans
    (State.answers_invalidate _ line (.core core))).trans (State.answers_dropRdc _ (dieOf core) line)
  exact ((granted.trans (State.answers_l1Enter ..)).trans (State.answers_modCore ..)).trans (State.answers_modDir ..)

theorem State.answers_rmwNear (core pa : Nat) (low : Bool) (q : AtomReq) : s.AnswersOnly (s.rmwNear core pa low q).s := by
  have near (t : State) : t.AnswersOnly (match t.l1Find core (pa / 128) with
      | some l => if l.holds (pa % 128) (atomBits q.ty / 8) then t.rmwOwned core pa l q
          else (t.writeBack core (pa / 128)).rmwHome core pa true low q
      | none => t.rmwHome core pa true low q : RmwOut).s := by
    split
    · split
      · exact State.answers_l1Enter t core _
      · exact (t.answers_writeBack ..).trans (State.answers_rmwHome ..)
    · exact t.answers_rmwHome ..
  unfold State.rmwNear
  dsimp only
  split
  · split
    · exact near s
    · have recalled := (s.answers_writeBack core (pa / 128)).trans (State.answers_recall _ (pa / 128))
      exact .trans (.trans (recalled.trans (State.answers_modDir _ (pa / 128) _)) (State.answers_modCore ..)) (State.answers_rmwHome ..)
  · refine (s.answers_grantLine core (pa / 128) low).trans ?_
    generalize s.grantLine core (pa / 128) low = t
    exact near t

theorem State.answers_rmwGlobal (core pa : Nat) (a : Attr) (q : AtomReq) : s.AnswersOnly (s.rmwGlobal core pa a q).s := by
  have placed (b : Prop) [Decidable b] : s.AnswersOnly (if b then (s.writeBack core (pa / 128)).rmwHome core pa (¬ a.uncached) a.low q
      else s.rmwNear core pa a.low q).s := by
    split
    · exact (s.answers_writeBack ..).trans (State.answers_rmwHome ..)
    · exact s.answers_rmwNear ..
  exact placed _

end

end Sys2Proof.Machine
end

section
/-! PROOFS. How outstanding work settles (03 R79, 16 R354 to R359, 17 R375, R385): no group moves or ends by it, and no save slot is
taken. -/

namespace Sys2Proof.Machine

/-- Whose a group is and where it is. -/
def Group.hull (g : Group) : Nat × Nat × Place := (g.asid, g.gang, g.place)

/-- The save slots of a context, how many it has and which it has given. -/
def Ctx.slots (x : Ctx) : Nat × List Nat := (x.nsave, x.saves)

/-- No group has moved or ended, no save slot was taken, and the time is as it was. -/
structure State.KeepsPlaces (s t : State) : Prop where
  hull : State.Alike Group.hull s t
  slots : ∀ n, (tget t.ctxs n).map Ctx.slots = (tget s.ctxs n).map Ctx.slots
  etime : t.etime = s.etime

namespace State.KeepsPlaces

variable {s t u : State}

/-- A change of groups alone, or of what places do not depend on. -/
theorem of_hull (h : State.Alike Group.hull s t) (hc : t.ctxs = s.ctxs) (he : t.etime = s.etime) : s.KeepsPlaces t :=
  ⟨h, fun _ => by rw [hc], he⟩

theorem of_same (hg : t.groups = s.groups) (hc : t.ctxs = s.ctxs) (he : t.etime = s.etime) : s.KeepsPlaces t :=
  of_hull (.of_groups hg) hc he

theorem refl (s : State) : s.KeepsPlaces s := of_same rfl rfl rfl

theorem trans (h : s.KeepsPlaces t) (k : t.KeepsPlaces u) : s.KeepsPlaces u :=
  ⟨h.hull.trans k.hull, fun n => (k.slots n).trans (h.slots n), k.etime.trans h.etime⟩

theorem ite {c : Prop} [Decidable c] (h : s.KeepsPlaces t) (k : s.KeepsPlaces u) : s.KeepsPlaces (if c then t else u) := by
  split
  · exact h
  · exact k

/-- As `ite`, for a pair whose state is compared. -/
theorem ite_fst {β : Type} {p q : State × β} {c : Prop} [Decidable c] (h : s.KeepsPlaces p.1) (k : s.KeepsPlaces q.1) :
    s.KeepsPlaces (if c then p else q).1 := by
  split
  · exact h
  · exact k

theorem foldl {α : Type} {f : State → α → State} (h : ∀ (u : State) a, u.KeepsPlaces (f u a)) (l : List α) (s : State) :
    s.KeepsPlaces (l.foldl f s) := by
  induction l generalizing s with
  | nil => exact refl s
  | cons a l ih => exact (h s a).trans (ih (f s a))

theorem foldl_fst {α β : Type} {f : State × β → α → State × β} (h : ∀ (p : State × β) a, p.1.KeepsPlaces (f p a).1) (l : List α)
    (p : State × β) : p.1.KeepsPlaces (l.foldl f p).1 := by
  induction l generalizing p with
  | nil => exact refl p.1
  | cons a l ih => exact (h p a).trans (ih (f p a))

/-- An access. -/
theorem of_access (h : s.KeepsGroups t) (k : s.OnlyMemory t) : s.KeepsPlaces t :=
  of_hull (h.alike.coarser (fun v => v.1.hull) fun _ => rfl) k.ctxs k.etime

end State.KeepsPlaces

section
variable (s : State)

theorem State.places_modGroup (gid : Nat) {f : Group → Group} (hf : ∀ g, (f g).hull = g.hull) : s.KeepsPlaces (s.modGroup gid f) :=
  .of_hull (s.alike_modGroup gid hf) rfl rfl

theorem State.places_modTeam (gid role : Nat) (f : Team → Team) : s.KeepsPlaces (s.modTeam gid role f) :=
  s.places_modGroup gid fun _ => rfl

theorem State.places_modPath (r : Ref) (f : Path → Path) : s.KeepsPlaces (s.modPath r f) := s.places_modTeam ..

theorem State.places_modCell (n : Nat) (f : CellUnit → CellUnit) : s.KeepsPlaces (s.modCell n f) := .of_same rfl rfl rfl

/-- A change of every group that moves none. -/
theorem State.places_tmap (f : Nat → Group → Group) (hf : ∀ n g, (f n g).hull = g.hull) :
    s.KeepsPlaces { s with groups := tmap s.groups f } := by
  refine .of_hull (fun n => ?_) rfl rfl
  rw [tget_tmap, Option.map_map, show Group.hull ∘ f n = Group.hull from funext (hf n)]

theorem State.places_spadPut (gid off : Nat) (bs : List Byte) : s.KeepsPlaces (s.spadPut gid off bs) :=
  s.places_modGroup gid fun _ => rfl

theorem State.places_land (gid role clause : Nat) (w : Pending) : s.KeepsPlaces (s.land gid role clause w) :=
  .of_access (s.groups_land ..) (s.only_land ..)

theorem State.places_landOuts (r : Ref) (clause : Nat) (outs : List (Nat × LaneOut)) : s.KeepsPlaces (s.landOuts r clause outs) := by
  have many {α : Type} (w : List α) (f : α → Pending) (u : State) :
      u.KeepsPlaces (w.foldl (fun s a => s.land r.gid r.role clause (f a)) u) := .foldl (fun u a => u.places_land ..) w u
  have each {α : Type} {f : State → α → State} (h : ∀ (u : State) a, u.KeepsPlaces (f u a)) (l : List α) (u : State) :
      u.KeepsPlaces (l.foldl f u) := .foldl h l u
  exact ((each (fun u a => many ..) _ s).trans (each (fun u a => many ..) _ _)).trans (each (fun u a => many ..) _ _)

theorem State.places_release (core rank : Nat) : s.KeepsPlaces (s.release core rank) :=
  .of_access (s.answers_release ..).toKeepsGroups (s.only_release ..)

/-! ### Issued accesses (R79) -/

theorem State.places_rmwPiece (core : Nat) (r : Ref) (clause : Nat) (q : AtomReq) (p : Piece) :
    s.KeepsPlaces (s.rmwPiece core r clause q p).1 := by
  have acknowledged (o : RmwOut) (ho : s.KeepsPlaces o.s) (b b' : Prop) [Decidable b] [Decidable b'] (w w' : Pending) : s.KeepsPlaces
      (let t := if b then o.s else o.s.land r.gid r.role clause w
       if b' then t else t.land r.gid r.role clause w') := by
    have first : s.KeepsPlaces (if b then o.s else o.s.land r.gid r.role clause w) := .ite ho (ho.trans (State.places_land ..))
    exact .ite first (first.trans (State.places_land ..))
  cases p with
  | mem va pa n a => exact acknowledged _ (.of_access (s.answers_rmwGlobal ..).toKeepsGroups (s.only_rmwGlobal ..)) _ _ _ _
  | spad va gid off n => exact acknowledged (s.rmwSpad gid off q) (s.places_spadPut ..) _ _ _ _
  | pad | given => exact .refl s

theorem State.places_storeOf (gid core pa : Nat) (bs : List Byte) (rank : Nat) (through : Bool) (a : Attr) :
    s.KeepsPlaces (s.storeOf gid core pa bs rank through a) :=
  .of_access (s.answers_storeOf ..).toKeepsGroups (s.only_storeOf ..)

theorem State.places_l1LoadAcq (core pa n : Nat) (a : Attr) : s.KeepsPlaces (s.l1LoadAcq core pa n a).1 :=
  .of_access (s.answers_l1LoadAcq ..).toKeepsGroups (s.only_l1LoadAcq ..)

theorem State.places_readBy (core asid : Nat) (path : Option PathKind) (past : Bool) (p : Piece) :
    s.KeepsPlaces (s.readBy core asid path past p).1 := by
  match path, p with
  | none, .mem va pa n a =>
    exact .ite_fst (s.places_l1LoadAcq ..) (.of_access (s.answers_l1Load ..).toKeepsGroups (s.only_l1Load ..))
  | some k, .mem va pa n a => exact .of_access (s.answers_pathRead ..).toKeepsGroups (s.only_pathRead ..)
  | none, .spad .. | none, .pad _ | none, .given _ | some _, .spad .. | some _, .pad _ | some _, .given _ => exact .refl s

theorem State.places_doPiece (asid core : Nat) (r : Ref) (clause : Nat) (h : How) (a : LaneArg) (off : Nat) (p : Piece) :
    s.KeepsPlaces (s.doPiece asid core r clause h a off p).1 := by
  unfold State.doPiece
  split
  case h_1 => exact s.places_readBy ..
  case h_2 =>
    cases p with
    | mem va pa n a => exact s.places_storeOf ..
    | spad va at_ off n => exact s.places_spadPut ..
    | pad | given => exact .refl s
  case h_3 => exact s.places_rmwPiece ..
  case h_4 => exact .refl s

theorem State.places_doPieces (e : Issue) (l : LaneAcc) (skip n off : Nat) (ps : List Piece) :
    s.KeepsPlaces (s.doPieces e l skip n off ps).1 := by
  have late (t : State) (off : Nat) (p : Piece) : t.KeepsPlaces (t.latePiece e l off p).1 := by
    unfold State.latePiece
    split
    · exact .ite_fst (.refl t) (t.places_doPiece ..)
    · exact t.places_doPiece ..
  induction ps generalizing s skip n off with
  | nil => exact .refl s
  | cons p ps ih =>
    unfold State.doPieces
    exact .ite_fst (ih ..) (.ite_fst (.refl s) (.ite_fst ((late s off p).trans (ih ..)) (ih ..)))

theorem State.places_finishIssue (e : Issue) : s.KeepsPlaces (s.finishIssue e) := by
  have freed (t : State) (r : Ref) (k : Nat) : t.KeepsPlaces (t.freeDone r k) := (t.places_modTeam ..).trans (State.places_modPath ..)
  have ended (l : List Issue) : s.KeepsPlaces { s with issues := l } := .of_same rfl rfl rfl
  have marked (t : State) (bits : LaneSet) : t.KeepsPlaces (match e.done with
      | none => t
      | some k => if e.ends then t.freeDone e.path k else t.markDone e.path k bits) := by
    split
    · exact .refl t
    · exact .ite (freed ..) (t.places_modTeam ..)
  have acquired (t : State) : t.KeepsPlaces (match e.acq with
      | some rank => if e.ends then t.acquire e.core rank else t
      | none => t) := by
    split
    · exact .ite (.of_access (t.answers_acquire ..).toKeepsGroups (t.only_acquire ..)) (.refl t)
    · exact .refl t
  unfold State.finishIssue
  dsimp only
  split
  · exact ended _
  split
  · exact ended _
  exact ((((ended _).trans (State.places_landOuts ..)).trans (marked ..)).trans (acquired _)).trans (State.places_modTeam ..)

theorem State.places_settleLane (id lane : Nat) : s.KeepsPlaces (s.settleLane id lane) := by
  unfold State.settleLane
  split
  · exact .refl s
  split
  · exact .refl s
  next e _ _ l _ =>
    have marked : s.KeepsPlaces (match e.done with
        | some k => if l.over && ¬ e.how.reads then s.markDone e.path k (laneSet [lane]) else s
        | none => s) := by
      split
      · exact .ite (s.places_modTeam ..) (.refl s)
      · exact .refl s
    exact .ite (marked.trans (State.places_finishIssue ..)) marked

theorem State.places_doEvent (id lane i : Nat) : s.KeepsPlaces (s.doEvent id lane i) := by
  have put (t : State) (f : Issue → Issue) : t.KeepsPlaces (t.modIssue id f) := .of_same rfl rfl rfl
  unfold State.doEvent
  split
  · exact .refl s
  split
  · exact .refl s
  · exact ((s.places_doPieces ..).trans (put ..)).trans (State.places_settleLane ..)

/-- Accesses issued before, when they are performed. -/
theorem State.places_flush (sel : Issue → Bool) : s.KeepsPlaces (s.flush sel) := by
  have done (u : State) (e : Issue) : u.KeepsPlaces (u.doIssue e) :=
    .foldl (fun v (l : LaneAcc) => .foldl (fun w i => w.places_doEvent e.id l.lane i) _ v) _ u
  exact .ite (.refl s) (.foldl done _ s)

/-! ### Operations of the copy unit (R354 to R359) -/

theorem State.places_mapPaths (f : Path → Path) : s.KeepsPlaces (s.mapPaths f) := s.places_tmap _ fun _ _ => rfl

theorem State.places_barStep (gid off : Nat) (f : Bar → Bar) : s.KeepsPlaces (s.barStep gid off f) := by
  have put (bs : List Byte) := s.places_spadPut gid off bs
  unfold State.barStep
  exact .ite ((put _).trans (State.places_mapPaths ..)) (.ite ((put _).trans (State.places_mapPaths ..)) (put _))

theorem State.places_credit (bar : Option (Nat × Nat)) (n : Nat) : s.KeepsPlaces (s.credit bar n) := by
  unfold State.credit
  split
  · exact .refl s
  · exact .ite (.refl s) (s.places_barStep ..)

theorem State.places_sectorRead (core : Nat) (src : SecSrc) : s.KeepsPlaces (s.sectorRead core src).1 := by
  cases src with
  | mem pa u n l => exact s.places_l1LoadAcq ..
  | spad gid off | held bs p => exact .refl s

theorem State.places_sectorWrite (gid core rank : Nat) (dst : SecDst) (bs : List Byte) (bad : Bool) :
    s.KeepsPlaces (s.sectorWrite gid core rank dst bs bad) := by
  have poisoned (u : State) (pa n : Nat) : u.KeepsPlaces (u.poisonWritten core pa n) := by
    have masked (v : State) (line : Nat) (m : BitVec 128) : v.KeepsPlaces (v.poisonMask line m) := .ite (.refl v) (.of_same rfl rfl rfl)
    have put (line : Nat) (f : Line → Line) : u.KeepsPlaces (u.l1Mod core line f) := .of_same rfl rfl rfl
    exact .ite (put ..) ((put ..).trans (masked ..))
  cases dst with
  | mem pa u l =>
    have stored := s.places_storeOf gid core pa bs rank false { uncached := u, nrd := false, low := l }
    exact .ite (stored.trans (poisoned ..)) stored
  | spad at_ off => exact .ite ((s.places_spadPut ..).trans (State.places_modGroup _ _ fun _ => rfl)) (s.places_spadPut ..)

theorem State.places_copySector (id i : Nat) : s.KeepsPlaces (s.copySector id i) := by
  have counted (t : State) (l : Tab AsyncOp) : t.KeepsPlaces { t with ops := l } := .of_same rfl rfl rfl
  unfold State.copySector
  split
  · exact .refl s
  split
  · exact .refl s
  next sec _ =>
    have copied (core gid rank : Nat) (bs : List Byte) (bad : Bool) (l : Tab AsyncOp) :
        s.KeepsPlaces { (s.sectorRead core sec.src).1.sectorWrite gid core rank sec.dst bs bad with ops := l } :=
      ((s.places_sectorRead ..).trans (State.places_sectorWrite ..)).trans (counted ..)
    exact .ite (copied ..) ((copied ..).trans (State.places_credit ..))

theorem State.places_copyAll (id : Nat) : s.KeepsPlaces (s.copyAll id) := by
  unfold State.copyAll
  split
  · exact .refl s
  · exact .foldl (fun u _ => u.places_copySector ..) _ s

theorem State.places_freeGang (gang : Nat) : s.KeepsPlaces (s.freeGang gang) := by
  refine .ite (s.places_tmap _ fun _ g => ?_) (.refl s)
  split <;> rfl

theorem State.places_endOp (id : Nat) : s.KeepsPlaces (s.endOp id) := by
  have left (l : Tab AsyncOp) : s.KeepsPlaces { s with ops := l } := .of_same rfl rfl rfl
  have gone (l : Tab AsyncOp) (gid role : Nat) : s.KeepsPlaces (({ s with ops := l } : State).opDone gid role id) :=
    (left l).trans (State.places_modTeam ..)
  unfold State.endOp
  split
  · exact .refl s
  dsimp only
  split
  · exact gone ..
  · exact (gone ..).trans (State.places_freeGang ..)

theorem State.places_opRelease (o : AsyncOp) : s.KeepsPlaces (s.opRelease o) := .ite (s.places_release ..) (.refl s)

theorem State.places_fillTile (o : AsyncOp) (src : List SecSrc) (slot : Nat) : s.KeepsPlaces (s.fillTile o src slot) := by
  unfold State.fillTile
  refine .trans ?_ (State.places_modCell ..)
  refine .trans ?_ (State.places_opRelease ..)
  exact .foldl_fst (fun (e : State × List Byte × List Bool) c => e.1.places_sectorRead o.core c) src (s, [], [])

theorem State.places_completeOp (id : Nat) : s.KeepsPlaces (s.completeOp id) := by
  have copied : s.KeepsPlaces (let s := s.copyAll id
      match tget s.ops id with
      | none => s
      | some o => ((s.opRelease o).credit o.bar (if o.rel then o.credits else 0)).endOp id) := by
    dsimp only
    split
    · exact s.places_copyAll id
    · exact (((s.places_copyAll id).trans (State.places_opRelease ..)).trans (State.places_credit ..)).trans (State.places_endOp ..)
  unfold State.completeOp
  split
  · exact .refl s
  refine .ite (.refl s) ?_
  split
  · exact .refl s
  · exact (s.places_fillTile ..).trans (State.places_endOp ..)
  · exact .refl s
  · exact .refl s
  · exact copied

/-! ### Outstanding work of a team (R375, R385) -/

theorem State.places_cancelLdfs (gid role : Nat) : s.KeepsPlaces (s.cancelLdfs gid role true) := .of_same rfl rfl rfl

theorem State.places_cancelOps (gid role : Nat) : s.KeepsPlaces (s.cancelOps gid role) := .of_same rfl rfl rfl

theorem State.places_modCtx (asid : Nat) {f : Ctx → Ctx} (hf : ∀ x, (f x).slots = x.slots) : s.KeepsPlaces (s.modCtx asid f) := by
  refine ⟨.of_groups rfl, fun n => ?_, rfl⟩
  rw [State.modCtx_ctxs, tget_tmod]
  split
  next e => rw [e, Option.map_map, show Ctx.slots ∘ f = Ctx.slots from funext hf]
  next => rfl

theorem State.places_landIf (gid role : Nat) (sel : Land → Bool) : s.KeepsPlaces (s.landIf gid role sel) := by
  unfold State.landIf
  split
  · exact .refl s
  next g hg =>
    split
    · exact .refl s
    next t _ =>
      have done (t' : Team) : s.KeepsPlaces { s with groups := tset s.groups gid { g with teams := tset g.teams role t' } } := by
        refine .of_hull (fun n => ?_) rfl rfl
        rw [tget_tset]
        split
        next e => rw [e, hg]; rfl
        next => rfl
      exact .ite (done _) ((done _).trans (State.places_modCtx _ _ fun _ => rfl))

/-- What settles moves no group. -/
theorem State.places_settle (gid role : Nat) : s.KeepsPlaces (s.settle gid role) := by
  have dropped (t : State) (l : List HostReq) (h : List HostData) : t.KeepsPlaces { t with hostReqs := l, hostData := h } :=
    .of_same rfl rfl rfl
  have completed (t : State) (ids : List Nat) : t.KeepsPlaces (ids.foldl (fun s i => s.completeOp i) t) :=
    .foldl (fun u i => u.places_completeOp i) ids t
  have quiet := (s.places_flush (Issue.ofTeam gid role)).trans (State.places_cancelLdfs _ gid role)
  exact (((quiet.trans (completed ..)).trans (dropped ..)).trans (State.places_cancelOps ..)).trans (State.places_landIf ..)

theorem State.places_settleGroup (gid : Nat) (g : Group) : s.KeepsPlaces (s.settleGroup gid g) :=
  .foldl (fun u role => u.places_settle gid role) _ s

end

end Sys2Proof.Machine
end

section
/-! PROOFS. Pre-emption (02 R67, 05 R130, 07 R170, R176, 17 R384 to R386): each resident member of a gang takes a save slot of its own,
and nothing that follows changes what was saved. -/

namespace Sys2Proof.Machine

/-! ### A group that is saved -/

/-- A slot is free where not all are given. -/
theorem lowestFree_of_room {n : Nat} {used : List Nat} (room : used.length < n) : ∃ k, lowestFree n used = some k ∧ k ∉ used := by
  cases found : lowestFree n used with
  | some k =>
    have free : ¬ used.contains k = true := by simpa using List.find?_some found
    exact ⟨k, rfl, by simpa using free⟩
  | none =>
    have all : List.range n ⊆ used := fun k hk => by simpa using List.find?_eq_none.1 found k hk
    have long := (List.nodup_range.subperm all).length_le
    rw [List.length_range] at long
    omega

/-- What a save clears of a path (R170, R176). -/
def Path.Quiet (p : Path) : Prop := p.cycLatch = none ∧ p.etLatch = none ∧ p.grant = .none ∧ p.since = none

/-- What a save clears of a team. -/
def Team.Quiet (u : Team) : Prop := u.markers = [] ∧ ∀ slot p, tget u.paths slot = some p → p.Quiet

/-- Every team of a group is as a save leaves it. -/
def Group.Quiet (g : Group) : Prop := ∀ role u, tget g.teams role = some u → u.Quiet

theorem Path.Quiet.of_still {p q : Path} (quiet : p.Quiet) (h : q.still = p.still) : q.Quiet := by
  have same : q.still.Quiet := by rw [h]; exact quiet
  exact same

theorem Group.Quiet.of_view {g h : Group} (quiet : g.Quiet) (view : h.view = g.view) : h.Quiet := by
  intro role u hu
  have teams := congrFun (congrArg Prod.snd view) role
  obtain ⟨t, ht, tview⟩ := Option.map_eq_some_iff.1 (teams.symm.trans (congrArg (Option.map Team.view) hu))
  obtain ⟨markers, paths⟩ := quiet role t ht
  refine ⟨(congrArg (fun v : Team × (Nat → Option Path) => v.1.markers) tview.symm).trans markers, fun slot p hp => ?_⟩
  have slots := congrFun (congrArg Prod.snd tview) slot
  obtain ⟨q, hq, still⟩ := Option.map_eq_some_iff.1 (slots.trans (congrArg (Option.map Path.still) hp))
  exact (paths slot q hq).of_still still.symm

/-- A group away in a slot that was free, as it was saved. -/
def Group.SavedBeside (saves : List Nat) (now : Nat) (g : Group) : Prop := (∃ k, g.place = .saved k now ∧ k ∉ saves) ∧ g.Quiet

theorem Group.SavedBeside.of_view {saves : List Nat} {now : Nat} {g h : Group} (saved : g.SavedBeside saves now) (view : h.view = g.view) :
    h.SavedBeside saves now := by
  obtain ⟨⟨k, place, free⟩, quiet⟩ := saved
  exact ⟨⟨k, (Group.view_field view Group.place).trans place, free⟩,
    quiet.of_view view⟩

/-- A group put away in a slot. -/
def Group.putAway (g : Group) (k now : Nat) : Group :=
  { g with
    place := .saved k now
    ways := []
    teams := tmap g.teams fun _ t => { t with markers := [], paths := tmap t.paths fun _ p => p.saved } }

theorem Group.putAway_quiet (g : Group) (k now : Nat) : (g.putAway k now).Quiet := by
  intro role u hu
  rw [Group.putAway, tget_tmap] at hu
  obtain ⟨t, -, rfl⟩ := Option.map_eq_some_iff.1 hu
  refine ⟨rfl, fun slot p hp => ?_⟩
  rw [tget_tmap] at hp
  obtain ⟨q, -, rfl⟩ := Option.map_eq_some_iff.1 hp
  exact ⟨rfl, rfl, rfl, rfl⟩

/-! ### What a save does beside (R130, R386) -/

section
variable (s : State)

theorem State.places_put (asid va : Nat) (bs : List Byte) : s.KeepsPlaces (s.put asid va bs) :=
  .of_access (s.answers_put ..).toKeepsGroups (s.only_put ..)

theorem State.answers_park (asid gid slot : Nat) (m : Nat × Nat × BitVec 64) : s.AnswersOnly (s.park asid gid slot m) := by
  have listed (t : State) (f : Ctx → Ctx) : t.AnswersOnly (t.modCtx asid f) := .of_same rfl rfl (Nat.le_refl _)
  unfold State.park
  split
  · exact .refl s
  split
  · exact .refl s
  · exact (s.answers_put ..).trans (listed ..)

theorem State.places_park (asid gid slot : Nat) (m : Nat × Nat × BitVec 64) : s.KeepsPlaces (s.park asid gid slot m) := by
  unfold State.park
  split
  · exact .refl s
  split
  · exact .refl s
  · exact (s.places_put ..).trans (State.places_modCtx _ _ fun _ => rfl)

theorem State.only_writeSlot (asid : Nat) (x : Ctx) (g : Group) (k : Nat) : s.OnlyMemory (s.writeSlot asid x g k) :=
  (((((s.only_put ..).trans (State.only_put ..)).trans (State.only_put ..)).trans (State.only_put ..)).trans (State.only_put ..)).trans
    (State.only_put ..)

theorem State.answers_writeSlot (asid : Nat) (x : Ctx) (g : Group) (k : Nat) : s.AnswersOnly (s.writeSlot asid x g k) :=
  (((((s.answers_put ..).trans (State.answers_put ..)).trans (State.answers_put ..)).trans (State.answers_put ..)).trans
    (State.answers_put ..)).trans (State.answers_put ..)

/-- The state in which a group's markers are parked and its slot is written. -/
def State.slotWritten (gid : Nat) (g : Group) (x : Ctx) (k : Nat) : State :=
  let t := g.marks.foldl (fun u m => u.park g.asid gid k m) (s.release g.core 4)
  let t := (tkeys g.teams).foldl (fun u role => u.deactivate g.core { gid := gid, role := role }) t
  match tget t.groups gid with
  | none => t
  | some h => t.writeSlot h.asid x h k

theorem State.slotWritten_keeps (gid : Nat) (g : Group) (x : Ctx) (k : Nat) :
    s.AnswersOnly (s.slotWritten gid g x k) ∧ s.KeepsPlaces (s.slotWritten gid g x k) := by
  have parked (t : State) : t.AnswersOnly (g.marks.foldl (fun u m => u.park g.asid gid k m) t) ∧
      t.KeepsPlaces (g.marks.foldl (fun u m => u.park g.asid gid k m) t) :=
    ⟨.foldl (fun u m => u.answers_park ..) _ t, .foldl (fun u m => u.places_park ..) _ t⟩
  have gone (u : State) (t : TRef) : u.KeepsPlaces (u.deactivate g.core t) := .of_same rfl rfl rfl
  have left (t : State) : t.AnswersOnly ((tkeys g.teams).foldl (fun u role => u.deactivate g.core { gid := gid, role := role }) t) ∧
      t.KeepsPlaces ((tkeys g.teams).foldl (fun u role => u.deactivate g.core { gid := gid, role := role }) t) :=
    ⟨.foldl (fun u role => u.answers_modCore ..) _ t, .foldl (fun u role => gone ..) _ t⟩
  have written (t : State) : t.AnswersOnly (match tget t.groups gid with | none => t | some h => t.writeSlot h.asid x h k) ∧
      t.KeepsPlaces (match tget t.groups gid with | none => t | some h => t.writeSlot h.asid x h k) := by
    split
    · exact ⟨.refl t, .refl t⟩
    · exact ⟨t.answers_writeSlot .., .of_access (t.answers_writeSlot ..).toKeepsGroups (t.only_writeSlot ..)⟩
  exact ⟨(((s.answers_release ..).trans (parked _).1).trans (left _).1).trans (written _).1,
    (((s.places_release ..).trans (parked _).2).trans (left _).2).trans (written _).2⟩

end

/-! ### One member saved (R385) -/

section
variable {s : State} {gid : Nat} {g : Group} {x : Ctx} (hg : tget s.groups gid = some g) (hx : tget s.ctxs g.asid = some x)
include hg hx

theorem State.saveGroup_eq {k : Nat} (free : lowestFree x.nsave x.saves = some k) : s.saveGroup gid =
    let t := (s.slotWritten gid g x k).modCtx g.asid fun x => { x with saves := x.saves ++ [k] }
    t.modGroup gid fun g => g.putAway k t.etime := by
  have kept : tget (s.release g.core 4).ctxs g.asid = some x := by rw [(s.only_release ..).ctxs, hx]
  unfold State.saveGroup
  simp only [hg, kept, free]
  rfl

/-- A member with room for it takes a slot that was free. -/
theorem State.saveGroup_spec (room : x.saves.length < x.nsave) : ∃ k, k ∉ x.saves ∧
    (s.saveGroup gid).etime = s.etime ∧ (tget (s.saveGroup gid).ctxs g.asid).map Ctx.slots = some (x.nsave, x.saves ++ [k]) ∧
    (∀ n, n ≠ gid → (tget (s.saveGroup gid).groups n).map Group.view = (tget s.groups n).map Group.view) ∧
    ∃ h, tget (s.saveGroup gid).groups gid = some h ∧ h.asid = g.asid ∧ h.gang = g.gang ∧ h.SavedBeside x.saves s.etime := by
  obtain ⟨k, free, new⟩ := lowestFree_of_room room
  obtain ⟨answers, places⟩ := s.slotWritten_keeps gid g x k
  obtain ⟨y, hy, slots⟩ := Option.map_eq_some_iff.1 ((places.slots g.asid).trans (congrArg (Option.map Ctx.slots) hx))
  obtain ⟨h, hh, view⟩ := answers.alike.get hg
  have of {β : Type} (f : Group → β) := Group.view_field view f
  rw [State.saveGroup_eq hg hx free]
  refine ⟨k, new, places.etime, ?_, fun n hn => ?_, h.putAway k s.etime, ?_, of Group.asid, of Group.gang, ⟨⟨k, rfl, new⟩,
    h.putAway_quiet _ _⟩⟩
  · rw [State.modGroup_ctxs, State.modCtx_ctxs, tget_tmod_self, hy]
    obtain ⟨total, given⟩ := Prod.mk.inj slots
    exact congrArg some (Prod.ext total (congrArg (· ++ [k]) given))
  · rw [State.modGroup_groups, tget_tmod, if_neg hn]
    exact answers.alike n
  · rw [State.modGroup_groups, tget_tmod_self]
    refine (congrArg (Option.map _) hh).trans ?_
    rw [Option.map_some]
    exact congrArg (fun now => some (h.putAway k now)) places.etime

end

/-! ### The members of a gang saved one after the other -/

/-- A group while the members of its gang are saved: where it was, or, for a resident, away in a slot not given before. -/
def Group.Leaving (g : Group) (saves : List Nat) (now : Nat) (h : Group) : Prop :=
  h.gang = g.gang ∧ (h.place = g.place ∨ g.place = .resident ∧ h.SavedBeside saves now)

theorem Group.Leaving.of_view {g h k : Group} {saves : List Nat} {now : Nat} (leaving : g.Leaving saves now h) (view : k.view = h.view) :
    g.Leaving saves now k := by
  have of {β : Type} (f : Group → β) := Group.view_field view f
  obtain ⟨gang, place | ⟨resident, saved⟩⟩ := leaving
  · exact ⟨(of Group.gang).trans gang, .inl ((of Group.place).trans place)⟩
  · exact ⟨(of Group.gang).trans gang, .inr ⟨resident, saved.of_view view⟩⟩

/-- While there is room for every member that follows, each is saved in its turn, and no slot given before is given again. -/
theorem State.saveGroup_foldl {saves : List Nat} {now asid gid : Nat} {g : Group} (l : List (Nat × Group))
    (residents : ∀ m ∈ l, m.1 = gid → g.place = .resident) (s : State) (time : s.etime = now) {x : Ctx} (hx : tget s.ctxs asid = some x)
    (given : saves ⊆ x.saves) (room : x.saves.length + l.length ≤ x.nsave)
    (ours : ∀ m ∈ l, ∃ h, tget s.groups m.1 = some h ∧ h.asid = asid) {h : Group} (hg : tget s.groups gid = some h)
    (leaving : g.Leaving saves now h) :
    ∃ k, tget (l.foldl (fun u m => u.saveGroup m.1) s).groups gid = some k ∧ g.Leaving saves now k ∧
      (h.SavedBeside saves now ∨ (∃ m ∈ l, m.1 = gid) → k.SavedBeside saves now) := by
  induction l generalizing s x h with
  | nil => exact ⟨h, hg, leaving, fun saved => saved.resolve_right (by simp)⟩
  | cons m l ih =>
    obtain ⟨f, hf, its⟩ := ours m List.mem_cons_self
    rw [List.length_cons] at room
    subst its
    obtain ⟨k, new, etime, slots, others, e, he, easid, egang, saved⟩ := State.saveGroup_spec hf hx (by omega)
    obtain ⟨y, hy, yslots⟩ := Option.map_eq_some_iff.1 slots
    obtain ⟨total, ysaves⟩ := Prod.mk.inj yslots
    have given' : saves ⊆ y.saves := fun i hi => ysaves ▸ List.mem_append_left _ (given hi)
    have room' : y.saves.length + l.length ≤ y.nsave := by
      rw [ysaves, total, List.length_append, List.length_singleton]
      omega
    have ours' : ∀ n ∈ l, ∃ h, tget (s.saveGroup m.1).groups n.1 = some h ∧ h.asid = f.asid := by
      intro n hn
      by_cases same : n.1 = m.1
      · exact ⟨e, same ▸ he, easid⟩
      · obtain ⟨h, hh, its⟩ := ours n (List.mem_cons_of_mem _ hn)
        obtain ⟨j, hj, view⟩ := Option.map_eq_some_iff.1 ((others n.1 same).trans (congrArg (Option.map Group.view) hh))
        exact ⟨j, hj, (Group.view_field view Group.asid).trans its⟩
    have residents' : ∀ m ∈ l, m.1 = gid → g.place = .resident := fun n hn => residents n (List.mem_cons_of_mem _ hn)
    have on := fun {h : Group} => ih residents' (s.saveGroup m.1) (etime.trans time) hy given' room' ours' (h := h)
    by_cases mine : m.1 = gid
    case pos =>
      subst mine
      cases hf.symm.trans hg
      have beside : e.SavedBeside saves now := by
        obtain ⟨⟨n, place, free⟩, quiet⟩ := saved
        exact ⟨⟨n, time ▸ place, fun h => free (given h)⟩, quiet⟩
      have its : g.Leaving saves now e := ⟨egang.trans leaving.1, .inr ⟨residents m List.mem_cons_self rfl, beside⟩⟩
      obtain ⟨j, hj, jleaving, jsaved⟩ := on he its
      exact ⟨j, hj, jleaving, fun _ => jsaved (.inl beside)⟩
    case neg =>
      obtain ⟨j, hj, view⟩ := Option.map_eq_some_iff.1 ((others gid (Ne.symm mine)).trans (congrArg (Option.map Group.view) hg))
      obtain ⟨i, hi, ileaving, isaved⟩ := on hj (leaving.of_view view)
      refine ⟨i, hi, ileaving, fun before => isaved ?_⟩
      rcases before with saved | ⟨n, hn, its⟩
      · exact .inl (saved.of_view view)
      · rcases List.mem_cons.1 hn with rfl | later
        · exact absurd its mine
        · exact .inr ⟨n, later, its⟩

/-! ### GROUP_PREEMPTION -/

/-- The members of a gang. -/
def State.mates (s : State) (gang : Nat) : List (Nat × Group) := s.groups.filter fun m => m.2.gang = gang

/-- The state in which the outstanding work of a gang has settled. -/
def State.gangSettled (s : State) (gang : Nat) : State := (s.mates gang).foldl (fun u m => u.settleGroup m.1 m.2) s

theorem State.places_gangSettled (s : State) (gang : Nat) : s.KeepsPlaces (s.gangSettled gang) := by
  unfold State.gangSettled
  exact .foldl (fun u (m : Nat × Group) => u.places_settleGroup m.1 m.2) (s.mates gang) s

/-- What a gang leaves with, one member after the other, and its creel slots with the first. -/
def State.gangSaved (s : State) (all : List (Nat × Group)) (gang gid : Nat) (g : Group) : State :=
  let t := (all.foldl (fun u m => u.saveGroup m.1) s).saveTiles gang gid g
  { t with groups := tmap t.groups fun _ g => if g.gang = gang then { g with ways := [] } else g }

theorem State.preempt_cons {s : State} {gang gid : Nat} {g : Group} {rest : List (Nat × Group)} {x : Ctx}
    (all : s.gangMembers gang = (gid, g) :: rest) (hx : tget s.ctxs g.asid = some x) : s.preempt gang =
    if x.nsave < x.saves.length + (s.gangMembers gang).length ∨
        x.parkn < x.parked.length + ((s.gangMembers gang).map fun m => m.2.marks.length).sum then s.notify 5 0 g.asid 0 g.index
    else if ¬ (s.gangMembers gang).all fun m => m.2.stopped then s
    else if (s.mates gang).any fun m => (s.gangSettled gang).groupBusy m.1 m.2 then s
    else (s.gangSettled gang).gangSaved (s.gangMembers gang) gang gid g := by
  unfold State.preempt
  rw [all]
  simp only [hx]
  rfl

/-- A group as `Group.view` sees it without its creel tiles and its ways. -/
def Group.unladen (g : Group) : Group × (Nat → Option (Team × (Nat → Option Path))) := ({ g with tiles := [], ways := [] } : Group).view

theorem Group.Leaving.of_unladen {g h k : Group} {saves : List Nat} {now : Nat} (leaving : g.Leaving saves now h)
    (seen : k.unladen = h.unladen) : g.Leaving saves now k :=
  Group.Leaving.of_view (h := { h with tiles := [], ways := [] }) (k := { k with tiles := [], ways := [] }) leaving seen

theorem Group.SavedBeside.of_unladen {g h : Group} {saves : List Nat} {now : Nat} (saved : g.SavedBeside saves now)
    (seen : h.unladen = g.unladen) : h.SavedBeside saves now :=
  Group.SavedBeside.of_view (g := { g with tiles := [], ways := [] }) (h := { h with tiles := [], ways := [] }) saved seen

/-- The creel slots of a gang leave the creel; groups keep all but their tiles. -/
theorem State.saveTiles_alike (s : State) (gang gid : Nat) (g : Group) : State.Alike Group.unladen s (s.saveTiles gang gid g) := by
  have put (u : State) (asid va : Nat) (bs : List Byte) : State.Alike Group.unladen u (u.put asid va bs) :=
    (u.answers_put asid va bs).alike.coarser (fun v => ({ v.1 with tiles := [], ways := [] }, v.2)) fun _ => rfl
  have emptied (f : CellUnit → CellUnit) (n : Nat) : State.Alike Group.unladen s (s.modCell n f) := .of_groups rfl
  have taken (f : CellUnit → CellUnit) (n : Nat) (ts : List CreelSlot) :=
    (emptied f n).trans ((s.modCell n f).alike_modGroup gid (f := fun g => { g with tiles := ts }) fun _ => rfl)
  unfold State.saveTiles
  dsimp only
  split
  · split
    · exact (taken _ _ _).trans (put _ _ _ _)
    · exact taken _ _ _
  · exact taken _ _ _

/-- Members that have left stand as they were saved, without ways. -/
theorem State.gangSaved_member {s : State} {saves : List Nat} {now asid gang gid : Nat} {g : Group} {all : List (Nat × Group)}
    (first : Nat) (k : Group) (gang_ : g.gang = gang)
    (residents : ∀ m ∈ all, m.1 = gid → g.place = .resident) (time : s.etime = now) {x : Ctx} (hx : tget s.ctxs asid = some x)
    (given : saves ⊆ x.saves) (room : x.saves.length + all.length ≤ x.nsave)
    (ours : ∀ m ∈ all, ∃ h, tget s.groups m.1 = some h ∧ h.asid = asid) {h : Group} (hg : tget s.groups gid = some h)
    (same : h.gang = g.gang ∧ h.place = g.place) :
    ∃ f, tget (s.gangSaved all gang first k).groups gid = some f ∧ f.ways = [] ∧ g.Leaving saves now f ∧
      ((∃ m ∈ all, m.1 = gid) → f.SavedBeside saves now) := by
  obtain ⟨e, he, leaving, saved⟩ := State.saveGroup_foldl all residents s time hx given room ours hg ⟨same.1, .inl same.2⟩
  obtain ⟨f, hf, seen⟩ := (State.saveTiles_alike _ gang first k).get he
  have its : f.gang = gang := (leaving.of_unladen seen).1.trans gang_
  have cleared : (if f.gang = gang then { f with ways := [] } else f) = { f with ways := [] } := if_pos its
  refine ⟨{ f with ways := [] }, ?_, rfl, (leaving.of_unladen seen).of_unladen rfl, fun hm =>
    ((saved (.inr hm)).of_unladen seen).of_unladen rfl⟩
  rw [State.gangSaved, tget_tmap, hf, Option.map_some, cleared]

section
variable {s : State} {gid : Nat} {g : Group} (hi : s.input = .one gid) (hg : tget s.groups gid = some g)
  (resident : g.place = .resident)
include hi hg resident

theorem exec_groupPreemption : exec .groupPreemption s = .next (s.preempt g.gang) := by
  have ran : exec .groupPreemption s = execGroupPreemption s := rfl
  rw [ran, execGroupPreemption, hi]
  simp only [hg, resident, if_true]

end

section
variable {s : State} {gid : Nat} {g : Group} {x : Ctx} (hg : tget s.groups gid = some g) (resident : g.place = .resident)
  (own : ∀ m ∈ s.groups, m.2.gang = g.gang → tget s.groups m.1 = some m.2 ∧ m.2.asid = g.asid)

theorem State.mem_gangMembers {s : State} {gang : Nat} {m : Nat × Group} :
    m ∈ s.gangMembers gang ↔ m ∈ s.groups ∧ m.2.gang = gang ∧ m.2.place = .resident := by
  simp [State.gangMembers]

theorem State.mem_mates {s : State} {gang : Nat} {m : Nat × Group} : m ∈ s.mates gang ↔ m ∈ s.groups ∧ m.2.gang = gang := by
  simp [State.mates]

include hg resident in
/-- A resident's gang has a first resident member. -/
theorem State.gangMembers_cons : ∃ m rest, s.gangMembers g.gang = m :: rest :=
  List.exists_cons_of_ne_nil (List.ne_nil_of_mem (State.mem_gangMembers.2 ⟨tget_mem hg, rfl, resident⟩))

include hg resident own in
/-- A gang that has room, stands and is quiet leaves whole. -/
theorem State.preempt_leaves (hx : tget s.ctxs g.asid = some x)
    (slots : x.saves.length + (s.gangMembers g.gang).length ≤ x.nsave)
    (marks : x.parked.length + ((s.gangMembers g.gang).map fun m => m.2.marks.length).sum ≤ x.parkn)
    (stopped : ((s.gangMembers g.gang).all fun m => m.2.stopped) = true)
    (quiet : ((s.mates g.gang).any fun m => (s.gangSettled g.gang).groupBusy m.1 m.2) = false) :
    ∀ m ∈ s.mates g.gang, ∃ h, tget (s.preempt g.gang).groups m.1 = some h ∧ h.ways = [] ∧ (m.2.place = .ended → h.place = .ended) ∧
      (m.2.place = .resident → (∃ k, h.place = .saved k s.etime ∧ k ∉ x.saves) ∧ h.Quiet) := by
  obtain ⟨first, rest, all⟩ := State.gangMembers_cons hg resident
  have head : first ∈ s.gangMembers g.gang := by
    rw [all]
    exact List.mem_cons_self
  obtain ⟨at_, its, -⟩ := State.mem_gangMembers.1 head
  have step := State.preempt_cons (gid := first.1) (g := first.2) all (hx := by rw [(own first at_ its).2, hx])
  rw [if_neg (by omega), if_neg (not_not_intro stopped), if_neg (by simp [quiet])] at step
  rw [step]
  have settled := s.places_gangSettled g.gang
  obtain ⟨y, hy, yslots⟩ := Option.map_eq_some_iff.1 ((settled.slots g.asid).trans (congrArg (Option.map Ctx.slots) hx))
  obtain ⟨total, given⟩ := Prod.mk.inj yslots
  have room : y.saves.length + (s.gangMembers g.gang).length ≤ y.nsave := by
    rw [given, total]
    exact slots
  have ours : ∀ m ∈ s.gangMembers g.gang, ∃ h, tget (s.gangSettled g.gang).groups m.1 = some h ∧ h.asid = g.asid := by
    intro m hm
    obtain ⟨at_, its, -⟩ := State.mem_gangMembers.1 hm
    obtain ⟨h, hh, hull⟩ := settled.hull.get (own m at_ its).1
    exact ⟨h, hh, (congrArg Prod.fst hull).trans (own m at_ its).2⟩
  intro m hm
  obtain ⟨at_, its⟩ := State.mem_mates.1 hm
  have found := (own m at_ its).1
  have only : ∀ n ∈ s.gangMembers g.gang, n.1 = m.1 → m.2.place = .resident := by
    intro n hn same
    obtain ⟨nat, nits, stands⟩ := State.mem_gangMembers.1 hn
    have seen := (own n nat nits).1
    rw [same, found] at seen
    rw [Option.some.inj seen, stands]
  obtain ⟨h, hh, hull⟩ := settled.hull.get found
  have before : h.gang = m.2.gang ∧ h.place = m.2.place := Prod.mk.inj (congrArg Prod.snd hull)
  obtain ⟨f, hf, ways, leaving, saved⟩ := State.gangSaved_member first.1 first.2 its only settled.etime hy (fun _ h => given ▸ h)
    room ours hh before
  refine ⟨f, hf, ways, fun ended => ?_, fun up => saved ⟨m, State.mem_gangMembers.2 ⟨at_, its, up⟩, rfl⟩⟩
  rcases leaving.2 with place | ⟨up, -⟩
  · exact place.trans ended
  · exact absurd (up.symm.trans ended) nofun

end

end Sys2Proof.Machine
end

section
/-! PROOFS. Groups and grids (05 R124, 07 R178, 08 R191 to R196, 17 R377, R384 to R387): the obligation from its parts. -/

namespace Sys2Proof.Machine

/-- When a pre-emption is refused with a notification, and when it does nothing yet (R384, R385). -/
theorem State.preempt_waits {s : State} {gid : Nat} {g : Group} {x : Ctx} (hg : tget s.groups gid = some g) (resident : g.place = .resident)
    (own : ∀ m ∈ s.groups, m.2.gang = g.gang → tget s.groups m.1 = some m.2 ∧ m.2.asid = g.asid) (hx : tget s.ctxs g.asid = some x) :
    let all := s.gangMembers g.gang
    let marks := (all.map fun m => m.2.marks.length).sum
    (x.nsave < x.saves.length + all.length ∨ x.parkn < x.parked.length + marks → ∀ m, all.head? = some m →
      s.preempt g.gang = s.notify 5 0 g.asid 0 m.2.index) ∧
    (x.saves.length + all.length ≤ x.nsave → x.parked.length + marks ≤ x.parkn → (all.all fun m => m.2.stopped) = false →
      s.preempt g.gang = s) ∧
    (x.saves.length + all.length ≤ x.nsave → x.parked.length + marks ≤ x.parkn → (all.all fun m => m.2.stopped) = true →
      ((s.mates g.gang).any fun m => (s.gangSettled g.gang).groupBusy m.1 m.2) = true → s.preempt g.gang = s) := by
  intro all marks
  obtain ⟨first, rest, cons⟩ := State.gangMembers_cons hg resident
  have head : first ∈ s.gangMembers g.gang := by
    rw [cons]
    exact List.mem_cons_self
  obtain ⟨at_, its, -⟩ := State.mem_gangMembers.1 head
  have asid := (own first at_ its).2
  have step := State.preempt_cons (gid := first.1) (g := first.2) cons (hx := by rw [asid, hx])
  have fits (slots : x.saves.length + all.length ≤ x.nsave) (room : x.parked.length + marks ≤ x.parkn) :
      ¬ (x.nsave < x.saves.length + all.length ∨ x.parkn < x.parked.length + marks) :=
    not_or.2 ⟨Nat.not_lt.2 slots, Nat.not_lt.2 room⟩
  refine ⟨fun full m hm => ?_, fun slots room moves => ?_, fun slots room stands busy => ?_⟩
  · have one : m = first := Option.some.inj (hm.symm.trans (congrArg List.head? cons))
    rw [step, if_pos full, one, asid]
  · rw [step, if_neg (fits slots room), if_pos (by simpa using moves)]
  · rw [step, if_neg (fits slots room), if_neg (not_not_intro stands), if_pos busy]

/-- The state in which a grid's groups know that their predecessor has retired. -/
def State.arrived (s : State) (n : Nat) : State :=
  let t := s.deliverInv.modGrid n fun d => { d with predDone := true }
  { t with groups := tmap t.groups fun _ g => if g.grid ≠ n then g else g.predOver }

theorem State.arrived_spec {s : State} {n : Nat} {d : Grid} (hd : tget s.grids n = some d) :
    tget (s.arrived n).grids n = some { d with predDone := true } ∧ (s.arrived n).mem = s.mem ∧
      ∀ gid g, tget s.groups gid = some g → g.grid = n → tget (s.arrived n).groups gid = some g.predOver := by
  refine ⟨?_, s.dropRdcs_mem _, fun gid g hg its => ?_⟩
  · have grids : (s.arrived n).grids = tmod s.deliverInv.grids n fun d => { d with predDone := true } := rfl
    rw [grids, s.deeds_deliverInv.grids, tget_tmod_self, hd, Option.map_some]
  · have groups : (s.arrived n).groups = tmap s.deliverInv.groups fun _ g => if g.grid ≠ n then g else g.predOver := rfl
    have here : tget s.deliverInv.groups gid = some g := by rw [State.deliverInv, State.deliverIf_groups, hg]
    rw [groups, tget_tmap, here, Option.map_some, if_neg (not_not_intro its)]

/-- Settles O55, clause by clause: each event by its equation, a dispatch by the member it places and what answers to parked requests leave
of it, pre-emption and resumption by induction over the members of the gang, a completion by what it leaves of grids and engines. -/
theorem groupsAndGrids : Obligations.GroupsAndGrids := by
  unfold Obligations.GroupsAndGrids
  refine ⟨fun s t g hi hg hp => exec_trapDelivery hi hg hp, ?_, ?_, ?_, ?_, ?_, ?_, ?_⟩
  case refine_1 =>
    intro s gid g x hi hg resident hx own all mates marks
    have ran := exec_groupPreemption hi hg resident
    obtain ⟨refused, early, busy⟩ := State.preempt_waits hg resident own hx
    rw [ran]
    refine ⟨fun full m hm => congrArg _ (refused full m hm), fun slots room moves => congrArg _ (early slots room moves),
      fun slots room stands => ⟨fun working => congrArg _ (busy slots room stands working), fun quiet => ⟨_, rfl, fun m hm => ?_⟩⟩⟩
    exact State.preempt_leaves hg resident own hx slots room stands quiet m hm
  case refine_2 =>
    intro s gid base slot since g d k hi hg away hd hk own live ms
    have ran := exec_groupResumption hi hg away hd hk live
    rw [ran]
    refine ⟨fun cannot => ?_, fun may => ⟨_, congrArg _ (if_pos may), ?_⟩⟩
    · rw [if_neg (by simp [ms] at cannot ⊢; exact cannot)]
    · exact resumption_members _ own
  case refine_3 =>
    intro s n d t0 hi hd hw
    have ran := exec_priorityPreemption hi hd hw
    generalize coreOrder d.lr.dieSet (s.lastCore d.key) = order at ran ⊢
    refine ⟨exec_priorityPreemption_early hi hd hw, fun live waits due full => ?_⟩
    rw [ran live waits due full]
    intro prio victims fits
    have same : fits = fun core => s.fitsWithout d.lr (s.victims d.lr core) core := rfl
    rw [same]
    cases order.find? fun core => s.fitsWithout d.lr (s.victims d.lr core) core with
    | none => rfl
    | some core => rfl
  case refine_4 =>
    intro s r core v vs
    refine ⟨rfl, fun room => ?_, fun full => ?_⟩
    · rw [State.clearCore_cons, if_pos room]
    · rw [State.clearCore_cons, if_neg (by simp [full])]
  case refine_5 =>
    intro s pick
    refine ⟨fun d core h => exec_groupDispatch_some h, exec_groupDispatch_none, fun n d hd => ⟨State.noteWait_full hd, State.noteWait_room hd⟩,
      fun n d core hd => ⟨⟨s.fresh, fun i hi => s.dispatch_members n d core hi⟩, State.dispatch_grid hd core⟩⟩
  case refine_6 =>
    intro s n d x hi hd hx ended live
    exact gridCompletion_completes hi hd hx ended live
  case refine_7 =>
    intro s n a d e hi hd ha he done alive first
    obtain ⟨grid, mem, groups⟩ := State.arrived_spec hd
    exact ⟨s.arrived n, _, exec_predecessorArrival hi hd ha he done alive first, grid, rfl, mem, fun gid g hg its =>
      ⟨g.predOver, groups gid g hg its, rfl, fun _ _ _ _ hu hp => g.predOver_awake hu hp⟩⟩

end Sys2Proof.Machine
end

section
/-! PROOFS. Sources (09 R208 to R214): what appends, advances and closes make of their source, and that all else they do leaves it. -/

namespace Sys2Proof.Machine

/-! ### What leaves a source but for RDIDX (R209, R210) -/

/-- A source without RDIDX, which follows its consumer. -/
def Source.unread (k : Source) : Source := { k with rdidx := 0 }

theorem Source.unread_rdidx (k : Source) (n : Nat) : ({ k with rdidx := n } : Source).unread = k.unread := rfl

theorem Source.unread_fields {k q : Source} (h : q.unread = k.unread) :
    q.wridx = k.wridx ∧ q.swm = k.swm ∧ q.lastact = k.lastact ∧ q.state = k.state :=
  have field {β : Type} (f : Source → β) : f q.unread = f k.unread := congrArg f h
  ⟨field Source.wridx, field Source.swm, field Source.lastact, field Source.state⟩

/-- No time passes, and a source that is there stays as it is but for RDIDX. -/
structure State.KeepsSource (asid src : Nat) (s t : State) : Prop where
  time : t.etime = s.etime
  kept : ∀ x k, s.source asid src = some (x, k) → ∃ y h, t.source asid src = some (y, h) ∧ h.unread = k.unread

namespace State.KeepsSource

variable {asid src : Nat} {s t u : State}

theorem of_ctxs (h : t.ctxs = s.ctxs) (he : t.etime = s.etime) : KeepsSource asid src s t :=
  ⟨he, fun x k hk => ⟨x, k, by rw [State.source_some, h, ← State.source_some, hk], rfl⟩⟩

theorem of_only (h : s.OnlyMemory t) : KeepsSource asid src s t := of_ctxs h.ctxs h.etime

theorem refl (s : State) : KeepsSource asid src s s := of_ctxs rfl rfl

theorem trans (h : KeepsSource asid src s t) (h' : KeepsSource asid src t u) : KeepsSource asid src s u := by
  refine ⟨h'.time.trans h.time, fun x k hk => ?_⟩
  obtain ⟨y, i, hi, same⟩ := h.kept x k hk
  obtain ⟨z, j, hj, same'⟩ := h'.kept y i hi
  exact ⟨z, j, hj, same'.trans same⟩

theorem ite {c : Prop} [Decidable c] (h : KeepsSource asid src s t) (h' : KeepsSource asid src s u) :
    KeepsSource asid src s (if c then t else u) := by
  split
  · exact h
  · exact h'

theorem foldl {α : Type} {f : State → α → State} (h : ∀ (u : State) a, KeepsSource asid src u (f u a)) (l : List α) (s : State) :
    KeepsSource asid src s (l.foldl f s) := by
  induction l generalizing s with
  | nil => exact refl s
  | cons a l ih => exact (h s a).trans (ih (f s a))

/-- A change of a context that leaves its source. -/
theorem modCtx (s : State) (n : Nat) {f : Ctx → Ctx}
    (hf : ∀ x k, tget x.sources src = some k → ∃ h, tget (f x).sources src = some h ∧ h.unread = k.unread) :
    KeepsSource asid src s (s.modCtx n f) := by
  refine ⟨rfl, fun x k hk => ?_⟩
  obtain ⟨hx, hq⟩ := State.source_some.1 hk
  by_cases same : asid = n
  · subst same
    obtain ⟨h, hh, unread⟩ := hf x k hq
    exact ⟨f x, h, State.source_some.2 ⟨State.ctx_modCtx hx f, hh⟩, unread⟩
  · exact ⟨x, k, State.source_some.2 ⟨by rw [State.modCtx, tget_tmod, if_neg same, hx], hq⟩, rfl⟩

end State.KeepsSource

section
variable (s : State)

theorem State.only_unitNat (die asid : Nat) (x : Ctx) (va n : Nat) : s.OnlyMemory (s.unitNat die asid x va n).1 := by
  refine .foldl_fst (fun p e => ?_) _ (s, Except.ok [])
  have xlat := p.1.only_unitXlat die asid x e.1 .read
  dsimp only
  split
  · exact .refl p.1
  · split
    · exact xlat
    · exact xlat.trans (State.only_homeGet ..)

theorem State.only_putData (die asid va : Nat) (bs : List Byte) (bad : Bool) : s.OnlyMemory (s.putData die asid va bs bad) := by
  unfold State.putData
  split
  · exact .refl s
  next x _ =>
    have written := s.only_unitWrite die asid x va bs
    refine .ite written (written.trans (.foldl (fun u p => ?_) _ _))
    have xlat := u.only_unitXlat die asid x p.1 .write
    split
    next h =>
      rw [h] at xlat
      exact .ite (xlat.trans (.of_same rfl rfl)) xlat
    next h =>
      rw [h] at xlat
      exact xlat

theorem State.emitFrame_etime (peer n : Nat) (f : Sent) : (s.emitFrame peer n f).etime = s.etime := by
  unfold State.emitFrame
  dsimp only
  split <;> rfl

end

section
variable {asid src : Nat} (s : State)

theorem State.keepsSource_modBinding (n b : Nat) (f : Binding → Binding) : KeepsSource asid src s (s.modBinding n b f) :=
  .modCtx s n fun _ k hk => ⟨k, hk, rfl⟩

theorem State.keepsSource_tell (n i : Nat) (e : Item) : KeepsSource asid src s (s.tell n i e) :=
  .modCtx s n fun _ k hk => ⟨k, hk, rfl⟩

theorem State.keepsSource_freeRing (n i : Nat) : KeepsSource asid src s (s.freeRing n i) := by
  refine .modCtx s n fun x k hk => ?_
  dsimp only
  rw [tget_tmod]
  split
  next same =>
    subst same
    rw [hk]
    refine ⟨_, rfl, ?_⟩
    dsimp only
    split
    · rfl
    · exact k.unread_rdidx _
  next => exact ⟨k, hk, rfl⟩

theorem State.keepsSource_sendFrame (n peer : Nat) (f : Sent) : KeepsSource asid src s (s.sendFrame n peer f) := by
  unfold State.sendFrame
  split
  · exact .refl s
  · refine .ite (.refl s) (.trans ?_ (.of_ctxs (State.emitFrame_ctxs ..) (State.emitFrame_etime ..)))
    exact .modCtx s n fun _ k hk => ⟨k, hk, rfl⟩

theorem State.keepsSource_changed (n i : Nat) (old : Source) : KeepsSource asid src s (s.changed n i old) := by
  unfold State.changed
  split
  · exact .refl s
  next q _ =>
    have told : KeepsSource asid src s ((s.tell n i (.change i q.swm q.state)).srcStatus n i old) :=
      (s.keepsSource_tell n i _).trans (.of_only (State.only_srcStatus ..))
    exact .ite (told.trans (.trans (.of_only (State.only_deliverIf ..)) (State.keepsSource_sendFrame ..))) told

theorem State.takeRdidx_etime (n i : Nat) : (s.takeRdidx n i).etime = s.etime := by
  unfold State.takeRdidx
  split
  · rfl
  next x _ _ =>
    have read := (s.only_unitNat 0 n x (x.strtab + 64 * i + 0x18) 8).etime
    split
    · rfl
    · dsimp only
      split <;> exact read

end

/-! ### Appends, advances and closes (R212 to R214) -/

/-- A source after an append at a time. -/
def Source.appended (k : Source) (now : Nat) : Source :=
  { k with wridx := (k.wridx + 1) % 2 ^ 64, lastact := now, state := .active }

section
variable {s : State} {asid src : Nat} {x : Ctx} {k : Source} {r : NewRec} {mark : Bool}

theorem State.append_refused (h : (s.takeRdidx asid src).source asid src = some (x, k))
    (no : k.en = false ∨ k.state = .closed ∨ 2 ^ k.nLog ≤ k.behind k.rdidx) :
    s.append asid src r mark = (s.takeRdidx asid src, false) := by
  unfold State.append
  simp only [h]
  exact if_pos (no.imp_left Bool.eq_false_iff.1)

/-- A record that is appended counts its source's WRIDX up and ends its idle state; all else that the append does leaves the source but
for RDIDX. -/
theorem State.append_steps (h : (s.takeRdidx asid src).source asid src = some (x, k)) (done : (s.append asid src r mark).2 = true) :
    ∃ u, KeepsSource asid src (s.takeRdidx asid src) u ∧
      KeepsSource asid src (u.modSource asid src fun q => q.appended u.etime) (s.append asid src r mark).1 := by
  revert done
  unfold State.append
  simp only [h]
  split
  · exact fun no => nomatch no
  split
  · exact fun no => nomatch no
  intro _
  generalize filled : State.putData .. = u
  refine ⟨u, ?reserved, ?told⟩
  case told =>
    refine .trans ?_ ((State.keepsSource_freeRing ..).trans (.of_only (State.only_srcStatus ..)))
    exact .ite ((State.keepsSource_tell ..).trans (State.keepsSource_tell ..)) (State.keepsSource_tell ..)
  case reserved =>
    rw [← filled]
    refine .trans (.foldl (fun u e => ?_) _ _) (.of_only (State.only_putData ..))
    split
    · exact .refl u
    · exact State.keepsSource_modBinding ..

theorem State.append_appends (h : (s.takeRdidx asid src).source asid src = some (x, k)) (done : (s.append asid src r mark).2 = true) :
    ∃ y q, (s.append asid src r mark).1.source asid src = some (y, q) ∧ q.unread = (k.appended s.etime).unread := by
  obtain ⟨u, reserved, told⟩ := State.append_steps h done
  obtain ⟨y, i, hi, same⟩ := reserved.kept x k h
  obtain ⟨z, q, hq, same'⟩ := told.kept _ _ (State.source_modSource hi fun q => q.appended u.etime)
  rw [reserved.time, State.takeRdidx_etime] at same'
  exact ⟨z, q, hq, same'.trans (congrArg (fun e : Source => e.appended s.etime) same)⟩

/-- A source whose watermark is raised at a time. -/
def Source.raised (k : Source) (w : Int) (now : Nat) : Source :=
  { k with swm := w, lastact := if k.state = .active then now else k.lastact }

/-- A source that is closed. -/
def Source.shut (k : Source) : Source := { k with swm := wmMax, state := .closed }

variable (h : s.source asid src = some (x, k))
include h

theorem State.wmadv_stays {w : Int} (no : k.state = .closed ∨ w ≤ k.swm) : s.wmadv asid src w = s := by
  unfold State.wmadv
  simp only [h]
  exact if_pos (.inr no)

theorem State.sclose_stays (no : k.state = .closed) : s.sclose asid src = s := by
  unfold State.sclose
  simp only [h]
  exact if_pos (.inr no)

theorem State.wmadv_raises {w : Int} (en : k.en = true) (opened : k.state ≠ .closed) (above : k.swm < w) :
    ∃ y q, (s.wmadv asid src w).source asid src = some (y, q) ∧ q.unread = (k.raised w s.etime).unread := by
  have steps : s.wmadv asid src w = (s.modSource asid src fun q => q.raised w s.etime).changed asid src k := by
    unfold State.wmadv
    simp only [h]
    exact if_neg (by simp [en, opened, above])
  rw [steps]
  exact (State.keepsSource_changed ..).kept _ _ (State.source_modSource h _)

theorem State.sclose_closes (en : k.en = true) (opened : k.state ≠ .closed) :
    ∃ y q, (s.sclose asid src).source asid src = some (y, q) ∧ q.unread = k.shut.unread := by
  have steps : s.sclose asid src = (s.modSource asid src Source.shut).changed asid src k := by
    unfold State.sclose
    simp only [h]
    exact if_neg (by simp [en, opened])
  rw [steps]
  exact (State.keepsSource_changed ..).kept _ _ (State.source_modSource h _)

end

end Sys2Proof.Machine
end

section
/-! PROOFS. Stream instructions (16 R362 to R364): each by the cases of its source or its grid. -/

namespace Sys2Proof.Machine

/-! ### RAPP, WMADV and SCLOSE (R362, R363) -/

theorem State.release_guard (s : State) (core rank : Nat) : (s.release core rank).guard = s.guard := by
  have same : (s.release core rank).bare.guard = s.bare.guard := by rw [(s.only_release core rank).rest]
  exact same

/-- The checks of every worker lane's record before any lane appends. -/
def State.checkRecords (s : State) (c : Cur) (k : Ctx) (q : Source) (o : OpG) : State × List (Nat × Checked) :=
  (c.workers s.guard).zipIdx.foldl (fun (e : State × List (Nat × Checked)) p =>
    ((e.1.checkRecordLane c k q o p.1 p.2).1, e.2 ++ [(p.1, (e.1.checkRecordLane c k q o p.1 p.2).2)])) (s, [])

theorem State.checkRecordLane_guard (s : State) (c : Cur) (k : Ctx) (q : Source) (o : OpG) (l i : Nat) :
    (s.checkRecordLane c k q o l i).1.guard = s.guard := by
  unfold State.checkRecordLane
  dsimp only
  split
  · rfl
  · split
    · rfl
    · split <;> exact s.translate_guard ..

theorem State.checkRecords_guard (s : State) (c : Cur) (k : Ctx) (q : Source) (o : OpG) :
    (s.checkRecords c k q o).1.guard = s.guard :=
  List.foldlRecOn (motive := fun e : State × List (Nat × Checked) => e.1.guard = s.guard) _ _ rfl
    fun e he _ _ => (e.1.checkRecordLane_guard ..).trans he

/-- The records of some lanes appended in their order until one finds no room; whether each was, and whether one was not. -/
def State.appendRecords (s : State) (c : Cur) (o : OpG) (src : Nat) (ls : List (Nat × List Piece)) :
    State × List (Nat × Bool) × Bool :=
  ls.foldl (fun (e : State × List (Nat × Bool) × Bool) p =>
    if e.2.2 then (e.1, e.2.1 ++ [(p.1, false)], true)
    else
      let a := e.1.append c.g.asid src (e.1.laneRecord c o p.1 p.2) true
      (a.1, e.2.1 ++ [(p.1, a.2)], ! a.2)) (s, [], false)

/-- The state after lanes have appended their records: each active lane of a guard is given whether its record was appended, a helper that
none was, and the path goes on. -/
def State.landRecords (s : State) (c : Cur) (o : OpG) (src : Nat) (ls : List (Nat × List Piece)) (g : Guard) : State :=
  let r := s.appendRecords c o src ls
  (r.1.landP c.r c.p.clauseId o.d.toNat (r.2.1 ++ ((c.act g).filter fun l => c.t.helper l).map fun l => (l, false))).advance c.r

/-- The worker lanes whose record is longer than a source's slot. -/
def State.longLanes (s : State) (c : Cur) (q : Source) (o : OpG) : List Nat :=
  (c.workers s.guard).filter fun l => decide (q.limit < ((c.t.lane l).getV (o.a.toNat + 3)).toNat % 65536)

theorem Ctx.hasSource_eq {k : Ctx} {src : Nat} {q : Source} (hq : tget k.sources src = some q) : k.hasSource src = q.en := by
  unfold Ctx.hasSource
  rw [hq]

section
variable {s : State} {c : Cur} {k : Ctx} {o : OpG} {x : XAsy}

section
variable {f : State → State}

theorem State.sourceOp_idle (hw : c.workers s.guard = []) :
    s.sourceOp c k x f = (s.release c.g.core (streamRank x.scope)).advance c.r := by
  unfold State.sourceOp
  exact if_pos (by rw [hw]; rfl)

theorem State.sourceOp_unused (hw : c.workers s.guard ≠ []) (no : k.hasSource (x.len.toNat % 256) = false) :
    s.sourceOp c k x f = s.takeTrap c.r 1 8 0 0 false := by
  unfold State.sourceOp
  rw [if_neg (by simpa using hw), if_pos (Bool.eq_false_iff.1 no)]

theorem State.sourceOp_used (hw : c.workers s.guard ≠ []) (used : k.hasSource (x.len.toNat % 256) = true) :
    s.sourceOp c k x f = (f (s.release c.g.core (streamRank x.scope))).advance c.r := by
  unfold State.sourceOp
  rw [if_neg (by simpa using hw), if_neg (not_not.2 used)]

end

variable (hk : tget s.ctxs c.g.asid = some k)
include hk

theorem exec_wmadv (hi : Issues s (.wmadv o x) c) : exec (.wmadv o x) s = .next
    (s.sourceOp c k x fun u => u.wmadv c.g.asid (x.len.toNat % 256) (c.p.getS2 o.a.toNat).toInt) := by
  have value : i64 (c.p.getS2 o.a.toNat).toNat = (c.p.getS2 o.a.toNat).toInt := by rw [i64_toInt, BitVec.ofNat_toNat, BitVec.setWidth_eq]
  rw [← value]
  exact exec_issued (f := fun c k => s.sourceOp c k x fun u =>
    u.wmadv c.g.asid (x.len.toNat % 256) (i64 (c.p.getS2 o.a.toNat).toNat)) rfl hi hk

theorem exec_sclose (hi : Issues s (.sclose o x) c) : exec (.sclose o x) s = .next
    (s.sourceOp c k x fun u => u.sclose c.g.asid (x.len.toNat % 256)) :=
  exec_issued (f := fun c k => s.sourceOp c k x fun u => u.sclose c.g.asid (x.len.toNat % 256)) rfl hi hk

variable (hi : Issues s (.rapp o x) c)
include hi

theorem exec_rapp_idle (hw : c.workers s.guard = []) :
    exec (.rapp o x) s = .next ((s.release c.g.core (streamRank x.scope)).advance c.r) :=
  (exec_issued rfl hi hk).trans (congrArg Host.Outcome.next (if_pos (by rw [hw]; rfl)))

variable (hw : c.workers s.guard ≠ [])
include hw

theorem exec_rapp_unused (no : k.hasSource (x.len.toNat % 256) = false) :
    exec (.rapp o x) s = .next (s.takeTrap c.r 1 8 0 0 false) := by
  refine (exec_issued rfl hi hk).trans (congrArg Host.Outcome.next ((if_neg (by simpa using hw)).trans ?_))
  cases hq : tget k.sources (x.len.toNat % 256) with
  | none => rfl
  | some q => exact if_pos (by rw [← Ctx.hasSource_eq hq, no]; decide)

/-- RAPP on a source that is in use: records too long for a slot, then the first failure of the lanes' checks, then the appends. -/
theorem exec_rapp_used {q : Source} (hq : tget k.sources (x.len.toNat % 256) = some q) (en : q.en = true) :
    exec (.rapp o x) s = .next (
      if s.longLanes c q o ≠ [] then s.takeTrap c.r 1 8 0 (laneSet (s.longLanes c q o)) false
      else if failed (s.checkRecords c k q o).2 ≠ [] then (s.checkRecords c k q o).1.laneTrap c.r (failed (s.checkRecords c k q o).2)
      else ((s.checkRecords c k q o).1.release c.g.core (streamRank x.scope)).landRecords c o (x.len.toNat % 256)
        (passed (s.checkRecords c k q o).2) s.guard) := by
  refine (exec_issued rfl hi hk).trans (congrArg Host.Outcome.next ((if_neg (by simpa using hw)).trans ?_))
  simp only [hq, en, not_true_eq_false, if_false]
  refine if_congr (not_congr List.isEmpty_iff) rfl (if_congr (not_congr List.isEmpty_iff) rfl ?_)
  have guard : ((s.checkRecords c k q o).1.release c.g.core (streamRank x.scope)).guard = s.guard :=
    (State.release_guard ..).trans (s.checkRecords_guard c k q o)
  simp only [Bool.not_eq_true, Bool.decide_eq_false]
  exact congrArg (State.landRecords _ c o _ _) guard

end

/-! ### WPUB and WPUB.AMEND (R219, R364) -/

theorem leastDetail_eq_none {ds : List Nat} : leastDetail ds = none ↔ ds = [] := by
  cases ds with
  | nil => simp [leastDetail]
  | cons d ds => cases h : leastDetail ds <;> simp [leastDetail, h]

section
variable {s : State} {i : Instr} {c : Cur} {more : Cur → List Nat} {f : Cur → State}

/-- An instruction whose own check finds a detail that no other check does takes the illegal-instruction fault with it (R276, log 10). -/
theorem issueWith_refused (hi : Issues s i c) {d : Nat} (own : more c = [d]) :
    s.issueWith i more f = .next (s.takeTrap c.r 1 d 0 0 false) := by
  obtain ⟨path, sound⟩ := hi
  have none := leastDetail_eq_none.1 sound
  rw [List.append_nil] at none
  have alone : s.illegal i c [d] = some d := by
    unfold State.illegal
    rw [none]
    rfl
  simp only [State.issueWith, path, own, alone]

theorem issueWith_passes (hi : Issues s i c) (own : more c = []) : s.issueWith i more f = .next (f c) := by
  simp only [State.issueWith, hi.1, own, hi.2]

end

section
variable {s : State} {c : Cur} {amend : Bool}

theorem State.gridKind_window {d : Grid} {b slot : Nat} (hd : tget s.grids c.g.grid = some d) (ho : d.origin = .window b slot amend) :
    s.gridKind c amend = true := by
  simp [State.gridKind, hd, ho]

theorem State.gridKind_other (other : ∀ d b slot, tget s.grids c.g.grid = some d → d.origin ≠ .window b slot amend) :
    s.gridKind c amend = false := by
  unfold State.gridKind
  cases hd : tget s.grids c.g.grid with
  | none => rfl
  | some d =>
    dsimp only
    cases ho : d.origin with
    | packet _ _ => rfl
    | window b slot a => exact decide_eq_false fun same => other d b slot hd (same ▸ ho)

variable {o : OpG} {x : XAsy} {i : Instr}

theorem exec_publication (form : i = if amend then .wpubAmend o x else .wpub o x) : exec i s =
    s.issueWith i (fun c => errIf (¬ s.gridKind c amend) 8) fun c => s.withCtx c fun k => s.publish c k x.scope := by
  subst form
  cases amend <;> rfl

theorem exec_publication_elsewhere (form : i = if amend then .wpubAmend o x else .wpub o x) (hi : Issues s i c)
    (other : ∀ d b slot, tget s.grids c.g.grid = some d → d.origin ≠ .window b slot amend) :
    exec i s = .next (s.takeTrap c.r 1 8 0 0 false) := by
  rw [exec_publication form]
  exact issueWith_refused hi (by rw [State.gridKind_other other]; rfl)

variable {k : Ctx} {d : Grid} {b slot : Nat}

theorem exec_publication_window (form : i = if amend then .wpubAmend o x else .wpub o x) (hi : Issues s i c)
    (hk : tget s.ctxs c.g.asid = some k) (hd : tget s.grids c.g.grid = some d) (ho : d.origin = .window b slot amend) :
    exec i s = .next (s.publish c k x.scope) := by
  rw [exec_publication form, issueWith_passes hi (by rw [State.gridKind_window hd ho]; rfl), State.withCtx, hk]

variable {scope : BitVec 5} (hd : tget s.grids c.g.grid = some d) (ho : d.origin = .window b slot amend)
include hd ho

theorem State.publish_release (done : c.workers s.guard = [] ∨ d.published = true) :
    s.publish c k scope = (s.release c.g.core (scopeRank k c.g.core scope.toNat)).advance c.r := by
  unfold State.publish
  by_cases idle : c.workers s.guard = []
  · exact if_pos (by rw [idle]; rfl)
  · refine (if_neg (by simpa using idle)).trans ?_
    simp only [hd, ho]
    exact if_pos (done.resolve_left idle)

variable (hw : c.workers s.guard ≠ []) (new : d.published = false)
include hw new

theorem State.publish_writes {u : State} {y : Xlat} (ht : s.translate c.g.core c.g.asid k d.res .write = (u, .ok y)) :
    s.publish c k scope = (((u.release c.g.core (scopeRank k c.g.core scope.toNat)).storeThrough c.g.core y.pa d.head y.attr).notePublished
      c.g.grid c.g.asid b slot).advance c.r := by
  unfold State.publish
  refine (if_neg (by simpa using hw)).trans ?_
  simp only [hd, ho, ht, new, Bool.false_eq_true, if_false]
  rfl

theorem State.publish_faults {u : State} {e : Flt} (ht : s.translate c.g.core c.g.asid k d.res .write = (u, .error e)) :
    s.publish c k scope = u.takeTrap c.r e.cause e.detail d.res 0 false := by
  unfold State.publish
  refine (if_neg (by simpa using hw)).trans ?_
  simp only [hd, ho, ht, new, Bool.false_eq_true, if_false]

end

/-- Settles O52: RAPP, WMADV and SCLOSE by the cases of their source, appends and advances by what they leave of it, WPUB and WPUB.AMEND by
the cases of their grid. -/
theorem streamInstructions : Obligations.StreamInstructions := by
  unfold Obligations.StreamInstructions
  refine ⟨?instructions, ?appends, ?advances, ?elsewhere, ?publications⟩
  case instructions =>
    intro s c k o x hk rank src len
    refine ⟨fun idle => ?_, fun hw no => ?_, fun hw used => ⟨fun hi => ?_, fun hi => ?_, fun hi q hq => ?_⟩⟩
    · rw [List.forall_mem_cons, List.forall_mem_cons, List.forall_mem_singleton]
      exact ⟨fun hi => exec_rapp_idle hk hi idle, fun hi => (exec_wmadv hk hi).trans (congrArg _ (State.sourceOp_idle idle)),
        fun hi => (exec_sclose hk hi).trans (congrArg _ (State.sourceOp_idle idle))⟩
    · rw [List.forall_mem_cons, List.forall_mem_cons, List.forall_mem_singleton]
      exact ⟨fun hi => exec_rapp_unused hk hi hw no, fun hi => (exec_wmadv hk hi).trans (congrArg _ (State.sourceOp_unused hw no)),
        fun hi => (exec_sclose hk hi).trans (congrArg _ (State.sourceOp_unused hw no))⟩
    · exact (exec_wmadv hk hi).trans (congrArg _ (State.sourceOp_used hw used))
    · exact (exec_sclose hk hi).trans (congrArg _ (State.sourceOp_used hw used))
    · have ran := exec_rapp_used hk hi hw hq ((Ctx.hasSource_eq hq).symm.trans used)
      refine ⟨fun long => ran.trans (congrArg _ (if_pos long)), fun fits l e rest bad => ?_, fun fits good => ?_⟩
      · refine ran.trans (congrArg _ ((if_neg (not_not.2 fits)).trans ((if_pos fun none => nomatch bad.symm.trans none).trans ?_)))
        exact congrArg (State.laneTrap _ c.r) bad
      · exact ran.trans (congrArg _ ((if_neg (not_not.2 fits)).trans (if_neg (not_not.2 good))))
  case appends =>
    intro s asid src x k r mark h
    refine ⟨State.append_refused h, fun done => ?_⟩
    obtain ⟨y, q, found, same⟩ := State.append_appends h done
    obtain ⟨wridx, -, lastact, state⟩ := Source.unread_fields same
    exact ⟨y, q, found, wridx, state, lastact⟩
  case advances =>
    intro s asid src x k w h en
    refine ⟨fun no => ⟨State.wmadv_stays h (.inl no), State.sclose_stays h no⟩, fun low => State.wmadv_stays h (.inr low),
      fun opened => ⟨fun above => ?_, ?_⟩⟩
    · obtain ⟨y, q, found, same⟩ := State.wmadv_raises h en opened above
      obtain ⟨-, swm, lastact, state⟩ := Source.unread_fields same
      exact ⟨y, q, found, swm, state, lastact⟩
    · obtain ⟨y, q, found, same⟩ := State.sclose_closes h en opened
      obtain ⟨-, swm, -, state⟩ := Source.unread_fields same
      exact ⟨y, q, found, swm, state⟩
  case elsewhere => exact fun s c o x amend i form hi other => exec_publication_elsewhere form hi other
  case publications =>
    intro s c k d b slot amend o x i form hi hk hd ho rank
    rw [exec_publication_window form hi hk hd ho]
    exact ⟨fun done => congrArg _ (State.publish_release hd ho done), fun hw new =>
      ⟨fun u y ht => congrArg _ (State.publish_writes hd ho hw new ht), fun u f ht => congrArg _ (State.publish_faults hd ho hw new ht)⟩⟩

end Sys2Proof.Machine
end

section
/-! PROOFS. Number formats (10 R226 to R228, 13 R300): the rounding modes on a magnitude that is cut, the bits of the values that a format
holds, and sums and products whatever the order of their terms. -/

namespace Sys2Proof.Machine

/-! ### A magnitude cut by k bits (R228, Table 10-3) -/

/-- Whether a magnitude that is cut by k bits goes up to the next whole number. -/
def roundsUp (rm : Nat) (neg : Bool) (m k : Nat) : Bool :=
  match rm with
  | 0 => decide (2 ^ k < 2 * (m % 2 ^ k) ∨ 2 * (m % 2 ^ k) = 2 ^ k ∧ m / 2 ^ k % 2 = 1)
  | 2 => decide (m % 2 ^ k ≠ 0) && ! neg
  | 3 => decide (m % 2 ^ k ≠ 0) && neg
  | _ => false

/-- A cut by no bits drops nothing, so no mode rounds up. -/
theorem roundsUp_zero (rm : Nat) (neg : Bool) (m : Nat) : roundsUp rm neg m 0 = false := by
  unfold roundsUp
  split <;> simp [Nat.mod_one]

theorem quant_add (rm : Nat) (neg : Bool) (m : Nat) (e : Int) (k : Nat) :
    quant rm neg m e false (e + k) = (m / 2 ^ k + (roundsUp rm neg m k).toNat, decide (m % 2 ^ k ≠ 0)) := by
  rcases Nat.eq_zero_or_pos k with rfl | hk
  · simp [quant, roundsUp_zero, Nat.mod_one]
  · have cut : ¬ e + (k : Int) ≤ e := by omega
    have width : (e + (k : Int) - e).toNat = k := by omega
    rw [quant, if_neg cut, width]
    match rm with
    | 0 | 1 | 2 | 3 | _ + 4 => simp [roundsUp, Bool.toNat, Bool.cond_eq_ite, apply_ite]

theorem ceil_div_two_pow (m k : Nat) : (m + 2 ^ k - 1) / 2 ^ k = m / 2 ^ k + (decide (m % 2 ^ k ≠ 0)).toNat := by
  have pos := Nat.two_pow_pos k
  have split := Nat.div_add_mod' m (2 ^ k)
  have low := Nat.mod_lt m pos
  rcases Nat.eq_zero_or_pos (m % 2 ^ k) with exact | rest
  · rw [decide_eq_false (by omega), Bool.toNat_false, Nat.add_zero]
    exact Nat.div_eq_of_lt_le (by omega) (by rw [Nat.succ_mul]; omega)
  · rw [decide_eq_true (by omega), Bool.toNat_true]
    exact Nat.div_eq_of_lt_le (by rw [Nat.succ_mul]; omega) (by rw [Nat.succ_mul, Nat.succ_mul]; omega)

/-- To nearest even: within half a unit of the magnitude, and even at a distance of half a unit. -/
theorem quant_nearest (neg : Bool) (m : Nat) (e : Int) (k : Nat) :
    let n := (quant 0 neg m e false (e + k)).1
    2 * m ≤ (2 * n + 1) * 2 ^ k ∧ 2 * n * 2 ^ k ≤ 2 * m + 2 ^ k ∧
      (2 * m = (2 * n + 1) * 2 ^ k ∨ 2 * m + 2 ^ k = 2 * n * 2 ^ k → n % 2 = 0) := by
  intro n
  have pos := Nat.two_pow_pos k
  have low := Nat.mod_lt m pos
  have split := Nat.div_add_mod' m (2 ^ k)
  have rounded : n = m / 2 ^ k + (roundsUp 0 neg m k).toNat := congrArg Prod.fst (quant_add 0 neg m e k)
  rw [rounded]
  cases up : roundsUp 0 neg m k <;> simp only [roundsUp, decide_eq_true_eq, decide_eq_false_iff_not] at up
  case false =>
    simp only [Bool.toNat_false, Nat.add_zero, add_mul, mul_assoc]
    omega
  case true =>
    simp only [Bool.toNat_true, mul_add, add_mul, mul_assoc]
    omega

theorem quant_towardsZero (neg : Bool) (m : Nat) (e : Int) (k : Nat) : (quant 1 neg m e false (e + k)).1 = m / 2 ^ k :=
  congrArg Prod.fst (quant_add 1 neg m e k)

theorem quant_up (neg : Bool) (m : Nat) (e : Int) (k : Nat) :
    (quant 2 neg m e false (e + k)).1 = if neg then m / 2 ^ k else (m + 2 ^ k - 1) / 2 ^ k := by
  rw [quant_add, ceil_div_two_pow]
  cases neg <;> simp [roundsUp]

theorem quant_down (neg : Bool) (m : Nat) (e : Int) (k : Nat) :
    (quant 3 neg m e false (e + k)).1 = if neg then (m + 2 ^ k - 1) / 2 ^ k else m / 2 ^ k := by
  rw [quant_add, ceil_div_two_pow]
  cases neg <;> simp [roundsUp]

theorem quant_inexact (rm : Nat) (neg : Bool) (m : Nat) (e : Int) (k : Nat) :
    (quant rm neg m e false (e + k)).2 = true ↔ m % 2 ^ k ≠ 0 := by
  rw [quant_add, decide_eq_true_iff]

/-! ### The bits of a value that a format holds (R226, R227) -/

theorem bitsOf_lt (n lo k : Nat) : bitsOf n lo k < 2 ^ k := Nat.mod_lt _ (Nat.two_pow_pos k)

namespace Fmt

variable (f : Fmt)

/-- Bits of a format are its sign, its exponent and its fraction. -/
theorem fields_eq {b : Nat} (hb : b < 2 ^ f.width) :
    f.signBit (bitOf b (f.eb + f.fb)) + bitsOf b f.fb f.eb * 2 ^ f.fb + bitsOf b 0 f.fb = b := by
  have sign : f.signBit (bitOf b (f.eb + f.fb)) = b / 2 ^ (f.fb + f.eb) * 2 ^ (f.fb + f.eb) := by
    have one : b / 2 ^ (f.fb + f.eb) < 2 := Nat.div_lt_of_lt_mul (by
      rwa [width, show 1 + f.eb + f.fb = f.fb + f.eb + 1 by omega, pow_succ] at hb)
    rw [signBit, bitOf, Nat.testBit_eq_decide_div_mod_eq, Nat.add_comm f.eb, Nat.mod_eq_of_lt one]
    rcases Nat.lt_succ_iff_lt_or_eq.1 one with zero | one
    · simp [Nat.lt_one_iff.1 zero]
    · simp [one]
  have exponent := Nat.div_add_mod' (b / 2 ^ f.fb) (2 ^ f.eb)
  have fraction := Nat.div_add_mod' b (2 ^ f.fb)
  rw [Nat.div_div_eq_div_mul, ← pow_add] at exponent
  rw [sign, bitsOf, bitsOf, pow_zero, Nat.div_one]
  rw [← exponent, add_mul, mul_assoc, ← pow_add, Nat.add_comm f.eb] at fraction
  exact fraction

variable {f}

theorem pack_inf (hf : f.inf = true) (neg : Bool) : f.pack (.inf neg) = f.signBit neg + (2 ^ f.eb - 1) * 2 ^ f.fb := by
  rw [pack, if_pos hf]

/-- A zero or a subnormal number. -/
theorem pack_subnormal (neg : Bool) {fr : Nat} (hfr : fr < 2 ^ f.fb) : f.pack (.fin neg fr f.qmin) = f.signBit neg + fr := by
  rw [pack]
  split
  next zero => rw [zero, Nat.add_zero]
  next some =>
    have short : fr.log2 < f.fb := (Nat.log2_lt some).2 hfr
    rw [if_pos (by omega), Int.sub_self, Int.toNat_zero, pow_zero, Nat.mul_one]

theorem pack_normal (neg : Bool) {fr ex : Nat} (hfr : fr < 2 ^ f.fb) (hex : 0 < ex) :
    f.pack (.fin neg (2 ^ f.fb + fr) (f.qmin + ex - 1)) = f.signBit neg + ex * 2 ^ f.fb + fr := by
  have pos := Nat.two_pow_pos f.fb
  have lead : (2 ^ f.fb + fr).log2 = f.fb := (Nat.log2_eq_iff (by omega)).2 ⟨by omega, by rw [pow_succ]; omega⟩
  have biased : (f.qmin + ex - 1 + f.fb - f.fb - f.qmin + 1).toNat = ex := by omega
  rw [pack, if_neg (by omega), lead, if_neg (by omega), biased, Nat.mul_div_cancel _ pos]
  dsimp only
  rw [Nat.add_sub_cancel_left]

theorem pack_unpack {b : Nat} (hb : b < 2 ^ f.width) (number : (f.unpack b).isNaN = false) : f.pack (f.unpack b) = b := by
  have fields := f.fields_eq hb
  have fraction := bitsOf_lt b 0 f.fb
  unfold unpack at number ⊢
  dsimp only at number ⊢
  split at number
  next special =>
    rw [if_pos special]
    split at number
    next infinite =>
      rw [if_pos infinite, pack_inf infinite.1, ← special.1]
      rwa [infinite.2, Nat.add_zero] at fields
    next => cases number
  next finite =>
    rw [if_neg finite]
    split
    next zero =>
      rw [pack_subnormal _ fraction]
      rwa [zero, Nat.zero_mul, Nat.add_zero] at fields
    next normal => rwa [pack_normal _ fraction (Nat.pos_of_ne_zero normal)]

end Fmt

/-! ### Sums and products (R300) -/

theorem leastExp_perm {l₁ l₂ : List Fl} (h : l₁.Perm l₂) : leastExp l₁ = leastExp l₂ := by
  refine h.foldl_eq' (fun x _ y _ q => ?_) 0
  match x, y with
  | .fin _ _ e, .fin _ _ g => exact min_right_comm q e g
  | .nan _, _ | .inf _, _ | .fin _ _ _, .nan _ | .fin _ _ _, .inf _ => rfl

theorem sumFl_perm (rm : Nat) {l₁ l₂ : List Fl} (h : l₁.Perm l₂) : sumFl rm l₁ = sumFl rm l₂ := by
  unfold sumFl
  simp only [h.any_eq, h.all_eq, (h.filter Fl.isInf).any_eq, leastExp_perm h, (h.map _).sum_eq]

theorem Fl.mul_comm : ∀ x y : Fl, x.mul y = y.mul x
  | .nan a, .nan b => congrArg Fl.nan (Bool.or_comm a b)
  | .nan _, .inf _ | .nan _, .fin _ _ _ | .inf _, .nan _ | .fin _ _ _, .nan _ => rfl
  | .inf _, .inf _ => congrArg Fl.inf bne_comm
  | .inf a, .fin b _ _ | .fin a _ _, .inf b => by simp only [Fl.mul, bne_comm (a := a)]
  | .fin a m e, .fin _ _ _ => by simp only [Fl.mul, bne_comm (a := a), Nat.mul_comm m, Int.add_comm e]

theorem Fmt.add_comm (f : Fmt) (rm : Nat) (ftz : Bool) (a b : Nat) : f.add rm ftz a b = f.add rm ftz b a :=
  congrArg (f.result rm ftz) (sumFl_perm rm (.swap _ _ _))

theorem Fmt.mul_comm (f : Fmt) (rm : Nat) (ftz : Bool) (a b : Nat) : f.mul rm ftz a b = f.mul rm ftz b a :=
  congrArg (f.result rm ftz) (Fl.mul_comm _ _)

/-- Table 10-2's canonical NaNs. -/
theorem isNaN_unpack_canonNaN : ∀ f ∈ [f16, bf16, f32, f64, e4m3, e5m2], (f.unpack f.canonNaN).isNaN = true := by
  decide

/-- Settles O26: the modes by what each makes of a cut magnitude, the bits by the fields that a format packs, the order of operands by sums
of permuted terms and by the product of values. -/
theorem formatsAndRounding : Obligations.FormatsAndRounding := by
  unfold Obligations.FormatsAndRounding
  refine ⟨fun neg m e k => ⟨quant_nearest neg m e k, quant_towardsZero neg m e k, quant_up neg m e k, quant_down neg m e k, ?inexact⟩,
    fun f hf => ⟨?bits, isNaN_unpack_canonNaN f hf, ?nan, fun rm z a b => ⟨f.add_comm rm z a b, f.mul_comm rm z a b⟩⟩⟩
  case inexact => exact fun rm => quant_inexact rm neg m e k
  case bits => exact fun b hb number => Fmt.pack_unpack hb number
  case nan => exact fun rm z x => rfl

end Sys2Proof.Machine
end

section
/-! PROOFS. Decoding an instruction gives back its words (12 R263 to R265): the fields of a word, packed again, are the word. -/

namespace Sys2Proof

/-! ### Words packed from their own fields (Tables 12-4 to 12-9) -/

theorem fld_toNat (w : Word) (lo k : Nat) : (fld w lo k).toNat = w.toNat / 2 ^ lo % 2 ^ k := by simp [fld]

theorem guardOf_neg (w : Word) : (guardOf w).neg = fld w 24 1 := rfl
theorem guardOf_p (w : Word) : (guardOf w).p = fld w 21 3 := rfl

/-- A word is the number whose digits its fields are. -/
theorem word_eq {w : Word} {n : Nat} (h : n = w.toNat) : word n = w := by rw [h, word, BitVec.ofNat_toNat, BitVec.setWidth_eq]

theorem packG_get {w : Word} {M F : Nat} (hM : majorOf w = M) (hF : fnOf w = F) : packG (guardOf w) M F (getG w) = w := by
  subst hM hF
  refine word_eq ?_
  have := w.isLt
  simp only [getG, guardOf, fld_toNat, majorOf, fnOf]
  omega

theorem packR_get {w : Word} {M v : Nat} (hM : majorOf w = M) (hv : vOf w = v) : packR (guardOf w) M v (getR w) = w := by
  subst hM hv
  refine word_eq ?_
  have := w.isLt
  simp only [getR, guardOf, fld_toNat, majorOf, vOf]
  omega

theorem packU_get {w : Word} {M F : Nat} (hM : majorOf w = M) (hF : fnUOf w = F) (hv : vOf w = 0) :
    packU (guardOf w) M F (getU w) = w := by
  subst hM hF
  refine word_eq ?_
  have := w.isLt
  simp only [getU, guardOf, fld_toNat, majorOf, fnUOf]
  simp only [vOf] at hv
  omega

theorem fld_eq_zero {w : Word} {lo k : Nat} (h : fld w lo k = 0) : w.toNat / 2 ^ lo % 2 ^ k = 0 := by
  rw [← fld_toNat, h]; simp

/-- A U-format row without operands: its other fields are zero. -/
theorem packU_zero {w : Word} {M F : Nat} (hM : majorOf w = M) (hF : fnUOf w = F) (upper : fld w 9 12 = 0) (lower : fld w 0 3 = 0) :
    packU (guardOf w) M F ⟨0, 0, 0⟩ = w := by
  subst hM hF
  refine word_eq ?_
  have := w.isLt
  replace upper := fld_eq_zero upper
  replace lower := fld_eq_zero lower
  simp only [guardOf, fld_toNat, majorOf, fnUOf, BitVec.ofNat_eq_ofNat, BitVec.toNat_ofNat, Nat.zero_mod] at upper lower ⊢
  omega

theorem packI_get {w : Word} {M : Nat} (hM : majorOf w = M) : packI (guardOf w) M (getI w) = w := by
  subst hM
  refine word_eq ?_
  have := w.isLt
  simp only [getI, guardOf, fld_toNat, majorOf]
  omega

theorem packC_get {w : Word} {M : Nat} (hM : majorOf w = M) : packC (guardOf w) M (getC w) = w := by
  subst hM
  refine word_eq ?_
  have := w.isLt
  simp only [getC, guardOf, fld_toNat, majorOf]
  omega

theorem packJ_get {w : Word} {M : Nat} (hM : majorOf w = M) : packJ (guardOf w) M (getJ w) = w := by
  subst hM
  refine word_eq ?_
  have := w.isLt
  simp only [getJ, guardOf, fld_toNat, majorOf]
  omega

theorem packB_get {w w1 : Word} (hM : majorOf w = 97) (hF : fnOf w = 0) : packB (guardOf w) (getB w w1) = w := by
  refine word_eq ?_
  have := w.isLt
  simp only [majorOf, fnOf] at hM hF
  simp only [getB, guardOf, fld_toNat]
  omega

@[simp] theorem pack_getXMem (w : Word) : (getXMem w).pack = w := word_eq (by have := w.isLt; simp only [getXMem, fld_toNat]; omega)
@[simp] theorem pack_getXAtm (w : Word) : (getXAtm w).pack = w := word_eq (by have := w.isLt; simp only [getXAtm, fld_toNat]; omega)
@[simp] theorem pack_getXMat (w : Word) : (getXMat w).pack = w := word_eq (by have := w.isLt; simp only [getXMat, fld_toNat]; omega)
@[simp] theorem pack_getMMem (w : Word) : (getMMem w).pack = w := word_eq (by have := w.isLt; simp only [getMMem, fld_toNat]; omega)
@[simp] theorem pack_getXAsy (w : Word) : (getXAsy w).pack = w := word_eq (by have := w.isLt; simp only [getXAsy, fld_toNat]; omega)
@[simp] theorem pack_getXLit (w : Word) : (getXLit w).pack = w := rfl
@[simp] theorem pack_getXBf (w : Word) : (getXBf w).pack = w := word_eq (by have := w.isLt; simp only [getXBf, fld_toNat]; omega)
@[simp] theorem pack_getXSel (w : Word) : (getXSel w).pack = w := word_eq (by have := w.isLt; simp only [getXSel, fld_toNat]; omega)
@[simp] theorem pack_getXCvt (w : Word) : (getXCvt w).pack = w := word_eq (by have := w.isLt; simp only [getXCvt, fld_toNat]; omega)
@[simp] theorem pack_getXFence (w : Word) : (getXFence w).pack = w :=
  word_eq (by have := w.isLt; simp only [getXFence, fld_toNat]; omega)
@[simp] theorem pack_getXBar (w : Word) : (getXBar w).pack = w := word_eq (by have := w.isLt; simp only [getXBar, fld_toNat]; omega)
@[simp] theorem pack_getXMark (w : Word) : (getXMark w).pack = w := word_eq (by have := w.isLt; simp only [getXMark, fld_toNat]; omega)

theorem pack_getXTlb {w : Word} {k : Nat} (hk : (fld w 30 2).toNat = k) : (getXTlb w).pack k = w := by
  subst hk
  exact word_eq (by have := w.isLt; simp only [getXTlb, fld_toNat]; omega)

end Sys2Proof
end

section
/-! PROOFS. What parses is written by the encoder (12 R263 to R265, Tables 12-10 to 12-13, 17-5), and what decodes is well-formed. -/

namespace Sys2Proof

/-- The words of an instruction of which w is the first (R263). -/
def wordsAt (w w1 : Word) : List Word := if isX (majorOf w) then [w, w1] else [w]

/-- An instruction, with the guard of w, has the words w and w1, the second where its major has one. -/
def Written (w w1 : Word) (i : Instr) : Prop := i.formOk = true ∧ encode (guardOf w) i = wordsAt w w1

namespace Written

variable {w w1 : Word} {i u : Instr} {M F : Nat}

theorem one {p : Word} (hM : majorOf w = M) (x : isX M = false) (ok : u.formOk = true) (he : encode (guardOf w) u = [p])
    (hp : p = w) : Written w w1 u := by
  refine ⟨ok, he.trans ?_⟩
  rw [wordsAt, hM, x, hp]
  rfl

theorem two {p q : Word} (hM : majorOf w = M) (x : isX M = true) (ok : u.formOk = true) (he : encode (guardOf w) u = [p, q])
    (hp : p = w) (hq : q = w1) : Written w w1 u := by
  refine ⟨ok, he.trans ?_⟩
  rw [wordsAt, hM, x, hp, hq]
  rfl

theorem ofR {v : Nat} (hM : majorOf w = M) (hv : vOf w = v) (h : (.ok u : Except Nat Instr) = .ok i) (x : isX M = false)
    (he : encode (guardOf w) u = [packR (guardOf w) M v (getR w)]) (ok : u.formOk = true) : Written w w1 i := by
  obtain rfl := Except.ok.inj h
  exact one hM x ok he (packR_get hM hv)

theorem ofG (hM : majorOf w = M) (hF : fnOf w = F) (h : (.ok u : Except Nat Instr) = .ok i) (x : isX M = false)
    (he : encode (guardOf w) u = [packG (guardOf w) M F (getG w)]) (ok : u.formOk = true) : Written w w1 i := by
  obtain rfl := Except.ok.inj h
  exact one hM x ok he (packG_get hM hF)

theorem ofX {p : Word} (hM : majorOf w = M) (hF : fnOf w = F) (h : (.ok u : Except Nat Instr) = .ok i) (x : isX M = true)
    (he : encode (guardOf w) u = [packG (guardOf w) M F (getG w), p]) (hp : p = w1) (ok : u.formOk = true) : Written w w1 i := by
  obtain rfl := Except.ok.inj h
  exact two hM x ok he (packG_get hM hF) hp

theorem ofU (hM : majorOf w = M) (hF : fnUOf w = F) (h : okU w u = .ok i) (x : isX M = false)
    (he : encode (guardOf w) u = [packU (guardOf w) M F (getU w)]) (ok : u.formOk = true) : Written w w1 i := by
  unfold okU at h
  split at h
  next hv =>
    obtain rfl := Except.ok.inj h
    exact one hM x ok he (packU_get hM hF hv)
  next => cases h

theorem ofI (hM : majorOf w = M) (h : (.ok u : Except Nat Instr) = .ok i) (x : isX M = false)
    (he : encode (guardOf w) u = [packI (guardOf w) M (getI w)]) (ok : u.formOk = true) : Written w w1 i := by
  obtain rfl := Except.ok.inj h
  exact one hM x ok he (packI_get hM)

theorem ofC (hM : majorOf w = M) (h : (.ok u : Except Nat Instr) = .ok i) (x : isX M = false)
    (he : encode (guardOf w) u = [packC (guardOf w) M (getC w)]) (ok : u.formOk = true) : Written w w1 i := by
  obtain rfl := Except.ok.inj h
  exact one hM x ok he (packC_get hM)

theorem ofJ (hM : majorOf w = M) (h : (.ok u : Except Nat Instr) = .ok i) (x : isX M = false)
    (he : encode (guardOf w) u = [packJ (guardOf w) M (getJ w)]) (ok : u.formOk = true) : Written w w1 i := by
  obtain rfl := Except.ok.inj h
  exact one hM x ok he (packJ_get hM)

/-- A U-format row without operands: all its other fields are zero. -/
theorem ofZ (hM : majorOf w = M) (hF : fnUOf w = F) (h : okZ w u = .ok i) (x : isX M = false)
    (he : encode (guardOf w) u = [packU (guardOf w) M F ⟨0, 0, 0⟩]) (ok : u.formOk = true) : Written w w1 i := by
  unfold okZ at h
  split at h
  next zero =>
    obtain rfl := Except.ok.inj h
    exact one hM x ok he (packU_zero hM hF zero.1 zero.2)
  next => cases h

end Written

section
variable {w w1 : Word} {i : Instr}

theorem fnOf_eq (w : Word) : fnOf w = (fld w 0 3).toNat := by simp [fnOf, fld]

theorem fnUOf_eq (w : Word) : fnUOf w = (fld w 3 6).toNat := by simp [fnUOf, fld]

/-- Table 12-10, by the formats of its majors. -/
theorem written_parseAlu (h : parseAlu w w1 = .ok i) : Written w w1 i := by
  unfold parseAlu at h
  split at h
  case h_1 | h_2 | h_14 | h_28 | h_29 =>
    split at h
    case h_3 => cases h
    all_goals exact .ofR ‹_› ‹_› h rfl rfl rfl
  case h_7 | h_10 | h_20 | h_32 =>
    split at h
    all_goals first | exact .ofU ‹_› ‹_› h rfl rfl rfl | cases h
  case h_8 | h_11 | h_15 | h_25 | h_38 =>
    split at h
    all_goals first | exact .ofX ‹_› ‹_› h rfl rfl (by simp) rfl | cases h
  case h_9 | h_24 => exact .ofI ‹_› h rfl rfl rfl
  case h_12 | h_13 | h_26 | h_31 | h_37 => exact .ofC ‹_› h rfl rfl rfl
  case h_16 => exact .ofG ‹_› (fnOf_eq w) h rfl rfl rfl
  case h_39 => cases h
  all_goals
    split at h
    all_goals first | exact .ofG ‹_› ‹_› h rfl rfl rfl | cases h

/-- Table 12-11; TYPE tells the two forms of MSHAPE apart. -/
theorem written_parseMat (h : parseMat w w1 = .ok i) : Written w w1 i := by
  unfold parseMat at h
  split at h
  case h_1 hM =>
    split at h
    · cases h
    next hF =>
      have hF : fnOf w = 0 := not_not.1 hF
      split at h
      next ty => exact .ofX hM hF h rfl rfl (by simp) (decide_eq_true ty)
      next ty => exact .ofX hM hF h rfl rfl (by simp) (decide_eq_true ty)
  case h_10 => cases h
  all_goals
    split at h
    all_goals first | exact .ofX ‹_› ‹_› h rfl rfl (by simp) rfl | cases h

/-- Table 12-12. -/
theorem written_parseMem (h : parseMem w w1 = .ok i) : Written w w1 i := by
  unfold parseMem at h
  split at h
  case h_12 => cases h
  all_goals
    split at h
    all_goals first | exact .ofX ‹_› ‹_› h rfl rfl (by simp) rfl | cases h

/-- Table 12-13. LEN bit 15 tells the two forms of CPYT apart, the number of TRAP its three, KIND the four of TLBINV. -/
theorem written_parseSys (h : parseSys w w1 = .ok i) : Written w w1 i := by
  unfold parseSys at h
  split at h
  case h_1 hM =>
    split at h
    case h_3 hF =>
      have short : fld w1 15 1 = 0 ↔ (getXAsy w1).len.toNat < 32768 := by rw [← fld_pack_len, pack_getXAsy]
      split at h
      next len => exact .ofX hM hF h rfl rfl (by simp) (decide_eq_true (short.1 len))
      next len => exact .ofX hM hF h rfl rfl (by simp) (decide_eq_true (Nat.le_of_not_lt fun lt => len (short.2 lt)))
    all_goals first | exact .ofX hM ‹_› h rfl rfl (by simp) rfl | cases h
  case h_2 | h_3 | h_5 | h_6 | h_7 =>
    split at h
    all_goals first | exact .ofX ‹_› ‹_› h rfl rfl (by simp) rfl | cases h
  case h_4 | h_13 | h_14 | h_15 | h_16 | h_21 | h_22 =>
    split at h
    all_goals first | exact .ofZ ‹_› ‹_› h rfl rfl rfl | cases h
  case h_8 | h_11 => exact .ofJ ‹_› h rfl rfl rfl
  case h_9 hM =>
    split at h
    next hF =>
      obtain rfl := Except.ok.inj h
      exact .two hM rfl rfl rfl (packB_get hM hF) rfl
    next => cases h
  case h_10 | h_17 =>
    split at h
    all_goals first | exact .ofG ‹_› ‹_› h rfl rfl rfl | cases h
  case h_12 =>
    split at h
    all_goals first | exact .ofU ‹_› ‹_› h rfl rfl rfl | cases h
  case h_18 | h_19 => exact .ofU ‹_› (fnUOf_eq w) h rfl rfl rfl
  case h_20 hM =>
    split at h
    next imm => exact .ofI hM h rfl rfl (decide_eq_true imm)
    next imm =>
      split at h
      next imm' => exact .ofI hM h rfl rfl (decide_eq_true imm')
      next imm' => exact .ofI hM h rfl rfl (decide_eq_true ⟨imm', imm⟩)
  case h_23 hM =>
    split at h
    · cases h
    next hF =>
      have hF : fnOf w = 0 := not_not.1 hF
      split at h
      case h_4 _ zero one two =>
        have rest : ∀ n < 4, n ≠ 0 → n ≠ 1 → n ≠ 2 → n = 3 := by omega
        have three := rest _ (fld w1 30 2).isLt zero one two
        exact .ofX hM hF h rfl rfl (pack_getXTlb three) rfl
      all_goals exact .ofX hM hF h rfl rfl (pack_getXTlb ‹_›) rfl
  case h_24 => cases h

/-- Table 17-5. -/
theorem written_parseOld (h : parseOld w w1 = .ok i) : Written w w1 i := by
  unfold parseOld at h
  split at h
  case h_1 =>
    split at h
    all_goals first | exact .ofR ‹_› ‹_› h rfl rfl rfl | cases h
  case h_2 =>
    split at h
    all_goals first | exact .ofG ‹_› ‹_› h rfl rfl rfl | cases h
  case h_3 =>
    split at h
    all_goals first | exact .ofX ‹_› ‹_› h rfl rfl (by simp) rfl | cases h
  case h_4 => cases h

theorem written_parse (h : parse w w1 = .ok i) : Written w w1 i := by
  unfold parse at h
  split at h
  · exact written_parseAlu h
  split at h
  · exact written_parseMat h
  split at h
  · exact written_parseMem h
  split at h
  · exact written_parseSys h
  · exact written_parseOld h

end

/-! ### Words that decode (R263, R275, R276) -/

theorem decodeWords_ok {w w1 : Word} {i : Instr} : decodeWords w w1 = .ok i ↔ parse w w1 = .ok i ∧ i.fieldsOk = true := by
  unfold decodeWords Instr.fieldsOk
  cases parse w w1 with
  | error d => simp
  | ok u =>
    dsimp only
    split
    next retired => grind
    next retired =>
      split
      next none => grind
      next d some => grind

theorem decodeWords_error {w w1 : Word} {d : Nat} (h : parse w w1 = .error d) : decodeWords w w1 = .error (.illegal d) := by
  rw [decodeWords, h]

theorem decodeWords_map_ok {w w1 : Word} {rest : List Word} {d : Decoded}
    (h : (decodeWords w w1).map (fun i => ({ guard := guardOf w, instr := i, rest := rest } : Decoded)) = .ok d) :
    parse w w1 = .ok d.instr ∧ d.instr.fieldsOk = true ∧ d.guard = guardOf w ∧ d.rest = rest := by
  cases e : decodeWords w w1 with
  | error =>
    rw [e] at h
    cases h
  | ok i =>
    rw [e] at h
    cases h
    obtain ⟨parsed, fields⟩ := decodeWords_ok.1 e
    exact ⟨parsed, fields, rfl, rfl⟩

/-- What decodes: the words of an instruction whose fields pass their checks, and what follows them. -/
theorem decode_ok {ws : List Word} {d : Decoded} (h : decode ws = .ok d) :
    ∃ w w1, parse w w1 = .ok d.instr ∧ d.instr.fieldsOk = true ∧ d.guard = guardOf w ∧ ws = wordsAt w w1 ++ d.rest ∧
      (isX (majorOf w) = false → w1 = 0) := by
  match ws, h with
  | w :: ws, h =>
    simp only [decode] at h
    split at h
    next long =>
      match ws, h with
      | w1 :: rest, h =>
        obtain ⟨parsed, fields, guard, rfl⟩ := decodeWords_map_ok h
        exact ⟨w, w1, parsed, fields, guard, by rw [wordsAt, if_pos long]; rfl, fun short => by simp [long] at short⟩
    next short =>
      obtain ⟨parsed, fields, guard, rfl⟩ := decodeWords_map_ok h
      exact ⟨w, 0, parsed, fields, guard, by rw [wordsAt, if_neg short]; rfl, fun _ => rfl⟩

/-- Settles O2: each format, packed from its own fields, is the word they were read from. -/
theorem encodeDecode : Obligations.EncodeDecode := by
  unfold Obligations.EncodeDecode
  intro ws d h
  obtain ⟨w, w1, parsed, fields, guard, rfl, -⟩ := decode_ok h
  obtain ⟨form, words⟩ := written_parse parsed
  exact ⟨by rw [Instr.wf, form, fields]; rfl, by rw [guard, words]⟩

end Sys2Proof
end

section
/-! PROOFS. The opcode map (12 R263 to R265, R275, Tables 12-10 to 12-14): what the encoder writes decodes, and what lies outside the map
does not. -/

namespace Sys2Proof

open Laws.Parses in
/-- The words of every instruction parse as it. -/
theorem parses (i : Instr) : Statement i :=
  match i with
  | .iadd o => iadd o
  | .isub o => isub o
  | .imul o => imul o
  | .imad o => imad o
  | .imulhI32 o => imulhI32 o
  | .imulhN32 o => imulhN32 o
  | .imulwI32 o => imulwI32 o
  | .imulwN32 o => imulwN32 o
  | .andV o => andV o
  | .orV o => orV o
  | .xorV o => xorV o
  | .andn o => andn o
  | .orn o => orn o
  | .xnor o => xnor o
  | .shl o => shl o
  | .shr o => shr o
  | .sar o => sar o
  | .rol o => rol o
  | .ror o => ror o
  | .shl64 o => shl64 o
  | .shr64 o => shr64 o
  | .sar64 o => sar64 o
  | .iminI32 o => iminI32 o
  | .imaxI32 o => imaxI32 o
  | .iminN32 o => iminN32 o
  | .imaxN32 o => imaxN32 o
  | .iabs o => iabs o
  | .ineg o => ineg o
  | .iaddsI32 o => iaddsI32 o
  | .iaddsN32 o => iaddsN32 o
  | .popc o => popc o
  | .clz o => clz o
  | .ctz o => ctz o
  | .brev o => brev o
  | .bswap o => bswap o
  | .notV o => notV o
  | .bfeI32 o x => bfeI32 o x
  | .bfeN32 o x => bfeN32 o x
  | .bfi o x => bfi o x
  | .iaddi o => iaddi o
  | .mov o => mov o
  | .movk o x => movk o x
  | .movkW o x => movkW o x
  | .icmpI32 o => icmpI32 o
  | .icmpN32 o => icmpN32 o
  | .iadd64 o => iadd64 o
  | .isub64 o => isub64 o
  | .sel o x => sel o x
  | .lea o sh => lea o sh
  | .pand o => pand o
  | .por o => por o
  | .pxor o => pxor o
  | .pandn o => pandn o
  | .pmov o => pmov o
  | .pnot o => pnot o
  | .psetv o => psetv o
  | .pgetv o => pgetv o
  | .voteAny o => voteAny o
  | .voteAll o => voteAll o
  | .voteBallot o => voteBallot o
  | .voteCount o => voteCount o
  | .cableAt o => cableAt o
  | .cableBack o => cableBack o
  | .cableFwd o => cableFwd o
  | .cableFlip o => cableFlip o
  | .qswph o => qswph o
  | .qswpv o => qswpv o
  | .qswpd o => qswpd o
  | .qbc0 o => qbc0 o
  | .qbc1 o => qbc1 o
  | .qbc2 o => qbc2 o
  | .qbc3 o => qbc3 o
  | .foldAddI32 o => foldAddI32 o
  | .foldMinI32 o => foldMinI32 o
  | .foldMaxI32 o => foldMaxI32 o
  | .foldAnd o => foldAnd o
  | .foldOr o => foldOr o
  | .foldXor o => foldXor o
  | .foldFadd o => foldFadd o
  | .nzs o => nzs o
  | .sadd o => sadd o
  | .ssub o => ssub o
  | .smul o => smul o
  | .sand o => sand o
  | .sor o => sor o
  | .sxor o => sxor o
  | .sshl o => sshl o
  | .sshr o => sshr o
  | .saddi o => saddi o
  | .smovk o x => smovk o x
  | .smovkW o x => smovkW o x
  | .scmp o => scmp o
  | .vbc o => vbc o
  | .sfirst o => sfirst o
  | .slane o => slane o
  | .fadd o => fadd o
  | .fsub o => fsub o
  | .fmul o => fmul o
  | .ffma o => ffma o
  | .fmin o => fmin o
  | .fmax o => fmax o
  | .fminp o => fminp o
  | .fmaxp o => fmaxp o
  | .fabs o => fabs o
  | .fneg o => fneg o
  | .fcopys o => fcopys o
  | .fcmp o => fcmp o
  | .rcp o => rcp o
  | .rsq o => rsq o
  | .exp2 o => exp2 o
  | .log2 o => log2 o
  | .sinr o => sinr o
  | .cosr o => cosr o
  | .tanh o => tanh o
  | .floor o => floor o
  | .ceil o => ceil o
  | .trunc o => trunc o
  | .rint o => rint o
  | .fract o => fract o
  | .fdiv o => fdiv o
  | .fsqrt o => fsqrt o
  | .hadd2 o => hadd2 o
  | .hsub2 o => hsub2 o
  | .hmul2 o => hmul2 o
  | .hfma2 o => hfma2 o
  | .hmin2 o => hmin2 o
  | .hmax2 o => hmax2 o
  | .badd2 o => badd2 o
  | .bsub2 o => bsub2 o
  | .bmul2 o => bmul2 o
  | .bfma2 o => bfma2 o
  | .bmin2 o => bmin2 o
  | .bmax2 o => bmax2 o
  | .dadd o => dadd o
  | .dsub o => dsub o
  | .dmul o => dmul o
  | .dfma o => dfma o
  | .dmin o => dmin o
  | .dmax o => dmax o
  | .ddiv o => ddiv o
  | .dsqrt o => dsqrt o
  | .dcmp o => dcmp o
  | .cvt o x => cvt o x
  | .mshapeImm o x => mshapeImm o x
  | .mshapeLane o x => mshapeLane o x
  | .mld o x => mld o x
  | .mldT o x => mldT o x
  | .mst o x => mst o x
  | .mstT o x => mstT o x
  | .mldw o x => mldw o x
  | .mmul o x => mmul o x
  | .mma o x => mma o x
  | .mmat o x => mmat o x
  | .mmab o x => mmab o x
  | .madd o x => madd o x
  | .msub o x => msub o x
  | .mhad o x => mhad o x
  | .mscal o x => mscal o x
  | .mexp2 o x => mexp2 o x
  | .mmax o x => mmax o x
  | .mzero o x => mzero o x
  | .mcvt o x => mcvt o x
  | .mtrn o x => mtrn o x
  | .mmov o x => mmov o x
  | .mget o x => mget o x
  | .mput o x => mput o x
  | .mred o x => mred o x
  | .mshget o x => mshget o x
  | .minv o x => minv o x
  | .mlu o x => mlu o x
  | .mchol o x => mchol o x
  | .msolvl o x => msolvl o x
  | .msolvu o x => msolvu o x
  | .mpow o x => mpow o x
  | .mdet o x => mdet o x
  | .topkIns o x => topkIns o x
  | .topkGet o x => topkGet o x
  | .topkClr o x => topkClr o x
  | .ldG o x => ldG o x
  | .ldL o x => ldL o x
  | .ldP o x => ldP o x
  | .ldC o x => ldC o x
  | .stG o x => stG o x
  | .stL o x => stL o x
  | .stP o x => stP o x
  | .stGw o x => stGw o x
  | .atom o x => atom o x
  | .red o x => red o x
  | .atomL o x => atomL o x
  | .redL o x => redL o x
  | .ldf o x => ldf o x
  | .stf o x => stf o x
  | .fence o x => fence o x
  | .pfence o x => pfence o x
  | .wback o x => wback o x
  | .smp o x => smp o x
  | .ldt o x => ldt o x
  | .binit o x => binit o x
  | .barv o x => barv o x
  | .bexp o x => bexp o x
  | .bwait o x => bwait o x
  | .btest o x => btest o x
  | .barvx o x => barvx o x
  | .mark o x => mark o x
  | .unmark o x => unmark o x
  | .frog o x => frog o x
  | .frogq o x => frogq o x
  | .pref o x => pref o x
  | .cpyGl o x => cpyGl o x
  | .cpyLg o x => cpyLg o x
  | .cpyt o x => cpyt o x
  | .cpytG o x => cpytG o x
  | .cpym o x => cpym o x
  | .cpyg o x => cpyg o x
  | .cdrain o x => cdrain o x
  | .qapp o x => qapp o x
  | .launch o x => launch o x
  | .rapp o x => rapp o x
  | .wmadv o x => wmadv o x
  | .sclose o x => sclose o x
  | .wpub o x => wpub o x
  | .wpubAmend o x => wpubAmend o x
  | .bra o => bra o
  | .brd o => brd o
  | .brx o => brx o
  | .callx o => callx o
  | .call o => call o
  | .ret o => ret o
  | .rgive o => rgive o
  | .rclaim o => rclaim o
  | .srd o ix => srd o ix
  | .swr o ix => swr o ix
  | .trap o => trap o
  | .trapReturn o => trapReturn o
  | .trapTerminate o => trapTerminate o
  | .tlbinvAll o x => tlbinvAll o x
  | .tlbinvAsid o x => tlbinvAsid o x
  | .tlbinvPage o x => tlbinvPage o x
  | .tlbinvGpage o x => tlbinvGpage o x
  | .imad24I24 o => imad24I24 o
  | .imad24N24 o => imad24N24 o
  | .dot4i8I8 o => dot4i8I8 o
  | .dot4i8N8 o => dot4i8N8 o
  | .ldro o x => ldro o x
  | .succ => succ
  | .predw => predw
  | .exit => exit
  | .endTeam => endTeam
  | .nop => nop
  | .yield => yield
  | .bkpt => bkpt
  | .eret => eret
  | .clauseStart => clauseStart
  | .flagRelease => flagRelease
  | .joinArrival => joinArrival
  | .teamSwap => teamSwap
  | .forcedSwap => forcedSwap
  | .leaveGrant => leaveGrant
  | .droopStep => droopStep
  | .watchdogExpiry => watchdogExpiry
  | .trapDelivery => trapDelivery
  | .retiredOpcodeEmulation => retiredOpcodeEmulation
  | .groupPreemption => groupPreemption
  | .groupResumption => groupResumption
  | .priorityPreemption => priorityPreemption
  | .groupDispatch => groupDispatch
  | .gridCompletion => gridCompletion
  | .predecessorArrival => predecessorArrival
  | .queuePoll => queuePoll
  | .packetLaunch => packetLaunch
  | .packetCopy => packetCopy
  | .packetSignal => packetSignal
  | .packetWaitseq => packetWaitseq
  | .waitseqPoll => waitseqPoll
  | .packetWmadv => packetWmadv
  | .packetRecords => packetRecords
  | .packetCompletion => packetCompletion
  | .asyncCompletion => asyncCompletion
  | .copySectorLand => copySectorLand
  | .creelSlotGrant => creelSlotGrant
  | .drainSlotReady => drainSlotReady
  | .queueAppendRoom => queueAppendRoom
  | .homeSliceRead => homeSliceRead
  | .homeSliceWrite => homeSliceWrite
  | .futureCellRead => futureCellRead
  | .deferralExpiry => deferralExpiry
  | .ownershipRequest => ownershipRequest
  | .farAtomic => farAtomic
  | .contendedExpiry => contendedExpiry
  | .rdcInvalidation => rdcInvalidation
  | .rdcFill => rdcFill
  | .softError => softError
  | .patrolScrub => patrolScrub
  | .sweep => sweep
  | .frogInterval => frogInterval
  | .resweepPass => resweepPass
  | .recordPlacement => recordPlacement
  | .stageRecompute => stageRecompute
  | .windowTransit => windowTransit
  | .amendmentLaunch => amendmentLaunch
  | .lateTimerExpiry => lateTimerExpiry
  | .windowFree => windowFree
  | .sourceIdleScan => sourceIdleScan
  | .watermarkPropagation => watermarkPropagation
  | .transportDescriptor => transportDescriptor
  | .frameQueueAppend => frameQueueAppend
  | .frameRemoteWrite => frameRemoteWrite
  | .frameRemoteAtomic => frameRemoteAtomic
  | .frameWatermark => frameWatermark
  | .frameAck => frameAck
  | .frameNack => frameNack
  | .transportAckTimeout => transportAckTimeout
  | .ctxopCreate => ctxopCreate
  | .ctxopReloadScope => ctxopReloadScope
  | .ctxopReloadQueues => ctxopReloadQueues
  | .ctxopReloadStream => ctxopReloadStream
  | .ctxopKill => ctxopKill
  | .killComplete => killComplete
  | .ctxopResume => ctxopResume
  | .ctxopDeliver => ctxopDeliver
  | .ctxopTerminate => ctxopTerminate
  | .ctxopSetTransportRing => ctxopSetTransportRing
  | .ctxopInvalidate => ctxopInvalidate
  | .ctxopUndefined => ctxopUndefined
  | .ntfbaseWrite => ntfbaseWrite
  | .ntftailWrite => ntftailWrite
  | .pwrcapWrite => pwrcapWrite
  | .hwslWrite => hwslWrite
  | .registerWrite => registerWrite
  | .hostWindowRead => hostWindowRead
  | .hostWindowWrite => hostWindowWrite
  | .hostWindowAtomic => hostWindowAtomic
  | .configRequest => configRequest
  | .powerGood => powerGood
  | .mctpControlMessage => mctpControlMessage
  | .readTemperatures => readTemperatures
  | .readPower => readPower
  | .readSoftErrorCounts => readSoftErrorCounts
  | .readIdent => readIdent
  | .faultReport => faultReport
  | .attestationRequest => attestationRequest
  | .illegalInstruction => illegalInstruction
  | .pcieCompletionFromHost => pcieCompletionFromHost

/-- Whether an instruction has words does not depend on its guard. -/
theorem encode_ne_nil {i : Instr} (h : i.hasWords = true) (g : Guard) : encode g i ≠ [] := by
  cases i
  all_goals first | exact List.cons_ne_nil _ _ | cases h

/-- Settles O1: the words of the instruction parse as it; as many as its major has are there, so that what follows is left. -/
theorem decodeEncode : Obligations.DecodeEncode := by
  unfold Obligations.DecodeEncode
  intro g i rest wf words
  obtain ⟨form, fields⟩ := Bool.and_eq_true_iff.1 wf
  have statement := parses i g
  have some := encode_ne_nil words g
  generalize encode g i = ws at statement some
  cases ws with
  | nil => exact absurd rfl some
  | cons w ws =>
    obtain ⟨parsed, guard, length⟩ := statement form
    split at length
    next long =>
      obtain ⟨w1, rfl⟩ := List.length_eq_one_iff.1 length
      have decoded : decodeWords w w1 = .ok i := decodeWords_ok.2 ⟨parsed, fields⟩
      simp [decode, long, decoded, guard, Except.map]
    next short =>
      obtain rfl := List.length_eq_zero_iff.1 length
      have decoded : decodeWords w 0#32 = .ok i := decodeWords_ok.2 ⟨parsed, fields⟩
      simp [decode, short, decoded, guard, Except.map]

/-! ### Outside the map (R275) -/

section
variable {w : Word} (w1 : Word)

theorem majorOf_lt (w : Word) : majorOf w < 128 := by
  have := w.isLt
  unfold majorOf
  omega

/-- A major that no table lists (Tables 12-10 to 12-13, 17-5). -/
theorem parse_unlisted_major (h : majorOf w = 0 ∨ 0x1C ≤ majorOf w ∧ majorOf w ≤ 0x1F ∨ 0x2B ≤ majorOf w ∧ majorOf w ≤ 0x2F ∨
      0x39 ≤ majorOf w ∧ majorOf w ≤ 0x3F ∨ 0x4B ≤ majorOf w ∧ majorOf w ≤ 0x4F ∨ 0x57 ≤ majorOf w ∧ majorOf w ≤ 0x5F ∨
      0x6A ≤ majorOf w ∧ majorOf w ≤ 0x6F ∨ 0x76 ≤ majorOf w ∧ majorOf w ≤ 0x7B ∨ majorOf w = 0x7F) : parse w w1 = .error 0 := by
  have bound := majorOf_lt w
  unfold parse
  split
  · unfold parseAlu
    split
    case h_39 => rfl
    all_goals omega
  split
  · unfold parseMat
    split
    case h_10 => rfl
    all_goals omega
  split
  · unfold parseMem
    split
    case h_12 => rfl
    all_goals omega
  split
  · unfold parseSys
    split
    case h_24 => rfl
    all_goals omega
  · unfold parseOld
    split
    case h_4 => rfl
    all_goals omega

/-- An FN that no row of its major lists, for the majors of formats G and X. -/
theorem parse_unlisted_fn : ∀ e ∈ [(0x03, 4), (0x04, 6), (0x08, 3), (0x0B, 2), (0x0F, 1), (0x12, 4), (0x13, 4), (0x15, 7), (0x16, 1),
      (0x19, 2), (0x1B, 3), (0x22, 7), (0x25, 2), (0x26, 6), (0x27, 6), (0x2A, 1), (0x30, 1), (0x31, 2), (0x32, 2), (0x33, 1), (0x34, 4),
      (0x36, 6), (0x37, 7), (0x38, 3), (0x40, 4), (0x41, 4), (0x42, 4), (0x43, 1), (0x44, 1), (0x45, 3), (0x46, 1), (0x47, 1), (0x48, 6),
      (0x49, 4), (0x4A, 1), (0x50, 6), (0x51, 1), (0x52, 1), (0x54, 1), (0x55, 2), (0x56, 2), (0x61, 1), (0x62, 2), (0x69, 2), (0x75, 1),
      (0x7D, 2), (0x7E, 1)], majorOf w = e.1 → e.2 ≤ fnOf w → parse w w1 = .error 1 := by
  intro e he
  fin_cases he
  all_goals
    intro hM hF
    dsimp only at hM hF
    simp only [parse, hM, Nat.reduceLT, ↓reduceIte, parseAlu, parseMat, parseMem, parseSys, parseOld]
    split
    all_goals first | rfl | omega

/-- An FN that no row of its major lists, for the majors of format U. -/
theorem parse_unlisted_fnU : ∀ e ∈ [(0x07, 6), (0x0A, 1), (0x14, 7), (0x24, 13), (0x53, 2), (0x64, 1), (0x65, 1), (0x66, 1), (0x67, 1),
      (0x68, 1), (0x73, 1), (0x74, 1)], majorOf w = e.1 → e.2 ≤ fnUOf w → parse w w1 = .error 1 := by
  intro e he
  fin_cases he
  all_goals
    intro hM hF
    dsimp only at hM hF
    simp only [parse, hM, Nat.reduceLT, ↓reduceIte, parseAlu, parseSys]
    split
    all_goals first | rfl | omega

/-- The one gap among the functions of Table 13-15. -/
theorem parse_fn_gap (hM : majorOf w = 0x24) (hF : fnUOf w = 7) : parse w w1 = .error 1 := by
  simp only [parse, hM, hF, Nat.reduceLT, ↓reduceIte, parseAlu]

/-- Table 17-5's rows. -/
theorem parse_imad24 (hM : majorOf w = 0x7C) : parse w w1 = .ok (if vOf w = 0 then .imad24I24 (getR w) else .imad24N24 (getR w)) := by
  simp only [parse, hM, Nat.reduceLT, ↓reduceIte, parseOld]
  rcases Nat.lt_succ_iff_lt_or_eq.1 (show vOf w < 2 from Nat.mod_lt _ (by decide)) with zero | one
  · rw [Nat.lt_one_iff.1 zero]
    rfl
  · rw [one]
    rfl

theorem parse_dot4i8 (hM : majorOf w = 0x7D) (hF : fnOf w < 2) :
    parse w w1 = .ok (if fnOf w = 0 then .dot4i8I8 (getG w) else .dot4i8N8 (getG w)) := by
  simp only [parse, hM, Nat.reduceLT, ↓reduceIte, parseOld]
  rcases Nat.lt_succ_iff_lt_or_eq.1 hF with zero | one
  · rw [Nat.lt_one_iff.1 zero]
    rfl
  · rw [one]
    rfl

theorem parse_ldro (hM : majorOf w = 0x7E) (hF : fnOf w = 0) : parse w w1 = .ok (.ldro (getG w) (getXMem w1)) := by
  simp only [parse, hM, hF, Nat.reduceLT, ↓reduceIte, parseOld]

theorem fieldsOk_of_retired {i : Instr} (h : i.isRetired = true) : i.fieldsOk = true := by rw [Instr.fieldsOk, h, Bool.true_or]

end

/-- Settles O3, from the rows of each major. -/
theorem outsideTheMap : Obligations.OutsideTheMap := by
  unfold Obligations.OutsideTheMap
  intro w w1
  refine ⟨fun h => decodeWords_error (parse_unlisted_major w1 h), fun e he hM hF => decodeWords_error (parse_unlisted_fn w1 e he hM hF),
    fun e he hM hF => decodeWords_error (parse_unlisted_fnU w1 e he hM hF), fun hM hF => decodeWords_error (parse_fn_gap w1 hM hF),
    fun hM => ⟨_, decodeWords_ok.2 ⟨parse_imad24 w1 hM, fieldsOk_of_retired ?_⟩⟩,
    fun hM hF => ⟨_, decodeWords_ok.2 ⟨parse_dot4i8 w1 hM hF, fieldsOk_of_retired ?_⟩⟩,
    fun hM hF => ⟨_, _, decodeWords_ok.2 ⟨parse_ldro w1 hM hF, fieldsOk_of_retired rfl⟩⟩⟩
  · split <;> rfl
  · split <;> rfl

end Sys2Proof
end

section
/-! PROOFS. The step of a path whose next words decode (12 R257, R277). -/

namespace Sys2Proof

/-! ### One-word majors read no second word (R263) -/

section
variable {w : Word} (short : isX (majorOf w) = false) (w1 w2 : Word)
include short

theorem parseAlu_short : parseAlu w w1 = parseAlu w w2 := by
  unfold parseAlu
  split
  case h_8 hM | h_11 hM | h_15 hM | h_25 hM | h_38 hM => simp [hM, isX] at short
  all_goals rfl

theorem parseMat_short : parseMat w w1 = parseMat w w2 := by
  unfold parseMat
  split
  case h_10 => rfl
  all_goals simp [‹majorOf w = _›, isX] at short

theorem parseMem_short : parseMem w w1 = parseMem w w2 := by
  unfold parseMem
  split
  case h_12 => rfl
  all_goals simp [‹majorOf w = _›, isX] at short

theorem parseSys_short : parseSys w w1 = parseSys w w2 := by
  unfold parseSys
  split
  case h_1 hM | h_2 hM | h_3 hM | h_5 hM | h_6 hM | h_7 hM | h_9 hM | h_23 hM => simp [hM, isX] at short
  all_goals rfl

theorem parseOld_short : parseOld w w1 = parseOld w w2 := by
  unfold parseOld
  split
  case h_3 hM => simp [hM, isX] at short
  all_goals rfl

theorem parse_short : parse w w1 = parse w w2 := by
  unfold parse
  rw [parseAlu_short short w1 w2, parseMat_short short w1 w2, parseMem_short short w1 w2, parseSys_short short w1 w2,
    parseOld_short short w1 w2]

end

end Sys2Proof

namespace Sys2Proof.Machine

/-- Where the next words of a clause decode, its next instruction is what they decode to, with its guard. -/
theorem Clause.parse_of_decode {k : Clause} {d : Decoded} (h : decode (k.words.drop k.pos) = .ok d) :
    parse k.word0 k.word1 = .ok d.instr ∧ guardOf k.word0 = d.guard := by
  obtain ⟨w, w1, parsed, -, guard, words, -⟩ := decode_ok h
  have word (n : Nat) : k.words[k.pos + n]? = (wordsAt w w1 ++ d.rest)[n]? := by rw [← words, List.getElem?_drop]
  have first : k.word0 = w := by
    have at0 := word 0
    rw [Nat.add_zero] at at0
    rw [Clause.word0, at0, wordsAt]
    split <;> rfl
  rw [first]
  refine ⟨?_, guard.symm⟩
  cases long : isX (majorOf w) with
  | false => rwa [parse_short long k.word1 w1]
  | true => rwa [Clause.word1, word 1, wordsAt, if_pos long]

/-- A path that may run and whose next words decode executes what they decode to (R257, R277). -/
theorem State.runPath_decoded {u : State} {c : Cur} {k : Clause} {d : Decoded} (hk : c.p.clause = some k)
    (hd : decode (k.words.drop k.pos) = .ok d) (go : (u.enter c).mustWait c d.guard d.instr = false) :
    u.runPath c = exec d.instr { (u.enter c).flushFor c.r (flushOf d.instr) with guard := d.guard } := by
  obtain ⟨parsed, guard⟩ := Clause.parse_of_decode hd
  unfold State.runPath
  simp only [hk, parsed, guard, go, Bool.false_eq_true, ↓reduceIte]

theorem State.runTurn_path {u : State} {r : Sys2Proof.Ref} {c : Cur} (h : u.at r = some c) (may : u.mayRun c = true) :
    u.runTurn r = u.runPath c := by
  simp only [State.runTurn, h, may, ↓reduceIte]

theorem State.runAny_path {u : State} {c : Cur} (swap : u.anySwap = none) (pick : u.pick = some c) : u.runAny = u.runPath c := by
  simp only [State.runAny, swap, pick]

theorem step_path {s : State} {r : Sys2Proof.Ref} {rest : List Turn} (turn : s.turns = .path r :: rest) :
    step s = ({ s.before with turns := rest } : State).runTurn r := by rw [step, turn]

theorem step_lanes {s : State} {r : Sys2Proof.Ref} {m : LaneSet} {rest : List Turn} (turn : s.turns = .lanes r m :: rest) :
    step s = ({ s.before with turns := rest, mode := .lanes m } : State).runTurn r := by rw [step, turn]

theorem State.at_turns (s : State) (ts : List Turn) (r : Sys2Proof.Ref) : ({ s with turns := ts } : State).at r = s.at r := rfl

theorem State.at_turns_mode (s : State) (ts : List Turn) (m : Mode) (r : Sys2Proof.Ref) :
    ({ s with turns := ts, mode := m } : State).at r = s.at r := rfl

theorem step_any {s : State} (turn : s.turns = []) : step s = s.before.runAny := by rw [step, turn]

/-- Settles O5: each of the three turns gives the path's own turn, which runs the decoded instruction. -/
theorem stepRunsDecoded : Obligations.StepRunsDecoded := by
  unfold Obligations.StepRunsDecoded
  intro s c k d hk hd runs
  refine ⟨fun r rest turn place may go => ?_, fun r m rest turn place may go => ?_, fun turn swap pick may go => ?_⟩
  · rw [step_path turn, State.runTurn_path ((State.at_turns ..).trans place) may]
    exact State.runPath_decoded hk hd go
  · rw [step_lanes turn, State.runTurn_path ((State.at_turns_mode ..).trans place) may]
    exact State.runPath_decoded hk hd go
  · exact (step_any turn).trans ((State.runAny_path swap pick).trans (State.runPath_decoded hk hd go))

end Sys2Proof.Machine
end

section
/-! PROOFS. No step is a fault or a refusal (12 R275, R277, 17 R375): a step of a unit always has a next state, an instruction has one
wherever a path is current, and the path whose turn it is stays there while accesses that it has issued are performed. -/

namespace Sys2Proof.Machine

/-! ### The path slots of groups, while accesses are performed (R79) -/

/-- The paths of a group, by ROLE and slot. -/
def Group.slots (g : Group) (role slot : Nat) : Bool := ((tget g.teams role).bind fun t => tget t.paths slot).isSome

theorem State.at_isSome (s : State) (r : Ref) : (s.at r).isSome = ((tget s.groups r.gid).map Group.slots).any fun f => f r.role r.slot := by
  unfold State.at Group.slots
  cases tget s.groups r.gid with
  | none => rfl
  | some g => cases ht : tget g.teams r.role with
    | none => simp [ht]
    | some t => cases hp : tget t.paths r.slot with
      | none => simp [ht, hp]
      | some p => simp [ht, hp]

/-- Every group has the paths that it had. -/
structure State.KeepsSlots (s t : State) : Prop where
  alike : State.Alike Group.slots s t

namespace State.KeepsSlots

variable {s t u : State}

theorem refl (s : State) : s.KeepsSlots s := ⟨fun _ => rfl⟩

theorem trans (h : s.KeepsSlots t) (k : t.KeepsSlots u) : s.KeepsSlots u := ⟨h.alike.trans k.alike⟩

theorem ite {c : Prop} [Decidable c] (h : s.KeepsSlots t) (k : s.KeepsSlots u) : s.KeepsSlots (if c then t else u) := by
  split
  · exact h
  · exact k

theorem ite_fst {β : Type} {p q : State × β} {c : Prop} [Decidable c] (h : s.KeepsSlots p.1) (k : s.KeepsSlots q.1) :
    s.KeepsSlots (if c then p else q).1 := by
  split
  · exact h
  · exact k

theorem foldl {α : Type} {f : State → α → State} (h : ∀ (u : State) a, u.KeepsSlots (f u a)) (l : List α) (s : State) :
    s.KeepsSlots (l.foldl f s) := by
  induction l generalizing s with
  | nil => exact refl s
  | cons a l ih => exact (h s a).trans (ih (f s a))

theorem of_groups (h : t.groups = s.groups) : s.KeepsSlots t := ⟨.of_groups h⟩

/-- An access, beside what it answers. -/
theorem of_access (h : s.KeepsGroups t) : s.KeepsSlots t := by
  refine ⟨h.alike.coarser (fun v role slot => ((v.2 role).bind fun t => t.2 slot).isSome) fun g => funext₂ fun role slot => ?_⟩
  simp only [Group.slots, Group.view]
  cases tget g.teams role with
  | none => rfl
  | some t => exact (Option.isSome_map ..).symm

theorem modTeam (s : State) (gid role : Nat) {f : Team → Team}
    (hf : ∀ (t : Team) slot, (tget (f t).paths slot).isSome = (tget t.paths slot).isSome) : s.KeepsSlots (s.modTeam gid role f) := by
  refine ⟨s.alike_modGroup gid fun g => funext₂ fun k slot => ?_⟩
  unfold Group.slots Group.modTeam
  rw [tget_tmod]
  split
  next e =>
    rw [e]
    cases tget g.teams role with
    | none => rfl
    | some t => exact hf t slot
  next => rfl

theorem modPath (s : State) (r : Ref) (f : Path → Path) : s.KeepsSlots (s.modPath r f) := by
  refine .modTeam s _ _ fun t slot => ?_
  dsimp only
  rw [tget_tmod]
  split
  next e => rw [e, Option.isSome_map]
  next => rfl

theorem spadPut (s : State) (gid off : Nat) (bs : List Byte) : s.KeepsSlots (s.spadPut gid off bs) :=
  ⟨s.alike_modGroup gid fun _ => rfl⟩

theorem path {r : Ref} {c : Cur} (h : s.KeepsSlots t) (hc : s.at r = some c) : ∃ d, t.at r = some d := by
  refine Option.isSome_iff_exists.1 ?_
  rw [t.at_isSome, h.alike, ← s.at_isSome, hc, Option.isSome_some]

end State.KeepsSlots

section
variable (s : State)

theorem State.slots_landOuts (r : Ref) (clause : Nat) (outs : List (Nat × LaneOut)) : s.KeepsSlots (s.landOuts r clause outs) := by
  have many {α : Type} (w : List α) (f : α → Pending) (u : State) :
      u.KeepsSlots (w.foldl (fun s a => s.land r.gid r.role clause (f a)) u) := .foldl (fun u a => .of_access (u.groups_land ..)) w u
  have each {α : Type} {f : State → α → State} (h : ∀ (u : State) a, u.KeepsSlots (f u a)) (l : List α) (u : State) :
      u.KeepsSlots (l.foldl f u) := .foldl h l u
  exact ((each (fun u a => many ..) _ s).trans (each (fun u a => many ..) _ _)).trans (each (fun u a => many ..) _ _)

theorem State.slots_markDone (r : Ref) (k : Nat) (bits : LaneSet) : s.KeepsSlots (s.markDone r k bits) := .modTeam s _ _ fun _ _ => rfl

theorem State.slots_freeDone (r : Ref) (k : Nat) : s.KeepsSlots (s.freeDone r k) :=
  (State.KeepsSlots.modTeam s _ _ (f := fun t => { t with done := tdel t.done k }) fun _ _ => rfl).trans (.modPath ..)

theorem State.slots_rmwPiece (core : Nat) (r : Ref) (clause : Nat) (q : AtomReq) (p : Piece) :
    s.KeepsSlots (s.rmwPiece core r clause q p).1 := by
  have acknowledged (o : RmwOut) (ho : s.KeepsSlots o.s) (b b' : Prop) [Decidable b] [Decidable b'] (w w' : Pending) : s.KeepsSlots
      (let t := if b then o.s else o.s.land r.gid r.role clause w
       if b' then t else t.land r.gid r.role clause w') := by
    have first : s.KeepsSlots (if b then o.s else o.s.land r.gid r.role clause w) := .ite ho (ho.trans (.of_access (State.groups_land ..)))
    exact .ite first (first.trans (.of_access (State.groups_land ..)))
  cases p with
  | mem va pa n a => exact acknowledged _ (.of_access (s.answers_rmwGlobal ..).toKeepsGroups) _ _ _ _
  | spad va gid off n => exact acknowledged (s.rmwSpad gid off q) (.spadPut ..) _ _ _ _
  | pad | given => exact .refl s

theorem State.slots_readBy (core asid : Nat) (path : Option PathKind) (past : Bool) (p : Piece) :
    s.KeepsSlots (s.readBy core asid path past p).1 := by
  match path, p with
  | none, .mem va pa n a => exact .ite_fst (.of_access (s.answers_l1LoadAcq ..).toKeepsGroups) (.of_access (s.answers_l1Load ..).toKeepsGroups)
  | some k, .mem va pa n a => exact .of_access (s.answers_pathRead ..).toKeepsGroups
  | none, .spad .. | none, .pad _ | none, .given _ | some _, .spad .. | some _, .pad _ | some _, .given _ => exact .refl s

theorem State.slots_doPiece (asid core : Nat) (r : Ref) (clause : Nat) (h : How) (a : LaneArg) (off : Nat) (p : Piece) :
    s.KeepsSlots (s.doPiece asid core r clause h a off p).1 := by
  unfold State.doPiece
  split
  case h_1 => exact s.slots_readBy ..
  case h_2 =>
    cases p with
    | mem va pa n a => exact .of_access (s.answers_storeOf ..).toKeepsGroups
    | spad va at_ off n => exact .spadPut ..
    | pad | given => exact .refl s
  case h_3 => exact s.slots_rmwPiece ..
  case h_4 => exact .refl s

theorem State.slots_latePiece (e : Issue) (l : LaneAcc) (off : Nat) (p : Piece) : s.KeepsSlots (s.latePiece e l off p).1 := by
  unfold State.latePiece
  split
  · exact .ite_fst (.refl s) (s.slots_doPiece ..)
  · exact s.slots_doPiece ..

theorem State.slots_doPieces (e : Issue) (l : LaneAcc) (skip n off : Nat) (ps : List Piece) :
    s.KeepsSlots (s.doPieces e l skip n off ps).1 := by
  induction ps generalizing s skip n off with
  | nil => exact .refl s
  | cons p ps ih =>
    unfold State.doPieces
    exact .ite_fst (ih ..) (.ite_fst (.refl s) (.ite_fst ((s.slots_latePiece e l off p).trans (ih ..)) (ih ..)))

theorem State.slots_finishIssue (e : Issue) : s.KeepsSlots (s.finishIssue e) := by
  have ended (l : List Issue) : s.KeepsSlots { s with issues := l } := .of_groups rfl
  have marked (t : State) (bits : LaneSet) : t.KeepsSlots (match e.done with
      | none => t
      | some k => if e.ends then t.freeDone e.path k else t.markDone e.path k bits) := by
    split
    · exact .refl t
    · exact .ite (t.slots_freeDone ..) (t.slots_markDone ..)
  have acquired (t : State) : t.KeepsSlots (match e.acq with
      | some rank => if e.ends then t.acquire e.core rank else t
      | none => t) := by
    split
    · exact .ite (.of_access (t.answers_acquire ..).toKeepsGroups) (.refl t)
    · exact .refl t
  unfold State.finishIssue
  dsimp only
  split
  · exact ended _
  split
  · exact ended _
  exact ((((ended _).trans (State.slots_landOuts ..)).trans (marked ..)).trans (acquired _)).trans (.of_access (State.groups_opDone ..))

theorem State.slots_settleLane (id lane : Nat) : s.KeepsSlots (s.settleLane id lane) := by
  unfold State.settleLane
  split
  · exact .refl s
  split
  · exact .refl s
  next e _ _ l _ =>
    have marked : s.KeepsSlots (match e.done with
        | some k => if l.over && ¬ e.how.reads then s.markDone e.path k (laneSet [lane]) else s
        | none => s) := by
      split
      · exact .ite (s.slots_markDone ..) (.refl s)
      · exact .refl s
    exact .ite (marked.trans (State.slots_finishIssue ..)) marked

theorem State.slots_doEvent (id lane i : Nat) : s.KeepsSlots (s.doEvent id lane i) := by
  have put (t : State) (f : Issue → Issue) : t.KeepsSlots (t.modIssue id f) := .of_groups rfl
  unfold State.doEvent
  split
  · exact .refl s
  split
  · exact .refl s
  · exact ((s.slots_doPieces ..).trans (put ..)).trans (State.slots_settleLane ..)

/-- Accesses issued before leave every path where it is. -/
theorem State.slots_flush (sel : Issue → Bool) : s.KeepsSlots (s.flush sel) := by
  have done (u : State) (e : Issue) : u.KeepsSlots (u.doIssue e) :=
    .foldl (fun v (l : LaneAcc) => .foldl (fun w i => w.slots_doEvent e.id l.lane i) _ v) _ u
  exact .ite (.refl s) (.foldl done _ s)

theorem State.slots_flushFor (r : Ref) (k : Flush) : s.KeepsSlots (s.flushFor r k) := by
  cases k with
  | none => exact .refl s
  | reads | all => exact s.slots_flush _

theorem State.flushFor_cur (r : Ref) (k : Flush) : (s.flushFor r k).cur = s.cur := by
  cases k with
  | none => rfl
  | reads | all => exact (s.keeps_flush _).cur

/-! ### The path that acts is current -/

theorem State.look_isSome_of_at {r : Ref} {c : Cur} (hr : s.cur = some r) (hc : s.at r = some c) : s.look = some c := by
  simp only [State.look, hr, hc]

/-- The state in which a path is the current one, its team in the active set, and no issue is noted yet (R173). -/
def State.atHand (s : State) (c : Cur) : State :=
  { (s.align c.g.core).activate c.g.core { gid := c.r.gid, role := c.r.role } with cur := some c.r }

/-- The note of an issue in a path (R173, R175): no slot's wait but the other one's goes on. -/
def Cur.notedIn (c : Cur) (k : Nat) (p : Path) : Path :=
  if k = c.r.slot then { p with since := none, missed := 0 }
  else if p.since.isSome then { p with missed := p.missed + c.passes } else p

theorem State.enter_eq (c : Cur) : s.enter c = if c.p.clause.isNone then s.atHand c else
    (s.atHand c).modTeam c.r.gid c.r.role fun t =>
      { t with issued := ((s.atHand c).clock c.g.core).cyc.toNat, paths := tmap t.paths c.notedIn } := rfl

theorem State.enter_cur (c : Cur) : (s.enter c).cur = some c.r := by
  rw [State.enter_eq]
  split <;> rfl

theorem State.slots_enter (c : Cur) : s.KeepsSlots (s.enter c) := by
  have placed : s.KeepsSlots (s.atHand c) := .of_groups rfl
  rw [State.enter_eq]
  exact .ite placed (placed.trans (.modTeam _ _ _ fun u slot => by simp [tget_tmap]))

end


/-! ### Every meaning answers (12 R275, R277) -/

section
variable {s : State} {c : Cur} (h : s.look = some c)
include h

theorem State.issueWith_goes (i : Instr) (more : Cur → List Nat) (k : Cur → State) : ∃ t, s.issueWith i more k = .next t := by
  unfold State.issueWith
  rw [h]
  dsimp only
  split <;> exact ⟨_, rfl⟩

theorem State.issue_goes (i : Instr) (k : Cur → State) : ∃ t, s.issue i k = .next t := State.issueWith_goes h i _ k

theorem State.retired_goes : ∃ t, s.retired = .next t := by
  unfold State.retired
  rw [h]
  exact ⟨_, rfl⟩

end

theorem exec_goes_of_unit {i : Instr} (h : isUnitStep i = true) (s : State) : ∃ t, exec i s = .next t := by
  cases i
  case flagRelease | teamSwap | forcedSwap | leaveGrant | droopStep | watchdogExpiry | trapDelivery | retiredOpcodeEmulation |
    groupPreemption | groupResumption | priorityPreemption | gridCompletion | predecessorArrival | queuePoll | packetLaunch |
    packetCopy | packetSignal | packetWaitseq | waitseqPoll | packetWmadv | packetRecords | packetCompletion | asyncCompletion |
    copySectorLand | creelSlotGrant | drainSlotReady | queueAppendRoom | homeSliceRead | homeSliceWrite | futureCellRead |
    ownershipRequest | farAtomic | contendedExpiry | rdcInvalidation | rdcFill | softError | patrolScrub | sweep | frogInterval |
    resweepPass | recordPlacement | stageRecompute | windowTransit | amendmentLaunch | lateTimerExpiry | windowFree | sourceIdleScan |
    watermarkPropagation | transportDescriptor | frameQueueAppend | frameRemoteWrite | frameRemoteAtomic | frameWatermark | frameAck |
    frameNack | transportAckTimeout | ctxopCreate | ctxopReloadScope | ctxopReloadQueues | ctxopReloadStream | ctxopKill |
    killComplete | ctxopResume | ctxopDeliver | ctxopTerminate | ctxopSetTransportRing | ctxopInvalidate | ctxopUndefined |
    ntfbaseWrite | ntftailWrite | pwrcapWrite | hwslWrite | registerWrite | hostWindowRead | hostWindowWrite | hostWindowAtomic |
    configRequest | powerGood | mctpControlMessage | faultReport | attestationRequest | pcieCompletionFromHost =>
    delta exec
    dsimp only
    delta execFlagRelease execTeamSwap execForcedSwap execLeaveGrant execDroopStep execWatchdogExpiry execTrapDelivery
      execRetiredOpcodeEmulation execGroupPreemption execGroupResumption execPriorityPreemption execGridCompletion
      execPredecessorArrival execQueuePoll execPacketLaunch execPacketCopy execPacketSignal execPacketWaitseq execWaitseqPoll
      execPacketWmadv execPacketRecords execPacketCompletion execAsyncCompletion execCopySectorLand execCreelSlotGrant
      execDrainSlotReady execQueueAppendRoom execHomeSliceRead execHomeSliceWrite execFutureCellRead execOwnershipRequest
      execFarAtomic execContendedExpiry execRdcInvalidation execRdcFill execSoftError execPatrolScrub execSweep execFrogInterval
      execResweepPass execRecordPlacement execStageRecompute execWindowTransit execAmendmentLaunch execLateTimerExpiry execWindowFree
      execSourceIdleScan execWatermarkPropagation execTransportDescriptor execFrameQueueAppend execFrameRemoteWrite
      execFrameRemoteAtomic execFrameWatermark execFrameAck execFrameNack execTransportAckTimeout execCtxopCreate execCtxopReloadScope
      execCtxopReloadQueues execCtxopReloadStream execCtxopKill execKillComplete execCtxopResume execCtxopDeliver execCtxopTerminate
      execCtxopSetTransportRing execCtxopInvalidate execCtxopUndefined execNtfbaseWrite execNtftailWrite execPwrcapWrite execHwslWrite
      execRegisterWrite execHostWindowRead execHostWindowWrite execHostWindowAtomic execConfigRequest execPowerGood
      execMctpControlMessage execFaultReport execAttestationRequest execPcieCompletionFromHost
    split <;> exact ⟨_, rfl⟩
  case groupDispatch | deferralExpiry | readTemperatures | readPower | readSoftErrorCounts | readIdent => exact ⟨_, rfl⟩
  all_goals cases h

/-- What a path does goes on where a path is current. -/
theorem exec_goes_of_path {s : State} {c : Cur} (h : s.look = some c) {i : Instr} (hi : isUnitStep i = false) :
    ∃ t, exec i s = .next t := by
  delta exec
  cases i
  all_goals dsimp only
  case clauseStart | joinArrival | illegalInstruction =>
    delta execClauseStart execJoinArrival execIllegalInstruction
    rw [h]
    exact ⟨_, rfl⟩
  case imad24I24 | imad24N24 | dot4i8I8 | dot4i8N8 | ldro => exact State.retired_goes h
  case rgive | rclaim | eret | wpub | wpubAmend => exact State.issueWith_goes h ..
  all_goals first | exact State.issue_goes h .. | cases hi

theorem exec_goes_of_look {s : State} {c : Cur} (h : s.look = some c) (i : Instr) : ∃ t, exec i s = .next t := by
  cases hi : isUnitStep i with
  | true => exact exec_goes_of_unit hi s
  | false => exact exec_goes_of_path h hi

/-! ### Every turn goes on -/

/-- What a path does goes on, where it is current and accesses performed since then have left it in its place. -/
theorem exec_goes_of_kept {s t : State} {r : Ref} {c : Cur} (hr : t.cur = some r) (hc : s.at r = some c) (kept : s.KeepsSlots t)
    (i : Instr) : ∃ u, exec i t = .next u := by
  obtain ⟨d, hd⟩ := kept.path hc
  exact exec_goes_of_look (t.look_isSome_of_at hr hd) i

theorem State.runPath_goes {s : State} {c : Cur} (hc : s.at c.r = some c) : ∃ t, s.runPath c = .next t := by
  have cur := s.enter_cur c
  have entered := s.slots_enter c
  unfold State.runPath
  generalize s.enter c = u at cur entered
  dsimp only
  split
  · split
    · exact exec_goes_of_kept (t := u.modPath c.r _) cur hc (entered.trans (.modPath ..)) _
    · exact exec_goes_of_kept cur hc entered _
  · split
    · exact exec_goes_of_kept cur hc entered _
    · split
      · exact ⟨_, rfl⟩
      · refine exec_goes_of_kept (s := s) ?_ hc ?_ _
        · exact (u.flushFor_cur ..).trans cur
        · exact (entered.trans (u.slots_flushFor ..)).trans (.of_groups rfl)

theorem State.runTurn_goes (s : State) (r : Ref) : ∃ t, s.runTurn r = .next t := by
  unfold State.runTurn
  split
  · exact ⟨_, rfl⟩
  next c hc =>
    split
    · obtain rfl := (State.at_some.1 hc).1
      exact State.runPath_goes hc
    · exact ⟨_, rfl⟩

theorem State.pick_at {s : State} {c : Cur} (h : s.pick = some c) : s.at c.r = some c := by
  obtain ⟨r, -, hr⟩ := List.exists_of_findSome?_eq_some h
  split at hr
  · cases hr
  next d hd =>
    obtain ⟨-, e⟩ := Option.ite_none_right_eq_some.1 hr
    obtain rfl := Option.some.inj e
    obtain rfl := (State.at_some.1 hd).1
    exact hd

theorem State.swapDue_unit {s : State} {core : Nat} {i : Instr} {p : TRef × TRef} (h : s.swapDue core = some (i, p)) :
    isUnitStep i = true := by
  unfold State.swapDue at h
  split_ifs at h
  split at h
  · cases h
  split at h
  · cases h
    rfl
  split at h
  · obtain ⟨-, e⟩ := Option.ite_none_right_eq_some.1 h
    cases e
    rfl
  · cases h

theorem State.anySwap_unit {s : State} {core : Nat} {i : Instr} {p : TRef × TRef} (h : s.anySwap = some (core, i, p)) :
    isUnitStep i = true := by
  obtain ⟨n, -, hn⟩ := List.exists_of_findSome?_eq_some h
  obtain ⟨k, hk, e⟩ := Option.map_eq_some_iff.1 hn
  cases e
  exact State.swapDue_unit hk

theorem State.runAny_goes (s : State) : ∃ t, s.runAny = .next t := by
  unfold State.runAny
  split
  next swap => exact exec_goes_of_unit (State.anySwap_unit swap) _
  split
  next pick => exact State.runPath_goes (State.pick_at pick)
  split
  · exact exec_goes_of_unit rfl _
  · split <;> exact ⟨_, rfl⟩

theorem State.attempt_goes {i : Instr} (h : isUnitStep i = true) (s : State) (x : Input) : ∃ t, s.attempt i x = .next t := by
  obtain ⟨t, ht⟩ := exec_goes_of_unit h { s with input := x, asker := some (i, x), wanted := [] }
  unfold State.attempt
  rw [ht]
  dsimp only
  split <;> exact ⟨_, rfl⟩

theorem State.runEvent_goes (s : State) (i : Instr) (x : Input) : ∃ t, s.runEvent i x = .next t := by
  unfold State.runEvent
  split
  next h => exact State.attempt_goes h.1 s x
  · exact ⟨_, rfl⟩

/-- Settles O9: each of the five turns goes on, whatever time has changed before it. -/
theorem everyStepGoesOn : Obligations.EveryStepGoesOn := by
  unfold Obligations.EveryStepGoesOn goesOn
  intro s
  unfold step
  generalize s.before = u
  split
  · exact u.runAny_goes
  · exact State.runTurn_goes ..
  · exact State.runTurn_goes ..
  · exact ⟨_, rfl⟩
  · exact State.runEvent_goes ..

end Sys2Proof.Machine
end

section
/-! PROOFS. SRD and SWR over the special registers (12 R278, Table 12-17, 07 R170). -/

namespace Sys2Proof.Machine

/-! ### DONEn, lane by lane -/

/-- One lane's bit written. -/
def writeLane (b : Nat → Bool) (m : LaneSet) (l : Nat) : LaneSet :=
  if b l then m ||| (1#1024 <<< l) else m &&& ~~~ (1#1024 <<< l)

theorem getLsbD_writeLane (b : Nat → Bool) (m : LaneSet) (k : Nat) {l : Nat} (hl : l < 1024) :
    (writeLane b m k).getLsbD l = if l = k then b l else m.getLsbD l := by
  have here : (1#1024 <<< k).getLsbD l = decide (l = k) := by
    rw [BitVec.getLsbD_shiftLeft, BitVec.getLsbD_one]
    simp only [hl, decide_true, Bool.true_and]
    by_cases e : l = k
    · simp [e]
    · simp only [e, decide_false, Bool.and_eq_false_iff, Bool.not_eq_false', decide_eq_true_eq, decide_eq_false_iff_not]
      omega
  unfold writeLane
  rw [apply_ite (BitVec.getLsbD · l), BitVec.getLsbD_or, BitVec.getLsbD_and, BitVec.getLsbD_not, here]
  by_cases e : l = k
  · subst e
    cases b l <;> simp
  · simp [hl, e]

/-- The bits of some lanes written, one after the other. -/
theorem getLsbD_foldl_writeLane (b : Nat → Bool) (act : List Nat) (m : LaneSet) {l : Nat} (hl : l < 1024) :
    (act.foldl (writeLane b) m).getLsbD l = if l ∈ act then b l else m.getLsbD l := by
  induction act generalizing m with
  | nil => rfl
  | cons k act ih =>
    rw [List.foldl_cons, ih, getLsbD_writeLane b m k hl]
    simp only [List.mem_cons]
    split
    next h => rw [if_pos (.inr h)]
    next h => simp only [h, or_false]

/-! ### What SRD and SWR change -/

section
variable {s : State} {c : Cur} (h : s.look = some c)
include h

/-- Active lanes and the path change, and the path goes on. -/
theorem effect_modPath_mapLanes (f : Nat → Lane → Lane) (fp : Path → Path) (hc : (fp c.p).clause = c.p.clause) : Effect s c f id fp
    (((s.modPath c.r fp).modTeam c.r.gid c.r.role fun t => t.mapLanes (c.act s.guard) f).advance c.r) := by
  obtain ⟨-, -, -, path⟩ := State.at_some.1 (State.look_at h)
  rw [State.modPath, State.modTeam_modTeam]
  refine effect_modTeam h _ rfl (fun l => ?_) (fun k hk => ?_) ?_ rfl hc
  · exact (tget_map c.t.lanes (fun k x => if (c.act s.guard).contains k then f k x else x) l).trans (by simp)
  · simp only [Team.mapLanes, tget_tmod, hk, if_false]
  · simp only [Team.mapLanes, tget_tmod_self, path, Option.map_some]

/-- The path alone changes, and goes on. -/
theorem effect_modPath (fp : Path → Path) (hc : (fp c.p).clause = c.p.clause) :
    Effect s c (fun _ r => r) id fp ((s.modPath c.r fp).advance c.r) := by
  obtain ⟨-, -, -, path⟩ := State.at_some.1 (State.look_at h)
  refine effect_modTeam h _ rfl (fun l => by simp) (fun k hk => ?_) ?_ rfl hc
  · simp only [tget_tmod, hk, if_false]
  · simp only [tget_tmod_self, path, Option.map_some]

/-- Registers of the team change, and the path goes on. -/
theorem effect_teamRegs (ft : Team → Team) (lanes : (ft c.t).lanes = c.t.lanes) (paths : (ft c.t).paths = c.t.paths)
    (outst : (ft c.t).outst = c.t.outst) :
    Effect s c (fun _ r => r) ft id ((s.modTeam c.r.gid c.r.role ft).advance c.r) := by
  obtain ⟨-, -, -, path⟩ := State.at_some.1 (State.look_at h)
  exact effect_modTeam h ft rfl (fun l => by simp [lanes]) (fun k _ => by rw [paths]) (by rw [paths, path, id_eq]) outst rfl

end

/-- SRD (R278, R170): the lanes get the register's value, the path the latch that the read sets. -/
theorem srd_effect {s : State} {c : Cur} {o : OpU} {ix : BitVec 6} (h : Issues s (.srd o ix) c) :
    ∃ t, exec (.srd o ix) s = .next t ∧
      Effect s c (fun l r => r.setV o.d.toNat (word (s.special c ix.toNat l))) id
        (if ix = 12 then fun p => { p with cycLatch := some (word ((s.clock c.g.core).cyc.toNat / 2 ^ 32)) }
         else if ix = 14 then fun p => { p with etLatch := some (word (s.etimeOn c.g.core / 2 ^ 32)) } else id) t := by
  refine ⟨_, issue_of h _, ?_⟩
  have at12 : ix.toNat = 12 ↔ ix = 12 := by bv_omega
  have at14 : ix.toNat = 14 ↔ ix = 14 := by bv_omega
  simp only [State.latch, at12, at14]
  split
  · exact effect_modPath_mapLanes h.1 _ _ rfl
  split
  · exact effect_modPath_mapLanes h.1 _ _ rfl
  · exact effect_lanewise h.1 _

/-- SWR of an index below 32 (R278), by the lowest worker lane. -/
theorem exec_swr_worker {s : State} {c : Cur} {o : OpU} {ix : BitVec 6} {l : Nat} {rest : List Nat} (h : Issues s (.swr o ix) c)
    (low : ix.toNat < 32) (worker : c.workers s.guard = l :: rest) :
    let a := (c.t.lane l).getV o.a.toNat
    let team (f : Team → Team) : State := s.modTeam c.r.gid c.r.role f
    exec (.swr o ix) s = .next (State.advance (
      if ix.toNat = 20 then team fun t => { t with fpc := a &&& 0x7E7#32 }
      else if ix.toNat = 21 then team fun t => { t with fsr := a &&& 0x1F#32 }
      else if ix.toNat = 22 then team fun t => { t with mxstat := a &&& 0x8007FFFF#32 }
      else if ix.toNat = 23 then s.modPath c.r fun p => { p with futstat := a &&& 3#32 }
      else s.modCtx c.g.asid fun x => { x with atomsat := a.setWidth 2 }) c.r) := by
  refine (issue_of h _).trans ?_
  dsimp only
  rw [if_neg (Nat.not_le.2 low)]
  unfold Cur.workers at worker
  rw [worker]
  rfl

/-- SWR of DONEn (R278), lane by lane. -/
theorem exec_swr_done {s : State} {c : Cur} {o : OpU} {ix : BitVec 6} (h : Issues s (.swr o ix) c) (high : 32 ≤ ix.toNat) :
    let old := (tget c.t.done (ix.toNat - 32)).getD (false, 0)
    let new := (c.act s.guard).foldl (writeLane fun l => ((c.t.lane l).getV o.a.toNat).getLsbD 0) old.2
    exec (.swr o ix) s = .next ((s.modTeam c.r.gid c.r.role fun t =>
      { t with done := tset t.done (ix.toNat - 32) (old.1, new) }).advance c.r) := by
  refine (issue_of h _).trans ?_
  dsimp only
  rw [if_pos high]
  rfl

/-- Settles O35: the read by its latch; the write by index, of the lowest worker's value or lane by lane. -/
theorem specialRegisters : Obligations.SpecialRegisters := by
  unfold Obligations.SpecialRegisters
  refine ⟨fun s c o ix => srd_effect, fun s c o ix l rest h worker => ?_, fun s c o ix h high => ?_, fun s c l => ?_⟩
  · have wrote := exec_swr_worker (l := l) (rest := rest) h
    refine ⟨?_, ?_, ?_, ?_, ?_⟩ <;> rintro rfl
    · exact ⟨_, wrote (by decide) worker, effect_teamRegs h.1 _ rfl rfl rfl⟩
    · exact ⟨_, wrote (by decide) worker, effect_teamRegs h.1 _ rfl rfl rfl⟩
    · exact ⟨_, wrote (by decide) worker, effect_teamRegs h.1 _ rfl rfl rfl⟩
    · exact ⟨_, wrote (by decide) worker, effect_modPath h.1 _ rfl⟩
    · exact wrote (by decide) worker
  · exact ⟨_, _, exec_swr_done h high, effect_teamRegs h.1 _ rfl rfl rfl, fun l hl => getLsbD_foldl_writeLane _ _ _ hl⟩
  · refine ⟨rfl, rfl, rfl, rfl, rfl, rfl, rfl, rfl, ?_⟩
    simp only [State.special, Team.helper, decide_eq_true_eq]

end Sys2Proof.Machine
end

section
/-! PROOFS. The retired forms and the illegal words (12 R277, 17 R382, R383, Table 17-5). -/

namespace Sys2Proof.Machine

/-! ### The arithmetic of the retired forms (Table 17-5) -/

theorem low24_signed (a : Word) : low24 true a = (a.extractLsb' 0 24).toInt := by
  simp only [low24, BitVec.toInt_eq_toNat_cond, BitVec.extractLsb'_toNat, Nat.shiftRight_zero, true_and]
  split_ifs <;> omega

theorem low24_unsigned (a : Word) : low24 false a = (a.extractLsb' 0 24).toNat := by
  simp [low24, BitVec.extractLsb'_toNat]

theorem byteOf_signed (a : Word) (k : Nat) : byteOf true a k = (a.extractLsb' (8 * k) 8).toInt := by
  simp only [byteOf, BitVec.toInt_eq_toNat_cond, BitVec.extractLsb'_toNat, Nat.shiftRight_eq_div_pow, true_and]
  generalize a.toNat / 2 ^ (8 * k) = n
  split_ifs <;> omega

theorem byteOf_unsigned (a : Word) (k : Nat) : byteOf false a k = (a.extractLsb' (8 * k) 8).toNat := by
  simp [byteOf, BitVec.extractLsb'_toNat, Nat.shiftRight_eq_div_pow]

theorem ofInt_add_toNat (n : Int) (d : Word) : BitVec.ofInt 32 (n + d.toNat) = BitVec.ofInt 32 n + d := by
  rw [BitVec.ofInt_add, BitVec.ofInt_natCast, BitVec.ofNat_toNat, BitVec.setWidth_eq]

theorem imad24_signed (a b d : Word) :
    imad24 true a b d = BitVec.ofInt 32 ((a.extractLsb' 0 24).toInt * (b.extractLsb' 0 24).toInt) + d := by
  rw [imad24, ofInt_add_toNat, low24_signed, low24_signed]

theorem imad24_unsigned (a b d : Word) :
    imad24 false a b d = BitVec.ofNat 32 ((a.extractLsb' 0 24).toNat * (b.extractLsb' 0 24).toNat) + d := by
  rw [imad24, ofInt_add_toNat, low24_unsigned, low24_unsigned, ← Nat.cast_mul, BitVec.ofInt_natCast]

theorem dot4_signed (a b d : Word) : dot4 true a b d = BitVec.ofInt 32
    ((List.range 4).map fun k => (a.extractLsb' (8 * k) 8).toInt * (b.extractLsb' (8 * k) 8).toInt).sum + d := by
  simp only [dot4, ofInt_add_toNat, byteOf_signed]

theorem dot4_unsigned (a b d : Word) : dot4 false a b d = BitVec.ofNat 32
    ((List.range 4).map fun k => (a.extractLsb' (8 * k) 8).toNat * (b.extractLsb' (8 * k) 8).toNat).sum + d := by
  simp only [dot4, ofInt_add_toNat, byteOf_unsigned, ← BitVec.ofInt_natCast, Nat.cast_list_sum, List.map_map, Function.comp_def,
    Nat.cast_mul]

/-! ### LDRO, lane by lane (R383) -/

/-- The checks of LDRO in the active lanes. -/
def State.ldroChecks (s : State) (c : Cur) (k : Ctx) (o : OpG) (x : XMem) : State × List (Nat × Checked) :=
  s.checkLanes (c.act s.guard) fun s l => s.checkG c k (gAddr c o x.ub x.off.toInt l) (2 ^ x.sz.toNat) .read

/-- The lanes of LDRO that failed, helper lanes left out. -/
def State.ldroBad (s : State) (c : Cur) (k : Ctx) (o : OpG) (x : XMem) : List (Nat × LaneFault) :=
  (failed (s.ldroChecks c k o x).2).filter fun e => ! c.t.helper e.1

/-- The lanes of LDRO that would read a poisoned byte. -/
def State.ldroSpoilt (s : State) (c : Cur) (k : Ctx) (o : OpG) (x : XMem) : List (Nat × List Piece) :=
  (Machine.passed (s.ldroChecks c k o x).2).filter fun e => e.2.any fun p => (s.ldroChecks c k o x).1.poisonPiece c.g.core false p

/-- LDRO performed in the lanes that passed, whose pieces are at hand; the failing helper lanes read 0; the path goes on. -/
def State.ldroLoaded (s : State) (c : Cur) (tr : Trap) (k : Ctx) (o : OpG) (x : XMem) (ls : List (Nat × List Piece)) : State :=
  let r := s.ldroChecks c k o x
  let p := (r.1.hostAll c (Machine.passed r.2)).1.perform ls fun s _ ps =>
    let q := s.readAll ps fun s p => s.readPiece c.g.core false p
    (q.1, LaneOut.regs (loadRegs o.d.toNat (x.sx = 1) q.2))
  let zeros := (failed r.2).map fun e => (e.1, LaneOut.regs (loadRegs o.d.toNat false (List.replicate (2 ^ x.sz.toNat) 0)))
  (p.1.landOuts c.r c.p.clauseId (p.2 ++ zeros)).resumeTrap c.r tr c.p.pc c.p.clause true

section
variable {s : State} {c : Cur} {tr : Trap} {k : Ctx} {o : OpG} {x : XMem}

/-- LDRO by its four outcomes. -/
theorem State.emulateLdro_eq : s.emulateLdro c tr k o x =
    let r := s.ldroChecks c k o x
    let h := r.1.hostAll c (Machine.passed r.2)
    if ¬ (s.ldroBad c k o x).isEmpty then r.1.emulationFault c fun t => t.laneTrap c.r (s.ldroBad c k o x)
    else if ¬ (s.ldroSpoilt c k o x).isEmpty then r.1.emulationFault c fun t => t.laneTrap c.r (spoiltLanes (s.ldroSpoilt c k o x))
    else h.2.elim h.1 (s.ldroLoaded c tr k o x) := by
  have same (l : List (Nat × LaneFault)) : (l.filter fun e => ¬ c.t.helper e.1) = l.filter fun e => ! c.t.helper e.1 := by
    simp only [decide_not, Bool.decide_eq_true]
  unfold State.emulateLdro
  dsimp only
  rw [same]
  refine ite_congr rfl (fun _ => rfl) fun _ => ite_congr rfl (fun _ => rfl) fun _ => ?_
  split
  next none => exact (congrArg (Option.elim · (hostAll ..).1 (s.ldroLoaded c tr k o x)) none).symm
  next ls some => exact (congrArg (Option.elim · (hostAll ..).1 (s.ldroLoaded c tr k o x)) some).symm

/-- The lowest lane that fails is delivered, with the lanes that fail by its cause. -/
theorem State.emulateLdro_fails {l : Nat} {e : LaneFault} {rest : List (Nat × LaneFault)} (bad : s.ldroBad c k o x = (l, e) :: rest) :
    s.emulateLdro c tr k o x = ((s.ldroChecks c k o x).1.modTeam c.r.gid c.r.role fun t => { t with trap := none }).takeTrap c.r
      e.cause e.detail e.addr (laneSet ((((l, e) :: rest).filter fun b => b.2.cause = e.cause).map Prod.fst)) false := by
  rw [State.emulateLdro_eq, bad]
  rfl

/-- Where no lane fails or reads poison, LDRO waits for the host, or loads. -/
theorem State.emulateLdro_loads (bad : s.ldroBad c k o x = []) (spoilt : s.ldroSpoilt c k o x = []) :
    s.emulateLdro c tr k o x = ((s.ldroChecks c k o x).1.hostAll c (Machine.passed (s.ldroChecks c k o x).2)).2.elim
      ((s.ldroChecks c k o x).1.hostAll c (Machine.passed (s.ldroChecks c k o x).2)).1 (s.ldroLoaded c tr k o x) := by
  rw [State.emulateLdro_eq, bad, spoilt]
  rfl

end

/-! ### What firmware does (R383) -/

/-- A form of Table 17-5 performed in the active lanes. -/
def State.emulatedForm (s : State) (c : Cur) (tr : Trap) (x : Ctx) (i : Instr) : State :=
  let three (o : Nat × Nat × Nat) (f : Word → Word → Word → Word) : State :=
    s.emulated c tr fun l => l.setV o.1 (f (l.getV o.2.1) (l.getV o.2.2) (l.getV o.1))
  match i with
  | .imad24I24 o => three (o.d.toNat, o.a.toNat, o.b.toNat) (imad24 true)
  | .imad24N24 o => three (o.d.toNat, o.a.toNat, o.b.toNat) (imad24 false)
  | .dot4i8I8 o => three (o.d.toNat, o.a.toNat, o.b.toNat) (dot4 true)
  | .dot4i8N8 o => three (o.d.toNat, o.a.toNat, o.b.toNat) (dot4 false)
  | .ldro o m => s.emulateLdro c tr x o m
  | _ => s

/-- The state in which firmware acts: the guard is that of the word it has been given. -/
def State.emulating (s : State) (tr : Trap) : State := { s with guard := guardOf (tr.iwords.extractLsb' 0 32) }

/-- Firmware delivers an illegal instruction in place of the retired-opcode fault. -/
def State.emulationIllegal (s : State) (c : Cur) (d : Nat) : State :=
  (s.modTeam c.r.gid c.r.role fun t => { t with trap := none }).takeTrap c.r 1 d 0 0 false

/-- What firmware does, by what the words that it has been given decode to. -/
def State.firmware (u : State) (c : Cur) (tr : Trap) (x : Ctx) : Except Nat Instr → State
  | .error d => u.emulationIllegal c d
  | .ok i => (u.illegal i c []).elim (u.emulatedForm c tr x i) (u.emulationIllegal c)

theorem State.firmware_illegal {u : State} {c : Cur} {tr : Trap} {x : Ctx} {i : Instr} {d : Nat} (illegal : u.illegal i c [] = some d) :
    u.firmware c tr x (.ok i) = u.emulationIllegal c d := by
  rw [State.firmware, illegal]
  rfl

theorem State.firmware_form {u : State} {c : Cur} {tr : Trap} {x : Ctx} {i : Instr} (legal : u.illegal i c [] = none) :
    u.firmware c tr x (.ok i) = u.emulatedForm c tr x i := by
  rw [State.firmware, legal]
  rfl

theorem exec_emulation {s : State} {t : TRef} {tr : Trap} {c : Cur} {x : Ctx} (input : s.input = .team t) (trap : c.t.trap = some tr)
    (path : s.at { gid := t.gid, role := t.role, slot := tr.slot } = some c) (ctx : tget s.ctxs c.g.asid = some x)
    (waits : tr.phase = .firmware) (place : c.g.place = .resident) : exec .retiredOpcodeEmulation s = .next
      ((s.emulating tr).firmware c tr x (parse (tr.iwords.extractLsb' 0 32) (tr.iwords.extractLsb' 32 32))) := by
  obtain ⟨-, group, team, -⟩ := State.at_some.1 path
  dsimp only at group team
  show execRetiredOpcodeEmulation s = _
  unfold execRetiredOpcodeEmulation
  split
  case h_2 no => exact absurd input (no t)
  next t' input' =>
  obtain rfl := Input.team.inj (input.symm.trans input')
  simp only [group, team, trap, path, ctx, waits, place, ne_eq, not_true_eq_false, or_self, if_false]
  cases parse (tr.iwords.extractLsb' 0 32) (tr.iwords.extractLsb' 32 32) with
  | error d => rfl
  | ok i =>
    unfold State.firmware State.emulating
    dsimp only
    cases State.illegal _ i c [] with
    | some d => rfl
    | none => cases i <;> rfl

theorem exec_illegalInstruction {s : State} {c : Cur} {k : Clause} {d : Nat} (h : s.look = some c) (hk : c.p.clause = some k)
    (bad : parse k.word0 k.word1 = .error d) : exec .illegalInstruction s = .next (
      if 0x7C ≤ majorOf k.word0 ∧ majorOf k.word0 ≤ 0x7E then s.takeTrap c.r 3 0 0 0 false else s.takeTrap c.r 1 d 0 0 false) := by
  show execIllegalInstruction s = _
  simp only [execIllegalInstruction, h, hk, bad]

theorem State.retired_of_look {s : State} {c : Cur} (h : s.look = some c) : s.retired = .next (s.takeTrap c.r 3 0 0 0 false) := by
  unfold State.retired
  rw [h]

/-- Settles O38: what an instruction of a retired major does, what a word outside the map does, and what firmware does, by the word. -/
theorem retiredAndIllegal : Obligations.RetiredAndIllegal := by
  unfold Obligations.RetiredAndIllegal
  refine ⟨fun s c h => ?_, fun s c k d => exec_illegalInstruction, fun s t tr c x input trap path ctx waits place => ?_⟩
  · have retired := State.retired_of_look h
    exact ⟨fun _ => ⟨retired, retired⟩, fun _ => ⟨retired, retired⟩, fun _ _ => retired⟩
  · intro u illegal
    have run := exec_emulation input trap path ctx waits place
    refine ⟨fun d bad => ?_, fun i good => ⟨fun d no => ?_, fun legal => ?_⟩⟩
    · exact run.trans (congrArg (fun p => Host.Outcome.next (u.firmware c tr x p)) bad)
    · exact run.trans (congrArg Host.Outcome.next ((congrArg (u.firmware c tr x) good).trans (State.firmware_illegal no)))
    · replace run : exec .retiredOpcodeEmulation s = .next (u.emulatedForm c tr x i) :=
        run.trans (congrArg Host.Outcome.next ((congrArg (u.firmware c tr x) good).trans (State.firmware_form legal)))
      refine ⟨?_, ?_, ?_, ?_, ?_⟩
      · rintro o rfl
        simp only [← imad24_signed]
        exact run
      · rintro o rfl
        simp only [← imad24_unsigned]
        exact run
      · rintro o rfl
        simp only [← dot4_signed]
        exact run
      · rintro o rfl
        simp only [← dot4_unsigned]
        exact run
      · rintro o m rfl n r spoilt v
        refine ⟨fun l e rest bad => run.trans (congrArg _ (State.emulateLdro_fails bad)), fun bad clean => ?_⟩
        have loads : u.emulateLdro c tr x o m = _ := State.emulateLdro_loads bad clean
        refine ⟨fun none => ?_, fun ls some => ?_⟩
        · exact run.trans (congrArg _ (loads.trans (congrArg (Option.elim · _ _) none)))
        · exact run.trans (congrArg _ (loads.trans (congrArg (Option.elim · _ _) some)))

end Sys2Proof.Machine
end

section
/-! PROOFS. How clauses start, release their flags and arrive at joins (12 R259 to R261, 06 R151, R152). -/

namespace Sys2Proof.Machine

/-! ### A clause starts (R259) -/

section
variable (s : State)

theorem State.slots_askRead (r : Ref) (clause lane : Nat) (k : Nat × Nat) : s.KeepsSlots (s.askRead r clause lane k) := by
  unfold State.askRead
  exact .ite (.refl s) (.of_groups rfl)

theorem State.slots_hostFetch (r : Ref) (clause lane pa n : Nat) : s.KeepsSlots (s.hostFetch r clause lane pa n).1 :=
  .ite_fst (.refl s) (.foldl (fun u k => u.slots_askRead r clause lane k) _ s)

/-- A fetch leaves every path where it is. -/
theorem State.slots_fetchWord (c : Cur) (x : Ctx) (va : Nat) : s.KeepsSlots (s.fetchWord c x va).1 := by
  have translated : s.KeepsSlots (s.translate c.g.core c.g.asid x va .fetch).1 := .of_access (s.answers_translate ..).toKeepsGroups
  unfold State.fetchWord
  refine .ite_fst (.refl s) (.ite_fst (.refl s) ?_)
  dsimp only
  split
  · exact translated
  · exact .ite_fst (translated.trans (State.slots_hostFetch ..))
      (.ite_fst translated (translated.trans (.of_access (State.answers_pathRead ..).toKeepsGroups)))

theorem State.slots_fetchClause (c : Cur) (x : Ctx) (n va : Nat) (acc : List Word) : s.KeepsSlots (s.fetchClause c x n va acc).1 := by
  induction n generalizing s va acc with
  | zero => exact .refl s
  | succ n ih =>
    have first := s.slots_fetchWord c x va
    unfold State.fetchClause
    dsimp only
    split
    · exact first
    · split
      · have second := first.trans (State.slots_fetchWord _ c x (va + 4))
        split
        · exact second
        · exact second.trans (ih ..)
      · exact first.trans (ih ..)

end

/-- A clause that starts stands in its path, and its flags are counted. -/
theorem State.startClause_at {v : State} {c b : Cur} (hb : v.at c.r = some b) (w : Word) (ws : List Word) :
    ∃ d, (v.startClause c w ws).at c.r = some d ∧
      d.p.clause = some { addr := c.p.pc, hdr := w, words := ws, pos := 0, left := hdrCount w, id := v.fresh } ∧
      { clause := v.fresh, seta := hdrSeta w, setb := hdrSetb w, slots := 1#2 <<< c.r.slot, issued := false, ops := []
        since := (v.clock c.g.core).cyc.toNat, asy := decide (hdrClass w = 3) } ∈ d.t.outst := by
  obtain ⟨-, -, -, path⟩ := State.at_some.1 hb
  have named : ({ v with fresh := v.fresh + 1 } : State).at c.r = some b := hb
  refine ⟨_, State.at_modTeam named _ ((tget_tmod_self ..).trans (congrArg _ path)), rfl, ?_⟩
  exact List.mem_append_right _ (List.mem_singleton.2 rfl)

/-- What becomes of a clause by the words of it that are fetched (R259, R260). -/
def State.clauseGot (v : State) (c : Cur) (w : Word) : Except (Option Flt × Nat) (List Word) → State
  | .error (none, _) => v
  | .error (some f, a) => (v.hostTaken c.r codeLane).takeTrap c.r f.cause f.detail a 0 false
  | .ok ws => (clauseFault w (splitWords (hdrCount w) ws)).elim ((v.hostTaken c.r codeLane).startClause c w ws)
      fun d => (v.hostTaken c.r codeLane).takeTrapW c.r 2 d.1 0 0 false (some d.2)

/-- What becomes of a clause start by what is fetched of its header (R259, R176). -/
def State.headerGot (s u : State) (c : Cur) (x : Ctx) : Except (Option Flt) Word → State
  | .error none => u
  | .error (some f) => (u.hostTaken c.r codeLane).takeTrap c.r f.cause f.detail c.p.pc 0 false
  | .ok w =>
    if c.joins w ∨ ¬ c.flagsOpen w then s
    else if hdrLeave w ∧ c.p.grant ≠ .held then s.askLeave c.r
    else
      let r := u.fetchClause c x (hdrCount w) (c.p.pc + 4) []
      r.1.clauseGot c w r.2

section
variable {s u : State} {c : Cur} {x : Ctx} {w : Word}

theorem exec_clauseStart (h : s.look = some c) (ctx : tget s.ctxs c.g.asid = some x) (may : s.mayIssue c = true)
    (idle : c.p.clause = none) (noDog : s.wdogDue c = false) {r : Except (Option Flt) Word} (got : s.fetchWord c x c.p.pc = (u, r)) :
    exec .clauseStart s = .next (s.headerGot u c x r) := by
  show execClauseStart s = _
  simp only [execClauseStart, h, ctx, may, idle, noDog, got, not_true_eq_false, Option.isSome_none, Bool.false_eq_true, or_self,
    if_false]
  match r with
  | .error none | .error (some f) => rfl
  | .ok w =>
    unfold State.headerGot
    dsimp only
    refine congrArg Host.Outcome.next (ite_congr rfl (fun _ => rfl) fun _ => ite_congr rfl (fun _ => rfl) fun _ => ?_)
    match u.fetchClause c x (hdrCount w) (c.p.pc + 4) [] with
    | (v, .error (none, a)) | (v, .error (some f, a)) => rfl
    | (v, .ok ws) =>
      unfold State.clauseGot
      dsimp only
      cases clauseFault w (splitWords (hdrCount w) ws) <;> rfl

theorem State.headerGot_shut (shut : c.flagsOpen w = false) : s.headerGot u c x (.ok w) = s :=
  if_pos (.inr (by rw [shut]; exact Bool.false_ne_true))

variable (apart : c.joins w = false) (flags : c.flagsOpen w = true)
include apart flags

theorem State.headerGot_asks (leave : hdrLeave w = true) (ungranted : c.p.grant ≠ .held) :
    s.headerGot u c x (.ok w) = s.askLeave c.r := by
  simp [State.headerGot, apart, flags, leave, ungranted]

/-- A clause that may start is what is fetched of it. -/
theorem State.headerGot_fetches (granted : hdrLeave w = false ∨ c.p.grant = .held) {v : State}
    {r : Except (Option Flt × Nat) (List Word)} (got : u.fetchClause c x (hdrCount w) (c.p.pc + 4) [] = (v, r)) :
    s.headerGot u c x (.ok w) = v.clauseGot c w r := by
  have go : ¬ (hdrLeave w = true ∧ c.p.grant ≠ .held) := by
    rintro ⟨leave, ungranted⟩
    exact granted.elim (fun no => Bool.noConfusion (leave.symm.trans no)) ungranted
  simp only [State.headerGot, apart, flags, go, got, Bool.false_eq_true, not_true_eq_false, or_self, if_false]

end

/-- A path at a clause boundary is still there once it has fetched. -/
theorem State.fetched_at {s u v : State} {c : Cur} {x : Ctx} {va vb n : Nat} {r : Except (Option Flt) Word}
    {q : Except (Option Flt × Nat) (List Word)} (h : s.look = some c) (header : s.fetchWord c x va = (u, r))
    (rest : u.fetchClause c x n vb [] = (v, q)) : ∃ b, v.at c.r = some b := by
  have first := s.slots_fetchWord c x va
  have second := u.slots_fetchClause c x n vb []
  rw [header] at first
  rw [rest] at second
  exact (first.trans second).path (State.look_at h)

/-- What CLAUSE_START does, as `SchedulingEvents` says it. -/
theorem clauseStarts {s : State} {c : Cur} {x : Ctx} {u : State} (h : s.look = some c) (ctx : tget s.ctxs c.g.asid = some x)
    (may : s.mayIssue c = true) (idle : c.p.clause = none) (noDog : s.wdogDue c = false) {w : Word}
    (header : s.fetchWord c x c.p.pc = (u, .ok w)) (apart : c.joins w = false) (flags : c.flagsOpen w = true)
    (granted : hdrLeave w = false ∨ c.p.grant = .held) {v : State} {ws : List Word}
    (rest : u.fetchClause c x (hdrCount w) (c.p.pc + 4) [] = (v, .ok ws))
    (sound : clauseFault w (splitWords (hdrCount w) ws) = none) :
    ∃ t d, exec .clauseStart s = .next t ∧ t.at c.r = some d ∧
      d.p.clause = some { addr := c.p.pc, hdr := w, words := ws, pos := 0, left := hdrCount w, id := v.fresh } ∧
      { clause := v.fresh, seta := hdrSeta w, setb := hdrSetb w, slots := 1#2 <<< c.r.slot, issued := false, ops := []
        since := (v.clock c.g.core).cyc.toNat, asy := decide (hdrClass w = 3) } ∈ d.t.outst ∧ t.mem = v.mem := by
  obtain ⟨b, hb⟩ := State.fetched_at h header rest
  obtain ⟨d, hd, clause, flagged⟩ := State.startClause_at (v := v.hostTaken c.r codeLane) (b := b) hb w ws
  refine ⟨_, d, (exec_clauseStart h ctx may idle noDog header).trans (congrArg _ (State.headerGot_fetches apart flags granted rest)),
    ?_, clause, flagged, ?_⟩
  · rw [State.clauseGot, sound]
    exact hd
  · rw [State.clauseGot, sound]
    rfl

/-! ### A flag is released (R261, R262) -/

theorem Team.foldl_doLand_landing (ws : List Land) (t : Team) (rest : List Land) :
    ws.foldl (fun t l => t.doLand l.what) { t with landing := rest } =
      { ws.foldl (fun t l => t.doLand l.what) t with landing := rest } := by
  induction ws generalizing t with
  | nil => rfl
  | cons w ws ih =>
    have one : ({ t with landing := rest } : Team).doLand w.what = { t.doLand w.what with landing := rest } := by
      cases w.what with
      | mx fails last =>
        by_cases none : fails = 0 <;> simp only [Team.doLand, none, if_true, if_false]
      | v | p | m | s | fsr | sat => rfl
    rw [List.foldl_cons, one, ih, List.foldl_cons]

/-- A team after the pending writes that a test selects. -/
def Team.landed (t : Team) (sel : Land → Bool) : Team :=
  { (t.landing.filter sel).foldl (fun t l => t.doLand l.what) t with landing := t.landing.filter fun l => ¬ sel l }

theorem State.landIf_groups {s : State} {gid role : Nat} {g : Group} {t : Team} (hg : tget s.groups gid = some g)
    (ht : tget g.teams role = some t) (sel : Land → Bool) :
    (s.landIf gid role sel).groups = tset s.groups gid { g with teams := tset g.teams role (t.landed sel) } := by
  unfold State.landIf Team.landed
  simp only [hg, ht, Team.foldl_doLand_landing]
  split <;> rfl

/-- What FLAG_RELEASE does to its team (R261, R262). -/
theorem flagRelease_releases {s : State} {t : TRef} {id : Nat} {g : Group} {k : Team} {o : Outst} (input : s.input = .clause t id)
    (hg : tget s.groups t.gid = some g) (hk : tget g.teams t.role = some k)
    (found : k.outst.find? (fun o => o.clause = id) = some o) (issued : o.issued = true) (idle : o.ops = []) :
    ∃ u h e, exec .flagRelease s = .next u ∧ tget u.groups t.gid = some h ∧ tget h.teams t.role = some e ∧
      (∀ p ∈ e.outst, p.clause ≠ id) ∧ (∀ l ∈ e.landing, l.clause ≠ id) ∧
      e.lanes = ((k.landing.filter fun l => l.clause = id).foldl (fun t l => t.doLand l.what) k).lanes := by
  let now (l : Land) : Bool := l.clause = id
  let drop (k : Team) : Team := { k with outst := k.outst.filter fun o => o.clause ≠ id }
  have run : exec .flagRelease s = .next ((s.landIf t.gid t.role now).modTeam t.gid t.role drop) := by
    show execFlagRelease s = _
    simp only [execFlagRelease, input, hg, hk, found, issued, idle, List.isEmpty_nil, not_true_eq_false, or_self, if_false]
    rfl
  have group : tget ((s.landIf t.gid t.role now).modTeam t.gid t.role drop).groups t.gid =
      some { g with teams := tmod (tset g.teams t.role (k.landed now)) t.role drop } := by
    rw [State.modTeam, State.modGroup, tget_tmod_self, State.landIf_groups hg hk, tget_tset_self]
    rfl
  refine ⟨_, _, drop (k.landed now), run, group, (tget_tmod_self ..).trans (congrArg (Option.map drop) (tget_tset_self ..)),
    fun p hp => ?_, fun l hl => ?_, rfl⟩
  · exact of_decide_eq_true (List.mem_filter.1 hp).2
  · simpa [now] using (List.mem_filter.1 hl).2

/-! ### A path arrives at its join (R151, R152) -/

theorem splitOf_pushed (slot : Nat) (mask : LaneSet) (pc join : Nat) (outer : Option Nat) (arrived : Bool) (older : List Split) :
    splitOf slot (.pushed slot mask pc join outer arrived :: older) = some ([], .pushed slot mask pc join outer arrived, older) := by
  simp [splitOf]

theorem splitOf_pair (slot join : Nat) (outer : Option Nat) (fork : Tab Word) (written : BitVec 64) (alone : Bool) (older : List Split) :
    splitOf slot (.pair join outer fork written alone :: older) = some ([], .pair join outer fork written alone, older) := rfl

section
variable {s : State} {c : Cur} (h : s.look = some c) (may : s.mayIssue c = true) (idle : c.p.clause = none)
  (noDog : s.wdogDue c = false) (stands : s.standsAtJoin c = true)
include h may idle noDog stands

variable {mask : LaneSet} {pc join : Nat} {outer : Option Nat} {fork : Tab Word} {written : BitVec 64} {older : List Split}

/-- The side that arrives first goes on with the other one (R151). -/
theorem joinArrival_swaps (top : c.t.splits = .pushed c.r.slot mask pc join outer false :: older) :
    ∃ t d, exec .joinArrival s = .next t ∧ t.at c.r = some d ∧ d.p.mask = mask ∧ d.p.pc = pc ∧ d.p.s = c.p.s ∧
      d.t.splits = .pushed c.r.slot c.p.mask join join outer true :: older := by
  have run : exec .joinArrival s = .next (s.modTeam c.r.gid c.r.role fun t =>
      { t with
        paths := tset t.paths c.r.slot { c.p with mask := mask, pc := pc }
        splits := .pushed c.r.slot c.p.mask join join outer true :: older }) := by
    show execJoinArrival s = _
    simp only [execJoinArrival, h, may, idle, noDog, stands, top, splitOf_pushed, not_true_eq_false, Option.isSome_none,
      Bool.false_eq_true, or_self, if_false, List.nil_append]
  exact ⟨_, _, run, State.at_modTeam (State.look_at h) _ (tget_tset_self ..), rfl, rfl, rfl, rfl⟩

/-- The side that arrives second goes on with the lanes of both (R151). -/
theorem joinArrival_pops (top : c.t.splits = .pushed c.r.slot mask pc join outer true :: older) :
    ∃ t d, exec .joinArrival s = .next t ∧ t.at c.r = some d ∧ d.p.mask = c.p.mask ||| mask ∧ d.p.pc = c.p.pc ∧
      d.p.jp = outer ∧ d.t.splits = older := by
  have run : exec .joinArrival s = .next (s.modTeam c.r.gid c.r.role fun t =>
      { t with
        paths := tset t.paths c.r.slot { c.p with mask := c.p.mask ||| mask, jp := outer }
        splits := older }) := by
    show execJoinArrival s = _
    simp only [execJoinArrival, h, may, idle, noDog, stands, top, splitOf_pushed, not_true_eq_false, Option.isSome_none,
      Bool.false_eq_true, or_self, if_false, List.nil_append, if_true]
  exact ⟨_, _, run, State.at_modTeam (State.look_at h) _ (tget_tset_self ..), rfl, rfl, rfl, rfl⟩

variable (top : c.t.splits = .pair join outer fork written false :: older) {q : Path} (other : tget c.t.paths (1 - c.r.slot) = some q)
include top other

/-- The path of a concurrent split that arrives first waits (R152). -/
theorem joinArrival_parks (away : q.status ≠ .atJoin) :
    exec .joinArrival s = .next (s.modPath c.r fun p => { p with status := .atJoin }) := by
  show execJoinArrival s = _
  simp only [execJoinArrival, h, may, idle, noDog, stands, top, splitOf_pair, Team.path, other, away, not_true_eq_false,
    Option.isSome_none, Bool.false_eq_true, or_self, if_false, ne_eq, not_false_eq_true, if_true]

/-- The path that arrives second merges with it, in slot 0 (R152). -/
theorem joinArrival_merges (there : q.status = .atJoin) :
    ∃ t d, exec .joinArrival s = .next t ∧ t.at { c.r with slot := 0 } = some d ∧
      d.p.mask = c.p.mask ||| q.mask ∧ d.p.pc = join ∧ d.p.jp = outer ∧ tkeys d.t.paths = [0] := by
  have run : exec .joinArrival s = .next ((s.modTeam c.r.gid c.r.role fun t =>
      if c.r.slot = 0 then t.merge c.p q join outer fork written [] older
      else t.merge q c.p join outer fork written [] older).mergeOwed c.r.gid c.r.role) := by
    show execJoinArrival s = _
    simp only [execJoinArrival, h, may, idle, noDog, stands, top, splitOf_pair, Team.path, other, there, not_true_eq_false,
      Option.isSome_none, Bool.false_eq_true, or_self, if_false, ne_eq]
  obtain ⟨-, group, team, -⟩ := State.at_some.1 (State.look_at h)
  let f (t : Team) : Team := if c.r.slot = 0 then t.merge c.p q join outer fork written [] older
    else t.merge q c.p join outer fork written [] older
  have merged : ∃ m, (f c.t).paths = [(0, m)] ∧ m.mask = c.p.mask ||| q.mask ∧ m.pc = join ∧ m.jp = outer := by
    by_cases first : c.r.slot = 0
    · exact ⟨_, congrArg Team.paths (if_pos first), rfl, rfl, rfl⟩
    · exact ⟨_, congrArg Team.paths (if_neg first), BitVec.or_comm .., rfl, rfl⟩
  obtain ⟨m, paths, mask, pc, jp⟩ := merged
  refine ⟨_, { r := { c.r with slot := 0 }, g := c.g.modTeam c.r.role f, t := f c.t, p := m }, run,
    State.at_some.2 ⟨rfl, ?_, ?_, ?_⟩, mask, pc, jp, ?_⟩
  · exact (tget_tmod_self ..).trans (congrArg (Option.map _) group)
  · exact (tget_tmod_self ..).trans (congrArg (Option.map _) team)
  · rw [paths]
    rfl
  · rw [paths]
    rfl

end

end Sys2Proof.Machine
end

section
/-! PROOFS. Which path may run, when time stands, and how teams exchange places (07 R172 to R178). -/

namespace Sys2Proof.Machine

/-! ### What the scheduler selects (R174, R175) -/

section
variable {s : State} {c d : Cur} {k e : Cand} {ds : List Cur}

/-- A path that fits: a clause start has the preferred gauge, or is aged, or is let by; and no other candidate goes before it. -/
theorem State.fits_cand (fits : s.fits c ds = true) (hk : s.cand c = some k) :
    (k.start = true → s.aged k = false → k.gauge = (s.core c.g.core).pref ∨ ∃ e ∈ ds, e.passedOver c = true) ∧
      ∀ d ∈ ds, ∀ e, s.cand d = some e → s.precedes e k = false := by
  simp only [State.fits, hk, Bool.and_eq_true, Bool.or_eq_true, decide_eq_true_eq, List.all_eq_true, List.any_eq_true,
    List.mem_filterMap] at fits
  obtain ⟨gauge, first⟩ := fits
  refine ⟨fun start young => ?_, fun d hd e he => by simpa using first e ⟨d, hd, he⟩⟩
  obtain ((late | old) | preferred) | passed := gauge
  · exact absurd start late
  · rw [young] at old
    cases old
  · exact .inl preferred
  · exact .inr passed

/-- What it means that a candidate on the same pipe does not go before another one. -/
theorem State.not_precedes (pipe : e.pipe = k.pipe) (h : s.precedes e k = false) :
    (s.aged e = true → s.aged k = true ∧ s.waited e ≤ s.waited k) ∧
    (k.start = true → s.aged k = false → e.start = false → e.team = k.team) ∧
    (k.start = true → s.aged k = false → e.start = true → e.gauge = k.gauge → s.waited e ≤ s.waited k) := by
  unfold State.precedes at h
  rw [if_neg (not_not.2 pipe)] at h
  cases old : s.aged e with
  | true =>
    rw [old, if_pos rfl] at h
    obtain ⟨both, le⟩ : s.aged k = true ∧ s.waited e ≤ s.waited k := by simpa using h
    have not_young (young : s.aged k = false) : False := Bool.noConfusion (young.symm.trans both)
    exact ⟨fun _ => ⟨both, le⟩, fun _ young => (not_young young).elim, fun _ young => (not_young young).elim⟩
  | false =>
    refine ⟨Bool.noConfusion, fun start young other => ?_, fun start young other gauge => ?_⟩
    · simpa [old, young, start, other] using h
    · simpa [old, young, start, other, gauge] using h

/-- A path that is selected beside another ready one fits, and leaves the other slot of its team its turn. -/
theorem State.selects_beside (sel : s.selects c = true) (hd : d ∈ s.readyPaths c.g.core) (ne : d.r ≠ c.r) :
    s.fits c ((s.readyPaths c.g.core).filter fun e => e.r ≠ c.r) = true ∧
      (c.mate d = true → c.passedOver d = false ∧
        (d.p.missed ≠ 0 → s.fits d ((s.readyPaths c.g.core).filter fun e => e.r ≠ d.r) = false)) := by
  have beside : d ∈ (s.readyPaths c.g.core).filter fun e => e.r ≠ c.r := List.mem_filter.2 ⟨hd, decide_eq_true ne⟩
  unfold State.selects at sel
  split at sel
  next none => rw [none] at hd; cases hd
  split at sel
  next none => rw [none] at beside; cases beside
  obtain ⟨fits, all⟩ := Bool.and_eq_true_iff.1 sel
  have this := List.all_eq_true.1 all d beside
  refine ⟨fits, fun mate => ?_⟩
  simp only [mate, not_true_eq_false, decide_false, Bool.false_or, Bool.and_eq_true, Bool.or_eq_true, decide_eq_true_eq,
    Bool.not_eq_true] at this
  exact ⟨this.1, this.2.resolve_left⟩

theorem Cur.mate_iff : c.mate d = true ↔ d.r.gid = c.r.gid ∧ d.r.role = c.r.role := by
  simp [Cur.mate]

theorem Cur.passedOver_mate (mate : c.mate d = true) (h : c.passedOver d = false) : d.p.missed + c.passes < Config.slotIssues := by
  simpa [Cur.passedOver, mate] using h

theorem State.mayEnter_cases (h : s.mayEnter c = true) :
    ((s.core c.g.core).active.contains { gid := c.r.gid, role := c.r.role } = true ∧
        (s.core c.g.core).swap ≠ some ((s.clock c.g.core).cyc.toNat, { gid := c.r.gid, role := c.r.role })) ∨
      (s.core c.g.core).active.length < Config.activeTeams := by
  unfold State.mayEnter at h
  dsimp only at h
  obtain enters | room := Bool.or_eq_true_iff.1 h
  · obtain ⟨inside, early⟩ := Bool.and_eq_true_iff.1 enters
    refine .inl ⟨inside, fun swap => ?_⟩
    rw [swap] at early
    simp at early
  · exact .inr (of_decide_eq_true (Bool.and_eq_true_iff.1 room).2)

/-- Which path may run, as `SchedulingEvents` says it. -/
theorem mayRun_rules (h : s.mayRun c = true) : s.ready c = true ∧ (s.swapDue c.g.core).isNone = true ∧
    (((s.core c.g.core).active.contains { gid := c.r.gid, role := c.r.role } = true ∧
        (s.core c.g.core).swap ≠ some ((s.clock c.g.core).cyc.toNat, { gid := c.r.gid, role := c.r.role })) ∨
      (s.core c.g.core).active.length < Config.activeTeams) ∧
    ∀ d ∈ s.readyPaths c.g.core, d.r ≠ c.r →
      (d.r.gid = c.r.gid → d.r.role = c.r.role → d.p.missed + c.passes < Config.slotIssues ∧
        (d.p.missed ≠ 0 → s.fits d ((s.readyPaths c.g.core).filter fun e => e.r ≠ d.r) = false)) ∧
      ∀ k, s.cand c = some k →
        (k.start = true → s.aged k = false → k.gauge = (s.core c.g.core).pref ∨
          ∃ e ∈ s.readyPaths c.g.core, e.r ≠ c.r ∧ e.passedOver c = true) ∧
        ∀ e, s.cand d = some e → e.pipe = k.pipe →
          (s.aged e = true → s.aged k = true ∧ s.waited e ≤ s.waited k) ∧
          (k.start = true → s.aged k = false → e.start = false → e.team = k.team) ∧
          (k.start = true → s.aged k = false → e.start = true → e.gauge = k.gauge → s.waited e ≤ s.waited k) := by
  simp only [State.mayRun, Bool.and_eq_true] at h
  obtain ⟨⟨⟨⟨-, enters⟩, noSwap⟩, ready⟩, sel⟩ := h
  refine ⟨ready, noSwap, State.mayEnter_cases enters, fun d hd ne => ?_⟩
  obtain ⟨fits, turn⟩ := State.selects_beside sel hd ne
  refine ⟨fun gid role => ?_, fun k hk => ?_⟩
  · have mate := Cur.mate_iff.2 ⟨gid, role⟩
    exact ⟨Cur.passedOver_mate mate (turn mate).1, (turn mate).2⟩
  · obtain ⟨gauge, first⟩ := State.fits_cand fits hk
    refine ⟨fun start young => (gauge start young).imp_right ?_, fun e he pipe => ?_⟩
    · rintro ⟨e, he, passed⟩
      obtain ⟨ready, other⟩ := List.mem_filter.1 he
      exact ⟨e, ready, of_decide_eq_true other, passed⟩
    · exact State.not_precedes pipe (first d (List.mem_filter.2 ⟨hd, decide_eq_true ne⟩) e he)

end

/-! ### What an issue notes (R173, R175) -/

/-- A path that issues in its clause is noted, and its team's other slot as passed over. -/
theorem enter_notes {s : State} {c d : Cur} {k : Clause} (hc : s.at c.r = some c) (clause : c.p.clause = some k)
    (hd : s.at { c.r with slot := 1 - c.r.slot } = some d) (two : c.r.slot < 2) :
    ∃ e f, (s.enter c).at c.r = some e ∧ e.p.missed = 0 ∧ e.p.since = none ∧
      e.t.issued = ((s.enter c).clock c.g.core).cyc.toNat ∧ (s.enter c).at { c.r with slot := 1 - c.r.slot } = some f ∧
      f.p.missed = if d.p.since.isSome then d.p.missed + c.passes else d.p.missed := by
  have noted : s.enter c = (s.atHand c).modTeam c.r.gid c.r.role fun t =>
      { t with issued := ((s.atHand c).clock c.g.core).cyc.toNat, paths := tmap t.paths c.notedIn } := by
    rw [State.enter_eq, clause]
    rfl
  have path {r : Ref} {b : Cur} (hb : s.at r = some b) : tget (tmap b.t.paths c.notedIn) r.slot = some (c.notedIn r.slot b.p) := by
    rw [tget_tmap, (State.at_some.1 hb).2.2.2, Option.map_some]
  have other : ¬ 1 - c.r.slot = c.r.slot := by omega
  rw [noted]
  refine ⟨_, _, State.at_modTeam (s := s.atHand c) hc _ (path hc), ?_, ?_, rfl, State.at_modTeam (s := s.atHand c) hd _ (path hd), ?_⟩
  · exact congrArg Path.missed (if_pos rfl)
  · exact congrArg Path.since (if_pos rfl)
  · refine (congrArg Path.missed (if_neg other)).trans ?_
    exact apply_ite Path.missed ..

/-! ### Time passes, and stands (R168, R175, R177) -/

/-- How many ticks pass: as many as are asked for, or those up to the first state in which time stands. -/
theorem State.span_spec (s : State) (n : Nat) : (∀ m, m < s.span n → (s.later m).stands = false) ∧
    (s.span n < n → (s.later (s.span n)).stands = true) ∧ s.span n ≤ n := by
  induction n with
  | zero => exact ⟨fun m hm => absurd hm (Nat.not_lt_zero m), fun h => absurd h (Nat.lt_irrefl 0), Nat.le_refl 0⟩
  | succ n ih =>
    obtain ⟨before, stop, le⟩ := ih
    have unfolded : s.span (n + 1) = if s.span n < n ∨ (s.later (s.span n)).stands then s.span n else s.span n + 1 := rfl
    rw [unfolded]
    split
    next h => exact ⟨before, fun _ => h.elim stop id, by omega⟩
    next h =>
      obtain ⟨all, goes⟩ := not_or.1 h
      refine ⟨fun m hm => ?_, fun lt => by omega, by omega⟩
      obtain lt | rfl := Nat.lt_succ_iff_lt_or_eq.1 hm
      · exact before m lt
      · exact Bool.eq_false_iff.2 goes

theorem State.overdue_iff (s : State) (c : Cur) :
    s.overdue c = true ↔ c.p.since ≠ none ∧ ∃ k, s.cand c = some k ∧ Config.readyCycles ≤ s.counted k := by
  unfold State.overdue
  cases c.p.since with
  | none => simp
  | some n => cases s.cand c with
    | none => simp
    | some k => simp

theorem State.stands_iff (s : State) : s.stands = true ↔ ∃ c ∈ s.residentPaths, ((s.swapDue c.g.core).isSome = true ∨
    ∃ d ∈ s.residentPaths, d.g.core = c.g.core ∧ s.mayRun d = true) ∧
    c.p.since ≠ none ∧ ∃ k, s.cand c = some k ∧ Config.readyCycles ≤ s.counted k := by
  simp only [State.stands, List.any_eq_true, Bool.and_eq_true, State.overdue_iff, State.coreActs, Bool.or_eq_true, decide_eq_true_eq,
    and_comm]

/-! ### Teams exchange places (R173) -/

section
variable {s : State} {core : Nat} {leaves enters : TRef}

theorem State.swapFree_iff : s.swapFree core = true ↔ ∀ t, (s.core core).swap ≠ some ((s.clock core).cyc.toNat, t) := by
  unfold State.swapFree
  cases (s.core core).swap with
  | none => simp
  | some e => obtain ⟨n, u⟩ := e; simp

theorem State.swapTeams_core : ((s.swapTeams core leaves enters).core core).active =
      (s.core core).active.filter (· ≠ leaves) ++ [enters] ∧
    ((s.swapTeams core leaves enters).core core).swap = some ((s.clock core).cyc.toNat, enters) ∧
    (s.swapTeams core leaves enters).mem = s.mem := by
  have core_eq : (s.swapTeams core leaves enters).core core = { s.core core with
      active := (s.core core).active.filter (· ≠ leaves) ++ [enters], swap := some ((s.clock core).cyc.toNat, enters) } :=
    (s.core_modCore core core fun c =>
      { c with active := c.active.filter (· ≠ leaves) ++ [enters], swap := some ((s.clock core).cyc.toNat, enters) }).trans (if_pos rfl)
  rw [core_eq]
  exact ⟨rfl, rfl, rfl⟩

variable (input : s.input = .swap core leaves enters)
include input

theorem swaps_wait (made : s.swapFree core = false) : exec .teamSwap s = .next s ∧ exec .forcedSwap s = .next s := by
  constructor
  · show execTeamSwap s = _
    simp only [execTeamSwap, input, made, Bool.and_false, Bool.false_eq_true, if_false]
  · show execForcedSwap s = _
    simp only [execForcedSwap, input, made, Bool.and_false, Bool.false_eq_true, if_false]

theorem teamSwap_swaps (free : s.swapFree core = true) (inside : (s.core core).active.contains leaves = true)
    (blocked : s.blockedLong leaves = true) (longest : s.longestReady core = some enters) :
    exec .teamSwap s = .next (s.swapTeams core leaves enters) := by
  show execTeamSwap s = _
  simp only [execTeamSwap, input, free, inside, blocked, longest, decide_true, Bool.and_self, if_true]

theorem forcedSwap_swaps (free : s.swapFree core = true) {n : Nat} (since : s.readySince enters = some n)
    (due : n + Config.forcedCycles ≤ (s.clock core).cyc.toNat) (oldest : s.oldestIssue core = some leaves)
    (pending : (s.pendingTeams core).contains enters = true) (ready : s.teamReady enters = true) :
    exec .forcedSwap s = .next (s.swapTeams core leaves enters) := by
  show execForcedSwap s = _
  simp only [execForcedSwap, input, free, since, due, oldest, pending, ready, decide_true, Bool.and_self, if_true]

end

theorem head?_sortBy_le {α : Type} {key : α → Nat} {a b : α} {l : List α} (h : (sortBy key l).head? = some a) (hb : b ∈ l) :
    key a ≤ key b := by
  induction l generalizing a with
  | nil => cases hb
  | cons c l ih =>
    rw [sortBy] at h
    cases sorted : sortBy key l with
    | nil =>
      rw [sorted] at h
      obtain rfl : c = a := Option.some.inj h
      obtain rfl | hb := List.mem_cons.1 hb
      · exact Nat.le_refl _
      · exact absurd (mem_sortBy.2 hb) (by rw [sorted]; exact List.not_mem_nil)
    | cons m rest =>
      have least (hb : b ∈ l) : key m ≤ key b := ih (by rw [sorted]; rfl) hb
      rw [sorted, insertBy] at h
      split at h
      next le =>
        obtain rfl : c = a := Option.some.inj h
        obtain rfl | hb := List.mem_cons.1 hb
        · exact Nat.le_refl _
        · exact le.trans (least hb)
      next gt =>
        obtain rfl : m = a := Option.some.inj h
        obtain rfl | hb := List.mem_cons.1 hb
        · exact Nat.le_of_not_le gt
        · exact least hb

/-- The team that has been ready longest, as `SchedulingEvents` says it. -/
theorem longestReady_rules {s : State} {core : Nat} {t : TRef} (h : s.longestReady core = some t) :
    t ∈ s.pendingTeams core ∧ s.teamReady t = true ∧ ∀ u ∈ s.pendingTeams core, s.teamReady u = true →
      (s.readySince t).getD (s.clock core).cyc.toNat ≤ (s.readySince u).getD (s.clock core).cyc.toNat := by
  have member := mem_sortBy.1 (List.mem_of_mem_head? h)
  obtain ⟨pending, ready⟩ := List.mem_filter.1 member
  exact ⟨pending, ready, fun u hu readyU => head?_sortBy_le h (List.mem_filter.2 ⟨hu, readyU⟩)⟩

end Sys2Proof.Machine
end

section
/-! PROOFS. The power arbiter, the droop loop and the watchdog (07 R168, R176, R178), and the scheduling events together. -/

namespace Sys2Proof.Machine

/-! ### Leave grants (R176) -/

section
variable {s : State} {r : Ref} {c : Cur}

theorem State.leaveExcess_within (h : Config.projectedDraw s.free ≤ s.host.dieBudget) :
    s.leaveExcess = ({ s with free := s.free + 1 }, 0) := by
  rw [State.leaveExcess, if_pos h]

theorem State.leaveExcess_beyond (h : s.host.dieBudget < Config.projectedDraw s.free) :
    s.leaveExcess = ({ s with free := s.free + 1 }, 1 + Config.excessSteps (Config.projectedDraw s.free - s.host.dieBudget)) := by
  rw [State.leaveExcess, if_neg (Nat.not_le.2 h)]

/-- A path after a change of it alone. -/
theorem State.at_modPath (hc : s.at r = some c) (f : Path → Path) : ∃ d, (s.modPath r f).at r = some d ∧ d.p = f c.p := by
  obtain ⟨-, -, -, path⟩ := State.at_some.1 hc
  exact ⟨_, State.at_modTeam hc _ ((tget_tmod_self ..).trans (congrArg (Option.map f) path)), rfl⟩

theorem askLeave_asks (hc : s.at r = some c) (none : c.p.grant = .none) : ∃ d, (s.askLeave r).at r = some d ∧ d.p = { c.p with
    grant := (if Config.projectedDraw s.free ≤ s.host.dieBudget then Grant.held
      else Grant.asked s.etime (1 + Config.excessSteps (Config.projectedDraw s.free - s.host.dieBudget))) } := by
  unfold State.askLeave
  by_cases within : Config.projectedDraw s.free ≤ s.host.dieBudget
  · rw [State.leaveExcess_within within, if_pos within]
    obtain ⟨d, hd, p⟩ := State.at_modPath (s := { s with free := s.free + 1 }) hc _
    exact ⟨d, hd, p.trans (by simp only [none, ne_eq, not_true_eq_false, if_false, if_true])⟩
  · rw [State.leaveExcess_beyond (Nat.lt_of_not_le within), if_neg within]
    obtain ⟨d, hd, p⟩ := State.at_modPath (s := { s with free := s.free + 1 }) hc _
    exact ⟨d, hd, p.trans (by simp [none])⟩

theorem askLeave_asked (hc : s.at r = some c) (asked : c.p.grant ≠ .none) : ∃ d, (s.askLeave r).at r = some d ∧ d.p = c.p := by
  unfold State.askLeave
  obtain ⟨d, hd, p⟩ := State.at_modPath (s := s.leaveExcess.1) hc fun p =>
    { p with grant := if p.grant ≠ .none then p.grant else if s.leaveExcess.2 = 0 then .held else .asked s.etime s.leaveExcess.2 }
  exact ⟨d, hd, p.trans (by rw [if_pos asked])⟩

variable {since n : Nat} (hc : s.at r = some c) (input : s.input = .path r) (asked : c.p.grant = .asked since n)
include hc input asked

theorem exec_leaveGrant : exec .leaveGrant s = .next (
    if s.leaveExcess.2 = 0 then s.leaveExcess.1.modPath r fun p => { p with grant := .held }
    else if s.etime < since + Config.grantTicks then s.leaveExcess.1
    else (s.leaveExcess.1.modPath r fun p => { p with grant := .held }).modDie (dieOf c.g.core) fun d => { d with goal := d.goal + n }) := by
  obtain rfl := (State.at_some.1 hc).1
  show execLeaveGrant s = _
  simp only [execLeaveGrant, input, hc, State.answerLeave, asked]

theorem leaveGrant_within (within : Config.projectedDraw s.free ≤ s.host.dieBudget) :
    ∃ t, exec .leaveGrant s = .next t ∧ (∃ d, t.at r = some d ∧ d.p = { c.p with grant := .held } ∧ t.mem = s.mem) ∧ t.dies = s.dies := by
  have run := exec_leaveGrant hc input asked
  rw [State.leaveExcess_within within, if_pos rfl] at run
  obtain ⟨d, hd, p⟩ := State.at_modPath (s := { s with free := s.free + 1 }) hc fun p => { p with grant := .held }
  exact ⟨_, run, ⟨d, hd, p, rfl⟩, rfl⟩

variable (beyond : s.host.dieBudget < Config.projectedDraw s.free)
include beyond

theorem leaveGrant_waits (early : s.etime < since + Config.grantTicks) : exec .leaveGrant s = .next { s with free := s.free + 1 } := by
  have run := exec_leaveGrant hc input asked
  rwa [State.leaveExcess_beyond beyond, if_neg (by dsimp only; omega), if_pos early] at run

theorem leaveGrant_due (due : since + Config.grantTicks ≤ s.etime) :
    ∃ t, exec .leaveGrant s = .next t ∧ (∃ d, t.at r = some d ∧ d.p = { c.p with grant := .held } ∧ t.mem = s.mem) ∧
      (t.die (dieOf c.g.core)).goal = (s.die (dieOf c.g.core)).goal + n := by
  have run := exec_leaveGrant hc input asked
  rw [State.leaveExcess_beyond beyond, if_neg (by dsimp only; omega), if_neg (Nat.not_lt.2 due)] at run
  obtain ⟨d, hd, p⟩ := State.at_modPath (s := { s with free := s.free + 1 }) hc fun p => { p with grant := .held }
  exact ⟨_, run, ⟨d, hd, p, rfl⟩, congrArg Die.goal ((State.die_modDie ..).trans (if_pos rfl))⟩

end

/-! ### The stretch of a die (R168) -/

section
variable {s : State} {die : Nat} (input : s.input = .one die)
include input

theorem droopStep_early (early : s.etime < (s.die die).changed + Config.droopTicks) : exec .droopStep s = .next s := by
  show execDroopStep s = _
  simp only [execDroopStep, input, early, if_true]

variable (due : (s.die die).changed + Config.droopTicks ≤ s.etime)
include due

theorem exec_droopStep : exec .droopStep s = .next (
    if 0 < (s.die die).goal ∨ s.host.dieBudget < Config.measuredDraw s.free then ({ s with free := s.free + 1 } : State).stretchUp die
    else if 0 < (s.die die).stretch then
      ({ s with free := s.free + 1 } : State).modDie die fun d => { d with stretch := d.stretch - 1, changed := s.etime }
    else { s with free := s.free + 1 }) := by
  show execDroopStep s = _
  unfold execDroopStep
  split
  case h_2 no => exact absurd input (no die)
  next n input' =>
  obtain rfl := Input.one.inj (input.symm.trans input')
  dsimp only
  rw [if_neg (Nat.not_lt.2 due)]

theorem droopStep_up (up : 0 < (s.die die).goal ∨ s.host.dieBudget < Config.measuredDraw s.free) : ∃ t, exec .droopStep s = .next t ∧
    (t.die die).stretch = if (s.die die).stretch < 12 then (s.die die).stretch + 1 else (s.die die).stretch := by
  have run := exec_droopStep input due
  rw [if_pos up] at run
  refine ⟨_, run, (congrArg Die.stretch ((State.die_modDie ..).trans (if_pos rfl))).trans ?_⟩
  exact apply_ite Die.stretch ..

theorem droopStep_down (goal : (s.die die).goal = 0) (within : Config.measuredDraw s.free ≤ s.host.dieBudget) :
    ∃ t, exec .droopStep s = .next t ∧ (t.die die).stretch = (s.die die).stretch - 1 := by
  have run := exec_droopStep input due
  rw [if_neg (by omega)] at run
  by_cases stretched : 0 < (s.die die).stretch
  · rw [if_pos stretched] at run
    exact ⟨_, run, congrArg Die.stretch ((State.die_modDie ..).trans (if_pos rfl))⟩
  · rw [if_neg stretched] at run
    exact ⟨_, run, show (s.die die).stretch = _ by omega⟩

end

/-! ### The watchdog (R178, R380) -/

section
variable {s : State} {id : Nat}

theorem exec_watchdogExpiry {d : Grid} {x : Ctx} {t0 : Nat} (input : s.input = .one id) (grid : tget s.grids id = some d)
    (started : d.started = some t0) (ctx : tget s.ctxs d.asid = some x) : exec .watchdogExpiry s = .next (
      if d.done ∨ s.etime < t0 + x.wdogTicks then s else s.modGrid id fun d => { d with expired := some s.etime }) := by
  show execWatchdogExpiry s = _
  unfold execWatchdogExpiry
  split
  case h_2 no => exact absurd input (no id)
  next n input' =>
  obtain rfl := Input.one.inj (input.symm.trans input')
  simp only [grid, started, ctx]

/-- A watchdog that has started is a step that time makes due. -/
theorem State.timed_watchdog {d : Nat × Grid} (hd : d ∈ s.grids) (started : d.2.started ≠ none) (live : d.2.done = false)
    (unexpired : d.2.expired = none) : (Instr.watchdogExpiry, Input.one d.1) ∈ s.timed := by
  have due : d ∈ s.grids.filter fun d => d.2.started.isSome && ¬ d.2.done && d.2.expired.isNone := by
    refine List.mem_filter.2 ⟨hd, ?_⟩
    simp [Option.isSome_iff_ne_none.2 started, live, unexpired]
  have first := List.mem_map_of_mem (f := fun d : Nat × Grid => (Instr.watchdogExpiry, Input.one d.1)) due
  unfold State.timed
  simp only [List.append_assoc]
  exact List.mem_append_left _ first

theorem State.expireDue_none (h : ∀ d ∈ s.grids, ∀ t, d.2.expired = some t → s.etime ≤ t) : s.expireDue = s := by
  refine congrArg (List.foldl (fun (s : State) (d : Nat × Grid) => s.expire d.1) s) (List.filter_eq_nil_iff.2 fun d hd => ?_)
  split
  · exact Bool.false_ne_true
  next t ht => simpa using h d hd t ht

end

/-- The live teams of a group are to take the watchdog fault. -/
def Group.warned (g : Group) : Group := { g with teams := tmap g.teams fun _ t => { t with wdog := ¬ t.ended } }

theorem Group.warned_warned (g : Group) : g.warned.warned = g.warned := by
  simp only [Group.warned, tmap_tmap]

theorem State.foldl_warned (l : List (Nat × Group)) (s : State) (gid : Nat) :
    tget (l.foldl (fun s g => s.modGroup g.1 Group.warned) s).groups gid =
      if gid ∈ l.map Prod.fst then (tget s.groups gid).map Group.warned else tget s.groups gid := by
  induction l generalizing s with
  | nil => rfl
  | cons e l ih =>
    rw [List.foldl_cons, ih, State.modGroup, tget_tmod, List.map_cons]
    by_cases first : gid = e.1
    · subst first
      simp only [if_true, List.mem_cons, true_or, Option.map_map, Function.comp_def, Group.warned_warned, ite_self]
    · simp only [first, if_false, List.mem_cons, false_or]

section
variable {s : State} {id : Nat}

/-- A grid with a team in handler state ends as its watchdog expires (R380). -/
theorem State.expire_ends
    (h : ∃ g ∈ s.groups, (g.2.grid = id ∧ g.2.place ≠ .ended) ∧ ∃ t ∈ g.2.teams, t.2.inHandler = true) :
    ∃ g ∈ s.groups, (g.2.grid = id ∧ g.2.place ≠ .ended) ∧ (∃ t ∈ g.2.teams, t.2.inHandler = true) ∧
      s.expire id = (s.modGrid id fun d => { d with expired := none }).terminateGrid id g.2.index (256 * 0x0F) := by
  unfold State.expire
  dsimp only
  split
  next g found =>
    obtain ⟨member, mine⟩ := List.mem_filter.1 (List.mem_of_find?_eq_some found)
    refine ⟨g, member, by simpa using mine, ?_, rfl⟩
    simpa using List.find?_some found
  next none =>
    obtain ⟨g, member, mine, handles⟩ := h
    refine absurd ?_ (List.find?_eq_none.1 none g (List.mem_filter.2 ⟨member, by simpa using mine⟩))
    simpa using handles

/-- Else its teams are to take the watchdog fault (R178). -/
theorem State.expire_warns
    (calm : ∀ g ∈ s.groups, g.2.grid = id ∧ g.2.place ≠ .ended → ¬ ∃ t ∈ g.2.teams, t.2.inHandler = true)
    {gid role : Nat} {g : Group} {k : Team} (hg : tget s.groups gid = some g) (grid : g.grid = id) (place : g.place = .resident)
    (hk : tget g.teams role = some k) :
    ∃ h, tget (s.expire id).groups gid = some h ∧ tget h.teams role = some { k with wdog := ! k.ended } := by
  have none : ((s.groups.filter fun g => g.2.grid = id && ¬ (g.2.place = .ended)).find? fun g =>
      g.2.teams.any fun t => t.2.inHandler) = none := by
    refine List.find?_eq_none.2 fun g hg => ?_
    obtain ⟨member, mine⟩ := List.mem_filter.1 hg
    simpa using calm g member (by simpa using mine)
  have mine : gid ∈ ((s.groups.filter fun g => g.2.grid = id && ¬ (g.2.place = .ended)).filter fun g =>
      g.2.place = .resident).map Prod.fst :=
    List.mem_map.2 ⟨(gid, g), List.mem_filter.2 ⟨List.mem_filter.2 ⟨tget_mem hg, by simp [grid, place]⟩, by simp [place]⟩, rfl⟩
  have warned : tget (s.expire id).groups gid = some g.warned := by
    unfold State.expire
    dsimp only
    split
    next found => exact absurd (none.symm.trans found) (by simp)
    next => exact (State.foldl_warned ..).trans ((if_pos mine).trans (congrArg (Option.map Group.warned) hg))
  refine ⟨_, warned, ?_⟩
  simp only [Group.warned, tget_tmap, hk, Option.map_some, Bool.not_eq_true, Bool.decide_eq_false]

end

/-- Settles O54: each clause is the lemma about its event. -/
theorem schedulingEvents : Obligations.SchedulingEvents := by
  unfold Obligations.SchedulingEvents
  refine ⟨?_, fun s c => mayRun_rules, fun s c d k hc clause hd two => enter_notes hc clause hd two, ?_, State.stands_iff,
    fun s t id g k o => flagRelease_releases, ?_, ?_, fun s core t => longestReady_rules, ?_, ?_, ?_,
    fun s d hd => State.timed_watchdog hd, fun s => State.expireDue_none, ?_⟩
  · intro s c x u h ctx may idle noDog
    have start {r : Except (Option Flt) Word} (got : s.fetchWord c x c.p.pc = (u, r)) := exec_clauseStart h ctx may idle noDog got
    refine ⟨start, fun f => start, fun w got apart => ⟨fun shut => ?_, fun flags leave ungranted => ?_, fun flags granted => ?_⟩⟩
    · exact (start got).trans (congrArg _ (State.headerGot_shut shut))
    · exact (start got).trans (congrArg _ (State.headerGot_asks apart flags leave ungranted))
    · have fetches {v : State} {r : Except (Option Flt × Nat) (List Word)}
          (rest : u.fetchClause c x (hdrCount w) (c.p.pc + 4) [] = (v, r)) : exec .clauseStart s = .next (v.clauseGot c w r) :=
        (start got).trans (congrArg _ (State.headerGot_fetches apart flags granted rest))
      refine ⟨fun v a => fetches, fun v f a => fetches, fun v ws rest => ⟨fun d iw fault => ?_, fun sound => ?_⟩⟩
      · exact (fetches rest).trans (congrArg (fun e => Host.Outcome.next (Option.elim e _ _)) fault)
      · exact clauseStarts h ctx may idle noDog got apart flags granted rest sound
  · intro s n
    obtain ⟨before, stop, le⟩ := s.span_spec n
    exact ⟨before, stop, le, rfl⟩
  · intro s c h may idle noDog stands
    exact ⟨fun mask pc join outer older => joinArrival_swaps h may idle noDog stands,
      fun mask pc join outer older => joinArrival_pops h may idle noDog stands,
      fun join outer fork written older q top other =>
        ⟨joinArrival_parks h may idle noDog stands top other, joinArrival_merges h may idle noDog stands top other⟩⟩
  · intro s core leaves enters input
    refine ⟨fun made => ?_, fun unmade => ?_⟩
    · obtain ⟨t, ht⟩ := made
      exact swaps_wait input (Bool.eq_false_iff.2 fun free => State.swapFree_iff.1 free t ht)
    · have free := State.swapFree_iff.2 unmade
      exact ⟨fun inside blocked longest => ⟨_, teamSwap_swaps input free inside blocked longest, State.swapTeams_core⟩,
        fun n since due oldest pending ready =>
          ⟨_, forcedSwap_swaps input free since due oldest pending ready, State.swapTeams_core⟩⟩
  · intro s r c hc
    exact ⟨askLeave_asks hc, askLeave_asked hc, fun since n input asked => ⟨leaveGrant_within hc input asked,
      leaveGrant_waits hc input asked, leaveGrant_due hc input asked⟩⟩
  · intro s die input
    exact ⟨droopStep_early input, fun due => ⟨droopStep_up input due, droopStep_down input due⟩⟩
  · intro s id d x t0 input grid started ctx
    have run := exec_watchdogExpiry input grid started ctx
    refine ⟨fun idle => run.trans (congrArg _ (if_pos idle)), fun live due => run.trans (congrArg _ (if_neg ?_))⟩
    rw [live]
    exact fun h => h.elim Bool.false_ne_true (Nat.not_lt.2 due)
  · intro s id
    exact ⟨fun ⟨g, hg, live, handles⟩ => State.expire_ends ⟨g, hg, live, handles⟩,
      fun calm gid g role k hg grid place hk => State.expire_warns calm hg grid place hk⟩

end Sys2Proof.Machine
end

section
/-! PROOFS. Instructions that act lane by lane or on the uniform file: what one that issues does, by its operand form (13 R282, R283,
R297), and the check that a field which must be zero is zero (12 R277). -/

namespace Sys2Proof.Machine

section
variable {i : Instr} {d : BitVec 6}

/-- An instruction whose meaning is `f` on the active lanes writes what `g` says where the two agree. -/
theorem laneWrite_of {s : State} {c : Cur} {f : Cur → Nat → Lane → Lane} {g : Nat → Lane → Lane} (h : Issues s i c)
    (run : exec i s = s.issue i fun c => s.lanewise c (f c)) (value : ∀ k l, f c k l = g k l) : LaneWrite s c g (exec i s) := by
  obtain rfl : f c = g := funext₂ value
  exact ⟨_, run.trans (issue_of h _), effect_lanewise h.1 _⟩

theorem computesV_of {f g : Lane → Word}
    (run : ∀ s, exec i s = s.issue i fun c => s.lanewise c fun _ l => l.setV d.toNat (f l)) (value : ∀ l, f l = g l) :
    ComputesV i d g :=
  fun s _ h => laneWrite_of h (run s) fun _ l => congrArg (l.setV d.toNat) (value l)

theorem computesV2_of {f g : Lane → Dbl}
    (run : ∀ s, exec i s = s.issue i fun c => s.lanewise c fun _ l => l.setV2 d.toNat (f l)) (value : ∀ l, f l = g l) :
    ComputesV2 i d g :=
  fun s _ h => laneWrite_of h (run s) fun _ l => congrArg (l.setV2 d.toNat) (value l)

theorem computesP_of {f g : Lane → Bool}
    (run : ∀ s, exec i s = s.issue i fun c => s.lanewise c fun _ l => l.setP d.toNat (f l)) (value : ∀ l, f l = g l) :
    ComputesP i d g :=
  fun s _ h => laneWrite_of h (run s) fun _ l => congrArg (l.setP d.toNat) (value l)

theorem computesS_of {f g : Cur → Path → Path} (run : ∀ s, exec i s = s.issue i fun c => s.uniform c (f c))
    (value : ∀ c p, f c p = g c p) (clause : ∀ c p, (g c p).clause = p.clause) : ComputesS i g := by
  obtain rfl : f = g := funext₂ value
  exact fun s c h => ⟨_, (run s).trans (issue_of h _), effect_uniform h.1 _ (clause c c.p)⟩

/-- A scalar floating-point instruction, with no enabled flag raised or with one (R229). -/
theorem computesF_of {f : Cur → Lane → FpLane} {g : Team → Lane → FpLane}
    (run : ∀ s, exec i s = s.issue i fun c => s.fpLanes c (f c)) (value : ∀ c l, f c l = g c.t l) : ComputesF i g := by
  intro s c h
  have effect : exec i s = .next (s.fpLanes c (g c.t)) := (run s).trans (funext (value c) ▸ issue_of h _)
  exact ⟨fun calm => ⟨_, effect, effect_fpLanes h.1 _ calm⟩, fun traps => effect.trans (congrArg _ (fpLanes_trap s c _ traps))⟩

end

/-- An instruction on single v registers that the team holds, whose B field must be zero and is not, fails that check alone. -/
theorem State.illegal_zero {s : State} {c : Cur} {i : Instr} {regs : List (BitVec 6)} {b : BitVec 6} (user : isSupervisor i = false)
    (own : i.fieldErrs = []) (uses : i.uses = (regs.map fun n => .v n 1 1) ++ [.zero b]) (hb : b ≠ 0)
    (held : ∀ n ∈ regs, n.toNat < c.t.vregs) : s.illegal i c [] = some 2 := by
  have aligned : (regs.map fun n => Use.v n 1 1).filterMap Use.err = [] := by
    rw [List.filterMap_eq_nil_iff, List.forall_mem_map]
    exact fun n _ => if_pos (Nat.mod_one _)
  have allocated : (regs.map fun n => Use.v n 1 1).filterMap (Use.allocErr c.t.vregs c.t.mregs) = [] := by
    rw [List.filterMap_eq_nil_iff, List.forall_mem_map]
    exact fun n hn => if_pos (held n hn)
  rw [State.illegal, own, uses, List.filterMap_append, List.filterMap_append, aligned, allocated, user]
  have fails : Use.err (.zero b) = some 2 := if_neg hb
  simp [List.filterMap_cons, fails, Use.allocErr, errIf, leastDetail]

end Sys2Proof.Machine
end

section
/-! PROOFS. Integer arithmetic (13 R284, R285). -/

namespace Sys2Proof.Machine

/-! ### Products and their high words (R284) -/

theorem ofInt_mul_toInt (a b : Word) : BitVec.ofInt 64 (a.toInt * b.toInt) = a.signExtend 64 * b.signExtend 64 :=
  BitVec.ofInt_mul ..

theorem ofNat_mul_toNat (a b : Word) : BitVec.ofNat 64 (a.toNat * b.toNat) = a.setWidth 64 * b.setWidth 64 := by
  rw [BitVec.ofNat_mul, BitVec.ofNat_toNat, BitVec.ofNat_toNat]

theorem extractLsb'_high_ofInt (x : Int) : (BitVec.ofInt 64 x).extractLsb' 32 32 = BitVec.ofInt 32 (x / 2 ^ 32) := by
  refine BitVec.eq_of_toNat_eq ?_
  rw [BitVec.extractLsb'_toNat, BitVec.toNat_ofInt, BitVec.toNat_ofInt, Nat.shiftRight_eq_div_pow]
  omega

theorem highWord_signed (a b : Word) :
    BitVec.ofInt 32 (a.toInt * b.toInt / 2 ^ 32) = (a.signExtend 64 * b.signExtend 64).extractLsb' 32 32 := by
  rw [← ofInt_mul_toInt, extractLsb'_high_ofInt]

theorem highWord_unsigned (a b : Word) :
    BitVec.ofNat 32 (a.toNat * b.toNat / 2 ^ 32) = (a.setWidth 64 * b.setWidth 64).extractLsb' 32 32 := by
  rw [← ofNat_mul_toNat, ← BitVec.ofInt_natCast, ← BitVec.ofInt_natCast, extractLsb'_high_ofInt]
  rfl

/-- Settles O11: each instruction is its row of Table 13-3 on the lanes, the products by the words of the exact one. -/
theorem integerArithmetic : Obligations.IntegerArithmetic := by
  unfold Obligations.IntegerArithmetic
  refine ⟨fun o => ?iadd, fun o => ?isub, fun o => ?imul, fun o => ?imad, fun o => ?imulhI32, fun o => ?imulhN32, fun o => ?imulwI32,
    fun o => ?imulwN32, fun o => ?iaddi, fun o => ?iadd64, fun o => ?isub64⟩
  case imulhI32 => exact computesV_of (fun _ => rfl) fun l => highWord_signed _ _
  case imulhN32 => exact computesV_of (fun _ => rfl) fun l => highWord_unsigned _ _
  case imulwI32 => exact computesV2_of (fun _ => rfl) fun l => ofInt_mul_toInt _ _
  case imulwN32 => exact computesV2_of (fun _ => rfl) fun l => ofNat_mul_toNat _ _
  case iadd64 | isub64 => exact computesV2_of (fun _ => rfl) fun _ => rfl
  case iadd | isub | imul | imad | iaddi => exact computesV_of (fun _ => rfl) fun _ => rfl

/-! ### Limits and addresses (R285) -/

/-- The absolute value wraps at the least number. -/
theorem ofInt_natAbs_toInt (a : Word) : BitVec.ofInt 32 a.toInt.natAbs = if a.msb then - a else a := by
  cases sign : a.msb
  case false =>
    have positive : (a.toInt.natAbs : Int) = a.toInt := by rw [BitVec.toInt_eq_msb_cond, sign]; simp
    rw [positive, BitVec.ofInt_toInt]
    rfl
  case true =>
    have negative : (a.toInt.natAbs : Int) = - a.toInt := by
      have := a.isLt
      rw [BitVec.toInt_eq_msb_cond, sign, if_pos rfl]
      omega
    rw [negative, BitVec.ofInt_neg, BitVec.ofInt_toInt]
    rfl

theorem clampWord_add (a b : Word) :
    clampWord (a.toInt + b.toInt) (-(2 ^ 31)) (2 ^ 31 - 1) =
      let x := a.toInt + b.toInt
      if 2 ^ 31 - 1 < x then 0x7FFFFFFF else if x < -(2 ^ 31) then 0x80000000 else a + b := by
  dsimp only
  rw [clampWord]
  split
  next low => rw [if_neg (by omega)]; rfl
  next =>
    split
    next => rfl
    next => rw [BitVec.ofInt_add, BitVec.ofInt_toInt, BitVec.ofInt_toInt]

theorem word_min_add (a b : Word) :
    word (min (a.toNat + b.toNat) 0xFFFFFFFF) = if 2 ^ 32 ≤ a.toNat + b.toNat then 0xFFFFFFFF else a + b := by
  split
  next big => rw [Nat.min_eq_right (by omega)]; rfl
  next small =>
    rw [Nat.min_eq_left (by omega)]
    rw [word, BitVec.ofNat_add, BitVec.ofNat_toNat, BitVec.ofNat_toNat, BitVec.setWidth_eq, BitVec.setWidth_eq]

theorem shiftLeft_eq_mul {w : Nat} (x : BitVec w) (n : Nat) : x <<< n = x * BitVec.ofNat w (2 ^ n) :=
  BitVec.eq_of_toNat_eq (by rw [BitVec.toNat_shiftLeft, BitVec.toNat_mul, BitVec.toNat_ofNat, Nat.shiftLeft_eq, Nat.mul_mod_mod])

/-- The instructions of one source whose B field must be zero (Tables 13-4 and 13-6). -/
theorem State.illegal_oneSource {s : State} {c : Cur} {o : OpG} (hb : o.b ≠ 0) (hd : o.d.toNat < c.t.vregs) (ha : o.a.toNat < c.t.vregs) :
    (∀ i ∈ [Instr.iabs o, .ineg o], s.illegal i c [] = some 2) ∧
    ∀ i ∈ [Instr.pmov o, .pnot o, .psetv o, .pgetv o], s.illegal i c [] = some 2 := by
  have check (regs : List (BitVec 6)) {i : Instr} (sub : regs ⊆ [o.d, o.a]) (user : isSupervisor i = false) (own : i.fieldErrs = [])
      (uses : i.uses = (regs.map fun n => .v n 1 1) ++ [.zero o.b]) : s.illegal i c [] = some 2 := by
    have both : ∀ n ∈ [o.d, o.a], n.toNat < c.t.vregs := by
      rw [List.forall_mem_cons, List.forall_mem_singleton]
      exact ⟨hd, ha⟩
    exact State.illegal_zero user own uses hb fun n hn => both n (sub hn)
  rw [List.forall_mem_cons, List.forall_mem_singleton, List.forall_mem_cons, List.forall_mem_cons, List.forall_mem_cons,
    List.forall_mem_singleton]
  exact ⟨⟨check [o.d, o.a] (by simp) rfl rfl rfl, check [o.d, o.a] (by simp) rfl rfl rfl⟩, check [] (by simp) rfl rfl rfl,
    check [] (by simp) rfl rfl rfl, check [o.a] (by simp) rfl rfl rfl, check [o.d] (by simp) rfl rfl rfl⟩

/-- Settles O12: each instruction is its row of Table 13-4 on the lanes; IABS and INEG are checked for a B field of zero. -/
theorem integerLimits : Obligations.IntegerLimits := by
  unfold Obligations.IntegerLimits
  refine ⟨fun o => ?iminI32, fun o => ?imaxI32, fun o => ?iminN32, fun o => ?imaxN32, fun o => ?iabs, fun o => ?ineg, fun o => ?iaddsI32,
    fun o => ?iaddsN32, fun o sh => ?lea, fun o hb s c look hd ha => ?zero⟩
  case iabs => exact computesV_of (fun _ => rfl) fun l => ofInt_natAbs_toInt _
  case ineg => exact computesV_of (fun _ => rfl) fun l => BitVec.zero_sub _
  case iaddsI32 => exact computesV_of (fun _ => rfl) fun l => clampWord_add _ _
  case iaddsN32 => exact computesV_of (fun _ => rfl) fun l => word_min_add _ _
  case lea => exact computesV2_of (fun _ => rfl) fun l => congrArg _ (shiftLeft_eq_mul _ _)
  case iminI32 | imaxI32 | iminN32 | imaxN32 => exact computesV_of (fun _ => rfl) fun _ => rfl
  case zero =>
    obtain ⟨illegal, -⟩ := State.illegal_oneSource (s := s) hb hd ha
    exact ⟨issue_illegal look (illegal _ (by simp)) _, issue_illegal look (illegal _ (by simp)) _⟩

end Sys2Proof.Machine
end

section
/-! PROOFS. Logic, shifts, rotations and bit counts (13 R286), bit fields, moves and compares (13 R287 to R289). -/

namespace Sys2Proof.Machine

/-! ### Shifts and rotations (R286) -/

section
variable {w : Nat} (a : BitVec w) (n : Nat)

theorem shlW_eq : shlW a n = BitVec.ofNat w (a.toNat * 2 ^ n) := by
  refine BitVec.eq_of_toNat_eq ?_
  rw [shlW, BitVec.toNat_ofNat]
  split
  next wide =>
    obtain ⟨k, rfl⟩ := Nat.exists_eq_add_of_le wide
    rw [pow_add, Nat.mul_left_comm, Nat.mul_mod_right]
    rfl
  next => rw [BitVec.toNat_shiftLeft, Nat.shiftLeft_eq]

theorem shrW_eq : shrW a n = BitVec.ofNat w (a.toNat / 2 ^ n) := by
  refine BitVec.eq_of_toNat_eq ?_
  rw [shrW, BitVec.toNat_ofNat, Nat.mod_eq_of_lt ((Nat.div_le_self _ _).trans_lt a.isLt)]
  split
  next wide => exact (Nat.div_eq_of_lt (a.isLt.trans_le (Nat.pow_le_pow_right Nat.two_pos wide))).symm
  next => rw [BitVec.toNat_ushiftRight, Nat.shiftRight_eq_div_pow]

/-- A number below 2^m in magnitude leaves its sign alone in every shift by m bits or more. -/
theorem ediv_two_pow_of_le {x : Int} {m : Nat} (low : -(2 ^ m) ≤ x) (high : x < 2 ^ m) (wide : m ≤ n) : x / 2 ^ n = x / 2 ^ m := by
  have pos : (0 : Int) < 2 ^ m := Int.pow_pos (by decide)
  have larger : (2 : Int) ^ m ≤ 2 ^ n := pow_le_pow_right₀ (by decide) wide
  rcases lt_or_ge x 0 with negative | positive
  · rw [Int.ediv_eq_neg_one_of_neg_of_le negative (by omega), Int.ediv_eq_neg_one_of_neg_of_le negative (by omega)]
  · rw [Int.ediv_eq_zero_of_lt positive (by omega), Int.ediv_eq_zero_of_lt positive high]

theorem sarW_eq : sarW a n = BitVec.ofInt w (a.toInt / 2 ^ n) := by
  rw [sarW, BitVec.sshiftRight_eq, Int.shiftRight_eq_div_pow, Int.natCast_pow, Nat.cast_ofNat]
  rcases Nat.le_total n (w - 1) with small | large
  · rw [Nat.min_eq_left small]
  · rw [Nat.min_eq_right large, ediv_two_pow_of_le n a.le_toInt a.toInt_lt large]

end

theorem rolW_eq_rotateRight (a : Word) (n : Nat) : rolW a (32 - n % 32) = a.rotateRight (n % 32) := by
  have count := Nat.mod_lt n (show 0 < 32 by decide)
  rw [rolW]
  rcases Nat.eq_zero_or_pos (n % 32) with none | some
  · rw [none]
    exact BitVec.eq_of_getLsbD_eq fun i hi => by simp [hi]
  · rw [Nat.mod_eq_of_lt (by omega), BitVec.rotateLeft_eq_rotateLeftAux_of_lt (by omega),
      BitVec.rotateRight_eq_rotateRightAux_of_lt count, BitVec.rotateLeftAux, BitVec.rotateRightAux, Nat.sub_sub_self count.le,
      BitVec.or_comm]

/-! ### Bit counts (R286) -/

theorem popCount_eq (a : Word) : popCount a = (List.range 32).countP a.getLsbD := by
  rw [popCount, bitList, List.countP_eq_length_filter]

theorem leadingZeros_eq (a : Word) : leadingZeros a = ((List.range 32).find? fun i => a.getLsbD (31 - i)).getD 32 := by
  rw [leadingZeros]
  split
  next zero => rw [zero]; rfl
  next some =>
    have number : a.toNat ≠ 0 := fun zero => some (BitVec.eq_of_toNat_eq zero)
    have short : a.toNat.log2 < 32 := (Nat.log2_lt number).2 a.isLt
    have first : (List.range 32).find? (fun i => a.getLsbD (31 - i)) = .some (31 - a.toNat.log2) := by
      refine List.find?_range_eq_some.2 ⟨?_, List.mem_range.2 (by omega), fun j hj => ?_⟩
      · rw [Nat.sub_sub_self (by omega)]
        exact Nat.testBit_log2 number
      · rw [Bool.not_eq_true', BitVec.getLsbD]
        exact Nat.testBit_lt_two_pow (Nat.lt_log2_self.trans_le (Nat.pow_le_pow_right Nat.two_pos (by omega)))
    rw [first, Option.getD_some]

theorem trailingZeros_eq (a : Word) : trailingZeros a = ((List.range 32).find? a.getLsbD).getD 32 := by
  rw [trailingZeros, ← List.head?_filter, ← bitList]
  cases bitList a 32 <;> rfl

theorem getLsbD_bitReverse (a : Word) {i : Nat} (hi : i < 32) : (bitReverse a).getLsbD i = a.getLsbD (31 - i) := by
  rw [bitReverse, BitVec.getLsbD_reverse, BitVec.getMsbD, decide_eq_true hi, Bool.true_and, Nat.sub_sub, Nat.add_comm, ← Nat.sub_sub]

theorem getLsbD_byteReverse (a : Word) {k : Nat} (hk : k < 32) :
    (byteReverse a).getLsbD k = a.getLsbD (8 * (3 - k / 8) + k % 8) := by
  simp only [byteReverse, BitVec.getLsbD_append, BitVec.getLsbD_extractLsb']
  split_ifs <;> (rw [decide_eq_true (by omega), Bool.true_and]; congr 1; omega)

theorem extractLsb'_byteReverse (a : Word) {i : Nat} (hi : i < 4) :
    (byteReverse a).extractLsb' (8 * i) 8 = a.extractLsb' (8 * (3 - i)) 8 := by
  refine BitVec.eq_of_getLsbD_eq fun j hj => ?_
  have place : 8 * (3 - (8 * i + j) / 8) + (8 * i + j) % 8 = 8 * (3 - i) + j := by omega
  rw [BitVec.getLsbD_extractLsb', BitVec.getLsbD_extractLsb', getLsbD_byteReverse a (by omega), place]

/-- Settles O13: each instruction is its row of Table 13-5 on the lanes, the shifts as products and quotients whatever their count. -/
theorem logicAndShifts : Obligations.LogicAndShifts := by
  unfold Obligations.LogicAndShifts
  refine ⟨fun o => ?andV, fun o => ?orV, fun o => ?xorV, fun o => ?andn, fun o => ?orn, fun o => ?xnor, fun o => ?shl, fun o => ?shr,
    fun o => ?sar, fun o => ?rol, fun o => ?ror, fun o => ?shl64, fun o => ?shr64, fun o => ?sar64, fun o => ?popc, fun o => ?clz,
    fun o => ?ctz, fun o => ⟨_, ?brev, fun l i hi => getLsbD_bitReverse (l.getV o.a.toNat) hi⟩,
    fun o => ⟨_, ?bswap, fun l i hi => extractLsb'_byteReverse (l.getV o.a.toNat) hi⟩, fun o => ?notV⟩
  case shl => exact computesV_of (fun _ => rfl) fun l => shlW_eq _ _
  case shr => exact computesV_of (fun _ => rfl) fun l => shrW_eq _ _
  case sar => exact computesV_of (fun _ => rfl) fun l => sarW_eq _ _
  case ror => exact computesV_of (fun _ => rfl) fun l => rolW_eq_rotateRight _ _
  case shl64 => exact computesV2_of (fun _ => rfl) fun l => shlW_eq _ _
  case shr64 => exact computesV2_of (fun _ => rfl) fun l => shrW_eq _ _
  case sar64 => exact computesV2_of (fun _ => rfl) fun l => sarW_eq _ _
  case popc => exact computesV_of (fun _ => rfl) fun l => congrArg word (popCount_eq _)
  case clz => exact computesV_of (fun _ => rfl) fun l => congrArg word (leadingZeros_eq _)
  case ctz => exact computesV_of (fun _ => rfl) fun l => congrArg word (trailingZeros_eq _)
  case andV | orV | xorV | andn | orn | xnor | rol | brev | bswap | notV => exact computesV_of (fun _ => rfl) fun _ => rfl

/-! ### Bit fields, moves and compares (R287 to R289) -/

/-- A field that is moved up to the sign bit and back is sign-extended. -/
theorem signedField (a : Word) (pos : Nat) {len : Nat} (hlen : len < 32) :
    sarW ((a >>> pos) <<< (31 - len)) (31 - len) = (a.extractLsb' pos (len + 1)).signExtend 32 := by
  refine BitVec.eq_of_getLsbD_eq fun i hi => ?_
  rw [sarW, Nat.min_eq_left (by omega), BitVec.getLsbD_sshiftRight, BitVec.getLsbD_signExtend, BitVec.msb_eq_getLsbD_last,
    BitVec.msb_eq_getLsbD_last]
  by_cases inside : i < len + 1
  · have low : 31 - len + i < 32 := by omega
    simp [hi, inside, low]
  · have high : ¬ 31 - len + i < 32 := by omega
    have sign : ¬ 31 < 31 - len := by omega
    simp [Nat.not_le.2 hi, hi, inside, high, sign, Nat.sub_sub_self (Nat.le_of_lt_succ hlen)]

theorem getLsbD_fieldMask {n : Nat} (i : Nat) (hn : n ≤ 32) : (fieldMask n).getLsbD i = decide (i < n) := by
  rw [fieldMask, word, BitVec.getLsbD_ofNat, Nat.testBit_two_pow_sub_one, ← Bool.decide_and]
  exact decide_eq_decide.2 (by omega)

theorem unsignedField (a : Word) (pos : Nat) {len : Nat} (hlen : len < 32) :
    (a >>> pos) &&& fieldMask (len + 1) = (a.extractLsb' pos (len + 1)).setWidth 32 := by
  refine BitVec.eq_of_getLsbD_eq fun i hi => ?_
  rw [BitVec.getLsbD_and, getLsbD_fieldMask i hlen]
  simp [hi, Bool.and_comm]

theorem getLsbD_insertField (a d : Word) (pos : Nat) {len i : Nat} (hlen : len < 32) (hi : i < 32) :
    ((d &&& ~~~ (fieldMask (len + 1) <<< pos)) ||| ((a &&& fieldMask (len + 1)) <<< pos)).getLsbD i =
      if pos ≤ i ∧ i ≤ pos + len then a.getLsbD (i - pos) else d.getLsbD i := by
  simp only [BitVec.getLsbD_or, BitVec.getLsbD_and, BitVec.getLsbD_not, BitVec.getLsbD_shiftLeft, getLsbD_fieldMask _ hlen, hi,
    decide_true, Bool.true_and]
  by_cases inside : pos ≤ i ∧ i ≤ pos + len
  · have start : ¬ i < pos := by omega
    have short : i - pos < len + 1 := by omega
    simp [inside, start, short]
  · rcases Nat.lt_or_ge i pos with before | after
    · simp [before]
    · have beyond : ¬ i - pos < len + 1 := by omega
      rw [if_neg inside]
      simp [beyond]

/-- Conditions CC 0 to 5 on words that are compared by a key (R289). -/
theorem icond_compare {α : Type} [LinearOrder α] {key : Word → α} (inj : Function.Injective key) {lt le : Word → Word → Bool}
    (hlt : ∀ a b, lt a b = decide (key a < key b)) (hle : ∀ a b, le a b = decide (key a ≤ key b)) (cc : BitVec 3) (a b : Word) :
    icond cc (compare (key a) (key b)) = match cc.toNat with
      | 0 => a == b | 1 => a != b | 2 => lt a b | 3 => le a b | 4 => lt b a | _ => le b a := by
  simp only [icond, hlt, hle, compare_eq_iff_eq, compare_lt_iff_lt, compare_gt_iff_gt, inj.eq_iff, ne_eq]
  generalize cc.toNat = k
  match k with
  | 0 | 2 | 4 => rfl
  | 1 => exact decide_not
  | 3 | _ + 5 => exact decide_eq_decide.2 not_lt

theorem icond_signed (cc : BitVec 3) (a b : Word) :
    icond cc (compare a.toInt b.toInt) = match cc.toNat with
      | 0 => a == b | 1 => a != b | 2 => a.slt b | 3 => a.sle b | 4 => b.slt a | _ => b.sle a :=
  icond_compare (key := BitVec.toInt) (fun _ _ => BitVec.toInt_inj.1) (fun _ _ => rfl) (fun _ _ => rfl) cc a b

theorem icond_unsigned (cc : BitVec 3) (a b : Word) :
    icond cc (compare a.toNat b.toNat) = match cc.toNat with
      | 0 => a == b | 1 => a != b | 2 => a.ult b | 3 => a.ule b | 4 => b.ult a | _ => b.ule a :=
  icond_compare (key := BitVec.toNat) (fun _ _ => BitVec.eq_of_toNat_eq) (fun _ _ => rfl) (fun _ _ => rfl) cc a b

/-- Settles O14: fields by their bits, compares by the order that they read. -/
theorem fieldsMovesCompares : Obligations.FieldsMovesCompares := by
  unfold Obligations.FieldsMovesCompares
  refine ⟨fun o x => ?bfeI32, fun o x => ?bfeN32,
    fun o x => ⟨_, ?bfi, fun l i hi => getLsbD_insertField (l.getV o.a.toNat) (l.getV o.d.toNat) x.pos.toNat x.len.isLt hi⟩,
    fun o => ?mov, fun o x => ?movk, fun o x => ?movkW, fun o x => ?sel, fun o => ?icmpI32, fun o => ?icmpN32⟩
  case bfeI32 => exact computesV_of (fun _ => rfl) fun l => signedField _ _ x.len.isLt
  case bfeN32 => exact computesV_of (fun _ => rfl) fun l => unsignedField _ _ x.len.isLt
  case movkW => exact computesV2_of (fun _ => rfl) fun _ => rfl
  case icmpI32 => exact computesP_of (fun _ => rfl) fun l => icond_signed _ _ _
  case icmpN32 => exact computesP_of (fun _ => rfl) fun l => icond_unsigned _ _ _
  case bfi | mov | movk | sel => exact computesV_of (fun _ => rfl) fun _ => rfl

end Sys2Proof.Machine
end

section
/-! PROOFS. Predicate logic (13 R290) and the instructions that cross lanes: votes, crossings, quad exchanges, folds and NZS (13 R291 to
R296). -/

namespace Sys2Proof.Machine

/-! ### Votes (R292) -/

section
variable (c : Cur) (g : Guard) (pa : BitVec 6)

theorem Cur.voters_any : (! (c.voters g pa).isEmpty) = (c.workers g).any fun k => (c.t.lane k).getP pa.toNat := by
  rw [Cur.voters, Bool.eq_iff_iff]
  simp

theorem Cur.voters_all :
    decide ((c.voters g pa).length = (c.workers g).length) = (c.workers g).all fun k => (c.t.lane k).getP pa.toNat := by
  rw [Cur.voters, Bool.eq_iff_iff, decide_eq_true_iff, List.length_filter_eq_length_iff, List.all_eq_true]

theorem Cur.voters_count : (c.voters g pa).length = (c.workers g).countP fun k => (c.t.lane k).getP pa.toNat :=
  List.countP_eq_length_filter.symm

end

theorem getLsbD_zeroWord (j : Nat) : (0 : Word).getLsbD j = false := BitVec.getLsbD_zero

/-- A mask word with the bits of some lanes' positions set. -/
theorem getLsbD_foldl_setBit (ls : List Nat) (m : Word) {j : Nat} (hj : j < 32) :
    (ls.foldl (fun m l => m ||| (1#32 <<< (l % 32))) m).getLsbD j = (m.getLsbD j || ls.any fun l => l % 32 == j) := by
  induction ls generalizing m with
  | nil => simp
  | cons l ls ih =>
    have bit : (1#32 <<< (l % 32)).getLsbD j = (l % 32 == j) := by
      rw [BitVec.getLsbD_shiftLeft, BitVec.getLsbD_one, Bool.eq_iff_iff]
      simp
      omega
    rw [List.foldl_cons, ih, BitVec.getLsbD_or, bit, List.any_cons, Bool.or_assoc]

theorem Cur.getLsbD_ballot (c : Cur) (g : Guard) (pa : BitVec 6) (w : Nat) {j : Nat} (hj : j < 32) :
    (((c.voters g pa).filter fun l => l / 32 = w).foldl (fun m l => m ||| (1#32 <<< (l % 32))) 0).getLsbD j =
      (c.workers g).any fun k => k == 32 * w + j && (c.t.lane k).getP pa.toNat := by
  rw [getLsbD_foldl_setBit _ _ hj, getLsbD_zeroWord, Bool.false_or, List.any_filter, Cur.voters, List.any_filter]
  refine List.any_congr rfl fun k => ?_
  have place : (decide (k / 32 = w) && k % 32 == j) = (k == 32 * w + j) := by
    rw [Bool.eq_iff_iff]
    simp
    omega
  rw [place, Bool.and_comm]

/-- Settles O15: predicate logic lane by lane, the votes by what they read of the participants' predicate. -/
theorem predicatesAndVotes : Obligations.PredicatesAndVotes := by
  unfold Obligations.PredicatesAndVotes
  refine ⟨⟨fun o => ?pand, fun o => ?por, fun o => ?pxor, fun o => ?pandn, fun o => ?pmov, fun o => ?pnot, fun o => ?psetv, fun o => ?pgetv,
    fun s c o look hb hd ha => ?zero, fun l b => ⟨rfl, getP_seven l⟩⟩,
    fun s c o => ⟨fun h => ?voteAny, fun h => ?voteAll, fun h => ⟨_, ?voteBallot, fun j hj => c.getLsbD_ballot s.guard o.a _ hj⟩,
      fun h => ?voteCount⟩⟩
  case psetv => exact computesP_of (fun _ => rfl) fun l => decide_not
  case pgetv => exact computesV_of (fun _ => rfl) fun _ => rfl
  case pand | por | pxor | pandn | pmov | pnot => exact computesP_of (fun _ => rfl) fun _ => rfl
  case zero =>
    obtain ⟨-, illegal⟩ := State.illegal_oneSource (s := s) hb hd ha
    simp only [List.forall_mem_cons, List.not_mem_nil, IsEmpty.forall_iff, implies_true, and_true] at illegal ⊢
    obtain ⟨pmov, pnot, psetv, pgetv⟩ := illegal
    exact ⟨issue_illegal look pmov _, issue_illegal look pnot _, issue_illegal look psetv _, issue_illegal look pgetv _⟩
  case voteAny => exact laneWrite_of h rfl fun _ l => congrArg (l.setP _) (c.voters_any s.guard o.a)
  case voteAll => exact laneWrite_of h rfl fun _ l => congrArg (l.setP _) (c.voters_all s.guard o.a)
  case voteBallot => exact laneWrite_of h rfl fun _ _ => rfl
  case voteCount => exact laneWrite_of h rfl fun _ l => congrArg (fun n => l.setV _ (word n)) (c.voters_count s.guard o.a)

/-! ### Crossings and quad exchanges (R293, R294) -/

/-- Settles O16: each form reads the lane at its crossing position or its partner. -/
theorem crossLaneMoves : Obligations.CrossLaneMoves := by
  unfold Obligations.CrossLaneMoves
  constructor
  · intro s c o from_ gives
    have reads (l : Nat) (t : Int) : cableFrom (c.act s.guard) l t = from_ l t :=
      if_congr (by rw [List.contains_iff_mem]) rfl rfl
    have crosses (t : Int) (l : Nat) (r : Lane) := congrArg (fun k => r.setV o.d.toNat ((c.t.lane k).getV o.a.toNat)) (reads l t)
    exact ⟨fun h => laneWrite_of h rfl fun l r => crosses _ l r, fun h => laneWrite_of h rfl fun l r => crosses _ l r,
      fun h => laneWrite_of h rfl fun l r => crosses _ l r, fun h => laneWrite_of h rfl fun l r => crosses _ l r⟩
  · intro s c o takes
    refine ⟨?_, ?_, ?_, ?_, ?_, ?_, ?_⟩ <;> exact fun h => laneWrite_of h rfl fun _ _ => rfl

/-! ### Folds (R295) -/

section
variable {before : Word → Word → Prop} [DecidableRel before] (total : ∀ a b, before a b ∨ before b a)
  (trans : ∀ {a b c}, before a b → before b c → before a c)
include total trans

/-- A fold that keeps the earlier of two in an order gives the first of its terms. -/
theorem foldl_first (z : Word) (as : List Word) :
    as.foldl (fun a b => if before a b then a else b) z ∈ z :: as ∧
      ∀ x ∈ z :: as, before (as.foldl (fun a b => if before a b then a else b) z) x := by
  have refl (a : Word) : before a a := (total a a).elim id id
  induction as generalizing z with
  | nil => exact ⟨List.mem_singleton.2 rfl, fun x hx => List.mem_singleton.1 hx ▸ refl z⟩
  | cons a as ih =>
    rw [List.foldl_cons]
    obtain ⟨member, first⟩ := ih (if before z a then z else a)
    rw [List.forall_mem_cons] at first
    obtain ⟨least, rest⟩ := first
    split at member
    next keeps =>
      rw [if_pos keeps] at least rest ⊢
      exact ⟨List.mem_cons.2 ((List.mem_cons.1 member).imp_right (List.mem_cons_of_mem a)),
        List.forall_mem_cons.2 ⟨least, List.forall_mem_cons.2 ⟨trans least keeps, rest⟩⟩⟩
    next takes =>
      rw [if_neg takes] at least rest ⊢
      exact ⟨List.mem_cons_of_mem _ member, List.forall_mem_cons.2 ⟨trans least ((total z a).resolve_left takes),
        List.forall_mem_cons.2 ⟨least, rest⟩⟩⟩

/-- From a last term on, it gives that term for no others, and else the first of the others. -/
theorem foldl_first_of_last (antisymm : ∀ {a b}, before a b → before b a → a = b) {z : Word} (last : ∀ x, before x z) (as : List Word) :
    let r := as.foldl (fun a b => if before a b then a else b) z
    if as = [] then r = z else r ∈ as ∧ ∀ x ∈ as, before r x := by
  intro r
  obtain ⟨member, first⟩ : r ∈ z :: as ∧ ∀ x ∈ z :: as, before r x := foldl_first total trans z as
  split
  next none => subst none; rfl
  next some =>
    refine ⟨?_, fun x hx => first x (List.mem_cons_of_mem z hx)⟩
    rcases List.mem_cons.1 member with same | inside
    · obtain ⟨a, ha⟩ := List.exists_mem_of_ne_nil as some
      rwa [antisymm (first a (List.mem_cons_of_mem z ha)) (same ▸ last a)]
    · exact inside

end

section
variable (as : List Word) (z : Word) (j : Nat)

theorem getLsbD_foldl_and : (as.foldl (fun a b => a &&& b) z).getLsbD j = (z.getLsbD j && as.all fun x => x.getLsbD j) := by
  induction as generalizing z with
  | nil => simp
  | cons a as ih => rw [List.foldl_cons, ih, BitVec.getLsbD_and, List.all_cons, Bool.and_assoc]

theorem getLsbD_foldl_or : (as.foldl (fun a b => a ||| b) z).getLsbD j = (z.getLsbD j || as.any fun x => x.getLsbD j) := by
  induction as generalizing z with
  | nil => simp
  | cons a as ih => rw [List.foldl_cons, ih, BitVec.getLsbD_or, List.any_cons, Bool.or_assoc]

theorem getLsbD_foldl_xor :
    (as.foldl (fun a b => a ^^^ b) z).getLsbD j = (z.getLsbD j ^^ decide ((as.countP fun x => x.getLsbD j) % 2 = 1)) := by
  induction as generalizing z with
  | nil => simp
  | cons a as ih =>
    rw [List.foldl_cons, ih, BitVec.getLsbD_xor, List.countP_cons, Bool.xor_assoc]
    cases a.getLsbD j <;> grind

end

/-- Flags raised in the team, and active lanes changed. -/
theorem effect_raise_lanewise {s : State} {c : Cur} (h : s.look = some c) (flags : FFlags) (f : Nat → Lane → Lane) :
    Effect s c f (fun u => u.raise flags) id ((s.modTeam c.r.gid c.r.role fun t => t.raise flags).lanewise c f) := by
  obtain ⟨-, -, -, path⟩ := State.at_some.1 (State.look_at h)
  rw [State.lanewise, State.modTeam_guard, State.modTeam_modTeam]
  refine effect_modTeam h _ rfl (fun l => ?_) (fun _ _ => rfl) path rfl rfl
  exact (tget_map c.t.lanes (fun k x => if (c.act s.guard).contains k then f k x else x) l).trans (by simp)

/-- Bits whose exponent field is zero hold a number (R226). -/
theorem Fmt.unpack_exponent_zero {f : Fmt} {b : Nat} (h : bitsOf b f.fb f.eb = 0) (he : f.eb ≠ 0) :
    f.unpack b = .fin (bitOf b (f.eb + f.fb)) (bitsOf b 0 f.fb) f.qmin := by
  have large : 0 ≠ 2 ^ f.eb - 1 := by
    have := Nat.one_lt_two_pow he
    omega
  simp only [Fmt.unpack, h, large, false_and, if_false, if_true]

/-- The f32 sum of one term: its value under FTZ, a NaN as the canonical one. -/
theorem foldSum_singleton (rm : Nat) (ftz : Bool) (x : Word) :
    foldSum rm ftz [x] = match f32.unpack x.toNat with
      | .nan b => { bits := 0x7FC00000, flags := if b then flagIV else 0 }
      | _ => { bits := f32.flushIn ftz x.toNat, flags := 0 } := by
  change foldFirst ftz x.toNat = _
  rw [foldFirst, Fmt.value]
  by_cases small : (ftz && decide (bitsOf x.toNat f32.fb f32.eb = 0)) = true
  · have flushed : f32.flushIn ftz x.toNat = f32.signBit (bitOf x.toNat (f32.eb + f32.fb)) := if_pos small
    have zero (neg : Bool) : bitsOf (f32.signBit neg) f32.fb f32.eb = 0 := by cases neg <;> rfl
    obtain ⟨-, exponent⟩ := Bool.and_eq_true_iff.1 small
    rw [flushed, Fmt.unpack_exponent_zero (zero _) (by decide), Fmt.unpack_exponent_zero (of_decide_eq_true exponent) (by decide)]
  · have kept : f32.flushIn ftz x.toNat = x.toNat := if_neg small
    rw [kept]
    rfl

theorem foldSum_concat (rm : Nat) (ftz : Bool) {l : List Word} (y : Word) (some : l ≠ []) :
    foldSum rm ftz (l ++ [y]) =
      let a := foldSum rm ftz l
      let b := f32.add rm ftz a.bits y.toNat
      { bits := b.bits, flags := a.flags ||| b.flags } := by
  obtain ⟨x, xs, rfl⟩ := List.exists_cons_of_ne_nil some
  exact List.foldl_concat ..

theorem exec_foldFadd {s : State} {c : Cur} {o : OpG} (h : Issues s (.foldFadd o) c) :
    exec (.foldFadd o) s = .next (
      let r := foldSum c.t.rm c.t.ftz (c.gather s.guard o.a)
      let u := s.modTeam c.r.gid c.r.role fun t => t.raise r.flags
      if r.flags &&& c.t.te = 0 then u.lanewise c fun _ l => l.setV o.d.toNat (word r.bits)
      else u.takeTrap c.r 0x0A 0 0 (laneSet (c.workers s.guard)) false) :=
  issue_of h _

/-- Settles O17: each fold by its law, the f32 sum by its recursion. -/
theorem folds : Obligations.Folds := by
  unfold Obligations.Folds
  intro s c o as gives
  have writes {i : Instr} {f : Word → Word → Word} {z : Word} {P : Word → Prop} (run : exec i s = s.issue i fun c => s.fold c o f z)
      (law : P (as.foldl f z)) : gives i P := fun h => ⟨_, law, laneWrite_of h run fun _ _ => rfl⟩
  refine ⟨writes rfl ?add, writes rfl ?min, writes rfl ?max, writes rfl fun j hj => ?and, writes rfl fun j hj => ?or,
    writes rfl fun j hj => ?xor, fun h => ⟨fun calm => ?sum, fun traps => ?trap⟩, fun none => congrArg _ none,
    foldSum_singleton c.t.rm c.t.ftz, fun l y some => foldSum_concat c.t.rm c.t.ftz y some⟩
  case add => exact List.sum_eq_foldl.symm
  case min =>
    exact foldl_first_of_last (before := fun a b => a.toInt ≤ b.toInt) (fun a b => Int.le_total _ _) Int.le_trans
      (fun le ge => BitVec.toInt_inj.1 (Int.le_antisymm le ge)) 
      (z := 0x7FFFFFFF) (fun x => Int.le_of_lt_add_one x.toInt_lt) as
  case max =>
    exact foldl_first_of_last (before := fun a b => b.toInt ≤ a.toInt) (fun a b => Int.le_total _ _) (fun ab bc => Int.le_trans bc ab)
      (fun ge le => BitVec.toInt_inj.1 (Int.le_antisymm le ge)) 
      (z := 0x80000000) (fun x => x.le_toInt) as
  case and =>
    have ones : (0xFFFFFFFF : Word).getLsbD j = true := (BitVec.getLsbD_allOnes (v := 32)).trans (decide_eq_true hj)
    rw [getLsbD_foldl_and, ones, Bool.true_and]
  case or => rw [getLsbD_foldl_or, getLsbD_zeroWord, Bool.false_or]
  case xor => rw [getLsbD_foldl_xor, getLsbD_zeroWord, Bool.false_xor]
  case sum => exact ⟨_, (exec_foldFadd h).trans (congrArg _ (if_pos calm)), effect_raise_lanewise h.1 _ _⟩
  case trap => exact (exec_foldFadd h).trans (congrArg _ (if_neg traps))

/-! ### NZS (R296) -/

/-- What NZS gives a lane: the number at its place in the list, or all ones beyond its end. -/
theorem nzsNumber_eq (z : List Nat) (l : Nat) :
    (match z[l]? with | some k => word k | none => 0xFFFFFFFF) = if h : l < z.length then word z[l] else 0xFFFFFFFF := by
  split
  next k found =>
    obtain ⟨inside, rfl⟩ := List.getElem?_eq_some_iff.1 found
    rw [dif_pos inside]
  next none => rw [dif_neg (List.getElem?_eq_none_iff.1 none).not_gt]

/-- Settles O18: the lanes read the list of participants by their number, and the path its length. -/
theorem nzsCompacts : Obligations.NzsCompacts := by
  unfold Obligations.NzsCompacts
  intro s c o h z
  refine ⟨_, issue_of h _, ?_⟩
  simp only [← nzsNumber_eq]
  split
  · exact effect_lanewise h.1 _
  · exact effect_modPath_mapLanes h.1 _ _ rfl

end Sys2Proof.Machine
end

section
/-! PROOFS. Uniform instructions, and values between the uniform file and the lanes (13 R297 to R299). -/

namespace Sys2Proof.Machine

/-- A uniform instruction in a path some of whose lanes are active. -/
theorem effect_uniform_active {s : State} {c : Cur} (h : s.look = some c) (f : Path → Path) (clause : (f c.p).clause = c.p.clause)
    (active : c.act s.guard ≠ []) : Effect s c (fun _ x => x) id f (s.uniform c f) := by
  have effect := effect_uniform h f clause
  rwa [if_neg (by rwa [List.isEmpty_iff])] at effect

/-- SFIRST (R299): the lowest participant's register, or none. -/
theorem sfirst_effect {s : State} {c : Cur} {o : OpG} (h : Issues s (.sfirst o) c) : ∃ t, exec (.sfirst o) s = .next t ∧
    Effect s c (fun _ l => l) id
      (match c.workers s.guard with
        | [] => id
        | l :: _ => fun p => p.setS o.d.toNat ((c.t.lane l).getV o.a.toNat)) t := by
  refine ⟨_, issue_of h _, ?_⟩
  cases first : c.workers s.guard with
  | nil => exact effect_advance h.1 _ fun _ => .inr rfl
  | cons l ls =>
    have active : c.act s.guard ≠ [] := fun none => by simp [Cur.workers, none] at first
    exact effect_uniform_active h.1 _ rfl active

/-- Settles O19: uniform arithmetic by its rows on the path's file, the moves by what they read. -/
theorem uniformFile : Obligations.UniformFile := by
  unfold Obligations.UniformFile
  constructor
  case left =>
    intro binary
    refine ⟨fun o => ?sadd, fun o => ?ssub, fun o => ?smul, fun o => ?sand, fun o => ?sor, fun o => ?sxor, fun o => ?sshl, fun o => ?sshr,
      fun o => ?saddi, fun o x => ?smovk, fun o x => ?smovkW, fun s c o h => ?scmp⟩
    case sshl => exact computesS_of (fun _ => rfl) (fun _ p => congrArg (p.setS _) (shlW_eq _ _)) fun _ _ => rfl
    case sshr => exact computesS_of (fun _ => rfl) (fun _ p => congrArg (p.setS _) (shrW_eq _ _)) fun _ _ => rfl
    case scmp => exact laneWrite_of h rfl fun _ l => congrArg (l.setP _) (icond_signed _ _ _)
    case sadd | ssub | smul | sand | sor | sxor | saddi | smovk | smovkW =>
      exact computesS_of (fun _ => rfl) (fun _ _ => rfl) fun _ _ => rfl
  case right =>
    refine ⟨fun s c o h => ?vbc, fun s c o => sfirst_effect, fun o => ?slane⟩
    case vbc => exact laneWrite_of h rfl fun _ _ => rfl
    case slane =>
      refine computesS_of (fun _ => rfl) (fun c p => congrArg (p.setS _) ?_) fun _ _ => rfl
      cases tget c.t.lanes (c.p.getS o.b.toNat).toNat <;> rfl

end Sys2Proof.Machine
end

section
/-! PROOFS. Floating point in the lanes (10 R229, R233, 13 R301 to R309): f32, packed and f64 arithmetic, the function instructions and
CVT. -/

namespace Sys2Proof.Machine

/-! ### f32 (R301 to R303, R306) -/

/-- A word without its sign bit. -/
theorem word_mod_half (n : Nat) : word (n % 2 ^ 31) = word n &&& 0x7FFFFFFF := by
  have mask : ((0x7FFFFFFF : Word)).toNat = 2 ^ 31 - 1 := rfl
  refine BitVec.eq_of_toNat_eq ?_
  rw [BitVec.toNat_and, word_toNat, word_toNat, mask, Nat.and_two_pow_sub_one_eq_mod]
  omega

/-- Settles O21: each instruction is its operation on the lanes, with the flags and the trap of every scalar instruction. -/
theorem singleArithmetic : Obligations.SingleArithmetic := by
  unfold Obligations.SingleArithmetic
  intro unary binary
  refine ⟨fun o => ?fadd, fun o => ?fsub, fun o => ?fmul, fun o => ?ffma, fun o => ?fmin, fun o => ?fmax, fun o => ?fminp,
    fun o => ?fmaxp, fun o => ?fdiv, fun o => ?fsqrt, fun o => ?fcmp, fun s c o h => ?fabs, fun s c o h => ?fneg, fun s c o h => ?fcopys⟩
  case fabs => exact laneWrite_of h rfl fun _ l => congrArg (l.setV _) (word_mod_half _)
  case fneg => exact laneWrite_of h rfl fun _ _ => rfl
  case fcopys => exact laneWrite_of h rfl fun _ l => congrArg (fun x => l.setV _ (x ||| _)) (word_mod_half _)
  case fadd | fsub | fmul | ffma | fmin | fmax | fminp | fmaxp | fdiv | fsqrt | fcmp => exact computesF_of (fun _ => rfl) fun _ _ => rfl

/-! ### Function instructions (R304, R305) -/

theorem fnRcp_nan {z : Bool} {a : Nat} {x : Bool} (nan : f32.value z a = .nan x) :
    fnRcp z a = { bits := 0x7FC00000, flags := if x then flagIV else 0 } := by
  have one : f32.value z 0x3F800000 = .fin false (2 ^ 23) (-23) := by cases z <;> rfl
  rw [fnRcp, Fmt.div, one, nan]
  rfl

/-- A NaN operand gives the canonical NaN, with IV where it signals. -/
theorem functions_nan : ∀ f ∈ [fnRcp, fnRsq, fnExp2, fnLog2, fnSinr, fnCosr, fnTanh, f32.rint 0, f32.fract 0],
    ∀ (z : Bool) (a : Nat) (x : Bool), f32.value z a = .nan x → f z a = { bits := 0x7FC00000, flags := if x then flagIV else 0 } := by
  intro f hf z a x nan
  simp only [List.mem_cons, List.not_mem_nil, or_false] at hf
  rcases hf with rfl | rfl | rfl | rfl | rfl | rfl | rfl | rfl | rfl
  · exact fnRcp_nan nan
  all_goals
    simp only [fnRsq, fnExp2, fnExp2In, fnLog2, fnSinr, fnCosr, fnTanh, Fmt.rint, Fmt.fract, nan]
    rfl

section
variable (z : Bool)

theorem fnRcp_special :
    fnRcp z 0 = { bits := 0x7F800000, flags := flagDZ } ∧ fnRcp z 0x80000000 = { bits := 0xFF800000, flags := flagDZ } ∧
    fnRcp z 0x7F800000 = { bits := 0, flags := 0 } ∧ fnRcp z 0xFF800000 = { bits := 0x80000000, flags := 0 } := by
  cases z <;> decide

theorem fnRsq_special :
    fnRsq z 0 = { bits := 0x7F800000, flags := flagDZ } ∧ fnRsq z 0x80000000 = { bits := 0xFF800000, flags := flagDZ } ∧
    fnRsq z 0xBF800000 = { bits := 0x7FC00000, flags := flagIV } ∧ fnRsq z 0x7F800000 = { bits := 0, flags := 0 } := by
  cases z <;> decide

theorem fnExp2_special :
    fnExp2 z 0xFF800000 = { bits := 0, flags := 0 } ∧ fnExp2 z 0x7F800000 = { bits := 0x7F800000, flags := 0 } ∧
    fnExp2 z 0 = { bits := 0x3F800000, flags := 0 } ∧ fnExp2 z 0x80000000 = { bits := 0x3F800000, flags := 0 } := by
  cases z <;> decide

theorem fnLog2_special :
    fnLog2 z 0 = { bits := 0xFF800000, flags := flagDZ } ∧ fnLog2 z 0x80000000 = { bits := 0xFF800000, flags := flagDZ } ∧
    fnLog2 z 0xBF800000 = { bits := 0x7FC00000, flags := flagIV } ∧
    fnLog2 z 0x7F800000 = { bits := 0x7F800000, flags := 0 } ∧ fnLog2 z 0x3F800000 = { bits := 0, flags := 0 } := by
  cases z <;> decide

theorem fnSinr_special :
    fnSinr z 0x7F800000 = { bits := 0x7FC00000, flags := flagIV } ∧
    fnSinr z 0x80000000 = { bits := 0x80000000, flags := 0 } ∧ fnSinr z 0x3E800000 = { bits := 0x3F800000, flags := 0 } := by
  cases z <;> decide

theorem fnCosr_special :
    fnCosr z 0x3E800000 = { bits := 0, flags := 0 } ∧
    fnCosr z 0xFF800000 = { bits := 0x7FC00000, flags := flagIV } := by
  cases z <;> decide

theorem fnTanh_special :
    fnTanh z 0x7F800000 = { bits := 0x3F800000, flags := 0 } ∧ fnTanh z 0xFF800000 = { bits := 0xBF800000, flags := 0 } ∧
    fnTanh z 0 = { bits := 0, flags := 0 } ∧ fnTanh z 0x80000000 = { bits := 0x80000000, flags := 0 } := by
  cases z <;> decide

end

/-- Settles O22: each instruction is its function on the lanes; a NaN by the function's first case, the other special values one by one. -/
theorem functionInstructions : Obligations.FunctionInstructions := by
  unfold Obligations.FunctionInstructions
  intro unary
  refine ⟨fun o => ?rcp, fun o => ?rsq, fun o => ?exp2, fun o => ?log2, fun o => ?sinr, fun o => ?cosr, fun o => ?tanh, fun o => ?floor,
    fun o => ?ceil, fun o => ?trunc, fun o => ?rint, fun o => ?fract, functions_nan, fun z => ?special⟩
  case special =>
    obtain ⟨rcp0, rcp1, rcp2, rcp3⟩ := fnRcp_special z
    obtain ⟨rsq0, rsq1, rsq2, rsq3⟩ := fnRsq_special z
    obtain ⟨exp0, exp1, exp2, exp3⟩ := fnExp2_special z
    obtain ⟨log0, log1, log2, log3, log4⟩ := fnLog2_special z
    obtain ⟨sin0, sin1, sin2⟩ := fnSinr_special z
    obtain ⟨cos0, cos1⟩ := fnCosr_special z
    exact ⟨rcp0, rcp1, rcp2, rcp3, rsq0, rsq1, rsq2, rsq3, exp0, exp1, exp2, exp3, log0, log1, log2, log3, log4, sin0, sin1, sin2, cos0,
      cos1, fnTanh_special z⟩
  case rcp | rsq | exp2 | log2 | sinr | cosr | tanh | floor | ceil | trunc | rint | fract =>
    exact computesF_of (fun _ => rfl) fun _ _ => rfl

/-! ### Packed halves and pairs (R307, R308) -/

theorem toNat_extractLsb'_low (a : Word) : (a.extractLsb' 0 16).toNat = a.toNat % 2 ^ 16 := by
  rw [BitVec.extractLsb'_toNat, Nat.shiftRight_zero]

theorem toNat_extractLsb'_high (a : Word) : (a.extractLsb' 16 16).toNat = a.toNat / 2 ^ 16 := by
  rw [BitVec.extractLsb'_toNat, Nat.shiftRight_eq_div_pow]
  omega

/-- An operation on both halves of its sources. -/
theorem packed_eq (f : Nat → Nat → Nat → FpR) (a b d : Word) :
    packed f a b d =
      let half (k : Nat) : FpR := f (a.extractLsb' k 16).toNat (b.extractLsb' k 16).toNat (d.extractLsb' k 16).toNat
      { bits := (half 16).bits * 2 ^ 16 + (half 0).bits, flags := (half 16).flags ||| (half 0).flags } := by
  simp only [packed, toNat_extractLsb'_low, toNat_extractLsb'_high]

/-- An operation of two sources leaves the third alone. -/
theorem packed_two (f : Nat → Nat → FpR) (a b d e : Word) : packed (fun x y _ => f x y) a b d = packed (fun x y _ => f x y) a b e := rfl

/-- Settles O23: each instruction is its operation on the halves of the lanes' registers. -/
theorem packedArithmetic : Obligations.PackedArithmetic := by
  unfold Obligations.PackedArithmetic
  intro halves of
  have three {i : OpG → Instr} {f : Nat → Bool → Nat → Nat → Nat → FpR}
      (run : ∀ o s, exec (i o) s = s.issue (i o) fun c => s.fpLanes c fun l =>
        (packed (f c.t.rm c.t.ftz) (l.getV o.a.toNat) (l.getV o.b.toNat) (l.getV o.d.toNat)).toV l o.d.toNat) : halves i f :=
    fun o => computesF_of (run o) fun c l => congrArg (fun r => FpR.toV r l o.d.toNat) (packed_eq _ _ _ _)
  have two {i : OpG → Instr} {f : Nat → Bool → Nat → Nat → FpR}
      (run : ∀ o s, exec (i o) s = s.issue (i o) fun c => s.fpLanes c fun l =>
        (packed (fun a b _ => f c.t.rm c.t.ftz a b) (l.getV o.a.toNat) (l.getV o.b.toNat) 0).toV l o.d.toNat) :
      halves i fun rm z a b _ => f rm z a b :=
    fun o => computesF_of (run o) fun c l =>
      congrArg (fun r => FpR.toV r l o.d.toNat) ((packed_two _ _ _ 0 (l.getV o.d.toNat)).trans (packed_eq _ _ _ _))
  have minmax {i : OpG → Instr} {f : Fmt} {max : Bool}
      (run : ∀ o s, exec (i o) s = s.issue (i o) fun c => s.fpLanes c fun l =>
        (packed (fun a b _ => f.minmax max false c.t.ftz a b) (l.getV o.a.toNat) (l.getV o.b.toNat) 0).toV l o.d.toNat) :
      halves i fun _ z a b _ => f.minmax max false z a b :=
    two (f := fun _ => f.minmax max false) run
  constructor
  · exact ⟨two fun _ _ => rfl, two fun _ _ => rfl, two fun _ _ => rfl, three fun _ _ => rfl, minmax fun _ _ => rfl,
      minmax fun _ _ => rfl⟩
  · exact ⟨two fun _ _ => rfl, two fun _ _ => rfl, two fun _ _ => rfl, three fun _ _ => rfl, minmax fun _ _ => rfl,
      minmax fun _ _ => rfl⟩

/-- Settles O24: each instruction is its f64 operation on the lanes' pairs, FTZ left out. -/
theorem doubleArithmetic : Obligations.DoubleArithmetic := by
  unfold Obligations.DoubleArithmetic
  intro binary
  refine ⟨fun o => ?dadd, fun o => ?dsub, fun o => ?dmul, fun o => ?ddiv, fun o => ?dmin, fun o => ?dmax, fun o => ?dfma, fun o => ?dsqrt,
    fun o => ?dcmp⟩
  case dadd | dsub | dmul | ddiv | dmin | dmax | dfma | dsqrt | dcmp => exact computesF_of (fun _ => rfl) fun _ _ => rfl

/-! ### Conversions (R233, R309) -/

/-- The rounding mode of CVT: that of RMO, or FPC.RM. -/
theorem roundingMode_eq (rmo : BitVec 2) (rm : Nat) :
    (if rmo = 0 then rm else if rmo = 1 then 0 else if rmo = 2 then 1 else 3) =
      match rmo.toNat with | 0 => rm | 1 => 0 | 2 => 1 | _ => 3 := by
  obtain ⟨⟨n, hn⟩⟩ := rmo
  interval_cases n <;> rfl

theorem intOf_width {code : Nat} {i : Nat × Bool} (h : intOf code = some i) : 0 < i.1 := by
  unfold intOf at h
  split at h <;> cases h <;> decide

section
variable (i : Nat × Bool) (x : Int)

theorem natCast_bitsOfInt : (bitsOfInt i.1 x : Int) = x % (2 ^ i.1 : Nat) :=
  Int.toNat_of_nonneg (Int.emod_nonneg _ (by positivity))

theorem bitsOfInt_lt : bitsOfInt i.1 x < 2 ^ i.1 := by
  have small := Int.emod_lt_of_pos x (b := (2 ^ i.1 : Nat)) (by positivity)
  rw [← natCast_bitsOfInt] at small
  exact_mod_cast small

/-- The bits of a number hold it modulo 2 to their width. -/
theorem dvd_intOfBits_bitsOfInt : (2 : Int) ^ i.1 ∣ intOfBits i (bitsOfInt i.1 x) - x := by
  have whole : ((2 ^ i.1 : Nat) : Int) = 2 ^ i.1 := by norm_cast
  have low : (2 : Int) ^ i.1 ∣ (bitsOfInt i.1 x : Int) - x := by
    rw [natCast_bitsOfInt, whole]
    exact Int.dvd_emod_sub_self
  unfold intOfBits
  rw [Nat.mod_eq_of_lt (bitsOfInt_lt i x)]
  dsimp only
  split
  · rw [whole, sub_right_comm]
    exact dvd_sub_self_right.2 low
  · exact low

variable {i x} (wide : 0 < i.1)
include wide

/-- A number in an integer type is between its bounds. -/
theorem intOfBits_range (b : Nat) : intMin i ≤ intOfBits i b ∧ intOfBits i b ≤ intMax i := by
  have half := Nat.two_pow_pred_mul_two wide
  have small := Nat.mod_lt b (Nat.two_pow_pos i.1)
  have pos := Nat.two_pow_pos (i.1 - 1)
  unfold intMin intMax intOfBits
  rw [← half] at small ⊢
  cases i.2
  · simp only [Bool.false_eq_true, false_and, if_false]
    omega
  · simp only [true_and, if_true]
    split <;> omega

theorem intMin_le_intMax : intMin i ≤ intMax i :=
  (intOfBits_range wide 0).1.trans (intOfBits_range wide 0).2

/-- Numbers between the bounds of a type differ by less than 2 to its width. -/
theorem intMax_sub_intMin : intMax i - intMin i < 2 ^ i.1 := by
  have half := Nat.two_pow_pred_mul_two wide
  have pos := Nat.two_pow_pos (i.1 - 1)
  have whole : ((2 ^ i.1 : Nat) : Int) = 2 ^ i.1 := by norm_cast
  rw [← whole]
  unfold intMin intMax
  rw [← half]
  cases i.2
  · simp only [Bool.false_eq_true, if_false]
    omega
  · simp only [if_true]
    omega

theorem intOfBits_bitsOfInt (low : intMin i ≤ x) (high : x ≤ intMax i) : intOfBits i (bitsOfInt i.1 x) = x := by
  obtain ⟨low', high'⟩ := intOfBits_range wide (bitsOfInt i.1 x)
  have span := intMax_sub_intMin wide
  exact Int.sub_eq_zero.1 (Int.eq_zero_of_abs_lt_dvd (dvd_intOfBits_bitsOfInt i x) (abs_lt.2 ⟨by omega, by omega⟩))

theorem clampInt_eq : clampInt x (intMin i) (intMax i) = max (intMin i) (min x (intMax i)) := by
  have order := intMin_le_intMax wide
  unfold clampInt
  omega

end

theorem clampInt_of_between {x lo hi : Int} (low : lo ≤ x) (high : x ≤ hi) : clampInt x lo hi = x := by
  rw [clampInt, if_neg low.not_gt, if_neg high.not_gt]

theorem convert_integers {src dst : Nat} {i j : Nat × Bool} (hi : intOf src = some i) (hj : intOf dst = some j) (sat : Bool) (rm : Nat)
    (z : Bool) (b : Nat) :
    convert src dst sat rm z b =
      { bits := bitsOfInt j.1 (if sat then clampInt (intOfBits i b) (intMin j) (intMax j) else intOfBits i b), flags := 0 } := by
  simp only [convert, hi, hj]

/-- Settles O25: CVT by where it reads and writes; an integer by its bits, which hold it modulo 2 to their width. -/
theorem conversions : Obligations.Conversions := by
  unfold Obligations.Conversions
  refine ⟨fun o x => computesF_of (fun _ => rfl) fun c l => ?cvt, fun src dst i j hi hj sat rm z b => ?integers⟩
  case cvt =>
    rw [roundingMode_eq]
    simp only [cvtWrite, decide_eq_true_eq]
    split <;> rfl
  case integers =>
    have wide := intOf_width hj
    have order := intMin_le_intMax wide
    rw [convert_integers hi hj]
    refine ⟨rfl, bitsOfInt_lt j _, fun low high => ?_, fun clamps => ?_, fun wraps => ?_⟩
    · rw [clampInt_of_between low high, ite_self, intOfBits_bitsOfInt wide low high]
    · rw [if_pos clamps, clampInt_eq wide, intOfBits_bitsOfInt wide (le_max_left _ _) (max_le order (min_le_right _ _))]
    · rw [wraps]
      exact dvd_intOfBits_bitsOfInt j _

end Sys2Proof.Machine
end
